-- ==== Sys2Proof/Word.lean ====
section
/-! DEFINITION. The word types of the ZA-D40-01 and the names of bytes, half words, words and double words. -/

namespace Sys2Proof

/-- One byte; memory is little-endian (R3). -/
abbrev Byte := BitVec 8

/-- A 32-bit register element (R135). -/
abbrev Word := BitVec 32

/-- A 64-bit value: a register pair (R135) or a c register (R162). -/
abbrev DWord := BitVec 64

/-- A 96-bit instruction slot (R155). -/
abbrev SlotBits := BitVec 96

/-- A half-op of a paired slot, 48 bits (R179). -/
abbrev HalfBits := BitVec 48

end Sys2Proof
end

