-- ==== Sys2Proof/Config.lean ====
section
/-! DEFINITION. What an implementation of the module fixes and the manual leaves open: every value here has no body, so nothing can be proved of it and every claim holds whatever it is. -/

namespace Sys2Proof

/-- A fresh free value, applied to the counter `fresh` of State (log entry 6). -/
opaque Config.freeBits : Nat → BitVec 64

/-- A fresh free choice among alternatives, applied to the counter `fresh` of State (log entries 6 and 9). -/
opaque Config.freeNat : Nat → Nat

/-- The fixed function of each approximating transcendental (R228): instruction number 0 FRCP, 1 FRSQ,
3 FEXP2, 4 FLOG2, 5 FSIN, 6 FCOS, 7 FTANH, then the numeric type code, then the operand's bits (log entry 7). -/
opaque Config.transcendental : Nat → Nat → BitVec 64 → BitVec 64

/-- SHA-384, an outside standard that R463, R467 and R468 name (log entry 8). -/
opaque Config.sha384 : List (BitVec 8) → BitVec 384

/-- ECDSA P-384 verification over a SHA-384 digest under a numbered key, as R467 and R469 name it (log entry 8). -/
opaque Config.ecdsaVerify : Nat → BitVec 384 → BitVec 768 → Bool

/-- ECDSA P-384 signing with the module's own key, as R463 names it (log entry 8). -/
opaque Config.ecdsaSign : List (BitVec 8) → BitVec 768

/-- The die that carries a peer port (R453, R457), which the manual leaves open (log entry 6). -/
opaque Config.portDie : Nat → Nat

/-- Where firmware's search for a relay core starts, by the defect map and the two cores (R632, log entry 9). -/
opaque Config.relayStart : List (List Nat) → Nat → Nat → Nat

/-- A figure that firmware measures, by its kind, die and index (R13, R32, R42, R60, log entry 75). -/
opaque Config.figure : Nat → Nat → Nat → Nat

/-- The GiB of a die's remote-data cache (R46, R284, log entry 75). -/
opaque Config.rdcGib : Nat → Nat

/-- The module's certificate (R463, log entry 8). -/
opaque Config.certificate : List (BitVec 8)

/-- The set of a cluster's translation cache in which a leaf stands, by its address space, base and size (R260, log entry 85). -/
opaque Config.tcSet : Nat → Nat → Nat → Nat

/-- The frame with which the control node fills a die's free-frame pool, by the die, the low bit of the page size and how often the pool
was filled; none for an empty pool (R263, log entry 55). -/
opaque Config.poolFrame : Nat → Nat → Nat → Option Nat

/-- Whether firmware holds a loader key (R468, R469, log entry 8). -/
opaque Config.keyKnown : Nat → Bool

end Sys2Proof
end

