-- ==== Sys2Proof/Syntax.lean ====
section
/-! DEFINITION. The instructions and machine events of the ZA-D40-01: one constructor of Instr for each row of spec/opcode_table.json, with the records that carry their fields. -/

namespace Sys2Proof

/-! ### Fields of the slot formats (R161 to R182) -/

/-- A 9-bit operand specifier (R161): a per-lane register, a uniform register (a c register or half of a buffer
record on a scalar core, R162), an inline constant, an inline integer, or a reserved code. -/
inductive Opnd where
  | v (n : BitVec 8)
  | s (n : BitVec 6)
  | const (n : BitVec 6)
  | int (n : BitVec 6)
  | resv (n : BitVec 6)
  deriving DecidableEq, Repr

/-- The V3 format (R169). `z` is the reserved field, which must be zero. -/
structure V3 where
  ty : BitVec 4
  rnd : BitVec 3
  dst : Opnd
  a : Opnd
  pa : BitVec 7
  b : Opnd
  pb : BitVec 7
  c : Opnd
  pc : BitVec 7
  nabs : BitVec 6
  sub : BitVec 6
  flags : BitVec 4
  z : BitVec 8
  deriving DecidableEq, Repr

/-- The VI format (R170). -/
structure VI where
  ty : BitVec 4
  rnd : BitVec 3
  dst : Opnd
  a : Opnd
  pa : BitVec 7
  b : Opnd
  pb : BitVec 7
  sub : BitVec 4
  nabs : BitVec 4
  imm : BitVec 32
  deriving DecidableEq, Repr

/-- The U format (R171). -/
structure UF where
  ty : BitVec 4
  sub : BitVec 6
  dst : Opnd
  a : Opnd
  b : Opnd
  c : Opnd
  useImm : BitVec 1
  z : BitVec 9
  imm : BitVec 32
  deriving DecidableEq, Repr

/-- The M format (R172). -/
structure MF where
  ty : BitVec 4
  scope : BitVec 4
  order : BitVec 2
  data : Opnd
  index : Opnd
  brec : BitVec 4
  sub : BitVec 6
  count : BitVec 2
  offset : BitVec 16
  c : Opnd
  flags : BitVec 3
  z1 : BitVec 1
  route : BitVec 6
  z : BitVec 13
  deriving DecidableEq, Repr

/-- The X format (R173). -/
structure XF where
  ty : BitVec 4
  sub : BitVec 6
  a : Opnd
  b : Opnd
  c : Opnd
  tile : BitVec 6
  bind : BitVec 1
  bar : BitVec 17
  route : BitVec 6
  flags : BitVec 5
  z : BitVec 16
  deriving DecidableEq, Repr

/-- The B format (R174). -/
structure BF where
  sub : BitVec 4
  kind : BitVec 3
  cond : Opnd
  link : Opnd
  delta : BitVec 21
  slot : BitVec 3
  depth : BitVec 6
  neg : BitVec 1
  z : BitVec 32
  deriving DecidableEq, Repr

/-- The MX format (R175). -/
structure MXF where
  ta : BitVec 4
  tb : BitVec 4
  acc : BitVec 3
  tile : BitVec 6
  qcore : BitVec 2
  sub : BitVec 6
  a : Opnd
  b : Opnd
  c : Opnd
  flags : BitVec 4
  z : BitVec 32
  deriving DecidableEq, Repr

/-- The G format (R176). -/
structure GF where
  ty : BitVec 4
  sub : BitVec 6
  dst : Opnd
  a : Opnd
  b : Opnd
  c : Opnd
  brec : BitVec 4
  count : BitVec 8
  flags : BitVec 6
  z : BitVec 24
  deriving DecidableEq, Repr

/-- The S format (R177). -/
structure SF where
  ty : BitVec 4
  scope : BitVec 4
  order : BitVec 2
  dst : Opnd
  a : Opnd
  b : Opnd
  code : BitVec 16
  sub : BitVec 6
  z : BitVec 29
  deriving DecidableEq, Repr

/-- The defined half-ops of R200. In the CVT entries the half-op fixes the source type. -/
inductive HalfOp where
  | mov | iadd | isub | imul | imin | imax | ineg
  | fadd | fmul | fmin | fmax | fldexp | frint | fclass | iabs
  | and | andn | or | orn | xor | not | shl | shr
  | shra | rotl | brev | clz | ffs | popc | imulh
  | frcp | frsq | fsqrt | fexp2 | flog2 | fsin | fcos | ftanh
  | cvtF32 | cvtF16 | cvtBF16 | cvtI32 | cvtF64
  deriving DecidableEq, Repr

/-- One half of a paired slot (R179). -/
structure Half where
  op : HalfOp
  ty : BitVec 4
  dst : BitVec 8
  a : BitVec 8
  pa : BitVec 7
  b : BitVec 8
  pb : BitVec 7
  deriving DecidableEq, Repr

/-! ### Names of agents and places -/

/-- A core: a vector core by die, column and physical row (R17); the control core of a cluster (R21); the
dispatch core of a die (R401). -/
inductive CoreId where
  | vec (die col prow : Nat)
  | ctl (die cluster : Nat)
  | disp (die : Nat)
  deriving DecidableEq, Repr

/-- A grid, named by the die of its lead dispatch core and its launch number (R407). -/
structure GridId where
  lead : Nat
  lid : Nat
  deriving DecidableEq, Repr

/-- A team of a grid by rank (R94). -/
structure TeamId where
  grid : GridId
  rank : Nat
  deriving DecidableEq, Repr

/-- A group of a team (R92). -/
structure GroupId where
  team : TeamId
  num : Nat
  deriving DecidableEq, Repr

/-- A logical time: a tick with the epoch in which it is stated (R278, R297). -/
structure Stamp where
  ep : BitVec 2
  tick : Nat
  deriving DecidableEq, Repr

/-- One of the scopes of R7. -/
inductive Scope where
  | group | core | die | panel | system
  deriving DecidableEq, Repr

/-- One of the orders of R6. -/
inductive Order where
  | rlx | acq | rel | ar
  deriving DecidableEq, Repr

/-- The update an atomic performs (R482). -/
inductive AtomOp where
  | add | fadd | faddo | min | max | and | or | xor | xchg | cas | inc | dec
  deriving DecidableEq, Repr

/-- How an atomic reads its word: signed, unsigned, floating or bits (R482). -/
inductive AtomClass where
  | signed | unsigned | floating | bits
  deriving DecidableEq, Repr

/-- The statuses of R355. -/
inductive Status where
  | ok | bounds | align | page | prot | route | cancel | poison
  deriving DecidableEq, Repr

/-! ### Payloads of coherence messages (R291, R329, R336) -/

/-- Who sent a request to a home and waits for its answer. `op` numbers the operation of that agent. -/
inductive Who where
  | core (c : CoreId)
  | engine (c : CoreId) (op : Nat)
  | port (tag : Nat)
  deriving DecidableEq, Repr

/-- READ and RENEWQ (R281, R282, R327): the line, the requester, its `%now`, the lease class in ticks, the scope of a
promotion and the frame and size of a replicated page. `wts` is the copy's WTS in a RENEWQ and `ref` numbers the
request. A request that a remote-data cache makes for its own copy (R284) carries in `fill` the WTS of the request that
it serves, with tick 0 for a READ. -/
structure LineReq where
  line : Nat
  src : CoreId
  now : Stamp
  wts : Stamp
  lease : Nat
  promote : Option Scope
  page : Option (Nat × Nat)
  ref : Nat
  fill : Option Stamp
  deriving DecidableEq, Repr

/-- DATA (R291): 128 bytes, sector poison, WTS and the copy's RTS; YNOW when a promotion recalled a holder (R328).
`via` is the request of a core that a remote-data cache answers with this reply (R284). -/
structure DataMsg where
  line : Nat
  dst : CoreId
  bytes : BitVec 1024
  poison : BitVec 4
  wts : Stamp
  rts : Stamp
  ynow : Option Stamp
  repl : Bool
  ref : Nat
  via : Option LineReq
  deriving DecidableEq, Repr

/-- EXTEND (R291). -/
structure ExtendMsg where
  line : Nat
  dst : CoreId
  rts : Stamp
  ynow : Option Stamp
  ref : Nat
  via : Option LineReq
  deriving DecidableEq, Repr

/-- CPBK (R285): the byte mask, the bytes, the poison of each word, and the sender's `%now`. `ref` numbers the copy-back. -/
structure CpbkMsg where
  line : Nat
  who : Who
  mask : BitVec 128
  bytes : BitVec 1024
  poison : BitVec 32
  now : Stamp
  ref : Nat
  deriving DecidableEq, Repr

/-- CPBKACK (R285). `mask` is that of the CPBK which it answers. -/
structure AckMsg where
  line : Nat
  who : Who
  wts : Stamp
  ref : Nat
  mask : BitVec 128
  deriving DecidableEq, Repr

/-- ATOMQ (R288): the physical address, the operation and its operands, the sender's `%now`, and whether the atomic
registers its core as holder (R325). -/
structure AtomMsg where
  addr : Nat
  wide : Bool
  op : AtomOp
  cls : AtomClass
  a : BitVec 64
  c : BitVec 64
  who : Who
  now : Stamp
  holds : Bool
  promote : Option Scope
  ref : Nat
  lane : Nat
  deriving DecidableEq, Repr

/-- ATOMA (R288): the old value with its poison, and the new WTS. -/
structure AtomAns where
  who : Who
  old : BitVec 64
  poison : Bool
  wts : Stamp
  ynow : Option Stamp
  ref : Nat
  lane : Nat
  deriving DecidableEq, Repr

/-- HOLD and UNHOLD (R325, R326). -/
structure HoldMsg where
  line : Nat
  core : CoreId
  ref : Nat
  deriving DecidableEq, Repr

/-- RECALL (R328). -/
structure RecallMsg where
  line : Nat
  holder : CoreId
  scope : Scope
  deriving DecidableEq, Repr

/-- YIELD (R328): the dirty words of the recalled line and the holder's `%now`. -/
structure YieldMsg where
  line : Nat
  core : CoreId
  mask : BitVec 128
  bytes : BitVec 1024
  poison : BitVec 32
  ynow : Stamp
  deriving DecidableEq, Repr

/-- PREP, PREPACK and COMMITACK (R334): the line, the writing engine operation and a stamp. -/
structure UnitMsg where
  line : Nat
  core : CoreId
  op : Nat
  stamp : Stamp
  deriving DecidableEq, Repr

/-- COMMIT (R334). -/
structure CommitMsg where
  line : Nat
  core : CoreId
  op : Nat
  stamp : Stamp
  mask : BitVec 128
  bytes : BitVec 1024
  poison : BitVec 32
  deriving DecidableEq, Repr

/-- DROP and DROPACK (R305): the page frame and its size in bytes, and the replica die. -/
structure DropMsg where
  home : Nat
  die : Nat
  frame : Nat
  size : Nat
  deriving DecidableEq, Repr

/-- An ordered contribution (R235, R236): the element's physical address and width, the value with its poison, the
contributor's team and lane rank, its carried `%now`, and whether it registers its core as holder (R325). -/
structure Contribution where
  addr : Nat
  wide : Bool
  value : BitVec 64
  poison : Bool
  grid : GridId
  teamRank : Nat
  laneRank : Nat
  who : Who
  now : Stamp
  ref : Nat
  holds : Bool
  deriving DecidableEq, Repr

/-- ACCEPT and APPLY (R335, R336). -/
structure BenchAns where
  who : Who
  wts : Stamp
  ref : Nat
  deriving DecidableEq, Repr

/-! ### Payloads of peer, packet and barrier messages -/

/-- A packet (R357): tag, sender's team rank, sender's `%now`, payload bytes with poison by byte. -/
structure Packet where
  tag : BitVec 16
  rank : Nat
  now : Stamp
  payload : List (Byte × Bool)
  deriving DecidableEq, Repr

/-- A packet on its way along a route (R357). -/
structure PacketMsg where
  src : CoreId
  op : Nat
  route : Nat
  dst : CoreId
  grid : GridId
  packet : Packet
  deriving DecidableEq, Repr

/-- What a peer access does at the target store (R488, R557, R606). -/
inductive PeerKind where
  | load (width count : Nat)
  | store (width : Nat) (values : List (BitVec 64))
  | atom (op : AtomOp) (cls : AtomClass) (wide : Bool) (a c : BitVec 64)
  deriving DecidableEq, Repr

/-- A request of LDP, STP or ATOMP for one lane (R488). `carry` is the sender's `%now` under R316. -/
structure PeerReq where
  src : CoreId
  group : GroupId
  op : Nat
  lane : Nat
  route : Nat
  dst : CoreId
  addr : Nat
  kind : PeerKind
  carry : Option Stamp
  deriving DecidableEq, Repr

/-- The reply to a peer access: values with poison, or undeliverable (R37, R488). -/
structure PeerAns where
  src : CoreId
  group : GroupId
  op : Nat
  lane : Nat
  route : Nat
  values : List (BitVec 64 × Bool)
  delivered : Bool
  deriving DecidableEq, Repr

/-- One XPEER write of a whole word at the target segment (R619). -/
structure XpeerMsg where
  src : CoreId
  op : Nat
  dst : CoreId
  grid : GridId
  addr : Nat
  value : Word
  poison : Bool
  now : Stamp
  route : Nat
  deriving DecidableEq, Repr

/-- What reaches a barrier object from another core (R356, R493, R497). -/
inductive ArriveKind where
  | arrive | drop | forward | wait (parity : Bool)
  deriving DecidableEq, Repr

/-- An arrival, a forwarded completion or a wait request for a remote object (R356). -/
structure ArriveMsg where
  src : CoreId
  group : GroupId
  srcObj : Nat
  dst : CoreId
  addr : Nat
  kind : ArriveKind
  lanes : BitVec 32
  route : Nat
  deriving DecidableEq, Repr

/-- LEAVE for a count-only object (R354): from an ending team, or from a first-level object at a core. It
travels on route `route` of core `src`, 64 for an object that the core reaches itself. -/
structure LeaveMsg where
  src : CoreId
  route : Nat
  dst : CoreId
  team : TeamId
  addr : Nat
  obj : Option (CoreId × Nat)
  deriving DecidableEq, Repr

/-- The answer to a remote arrival (R356, R493): 0 is success, otherwise a BARRIER detail. `leave` is the LEAVE still owed by a
team whose DROP trapped (R354). -/
structure ArriveAns where
  dst : CoreId
  group : GroupId
  obj : Nat
  forward : Bool
  detail : Nat
  lanes : BitVec 32
  leave : Option LeaveMsg
  deriving DecidableEq, Repr

/-- A message that a receiver refused and its sender resends 64 clk later (R237, R357, R450). -/
inductive Resend where
  | bench (c : Contribution)
  | packet (p : PacketMsg)
  | peer (r : PeerReq)
  | xpeer (x : XpeerMsg)
  | arrive (a : ArriveMsg)
  | line (r : LineReq) (renew : Bool)
  | atom (m : AtomMsg)
  | cpbk (m : CpbkMsg)
  deriving DecidableEq, Repr

/-! ### Payloads of graphics events -/

/-- A primitive packet (R373): TOKEN, its 64 or 128 bytes, the tiles of the die that its box touches, and the sender's `%now`
after its release (R504). -/
structure PrimPacket where
  token : BitVec 64
  wide : Bool
  bytes : List Byte
  tiles : List Nat
  now : Stamp
  deriving DecidableEq, Repr

/-- A packet on its way to a binner (R374). -/
structure BinMsg where
  die : Nat
  grid : GridId
  packet : PrimPacket
  deriving DecidableEq, Repr

/-- A close on its way to a binner (R375). -/
structure CloseMsg where
  die : Nat
  grid : GridId
  rank : Nat
  draw : Nat
  deriving DecidableEq, Repr

/-! ### Payloads of launch and host events -/

/-- A control message (R402): LEN, SEQ, TAG, whether a reserved byte of the header is set, and the code lines. -/
structure ControlMsg where
  len : Int
  seq : BitVec 32
  tag : BitVec 64
  reservedSet : Bool
  code : List (BitVec 512)
  deriving DecidableEq, Repr

/-- A LAUNCH request (R406, R636), and how far the dispatch core that holds it has read its record: whether it has begun, and the parts
that have come, each with its address and its bytes, or none where the read failed. -/
structure LaunchReq where
  src : CoreId
  group : GroupId
  dstReg : Nat
  record : Nat
  now : Stamp
  begun : Bool := false
  got : List (Nat × Option (List Byte)) := []
  deriving DecidableEq, Repr

/-- A LAUNCH reply (R406, R407). -/
structure LaunchAns where
  dst : CoreId
  group : GroupId
  dstReg : Nat
  status : Word
  deriving DecidableEq, Repr

/-- A notice to a registered semaphore waiter (R416, R596): a waiting group with the number of its wait, or a wait of a
queued launch. -/
structure SemNotice where
  core : CoreId
  group : GroupId
  ref : Nat
  launch : Option (GridId × Nat)
  value : BitVec 64
  wts : Stamp
  deriving DecidableEq, Repr

/-- A window request (R455, R456). -/
structure WindowReq where
  die : Nat
  tag : BitVec 64
  addr : Nat
  size : Nat
  mask : BitVec 128
  bytes : BitVec 1024
  value : BitVec 64
  deriving DecidableEq, Repr

/-- The answer to an upstream window request (R456). -/
structure UpAns where
  tag : BitVec 64
  status : Nat
  old : BitVec 64
  bytes : List Byte
  deriving DecidableEq, Repr

/-- A peer frame of EtherType 0x88B5 (R458). -/
structure PeerFrame where
  port : Nat
  seq : BitVec 32
  addr : Nat
  value : BitVec 64
  post : BitVec 32
  status : Nat
  payload : List Byte
  good : Bool
  deriving DecidableEq, Repr

/-- What a die loses with its clock (R71): the parent's forwarded clock or the external reference, the lock of its own PLL, or the edge to
its parent. -/
inductive LossCause where
  | parent | pll | edge
  deriving DecidableEq, Repr

/-- The loss of the clock of a die (R71 to R73). -/
structure ClockLoss where
  die : Nat
  cause : LossCause
  deriving DecidableEq, Repr

/-- What a PTP frame is (R85). -/
inductive PtpKind where
  | sync | followUp | delayReq | delayResp | announce | other
  deriving DecidableEq, Repr

/-- A PTP frame at a peer port (R85, R86): whether it is one-step, and the master's timestamp that a Follow_Up or a Delay_Resp carries, in
units of 2^-16 ns. -/
structure PtpFrame where
  port : Nat
  kind : PtpKind
  domain : Nat
  oneStep : Bool
  time : Int
  deriving DecidableEq, Repr

/-- A register write judged against the access tables (R464): the master, the die, the offset from the first
block and the value. -/
structure RegWrite where
  master : Nat
  die : Nat
  offset : Nat
  size : Nat
  value : BitVec 64
  deriving DecidableEq, Repr

/-- For whom a page walk runs: a group before its instruction, an operation of a copy engine or a graphics unit, or a dispatch core that
reads the record of a group's launch or the semaphores of a grid (R262, R267, R408, R416). -/
inductive WalkFor where
  | group (c : CoreId) (g : GroupId)
  | engine (op : Nat)
  | unit (op : Nat)
  | launch (c : CoreId) (g : GroupId)
  | grid (g : GridId)
  deriving DecidableEq, Repr

/-- A page walk: for whom, the core whose caches missed, the address space and its tables, the virtual line and the access kind (R261 to
R263, R454). -/
structure WalkReq where
  owner : WalkFor
  core : CoreId
  asid : Nat
  troot : Nat
  dstab : Nat
  va : Nat
  kind : Nat
  deriving DecidableEq, Repr

/-- A failed element of the mesh (R36): a router, or its link in a direction (0 N, 1 E, 2 S, 3 W). -/
structure MeshFault where
  die : Nat
  col : Nat
  prow : Nat
  link : Option Nat
  deriving DecidableEq, Repr

/-- What a parity error hit (R438): state that belongs to a grid, or a row of an accumulator of a quad. -/
inductive ParityHit where
  | grid (g : GridId)
  | row (quad acc row : Nat)
  deriving DecidableEq, Repr

/-- An error that a scrub of a core store found (R127, R438): the 8-byte word, and whether it was corrected. -/
structure WordError where
  word : Nat
  fixed : Bool
  deriving DecidableEq, Repr

/-- An error that a scrub of a Bureau found (R438): the 32-byte sector, whether it was corrected, and the die in whose remote-data cache
the sector stands, none for the sector at its home. -/
structure SectorError where
  sector : Nat
  fixed : Bool
  rdc : Option Nat
  deriving DecidableEq, Repr

/-! ### The instructions -/

/-- One constructor per row of spec/opcode_table.json. -/
inductive Instr where
  -- instructions
  | ill (detail : BitVec 8) (half : Bool)
  | nop (f : V3)
  | bra (f : BF)
  | brx (f : BF)
  | call (f : BF)
  | ret (f : BF)
  | ifc (f : BF)
  | elsec (f : BF)
  | endif (f : BF)
  | loop (f : BF)
  | breakif (f : BF)
  | contif (f : BF)
  | endloop (f : BF)
  | reconv (f : BF)
  | exit (f : BF)
  | iadd (f : V3)
  | iaddc (f : V3)
  | isub (f : V3)
  | ineg (f : V3)
  | iabs (f : V3)
  | imul (f : V3)
  | imulh (f : V3)
  | imad (f : V3)
  | imadw (f : V3)
  | imin (f : V3)
  | imax (f : V3)
  | icmp (f : V3)
  | idot4 (f : V3)
  | sel (f : V3)
  | lea (f : V3)
  | fadd (f : V3)
  | fmul (f : V3)
  | ffma (f : V3)
  | fmin (f : V3)
  | fmax (f : V3)
  | fcmp (f : V3)
  | fclass (f : V3)
  | frint (f : V3)
  | fldexp (f : V3)
  | fdot2 (f : V3)
  | fdivfix (f : V3)
  | cvt (f : V3)
  | cvtef (f : V3)
  | mxpack (f : V3)
  | mxunpack (f : V3)
  | frcp (f : V3)
  | frsq (f : V3)
  | fsqrt (f : V3)
  | fexp2 (f : V3)
  | flog2 (f : V3)
  | fsin (f : V3)
  | fcos (f : V3)
  | ftanh (f : V3)
  | and (f : V3)
  | andn (f : V3)
  | or (f : V3)
  | orn (f : V3)
  | xor (f : V3)
  | not (f : V3)
  | shl (f : V3)
  | shr (f : V3)
  | shra (f : V3)
  | rotl (f : V3)
  | bfe (f : V3)
  | bfi (f : V3)
  | brev (f : V3)
  | clz (f : V3)
  | ffs (f : V3)
  | popc (f : V3)
  | movi (f : VI)
  | iaddVi (f : VI)
  | isubVi (f : VI)
  | imulVi (f : VI)
  | imadVi (f : VI)
  | iminVi (f : VI)
  | imaxVi (f : VI)
  | icmpVi (f : VI)
  | andVi (f : VI)
  | orVi (f : VI)
  | xorVi (f : VI)
  | faddVi (f : VI)
  | fmulVi (f : VI)
  | ffmaVi (f : VI)
  | fcmpVi (f : VI)
  | mov (f : V3)
  | shfl (f : V3)
  | vote (f : V3)
  | ballot (f : V3)
  | matchl (f : V3)
  | reduce (f : V3)
  | scan (f : V3)
  | lanerd (f : V3)
  | lanewr (f : V3)
  | rand (f : V3)
  | salu (f : UF)
  | scmp (f : UF)
  | ssel (f : UF)
  | smov (f : UF)
  | ld (f : MF)
  | st (f : MF)
  | ldu (f : MF)
  | ldl (f : MF)
  | stl (f : MF)
  | ldp (f : MF)
  | stp (f : MF)
  | atom (f : MF)
  | atoml (f : MF)
  | atomp (f : MF)
  | pref (f : MF)
  | renew (f : MF)
  | expire (f : MF)
  | flush (f : MF)
  | spill (f : MF)
  | fill (f : MF)
  | xcpy (f : XF)
  | xgather (f : XF)
  | xscatter (f : XF)
  | xreduce (f : XF)
  | xfill (f : XF)
  | xpeer (f : XF)
  | xcancel (f : XF)
  | tiledef (f : XF)
  | tilerel (f : XF)
  | tileq (f : XF)
  | psend (f : XF)
  | precv (f : XF)
  | barinit (f : XF)
  | bararv (f : XF)
  | barwait (f : XF)
  | bartest (f : XF)
  | bartx (f : XF)
  | waitcnt (f : SF)
  | fence (f : SF)
  | clkadv (f : SF)
  | spinhint (f : SF)
  | sleep (f : SF)
  | waitt (f : SF)
  | semsig (f : SF)
  | semwait (f : SF)
  | movsp (f : SF)
  | setsp (f : SF)
  | mma (f : MXF)
  | acczero (f : MXF)
  | accload (f : MXF)
  | accdrain (f : MXF)
  | mmawait (f : MXF)
  | mmab (f : V3)
  | rast (f : GF)
  | binput (f : GF)
  | binget (f : GF)
  | trav (f : GF)
  | travnext (f : GF)
  | regroup (f : GF)
  | repack (f : GF)
  | tex (f : GF)
  | texq (f : GF)
  | launch (f : SF)
  | trap (f : SF)
  | syscall (f : SF)
  | bkpt (f : SF)
  | eret (f : SF)
  | idem (f : SF)
  | progress (f : SF)
  | pairedSlot (x y : Half)
  -- machine events
  | routeEntryTaken (core : CoreId) (n : Nat)
  | parentClockLoss (m : ClockLoss)
  | rerootParentAssign (orphans : List Nat)
  | rateWordSwitch (die : Nat) (east : Bool)
  | gtcstepApply (die : Nat) (east : Bool)
  | waittDeadline (g : GroupId) (core : CoreId)
  | launchStartTime (core : CoreId) (grid : GridId)
  | idleTick (core : CoreId)
  | issueGrant (core : CoreId)
  | teamEnd (core : CoreId) (t : TeamId)
  | gridEnd (grid : GridId)
  | regroupJoin (core : CoreId) (g : GroupId)
  | benchContribution (m : Contribution)
  | retryResend (m : Resend)
  | walkComplete (m : WalkReq)
  | pageServiceResolve (m : WalkReq)
  | tinvDone (die : Nat)
  | read (m : LineReq)
  | renewq (m : LineReq)
  | dataMsg (m : DataMsg)
  | extend (m : ExtendMsg)
  | cpbk (m : CpbkMsg)
  | cpbkack (m : AckMsg)
  | atomq (m : AtomMsg)
  | atoma (m : AtomAns)
  | drop (m : DropMsg)
  | dropack (m : DropMsg)
  | hold (m : HoldMsg)
  | holdack (m : HoldMsg)
  | recall (m : RecallMsg)
  | yield (m : YieldMsg)
  | unhold (m : HoldMsg)
  | prep (m : UnitMsg)
  | prepack (m : UnitMsg)
  | commit (m : CommitMsg)
  | commitack (m : UnitMsg)
  | accept (m : BenchAns)
  | apply (m : BenchAns)
  | retry (m : Resend)
  | rebaseStart (die : Nat) (ep : BitVec 2)
  | sweepDone (die : Nat)
  | arrive (m : ArriveMsg)
  | arriveReply (m : ArriveAns)
  | barwaitReply (m : ArriveAns)
  | leave (m : LeaveMsg)
  | copyComplete (core : CoreId) (op : Nat)
  | packetArrive (m : PacketMsg)
  | mmaStart (die quad : Nat)
  | macroOpComplete (die quad : Nat)
  | binnerPacketArrive (m : BinMsg)
  | binnerCloseArrive (m : CloseMsg)
  | unitResultWrite (core : CoreId) (op : Nat)
  | fragmentStart (die : Nat)
  | launchRequest (die : Nat) (m : LaunchReq)
  | launchLeadRequest (die : Nat) (m : LaunchReq)
  | launchReply (m : LaunchAns)
  | queueDepart (die : Nat)
  | launchDistribute (die : Nat) (grid : GridId)
  | semaphoreNotice (m : SemNotice)
  | teamPlacement (die : Nat)
  | startMessage (core : CoreId) (grid : GridId)
  | preemptDecision (t : TeamId) (mode : Nat)
  | drainBudgetExpiry (t : TeamId)
  | quiesceDeadline (t : TeamId)
  | saveCapture (t : TeamId)
  | contextTransferDone (t : TeamId)
  | restore (t : TeamId) (core : CoreId)
  | peerAccessArrive (m : PeerReq)
  | peerAccessReply (m : PeerAns)
  | xpeerWriteArrive (m : XpeerMsg)
  | semwaitReadReply (m : SemNotice)
  | semwaitTimeout (core : CoreId) (g : GroupId)
  | sleepDone (core : CoreId) (g : GroupId)
  | loaderDone (die : Nat)
  -- inputs from outside the module
  | pllLockTimeout (die : Nat)
  | routeEntryWrite (core : CoreId) (n : Nat) (entry : BitVec 256)
  | routerLinkFailure (m : MeshFault)
  | routeRebuildDone (core : CoreId) (entries : List (Nat × BitVec 256))
  | undeliverableResponse (m : Resend)
  | meshFlitCrcError (m : MeshFault)
  | panelMapUpdate (cells : List (Nat × Byte))
  | powerOn
  | fwdcfgGo (die : Nat) (value : Word)
  | pllLock (die : Nat)
  | rerootResume
  | fwdcmdDone (die : Nat) (value : Word)
  | gtcrateWrite (die : Nat) (value : DWord)
  | gtcslewWrite (die : Nat) (value : DWord)
  | slewComplete
  | gtcstepWrite (die : Nat) (value : DWord)
  | ptpFrameReceive (f : PtpFrame)
  | announceTimeout
  | handlerEntry (core : CoreId) (g : GroupId)
  | parityError (core : CoreId) (hit : ParityHit)
  | coreStoreScrub (core : CoreId) (found : List WordError)
  | hbmScrub (found : List SectorError)
  | pagereplyWrite (die : Nat) (value : DWord)
  | tinvGo (die : Nat) (value : Word)
  | brbcmdStart (die : Nat) (value : Word)
  | coreRetentionWake (core : CoreId)
  | rplcmdTeardown (die : Nat) (value : Word)
  | rplcmdClearDown (die : Nat) (value : Word)
  | controlMessage (die : Nat) (m : ControlMsg)
  | dispatchFailover (die : Nat)
  | pmreqGo (die : Nat) (value : DWord)
  | pmreqResume (die : Nat) (value : DWord)
  | pmreplyWrite (die : Nat) (value : DWord)
  | screplyWrite (die : Nat) (value : DWord)
  | windowRead (m : WindowReq)
  | windowWrite (m : WindowReq)
  | windowAtomicAdd (m : WindowReq)
  | windowUpstreamReply (m : UpAns)
  | controlLaneLoss (lane : Nat)
  | pqpostWrite (port : Nat) (addr : Nat)
  | peerCopyData (f : PeerFrame)
  | peerCopyEnd (f : PeerFrame)
  | peerSemaphoreAdd (f : PeerFrame)
  | peerAcknowledgement (f : PeerFrame)
  | peerRefusal (f : PeerFrame)
  | peerResendTimeout (port : Nat) (post : BitVec 32)
  | pldmBaseDiscovery
  | pldmSensorRead (sensor : Nat)
  | pldmFirmwareUpdate (image : List Byte)
  | getVersion
  | getCapabilities
  | negotiateAlgorithms (ecdsa sha : Nat)
  | getDigests
  | getCertificate
  | challenge (nonce : List Byte)
  | getMeasurements (index : Nat)
  | loaderGo (master die : Nat) (value : Word)
  | accessTableWrite (w : RegWrite)
  | registerWrite (w : RegWrite)
  | externalReferenceChange (die : Nat) (valid : Bool)
  | ptpMessageTransmit (port : Nat) (kind : PtpKind)
  | peerPortLinkUp (port : Nat)
  | peerFrameDiscard (port : Nat)
  | dieMapOut (die : Nat)
  | coreRetentionEntry (core : CoreId)
  deriving DecidableEq, Repr

end Sys2Proof
end

