-- ==== Sys2Proof/Machine/Bits.lean ====
section
/-! DEFINITION. Bit-field, sign-extension and byte-order helpers, and the byte lists that hold every memory of the model. -/

namespace Sys2Proof.Machine

/-! ### Numbers of a width -/

/-- The unsigned value of the low `w` bits of `x`. -/
def uval (w : Nat) (x : BitVec 64) : Nat := x.toNat % 2 ^ w

/-- The two's-complement value of the low `w` bits of `x` (R211). -/
def sval (w : Nat) (x : BitVec 64) : Int :=
  let u := uval w x
  if 2 * u < 2 ^ w then (u : Int) else (u : Int) - (2 : Int) ^ w

/-- An exact integer result reduced modulo `2 ^ w` (R545). -/
def wrap (w : Nat) (n : Int) : BitVec 64 := BitVec.ofNat 64 (n.emod ((2 : Int) ^ w)).toNat

/-- The low `w` bits of `x`. -/
def low (w : Nat) (x : BitVec 64) : BitVec 64 := BitVec.ofNat 64 (uval w x)

/-- Bits `hi` down to `lo` of a number. -/
def bits (x hi lo : Nat) : Nat := x / 2 ^ lo % 2 ^ (hi + 1 - lo)

/-- Bit `n` of a number. -/
def bit (x n : Nat) : Bool := x / 2 ^ n % 2 == 1

/-- The truth value as a number. -/
def b2n (b : Bool) : Nat := if b then 1 else 0

/-- Sign extension of the low `w` bits to 64 bits. -/
def sext (w : Nat) (x : BitVec 64) : BitVec 64 := wrap 64 (sval w x)

/-- Bitwise complement within `w` bits. -/
def bnot (w : Nat) (x : BitVec 64) : BitVec 64 := low w (~~~x)

/-- The number of set bits among the low `w` bits (R573). -/
def popcount (w : Nat) (x : BitVec 64) : Nat :=
  (List.range w).foldl (fun n k => n + b2n (x.getLsbD k)) 0

/-- The number of zero bits above the highest set bit of the low `w` bits, `w` for zero (R515). -/
def leadingZeros (w : Nat) (x : BitVec 64) : Nat :=
  match (List.range w).find? (fun k => x.getLsbD (w - 1 - k)) with
  | some k => k
  | none => w

/-- The bit number of the lowest set bit among the low `w` bits, if any (R515). -/
def lowestSet (w : Nat) (x : BitVec 64) : Option Nat :=
  (List.range w).find? (fun k => x.getLsbD k)

/-- The low `w` bits in reverse order (R501). -/
def reverseBits (w : Nat) (x : BitVec 64) : BitVec 64 :=
  BitVec.ofNat 64 ((List.range w).foldl (fun n k => n + b2n (x.getLsbD k) * 2 ^ (w - 1 - k)) 0)

/-- Rotation to the left by `n` within `w` bits (R591). -/
def rotateLeft (w n : Nat) (x : BitVec 64) : BitVec 64 :=
  let u := uval w x
  let k := n % w
  BitVec.ofNat 64 ((u * 2 ^ k) % 2 ^ w + u / 2 ^ (w - k))

/-- `x` rounded up to a multiple of `n`. -/
def roundUp (x n : Nat) : Nat := (x + n - 1) / n * n

/-! ### Bytes -/

/-- Byte `k` of a number, little-endian (R3). -/
def byteOf (x k : Nat) : Byte := BitVec.ofNat 8 (x / 256 ^ k)

/-- The little-endian number in a list of bytes (R3). -/
def leNat : List Byte → Nat
  | [] => 0
  | b :: r => b.toNat + 256 * leNat r

/-- The `n` little-endian bytes of a number (R3). -/
def leBytes : Nat → Nat → List Byte
  | 0, _ => []
  | n + 1, x => BitVec.ofNat 8 x :: leBytes n (x / 256)

/-- Membership of a number in a list, as a Bool. -/
def has (l : List Nat) (n : Nat) : Bool := l.any (· == n)

/-- A set of numbers with `n` added. -/
def insertN (l : List Nat) (n : Nat) : List Nat := if has l n then l else n :: l

/-- A set of numbers with `n` removed. -/
def eraseN (l : List Nat) (n : Nat) : List Nat := l.filter (· != n)

end Sys2Proof.Machine

namespace Sys2Proof.Machine.Memory

/-! ### Byte lists in canonical form

A memory is a list of bytes by address beside what a byte that no entry lists reads as, `u`. Addresses strictly rise, and no
entry is the byte that its address reads as unlisted (log entry 4). -/

/-- An unlisted byte of a core store, and of a record put together byte by byte, reads as zero (log entry 4). -/
def zeros (_ : Nat) : Byte := 0

/-- The byte at an address. -/
def read (u : Nat → Byte) : List Host.Cell → Nat → Byte
  | [], a => u a
  | c :: m, a => if c.1 = a then c.2 else if a < c.1 then u a else read u m a

/-- One byte in front of a list whose addresses are higher, unless it is what the address reads as unlisted. -/
def cons (u : Nat → Byte) (a : Nat) (b : Byte) (m : List Host.Cell) : List Host.Cell :=
  if b = u a then m else (a, b) :: m

/-- The memory after one byte is written. -/
def write (u : Nat → Byte) : List Host.Cell → Nat → Byte → List Host.Cell
  | [], a, b => cons u a b []
  | c :: m, a, b =>
    if c.1 = a then cons u a b m
    else if a < c.1 then cons u a b (c :: m)
    else c :: write u m a b

/-- The canonical form: addresses strictly rising above `n`, no byte as it reads unlisted. -/
def wfFrom (u : Nat → Byte) : Nat → List Host.Cell → Bool
  | _, [] => true
  | n, c :: m => decide (n ≤ c.1) && decide (c.2 ≠ u c.1) && wfFrom u (c.1 + 1) m

/-- The canonical form of a memory. -/
def wf (u : Nat → Byte) (m : List Host.Cell) : Bool := wfFrom u 0 m

/-- `n` bytes from address `a`. -/
def readBytes (u : Nat → Byte) (m : List Host.Cell) : Nat → Nat → List Byte
  | _, 0 => []
  | a, n + 1 => read u m a :: readBytes u m (a + 1) n

/-- The memory after a list of bytes is written from address `a`. -/
def writeBytes (u : Nat → Byte) : List Host.Cell → Nat → List Byte → List Host.Cell
  | m, _, [] => m
  | m, a, b :: bs => writeBytes u (write u m a b) (a + 1) bs

/-- The `n`-byte little-endian number at address `a` (R3). -/
def readNat (u : Nat → Byte) (m : List Host.Cell) (a n : Nat) : Nat := leNat (readBytes u m a n)

/-- The memory after the low `n` bytes of a number are written at `a` (R3). -/
def writeNat (u : Nat → Byte) (m : List Host.Cell) (a n x : Nat) : List Host.Cell := writeBytes u m a (leBytes n x)

end Sys2Proof.Machine.Memory
end

