-- ==== Sys2Proof/Machine/Num.lean ====
section
/-! DEFINITION. Number formats, exact values and rounding (R207 to R226). -/

namespace Sys2Proof.Machine

/-! ### Types (R164) -/

/-- The types of both classes of R164. -/
inductive Ty where
  | f64 | f32 | f16 | bf16 | e4m3 | e5m2 | e2m1
  | mxe4m3 | mxe5m2 | mxe2m1 | mxi8
  | i8 | i16 | i32 | i64 | n8 | n16 | n32 | n64 | b32 | b64
  deriving DecidableEq, Repr

/-- The numeric class of R164. -/
def numTy (c : Nat) : Option Ty :=
  match c with
  | 0 => some .f64 | 1 => some .f32 | 2 => some .f16 | 3 => some .bf16
  | 4 => some .e4m3 | 5 => some .e5m2 | 6 => some .e2m1 | 7 => some .mxe4m3
  | 8 => some .mxe5m2 | 9 => some .mxe2m1 | 10 => some .mxi8 | 11 => some .i8
  | 12 => some .n8 | 13 => some .i32
  | _ => none

/-- The integer class of R164. -/
def intTy (c : Nat) : Option Ty :=
  match c with
  | 0 => some .i8 | 1 => some .i16 | 2 => some .i32 | 3 => some .i64
  | 4 => some .n8 | 5 => some .n16 | 6 => some .n32 | 7 => some .n64
  | 8 => some .b32 | 9 => some .b64
  | _ => none

/-- The width of a type's values; an MX value in a register is a packed word (R568). -/
def Ty.width : Ty → Nat
  | .f64 | .i64 | .n64 | .b64 => 64
  | .f32 | .i32 | .n32 | .b32 => 32
  | .f16 | .bf16 | .i16 | .n16 => 16
  | .e4m3 | .e5m2 | .i8 | .n8 => 8
  | .e2m1 => 4
  | .mxe4m3 | .mxe5m2 | .mxe2m1 | .mxi8 => 32

/-- Whether a value of the type occupies a register pair (R212). -/
def Ty.wide (t : Ty) : Bool := t.width == 64

/-- The signed integer types. -/
def Ty.signed : Ty → Bool
  | .i8 | .i16 | .i32 | .i64 => true
  | _ => false

/-- The unsigned integer types. -/
def Ty.unsigned : Ty → Bool
  | .n8 | .n16 | .n32 | .n64 => true
  | _ => false

/-- The types of the integer class (R164). -/
def Ty.integral (t : Ty) : Bool :=
  match t with
  | .i8 | .i16 | .i32 | .i64 | .n8 | .n16 | .n32 | .n64 | .b32 | .b64 => true
  | _ => false

/-- The floating-point types, which carry a sign for neg/abs (R166, R207). -/
def Ty.floating : Ty → Bool
  | .f64 | .f32 | .f16 | .bf16 | .e4m3 | .e5m2 | .e2m1 => true
  | _ => false

/-- The MX types. -/
def Ty.mx : Ty → Bool
  | .mxe4m3 | .mxe5m2 | .mxe2m1 | .mxi8 => true
  | _ => false

/-- Bits of one element in memory or a tile, MX scales apart (R164, R213). -/
def Ty.elemBits : Ty → Nat
  | .mxe4m3 | .mxe5m2 | .mxi8 => 8
  | .mxe2m1 => 4
  | t => t.width

/-- The element format of an MX type (R213). -/
def Ty.element : Ty → Ty
  | .mxe4m3 => .e4m3 | .mxe5m2 => .e5m2 | .mxe2m1 => .e2m1 | t => t

/-- The value of the integer types held in the low bits of `x` (R211). -/
def Ty.int (t : Ty) (x : BitVec 64) : Int :=
  if t.signed then sval t.width x else (uval t.width x : Int)

/-- The least and greatest values of an integer type (R211). -/
def Ty.minInt (t : Ty) : Int := if t.signed then -((2 : Int) ^ (t.width - 1)) else 0

/-- The greatest value of an integer type (R211). -/
def Ty.maxInt (t : Ty) : Int :=
  if t.signed then (2 : Int) ^ (t.width - 1) - 1 else (2 : Int) ^ t.width - 1

/-- The pattern a value of type `t` takes in its register: the upper bits of a 32-bit element are filled with copies of
the sign for signed integers and with zero otherwise (R212). -/
def Ty.fill (t : Ty) (x : BitVec 64) : BitVec 64 :=
  if t.wide then x
  else if t.signed then low 32 (wrap 32 (sval t.width x))
  else low t.width x

/-! ### Formats (R207) -/

/-- A floating-point format: width, exponent width, fraction width and bias, and whether it has Inf and NaN (R207, R208). -/
structure Fmt where
  width : Nat
  ew : Nat
  fw : Nat
  bias : Nat
  hasInf : Bool
  hasNan : Bool
  deriving DecidableEq, Repr

/-- The format of a floating type or of an MX element (R207). MXINT8 has no format of this kind. -/
def Ty.fmt : Ty → Fmt
  | .f64 => ⟨64, 11, 52, 1023, true, true⟩
  | .f32 => ⟨32, 8, 23, 127, true, true⟩
  | .f16 => ⟨16, 5, 10, 15, true, true⟩
  | .bf16 => ⟨16, 8, 7, 127, true, true⟩
  | .e4m3 | .mxe4m3 => ⟨8, 4, 3, 7, false, true⟩
  | .e5m2 | .mxe5m2 => ⟨8, 5, 2, 15, true, true⟩
  | .e2m1 | .mxe2m1 => ⟨4, 2, 1, 1, false, false⟩
  | _ => ⟨32, 8, 23, 127, true, true⟩

/-- The bits of the canonical quiet NaN (R209). A format without NaN has none. -/
def Fmt.nanBits (f : Fmt) : Nat :=
  if f.hasInf then (2 ^ f.ew - 1) * 2 ^ f.fw + 2 ^ (f.fw - 1)
  else 2 ^ (f.width - 1) - 1

/-- The bits of the largest finite magnitude (R207). -/
def Fmt.maxBits (f : Fmt) : Nat :=
  if f.hasInf then (2 ^ f.ew - 1) * 2 ^ f.fw - 1
  else if f.hasNan then 2 ^ (f.width - 1) - 2
  else 2 ^ (f.width - 1) - 1

/-- The bits of positive infinity. -/
def Fmt.infBits (f : Fmt) : Nat := (2 ^ f.ew - 1) * 2 ^ f.fw

/-- The exponent of the last fraction bit of the smallest normal. -/
def Fmt.qmin (f : Fmt) : Int := 1 - (f.bias : Int) - (f.fw : Int)

/-! ### Values -/

/-- An exact value: NaN, infinity, or ± mant · 2^exp, plus less than one unit of 2^exp when `sticky` (R215). -/
inductive Val where
  | nan (signalling : Bool)
  | inf (neg : Bool)
  | num (neg : Bool) (mant : Nat) (exp : Int) (sticky : Bool)
  deriving DecidableEq, Repr

/-- Zero with a sign. -/
def Val.zero (neg : Bool) : Val := .num neg 0 0 false

/-- An integer as a value. -/
def Val.ofInt (n : Int) : Val := .num (decide (n < 0)) n.natAbs 0 false

/-- The value of a bit pattern of a format (R208, R209). -/
def Fmt.decode (f : Fmt) (x : Nat) : Val :=
  let s := bit x (f.width - 1)
  let e := bits x (f.fw + f.ew - 1) f.fw
  let m := x % 2 ^ f.fw
  if f.hasInf && e == 2 ^ f.ew - 1 then
    if m == 0 then .inf s else .nan (!(bit m (f.fw - 1)))
  else if f.hasNan && !f.hasInf && x % 2 ^ (f.width - 1) == 2 ^ (f.width - 1) - 1 then .nan false
  else if e == 0 then .num s m f.qmin false
  else .num s (2 ^ f.fw + m) (f.qmin + (e : Int) - 1) false

/-- The value of the low bits of a register element in a type (R208, R211). -/
def Ty.val (t : Ty) (x : BitVec 64) : Val :=
  match t with
  | .mxi8 => let n := sval 8 x; .num (decide (n < 0)) n.natAbs (-6) false
  | .f64 | .f32 | .f16 | .bf16 | .e4m3 | .e5m2 | .e2m1 | .mxe4m3 | .mxe5m2 | .mxe2m1 =>
    t.fmt.decode (x.toNat % 2 ^ t.fmt.width)
  | _ => Val.ofInt (t.int x)

/-- Whether a value is a NaN. -/
def Val.isNan : Val → Bool
  | .nan _ => true
  | _ => false

/-- Whether a value is a signalling NaN. -/
def Val.isSnan : Val → Bool
  | .nan s => s
  | _ => false

/-- Whether a value is a zero. -/
def Val.isZero : Val → Bool
  | .num _ 0 _ false => true
  | _ => false

/-- Whether a value stands without a remainder below its last bit. -/
def Val.exact : Val → Bool
  | .num _ _ _ st => !st
  | _ => true

/-- Whether a value is infinite. -/
def Val.isInf : Val → Bool
  | .inf _ => true
  | _ => false

/-- The sign of a value. -/
def Val.neg : Val → Bool
  | .nan _ => false
  | .inf s => s
  | .num s _ _ _ => s

/-! ### Flags (R224) -/

/-- The five flags of %fpstat: NV, DZ, OF, UF, IX from bit 4 to bit 0. -/
abbrev FpFlags := BitVec 5

/-- Invalid operation. -/
def fNV : FpFlags := 16
/-- Division by zero. -/
def fDZ : FpFlags := 8
/-- Overflow. -/
def fOF : FpFlags := 4
/-- A tiny, inexact result. -/
def fUF : FpFlags := 2
/-- An inexact result. -/
def fIX : FpFlags := 1

/-- A flag under a condition. -/
def flagIf (c : Bool) (f : FpFlags) : FpFlags := if c then f else 0

/-! ### Rounding (R216, R218) -/

/-- A rounding mode; SR carries the 16 random bits r of R218. -/
inductive Rm where
  | rne | rtz | rup | rdn | rna
  | sr (r : Nat)
  deriving DecidableEq, Repr

/-- The mode of a rounding code with `%fpctl`'s RM and the random bits (R165, R217). -/
def Rm.ofCode (code rm r : Nat) : Rm :=
  match (if code = 0 then rm else code) with
  | 2 => .rtz | 3 => .rup | 4 => .rdn | 5 => .rna | 6 => .sr r | _ => .rne

/-- Whether the magnitude rounds up: `t` is the truncated integer, `rem` of `2 ^ sh` its remainder (R216, R218). -/
def Rm.up (mode : Rm) (neg : Bool) (t rem sh : Nat) (sticky : Bool) : Bool :=
  let inexact := rem != 0 || sticky
  match mode with
  | .rtz => false
  | .rup => inexact && !neg
  | .rdn => inexact && neg
  | .rne => decide (2 ^ sh < 2 * rem) || (2 * rem == 2 ^ sh && inexact && (sticky || t % 2 == 1))
  | .rna => inexact && decide (2 ^ sh ≤ 2 * rem)
  | .sr r => inexact && decide (65536 ≤ rem * 65536 / 2 ^ sh + r)

/-- A magnitude rounded to a multiple of `2 ^ q`: the integer and whether it differs. -/
def roundAt (mode : Rm) (neg : Bool) (mant : Nat) (exp q : Int) (sticky : Bool) : Nat × Bool :=
  if q ≤ exp then (mant * 2 ^ (exp - q).toNat, sticky)
  else
    let sh := (q - exp).toNat
    let t := mant / 2 ^ sh
    let rem := mant % 2 ^ sh
    (t + b2n (mode.up neg t rem sh sticky), rem != 0 || sticky)

/-- Whether an overflow in this mode gives the largest finite value rather than infinity (R221). -/
def Rm.clips (mode : Rm) (neg : Bool) : Bool :=
  match mode with
  | .rtz => true
  | .rup => neg
  | .rdn => !neg
  | _ => false

/-- Whether a destination saturates: the formats of the third row of R221 and R634, unless .NOSAT is carried. -/
def Ty.saturates (t : Ty) (nosat : Bool) : Bool :=
  match t with
  | .e2m1 | .mxe2m1 | .mxi8 => true
  | .e4m3 | .e5m2 | .mxe4m3 | .mxe5m2 => !nosat
  | _ => false

/-- A sign bit in front of a magnitude. -/
def Fmt.sign (f : Fmt) (neg : Bool) (x : Nat) : Nat := x + b2n neg * 2 ^ (f.width - 1)

/-- A finite value rounded to a floating format (R216 to R225). -/
def roundFloat (t : Ty) (mode : Rm) (nosat neg : Bool) (mant : Nat) (exp : Int) (sticky : Bool) : Nat × FpFlags :=
  let f := t.fmt
  if mant = 0 && !sticky then (f.sign neg 0, 0)
  else
    let qu : Int := exp + (Nat.log2 mant : Int) - (f.fw : Int)
    let q := max qu f.qmin
    let (r, ix) := roundAt mode neg mant exp q sticky
    let (ru, _) := roundAt mode neg mant exp qu sticky
    let tiny := decide (qu < f.qmin) && decide (ru * 2 ^ (0 : Nat) < 2 ^ (f.fw + (f.qmin - qu).toNat))
    -- the encoding of r · 2^q: a carry out of the fraction steps into the next exponent
    let e := (q - f.qmin).toNat
    let enc := if r < 2 ^ f.fw then r else r - 2 ^ f.fw + (e + 1) * 2 ^ f.fw
    if f.maxBits < enc then
      let fl := fOF ||| fIX
      if t.saturates nosat then (f.sign neg f.maxBits, fl)
      else if !f.hasInf then (f.nanBits, fl)
      else if mode.clips neg then (f.sign neg f.maxBits, fl)
      else (f.sign neg f.infBits, fl)
    else (f.sign neg enc, flagIf ix fIX ||| flagIf (ix && tiny) fUF)

/-- A finite value rounded to an MXINT8 element (R211, R221, R225). -/
def roundMxi8 (mode : Rm) (neg : Bool) (mant : Nat) (exp : Int) (sticky : Bool) : Nat × FpFlags :=
  let (r, ix) := roundAt mode neg mant exp (-6) sticky
  let ends := decide (127 < r)
  let m := if ends then 127 else r
  ((if neg then (256 - m) % 256 else m), if ends then fOF ||| fIX else flagIf ix fIX)

/-- RoundTo(fmt, mode)(x) of R226 for a floating or MX element type. -/
def roundTo (t : Ty) (mode : Rm) (nosat : Bool) (v : Val) : BitVec 64 × FpFlags :=
  let f := t.fmt
  match v with
  | .nan s =>
    if t = .mxi8 || !f.hasNan then (0, fNV) else (BitVec.ofNat 64 f.nanBits, flagIf s fNV)
  | .inf neg =>
    if t = .mxi8 then (if neg then 129 else 127, fOF ||| fIX)
    else if t.saturates nosat then (BitVec.ofNat 64 (f.sign neg f.maxBits), fOF ||| fIX)
    else if !f.hasInf then (BitVec.ofNat 64 f.nanBits, fNV)
    else (BitVec.ofNat 64 (f.sign neg f.infBits), 0)
  | .num neg m e st =>
    let r := if t = .mxi8 then roundMxi8 mode neg m e st else roundFloat t mode nosat neg m e st
    (BitVec.ofNat 64 r.1, r.2)

/-- A value rounded to an integral value (R518, R543): the integer and whether it differs. -/
def roundInt (mode : Rm) (neg : Bool) (mant : Nat) (exp : Int) (sticky : Bool) : Int × Bool :=
  let (r, ix) := roundAt mode neg mant exp 0 sticky
  (if neg then -(r : Int) else (r : Int), ix)

/-- An integer brought into an integer type: the nearer bound with NV when it lies outside (R518, R221). -/
def clampInt (t : Ty) (n : Int) : BitVec 64 × FpFlags :=
  if n < t.minInt then (wrap t.width t.minInt, fNV)
  else if t.maxInt < n then (wrap t.width t.maxInt, fNV)
  else (wrap t.width n, 0)

/-- A value converted to an integer type (R518, R221, R222). -/
def toIntTy (t : Ty) (mode : Rm) (v : Val) : BitVec 64 × FpFlags :=
  match v with
  | .nan _ => (0, fNV)
  | .inf neg => (wrap t.width (if neg then t.minInt else t.maxInt), fNV)
  | .num neg m e st =>
    let (n, ix) := roundInt mode neg m e st
    let (b, fl) := clampInt t n
    (b, if fl = 0 then flagIf ix fIX else fl)

/-! ### Exact arithmetic (R529, R535) -/

/-- The signed integer of a finite value scaled to exponent `e`, which is at most its own. -/
def scaled (neg : Bool) (m : Nat) (e0 e : Int) : Int :=
  let n : Int := (m * 2 ^ (e0 - e).toNat : Nat)
  if neg then -n else n

/-- The sign of an exact zero sum (R529): kept when both signs agree, otherwise + except under RDN. -/
def zeroSign (mode : Rm) (na nb : Bool) : Bool := if na = nb then na else decide (mode = .rdn)

/-- The exact sum of two values, with NV for Inf − Inf and for a signalling NaN (R529). -/
def addVal (mode : Rm) (a b : Val) : Val × FpFlags :=
  match a, b with
  | .nan s, .nan t => (.nan false, flagIf (s || t) fNV)
  | .nan s, _ => (.nan false, flagIf s fNV)
  | _, .nan s => (.nan false, flagIf s fNV)
  | .inf x, .inf y => if x = y then (.inf x, 0) else (.nan false, fNV)
  | .inf x, _ => (.inf x, 0)
  | _, .inf y => (.inf y, 0)
  | .num na ma ea _, .num nb mb eb _ =>
    let e := min ea eb
    let n := scaled na ma ea e + scaled nb mb eb e
    if n = 0 then (.zero (if ma = 0 && mb = 0 then zeroSign mode na nb else decide (mode = .rdn)), 0)
    else (.num (decide (n < 0)) n.natAbs e false, 0)

/-- The exact product of two values (R529). -/
def mulVal (a b : Val) : Val × FpFlags :=
  match a, b with
  | .nan s, .nan t => (.nan false, flagIf (s || t) fNV)
  | .nan s, _ => (.nan false, flagIf s fNV)
  | _, .nan s => (.nan false, flagIf s fNV)
  | .inf x, .inf y => (.inf (x != y), 0)
  | .inf x, .num y m _ _ => if m = 0 then (.nan false, fNV) else (.inf (x != y), 0)
  | .num x m _ _, .inf y => if m = 0 then (.nan false, fNV) else (.inf (x != y), 0)
  | .num na ma ea _, .num nb mb eb _ => (.num (na != nb) (ma * mb) (ea + eb) false, 0)

/-- The exact a·b + c (R529): 0 × Inf raises NV even beside a quiet NaN. -/
def fmaVal (mode : Rm) (a b c : Val) : Val × FpFlags :=
  let p := mulVal a b
  let r := addVal mode p.1 c
  (r.1, p.2 ||| r.2 ||| flagIf c.isSnan fNV)

/-- The quotient a / b to at least 128 bits with a sticky remainder (R535). -/
def divVal (a b : Val) : Val × FpFlags :=
  match a, b with
  | .nan s, .nan t => (.nan false, flagIf (s || t) fNV)
  | .nan s, _ => (.nan false, flagIf s fNV)
  | _, .nan s => (.nan false, flagIf s fNV)
  | .inf _, .inf _ => (.nan false, fNV)
  | .inf x, .num y _ _ _ => (.inf (x != y), 0)
  | .num x _ _ _, .inf y => (.zero (x != y), 0)
  | .num na ma ea _, .num nb mb eb _ =>
    if mb = 0 then (if ma = 0 then (.nan false, fNV) else (.inf (na != nb), fDZ))
    else
      let n := ma * 2 ^ 128
      (.num (na != nb) (n / mb) (ea - 128 - eb) (n % mb != 0), 0)

/-- The integer square root by bits from 2^k down. -/
def isqrt : Nat → Nat → Nat → Nat
  | 0, _, r => r
  | k + 1, n, r =>
    let c := r + 2 ^ k
    isqrt k n (if c * c ≤ n then c else r)

/-- The square root to at least 100 bits with a sticky remainder (R229, R534). -/
def sqrtVal (a : Val) : Val × FpFlags :=
  match a with
  | .nan s => (.nan false, flagIf s fNV)
  | .inf neg => if neg then (.nan false, fNV) else (.inf false, 0)
  | .num neg m e _ =>
    if m = 0 then (.zero neg, 0)
    else if neg then (.nan false, fNV)
    else
      let k := 200 + (e.emod 2).toNat
      let n := m * 2 ^ k
      let r := isqrt 160 n 0
      (.num false r ((e - (k : Int)) / 2) (r * r != n), 0)

/-- x · 2^n (R542). -/
def scaleVal (a : Val) (n : Int) : Val :=
  match a with
  | .num neg m e st => .num neg m (e + n) st
  | v => v

/-- Whether a finite or infinite value is below another (R532); NaN compares with nothing. -/
def ltVal (a b : Val) : Bool :=
  match a, b with
  | .nan _, _ | _, .nan _ => false
  | .inf x, .inf y => x && !y
  | .inf x, _ => x
  | _, .inf y => !y
  | .num na ma ea _, .num nb mb eb _ =>
    let e := min ea eb
    decide (scaled na ma ea e < scaled nb mb eb e)

/-- Equality of values, with −0 = +0 (R532). -/
def eqVal (a b : Val) : Bool := !a.isNan && !b.isNan && !ltVal a b && !ltVal b a

/-! ### RandStep (R219) -/

/-- Rotation of a 32-bit word to the left. -/
def rotl32 (x : Word) (n : Nat) : Word := x.rotateLeft n

/-- The xoshiro128** step: the output and the four updated words (R219). -/
def randStep (s0 s1 s2 s3 : Word) : Word × List Word :=
  let out := rotl32 (s1 * 5) 7 * 9
  let t := s1 <<< 9
  let s2' := s2 ^^^ s0
  let s3' := s3 ^^^ s1
  let s1' := s1 ^^^ s2'
  let s0' := s0 ^^^ s3'
  let s2'' := s2' ^^^ t
  let s3'' := rotl32 s3' 11
  (out, [s0', s1', s2'', s3''])

end Sys2Proof.Machine
end

