-- ==== Sys2Proof/Machine/Checks.lean ====
section
/-! DEFINITION. The checks of an instruction's encoding, in the order of R203, from the encoding, the core kind, the window size and the handler state alone (R204). -/

namespace Sys2Proof

open Sys2Proof.Machine

/-- The kinds of cores (R205). -/
inductive CoreKind where
  | vector | control | dispatch
  deriving DecidableEq, Repr

/-- What the checks depend on besides the encoding (R204). -/
structure CheckCtx where
  kind : CoreKind
  window : Nat
  inHandler : Bool
  deriving DecidableEq, Repr

/-- The kinds of specifier a position takes: per-lane register, uniform register (a c register on a scalar core),
inline constant, inline integer, half of a buffer record (R161, R162). -/
structure Kinds where
  v : Bool := false
  s : Bool := false
  k : Bool := false
  n : Bool := false
  half : Bool := false
  deriving DecidableEq, Repr

/-- Any source of a V3 or VI instruction. -/
def kAny : Kinds := ⟨true, true, true, true, false⟩
/-- A per-lane register. -/
def kV : Kinds := ⟨true, false, false, false, false⟩
/-- A uniform register. -/
def kS : Kinds := ⟨false, true, false, false, false⟩
/-- A uniform register or an inline integer. -/
def kSN : Kinds := ⟨false, true, false, true, false⟩
/-- A uniform register or an inline value. -/
def kSKN : Kinds := ⟨false, true, true, true, false⟩
/-- An inline integer. -/
def kN : Kinds := ⟨false, false, false, true, false⟩
/-- A per-lane or uniform register. -/
def kVS : Kinds := ⟨true, true, false, false, false⟩

/-- One used operand: its specifier, permutation, neg/abs pair, the kinds it may have, the type it is read in, and the
number of 32-bit registers it spans; `pair` when a register must be even (R161). -/
structure Use where
  o : Opnd
  perm : BitVec 7 := 0
  nabs : BitVec 2 := 0
  kinds : Kinds := kAny
  ty : Ty := .b32
  span : Nat := 1
  pair : Bool := false
  deriving DecidableEq, Repr

/-- The encoding of one instruction as the checks of R203 see it: one truth value for each check that is judged on
fields alone, and the operands used and unused. -/
structure Enc where
  sub : Bool := true
  ty : Bool := true
  rnd : Bool := true
  scope : Bool := true
  resv : Bool := true
  unused : List (Opnd × BitVec 7 × BitVec 2) := []
  uses : List Use := []
  extra : Bool := true
  deriving DecidableEq, Repr

/-- The zero specifier 0x000, which names v0. -/
def Opnd.isZero : Opnd → Bool
  | .v n => n == 0
  | _ => false

/-- The value of an inline constant in a floating type (R163). -/
def constVal (t : Ty) (k : Nat) : Option Val :=
  if k = 0 then some (.zero false)
  else if k = 1 then some (.zero true)
  else if k = 2 then some (.inf false)
  else if k = 3 then some (.inf true)
  else if k = 4 then some (.nan false)
  else if k = 5 then some (t.fmt.decode t.fmt.maxBits)
  else if k = 6 then some (.num false (2 ^ t.fmt.fw) t.fmt.qmin false)
  else if k = 7 then some (.num false 1 t.fmt.qmin false)
  else if k < 0x18 then some (.num false 1 ((k : Int) - 16) false)
  else if k < 0x28 then some (.num true 1 ((k : Int) - 32) false)
  else if k < 0x38 then some (Val.ofInt ((k : Int) - 37))
  else none

/-- The pattern of a value that a floating type holds exactly (R163). -/
def exactBits (t : Ty) (v : Val) : Option (BitVec 64) :=
  match v with
  | .nan _ => if t.fmt.hasNan then some (BitVec.ofNat 64 t.fmt.nanBits) else none
  | .inf _ => if t.fmt.hasInf then some (roundTo t .rne true v).1 else none
  | .num _ _ _ _ =>
    let r := roundTo t .rne true v
    if r.2 = 0 then some r.1 else none

/-- The value an inline constant or integer delivers in a type, if the type holds it (R163). A packed MX word takes an
inline integer as its bits (log entry 20). -/
def inlineBits (t : Ty) : Opnd → Option (BitVec 64)
  | .const k =>
    if t.integral then some (wrap t.width (-(k.toNat : Int) - 1))
    else if t.floating then (constVal t k.toNat).bind (exactBits t)
    else none
  | .int n =>
    if t.floating then exactBits t (Val.ofInt n.toNat) else some (BitVec.ofNat 64 n.toNat)
  | _ => none

/-- Check 0x09 for one operand: kind, window, evenness and representable value (R161, R162, R163). -/
def Use.specOk (c : CheckCtx) (u : Use) : Bool :=
  match u.o with
  | .v n => c.kind == .vector && u.kinds.v && !(u.pair && n.toNat % 2 == 1)
      && decide (n.toNat + u.span ≤ c.window)
  | .s n =>
    match c.kind with
    | .vector => u.kinds.s && !(u.pair && n.toNat % 2 == 1) && decide (n.toNat + u.span ≤ 64)
    | _ =>
      let regs := if u.pair then u.span / 2 else u.span
      if n.toNat < 32 then u.kinds.s && decide (n.toNat + regs ≤ 32) else u.kinds.half
  | .const _ => u.kinds.k && (inlineBits u.ty u.o).isSome
  | .int _ => u.kinds.n && (inlineBits u.ty u.o).isSome
  | .resv _ => false

/-- A permutation code that R142 and R143 allow. -/
def permOk (p : BitVec 7) : Bool :=
  if p.toNat / 32 = 3 then decide (p.toNat % 32 ≤ 5) else true

/-- Check 0x0A for one operand (R143). -/
def Use.permOk (u : Use) : Bool :=
  match u.o with
  | .v _ => Sys2Proof.permOk u.perm
  | _ => u.perm == 0

/-- Check 0x0B for one operand (R166). -/
def Use.nabsOk (u : Use) : Bool := u.nabs == 0 || u.ty.floating

/-- Check 0x08 for the unused operands. -/
def unusedOk (l : List (Opnd × BitVec 7 × BitVec 2)) : Bool :=
  l.all fun x => x.1.isZero && x.2.1 == 0 && x.2.2 == 0

/-- The first of the checks 0x04 to 0x0B and 0x0D that an encoding fails (R203). -/
def Enc.failing (c : CheckCtx) (e : Enc) : Option (BitVec 8) :=
  if !e.sub then some 0x04
  else if !e.ty then some 0x05
  else if !e.rnd then some 0x06
  else if !e.scope then some 0x07
  else if !(e.resv && unusedOk e.unused) then some 0x08
  else if !(e.uses.all (Use.specOk c)) then some 0x09
  else if !(e.uses.all Use.permOk) then some 0x0A
  else if !(e.uses.all Use.nabsOk) then some 0x0B
  else if !e.extra then some 0x0D
  else none

/-! ### Fields of the V3 and VI formats -/

/-- The neg/abs pair of srcA, srcB or srcC of V3 (R168). -/
def V3.na (f : V3) : BitVec 2 := f.nabs.extractLsb' 4 2
/-- The neg/abs pair of srcB. -/
def V3.nb (f : V3) : BitVec 2 := f.nabs.extractLsb' 2 2
/-- The neg/abs pair of srcC. -/
def V3.nc (f : V3) : BitVec 2 := f.nabs.extractLsb' 0 2
/-- The neg/abs pair of srcA of VI (R168). -/
def VI.na (f : VI) : BitVec 2 := f.nabs.extractLsb' 2 2
/-- The neg/abs pair of srcB of VI. -/
def VI.nb (f : VI) : BitVec 2 := f.nabs.extractLsb' 0 2

/-- srcA of V3 read in a type. -/
def V3.useA (f : V3) (t : Ty) : Use := ⟨f.a, f.pa, f.na, kAny, t, if t.wide then 2 else 1, t.wide⟩
/-- srcB of V3 read in a type. -/
def V3.useB (f : V3) (t : Ty) : Use := ⟨f.b, f.pb, f.nb, kAny, t, if t.wide then 2 else 1, t.wide⟩
/-- srcC of V3 read in a type. -/
def V3.useC (f : V3) (t : Ty) : Use := ⟨f.c, f.pc, f.nc, kAny, t, if t.wide then 2 else 1, t.wide⟩
/-- An unused srcB. -/
def V3.noB (f : V3) : Opnd × BitVec 7 × BitVec 2 := (f.b, f.pb, f.nb)
/-- An unused srcC. -/
def V3.noC (f : V3) : Opnd × BitVec 7 × BitVec 2 := (f.c, f.pc, f.nc)
/-- An unused srcA. -/
def V3.noA (f : V3) : Opnd × BitVec 7 × BitVec 2 := (f.a, f.pa, f.na)
/-- srcA of VI read in a type. -/
def VI.useA (f : VI) (t : Ty) : Use := ⟨f.a, f.pa, f.na, kAny, t, if t.wide then 2 else 1, t.wide⟩
/-- srcB of VI read in a type. -/
def VI.useB (f : VI) (t : Ty) : Use := ⟨f.b, f.pb, f.nb, kAny, t, if t.wide then 2 else 1, t.wide⟩

/-- A per-lane destination of a number of registers. -/
def dstV (o : Opnd) (span : Nat) (pair : Bool) : Use := { o := o, kinds := kV, span := span, pair := pair }
/-- A uniform destination of a number of registers. -/
def dstS (o : Opnd) (span : Nat) (pair : Bool) : Use := { o := o, kinds := kS, span := span, pair := pair }
/-- The registers a value of a type takes. -/
def Machine.Ty.regs (t : Ty) : Nat := if t.wide then 2 else 1
/-- A per-lane destination of one value of a type. -/
def dstT (o : Opnd) (t : Ty) : Use := dstV o t.regs t.wide

/-- How an instruction uses its rounding field (R165): not at all, or codes up to a bound. -/
def rndOk (rnd : BitVec 3) (upTo : Nat) : Bool := decide (rnd.toNat ≤ upTo)

/-- A V3 instruction: its type in a class, the types it accepts, its allowed sub-ops, its rounding bound, its allowed
flag bits, and its operands as functions of the type. -/
def v3Enc (f : V3) (t : Option Ty) (tys : List Ty) (sub : Bool) (rnd : Nat) (flags : Nat)
    (uses : Ty → List Use) (unused : List (Opnd × BitVec 7 × BitVec 2)) (extra : Ty → Bool := fun _ => true) : Enc :=
  let ty := t.getD .b32
  { sub := sub, ty := t.any (fun x => tys.contains x), rnd := rndOk f.rnd rnd, resv := f.z == 0,
    uses := uses ty, unused := unused, extra := decide (f.flags.toNat &&& (15 - flags) = 0) && extra ty }

/-- The same for class none: the type field holds 0 (R195). -/
def v3None (f : V3) (sub : Bool) (uses : List Use) (unused : List (Opnd × BitVec 7 × BitVec 2))
    (extra : Bool := true) : Enc :=
  { sub := sub, ty := f.ty == 0, rnd := rndOk f.rnd 0, resv := f.z == 0,
    uses := uses, unused := unused, extra := f.flags == 0 && extra }

/-- A VI twin (R196). `two` when srcB is a source. -/
def viEnc (f : VI) (t : Option Ty) (tys : List Ty) (sub : Bool) (rnd : Nat) (dst : Ty → Use) (two : Bool) : Enc :=
  let ty := t.getD .b32
  { sub := sub, ty := t.any (fun x => tys.contains x), rnd := rndOk f.rnd rnd,
    uses := dst ty :: f.useA ty :: (if two then [f.useB ty] else []),
    unused := if two then [] else [(f.b, f.pb, f.nb)] }

/-- The types of integer addition (R545). -/
def tysInt : List Ty := [.i32, .i64, .n32, .n64]
/-- The bit types. -/
def tysBits : List Ty := [.b32, .b64]
/-- The floating types of arithmetic (R528). -/
def tysFp : List Ty := [.f64, .f32, .f16, .bf16]
/-- The types of comparison for a relation (R545). -/
def tysCmp (sub : Nat) : List Ty := if sub < 2 then tysInt ++ tysBits else tysInt
/-- The types of FCLASS (R531). -/
def tysClass : List Ty := [.f64, .f32, .f16, .bf16, .e4m3, .e5m2, .e2m1]
/-- The types of FCMP (R532). -/
def tysFcmp : List Ty := [.f64, .f32, .f16, .bf16, .e4m3, .e5m2]
/-- The types of conversion (R517). -/
def tysCvt : List Ty := tysClass ++ [.i8, .i16, .i32, .i64, .n8, .n16, .n32, .n64]
/-- The MX types. -/
def tysMx : List Ty := [.mxe4m3, .mxe5m2, .mxe2m1, .mxi8]
/-- The numeric types. -/
def tysNum : List Ty := tysClass ++ tysMx ++ [.i8, .n8, .i32]
/-- The numeric types other than MX (R616). -/
def tysNumPlain : List Ty := tysClass ++ [.i8, .n8, .i32]

/-- The source type of CVT and CVTEF (R197). -/
def cvtSrc (sub : BitVec 6) : Option Ty :=
  if sub.getLsbD 4 then intTy (sub.toNat % 16) else numTy (sub.toNat % 16)
/-- The destination type of CVT (R194). -/
def cvtDst (sub : BitVec 6) (ty : BitVec 4) : Option Ty :=
  if sub.getLsbD 5 then intTy ty.toNat else numTy ty.toNat
/-- The unpacked type of MXPACK and MXUNPACK (R197). -/
def mxPlain (sub : BitVec 6) : Option Ty :=
  match sub.toNat with
  | 1 => some .f32 | 2 => some .f16 | 3 => some .bf16 | _ => none
/-- Whether a type takes .NOSAT (R223). -/
def Machine.Ty.takesNosat (t : Ty) : Bool :=
  t == .e4m3 || t == .e5m2 || t == .mxe4m3 || t == .mxe5m2
/-- Flag [8] of CVT, CVTEF, MXPACK and MXUNPACK (R186). -/
def V3.nosat (f : V3) : Bool := f.flags.getLsbD 0

/-- Two sources of the instruction's type and a destination of it. -/
def encBin (f : V3) (t : Option Ty) (tys : List Ty) (rnd : Nat) : Enc :=
  v3Enc f t tys (f.sub == 0) rnd 0 (fun t => [dstT f.dst t, f.useA t, f.useB t]) [f.noC]
/-- One source. -/
def encUn (f : V3) (t : Option Ty) (tys : List Ty) (rnd : Nat) : Enc :=
  v3Enc f t tys (f.sub == 0) rnd 0 (fun t => [dstT f.dst t, f.useA t]) [f.noB, f.noC]
/-- Three sources. -/
def encTri (f : V3) (t : Option Ty) (tys : List Ty) (rnd : Nat) : Enc :=
  v3Enc f t tys (f.sub == 0) rnd 0 (fun t => [dstT f.dst t, f.useA t, f.useB t, f.useC t]) []
/-- One source and a 32-bit destination (R515). -/
def encCount (f : V3) : Enc :=
  v3Enc f (intTy f.ty.toNat) tysBits (f.sub == 0) 0 0 (fun t => [dstV f.dst 1 false, f.useA t]) [f.noB, f.noC]
/-- A shift: srcB is one 32-bit element (R591). -/
def encShift (f : V3) : Enc :=
  v3Enc f (intTy f.ty.toNat) tysBits (f.sub == 0) 0 0
    (fun t => [dstT f.dst t, f.useA t, f.useB .b32]) [f.noC]

/-- REDUCE and SCAN (R585). -/
def encReduce (f : V3) (scan : Bool) : Enc :=
  let op := f.sub.toNat % 16
  let cls := if op < 8 then numTy f.ty.toNat else intTy f.ty.toNat
  let tys := if op < 3 then tysFp else if op < 11 then tysInt else tysBits
  let subOk := (op < 3 || (8 ≤ op && op ≤ 13)) && (if scan then f.sub.toNat < 32 else f.sub.toNat < 16)
  { v3Enc f cls tys subOk (if op = 0 then 6 else 0) 0
      (fun t => [if scan then dstT f.dst t else dstS f.dst t.regs t.wide, f.useA t]) [f.noB, f.noC]
      (fun _ => f.rnd != 6) with
    rnd := if op = 0 then rndOk f.rnd 6 else f.rnd == 0 || f.rnd == 6 }

/-! ### Control instructions (R174, R198, R199) -/

/-- The B-format fields of a control instruction: the allowed KINDs, whether link, target, DEPTH and NEG are used. -/
def bEnc (c : CheckCtx) (f : BF) (kinds : List Nat) (link target depth neg : Bool) : Enc :=
  let k := f.kind.toNat
  let scalar := c.kind != .vector
  { sub := f.sub == 0 && has kinds k && !(scalar && k == 3)
      && decide (f.slot.toNat ≤ if target then 4 else 0)
      && decide (f.depth.toNat ≤ if depth then 61 else 0),
    resv := f.z == 0 && (neg || f.neg == 0) && (target || f.delta == 0)
      && (link || f.link.isZero) && (decide (2 ≤ k) || f.cond.isZero),
    uses := (if k = 2 then [{ o := f.cond, kinds := kS }] else if k = 3 then [{ o := f.cond, kinds := kV }] else [])
      ++ (if link then [{ o := f.link, kinds := if scalar then kS else kV, span := 2, pair := true }] else []) }

/-! ### Uniform instructions (R171, R592) -/

/-- The types of SALU by sub-op (R592). -/
def tysSalu (sub : Nat) : List Ty := if 3 ≤ sub ∧ sub ≤ 8 then tysBits else tysInt

/-- A uniform instruction; `b32` when srcB is one 32-bit element, `single` when its only source is srcA or the immediate. -/
def uEnc (f : UF) (tys : List Ty) (sub : Bool) (dst : Bool) (b32 single halves : Bool) : Enc :=
  let t := (intTy f.ty.toNat).getD .b32
  let k := { kSKN with half := halves && t == .b64 }
  let imm := f.useImm == 1
  let useA : Use := { o := f.a, kinds := k, ty := t, span := t.regs, pair := t.wide }
  let useB : Use := { o := f.b, kinds := kSKN, ty := if b32 then .b32 else t,
                      span := if b32 then 1 else t.regs, pair := !b32 && t.wide }
  let z (o : Opnd) : Opnd × BitVec 7 × BitVec 2 := (o, 0, 0)
  { sub := sub, ty := (intTy f.ty.toNat).any (fun x => tys.contains x),
    resv := f.z == 0 && (imm || f.imm == 0),
    uses := (if dst then [{ dstS f.dst t.regs t.wide with kinds := { kS with half := halves && t == .b64 } }] else [])
      ++ (if single && imm then [] else [useA]) ++ (if single || imm then [] else [useB]),
    unused := (if dst then [] else [z f.dst]) ++ (if single && imm then [z f.a] else [])
      ++ (if single || imm then [z f.b] else []) ++ [z f.c] }

/-! ### Memory instructions (R172) -/

/-- The order codes a memory instruction accepts (R314): loads, stores, atomics, and the line operations. -/
inductive MemSort where
  | load | store | atomic | lines | stack
  deriving DecidableEq, Repr

/-- The number of elements per lane that COUNT encodes (R172). -/
def MF.n (f : MF) : Nat := match f.count.toNat with | 0 => 1 | 1 => 2 | _ => 4
/-- CLAMP (R172). -/
def MF.clamp (f : MF) : Bool := f.flags.getLsbD 2
/-- PROMOTE. -/
def MF.promoted (f : MF) : Bool := f.flags.getLsbD 1
/-- RET. -/
def MF.ret (f : MF) : Bool := f.flags.getLsbD 0

/-- Whether an order code suits the sort (R314). -/
def orderOk (k : MemSort) (o : BitVec 2) : Bool :=
  match k with
  | .load => o != 2
  | .store => o != 1
  | .atomic => true
  | .lines | .stack => o == 0

/-- Where PROMOTE is accepted (R327). -/
def MF.promoteOk (f : MF) : Bool :=
  !f.promoted || ((f.order == 1 || f.order == 3) && (f.scope == 2 || f.scope == 3))

/-- A load, store or line operation: its class and types, sub-op, operands, whether it uses a record, an index, a route,
and CLAMP, PROMOTE. -/
def mEnc (f : MF) (k : MemSort) (ty : Bool) (sub : Bool) (data : List Use) (index : Option Use) (c : Option Use)
    (brec route clamp promote ret : Bool) : Enc :=
  let z (o : Opnd) : Opnd × BitVec 7 × BitVec 2 := (o, 0, 0)
  { sub := sub, ty := ty, scope := decide (f.scope.toNat ≤ 4), resv := f.z == 0 && f.z1 == 0,
    uses := data ++ index.toList ++ c.toList,
    unused := (if data.isEmpty then [z f.data] else []) ++ (if index.isNone then [z f.index] else [])
      ++ (if c.isNone then [z f.c] else []),
    extra := orderOk k f.order && (brec || f.brec == 0) && (route || f.route == 0)
      && (clamp || !f.clamp) && (if promote then f.promoteOk else !f.promoted) && (ret || !f.ret)
      && (match k with
        | .load | .store | .lines => f.count != 3
        | .atomic => f.count == 0
        | .stack => f.scope == 0 && f.offset == 0) }

/-- The per-lane index operand. -/
def MF.idx (f : MF) : Use := { o := f.index, kinds := kV, ty := .n32 }

/-- A load or store of the integer class (R553, R604). -/
def encLdSt (f : MF) (k : MemSort) (uni brec route clamp promote : Bool) : Enc :=
  let t := (intTy f.ty.toNat).getD .b32
  let data : Use := { o := f.data, kinds := if uni then kS else kV, span := t.regs * f.n, pair := t.wide }
  mEnc f k (intTy f.ty.toNat).isSome (f.sub == 0) [data]
    (some (if uni then { o := f.index, kinds := kSN, ty := .n32 } else f.idx)) none brec route clamp promote false

/-- The types of an atomic's sub-op (R482). -/
def tysAtom (sub : Nat) : List Ty :=
  if sub = 0 ∨ sub = 3 ∨ sub = 4 then tysInt
  else if sub = 1 ∨ sub = 2 then [.f32, .f64]
  else if sub ≤ 9 then tysBits
  else [.n32, .n64]

/-- The type of an atomic (R194). -/
def MF.atomTy (f : MF) : Option Ty :=
  if f.sub = 1 ∨ f.sub = 2 then numTy f.ty.toNat else intTy f.ty.toNat

/-- ATOM, ATOML and ATOMP (R481, R486). -/
def encAtom (f : MF) (global route : Bool) : Enc :=
  let t := f.atomTy.getD .b32
  let u (o : Opnd) : Use := { o := o, kinds := kV, span := t.regs, pair := t.wide }
  let e := mEnc f .atomic (f.atomTy.any (fun x => (tysAtom f.sub.toNat).contains x))
    (decide (f.sub.toNat ≤ 11) && (global || f.sub != 2)) [u f.data] (some f.idx)
    (if f.sub = 9 then some (u f.c) else none) global route global global true
  { e with extra := e.extra && !(f.sub == 2 && f.ret) }

/-- PREF, RENEW, EXPIRE and FLUSH (R525, R575, R589). -/
def encLines (f : MF) : Enc :=
  mEnc f .lines (f.ty == 0) (f.sub == 0) [] (some f.idx) none true false false false false

/-- SPILL and FILL (R539, R602): COUNT 0b11 fails check 0x04. -/
def encStack (f : MF) : Enc :=
  mEnc f .stack (f.ty == 0) (f.sub == 0 && f.count != 3) [dstV f.data f.n false] none none
    false false false false false

/-! ### Engine, tile and barrier commands (R173) -/

/-- BIND (R173). -/
def XF.binds (f : XF) : Bool := f.bind == 1
/-- REMOTE, flag [16] (R490). -/
def XF.remote (f : XF) : Bool := f.flags.getLsbD 0

/-- An X command: type, sub-op, the operands used, and what else must hold. -/
def xEnc (f : XF) (ty sub : Bool) (a b c : Option Use) (flags : Nat) (tile bar route : Bool) (extra : Bool := true)
    (resv : Bool := true) : Enc :=
  let z (o : Opnd) : Opnd × BitVec 7 × BitVec 2 := (o, 0, 0)
  { sub := sub, ty := ty, resv := f.z == 0 && resv,
    uses := a.toList ++ b.toList ++ c.toList,
    unused := (if a.isNone then [z f.a] else []) ++ (if b.isNone then [z f.b] else [])
      ++ (if c.isNone then [z f.c] else []),
    extra := decide (f.flags.toNat &&& (31 - flags) = 0) && (tile || (f.tile == 0 && f.bind == 0))
      && (bar || f.bar == 0) && (route || f.route == 0) && extra }

/-- A uniform register or inline integer of 32 bits. -/
def uSN (o : Opnd) : Use := { o := o, kinds := kSN, ty := .n32 }
/-- An even uniform pair, or a c register. -/
def uS2 (o : Opnd) : Use := { o := o, kinds := kS, ty := .b64, span := 2, pair := true }

/-- A copy command (R347, R616): its types, whether opB and opC are used. A non-zero route fails check 0x08. On the
dispatch core opB, bar, tile and BIND hold zero (R618). -/
def encCopy (c : CheckCtx) (f : XF) (tys : List Ty) (sub third : Bool) : Enc :=
  let disp := c.kind == .dispatch
  xEnc f ((numTy f.ty.toNat).any (fun x => tys.contains x)) sub (some (uSN f.a))
    (if disp then none else some (uSN f.b)) (if third then some (uSN f.c) else none) 0 (!disp) (!disp) true
    (f.binds || f.tile == 0) (f.route == 0)

/-- The types of XREDUCE's sub-ops (R347). -/
def tysXred (sub : Nat) : List Ty := if 2 ≤ sub ∧ sub ≤ 4 then [.i32] else [.f32, .f64]

/-- The selector of a barrier instruction: 0x000 on a vector core, 0x180 to 0x18F on a control core (R490). -/
def selectorUse (c : CheckCtx) (o : Opnd) : Use :=
  match o with
  | .v n => if c.kind == .vector && n == 0 then { o := .int 0, kinds := kN } else { o := .resv 0 }
  | .int n => if c.kind == .control && decide (n.toNat < 16) then { o := o, kinds := kN } else { o := .resv 0 }
  | _ => { o := .resv 0 }

/-- A barrier instruction on an object that may be remote (R490). -/
def encBarrier (c : CheckCtx) (f : XF) (sub parity remote : Bool) : Enc :=
  xEnc f (f.ty == 0) sub (if parity then some (uSN f.a) else none) (some (selectorUse c f.b)) none
    (if remote then 1 else 0) false true (remote && f.remote)

/-! ### System, graphics and matrix instructions -/

/-- An S instruction: which of dst, srcA, srcB it uses, what CODE may hold, and whether it takes an order and scope. -/
def sEnc (f : SF) (sub : Bool) (dst a b : Option Use) (code : Bool) (ordered : Bool := false) (extra : Bool := true) : Enc :=
  let z (o : Opnd) : Opnd × BitVec 7 × BitVec 2 := (o, 0, 0)
  { sub := sub, ty := f.ty == 0, scope := decide (f.scope.toNat ≤ 4), resv := f.z == 0,
    uses := dst.toList ++ a.toList ++ b.toList,
    unused := (if dst.isNone then [z f.dst] else []) ++ (if a.isNone then [z f.a] else [])
      ++ (if b.isNone then [z f.b] else []),
    extra := (ordered || (f.scope == 0 && f.order == 0)) && (code || f.code == 0) && extra }

/-- A G instruction (R366). -/
def gEnc (f : GF) (ty sub : Bool) (dst a b c : Option Use) (brec count : Bool) (flags : Nat) (extra : Bool := true) : Enc :=
  let z (o : Opnd) : Opnd × BitVec 7 × BitVec 2 := (o, 0, 0)
  { sub := sub, ty := ty, resv := f.z == 0,
    uses := dst.toList ++ a.toList ++ b.toList ++ c.toList,
    unused := (if dst.isNone then [z f.dst] else []) ++ (if a.isNone then [z f.a] else [])
      ++ (if b.isNone then [z f.b] else []) ++ (if c.isNone then [z f.c] else []),
    extra := (brec || f.brec == 0) && (count || f.count == 0)
      && decide (f.flags.toNat &&& (63 - flags) = 0) && extra }

/-- A per-lane block of a number of registers. -/
def uV (o : Opnd) (span : Nat := 1) (pair : Bool := false) : Use := { o := o, kinds := kV, span := span, pair := pair }
/-- A uniform register. -/
def uS (o : Opnd) (span : Nat := 1) : Use := { o := o, kinds := kS, span := span }

/-- A quad selector 0x180 to 0x183 (R360). -/
def quadUse (o : Opnd) : Use :=
  match o with
  | .int n => if n.toNat < 4 then { o := o, kinds := kN } else { o := .resv 0 }
  | _ => { o := .resv 0 }

/-- An MX-format instruction (R175): which of acc, tile, QCORE and the operands it uses. -/
def mxEnc (f : MXF) (ty sub : Bool) (a b c : Option Use) (acc tile qcore : Bool) (flags : Nat) (extra : Bool := true) : Enc :=
  let z (o : Opnd) : Opnd × BitVec 7 × BitVec 2 := (o, 0, 0)
  { sub := sub, ty := ty, resv := f.z == 0,
    uses := a.toList ++ b.toList ++ c.toList,
    unused := (if a.isNone then [z f.a] else []) ++ (if b.isNone then [z f.b] else [])
      ++ (if c.isNone then [z f.c] else []),
    extra := (acc || f.acc == 0) && (tile || f.tile == 0) && (qcore || f.qcore == 0)
      && decide (f.flags.toNat &&& (15 - flags) = 0) && extra }

/-- The operand pairs of MMA and the K of each (R360). -/
def mmaK (a b : Ty) : Option Nat :=
  let fp8 (t : Ty) := t == .e4m3 || t == .e5m2
  let i8 (t : Ty) := t == .i8 || t == .n8
  let mx8 (t : Ty) := t == .mxe4m3 || t == .mxe5m2
  if (fp8 a && fp8 b) || (i8 a && i8 b) || (mx8 a && mx8 b) || (a == .mxi8 && b == .mxi8) then some 32
  else if a == .mxe2m1 && b == .mxe2m1 then some 64
  else if (a == .f16 && b == .f16) || (a == .bf16 && b == .bf16) then some 16
  else if a == .f64 && b == .f64 then some 1
  else none

/-- The types of an MMA operand (R360). -/
def tysMma : List Ty := [.e4m3, .e5m2, .i8, .n8, .mxe4m3, .mxe5m2, .mxi8, .mxe2m1, .f16, .bf16, .f64]

/-- The drain types of an MMA pair. -/
def mmaTypes (f : MXF) : Option Nat :=
  (numTy f.ta.toNat).bind fun a => (numTy f.tb.toNat).bind fun b => mmaK a b

/-- The number of a special register (R178). -/
def specialOk (n : Nat) : Bool :=
  has [0, 1, 2, 3, 4, 5, 6, 7, 0x10, 0x11, 0x12, 0x13, 0x14, 0x18, 0x19, 0x1A, 0x20, 0x21, 0x22, 0x30, 0x31, 0x32] n

/-- The special registers of 64 bits (R566). -/
def specialWide (n : Nat) : Bool := has [0x10, 0x11, 0x12, 0x1A, 0x31, 0x32] n

/-- The special registers held per lane (R566). -/
def specialLane (n : Nat) : Bool := has [0, 7, 0x30, 0x31, 0x32] n

/-- Whether a specifier is a per-lane register. -/
def Opnd.isV : Opnd → Bool
  | .v _ => true
  | _ => false

/-- Whether a specifier is an odd register. -/
def Opnd.odd : Opnd → Bool
  | .v n => n.toNat % 2 == 1
  | .s n => n.toNat % 2 == 1
  | _ => false

/-- The number in a register specifier. -/
def Opnd.reg : Opnd → Nat
  | .v n => n.toNat
  | .s n | .const n | .int n | .resv n => n.toNat

/-! ### Paired slots (R179 to R182, R200 to R202) -/

/-- The half-ops that read their type in the numeric class (R201). -/
def HalfOp.numeric : HalfOp → Bool
  | .fadd | .fmul | .fmin | .fmax | .fldexp | .frint | .fclass
  | .frcp | .frsq | .fsqrt | .fexp2 | .flog2 | .fsin | .fcos | .ftanh
  | .cvtF32 | .cvtF16 | .cvtBF16 | .cvtI32 | .cvtF64 => true
  | _ => false

/-- The half-ops with one source (R202). -/
def HalfOp.single : HalfOp → Bool
  | .mov | .ineg | .frint | .fclass | .iabs | .not | .brev | .clz | .ffs | .popc
  | .frcp | .frsq | .fsqrt | .fexp2 | .flog2 | .fsin | .fcos | .ftanh
  | .cvtF32 | .cvtF16 | .cvtBF16 | .cvtI32 | .cvtF64 => true
  | _ => false

/-- The type of a half. -/
def Half.type (h : Half) : Option Ty := if h.op.numeric then numTy h.ty.toNat else intTy h.ty.toNat

/-- The types a half-op accepts, as the opcode of the same mnemonic does (R201). -/
def HalfOp.tys : HalfOp → List Ty
  | .mov | .and | .andn | .or | .orn | .xor | .not | .shl | .shr | .shra | .rotl
  | .brev | .clz | .ffs | .popc => tysBits
  | .iadd | .isub | .imul | .imin | .imax | .imulh => tysInt
  | .ineg | .iabs => [.i32, .i64]
  | .fadd | .fmul | .fmin | .fmax | .fldexp | .frint => tysFp
  | .fclass => tysClass
  | .frcp | .frsq | .fsqrt => [.f64, .f32, .f16]
  | .fexp2 | .flog2 | .fsin | .fcos | .ftanh => [.f32, .f16]
  | .cvtF32 | .cvtF16 | .cvtBF16 | .cvtI32 | .cvtF64 => tysClass ++ [.i8, .n8, .i32]

/-- The type a half reads srcA in. -/
def Half.srcTy (h : Half) : Ty :=
  match h.op with
  | .cvtF32 => .f32 | .cvtF16 => .f16 | .cvtBF16 => .bf16 | .cvtI32 => .i32 | .cvtF64 => .f64
  | _ => h.type.getD .b32

/-- The type a half reads srcB in: one 32-bit element for shifts and FLDEXP (R542, R591). -/
def Half.srcBTy (h : Half) : Ty :=
  match h.op with
  | .shl | .shr | .shra | .rotl => .b32
  | .fldexp => .i32
  | _ => h.type.getD .b32

/-- The registers a half writes. -/
def Half.dstRegs (h : Half) : Nat :=
  match h.op with
  | .fclass | .clz | .ffs | .popc => 1
  | _ => (h.type.getD .b32).regs

/-- The encoding of one half. -/
def Half.enc (h : Half) : Enc :=
  let n := h.dstRegs
  let sa := h.srcTy
  let sb := h.srcBTy
  { ty := h.type.any (fun x => h.op.tys.contains x),
    unused := if h.op.single then [(.v h.b, h.pb, 0)] else [],
    uses := dstV (.v h.dst) n (n == 2) :: { o := .v h.a, perm := h.pa, ty := sa, span := sa.regs, pair := sa.wide }
      :: (if h.op.single then [] else
          [{ o := .v h.b, perm := h.pb, ty := sb, span := sb.regs, pair := sb.wide }]) }

/-- The rows a half reads. -/
def Half.reads (h : Half) : List Nat :=
  (List.range h.srcTy.regs).map (h.a.toNat + ·)
    ++ (if h.op.single then [] else (List.range h.srcBTy.regs).map (h.b.toNat + ·))

/-- The rows a half writes. -/
def Half.writes (h : Half) : List Nat := (List.range h.dstRegs).map (h.dst.toNat + ·)

/-- The SFU and FMA-64 classes (R201). -/
def Half.heavy (h : Half) : Bool :=
  match h.op with
  | .frcp | .frsq | .fsqrt | .fexp2 | .flog2 | .fsin | .fcos | .ftanh
  | .cvtF32 | .cvtF16 | .cvtBF16 | .cvtI32 | .cvtF64 => true
  | .imul | .fadd | .fmul | .fmin | .fmax | .fldexp | .frint | .imulh => (h.type.getD .b32).wide
  | _ => false

/-- Whether no two of a list of rows lie in one bank (R126, R181). -/
def banksOk : List Nat → Bool
  | [] => true
  | r :: l => l.all (fun q => q % 8 != r % 8) && banksOk l

/-- The legality of a pair (R181). -/
def pairOk (x y : Half) : Bool :=
  let rd := (x.reads ++ y.reads).eraseDups
  !(x.reads.any (has y.writes)) && !(y.reads.any (has x.writes)) && !(x.writes.any (has y.writes))
    && decide (rd.length ≤ 4) && banksOk rd && !(x.heavy && y.heavy)

/-- The lower of two failing details, with whether it failed in the second half only (R203). -/
def lowerDetail (x y : Option (BitVec 8)) : Option (BitVec 8 × Bool) :=
  match x, y with
  | none, none => none
  | some d, none => some (d, false)
  | none, some d => some (d, true)
  | some d, some e => if d ≤ e then some (d, false) else some (e, true)

/-! ### The instructions -/

/-- Whether a core kind executes an instruction (R205). Machine events have no core kind and pass. -/
def coreOk (k : CoreKind) (i : Instr) : Bool :=
  match i with
  | .mma _ | .acczero _ | .accload _ | .accdrain _ | .mmawait _ => k == .control
  | .ill _ _ | .nop _ | .bra _ | .brx _ | .call _ | .ret _ | .ifc _ | .elsec _ | .endif _ | .loop _
  | .breakif _ | .contif _ | .endloop _ | .reconv _ | .exit _ | .salu _ | .scmp _ | .ssel _ | .smov _
  | .ldu _ | .waitcnt _ | .fence _ | .clkadv _ | .spinhint _ | .sleep _ | .waitt _ | .semsig _
  | .semwait _ | .movsp _ | .setsp _ | .trap _ | .bkpt _ => true
  | .xcpy _ | .xfill _ | .xcancel _ | .launch _ => k == .vector || k == .dispatch
  | .tileq _ | .bararv _ | .barwait _ | .bartest _ | .syscall _ | .eret _ => k == .vector || k == .control
  | _ => k == .vector

/-- The encoding of an instruction as R203 judges it; nothing for a machine event. -/
def encOf (c : CheckCtx) (i : Instr) : Enc :=
  match i with
  | .nop f => { resv := f.z == 0 && f.dst.isZero && f.ty == 0 && f.rnd == 0 && f.sub == 0 && f.flags == 0,
                unused := [f.noA, f.noB, f.noC] }
  | .bra f => bEnc c f [0, 1, 2, 3] false true false true
  | .call f => bEnc c f [0, 1, 2] true true false true
  | .brx f | .ret f => bEnc c f [0] true false false false
  | .ifc f | .exit f => bEnc c f [0, 1, 2, 3] false false false true
  | .breakif f | .contif f => bEnc c f [1, 2, 3] false false true true
  | .elsec f | .endif f | .loop f | .reconv f => bEnc c f [0] false false false false
  | .endloop f => bEnc c f [0] false true false false
  | .iadd f | .isub f | .imul f | .imulh f | .imin f | .imax f => encBin f (intTy f.ty.toNat) tysInt 0
  | .iaddc f => v3Enc f (intTy f.ty.toNat) [.n32, .n64] (f.sub == 0) 0 0
      (fun t => [dstV f.dst (t.regs + 1) t.wide, f.useA t, f.useB t, f.useC .n32]) []
  | .ineg f | .iabs f => encUn f (intTy f.ty.toNat) [.i32, .i64] 0
  | .imad f => encTri f (intTy f.ty.toNat) tysInt 0
  | .imadw f => v3Enc f (intTy f.ty.toNat) [.i32, .n32] (f.sub == 0) 0 0
      (fun t => [dstV f.dst 2 true, f.useA t, f.useB t, f.useC (if t.signed then .i64 else .n64)]) []
  | .icmp f => v3Enc f (intTy f.ty.toNat) (tysCmp f.sub.toNat) (decide (f.sub.toNat ≤ 5)) 0 0
      (fun t => [dstV f.dst 1 false, f.useA t, f.useB t]) [f.noC]
  | .idot4 f => v3Enc f (intTy f.ty.toNat) [.i32] (decide (f.sub.toNat ≤ 3)) 0 0
      (fun t => [dstT f.dst t, f.useA t, f.useB t, f.useC t]) []
  | .sel f => v3Enc f (intTy f.ty.toNat) tysBits (f.sub == 0) 0 0
      (fun t => [dstT f.dst t, f.useA t, f.useB t, f.useC .b32]) []
  | .lea f => v3Enc f (intTy f.ty.toNat) tysBits
      (decide (f.sub.toNat ≤ if intTy f.ty.toNat = some .b32 then 31 else 63)) 0 0
      (fun t => [dstT f.dst t, f.useA t, f.useB .i32]) [f.noC]
  | .fadd f | .fmul f => encBin f (numTy f.ty.toNat) tysFp 6
  | .ffma f => encTri f (numTy f.ty.toNat) tysFp 6
  | .fmin f | .fmax f => encBin f (numTy f.ty.toNat) tysFp 0
  | .fcmp f => v3Enc f (numTy f.ty.toNat) tysFcmp (decide (f.sub.toNat ≤ 7)) 0 0
      (fun t => [dstV f.dst 1 false, f.useA t, f.useB t]) [f.noC]
  | .fclass f => v3Enc f (numTy f.ty.toNat) tysClass (f.sub == 0) 0 0
      (fun t => [dstV f.dst 1 false, f.useA t]) [f.noB, f.noC]
  | .frint f => encUn f (numTy f.ty.toNat) tysFp 6
  | .fldexp f => v3Enc f (numTy f.ty.toNat) tysFp (f.sub == 0) 6 0
      (fun t => [dstT f.dst t, f.useA t, f.useB .i32]) [f.noC]
  | .fdot2 f => v3Enc f (numTy f.ty.toNat) [.f16, .bf16] (f.sub == 0) 6 0
      (fun t => [dstV f.dst 1 false, f.useA t, f.useB t, f.useC .f32]) []
  | .fdivfix f => encTri f (numTy f.ty.toNat) [.f64, .f32, .f16] 6
  | .cvt f => { v3Enc f (cvtDst f.sub f.ty) tysCvt (cvtSrc f.sub).isSome 6 1
        (fun t => [dstT f.dst t, f.useA ((cvtSrc f.sub).getD .b32)]) [f.noB, f.noC]
        (fun t => !f.nosat || t.takesNosat) with
      ty := (cvtDst f.sub f.ty).any (fun x => tysCvt.contains x) && (cvtSrc f.sub).any (fun x => tysCvt.contains x),
      rnd := if (cvtSrc f.sub).any Ty.floating || (cvtDst f.sub f.ty).any Ty.floating then rndOk f.rnd 6
        else rndOk f.rnd 0 }
  | .cvtef f => v3Enc f (numTy f.ty.toNat)
      (if f.sub = 0 then [.f32, .f16, .bf16, .e4m3, .e5m2, .e2m1] else [.f16, .bf16, .e4m3, .e5m2, .e2m1])
      (decide (f.sub.toNat ≤ 1)) 6 1
      (fun _ => [dstV f.dst 2 false, f.useA (if f.sub = 0 then .f64 else .f32)]) [f.noB, f.noC]
      (fun t => !f.nosat || t.takesNosat)
  | .mxpack f => v3Enc f (numTy f.ty.toNat) tysMx (mxPlain f.sub).isSome 6 1
      (fun _ => [dstV f.dst 1 false, f.useA ((mxPlain f.sub).getD .f32)]) [f.noB, f.noC]
      (fun t => !f.nosat || t.takesNosat)
  | .mxunpack f => v3Enc f (numTy f.ty.toNat) tysMx (mxPlain f.sub).isSome 6 0
      (fun t => [dstV f.dst 1 false, f.useA t]) [f.noB, f.noC]
  | .frcp f | .frsq f => encUn f (numTy f.ty.toNat) [.f64, .f32, .f16] 0
  | .fsqrt f => encUn f (numTy f.ty.toNat) [.f64, .f32, .f16] 6
  | .fexp2 f | .flog2 f | .fsin f | .fcos f | .ftanh f => encUn f (numTy f.ty.toNat) [.f32, .f16] 0
  | .and f | .andn f | .or f | .orn f | .xor f => encBin f (intTy f.ty.toNat) tysBits 0
  | .not f | .brev f | .mov f => encUn f (intTy f.ty.toNat) tysBits 0
  | .shl f | .shr f | .shra f | .rotl f => encShift f
  | .bfe f => v3Enc f (intTy f.ty.toNat) tysInt (f.sub == 0) 0 0
      (fun t => [dstT f.dst t, f.useA t, f.useB .b32]) [f.noC]
  | .bfi f => v3Enc f (intTy f.ty.toNat) tysBits (f.sub == 0) 0 0
      (fun t => [dstT f.dst t, f.useA t, f.useB t, f.useC .b32]) []
  | .clz f | .ffs f | .popc f => encCount f
  | .movi f => { sub := f.sub == 0, ty := (intTy f.ty.toNat).any (fun x => [Ty.b32, .b64, .i64].contains x),
                 rnd := rndOk f.rnd 0, uses := [dstT f.dst ((intTy f.ty.toNat).getD .b32)],
                 unused := [(f.a, f.pa, f.na), (f.b, f.pb, f.nb)] }
  | .iaddVi f | .isubVi f | .imulVi f | .iminVi f | .imaxVi f =>
      viEnc f (intTy f.ty.toNat) tysInt (f.sub == 0) 0 (dstT f.dst) false
  | .imadVi f => viEnc f (intTy f.ty.toNat) tysInt (f.sub == 0) 0 (dstT f.dst) true
  | .icmpVi f => viEnc f (intTy f.ty.toNat) (tysCmp f.sub.toNat) (decide (f.sub.toNat ≤ 5)) 0
      (fun _ => dstV f.dst 1 false) false
  | .andVi f | .orVi f | .xorVi f => viEnc f (intTy f.ty.toNat) tysBits (f.sub == 0) 0 (dstT f.dst) false
  | .faddVi f | .fmulVi f => viEnc f (numTy f.ty.toNat) tysFp (f.sub == 0) 6 (dstT f.dst) false
  | .ffmaVi f => viEnc f (numTy f.ty.toNat) tysFp (f.sub == 0) 6 (dstT f.dst) true
  | .fcmpVi f => viEnc f (numTy f.ty.toNat) tysFcmp (decide (f.sub.toNat ≤ 7)) 0
      (fun _ => dstV f.dst 1 false) false
  | .shfl f => v3Enc f (intTy f.ty.toNat) tysBits (decide (f.sub.toNat ≤ 3)) 0 7
      (fun t => [dstT f.dst t, f.useA t, f.useB .n32]) [f.noC]
      (fun _ => decide (f.flags.toNat % 8 ≤ 5) && f.pa == 0)
  | .vote f => v3None f (decide (f.sub.toNat ≤ 1)) [{ o := f.dst, kinds := kVS }, f.useA .b32] [f.noB, f.noC]
  | .ballot f => v3None f (f.sub == 0) [dstS f.dst 1 false, f.useA .b32] [f.noB, f.noC]
  | .matchl f => v3Enc f (intTy f.ty.toNat) tysBits (decide (f.sub.toNat ≤ 1)) 0 0
      (fun t => [dstV f.dst 1 false, f.useA t]) [f.noB, f.noC]
  | .reduce f => encReduce f false
  | .scan f => encReduce f true
  | .lanerd f => v3Enc f (intTy f.ty.toNat) tysBits (f.sub == 0) 0 0
      (fun t => [{ o := f.dst, kinds := kVS, span := t.regs, pair := t.wide }, { f.useA t with kinds := kV },
        { f.useB .n32 with kinds := kSN }]) [f.noC]
      (fun _ => !f.dst.isV && f.pa == 0)
  | .lanewr f => v3Enc f (intTy f.ty.toNat) tysBits (f.sub == 0) 0 0
      (fun t => [{ o := f.dst, kinds := kVS, span := t.regs, pair := t.wide }, { f.useA t with kinds := kSKN },
        { f.useB .n32 with kinds := kSN }]) [f.noC]
      (fun _ => f.dst.isV)
  | .rand f => v3None f (f.sub == 0) [dstV f.dst 1 false, { f.useA .b32 with kinds := kV }] [f.noB, f.noC]
      (f.pa == 0 && decide (f.a.reg + 4 ≤ c.window) && !(decide (f.a.reg ≤ f.dst.reg) && decide (f.dst.reg < f.a.reg + 4)))
  | .salu f => uEnc f (tysSalu f.sub.toNat) (decide (f.sub.toNat ≤ 11)) true
      (decide (6 ≤ f.sub.toNat ∧ f.sub.toNat ≤ 8) || f.sub == 11) false false
  | .scmp f => uEnc f (tysCmp f.sub.toNat) (decide (f.sub.toNat ≤ 5)) false false false false
  | .ssel f => uEnc f tysBits (f.sub == 0) true false false false
  | .smov f => uEnc f tysBits (f.sub == 0) true false true true
  | .ld f => encLdSt f .load false true false true true
  | .ldu f => encLdSt f .load true true false true true
  | .ldl f => encLdSt f .load false false false false false
  | .ldp f => encLdSt f .load false false true false false
  | .st f => encLdSt f .store false true false true false
  | .stl f => encLdSt f .store false false false false false
  | .stp f => encLdSt f .store false false true false false
  | .atom f => encAtom f true false
  | .atoml f => encAtom f false false
  | .atomp f => encAtom f false true
  | .pref f | .renew f | .expire f | .flush f => encLines f
  | .spill f | .fill f => encStack f
  | .xcpy f => encCopy c f tysNum (f.sub == 0) false
  | .xgather f | .xscatter f => encCopy c f tysNumPlain (f.sub == 0) true
  | .xreduce f => encCopy c f (tysXred f.sub.toNat) (decide (f.sub.toNat ≤ 6)) (f.sub == 1)
  | .xfill f => encCopy c f tysNumPlain (f.sub == 0) false
  | .xpeer f => xEnc f (f.ty == 0) (f.sub == 0) (some (uSN f.a)) (some (uSN f.b)) (some (uSN f.c)) 0 false true true
  | .xcancel f => xEnc f (f.ty == 0) (f.sub == 0) none none none 0 (c.kind != .dispatch) (c.kind != .dispatch) false
      (if f.binds then f.bar == 0 else f.tile == 0)
  | .tiledef f => xEnc f (f.ty == 0) (f.sub == 0) (some (uS2 f.a)) none none 0 true false false (!f.binds)
  | .tilerel f => xEnc f (f.ty == 0) (f.sub == 0) none none none 0 true false false (!f.binds)
  | .tileq f => xEnc f (f.ty == 0) (f.sub == 0) (some (uS2 f.a))
      (if c.kind == .control then some (selectorUse c f.b) else none) none 0 true false false (!f.binds)
  | .psend f => xEnc f (f.ty == 0) (f.sub == 0) (some (uSN f.a)) (some (uSN f.b)) (some (uSN f.c)) 0 false true true
  | .precv f => xEnc f (f.ty == 0) (f.sub == 0) (some (uSN f.a)) none none 0 false false false
  | .barinit f => xEnc f (f.ty == 0) (f.sub == 0) (some (uSN f.a)) (some (uSN f.b))
      (if f.flags.getLsbD 1 && f.flags.getLsbD 2 then some (uSN f.c) else none) 6 false true false
      (f.flags.getLsbD 1 || !f.flags.getLsbD 2)
  | .bararv f => encBarrier c f (decide (f.sub.toNat ≤ 1)) false true
  | .barwait f => encBarrier c f (f.sub == 0) true true
  | .bartest f => encBarrier c f (f.sub == 0) true false
  | .bartx f => xEnc f (f.ty == 0) (f.sub == 0) (some (uSN f.a)) none none 0 false true false
  | .waitcnt f => sEnc f (f.sub == 0) none (some { o := f.a, kinds := kN }) (some { o := f.b, kinds := kN }) true false
      (decide (f.code.toNat < 4096))
  | .fence f => sEnc f (f.sub == 0) none none none false true (f.order != 0)
  | .clkadv f => sEnc f (decide (f.sub.toNat ≤ 1)) none (some (uSN f.a)) none false
  | .spinhint f => sEnc f (f.sub == 0) none none none false
  | .sleep f => sEnc f (f.sub == 0) none (some (uSN f.a)) none false
  | .waitt f => sEnc f (f.sub == 0) none (some (uS2 f.a)) none false
  | .semsig f => sEnc f (f.sub == 0) none (some (uS2 f.a))
      (some { o := f.b, kinds := kSN, ty := .n64, span := 2, pair := true }) false
  | .semwait f => sEnc f (f.sub == 0) none (some { uS2 f.a with span := if f.code == 1 then 4 else 2 })
      (some { o := f.b, kinds := kSN, ty := .n64, span := 2, pair := true }) true false (decide (f.code.toNat ≤ 1))
  | .movsp f => sEnc f (f.sub == 0)
      (some { o := f.dst, kinds := kVS, span := if specialWide f.code.toNat then (if c.kind == .vector then 2 else 1) else 1 })
      none none true false
      (specialOk f.code.toNat && !(specialWide f.code.toNat && f.dst.odd && c.kind == .vector)
        && !(specialLane f.code.toNat && !f.dst.isV && c.kind == .vector))
  | .setsp f => sEnc f (f.sub == 0) none
      (some { o := f.a, kinds := if f.code == 7 then kAny else kSKN, ty := .n32 }) none true false
      (has [7, 0x13, 0x20, 0x21, 0x22] f.code.toNat)
  | .mma f => mxEnc f (mmaTypes f).isSome (decide (f.sub.toNat ≤ 1)) (some (quadUse f.a)) none none true true true 0
      (!(mmaTypes f == some 1 && f.acc.getLsbD 0))
  | .acczero f => mxEnc f (f.ta == 0 && f.tb == 0) (f.sub == 0) (some (quadUse f.a)) none none true false false 0
  | .accload f => mxEnc f (f.ta == 0 && f.tb == 0) (f.sub == 0) (some (quadUse f.a)) none none true true true 0
  | .accdrain f => mxEnc f (f.ta == 0 && f.tb == 0) (decide (f.sub.toNat ≤ 2)) (some (quadUse f.a)) (some (uSN f.b))
      (if f.sub = 2 then some (uSN f.c) else if f.sub = 0 && !f.c.isZero then some (uSN f.c) else none)
      true false true 0
  | .mmawait f => mxEnc f (f.ta == 0 && f.tb == 0) (f.sub == 0)
      (if f.flags.getLsbD 0 then none else some (quadUse f.a)) none none (!f.flags.getLsbD 0) false false 1
  | .mmab f =>
      let t := (numTy f.ty.toNat).getD .f16
      { v3Enc f (numTy f.ty.toNat) tysMma (f.sub == 0) 0 0
          (fun _ => [{ f.useA .b32 with kinds := kV, span := if t == .f64 then 1 else 4 }]
            ++ (if t.mx then [{ f.useB .b32 with kinds := kV }] else []))
          ((if t.mx then [] else [f.noB]) ++ [f.noC])
          (fun t => f.pa == 0 && f.pb == 0 && (t == .f64 || decide (f.a.reg % 4 = 0))) with
        resv := f.z == 0 && f.dst.isZero }
  | .rast f => gEnc f (f.ty == 0 || f.ty == 1) (f.sub == 0) (some (uV f.dst 4)) (some (uS f.a (if f.ty = 0 then 32 else 16))) (some (uS f.b))
      (some (uS f.c)) false false 0
  | .binput f =>
      let close := f.flags.getLsbD 0
      let f64 := f.flags.getLsbD 1
      gEnc f (f.ty == 0) (f.sub == 0) none
        (if close then none else some (uV f.a (if f64 then 18 else 12) f64))
        (some (if close then uS f.b else uV f.b 2 true))
        (if close then none else some (uV f.c)) false false 3 (!(close && f64))
  | .binget f => gEnc f (f.ty == 0) (f.sub == 0) (some (uS f.dst)) (some (uSN f.a)) none none false true 0
      (has [0, 16, 32] f.count.toNat && !(decide (f.count.toNat ≤ f.dst.reg) && decide (f.dst.reg < f.count.toNat + 32)))
  | .trav f => gEnc f (f.ty == 0) (f.sub == 0) (some (uV f.dst)) (some (uV f.a 13 true)) (some (uS f.b)) none true false 3
      (!(f.flags.getLsbD 1 && !f.flags.getLsbD 0))
  | .travnext f => gEnc f (f.ty == 0) (decide (f.sub.toNat ≤ 1)) (some (uV f.dst)) (some (uV f.a)) (some (uS f.b)) none
      true false 0
  | .regroup f => gEnc f (f.ty == 0) (f.sub == 0) none (some (uV f.a 2 true)) (some (uV f.b)) none false true 0
      (decide (f.count.toNat < c.window))
  | .repack f => gEnc f (f.ty == 0) (f.sub == 0) none none none none false true 0 (decide (f.count.toNat < c.window))
  | .tex f => gEnc f (f.ty == 1) (decide (f.sub.toNat ≤ 2)) (some (uV f.dst 5)) (some (uV f.a 2)) (some (uV f.b)) none
      true false 0
  | .texq f => gEnc f (f.ty == 0) (f.sub == 0) (some (uV f.dst)) (some (uV f.a 2)) (some (uV f.b)) none true false 0
  | .launch f => sEnc f (f.sub == 0) (some (uS f.dst)) (some (uS2 f.a)) none false
  | .trap f => sEnc f (f.sub == 0) none none none true
  | .syscall f => sEnc f (f.sub == 0) (some (uS f.dst)) none none true
  | .bkpt f => sEnc f (f.sub == 0) none none none false
  | .eret f => sEnc f (f.sub == 0) none none none false false c.inHandler
  | .idem f => sEnc f (decide (f.sub.toNat ≤ 1)) none none none false
  | .progress f => sEnc f (f.sub == 0) none (some (uSN f.a)) none false
  | _ => {}

/-- The first encoding check that an instruction fails, with whether it failed in the second half of a pair only
(R203). An undefined opcode or half-op, and a bad line word, come from the decoder as ILL with their detail. -/
def illDetail (c : CheckCtx) (i : Instr) : Option (BitVec 8 × Bool) :=
  match i with
  | .ill d h => some (d, h)
  | .pairedSlot x y =>
    if c.kind != .vector then some (0x03, false)
    else match lowerDetail (x.enc.failing c) (y.enc.failing c) with
      | some r => some r
      | none => if pairOk x y then none else some (0x0C, false)
  | _ =>
    if !coreOk c.kind i then some (0x03, false)
    else ((encOf c i).failing c).map (fun d => (d, false))

end Sys2Proof
end

