-- ==== Sys2Proof/WellFormed.lean ====
section
/-! DEFINITION. Which instructions are well formed: those that pass every check of R203 on some core kind, at the largest window and inside a handler. -/

namespace Sys2Proof

open Sys2Proof.Machine

/-- The most permissive context of a core kind: the largest window (R93) and, for ERET, a group in HANDLER. -/
def widest (k : CoreKind) : CheckCtx := ⟨k, 256, true⟩

/-- An instruction is well formed when no check of R203 fails on some core kind (R203, R205). The ILL row never is. A
machine event carries no encoding and is well formed. -/
def wellFormed (i : Instr) : Bool :=
  (illDetail (widest .vector) i).isNone || (illDetail (widest .control) i).isNone
    || (illDetail (widest .dispatch) i).isNone

end Sys2Proof
end

