-- ==== Sys2Proof/Decode.lean ====
section
/-! DEFINITION. The decoder of slots and fetch lines, total on any bits and rejecting by name (R155 to R182, R193, R200), and after it the encoder of instructions. -/

namespace Sys2Proof

open Sys2Proof.Machine

/-- What a slot decodes to: an instruction, or the name of what is undefined in it (R203, check 0x02). -/
inductive Decoded where
  /-- An instruction. -/
  | ok (i : Instr)
  /-- An opcode that the map of R193 does not define. -/
  | undefinedOpcode (op : Nat)
  /-- A half-op that the table of R200 does not define, in the first or the second half. -/
  | undefinedHalfOp (second : Bool) (op : Nat)
  deriving DecidableEq, Repr

/-! ### Fields -/

/-- `n` bits of a word from bit `lo`. -/
def fld (w lo n : Nat) : BitVec n := BitVec.ofNat n (w / 2 ^ lo)

/-- The 9-bit operand specifier (R161). -/
def opnd (x : Nat) : Opnd :=
  if x < 0x100 then .v (BitVec.ofNat 8 x)
  else if x < 0x140 then .s (BitVec.ofNat 6 (x - 0x100))
  else if x < 0x180 then .const (BitVec.ofNat 6 (x - 0x140))
  else if x < 0x1C0 then .int (BitVec.ofNat 6 (x - 0x180))
  else .resv (BitVec.ofNat 6 (x - 0x1C0))

/-- The code of a specifier (R161). -/
def Opnd.code : Opnd → Nat
  | .v n => n.toNat
  | .s n => 0x100 + n.toNat
  | .const n => 0x140 + n.toNat
  | .int n => 0x180 + n.toNat
  | .resv n => 0x1C0 + n.toNat

/-- The V3 format (R169). -/
def getV3 (w : Nat) : V3 where
  ty := fld w 84 4
  rnd := fld w 81 3
  dst := opnd (w / 2 ^ 72 % 512)
  a := opnd (w / 2 ^ 63 % 512)
  pa := fld w 56 7
  b := opnd (w / 2 ^ 47 % 512)
  pb := fld w 40 7
  c := opnd (w / 2 ^ 31 % 512)
  pc := fld w 24 7
  nabs := fld w 18 6
  sub := fld w 12 6
  flags := fld w 8 4
  z := fld w 0 8

/-- The 88 bits of the V3 format below the opcode (R169). -/
def putV3 (f : V3) : Nat :=
  f.ty.toNat * 2 ^ 84 + f.rnd.toNat * 2 ^ 81 + f.dst.code * 2 ^ 72 + f.a.code * 2 ^ 63 + f.pa.toNat * 2 ^ 56
    + f.b.code * 2 ^ 47 + f.pb.toNat * 2 ^ 40 + f.c.code * 2 ^ 31 + f.pc.toNat * 2 ^ 24
    + f.nabs.toNat * 2 ^ 18 + f.sub.toNat * 2 ^ 12 + f.flags.toNat * 2 ^ 8 + f.z.toNat

/-- The VI format (R170). -/
def getVI (w : Nat) : VI where
  ty := fld w 84 4
  rnd := fld w 81 3
  dst := opnd (w / 2 ^ 72 % 512)
  a := opnd (w / 2 ^ 63 % 512)
  pa := fld w 56 7
  b := opnd (w / 2 ^ 47 % 512)
  pb := fld w 40 7
  sub := fld w 36 4
  nabs := fld w 32 4
  imm := fld w 0 32

/-- The 88 bits of the VI format below the opcode (R170). -/
def putVI (f : VI) : Nat :=
  f.ty.toNat * 2 ^ 84 + f.rnd.toNat * 2 ^ 81 + f.dst.code * 2 ^ 72 + f.a.code * 2 ^ 63 + f.pa.toNat * 2 ^ 56
    + f.b.code * 2 ^ 47 + f.pb.toNat * 2 ^ 40 + f.sub.toNat * 2 ^ 36 + f.nabs.toNat * 2 ^ 32 + f.imm.toNat

/-- The U format (R171). -/
def getU (w : Nat) : UF where
  ty := fld w 84 4
  sub := fld w 78 6
  dst := opnd (w / 2 ^ 69 % 512)
  a := opnd (w / 2 ^ 60 % 512)
  b := opnd (w / 2 ^ 51 % 512)
  c := opnd (w / 2 ^ 42 % 512)
  useImm := fld w 41 1
  z := fld w 32 9
  imm := fld w 0 32

/-- The 88 bits of the U format below the opcode (R171). -/
def putU (f : UF) : Nat :=
  f.ty.toNat * 2 ^ 84 + f.sub.toNat * 2 ^ 78 + f.dst.code * 2 ^ 69 + f.a.code * 2 ^ 60 + f.b.code * 2 ^ 51
    + f.c.code * 2 ^ 42 + f.useImm.toNat * 2 ^ 41 + f.z.toNat * 2 ^ 32 + f.imm.toNat

/-- The M format (R172). -/
def getM (w : Nat) : MF where
  ty := fld w 84 4
  scope := fld w 80 4
  order := fld w 78 2
  data := opnd (w / 2 ^ 69 % 512)
  index := opnd (w / 2 ^ 60 % 512)
  brec := fld w 56 4
  sub := fld w 50 6
  count := fld w 48 2
  offset := fld w 32 16
  c := opnd (w / 2 ^ 23 % 512)
  flags := fld w 20 3
  z1 := fld w 19 1
  route := fld w 13 6
  z := fld w 0 13

/-- The 88 bits of the M format below the opcode (R172). -/
def putM (f : MF) : Nat :=
  f.ty.toNat * 2 ^ 84 + f.scope.toNat * 2 ^ 80 + f.order.toNat * 2 ^ 78 + f.data.code * 2 ^ 69
    + f.index.code * 2 ^ 60 + f.brec.toNat * 2 ^ 56 + f.sub.toNat * 2 ^ 50 + f.count.toNat * 2 ^ 48
    + f.offset.toNat * 2 ^ 32 + f.c.code * 2 ^ 23 + f.flags.toNat * 2 ^ 20 + f.z1.toNat * 2 ^ 19
    + f.route.toNat * 2 ^ 13 + f.z.toNat

/-- The X format (R173). -/
def getX (w : Nat) : XF where
  ty := fld w 84 4
  sub := fld w 78 6
  a := opnd (w / 2 ^ 69 % 512)
  b := opnd (w / 2 ^ 60 % 512)
  c := opnd (w / 2 ^ 51 % 512)
  tile := fld w 45 6
  bind := fld w 44 1
  bar := fld w 27 17
  route := fld w 21 6
  flags := fld w 16 5
  z := fld w 0 16

/-- The 88 bits of the X format below the opcode (R173). -/
def putX (f : XF) : Nat :=
  f.ty.toNat * 2 ^ 84 + f.sub.toNat * 2 ^ 78 + f.a.code * 2 ^ 69 + f.b.code * 2 ^ 60 + f.c.code * 2 ^ 51
    + f.tile.toNat * 2 ^ 45 + f.bind.toNat * 2 ^ 44 + f.bar.toNat * 2 ^ 27 + f.route.toNat * 2 ^ 21
    + f.flags.toNat * 2 ^ 16 + f.z.toNat

/-- The B format (R174). -/
def getB (w : Nat) : BF where
  sub := fld w 84 4
  kind := fld w 81 3
  cond := opnd (w / 2 ^ 72 % 512)
  link := opnd (w / 2 ^ 63 % 512)
  delta := fld w 42 21
  slot := fld w 39 3
  depth := fld w 33 6
  neg := fld w 32 1
  z := fld w 0 32

/-- The 88 bits of the B format below the opcode (R174). -/
def putB (f : BF) : Nat :=
  f.sub.toNat * 2 ^ 84 + f.kind.toNat * 2 ^ 81 + f.cond.code * 2 ^ 72 + f.link.code * 2 ^ 63
    + f.delta.toNat * 2 ^ 42 + f.slot.toNat * 2 ^ 39 + f.depth.toNat * 2 ^ 33 + f.neg.toNat * 2 ^ 32
    + f.z.toNat

/-- The MX format (R175). -/
def getMX (w : Nat) : MXF where
  ta := fld w 84 4
  tb := fld w 80 4
  acc := fld w 77 3
  tile := fld w 71 6
  qcore := fld w 69 2
  sub := fld w 63 6
  a := opnd (w / 2 ^ 54 % 512)
  b := opnd (w / 2 ^ 45 % 512)
  c := opnd (w / 2 ^ 36 % 512)
  flags := fld w 32 4
  z := fld w 0 32

/-- The 88 bits of the MX format below the opcode (R175). -/
def putMX (f : MXF) : Nat :=
  f.ta.toNat * 2 ^ 84 + f.tb.toNat * 2 ^ 80 + f.acc.toNat * 2 ^ 77 + f.tile.toNat * 2 ^ 71
    + f.qcore.toNat * 2 ^ 69 + f.sub.toNat * 2 ^ 63 + f.a.code * 2 ^ 54 + f.b.code * 2 ^ 45
    + f.c.code * 2 ^ 36 + f.flags.toNat * 2 ^ 32 + f.z.toNat

/-- The G format (R176). -/
def getG (w : Nat) : GF where
  ty := fld w 84 4
  sub := fld w 78 6
  dst := opnd (w / 2 ^ 69 % 512)
  a := opnd (w / 2 ^ 60 % 512)
  b := opnd (w / 2 ^ 51 % 512)
  c := opnd (w / 2 ^ 42 % 512)
  brec := fld w 38 4
  count := fld w 30 8
  flags := fld w 24 6
  z := fld w 0 24

/-- The 88 bits of the G format below the opcode (R176). -/
def putG (f : GF) : Nat :=
  f.ty.toNat * 2 ^ 84 + f.sub.toNat * 2 ^ 78 + f.dst.code * 2 ^ 69 + f.a.code * 2 ^ 60 + f.b.code * 2 ^ 51
    + f.c.code * 2 ^ 42 + f.brec.toNat * 2 ^ 38 + f.count.toNat * 2 ^ 30 + f.flags.toNat * 2 ^ 24 + f.z.toNat

/-- The S format (R177). -/
def getS (w : Nat) : SF where
  ty := fld w 84 4
  scope := fld w 80 4
  order := fld w 78 2
  dst := opnd (w / 2 ^ 69 % 512)
  a := opnd (w / 2 ^ 60 % 512)
  b := opnd (w / 2 ^ 51 % 512)
  code := fld w 35 16
  sub := fld w 29 6
  z := fld w 0 29

/-- The 88 bits of the S format below the opcode (R177). -/
def putS (f : SF) : Nat :=
  f.ty.toNat * 2 ^ 84 + f.scope.toNat * 2 ^ 80 + f.order.toNat * 2 ^ 78 + f.dst.code * 2 ^ 69
    + f.a.code * 2 ^ 60 + f.b.code * 2 ^ 51 + f.code.toNat * 2 ^ 35 + f.sub.toNat * 2 ^ 29 + f.z.toNat

/-! ### Paired slots (R179, R200) -/

/-- The half-op table (R200). -/
def halfOp (n : Nat) : Option HalfOp :=
  match n with
  | 0x01 => some .mov
  | 0x02 => some .iadd
  | 0x03 => some .isub
  | 0x04 => some .imul
  | 0x05 => some .imin
  | 0x06 => some .imax
  | 0x07 => some .ineg
  | 0x08 => some .fadd
  | 0x09 => some .fmul
  | 0x0A => some .fmin
  | 0x0B => some .fmax
  | 0x0C => some .fldexp
  | 0x0D => some .frint
  | 0x0E => some .fclass
  | 0x0F => some .iabs
  | 0x10 => some .and
  | 0x11 => some .andn
  | 0x12 => some .or
  | 0x13 => some .orn
  | 0x14 => some .xor
  | 0x15 => some .not
  | 0x16 => some .shl
  | 0x17 => some .shr
  | 0x18 => some .shra
  | 0x19 => some .rotl
  | 0x1A => some .brev
  | 0x1B => some .clz
  | 0x1C => some .ffs
  | 0x1D => some .popc
  | 0x1E => some .imulh
  | 0x20 => some .frcp
  | 0x21 => some .frsq
  | 0x22 => some .fsqrt
  | 0x23 => some .fexp2
  | 0x24 => some .flog2
  | 0x25 => some .fsin
  | 0x26 => some .fcos
  | 0x27 => some .ftanh
  | 0x28 => some .cvtF32
  | 0x29 => some .cvtF16
  | 0x2A => some .cvtBF16
  | 0x2B => some .cvtI32
  | 0x2C => some .cvtF64
  | _ => none

/-- The code of a half-op (R200). -/
def HalfOp.code : HalfOp → Nat
  | .mov => 0x01
  | .iadd => 0x02
  | .isub => 0x03
  | .imul => 0x04
  | .imin => 0x05
  | .imax => 0x06
  | .ineg => 0x07
  | .fadd => 0x08
  | .fmul => 0x09
  | .fmin => 0x0A
  | .fmax => 0x0B
  | .fldexp => 0x0C
  | .frint => 0x0D
  | .fclass => 0x0E
  | .iabs => 0x0F
  | .and => 0x10
  | .andn => 0x11
  | .or => 0x12
  | .orn => 0x13
  | .xor => 0x14
  | .not => 0x15
  | .shl => 0x16
  | .shr => 0x17
  | .shra => 0x18
  | .rotl => 0x19
  | .brev => 0x1A
  | .clz => 0x1B
  | .ffs => 0x1C
  | .popc => 0x1D
  | .imulh => 0x1E
  | .frcp => 0x20
  | .frsq => 0x21
  | .fsqrt => 0x22
  | .fexp2 => 0x23
  | .flog2 => 0x24
  | .fsin => 0x25
  | .fcos => 0x26
  | .ftanh => 0x27
  | .cvtF32 => 0x28
  | .cvtF16 => 0x29
  | .cvtBF16 => 0x2A
  | .cvtI32 => 0x2B
  | .cvtF64 => 0x2C

/-- One half of a paired slot (R179): a 48-bit number. -/
def getHalf (h : Nat) : Option Half :=
  (halfOp (h / 2 ^ 42 % 64)).map fun op =>
    { op := op, ty := fld h 38 4, dst := fld h 30 8, a := fld h 22 8, pa := fld h 15 7, b := fld h 7 8, pb := fld h 0 7 }

/-- The 48 bits of a half (R179). -/
def putHalf (h : Half) : Nat :=
  h.op.code * 2 ^ 42 + h.ty.toNat * 2 ^ 38 + h.dst.toNat * 2 ^ 30 + h.a.toNat * 2 ^ 22 + h.pa.toNat * 2 ^ 15
    + h.b.toNat * 2 ^ 7 + h.pb.toNat

/-! ### The opcode map -/

/-- Opcodes 0x00 to 0x0F (R193). -/
def decodeRow0 (lo w : Nat) : Option Instr :=
  match lo with
  | 1 => some (.nop (getV3 w))
  | 2 => some (.bra (getB w))
  | 3 => some (.brx (getB w))
  | 4 => some (.call (getB w))
  | 5 => some (.ret (getB w))
  | 6 => some (.ifc (getB w))
  | 7 => some (.elsec (getB w))
  | 8 => some (.endif (getB w))
  | 9 => some (.loop (getB w))
  | 10 => some (.breakif (getB w))
  | 11 => some (.contif (getB w))
  | 12 => some (.endloop (getB w))
  | 13 => some (.reconv (getB w))
  | 14 => some (.exit (getB w))
  | 0 => some (.ill 2 false)
  | _ => none

/-- Opcodes 0x10 to 0x1F (R193). -/
def decodeRow1 (lo w : Nat) : Option Instr :=
  match lo with
  | 0 => some (.iadd (getV3 w))
  | 1 => some (.iaddc (getV3 w))
  | 2 => some (.isub (getV3 w))
  | 3 => some (.ineg (getV3 w))
  | 4 => some (.iabs (getV3 w))
  | 5 => some (.imul (getV3 w))
  | 6 => some (.imulh (getV3 w))
  | 7 => some (.imad (getV3 w))
  | 8 => some (.imadw (getV3 w))
  | 9 => some (.imin (getV3 w))
  | 10 => some (.imax (getV3 w))
  | 11 => some (.icmp (getV3 w))
  | 12 => some (.idot4 (getV3 w))
  | 13 => some (.sel (getV3 w))
  | 14 => some (.lea (getV3 w))
  | _ => none

/-- Opcodes 0x20 to 0x2F (R193). -/
def decodeRow2 (lo w : Nat) : Option Instr :=
  match lo with
  | 0 => some (.fadd (getV3 w))
  | 1 => some (.fmul (getV3 w))
  | 2 => some (.ffma (getV3 w))
  | 3 => some (.fmin (getV3 w))
  | 4 => some (.fmax (getV3 w))
  | 5 => some (.fcmp (getV3 w))
  | 6 => some (.fclass (getV3 w))
  | 7 => some (.frint (getV3 w))
  | 8 => some (.fldexp (getV3 w))
  | 9 => some (.fdot2 (getV3 w))
  | 10 => some (.fdivfix (getV3 w))
  | 11 => some (.cvt (getV3 w))
  | 12 => some (.cvtef (getV3 w))
  | 13 => some (.mxpack (getV3 w))
  | 14 => some (.mxunpack (getV3 w))
  | _ => none

/-- Opcodes 0x30 to 0x3F (R193). -/
def decodeRow3 (lo w : Nat) : Option Instr :=
  match lo with
  | 0 => some (.frcp (getV3 w))
  | 1 => some (.frsq (getV3 w))
  | 2 => some (.fsqrt (getV3 w))
  | 3 => some (.fexp2 (getV3 w))
  | 4 => some (.flog2 (getV3 w))
  | 5 => some (.fsin (getV3 w))
  | 6 => some (.fcos (getV3 w))
  | 7 => some (.ftanh (getV3 w))
  | _ => none

/-- Opcodes 0x40 to 0x4F (R193). -/
def decodeRow4 (lo w : Nat) : Option Instr :=
  match lo with
  | 0 => some (.and (getV3 w))
  | 1 => some (.andn (getV3 w))
  | 2 => some (.or (getV3 w))
  | 3 => some (.orn (getV3 w))
  | 4 => some (.xor (getV3 w))
  | 5 => some (.not (getV3 w))
  | 6 => some (.shl (getV3 w))
  | 7 => some (.shr (getV3 w))
  | 8 => some (.shra (getV3 w))
  | 9 => some (.rotl (getV3 w))
  | 10 => some (.bfe (getV3 w))
  | 11 => some (.bfi (getV3 w))
  | 12 => some (.brev (getV3 w))
  | 13 => some (.clz (getV3 w))
  | 14 => some (.ffs (getV3 w))
  | 15 => some (.popc (getV3 w))
  | _ => none

/-- Opcodes 0x50 to 0x5F (R193). -/
def decodeRow5 (lo w : Nat) : Option Instr :=
  match lo with
  | 0 => some (.movi (getVI w))
  | 1 => some (.iaddVi (getVI w))
  | 2 => some (.isubVi (getVI w))
  | 3 => some (.imulVi (getVI w))
  | 4 => some (.imadVi (getVI w))
  | 5 => some (.iminVi (getVI w))
  | 6 => some (.imaxVi (getVI w))
  | 7 => some (.icmpVi (getVI w))
  | 8 => some (.andVi (getVI w))
  | 9 => some (.orVi (getVI w))
  | 10 => some (.xorVi (getVI w))
  | 11 => some (.faddVi (getVI w))
  | 12 => some (.fmulVi (getVI w))
  | 13 => some (.ffmaVi (getVI w))
  | 14 => some (.fcmpVi (getVI w))
  | _ => none

/-- Opcodes 0x60 to 0x6F (R193). -/
def decodeRow6 (lo w : Nat) : Option Instr :=
  match lo with
  | 0 => some (.mov (getV3 w))
  | 1 => some (.shfl (getV3 w))
  | 2 => some (.vote (getV3 w))
  | 3 => some (.ballot (getV3 w))
  | 4 => some (.matchl (getV3 w))
  | 5 => some (.reduce (getV3 w))
  | 6 => some (.scan (getV3 w))
  | 7 => some (.lanerd (getV3 w))
  | 8 => some (.lanewr (getV3 w))
  | 9 => some (.rand (getV3 w))
  | _ => none

/-- Opcodes 0x70 to 0x7F (R193). -/
def decodeRow7 (lo w : Nat) : Option Instr :=
  match lo with
  | 0 => some (.salu (getU w))
  | 1 => some (.scmp (getU w))
  | 2 => some (.ssel (getU w))
  | 3 => some (.smov (getU w))
  | _ => none

/-- Opcodes 0x80 to 0x8F (R193). -/
def decodeRow8 (lo w : Nat) : Option Instr :=
  match lo with
  | 0 => some (.ld (getM w))
  | 1 => some (.st (getM w))
  | 2 => some (.ldu (getM w))
  | 3 => some (.ldl (getM w))
  | 4 => some (.stl (getM w))
  | 5 => some (.ldp (getM w))
  | 6 => some (.stp (getM w))
  | 7 => some (.atom (getM w))
  | 8 => some (.atoml (getM w))
  | 9 => some (.atomp (getM w))
  | 10 => some (.pref (getM w))
  | 11 => some (.renew (getM w))
  | 12 => some (.expire (getM w))
  | 13 => some (.flush (getM w))
  | 14 => some (.spill (getM w))
  | 15 => some (.fill (getM w))
  | _ => none

/-- Opcodes 0x90 to 0x9F (R193). -/
def decodeRow9 (lo w : Nat) : Option Instr :=
  match lo with
  | 0 => some (.xcpy (getX w))
  | 1 => some (.xgather (getX w))
  | 2 => some (.xscatter (getX w))
  | 3 => some (.xreduce (getX w))
  | 4 => some (.xfill (getX w))
  | 5 => some (.xpeer (getX w))
  | 6 => some (.xcancel (getX w))
  | 7 => some (.tiledef (getX w))
  | 8 => some (.tilerel (getX w))
  | 9 => some (.tileq (getX w))
  | 10 => some (.psend (getX w))
  | 11 => some (.precv (getX w))
  | 12 => some (.barinit (getX w))
  | 13 => some (.bararv (getX w))
  | 14 => some (.barwait (getX w))
  | 15 => some (.bartest (getX w))
  | _ => none

/-- Opcodes 0xA0 to 0xAF (R193). -/
def decodeRowA (lo w : Nat) : Option Instr :=
  match lo with
  | 0 => some (.bartx (getX w))
  | 1 => some (.waitcnt (getS w))
  | 2 => some (.fence (getS w))
  | 3 => some (.clkadv (getS w))
  | 4 => some (.spinhint (getS w))
  | 5 => some (.sleep (getS w))
  | 6 => some (.waitt (getS w))
  | 7 => some (.semsig (getS w))
  | 8 => some (.semwait (getS w))
  | 9 => some (.movsp (getS w))
  | 10 => some (.setsp (getS w))
  | _ => none

/-- Opcodes 0xB0 to 0xBF (R193). -/
def decodeRowB (lo w : Nat) : Option Instr :=
  match lo with
  | 0 => some (.mma (getMX w))
  | 1 => some (.acczero (getMX w))
  | 2 => some (.accload (getMX w))
  | 3 => some (.accdrain (getMX w))
  | 4 => some (.mmawait (getMX w))
  | 5 => some (.mmab (getV3 w))
  | _ => none

/-- Opcodes 0xC0 to 0xCF (R193). -/
def decodeRowC (lo w : Nat) : Option Instr :=
  match lo with
  | 0 => some (.rast (getG w))
  | 1 => some (.binput (getG w))
  | 2 => some (.binget (getG w))
  | 3 => some (.trav (getG w))
  | 4 => some (.travnext (getG w))
  | 5 => some (.regroup (getG w))
  | 6 => some (.repack (getG w))
  | 7 => some (.tex (getG w))
  | 8 => some (.texq (getG w))
  | _ => none

/-- Opcodes 0xD0 to 0xDF (R193). -/
def decodeRowD (lo w : Nat) : Option Instr :=
  match lo with
  | 0 => some (.launch (getS w))
  | 1 => some (.trap (getS w))
  | 2 => some (.syscall (getS w))
  | 3 => some (.bkpt (getS w))
  | 4 => some (.eret (getS w))
  | 5 => some (.idem (getS w))
  | 6 => some (.progress (getS w))
  | _ => none

/-- The instruction of an opcode (R193, R194), from the 88 bits below it. -/
def decodeOp (op w : Nat) : Option Instr :=
  match op / 16 with
  | 0 => decodeRow0 (op % 16) w
  | 1 => decodeRow1 (op % 16) w
  | 2 => decodeRow2 (op % 16) w
  | 3 => decodeRow3 (op % 16) w
  | 4 => decodeRow4 (op % 16) w
  | 5 => decodeRow5 (op % 16) w
  | 6 => decodeRow6 (op % 16) w
  | 7 => decodeRow7 (op % 16) w
  | 8 => decodeRow8 (op % 16) w
  | 9 => decodeRow9 (op % 16) w
  | 10 => decodeRowA (op % 16) w
  | 11 => decodeRowB (op % 16) w
  | 12 => decodeRowC (op % 16) w
  | 13 => decodeRowD (op % 16) w
  | _ => none

/-- A slot whose PAIR bit is as given (R156, R168, R179), from its 96 bits. -/
def decode (pair : Bool) (w : Nat) : Decoded :=
  if pair then
    match getHalf (w / 2 ^ 48 % 2 ^ 48), getHalf (w % 2 ^ 48) with
    | some x, some y => .ok (.pairedSlot x y)
    | none, _ => .undefinedHalfOp false (w / 2 ^ 90 % 64)
    | some _, none => .undefinedHalfOp true (w / 2 ^ 42 % 64)
  else
    match decodeOp (w / 2 ^ 88 % 256) (w % 2 ^ 88) with
    | some i => .ok i
    | none => .undefinedOpcode (w / 2 ^ 88 % 256)

/-- The instruction that issues for a decoded slot: an undefined encoding issues as ILL with detail 0x02 (R203). -/
def Decoded.instr : Decoded → Instr
  | .ok i => i
  | .undefinedOpcode _ => .ill 2 false
  | .undefinedHalfOp second _ => .ill 2 second

/-! ### The encoder -/

/-- The opcode and the 88 bits below it of a single-slot instruction (R168, R193); none for a pair, ILL and events. -/
def encodeOp (i : Instr) : Option (Nat × Nat) :=
  match i with
  | .nop f => some (0x01, putV3 f)
  | .bra f => some (0x02, putB f)
  | .brx f => some (0x03, putB f)
  | .call f => some (0x04, putB f)
  | .ret f => some (0x05, putB f)
  | .ifc f => some (0x06, putB f)
  | .elsec f => some (0x07, putB f)
  | .endif f => some (0x08, putB f)
  | .loop f => some (0x09, putB f)
  | .breakif f => some (0x0A, putB f)
  | .contif f => some (0x0B, putB f)
  | .endloop f => some (0x0C, putB f)
  | .reconv f => some (0x0D, putB f)
  | .exit f => some (0x0E, putB f)
  | .iadd f => some (0x10, putV3 f)
  | .iaddc f => some (0x11, putV3 f)
  | .isub f => some (0x12, putV3 f)
  | .ineg f => some (0x13, putV3 f)
  | .iabs f => some (0x14, putV3 f)
  | .imul f => some (0x15, putV3 f)
  | .imulh f => some (0x16, putV3 f)
  | .imad f => some (0x17, putV3 f)
  | .imadw f => some (0x18, putV3 f)
  | .imin f => some (0x19, putV3 f)
  | .imax f => some (0x1A, putV3 f)
  | .icmp f => some (0x1B, putV3 f)
  | .idot4 f => some (0x1C, putV3 f)
  | .sel f => some (0x1D, putV3 f)
  | .lea f => some (0x1E, putV3 f)
  | .fadd f => some (0x20, putV3 f)
  | .fmul f => some (0x21, putV3 f)
  | .ffma f => some (0x22, putV3 f)
  | .fmin f => some (0x23, putV3 f)
  | .fmax f => some (0x24, putV3 f)
  | .fcmp f => some (0x25, putV3 f)
  | .fclass f => some (0x26, putV3 f)
  | .frint f => some (0x27, putV3 f)
  | .fldexp f => some (0x28, putV3 f)
  | .fdot2 f => some (0x29, putV3 f)
  | .fdivfix f => some (0x2A, putV3 f)
  | .cvt f => some (0x2B, putV3 f)
  | .cvtef f => some (0x2C, putV3 f)
  | .mxpack f => some (0x2D, putV3 f)
  | .mxunpack f => some (0x2E, putV3 f)
  | .frcp f => some (0x30, putV3 f)
  | .frsq f => some (0x31, putV3 f)
  | .fsqrt f => some (0x32, putV3 f)
  | .fexp2 f => some (0x33, putV3 f)
  | .flog2 f => some (0x34, putV3 f)
  | .fsin f => some (0x35, putV3 f)
  | .fcos f => some (0x36, putV3 f)
  | .ftanh f => some (0x37, putV3 f)
  | .and f => some (0x40, putV3 f)
  | .andn f => some (0x41, putV3 f)
  | .or f => some (0x42, putV3 f)
  | .orn f => some (0x43, putV3 f)
  | .xor f => some (0x44, putV3 f)
  | .not f => some (0x45, putV3 f)
  | .shl f => some (0x46, putV3 f)
  | .shr f => some (0x47, putV3 f)
  | .shra f => some (0x48, putV3 f)
  | .rotl f => some (0x49, putV3 f)
  | .bfe f => some (0x4A, putV3 f)
  | .bfi f => some (0x4B, putV3 f)
  | .brev f => some (0x4C, putV3 f)
  | .clz f => some (0x4D, putV3 f)
  | .ffs f => some (0x4E, putV3 f)
  | .popc f => some (0x4F, putV3 f)
  | .movi f => some (0x50, putVI f)
  | .iaddVi f => some (0x51, putVI f)
  | .isubVi f => some (0x52, putVI f)
  | .imulVi f => some (0x53, putVI f)
  | .imadVi f => some (0x54, putVI f)
  | .iminVi f => some (0x55, putVI f)
  | .imaxVi f => some (0x56, putVI f)
  | .icmpVi f => some (0x57, putVI f)
  | .andVi f => some (0x58, putVI f)
  | .orVi f => some (0x59, putVI f)
  | .xorVi f => some (0x5A, putVI f)
  | .faddVi f => some (0x5B, putVI f)
  | .fmulVi f => some (0x5C, putVI f)
  | .ffmaVi f => some (0x5D, putVI f)
  | .fcmpVi f => some (0x5E, putVI f)
  | .mov f => some (0x60, putV3 f)
  | .shfl f => some (0x61, putV3 f)
  | .vote f => some (0x62, putV3 f)
  | .ballot f => some (0x63, putV3 f)
  | .matchl f => some (0x64, putV3 f)
  | .reduce f => some (0x65, putV3 f)
  | .scan f => some (0x66, putV3 f)
  | .lanerd f => some (0x67, putV3 f)
  | .lanewr f => some (0x68, putV3 f)
  | .rand f => some (0x69, putV3 f)
  | .salu f => some (0x70, putU f)
  | .scmp f => some (0x71, putU f)
  | .ssel f => some (0x72, putU f)
  | .smov f => some (0x73, putU f)
  | .ld f => some (0x80, putM f)
  | .st f => some (0x81, putM f)
  | .ldu f => some (0x82, putM f)
  | .ldl f => some (0x83, putM f)
  | .stl f => some (0x84, putM f)
  | .ldp f => some (0x85, putM f)
  | .stp f => some (0x86, putM f)
  | .atom f => some (0x87, putM f)
  | .atoml f => some (0x88, putM f)
  | .atomp f => some (0x89, putM f)
  | .pref f => some (0x8A, putM f)
  | .renew f => some (0x8B, putM f)
  | .expire f => some (0x8C, putM f)
  | .flush f => some (0x8D, putM f)
  | .spill f => some (0x8E, putM f)
  | .fill f => some (0x8F, putM f)
  | .xcpy f => some (0x90, putX f)
  | .xgather f => some (0x91, putX f)
  | .xscatter f => some (0x92, putX f)
  | .xreduce f => some (0x93, putX f)
  | .xfill f => some (0x94, putX f)
  | .xpeer f => some (0x95, putX f)
  | .xcancel f => some (0x96, putX f)
  | .tiledef f => some (0x97, putX f)
  | .tilerel f => some (0x98, putX f)
  | .tileq f => some (0x99, putX f)
  | .psend f => some (0x9A, putX f)
  | .precv f => some (0x9B, putX f)
  | .barinit f => some (0x9C, putX f)
  | .bararv f => some (0x9D, putX f)
  | .barwait f => some (0x9E, putX f)
  | .bartest f => some (0x9F, putX f)
  | .bartx f => some (0xA0, putX f)
  | .waitcnt f => some (0xA1, putS f)
  | .fence f => some (0xA2, putS f)
  | .clkadv f => some (0xA3, putS f)
  | .spinhint f => some (0xA4, putS f)
  | .sleep f => some (0xA5, putS f)
  | .waitt f => some (0xA6, putS f)
  | .semsig f => some (0xA7, putS f)
  | .semwait f => some (0xA8, putS f)
  | .movsp f => some (0xA9, putS f)
  | .setsp f => some (0xAA, putS f)
  | .mma f => some (0xB0, putMX f)
  | .acczero f => some (0xB1, putMX f)
  | .accload f => some (0xB2, putMX f)
  | .accdrain f => some (0xB3, putMX f)
  | .mmawait f => some (0xB4, putMX f)
  | .mmab f => some (0xB5, putV3 f)
  | .rast f => some (0xC0, putG f)
  | .binput f => some (0xC1, putG f)
  | .binget f => some (0xC2, putG f)
  | .trav f => some (0xC3, putG f)
  | .travnext f => some (0xC4, putG f)
  | .regroup f => some (0xC5, putG f)
  | .repack f => some (0xC6, putG f)
  | .tex f => some (0xC7, putG f)
  | .texq f => some (0xC8, putG f)
  | .launch f => some (0xD0, putS f)
  | .trap f => some (0xD1, putS f)
  | .syscall f => some (0xD2, putS f)
  | .bkpt f => some (0xD3, putS f)
  | .eret f => some (0xD4, putS f)
  | .idem f => some (0xD5, putS f)
  | .progress f => some (0xD6, putS f)
  | _ => none

/-- The PAIR bit and the 96 bits of an instruction that has an encoding; none for the ILL row and the machine events. -/
def encode (i : Instr) : Option (Bool × Nat) :=
  match i with
  | .pairedSlot x y => some (true, putHalf x * 2 ^ 48 + putHalf y)
  | _ => (encodeOp i).map fun p => (false, p.1 * 2 ^ 88 + p.2)

/-! ### Fetch lines (R155, R156) -/

/-- The 96 bits of slot `i` of a 64-byte line (R155). -/
def lineSlot (line : List Byte) (i : Nat) : Nat := leNat ((line.drop (12 * i)).take 12)

/-- The line word, bytes 60 to 63 (R156). -/
def lineWord (line : List Byte) : Nat := leNat ((line.drop 60).take 4)

/-- The PAIR bit of slot `i` (R156). -/
def linePair (line : List Byte) (i : Nat) : Bool := bit (lineWord line) i

/-- The TARGET bit of slot `i` (R156). -/
def lineTarget (line : List Byte) (i : Nat) : Bool := bit (lineWord line) (5 + i)

/-- The RUNEND bit of slot `i` (R156). -/
def lineRunEnd (line : List Byte) (i : Nat) : Bool := bit (lineWord line) (10 + i)

/-- The reserved bits [23:15] of the line word (R158). -/
def lineReserved (line : List Byte) : Nat := bits (lineWord line) 23 15

/-- The exclusive or of the bytes j with j mod 8 = k among bytes 0 to 59 (R156). -/
def laneXor (line : List Byte) (k : Nat) : Byte :=
  (List.range 60).foldl (fun x j => if j % 8 = k then x ^^^ line.getD j 0 else x) 0

/-- The PARITY byte computed over a line (R156): bit k is the parity of the bytes j with j mod 8 = k. -/
def lineParity (line : List Byte) : Nat :=
  (List.range 8).foldl (fun n k => n + popcount 8 ((laneXor line k).setWidth 64) % 2 * 2 ^ k) 0

/-- Whether a line's PARITY is right (R157). -/
def parityOk (line : List Byte) : Bool := bits (lineWord line) 31 24 == lineParity line

/-- A line of five slots with its line word and the right PARITY (R155, R156). -/
def makeLine (slots : List Nat) (word : Nat) : List Byte :=
  let body := ((List.range 5).map fun i => leBytes 12 (slots.getD i 0)).flatten
  body ++ leBytes 4 (word % 2 ^ 24 + lineParity body * 2 ^ 24)

/-- The instruction read from a slot given as one number: its 96 bits, and the PAIR bit of its line in bit 96. -/
def decodeTableWord (_nbits w : Nat) : Option Instr :=
  match decode (bit w 96) (w % 2 ^ 96) with
  | .ok i => some i
  | _ => none

end Sys2Proof
end

