-- ==== Sys2Proof/Machine/Approx.lean ====
section
/-! DEFINITION. The exact values that the approximating transcendentals approach, in fixed point, and the error bounds of R228 around them (log entry 7). -/

namespace Sys2Proof.Machine

/-- The fraction bits of the fixed-point numbers of this file. -/
def fixBits : Nat := 400

/-- One in fixed point. -/
def fixOne : Nat := 2 ^ fixBits

/-- A value in fixed point, toward zero. -/
def Val.fixed : Val → Int
  | .num s m e _ =>
    let e := e + (fixBits : Int)
    let x := if 0 ≤ e then m * 2 ^ e.toNat else m / 2 ^ (-e).toNat
    if s then -(x : Int) else (x : Int)
  | _ => 0

/-- A fixed-point number as a value that lies next to the exact one. -/
def ofFixed (x : Int) : Val := .num (decide (x < 0)) x.natAbs (-(fixBits : Int)) true

/-- The sum over k of terms: `next k t` is the term after the k-th term `t`. -/
def series (next : Nat → Int → Int) : Nat → Nat → Int → Int → Int
  | 0, _, _, acc => acc
  | n + 1, k, t, acc => series next n (k + 1) (next k t) (acc + t)

/-- The natural logarithm of 2: the sum of 2^-k / k. -/
def fixLn2 : Int := (List.range fixBits).foldl (fun n k => n + (fixOne / ((k + 1) * 2 ^ (k + 1)) : Nat)) 0

/-- The arc tangent of 1 / n. -/
def fixAtanInv (n : Nat) : Int :=
  (List.range (fixBits / 2)).foldl (fun a k =>
    let t : Int := (fixOne / ((2 * k + 1) * n ^ (2 * k + 1)) : Nat)
    if k % 2 = 0 then a + t else a - t) 0

/-- π (Machin's formula). -/
def fixPi : Int := 16 * fixAtanInv 5 - 4 * fixAtanInv 239

/-- The exponential of a number in [0, 1). -/
def fixExp (x : Int) : Int := series (fun k t => t * x / ((k + 1 : Nat) * (fixOne : Int))) 120 0 fixOne 0

/-- 2 to the power of a number: the integer part of the exponent, and 2 to its fraction. -/
def fixPow2 (x : Int) : Int × Int := (x / (fixOne : Int), fixExp (x % (fixOne : Int) * fixLn2 / (fixOne : Int)))

/-- The natural logarithm of a number in [1, 2), by the area hyperbolic tangent. -/
def fixLn (z : Int) : Int :=
  let o : Int := fixOne
  let u := (z - o) * o / (z + o)
  let u2 := u * u / o
  2 * ((List.range 140).foldl (fun (a : Int × Int) k => (a.1 + a.2 / (2 * k + 1 : Nat), a.2 * u2 / o)) (0, u)).1

/-- FEXP2's exact result for a finite source; below 2^-350 the distance to 0 is below every bound. -/
def exactExp2 (v : Val) : Val :=
  let r := fixPow2 (max v.fixed (-350 * (fixOne : Int)))
  .num false r.2.toNat (r.1 - (fixBits : Int)) true

/-- FLOG2's exact result for a positive finite source. -/
def exactLog2 (m : Nat) (e : Int) : Val :=
  let k := Nat.log2 m
  let z : Int := (m * fixOne / 2 ^ k : Nat)
  ofFixed ((e + (k : Int)) * (fixOne : Int) + fixLn z * (fixOne : Int) / fixLn2)

/-- The sine or cosine of a finite source in radians. -/
def exactSinCos (cos : Bool) (v : Val) : Val :=
  let x := v.fixed % (2 * fixPi)
  let x2 := x * x / (fixOne : Int)
  let t0 : Int := if cos then fixOne else x
  let d (k : Nat) : Nat := if cos then (2 * k + 1) * (2 * k + 2) else (2 * k + 2) * (2 * k + 3)
  ofFixed (series (fun k t => -(t * x2 / ((d k : Nat) * (fixOne : Int)))) 120 0 t0 0)

/-- The hyperbolic tangent of a finite source: 1 − 2 / (exp 2x + 1); beyond 64 the rest is below every bound. -/
def exactTanh (v : Val) : Val :=
  let o : Int := fixOne
  let x := min (v.fixed.natAbs : Int) (64 * o)
  let r := fixPow2 (2 * x * o / fixLn2)
  let ex := r.2 * (2 : Int) ^ r.1.toNat
  let y := o - 2 * o * o / (ex + o)
  ofFixed (if v.neg then -y else y)

/-- Whether a magnitude lies so close above a power of two that the two finite values nearest it are that power and the one below, which
stand half as far apart as those above (R228). -/
def halfUlp (t : Ty) (m : Nat) (e : Int) : Bool :=
  let k := Nat.log2 m
  decide (t.fmt.qmin < e + (k : Int) - (t.fmt.fw : Int)) && decide ((m - 2 ^ k) * 2 ^ (t.fmt.fw + 2) < 2 ^ k)

/-- The distance between the two finite values of a format that are nearest a value, in fixed point (R228). -/
def ulpOf (t : Ty) (v : Val) : Int :=
  match v with
  | .num _ m e _ =>
    let q := max (e + (Nat.log2 m : Int) - (t.fmt.fw : Int)) t.fmt.qmin
    if m = 0 then Val.fixed (.num false 1 t.fmt.qmin false)
    else Val.fixed (.num false 1 (if halfUlp t m e then q - 1 else q) false)
  | _ => 0

/-- Whether a finite value lies within a fixed-point bound of the exact one. -/
def Val.near (x v : Val) (bound : Int) : Bool :=
  match x with
  | .num _ _ _ _ => decide ((x.fixed - v.fixed).natAbs ≤ bound.toNat)
  | _ => false

/-- The bound of FEXP2, FLOG2 and FTANH in ulp (R228). -/
def ulpBound (t : Ty) (v : Val) : Int := if t = .f16 then ulpOf t v else 2 * ulpOf t v

/-- The absolute bound 2^-22, or 2^-11 for .F16 (R228). -/
def absBound (t : Ty) : Int := Val.fixed (.num false 1 (if t = .f16 then -11 else -22) false)

end Sys2Proof.Machine
end

