-- ==== Sys2Proof/Machine/State.lean ====
section
/-! DEFINITION. The state of the module as plain data, its reset value, and the reasons for which a step stops. -/

namespace Sys2Proof.Machine

/-! ### Reasons to stop -/

/-- The faults of the model. The manual gives every instruction and every machine event an effect, so no step of this model ends
in one. -/
inductive Fault where
  /-- A step of an agent that the module does not have (R12 to R21). No meaning raises it: an event for such an agent changes
  nothing that the module has. Safe, since the machine only stops. -/
  | absentAgent
  deriving DecidableEq, Repr

/-- A refusal of the model. -/
inductive Refusal where
  /-- Raised by an arm of exec whose instruction has no meaning yet; safe, since the model only stops. -/
  | notModelled (mnemonic : String)
  deriving DecidableEq, Repr

/-! ### Lanes (R91, R429 to R433) -/

/-- What stops a lane: the kind and DETAIL of R428 and R429, TRAP's CODE, HALF, and `%trapaddr`. -/
structure Trap where
  kind : BitVec 5
  detail : BitVec 8 := 0
  code : BitVec 16 := 0
  half : Bool := false
  addr : DWord := 0
  deriving DecidableEq, Repr

/-- The state of a lane (R91); `rdv` stands at a REGROUP or REPACK without issuing (R114). -/
inductive LaneSt where
  | run | rcwait | parked | exited | rdv
  deriving DecidableEq, Repr

/-- The operand log entry of a parked lane (R431): program counter and nesting counter, the source elements as delivered
with their poison, and the rows that stay pending. -/
structure LogEntry where
  pc : BitVec 56
  nest : BitVec 6
  vals : List (BitVec 64 × Bool)
  rows : List Nat
  deriving DecidableEq, Repr

/-- What a lane that stands at a REGROUP or REPACK brings to the rendezvous (R115, R116): whether the instruction is REGROUP, N,
and the lane's target and key. -/
structure Meet where
  regroup : Bool
  n : Nat
  target : BitVec 56
  key : BitVec 16
  deriving DecidableEq, Repr

/-- One lane (R91, R99, R429 to R433). `back` is where the lane stood when a reply parked it at an earlier instruction
(R488), and `meet` is set while it stands at a rendezvous. -/
structure Lane where
  pc : BitVec 56 := 0
  st : LaneSt := .exited
  nest : BitVec 6 := 0
  cause : Word := 0
  tpc : DWord := 0
  taddr : DWord := 0
  log : Option LogEntry := none
  replay : Bool := false
  handler : Bool := false
  back : Option (BitVec 56 × BitVec 6 × LaneSt) := none
  meet : Option Meet := none
  deriving DecidableEq, Repr

/-! ### Outstanding memory operations (R312 to R315, R338) -/

/-- One element of an outstanding load or returning atomic: its lane and first register, where its bytes lie, the
request it waits for, and its value once bound. `por` is set on a page with POR (R257). -/
structure Elem where
  lane : Nat
  reg : Nat
  line : Nat
  off : Nat
  w : Nat
  por : Bool := false
  wait : Option Nat := none
  val : BitVec 64 × Bool := (0, false)
  deriving DecidableEq, Repr

/-- The states of a copy (R277); I is the absence of a copy. -/
inductive CopySt where
  | w | p | v | x
  deriving DecidableEq, Repr

/-- A copy of a line in a core's cache partition (R276): `mask` is BMASK, `clean` is set when it holds data besides the
marked bytes, `stream` marks a streaming line (R256) and `ref` numbers the request in flight in state P. -/
structure Copy where
  line : Nat
  st : CopySt
  wts : Stamp := ⟨0, 0⟩
  rts : Stamp := ⟨0, 0⟩
  clean : Bool := false
  mask : BitVec 128 := 0
  bytes : BitVec 1024 := 0
  poison : BitVec 32 := 0
  repl : Bool := false
  stream : Bool := false
  ref : Nat := 0
  deriving DecidableEq, Repr

/-- An outstanding operation of a group: whether it counts in LOADS or STORES, whether it has started or waits for its
release, the replies it waits for, its elements, the Acquire that follows it, whether later accesses wait for it (R312),
and the lines it will write once started. A load keeps the copy of each line whose reply it awaits as it stood at the
lookup (`snaps`). A peer access also keeps the lanes whose replies are due, its program counter,
the lanes' sources and its destination rows, for a lane that a late reply parks (R488). `bench` marks ordered contributions
(R335), and `hold` a HOLD that waits for its HOLDACK (R325). -/
structure MemOp where
  id : Nat
  load : Bool
  counted : Bool := true
  started : Bool := true
  waits : List Nat := []
  elems : List Elem := []
  ty : Ty := .b32
  uni : Bool := false
  bench : Bool := false
  snaps : List Copy := []
  acq : Option Scope := none
  blocks : Bool := false
  hold : Bool := false
  lines : List Nat := []
  due : List Nat := []
  pc : BitVec 56 := 0
  srcs : List (Nat × List (BitVec 64 × Bool)) := []
  rows : List Nat := []
  deriving DecidableEq, Repr

/-- One line that a load touches: the bytes it reads, the lease it requests and how it may be kept (R256, R281). -/
structure LineAcc where
  line : Nat
  mask : BitVec 128
  lease : Nat
  noAlloc : Bool
  stream : Bool
  page : Option (Nat × Nat)
  deriving DecidableEq, Repr

/-- One line that a store writes (R245, R285). -/
structure StorePart where
  line : Nat
  mask : BitVec 128
  bytes : BitVec 1024
  poison : BitVec 32
  noAlloc : Bool
  stream : Bool
  deriving DecidableEq, Repr

/-- What follows a release or a wait for earlier accesses (R288, R314, R317, R326, R328). -/
inductive Cont where
  | loads (op : Nat) (accs : List LineAcc) (promote : Option Scope)
  | stores (op : Nat) (parts : List StorePart) (hold : Bool)
  | atoms (op : Nat) (msgs : List AtomMsg) (bench : List Contribution)
  | peers (op : Nat) (reqs : List PeerReq)
  | fence (acq : Bool)
  | reissue (pc : BitVec 56)
  | retire (old new ref : Nat) (msgs : List AtomMsg) (bench : List Contribution)
  | yield (line : Nat)
  | send (m : Instr)
  | sends (ms : List Instr)
  | boundary (grid : GridId)
  | preempted (t : TeamId)
  | done
  deriving DecidableEq, Repr

/-- A release or acquire condition under way (R287, R315, R317): the CPBKs and operations it waits for, the largest WTS
returned, and what follows. `release` is set when it performs Release(scope), and `again` while words that earlier accesses write after its
start are still to be copied back. -/
structure Rel where
  gid : Option GroupId
  scope : Scope
  release : Bool
  acks : List Nat
  ops : List Nat
  most : Nat
  cont : Cont
  again : Bool := false
  deriving DecidableEq, Repr

/-! ### Groups (R92, R95, R96) -/

/-- The state of a group (R96). HANDLER is the field `inHandler` beside it. -/
inductive GroupSt where
  | ready | running | waiting | ended
  deriving DecidableEq, Repr

/-- What a group waits for (R108 to R110, R114). The first of these stop before an instruction, which issues afresh once the condition holds:
rows pending for parked lanes or a graphics unit (R112, R368), walks at a core (R262), room in the counters or in a core's engine and Hutch
(R152, R339), earlier accesses of the group that have not started, or their orders (R312, R317), a line at its home (R274, R301), a tile, to
fill it, to drain it or to release it, or one that a control core reads (R110, R147, R611), a macro-op queue, the macro-ops on an accumulator,
a place for a quarter (R361, R363, R473), a rebase after the number given (R301), and the release of the access (R314). With the others the instruction completes
when its condition holds (R109): `start` stands before a team's start message and `startAt` before its start time (R89, R424), `drained` is
MMAWAIT (R563), and `sem` a SEMWAIT by the number of its read, which is 0 until its home takes it; `replied` is set by the reply, and `late`
while the check that its passed deadline is due awaits that reply (R597). -/
inductive WaitFor where
  | rows (rs : List Nat)
  | walks (core : CoreId)
  | room (l s c t : Nat)
  | engine (core : CoreId) (ranges : List (Option TeamId × Nat × Nat))
  | starts (lines : List Nat)
  | peers (dst : CoreId) (a n : Nat)
  | order (storing : Bool)
  | line (n : Nat)
  | tile (n : Nat) (fill : Option Bool)
  | tileAt (core : CoreId) (team : TeamId) (n : Nat)
  | queue (quad : Nat)
  | macroOps (quad acc : Nat)
  | quarters
  | epoch (n : Nat)
  | release (pc : BitVec 56)
  | start
  | startAt (t : Nat)
  | counters (l s c t : Nat)
  | barrier (addr : Nat) (parity : Bool) (remote : Option Nat)
  | deadline (t : BitVec 64)
  | sem (addr : Nat) (target : BitVec 64) (limit : Option (BitVec 64)) (replied : Bool) (ref : Nat) (late : Bool)
  | sleep (n : Nat)
  | precv (area : Nat)
  | rendezvous
  | drained (acc : Option (Nat × Nat))
  | reply (dst : Nat)
  deriving DecidableEq, Repr

/-- A wait: what for, the program counter of the waiting instruction, and the lanes that move on when it completes. -/
structure Wait where
  what : WaitFor
  pc : BitVec 56
  lanes : List Nat
  deriving DecidableEq, Repr

/-- Who makes rows pending (R112, R368): a parked lane, or an operation by its number. -/
inductive PendBy where
  | lane (l : Nat)
  | op (n : Nat)
  deriving DecidableEq, Repr

/-- Rows that are pending. A row is numbered as a specifier: vN is N, sN is 256 + N (cN on a scalar core). -/
structure Pend where
  who : PendBy
  rows : List Nat
  deriving DecidableEq, Repr

/-- One group (R92, R95, R96). `entering` is set until its first slot has been fetched, as a transfer to ENTRY (R423).
`readyAt` is the clk at which it entered READY and `readyNo` counts its entries, `woke` is set from the end of a wait until its next run
(R451), and `wonOver` holds the groups over which it
won its last boundary, with their counts (R426). `relDone` is the program counter of an instruction whose release is done (R314), `arrs` the remote arrivals that await a
reply with their program counters and objects (R356), `left` is set once the group's end has reached its team's objects, and
`joined` while it has joined a rendezvous (R114). -/
structure Group where
  num : Nat := 0
  role : Nat := 0
  base : Nat := 0
  win : Nat := 0
  gst : GroupSt := .ended
  inHandler : Bool := false
  wait : Option Wait := none
  held : Option Wait := none
  lanes : List Lane := []
  fpstat : BitVec 5 := 0
  rm : BitVec 3 := 1
  randv : BitVec 8 := 0
  scc : Bool := false
  horizon : Stamp := ⟨0, 0⟩
  late : Bool := false
  loads : Nat := 0
  stores : Nat := 0
  copies : Nat := 0
  tiles : Nat := 0
  ssp : Nat := 0
  fx : Bool := false
  inn : Bool := false
  lastAcq : Option Nat := none
  ops : List MemOp := []
  relDone : Option (BitVec 56) := none
  arrs : List (Nat × BitVec 56 × Nat) := []
  left : Bool := false
  joined : Bool := false
  pend : List Pend := []
  entering : Bool := false
  runLen : Nat := 0
  readyAt : Nat := 0
  readyNo : Nat := 0
  woke : Bool := false
  wonOver : List (GroupId × Nat) := []
  deriving DecidableEq, Repr

/-! ### Launch records and teams (R93, R94, R410) -/

/-- The values of a launch record (R410). -/
structure LaunchRecord where
  entry : BitVec 56 := 0
  trapvec : BitVec 56 := 0
  troot : Nat := 0
  dstab : Nat := 0
  asid : Nat := 0
  dx : Nat := 0
  dy : Nat := 0
  rw : Nat := 1
  rh : Nat := 1
  tpd : Nat := 1
  p : Nat := 1
  c : Nat := 0
  w0 : Nat := 16
  w1 : Nat := 0
  spill : Nat := 0
  cache : Nat := 0
  tmRows : Nat := 8
  nbar : Nat := 0
  prio : Nat := 0
  starten : Bool := false
  far : Bool := false
  gang : Nat := 0
  benchl : Nat := 0
  budget : Nat := 0
  start : DWord := 0
  pass : Nat := 0
  args : DWord := 0
  waits : List (Nat × DWord) := []
  sigs : List (Nat × DWord) := []
  roles : List (Nat × Int × Int) := []
  tiles : List (Nat × DWord) := []
  deriving DecidableEq, Repr

/-- A group that waits on a barrier object from another core (R497). -/
structure BarWaiter where
  core : CoreId
  group : GroupId
  addr : Nat
  parity : Bool
  deriving DecidableEq, Repr

/-- The number that stands for no route of the table: the core reaches the other end itself. -/
def localRoute : Nat := 64

/-- A count-only object at which the team has arrived, with the route of its last arrival and how many of its DROPs there
stand (R354). -/
structure GangObj where
  core : CoreId
  route : Nat
  addr : Nat
  drops : Nat
  deriving DecidableEq, Repr

/-- An arrival in the current phase of a count-only object: of a team, or of a first-level object (R354, R356). -/
structure Arrival where
  addr : Nat
  team : TeamId
  obj : Option (CoreId × Nat)
  deriving DecidableEq, Repr

/-- How far a pre-emption has come (R441 to R446): the mode, 0 drain, 1 flush, 2 save; the clk since its decision; whether
its release is under way or done; whether the engine operations were cancelled; whether a request keeps the team out, and
the die whose PMREQ asked for it (R466). -/
structure Preempt where
  mode : Nat
  clk : Nat := 0
  releasing : Bool := false
  released : Bool := false
  quiesced : Bool := false
  keep : Bool := false
  asked : Option Nat := none
  deriving DecidableEq, Repr

/-! ### Traversal queries (R388 to R395) -/

/-- What a traversal visits next (R390): an interior node, an instance, a leaf, or the triangles of a cluster. -/
inductive TravKind where
  | interior | inst | leaf | tris
  deriving DecidableEq, Repr

/-- A visit to come: the node or cluster, the ray in its frame as binary64 origin and direction, the instance, the slab entry and
exit of its box in binary64, and for a cluster its next triangle, the leaf's id, the level and FALLBACK. -/
structure TravItem where
  kind : TravKind
  va : Nat
  ray : List DWord
  inst : Option Word := none
  entry : DWord
  exit' : DWord
  k : Nat := 0
  leaf : Word := 0
  level : Nat := 0
  fallback : Bool := false
  deriving DecidableEq, Repr

/-- A hit as it is reported (R392 to R394). -/
structure TravHit where
  t : Word
  l1 : Word
  l2 : Word
  tri : Nat
  leaf : Word
  inst : Option Word
  level : Nat
  fallback : Bool
  deriving DecidableEq, Repr

/-- A query (R388, R389, R392): its number and modes, the descriptor's feedback fields and quality, the ray's limits in binary64
and cone in binary32, the visits to come, the committed hit, the candidate, and NRSEEN. -/
structure Query where
  qid : Nat
  any : Bool
  term : Bool
  fbBase : Nat := 0
  fbSize : Nat := 0
  fbCount : Nat := 0
  quality : Word := 0
  tmin : DWord
  tmax : DWord
  w0 : Word
  spread : Word
  stack : List TravItem := []
  best : Option TravHit := none
  cand : Option TravHit := none
  nrseen : Bool := false
  deriving DecidableEq, Repr

/-- One team (R93, R94): its place in the core store, its groups, the estimate, run count and clk of R441 and R442, the
order in which it was placed (R247), its Shelf entries (R145), its receive queue and the groups that wait at PRECV (R357,
R358), those that wait on its barrier objects from other cores, the ARRIVEs that await a reply (R356), the arrivals of
count-only objects in their phases, and the objects at which it arrived. `wave` is its start wave (R424) and `pre` a
pre-emption under way. `closed` is the last draw that it closed (R375) and `queries` its open queries (R388, R395). -/
structure Team where
  id : TeamId := ⟨⟨0, 0⟩, 0⟩
  lrec : LaunchRecord := {}
  base : Nat := 0
  rows : Nat := 0
  groups : List Group := []
  progress : Option Nat := none
  runs : Nat := 0
  life : Nat := 0
  placed : Nat := 0
  shelf : List (Nat × DWord) := []
  inbox : List Packet := []
  precvs : List Nat := []
  barWaiters : List BarWaiter := []
  pendingUp : List ArriveMsg := []
  arrivals : List Arrival := []
  gangObjs : List GangObj := []
  wave : Nat := 0
  pre : Option Preempt := none
  closed : Option Nat := none
  queries : List Query := []
  deriving DecidableEq, Repr

/-! ### Translations (R251 to R263) -/

/-- A leaf translation as a cache holds it (R253, R260): the address space, the page's virtual base and size, the frame,
the members of its die set, and its attributes. -/
structure Leaf where
  asid : Nat
  va : Nat
  size : Nat
  frame : Nat
  dset : List Nat
  attr : BitVec 2
  lease : BitVec 2
  por : Bool
  w : Bool
  x : Bool
  deriving DecidableEq, Repr

/-- What a walk finds for an address (R254, R258, R263, R266). -/
inductive WalkOut where
  | leaf (l : Leaf)
  | malformed
  | unresolved
  | sparse
  deriving DecidableEq, Repr

/-- A walk-cache entry: a non-leaf entry of a level (R260). -/
structure WalkEntry where
  asid : Nat
  level : Nat
  va : Nat
  entry : BitVec 64
  deriving DecidableEq, Repr

/-- A result of a walk that is held for whoever asked, until the next issue of the instruction (R262). `quiet` results of PREF,
RENEW, EXPIRE and FLUSH never went to the page service (R265). -/
structure WalkHeld where
  owner : WalkFor
  asid : Nat
  page : Nat
  out : WalkOut
  quiet : Bool
  deriving DecidableEq, Repr

/-! ### Cores (R126 to R153) -/

/-- An entry of the Hutch (R151): a range of local rows of a team, or of global virtual lines. -/
structure RangeLock where
  team : Option TeamId
  count : Nat
  first : Nat
  last : Nat
  deriving DecidableEq, Repr

/-- The message whose fragment a dispatch core runs, and its place (R402 to R404). -/
structure Frag where
  tag : DWord
  seq : BitVec 32
  place : Nat := 0
  deriving DecidableEq, Repr

/-- An entry of a core's route table (R22, R36, R39): its 256 bits, whether a failure withdrew it, and the entry that a
rebuild wrote for it. -/
structure RouteSlot where
  num : Nat
  entry : BitVec 256
  withdrawn : Bool := false
  coming : Option (BitVec 256) := none
  deriving DecidableEq, Repr

/-- A tensor shape record as the engine read it (R341, R342). -/
structure Shape where
  gbase : Nat := 0
  efmt : Nat := 0
  ndim : Nat := 0
  dir : Nat := 0
  lswz : Nat := 0
  fillen : Bool := false
  gpol : Nat := 0
  ext : List Nat := []
  str : List Nat := []
  start : List Int := []
  box : List Nat := []
  fill : BitVec 64 := 0
  sbase : Nat := 0
  deriving DecidableEq, Repr

/-- The kinds of engine operations (R347, R471). -/
inductive EngKind where
  | cpy | gather | scatter | reduce | fill | peer | send | drain
  deriving DecidableEq, Repr

/-- One store of an engine into the control node's window or a register block, or a read of the window, and what came back (R455, R456,
R631). -/
structure SysPart where
  tag : Nat
  line : Nat
  write : Bool
  got : Option (List Byte) := none
  bad : Bool := false
  deriving DecidableEq, Repr

/-- An MX unit whose block and scale lie in two lines: the bytes of each line, the stamps that its PREPACKs returned,
and the COMMITACKs that are due (R334). -/
structure UnitWrite where
  lo : StorePart
  hi : StorePart
  acks : List Stamp := []
  due : Nat := 2
  deriving DecidableEq, Repr

/-- How far an engine operation has come: not begun, waiting for answers from homes or from the far end, or performed. -/
inductive EngPhase where
  | fresh | waiting | performed
  deriving DecidableEq, Repr

/-- An engine operation in flight (R346 to R350, R475, R617): its group (none for a drain), its team, its command, shape
records and local operands as read at issue, the issuing core's `%now`, the Hutch ranges it holds, the largest WTS it met,
the answers it waits for, the parts of its transfer that are `left` once it has begun (R333), and its status. `kept` marks one that a save cancelled, whose command is reissued (R447). A drain carries the accumulator's elements, the poison of its rows, its tag as the
type `fmt`, and its control core. -/
structure EngOp where
  id : Nat
  gid : Option GroupId
  team : TeamId
  kind : EngKind
  sub : Nat := 0
  fmt : Ty := .b32
  shape : Shape := {}
  shape2 : Option Shape := none
  la : Nat := 0
  idx : List (Option Nat) := []
  rank : Nat := 0
  route : Nat := 0
  dst : CoreId := .vec 0 0 0
  dstAddr : Nat := 0
  count : Nat := 0
  payload : List (Byte × Bool) := []
  words : Nat := 0
  bar : Option Nat := none
  bytes : Nat := 0
  tile : Option (Nat × Bool) := none
  now : Stamp := ⟨0, 0⟩
  locks : List RangeLock := []
  phase : EngPhase := .fresh
  cancelled : Bool := false
  kept : Bool := false
  started : Bool := true
  top : Nat := 0
  waits : List Nat := []
  units : List UnitWrite := []
  left : Option (List Nat) := none
  sys : List SysPart := []
  cells : List (BitVec 64) := []
  rowBad : BitVec 64 := 0
  ctl : Option CoreId := none
  status : Status := .ok
  deriving DecidableEq, Repr

/-- A published B quarter (R361): its type, its bytes with their poison by element, its scale bytes, and its group. -/
structure Quarter where
  ty : Ty
  bytes : List Byte
  scales : List Byte
  bad : Bool
  gid : GroupId
  deriving DecidableEq, Repr

/-- A drain that a control core has issued (R473, R563): its number, quad and accumulator, and its status once complete. -/
structure Drain where
  op : Nat
  quad : Nat
  acc : Nat
  status : Option Status := none
  deriving DecidableEq, Repr

/-- A packet or request of a withdrawn route that waits in the injection queue (R37). -/
structure Injected where
  route : Nat
  msg : Instr
  deriving DecidableEq, Repr

/-- What a graphics unit does (R366): TRAV with ANY and TERM, TRAVNEXT, TEX with its filter, TEXQ, RAST and BINGET. -/
inductive UnitKind where
  | trav (any term : Bool)
  | travnext (accept : Bool)
  | tex (filter : Nat)
  | texq
  | rast
  | binget (named : Nat)
  deriving DecidableEq, Repr

/-- A feedback append that is due (R396): the kind, the virtual address and the level, and n once the count has been taken. -/
structure Feedback where
  kind : Nat
  va : Nat
  level : Nat
  n : Option Nat := none
  deriving DecidableEq, Repr

/-- An operation of a graphics unit (R368): its group, its first destination row, the bytes of the descriptor as read at
issue (R367), the hit-record area, `%now` at its issue, the lanes still to be served with their sources, the query in progress, the
appends due, and what is known so far: words for registers by row and lane, words for uniform registers, the records, the flags
raised, the largest WTS read or written, and the status of its copies (R267). `asleep` is set while it waits for a walk, and `used` lists the lines it has
read since its homes last took note (R274). -/
structure UnitOp where
  id : Nat
  gid : GroupId
  kind : UnitKind
  dst : Nat := 0
  bytes : Option (List Byte) := none
  area : Nat := 0
  now : Stamp := ⟨0, 0⟩
  todo : List (Nat × List (BitVec 64)) := []
  qid : Option Nat := none
  appends : List Feedback := []
  outs : List (Nat × Nat × Word) := []
  unis : List (Nat × Word) := []
  recs : List (Nat × List Byte) := []
  flags : BitVec 5 := 0
  top : Nat := 0
  status : Status := .ok
  asleep : Bool := false
  used : List Nat := []
  deriving DecidableEq, Repr

/-- One core. `cBad` marks c0 to c31 (bits 31:0) and the halves of the buffer records (bits 63:32) as poisoned (R440). `units` holds the operations of graphics units in flight. `idle` counts clk without a slot,
and `busy` is set in a clk that has one (R279). `retained` is set in retention, with the die's rebase count that `%now` has taken as `retainedAt`, and `missed`
counts the starts before it that the copies did not take (R302). -/
structure Core where
  id : CoreId := .vec 0 0 2
  store : List Host.Cell := []
  storePoison : List Nat := []
  mixed : List Nat := []
  now : Stamp := ⟨0, 0⟩
  idle : Nat := 0
  busy : Bool := false
  c : List DWord := List.replicate 32 0
  b : List (BitVec 128) := List.replicate 16 0
  cBad : BitVec 64 := 0
  slot : Option GroupId := none
  watch : List DWord := [0, 0, 0, 0]
  ltc : List Leaf := []
  walks : List WalkReq := []
  walkOuts : List WalkHeld := []
  teams : List Team := []
  frag : Option Frag := none
  partRows : Nat := 0
  copies : List Copy := []
  acks : List Nat := []
  accepts : List Nat := []
  rels : List Rel := []
  heldLines : List Nat := []
  hutch : List RangeLock := []
  routes : List RouteSlot := []
  inject : List Injected := []
  engine : List EngOp := []
  units : List UnitOp := []
  quarters : List Quarter := []
  drains : List Drain := []
  saved : List (TeamId × Nat) := []
  retained : Bool := false
  retainedAt : BitVec 32 := 0
  missed : Nat := 0
  deriving DecidableEq, Repr

/-! ### Matrix engines (R359 to R365) -/

/-- The format tag of an accumulator (R359). -/
inductive AccTag where
  | z | f32 | i32 | f64
  deriving DecidableEq, Repr

/-- An accumulator (R359): its tag, its elements in row-major order (none listed means all zero) and the poison of its
rows. A binary64 pair keeps its elements in the even one. -/
structure Acc where
  tag : AccTag := .z
  cells : List (BitVec 64) := []
  bad : BitVec 64 := 0
  deriving DecidableEq, Repr

/-- What a macro-op does (R363): MMA, ACCZERO or ACCLOAD. -/
inductive MacroKind where
  | mma (ta tb : Ty) (ovr : Bool)
  | zero
  | load
  deriving DecidableEq, Repr

/-- A macro-op in an engine's queue (R363, R365): the control core, the quad it names, the core and team whose tile it
reads, the accumulator, and the quarters that a started MMA consumed. -/
structure MacroOp where
  kind : MacroKind
  ctl : CoreId
  quad : Nat
  core : CoreId
  team : TeamId
  tile : Nat
  acc : Nat
  quarters : List Quarter := []
  deriving DecidableEq, Repr

/-- A quad's matrix engine (R359, R363, R365): its two banks of accumulators, its own and the redirected queue, the
macro-op that runs with the number of its start, and whether the next macro-op comes from the redirected queue. -/
structure Quad where
  die : Nat := 0
  num : Nat := 0
  accs : List Acc := List.replicate 8 {}
  bank2 : List Acc := List.replicate 8 {}
  queue : List MacroOp := []
  redir : List MacroOp := []
  running : Option MacroOp := none
  turn : Bool := false
  deriving DecidableEq, Repr

/-! ### Homes, slices and Bench (R236, R272 to R274, R326, R328, R334) -/

/-- A resident line of a Bureau slice (R273): its timestamps, HOLDER and OPEN, whether it awaits a YIELD, the unit write
that prepared it, and the requests it holds meanwhile. Its data and POISON stand in memory. -/
structure Home where
  line : Nat
  wts : Stamp
  rts : Stamp
  holder : Option CoreId := none
  opn : Bool := false
  recalling : Bool := false
  ynow : Option Stamp := none
  prep : Option (CoreId × Nat) := none
  held : List Instr := []
  deriving DecidableEq, Repr

/-- A Bureau slice (R274): MTS and the requests that wait for a way. Lines stand in `homes`, the latest used first. -/
structure Slice where
  die : Nat
  ch : Nat
  mts : Stamp := ⟨0, 0⟩
  waiting : List Instr := []
  deriving DecidableEq, Repr

/-- An element with an open ordered epoch (R236): the position of the next rank and the contributions buffered. -/
structure BenchElem where
  addr : Nat
  wide : Bool
  grid : GridId
  pos : Nat := 0
  buf : List Contribution := []
  deriving DecidableEq, Repr

/-- A waiter that a home notifies of a semaphore (R416, R596): a group's SEMWAIT by its number, or wait `k` of a queued
launch. -/
structure SemWaiter where
  addr : Nat
  target : BitVec 64
  core : CoreId
  group : GroupId
  ref : Nat
  launch : Option (GridId × Nat)
  deriving DecidableEq, Repr

/-- A line of a die's remote-data cache, or a replica line (R284, R303). -/
structure RdcLine where
  line : Nat
  wts : Stamp
  rts : Stamp
  bytes : BitVec 1024
  poison : BitVec 4
  repl : Bool
  deriving DecidableEq, Repr

/-- An entry of the directory of replicated pages (R304). -/
structure ReplPage where
  frame : Nat
  size : Nat
  dies : List Nat
  down : Bool
  deriving DecidableEq, Repr

/-! ### Binners (R370 to R381) -/

/-- The states of a tile (R376). -/
inductive TileSt where
  | open | avail | attached | spilled | done | abandoned
  deriving DecidableEq, Repr

/-- A tile of a pass (R376 to R381): its index and state, whether it was chosen for early flush, the rank that holds it, whether
it has a resume record, and that record's TOKEN and count. -/
structure BinTile where
  num : Nat
  st : TileSt := .open
  early : Bool := false
  holder : Option Nat := none
  resume : Bool := false
  token : DWord := 0
  count : Nat := 0
  deriving DecidableEq, Repr

/-- A pass at a die's binner (R370 to R378): its grid, whether it is open, BINWAYS, GRANKS, the last draw that each rank closed, its
tiles, the packets stored in the order of their arrival with the tiles that still await them, and the packets and closes that
wait under stop/go. -/
structure Pass where
  grid : GridId
  live : Bool := true
  ways : Nat := 0
  granks : Nat := 0
  closes : List (Nat × Nat) := []
  tiles : List BinTile := []
  bin : List PrimPacket := []
  waiting : List Instr := []
  deriving DecidableEq, Repr

/-! ### Clusters and dies -/

/-- A cluster's shared translation cache (R21, R260), and the walk requests of its cores that found the die's queue full (R261). Those of
the dispatch core stand under number 256. -/
structure Cluster where
  die : Nat := 0
  num : Nat := 0
  tc : List Leaf := []
  walkWait : List WalkReq := []
  deriving DecidableEq, Repr

/-- A walker at work (R261): its request, and the level and the table that it reads next. -/
structure Walking where
  req : WalkReq
  level : Nat
  table : Nat
  deriving DecidableEq, Repr

/-- The states of a forwarder (R70). -/
inductive FwdSt where
  | off | acquire | run | orphan | adopt
  deriving DecidableEq, Repr

/-- A die's forwarder and its clock-unit register FWDCFG (R70, R82, R84). `lockBy` is the clk by which its PLLs must
lock (R71), `assigned` is set while an orphan waits for the parent that re-rooting gave it, `moved` while a held die has a parent other than
the one it ran under (R77), and `down` holds its edges that no longer forward, 0 N, 1 E, 2 S, 3 W. `asked` holds PARENT and CHILD as written without
GO (R82). -/
structure Forwarder where
  st : FwdSt := .off
  down : List Nat := []
  parent : BitVec 3 := 7
  child : BitVec 4 := 0
  asked : Option (BitVec 3 × BitVec 4) := none
  hostMode : Bool := false
  badCfg : Bool := false
  refOk : Bool := false
  lockW : Bool := false
  lockE : Bool := false
  lockBy : Nat := 0
  assigned : Bool := false
  moved : Bool := false
  deriving DecidableEq, Repr

/-- A clock region (R61, R62, R567): the accumulator whose top 64 bits are `%gtc`, the rate word in force and the one
to come, `%clk`, the step not yet applied in units of 2^-16 ns, and in units of 2^-48 ns by how much the counter stands above
its time (R79) and what its next clk adds to end a slew (R81). -/
structure Region where
  acc : BitVec 96 := 0
  rate : DWord := 0x0000CCCCCCCCCCCD
  nextRate : Option DWord := none
  clk : DWord := 0
  step : DWord := 0
  debt : Nat := 0
  adj : Int := 0
  deriving DecidableEq, Repr

/-- A translation context (R251). -/
structure TransCtx where
  asid : Nat := 0
  troot : Nat := 0
  dstab : Nat := 0
  deriving DecidableEq, Repr

/-- A control message in one of a die's 16 places, with the port clock as it stood at its arrival (R402, R403). -/
structure PlacedMsg where
  place : Nat
  msg : ControlMsg
  now : Stamp
  deriving DecidableEq, Repr

/-- Translation control (R269). `since` is set once the range has been dropped, with the number that later accesses exceed (R270). -/
structure Tinv where
  va : DWord := 0
  len : DWord := 0
  cmd : BitVec 17 := 0
  busy : Bool := false
  since : Option Nat := none
  deriving DecidableEq, Repr

/-- Pre-emption requests and queries of a die (R465, R466): PMREQ, BUSY and NOTFOUND, the next sequence number, and the
queries outstanding with their teams. -/
structure PmBlock where
  req : DWord := 0
  busy : Bool := false
  notFound : Bool := false
  seq : BitVec 32 := 0
  asked : List (BitVec 32 × TeamId) := []
  deriving DecidableEq, Repr

/-- The loader (R469): LDRADDR, LDRASID, LDRCMD, BUSY, the failed segment, the status, and the master that asked. -/
structure Loader where
  addr : DWord := 0
  asid : Word := 0
  cmd : Word := 0
  master : Nat := 0
  busy : Bool := false
  failed : Nat := 0
  status : Nat := 0
  deriving DecidableEq, Repr

/-- The reset contents of the access tables, target by target as two words (R464). -/
def resetTables : List (DWord × DWord) :=
  [(0x3333333333330137, 0x3333), (0x11BB, 0), (0xB1BB, 0), (0x11BB, 0), (0x11BB, 0), (0xB0BB, 0), (0xB1BB, 0), (0x0BB0, 0)]

/-- One die (R14, R46, R52 to R84). `crc` counts the failed flits of its links (R438), `freeFrames` holds the free-frame pool as
frames with the low bit of their page size and `poolFills` how often the control node has filled it (R263), `walking` and `walkQueue` are the busy
walkers and the requests that wait for one (R261), and `rebaseGo` a START that waits for the sweeps. `passes` holds the binner's passes (R372), of which one at most is live. `dead` holds its dead physical cores by column and row, `cut` its failed mesh
elements, `corrected` counts its corrected errors (R438), `errors` what else it reports to the management controller, `heldGtc` what `%gtc` of its west and east regions read as it last entered hold (R78), `err` its time error in units of 2^-16 ns (R63), `stoppedMsgs` the messages that the port stops with the port clock
(R403), and `spare` is set once the spare dispatch core has taken over (R401). -/
structure Die where
  num : Nat := 0
  absent : Bool := false
  held : Bool := false
  stranded : Bool := false
  heldGtc : Nat × Nat := (0, 0)
  dead : List (Nat × Nat) := []
  deadEngines : List Nat := []
  cut : List MeshFault := []
  crc : List (MeshFault × Nat) := []
  fwd : Forwarder := {}
  west : Region := {}
  east : Region := {}
  acc : Bool := false
  err : Int := 0
  rdcgib : Nat := 0
  fwNow : Stamp := ⟨0, 0⟩
  rdc : List RdcLine := []
  replDir : List ReplPage := []
  rplAddr : DWord := 0
  rplCmd : BitVec 3 := 0
  rplBusy : Option Nat := none
  rplNoent : Bool := false
  epoch : BitVec 2 := 0
  rebases : BitVec 32 := 0
  sweeping : Bool := false
  rebaseReq : Bool := false
  hostRb : Bool := false
  rebaseGo : Bool := false
  stalled : List Instr := []
  binWays : Nat := 0
  passes : List Pass := []
  walkCache : List WalkEntry := []
  walking : List Walking := []
  walkQueue : List WalkReq := []
  freeFrames : List (Nat × Nat) := []
  poolFills : Nat := 0
  dutySel : DWord := 0
  faultSeq : BitVec 32 := 0
  faultRecs : List (BitVec 32 × WalkReq) := []
  dispCtx : TransCtx := {}
  msgs : List PlacedMsg := []
  stoppedMsgs : List (ControlMsg × Stamp) := []
  spare : Bool := false
  scval : Word := 0
  nextLid : Nat := 1
  idleNow : Stamp := ⟨0, 0⟩
  idleClk : Nat := 0
  tinv : Tinv := {}
  pm : PmBlock := {}
  loader : Loader := {}
  tables : List (DWord × DWord) := resetTables
  att : BitVec 384 := 0
  refused : Nat := 0
  errors : Nat := 0
  corrected : Nat := 0
  deriving DecidableEq, Repr

/-! ### The panel -/

/-- The states of the IEEE 1588 servo (R67). -/
inductive PtpSt where
  | off | acquiring | locked | holdover
  deriving DecidableEq, Repr

/-- Time discipline of the module (R81, R85 to R87): the servo's state, domain, latest estimate in units of 2^-16 ns,
the Sync intervals in a row within 50 ns, the Announce intervals missed, the remaining slew in units of 2^-48 ns,
GTCRATE as last written, the messages sent with their ports and timestamps, the clk of the last Announce, and in units of 2^-16 ns the
four timestamps of the slave port's exchange with its master, t2 and t3 corrected by the port's region offset, and the path delay. -/
structure Ptp where
  st : PtpSt := .off
  domain : Nat := 0
  est : Int := 0
  good : Nat := 0
  missed : Nat := 0
  slave : Option Nat := none
  slew : Int := 0
  rateWord : DWord := 0x0000CCCCCCCCCCCD
  sent : List (Nat × PtpKind × Int) := []
  heardAt : Nat := 0
  t1 : Option Int := none
  t2 : Option Int := none
  t3 : Option Int := none
  t4 : Option Int := none
  delay : Option Int := none
  deriving DecidableEq, Repr

/-- One row of what the fetch unit holds for the slot that issues: RUNEND of the slot (R156). -/
structure Fetched where
  runEnd : Bool := false
  deriving DecidableEq, Repr

/-! ### Launches, contexts and peer ports -/

/-- A launch that its lead dispatch core accepted (R407 to R422): its record, the waits that are met, the number in the
order of departures, the dies that have it, the ranks that wait for placement, those that a request keeps out (R466), the teams that have ended in all and by die
with their run counts (R442), whether its start was late, and the cores whose grid-end release is due (R294). -/
structure Grid where
  id : GridId
  lrec : LaunchRecord
  met : List Nat := []
  departed : Option Nat := none
  dies : List Nat := []
  pending : List Nat := []
  kept : List Nat := []
  ended : Nat := 0
  stats : List (Nat × Nat × Nat) := []
  late : Bool := false
  closing : Option (List CoreId) := none
  deriving DecidableEq, Repr

/-- A saved context (R446 to R452): the team with its groups, the core it was saved from, `%now` and the rebase count, the
rows of its segment, its Hutch entries, its cancelled commands, WAKE, whether it is kept out, whether it still travels, and
the core and first row that hold it, none for the die's save area (R449). -/
structure Context where
  team : Team
  core : CoreId
  now : Stamp
  rebases : BitVec 32
  store : List Host.Cell := []
  poison : List Nat := []
  mixed : List Nat := []
  hutch : List RangeLock := []
  cmds : List EngOp := []
  wake : Bool := false
  keep : Bool := false
  moving : Bool := true
  host : Option (CoreId × Nat) := none
  deriving DecidableEq, Repr

/-- A posted peer copy (R458 to R461): its number, its frames in order with their TYPE, whether they have left with their SEQs,
the clk at which they last left, the SEQs acknowledged, the attempts to send them again, and whether SRC was poisoned after
them. -/
structure Post where
  num : BitVec 32
  frames : List (Nat × PeerFrame)
  left : Bool := false
  sentAt : Nat := 0
  acked : List (BitVec 32) := []
  tries : Nat := 0
  poisoned : Bool := false
  deriving DecidableEq, Repr

/-- A peer port (R457 to R461): whether its link is up, the next SEQ and post number, its posted copies and the postings that
wait for a place, PQDONE and PQERR, and the frames that have left. On the receiving side: its clock, the frames that wait to be
performed, the SEQs performed last, the ranges of data performed by post, the posts whose copy has ended or was refused, and
the frames discarded. -/
structure Port where
  num : Nat := 0
  up : Bool := false
  seq : BitVec 32 := 0
  postNo : BitVec 32 := 0
  posts : List Post := []
  waiting : List Nat := []
  done : DWord := 0
  err : DWord := 0
  sent : List (Nat × PeerFrame) := []
  now : Stamp := ⟨0, 0⟩
  inbox : List (Nat × PeerFrame) := []
  seen : List (BitVec 32) := []
  got : List (BitVec 32 × Nat × Nat) := []
  ended : List (BitVec 32) := []
  refused : List (BitVec 32) := []
  discarded : Nat := 0
  deriving DecidableEq, Repr

/-- A kind of window request (R456). -/
inductive WinKind where
  | read | write | add
  deriving DecidableEq, Repr

/-- An answer of the management controller over MCTP (R462, R463). -/
inductive MgmtMsg where
  | baseDiscovery
  | sensor (n : Nat) (value : BitVec 64)
  | noSensor (n : Nat)
  | firmware (verified : Bool)
  | version
  | capabilities
  | algorithms (agreed : Bool)
  | digests (digest : BitVec 384)
  | certificate (bytes : List Byte)
  | challenge (signature : BitVec 768)
  | measurement (index : Nat) (value : BitVec 384)
  | noMeasurement (index : Nat)
  deriving DecidableEq, Repr

/-- The boot ROM's firmware image (R467): the digest of the image that verified last, and whether the last one failed. -/
structure Firmware where
  digest : BitVec 384 := 0
  failed : Bool := false
  deriving DecidableEq, Repr

/-- A register write of an engine on its way to its block (R453, R631): the die of the block, the offset from the first
block, the bytes written, and the number by which its operation knows the answer. -/
structure RegStore where
  die : Nat
  offset : Nat
  bytes : List Byte
  tag : Nat
  deriving DecidableEq, Repr

/-- What moves next, as data (log entry 5): a message or due event of the agenda by its place, an issue of a core, or a
number of clk. -/
inductive Turn where
  | deliver (k : Nat)
  | issue (c : CoreId)
  | clk
  deriving DecidableEq, Repr

end Sys2Proof.Machine

namespace Sys2Proof.Machine

/-- What firmware published of the panel at boot (R45): the dies as it then knew them, `%clkgen`, and the dies mapped out since. -/
structure Published where
  dies : List Die
  gen : Nat
  out : List Nat := []
  deriving DecidableEq, Repr

/-- The machine. One core, one team and one group are in focus; the others stand in the lists (log entry 1). `agenda`, `sched`,
`beat` and `fresh` are the model's own (log entries 5 and 6). `arrived` holds messages that have reached their home or die, waited there and are
handled next, in their order (R275). `portNow` is the port clock, `windows` the window requests that wait
and `lanesLost` the lanes of the control port that are gone (R454, R455). -/
structure State where
  core : Core := {}
  team : Team := {}
  grp : Group := {}
  cores : List Core := []
  clusters : List Cluster := []
  dies : List Die := []
  fetched : Fetched := {}
  mem : List Host.Cell := []
  pub : Option Published := none
  memPoison : List Nat := []
  homes : List Home := []
  slices : List Slice := []
  bench : List BenchElem := []
  keptApply : List BenchAns := []
  semWaiters : List SemWaiter := []
  quads : List Quad := []
  timers : List (Nat × Instr) := []
  agenda : List Instr := []
  arrived : List Instr := []
  sched : List Turn := []
  beat : Bool := false
  fresh : Nat := 0
  clk : Nat := 0
  clkgen : DWord := 0
  ptp : Ptp := {}
  up : List (List Byte) := []
  kills : List (GridId × BitVec 5 × BitVec 8) := []
  grids : List Grid := []
  departs : Nat := 0
  contexts : List Context := []
  ports : List Port := []
  regStores : List RegStore := []
  portNow : Stamp := ⟨0, 0⟩
  windows : List (WinKind × WindowReq) := []
  lanesLost : List Nat := []
  firmware : Firmware := {}
  mgmt : List MgmtMsg := []
  deriving DecidableEq, Repr

/-- The machine right after reset: no grid is resident and every agent is idle (R43, log entries 2 and 3). -/
def State.reset : State := {}

end Sys2Proof.Machine
end

