-- ==== Sys2Proof/Machine/Panel.lean ====
section
/-! DEFINITION. The geometry of the panel and its defects, route entries and the routes that firmware finds, the forwarding tree, and the panel map as firmware publishes it at boot (R12 to R35, R40 to R48, R52 to R60, R365, R632, R633, R635). -/

namespace Sys2Proof.Machine

/-! ### Cores by name -/

/-- The kind of a core (R205). -/
def CoreId.kind : CoreId → CoreKind
  | .vec _ _ _ => .vector
  | .ctl _ _ => .control
  | .disp _ => .dispatch

/-- The die of a core. -/
def CoreId.die : CoreId → Nat
  | .vec d _ _ | .ctl d _ | .disp d => d

/-- The column of a core; a control core stands with its cluster, a dispatch core with column 0 (R21, R633). -/
def CoreId.col : CoreId → Nat
  | .vec _ c _ => c
  | .ctl _ n => n % 16 * 4
  | .disp _ => 0

/-! ### Physical addresses (R248, R250) -/

/-- SPACE of a physical address. -/
def paSpace (a : Nat) : Nat := a / 2 ^ 48
/-- DIE of a device-memory address. -/
def paDie (a : Nat) : Nat := a / 2 ^ 37 % 2 ^ 11
/-- OFFSET of a device-memory address. -/
def paOffset (a : Nat) : Nat := a % 2 ^ 37
/-- A device-memory address from die and offset. -/
def paOf (d off : Nat) : Nat := d * 2 ^ 37 + off

/-! ### Defects of a die (R14, R15) -/

/-- Whether a column of a die has more than two dead cores (R15). -/
def Die.badColumn (d : Die) (col : Nat) : Bool := decide (2 < (d.dead.filter (·.1 == col)).eraseDups.length)

/-- Whether a column lies in a disabled pair (R15). -/
def Die.disabled (d : Die) (col : Nat) : Bool := d.badColumn (col / 2 * 2) || d.badColumn (col / 2 * 2 + 1)

/-- Whether a physical core is dead (R14). -/
def Die.isDead (d : Die) (col prow : Nat) : Bool := d.dead.contains (col, prow)

/-- The logical row of a physical core, none for a dead, spare or absent one (R14, R15). -/
def Die.lrow (d : Die) (col prow : Nat) : Option Nat :=
  let north := ((List.range 66).filter fun r => decide (prow < r) && !d.isDead col r).length
  if d.isDead col prow || d.disabled col || decide (64 ≤ north) || decide (66 ≤ prow) then none else some (63 - north)

/-- The physical row of a logical core (R14). -/
def Die.prow (d : Die) (col lrow : Nat) : Option Nat := (List.range 66).find? fun r => d.lrow col r == some lrow

/-- The exposed cores of a die (R15, R46). -/
def Die.cores (d : Die) : Nat := 64 * ((List.range 64).filter fun c => !d.disabled c).length

/-- The absent-pair mask of a die (R46). -/
def Die.pairMask (d : Die) : Nat := ((List.range 32).map fun i => b2n (d.disabled (2 * i)) * 2 ^ i).sum

/-- The physical row at which the dispatch core's own router joins the array: the spare's once it has taken over (R401, R633). -/
def Die.dispRow (d : Die) : Nat := if d.spare then 32 else 33

/-- Whether no matrix engine of a quad works: it is dead, or its column pair is disabled (R15, R365). -/
def Die.noEngine (d : Die) (quad : Nat) : Bool := has d.deadEngines quad || d.disabled (quad % 32 * 2)

/-- The live engine nearest to a quad in its row, searching east first and then west (R365). -/
def Die.nearEngine (d : Die) (quad : Nat) : Option Nat :=
  ((List.range 32).map fun k => [quad + k, quad - k].filter fun q =>
    q / 32 == quad / 32 && (k == 0 || q != quad) && !d.noEngine q).flatten.head?

/-- The dead-engine redirect entry of a quad (R365). -/
def Die.redirectEntry (d : Die) (quad : Nat) : Nat :=
  if d.disabled (quad % 32 * 2) then 0xC000
  else if has d.deadEngines quad then ((d.nearEngine quad).map (0x8000 + ·)).getD 0xC000
  else quad

/-! ### The panel -/

/-- The dies as firmware knows them. A die that is not listed holds its reset values. -/
abbrev Panel := List Die

/-- A die's record. -/
def Panel.die (p : Panel) (d : Nat) : Die := (p.find? (·.num == d)).getD { num := d }

/-- Whether a die is absent (R13, R46). -/
def Panel.absent (p : Panel) (d : Nat) : Bool := decide (40 ≤ d) || (p.die d).absent

/-- The dies that are present. -/
def Panel.present (p : Panel) : List Nat := (List.range 40).filter fun d => !p.absent d

/-- The logical row of a core: of a control core that of its cluster's first row, and 0 where a core has none (log entry 76). -/
def Panel.lrowOf (p : Panel) (c : CoreId) : Nat :=
  match c with
  | .vec d col r => ((p.die d).lrow col r).getD 0
  | .ctl _ n => n / 16 * 4
  | .disp _ => 0

/-! ### Route entries (R22, R23) -/

/-- VALID. -/
def routeValid (e : BitVec 256) : Bool := e.getLsbD 159
/-- UNREACH. -/
def routeUnreach (e : BitVec 256) : Bool := e.getLsbD 158
/-- RELAYAT. -/
def routeRelay (e : BitVec 256) : Nat := (e.extractLsb' 152 4).toNat
/-- NLEGS. -/
def routeNlegs (e : BitVec 256) : Nat := (e.extractLsb' 148 4).toNat
/-- ROLEX. -/
def routeRoleX (e : BitVec 256) : Int := (e.extractLsb' 164 10).toInt
/-- ROLEY. -/
def routeRoleY (e : BitVec 256) : Int := (e.extractLsb' 174 10).toInt

/-- A leg (R23): its direction, 0 N, 1 E, 2 S, 3 W, whether it crosses die edges, and its hops. -/
structure Leg where
  dir : Nat
  cross : Bool
  hops : Nat
  deriving DecidableEq, Repr

/-- Leg `i` of an entry. -/
def routeLeg (e : BitVec 256) (i : Nat) : Leg :=
  let w := (e.extractLsb' (12 * i) 12).toNat
  ⟨w / 512 % 4, decide (2048 ≤ w), w % 512 + 1⟩

/-- The legs of an entry. -/
def routeLegs (e : BitVec 256) : List Leg := (List.range (routeNlegs e)).map (routeLeg e)

/-- A leg as its 12 bits (R23). -/
def Leg.code (g : Leg) : Nat := b2n g.cross * 2048 + g.dir * 512 + (g.hops - 1)

/-- A role's displacement as its 10 bits. -/
def role10 (x : Int) : Nat := (BitVec.ofInt 10 x).toNat

/-- The entry of legs with a relay point and a role (R22). -/
def packRoute (legs : List Leg) (relay : Nat) (unreach : Bool) (x y : Int) : BitVec 256 :=
  BitVec.ofNat 256 ((legs.zipIdx.map fun g => g.1.code * 2 ^ (12 * g.2)).sum + legs.length * 2 ^ 148 + relay * 2 ^ 152
    + b2n unreach * 2 ^ 158 + 2 ^ 159 + role10 x * 2 ^ 164 + role10 y * 2 ^ 174)

/-! ### Physical places (R12, R14, R633) -/

/-- A router of the panel by its east-west and south-north coordinates: 64 columns and 66 rows to a die. `stub` is set for the
router of a dispatch core, which hangs on the array router at the coordinates (R633). -/
structure PanelPos where
  x : Int
  y : Int
  stub : Bool := false
  deriving DecidableEq, Repr

/-- The router of a core. The manual names none for a control core, which the model takes to stand at the south-west corner of its
cluster (log entry 76); a dispatch core has one of its own (R633). -/
def Panel.pos (p : Panel) (c : CoreId) : PanelPos :=
  match c with
  | .vec d col r => { x := (d % 8 * 64 + col : Nat), y := (d / 8 * 66 + r : Nat) }
  | .ctl d n => { x := (d % 8 * 64 + n % 16 * 4 : Nat), y := (d / 8 * 66 + n / 16 * 4 : Nat) }
  | .disp d => { x := (d % 8 * 64 : Nat), y := (d / 8 * 66 + (p.die d).dispRow : Nat), stub := true }

/-- The core at a place. -/
def PanelPos.core (p : PanelPos) : CoreId :=
  let x := p.x.toNat
  let y := p.y.toNat
  if p.stub then .disp (y / 66 * 8 + x / 64) else .vec (y / 66 * 8 + x / 64) (x % 64) (y % 66)

/-- Whether a place lies on the panel. -/
def PanelPos.inside (p : PanelPos) : Bool :=
  decide (0 ≤ p.x) && decide (p.x < 512) && decide (0 ≤ p.y) && decide (p.y < 330)

/-- One hop of a leg (R23). A dispatch core's router has its array router to its east, which reaches it by a hop west that crosses no
die edge (R633). -/
def PanelPos.step (p : PanelPos) (dir : Nat) (cross : Bool) : PanelPos :=
  if p.stub then (if dir = 1 then { p with stub := false } else { x := -1, y := -1 })
  else match dir with
    | 0 => { p with y := p.y + 1 }
    | 1 => { p with x := p.x + 1 }
    | 2 => { p with y := p.y - 1 }
    | _ => if !cross ∧ p.x % 64 = 0 ∧ (p.y % 66 = 33 ∨ p.y % 66 = 32) then { p with stub := true } else { p with x := p.x - 1 }

/-- The places that a leg enters, in order. -/
def PanelPos.walk (p : PanelPos) (dir : Nat) (cross : Bool) : Nat → List PanelPos
  | 0 => []
  | n + 1 => p.step dir cross :: (p.step dir cross).walk dir cross n

/-- The places that legs enter, leg by leg. -/
def walkLegs : PanelPos → List Leg → List (Leg × PanelPos × List PanelPos)
  | _, [] => []
  | p, g :: gs =>
    let w := p.walk g.dir g.cross g.hops
    (g, p, w) :: walkLegs (w.getLastD p) gs

/-- The die of a place. -/
def PanelPos.die (p : PanelPos) : Nat := CoreId.die p.core

/-- Whether a router carries no traffic: it is dead, of an absent core or die, or off the panel (R15, R16, R27); of the two routers for
dispatch cores that of the core in service counts (log entry 54). -/
def Panel.deadRouter (ds : Panel) (p : PanelPos) : Bool :=
  !p.inside || (match p.core with
    | .vec d c r => ds.absent d || (ds.die d).isDead c r || (ds.die d).disabled c
        || (ds.die d).cut.any (fun f => f.col == c && f.prow == r && f.link.isNone)
    | .disp d => ds.absent d || p.y.toNat % 66 != (ds.die d).dispRow
    | .ctl _ _ => true)

/-- Whether the link that a place leaves in a direction has failed (R36). -/
def Panel.deadLink (ds : Panel) (p : PanelPos) (dir : Nat) (cross : Bool) : Bool :=
  let fails (q : PanelPos) (k : Nat) : Bool := match q.core with
    | .vec d c r => (ds.die d).cut.any fun f => f.col == c && f.prow == r && f.link == some k
    | _ => false
  let q := p.step dir cross
  !p.stub && !q.stub && (fails p dir || fails q ((dir + 2) % 4))

/-! ### The checks of R27 -/

/-- Whether a leg is vertical. -/
def Leg.vertical (g : Leg) : Bool := g.dir % 2 == 0

/-- The turn rule of the request class (R31): no turn from a vertical leg to a horizontal one. -/
def turnsOk : List Leg → Bool
  | g :: h :: r => !(g.vertical && !h.vertical) && turnsOk (h :: r)
  | _ => true

/-- No two consecutive legs reverse direction. -/
def noReverse : List Leg → Bool
  | g :: h :: r => g.dir != (h.dir + 2) % 4 && noReverse (h :: r)
  | _ => true

/-- Whether a leg's walk breaks the rules of its kind, or enters a place that carries no traffic (R23, R27). -/
def Panel.legBad (ds : Panel) (w : Leg × PanelPos × List PanelPos) : Bool :=
  let from' := w.2.1 :: w.2.2
  let crosses := w.2.2.any fun p => p.die != w.2.1.die
  crosses != w.1.cross || w.2.2.any ds.deadRouter || (from'.dropLast).any (fun p => ds.deadLink p w.1.dir w.1.cross)

/-- Whether the router of a core refuses an entry, of either VALID (R27). With NLEGS 0 a RELAYAT of 0 is accepted, since R25 calls such
a route valid, although 0 is not smaller than 0 (log entry 77). -/
def Panel.routeRefused (ds : Panel) (c : CoreId) (e : BitVec 256) : Bool :=
  let n := routeNlegs e
  let r := routeRelay e
  let legs := routeLegs e
  decide (12 < n) || (r != 0 && decide (n ≤ r)) || (e.extractLsb' 184 72 != 0) || (e.extractLsb' 160 4 != 0)
    || (e.extractLsb' 156 2 != 0) || (e.extractLsb' 144 4 != 0) || !turnsOk (legs.take (if r = 0 then n else r))
    || !turnsOk (if r = 0 then [] else legs.drop r) || !noReverse legs
    || (walkLegs (ds.pos c) legs).any ds.legBad

/-- Where an entry leads from a core; no legs lead to the core itself (R25). -/
def Panel.routeEnd (ds : Panel) (c : CoreId) (e : BitVec 256) : CoreId :=
  if routeNlegs e = 0 then c
  else (((walkLegs (ds.pos c) (routeLegs e)).getLast?.bind fun w => w.2.2.getLast?).getD (ds.pos c)).core

/-- The dies through which an entry leads from a core. -/
def Panel.routeDies (ds : Panel) (c : CoreId) (e : BitVec 256) : List Nat :=
  (((walkLegs (ds.pos c) (routeLegs e)).map fun w => w.2.2.map PanelPos.die).flatten).eraseDups

/-! ### Panel logical coordinates and neighbours (R24, R26) -/

/-- Whether panel logical coordinates leave the panel or lie in an absent die. -/
def Panel.beyond (ds : Panel) (x y : Int) : Bool :=
  decide (x < 0) || decide (512 ≤ x) || decide (y < 0) || decide (320 ≤ y) || ds.absent (y.toNat / 64 * 8 + x.toNat / 64)

/-- The core at panel logical coordinates, if it is present. -/
def Panel.logicalCore (ds : Panel) (x y : Int) : Option CoreId :=
  if ds.beyond x y then none
  else
    let d := y.toNat / 64 * 8 + x.toNat / 64
    ((ds.die d).prow (x.toNat % 64) (y.toNat % 64)).map fun r => .vec d (x.toNat % 64) r

/-- Panel logical coordinates of a core. -/
def Panel.logicalPos (ds : Panel) (c : CoreId) : Int × Int :=
  let d := CoreId.die c
  ((d % 8 * 64 + CoreId.col c : Nat), (d / 8 * 64 + ds.lrowOf c : Nat))

/-- The step of a direction in coordinates, 0 N, 1 E, 2 S, 3 W. -/
def dirStep (dir : Nat) : Int × Int :=
  match dir with
  | 0 => (0, 1) | 1 => (1, 0) | 2 => (0, -1) | _ => (-1, 0)

/-- The logical neighbour in a direction (R26): the search goes on past disabled columns, and ends at an absent die. -/
def Panel.seekNeighbour (ds : Panel) (dir : Nat) : Nat → Int → Int → Option CoreId
  | 0, _, _ => none
  | n + 1, x, y =>
    let x := x + (dirStep dir).1
    let y := y + (dirStep dir).2
    if ds.beyond x y then none
    else match ds.logicalCore x y with
      | some c => some c
      | none => ds.seekNeighbour dir n x y

/-- The neighbour of a core. -/
def Panel.neighbourCore (ds : Panel) (c : CoreId) (dir : Nat) : Option CoreId :=
  ds.seekNeighbour dir 512 (ds.logicalPos c).1 (ds.logicalPos c).2

/-! ### Finding routes (R31, R34, R35, R632, R633) -/

/-- The straight leg between two places of one row or column; none for no hop. -/
def straight (vertical : Bool) (from' to' : Int) (cross : Bool) : List Leg :=
  if from' = to' then []
  else [⟨(if vertical then (if from' < to' then 0 else 2) else if from' < to' then 1 else 3), cross, (to' - from').natAbs⟩]

/-- A hop east from a dispatch core's router before further legs; it joins a leg of its direction (R633). -/
def leaveStub (legs : List Leg) : List Leg :=
  match legs with
  | g :: r => if g.dir = 1 then { g with hops := g.hops + 1 } :: r else ⟨1, false, 1⟩ :: legs
  | [] => [⟨1, false, 1⟩]

/-- A hop west to a dispatch core's router after other legs (R633). -/
def enterStub (legs : List Leg) : List Leg :=
  match legs.getLast? with
  | some g => if g.dir = 3 ∧ !g.cross then legs.dropLast ++ [{ g with hops := g.hops + 1 }] else legs ++ [⟨3, false, 1⟩]
  | none => [⟨3, false, 1⟩]

/-- The legs from a place to another: the horizontal leg and then the vertical one (R31), with the hop from or to the router of a
dispatch core (R633). -/
def directLegs (a b : PanelPos) : List Leg :=
  if a = b then []
  else
    let corner : PanelPos := { x := b.x, y := a.y }
    let mid := straight false a.x b.x (a.die != corner.die) ++ straight true a.y b.y (corner.die != b.die)
    let mid := if a.stub then leaveStub mid else mid
    if b.stub then enterStub mid else mid

/-- The fewest hops between two places (R23, R633). -/
def hopsTo (a b : PanelPos) : Nat :=
  if a = b then 0 else (b.x - a.x).natAbs + (b.y - a.y).natAbs + b2n a.stub + b2n b.stub

/-- Whether a router can relay from a core to a place: the legs on both sides keep the rules (R34). -/
def Panel.relays (ds : Panel) (c : CoreId) (b m : PanelPos) : Bool :=
  let first := directLegs (ds.pos c) m
  let all := first ++ directLegs m b
  !first.isEmpty && decide (first.length < all.length) && !ds.routeRefused c (packRoute all first.length false 0 0)

/-- The places of the panel's routers, from the k-th on. -/
def placesFrom (k : Nat) : List PanelPos := (List.range (512 * 330)).map fun i =>
  let j := (i + k) % (512 * 330)
  { x := (j % 512 : Nat), y := (j / 512 : Nat) }

/-- The hops of the two parts of a relayed route (R23, R34). -/
def relayHops (a m b : PanelPos) : Nat := hopsTo a m + hopsTo m b

/-- The first relay core of a list by which a route has the fewest hops (R632): each step of the search allows two hops more. -/
def Panel.bestRelay (ds : Panel) (c : CoreId) (b : PanelPos) (ps : List PanelPos) : Option PanelPos :=
  let a := ds.pos c
  (List.range 842).findSome? fun j => ps.find? fun m => relayHops a m b == hopsTo a b + 2 * j && ds.relays c b m

/-- The defect map as numbers: for each die whether it is absent, its dead cores and its failed elements. -/
def Panel.defects (ds : Panel) : List (List Nat) := (List.range 40).map fun d =>
  let x := ds.die d
  b2n x.absent :: (x.dead.map fun k => k.1 * 66 + k.2) ++ (x.cut.map fun f => f.col * 66 + f.prow)

/-- A core as a number. -/
def CoreId.code : CoreId → Nat
  | .vec d c r => d * 8192 + c * 66 + r
  | .ctl d n => d * 8192 + 4224 + n
  | .disp d => d * 8192 + 4480

/-- The route from a core to another with a role: direct, through one relay core, or unreachable (R34, R35). A direct route has the
fewest hops of all, and of the relayed ones firmware takes one with the fewest; which of those is left open, and depends on the
defect map alone (R632, log entry 9). -/
def Panel.findRoute (ds : Panel) (c dst : CoreId) (x y : Int) : BitVec 256 :=
  let a := ds.pos c
  let b := ds.pos dst
  let e := packRoute (directLegs a b) 0 false x y
  if !ds.routeRefused c e then e
  else
    match ds.bestRelay c b (placesFrom (Config.relayStart ds.defects (CoreId.code c) (CoreId.code dst))) with
    | some m =>
      let first := directLegs a m
      packRoute (first ++ directLegs m b) first.length false x y
    | none => packRoute [] 0 true x y

/-- The route of a role: one that names no present core is unreachable (R412). -/
def Panel.roleRoute (ds : Panel) (c : CoreId) (x y : Int) : BitVec 256 :=
  let p := ds.logicalPos c
  match ds.logicalCore (p.1 + x) (p.2 + y) with
  | some dst => ds.findRoute c dst x y
  | none => packRoute [] 0 true x y

/-- The neighbour route in a direction (R26). Without a destination it is written with VALID and UNREACH and the role of one step, which
the manual does not say (log entry 77). -/
def Panel.neighbourRoute (ds : Panel) (c : CoreId) (dir : Nat) : BitVec 256 :=
  let p := ds.logicalPos c
  match ds.neighbourCore c dir with
  | some dst =>
    let q := ds.logicalPos dst
    ds.findRoute c dst (q.1 - p.1) (q.2 - p.2)
  | none => packRoute [] 0 true (dirStep dir).1 (dirStep dir).2

/-- Whether a core has neighbour routes: an exposed core of a present die, or a control core, which stands with its cluster. -/
def Panel.routed (ds : Panel) (c : CoreId) : Bool :=
  !ds.absent (CoreId.die c) && (match c with
    | .vec d col r => ((ds.die d).lrow col r).isSome
    | .ctl _ _ => true
    | .disp _ => false)

/-! ### The forwarding tree (R52 to R58) -/

/-- The neighbour of a die across an edge: 0 N, 1 E, 2 S, 3 W (R12, R82). -/
def neighbour (d e : Nat) : Option Nat :=
  match e with
  | 0 => if d / 8 < 4 then some (d + 8) else none
  | 1 => if d % 8 < 7 then some (d + 1) else none
  | 2 => if 0 < d / 8 then some (d - 8) else none
  | 3 => if 0 < d % 8 then some (d - 1) else none
  | _ => none

/-- The root-capable dies (R52). -/
def rootCapable (d : Nat) : Bool := d == 0 || d == 7 || d == 32 || d == 39

/-- Whether a die takes its reference from its external input. -/
def Panel.isRoot (ds : Panel) (d : Nat) : Bool := (ds.die d).fwd.parent == 4

/-- The parent of a die in the forwarding tree (R52, R82). -/
def Panel.parentOf (ds : Panel) (d : Nat) : Option Nat := neighbour d (ds.die d).fwd.parent.toNat

/-- The root above a die and its depth, by following parents (R53). -/
def Panel.rootOf (ds : Panel) : Nat → Nat → Option (Nat × Nat)
  | 0, _ => none
  | n + 1, d =>
    if ds.isRoot d then some (d, 0)
    else match ds.parentOf d with
      | none => none
      | some p => (ds.rootOf n p).map fun r => (r.1, r.2 + 1)

/-- The dies on the path from a die to its root, the die first. -/
def Panel.pathUp (ds : Panel) : Nat → Nat → List Nat
  | 0, _ => []
  | n + 1, d =>
    if ds.isRoot d then [d]
    else match ds.parentOf d with
      | none => [d]
      | some p => d :: ds.pathUp n p

/-- The skew class of a depth (R57). -/
def skewClass (depth : Nat) : Nat :=
  if depth = 0 then 0 else if depth ≤ 2 then 1 else if depth ≤ 5 then 2 else if depth ≤ 8 then 3 else 4

/-- Whether a die has no place in the tree: it is absent, held without a parent, or on no path from a root (R59, R60). -/
def Panel.noPlace (ds : Panel) (d : Nat) : Bool := ds.absent d || (ds.die d).stranded || (ds.rootOf 13 d).isNone

/-- The pairwise skew entry of two dies (R58, R59). -/
def Panel.pairEntry (ds : Panel) (a b : Nat) : Nat :=
  if ds.noPlace a || ds.noPlace b then 0xFFFF
  else
    let up := ds.pathUp 13 b
    let depth (d : Nat) : Nat := ((ds.rootOf 13 d).map (·.2)).getD 0
    match (ds.pathUp 13 a).find? (has up) with
    | none => 0xFFFF
    | some l => l * 2 ^ 24 + depth l * 2 ^ 16 + 180 * ((depth a - depth l) + (depth b - depth l))

/-! ### Figures that firmware measures (R13, R32, R42, R60)

Each is a constant of the module that the manual leaves open within its limits (log entry 75). -/

/-- The band of a core (R41); both dispatch cores stand in band 4 (R633). -/
def CoreId.band : CoreId → Nat
  | .vec _ _ r => min 7 ((65 - r) / 8)
  | .ctl _ n => min 7 ((65 - n / 16 * 4) / 8)
  | .disp _ => 4

/-- The home channel of a core's column (R40, R633): the channel of its stack. -/
def CoreId.homeChannel (c : CoreId) : Nat × Nat := (CoreId.col c / 32, CoreId.col c % 32)

/-- A banded-latency entry (R42, R48): each figure within 16 clk of nominal. -/
def bandEntry (d b : Nat) : Nat :=
  (204 + 16 * b + Config.figure 0 d b % 33) + (236 + 16 * b + Config.figure 1 d b % 33) * 2 ^ 16

/-- The stitch latency of a physical row at boot (R13): 6 to 9 clk. -/
def stitchClk (d row : Nat) : Nat := 6 + Config.figure 2 d row % 4

/-- The latency of a die-edge link (R32, R45): 12 to 20 clk, the same at both of its ends; 0 where an edge has no link. -/
def Panel.edgeClk (ds : Panel) (d e i : Nat) : Nat :=
  match neighbour d e with
  | none => 0
  | some n =>
    if ds.absent d || ds.absent n || decide ((if e % 2 = 0 then 64 else 66) ≤ i) then 0
    else 12 + Config.figure (3 + e % 2) (min d n) i % 9

/-- The largest region offset, 1.6 ns in units of 2^-16 ns (R60). -/
def offsetLimit : Nat := 104857

/-- The offsets of a die's regions, west and east (R60): each within 1.6 ns, and within 2 clk of one another. -/
def regionOffset (d : Nat) (east : Bool) : Int :=
  let w : Int := (Config.figure 5 d 0 % (2 * offsetLimit + 1) : Nat) - (offsetLimit : Int)
  if !east then w
  else
    let lo := max (-(offsetLimit : Int)) (w - offsetLimit)
    let hi := min (offsetLimit : Int) (w + offsetLimit)
    lo + ((Config.figure 6 d 0 % ((hi - lo).toNat + 1) : Nat) : Int)

/-! ### The panel map as published at boot (R45 to R48, R59, R60, R365, R635) -/

/-- The two words of a die record (R46); an absent die's are zero. -/
def Panel.dieWord (ds : Panel) (d k : Nat) : Nat :=
  let x := ds.die d
  if ds.absent d then 0
  else if k = 0 then (if x.stranded then 2 else 1) + x.rdcgib * 2 ^ 8 + x.cores * 2 ^ 16
  else x.pairMask

/-- A core record (R47). -/
def Panel.coreWord (ds : Panel) (d col prow : Nat) : Nat :=
  let x := ds.die d
  if ds.absent d then 0xFF03
  else if x.isDead col prow then 0xFF02
  else if x.disabled col then 0xFF03
  else match x.lrow col prow with
    | some r => r * 2 ^ 8
    | none => 0xFF01

/-- A physical-row entry (R48). -/
def Panel.rowWord (ds : Panel) (d col lrow : Nat) : Nat :=
  if ds.absent d then 0x7F else ((ds.die d).prow col lrow).getD 0x7F

/-- The region record of a die under a value of `%clkgen` (R60), as its first 32 bytes. -/
def Panel.regionWord (ds : Panel) (gen d : Nat) : Nat :=
  gen * 2 ^ 192 + (match ds.noPlace d, ds.rootOf 13 d with
    | false, some (_, depth) =>
      let x := (ds.die d).fwd
      (BitVec.ofInt 64 (regionOffset d false)).toNat + (BitVec.ofInt 64 (regionOffset d true)).toNat * 2 ^ 64
        + (depth + (if ds.isRoot d then 0xFF else (ds.parentOf d).getD 0xFF) * 2 ^ 8 + skewClass depth * 2 ^ 16
            + x.parent.toNat * 2 ^ 24 + x.child.toNat * 2 ^ 32) * 2 ^ 128
    | _, _ => 0xFFFFFFFF * 2 ^ 128)

/-- A byte of a table of entries of one size. -/
def tableByte (base size off : Nat) (f : Nat → Nat) : Byte := byteOf (f ((off - base) / size)) ((off - base) % size)

/-- A byte of a die block (R45, R635). -/
def Published.blockByte (q : Published) (d off : Nat) : Byte :=
  let ds : Panel := q.dies
  let gone := ds.absent d || has q.out d
  if off < 0x4200 then tableByte 0 4 off fun i => if gone then 0xFF03 else ds.coreWord d (i / 66) (i % 66)
  else if off < 0x8000 then 0
  else if off < 0xA000 then tableByte 0x8000 2 off fun i => if gone then 0x7F else ds.rowWord d (i % 64) (i / 64)
  else if off < 0x10000 then 0
  else if off < 0x10020 then tableByte 0x10000 4 off fun b => if gone then 0 else bandEntry d b
  else if off < 0x10040 then 0
  else if off < 0x10082 then tableByte 0x10040 1 off fun r => if gone then 0 else stitchClk d r
  else if off < 0x10100 then 0
  else if off < 0x10300 then tableByte 0x10100 1 off fun k => if gone then 0 else ds.edgeClk d (k / 0x80) (k % 0x80)
  else if off < 0x11000 then 0
  else if off < 0x11800 then tableByte 0x11000 2 off fun k => if gone then 0xC000 else (ds.die d).redirectEntry k
  else if off < 0x20000 then 0
  else if off < 0x20020 then tableByte 0x20000 32 off fun _ => ds.regionWord q.gen d
  else if off < 0x800000 then 0
  else tableByte 0x800000 32 off fun k =>
    let i := k / 64
    if gone || decide (4 ≤ k % 64) then 0
    else match (ds.die d).prow (i % 64) (i / 64) with
      | some r => (ds.neighbourRoute (.vec d (i % 64) r) (k % 64)).toNat
      | none => 0

/-- A byte of the map at an offset of its window. -/
def Published.byte (q : Published) (off : Nat) : Byte :=
  let ds : Panel := q.dies
  if off < 8 then 0
  else if off < 16 then tableByte 8 8 off fun _ => 1
  else if off < 0x1000 then 0
  else if off < 0x1280 then tableByte 0x1000 8 off fun k => ds.dieWord (k / 2) (k % 2)
  else if off < 0x10000 then 0
  else if off < 0x13200 then tableByte 0x10000 8 off fun k => ds.pairEntry (k / 40) (k % 40)
  else if off < 0x1000000 then 0
  else if off < 0x29000000 then q.blockByte (off / 0x1000000 - 1) (off % 0x1000000)
  else 0

/-- Routes 0 to 3 of a core as they stand from boot (R26). -/
def Published.slots (q : Published) (c : CoreId) : List RouteSlot :=
  if Panel.routed q.dies c then (List.range 4).map fun dir => { num := dir, entry := Panel.neighbourRoute q.dies c dir } else []

/-- A byte of a map that no boot has published: the reset values of the core records and of the skew bounds (R47, R59), else 0. -/
def blankMapByte (off : Nat) : Byte :=
  if off < 0x10000 then 0
  else if off < 0x13200 then tableByte 0x10000 8 off fun _ => 0xFFFF
  else if off < 0x1000000 then 0
  else if off < 0x29000000 ∧ off % 0x1000000 < 0x4200 then tableByte 0 4 (off % 0x1000000) fun _ => 0xFF02
  else 0

/-- What a byte of device memory that no entry lists reads as: in a die's image of the panel map what firmware published there at boot,
or the map's reset values, and else 0 (R45, R250, log entries 4 and 21). -/
def unlistedByte (q : Option Published) (a : Nat) : Byte :=
  if a < 127 * 2 ^ 30 then 0
  else if 40 * 2 ^ 37 ≤ a ∨ a % 2 ^ 37 < 127 * 2 ^ 30 then 0
  else match q with
    | none => blankMapByte (a % 2 ^ 37 - 127 * 2 ^ 30)
    | some q => q.byte (a % 2 ^ 37 - 127 * 2 ^ 30)

/-! ### Device memory -/

/-- What an unlisted byte of the machine's device memory reads as. -/
def State.unlisted (s : State) (a : Nat) : Byte := unlistedByte s.pub a

/-- A byte of device memory. -/
def State.byte (s : State) (a : Nat) : Byte := Memory.read s.unlisted s.mem a

/-- `n` bytes of device memory. -/
def State.bytes (s : State) (a n : Nat) : List Byte := Memory.readBytes s.unlisted s.mem a n

/-- The `n`-byte number at an address of device memory. -/
def State.readNat (s : State) (a n : Nat) : Nat := Memory.readNat s.unlisted s.mem a n

/-- Device memory after the low `n` bytes of a number are written. -/
def State.writeNat (s : State) (a n x : Nat) : State := { s with mem := Memory.writeNat s.unlisted s.mem a n x }

/-! ### The panel of a machine -/

/-- A die's record; a die that is not listed holds its reset values. -/
def State.die (s : State) (d : Nat) : Die := Panel.die s.dies d

/-- Whether a die is absent (R13, R46). -/
def State.dieAbsent (s : State) (d : Nat) : Bool := Panel.absent s.dies d

/-- The dies that are present. -/
def State.present (s : State) : List Nat := Panel.present s.dies

/-- The logical row of a core, 0 where it has none. -/
def State.lrowOf (s : State) (c : CoreId) : Nat := Panel.lrowOf s.dies c

/-- Whether a die takes its reference from its external input. -/
def State.isRoot (s : State) (d : Nat) : Bool := Panel.isRoot s.dies d

/-- The parent of a die in the forwarding tree (R52, R82). -/
def State.parentOf (s : State) (d : Nat) : Option Nat := Panel.parentOf s.dies d

/-- The root above a die and its depth, by following parents (R53). -/
def State.rootOf (s : State) (n d : Nat) : Option (Nat × Nat) := Panel.rootOf s.dies n d

end Sys2Proof.Machine
end

