-- ==== Sys2Proof/Machine/Ops.lean ====
section
/-! DEFINITION. The named operations over lanes, groups and the core store; taking a trap, entering the handler and returning from it (R91 to R113, R428 to R436). -/

namespace Sys2Proof.Machine

/-- The outcome of a step. -/
abbrev Out := Host.Outcome State Fault Refusal

/-! ### What is in focus -/

/-- The kind of the core in focus. -/
def State.kind (s : State) : CoreKind := CoreId.kind s.core.id

/-- What the encoding checks depend on (R204). -/
def State.ctx (s : State) : CheckCtx := ⟨s.kind, s.grp.win, s.grp.inHandler⟩

/-- The group in focus. -/
def State.gid (s : State) : GroupId := ⟨s.team.id, s.grp.num⟩

/-- A fresh value for what the manual leaves open (log entry 6). -/
def State.drawBits (s : State) : BitVec 64 × State := (Config.freeBits s.fresh, { s with fresh := s.fresh + 1 })

/-- A fresh choice among `n` alternatives (log entry 9). -/
def State.drawNat (s : State) (n : Nat) : Nat × State := (Config.freeNat s.fresh % n, { s with fresh := s.fresh + 1 })

/-- A fresh number for an operation or message; 0 is none. -/
def State.newId (s : State) : Nat × State := (s.fresh + 1, { s with fresh := s.fresh + 1 })

/-- Puts a message or event at the end of the agenda. -/
def State.send (s : State) (m : Instr) : State := { s with agenda := s.agenda ++ [m] }

/-- Puts an event on the agenda after a number of clk. -/
def State.later (s : State) (n : Nat) (m : Instr) : State := { s with timers := s.timers ++ [(s.clk + n, m)] }

/-- A slot of the route table of the core in focus. -/
def State.routeSlot (s : State) (n : Nat) : Option RouteSlot := s.core.routes.find? (·.num == n)

/-- Sends a packet on a route; while the route is withdrawn it waits in the injection queue (R37). -/
def State.sendRoute (s : State) (n : Nat) (m : Instr) : State :=
  if (s.routeSlot n).any (·.withdrawn) then { s with core := { s.core with inject := s.core.inject ++ [⟨n, m⟩] } }
  else s.send m

/-! ### Upstream messages (R454) -/

/-- An upstream message: TYPE, the die, the fields of the header by offset and size, and the lines that follow. -/
def upMessage (type die : Nat) (fields : List (Nat × Nat × Nat)) (data : List Byte := []) : List Byte :=
  let m := fields.foldl (fun m f => Memory.writeNat Memory.zeros m f.1 f.2.1 f.2.2) (Memory.writeNat Memory.zeros [(0, BitVec.ofNat 8 type)] 4 4 die)
  Memory.readBytes Memory.zeros m 0 64 ++ data

/-- Sends a message to the control node. -/
def State.sendUp (s : State) (m : List Byte) : State := { s with up := s.up ++ [m] }

/-! ### Lanes -/

/-- Lane `l` of a group; a missing lane has exited. -/
def Group.lane (g : Group) (l : Nat) : Lane := g.lanes.getD l {}

/-- Changes every lane of a group by its number. -/
def Group.mapLanes (g : Group) (f : Nat → Lane → Lane) : Group := { g with lanes := g.lanes.mapIdx f }

/-- Changes one lane. -/
def Group.setLane (g : Group) (l : Nat) (f : Lane → Lane) : Group :=
  g.mapLanes fun k x => if k = l then f x else x

/-- Lane `l` of the group in focus. -/
def State.lane (s : State) (l : Nat) : Lane := s.grp.lane l

/-- The group in focus changed. -/
def State.onGrp (s : State) (f : Group → Group) : State := { s with grp := f s.grp }

/-- One lane of the group in focus changed. -/
def State.onLane (s : State) (l : Nat) (f : Lane → Lane) : State := s.onGrp (·.setLane l f)

/-- The lane numbers of a group that satisfy a condition, ascending. -/
def Group.which (g : Group) (p : Lane → Bool) : List Nat :=
  (List.range g.lanes.length).filter fun l => p (g.lane l)

/-- The lanes among which the issue PC is chosen: in HANDLER the handler's lanes that do not wait (R432), otherwise the lanes
that replay, if any (R433), otherwise the lanes in RUN (R100). -/
def Group.runners (g : Group) : List Nat :=
  if g.inHandler then g.which (fun x => x.handler && x.st == .parked)
  else
    let r := g.which (fun x => x.replay && x.st == .run)
    if r.isEmpty then g.which (fun x => x.st == .run) else r

/-- The least of a list of program counters. -/
def leastPc : List (BitVec 56) → Option (BitVec 56)
  | [] => none
  | p :: l => match leastPc l with
    | none => some p
    | some q => some (if p ≤ q then p else q)

/-- The issue PC (R100). -/
def Group.issuePc (g : Group) : Option (BitVec 56) := leastPc (g.runners.map fun l => (g.lane l).pc)

/-- The issue set (R100). -/
def Group.issueSet (g : Group) : List Nat :=
  match g.issuePc with
  | none => []
  | some p => g.runners.filter fun l => (g.lane l).pc == p

/-- The active lanes (R100). -/
def Group.active (g : Group) : List Nat := g.issueSet.filter fun l => (g.lane l).nest == 0

/-- The issue PC of the group in focus. -/
def State.pc (s : State) : BitVec 56 := s.grp.issuePc.getD 0

/-- The issue set of the group in focus. -/
def State.issueSet (s : State) : List Nat := s.grp.issueSet

/-- The active lanes of the group in focus. -/
def State.active (s : State) : List Nat := s.grp.active

/-- The slot that follows a slot (R98). -/
def nextPc (p : BitVec 56) : BitVec 56 := if p.toNat % 8 < 4 then p + 1 else p + 60

/-- Moves lanes to a program counter. -/
def Group.move (g : Group) (ls : List Nat) (p : BitVec 56) : Group :=
  g.mapLanes fun k x => if has ls k then { x with pc := p } else x

/-- A lane whose instruction completed: a replay is over (R433); a handler lane keeps the log of the instruction that it
handles. -/
def Lane.completed (x : Lane) : Lane := if x.handler then x else { x with replay := false, log := none, back := none }

/-- A lane that moves on after its instruction: to the following slot, or, after the replay of an instruction that a late
reply had parked, to where it stood (R488). -/
def Lane.after (x : Lane) : Lane :=
  match x.replay, x.back with
  | true, some (p, n, st) => { x.completed with pc := p, nest := n, st := st }
  | _, _ => { x.completed with pc := nextPc x.pc }

/-- Completes the instruction for lanes and moves them to the following slot (R102). -/
def Group.step (g : Group) (ls : List Nat) : Group :=
  g.mapLanes fun k x => if has ls k then x.after else x

/-! ### The core store (R126 to R139) -/

/-- The byte address in the core store of a local address of the team in focus (R129). -/
def State.local (s : State) (a : Nat) : Nat := s.team.base * 128 + a

/-- The rows of a group's area (R130). -/
def Group.area (g : Group) (spill : Nat) : Nat := g.win + 8 + spill

/-- The local address of lane `l`'s element of vN in the group in focus (R135). -/
def State.vAddr (s : State) (n l : Nat) : Nat := (s.grp.base + n) * 128 + 4 * l

/-- The local address of sK in the group in focus (R136). -/
def State.sAddr (s : State) (k : Nat) : Nat := (s.grp.base + s.grp.win) * 128 + 4 * k

/-- The local address of bK in the group in focus (R136). -/
def State.bAddr (s : State) (k : Nat) : Nat := (s.grp.base + s.grp.win) * 128 + 256 + 16 * k

/-- The 32-bit element at a byte address of a core store, with its poison mark. -/
def Core.elem (c : Core) (a : Nat) : Word × Bool :=
  (BitVec.ofNat 32 (Memory.readNat Memory.zeros c.store a 4), has c.storePoison (a / 4))

/-- Writes a whole 32-bit element with its poison mark (R127). -/
def Core.setElem (c : Core) (a : Nat) (w : Word) (p : Bool) : Core :=
  { c with
    store := Memory.writeNat Memory.zeros c.store a 4 w.toNat
    storePoison := if p then insertN c.storePoison (a / 4) else eraseN c.storePoison (a / 4) }

/-- Writes `n` bytes; a part of an element keeps its poison mark, a whole element takes that of the data (R127), and
poisoned data always marks. The rows leave uniform form (R139). -/
def Core.setBytes (c : Core) (a n x : Nat) (p : Bool) : Core :=
  let els := (List.range ((a + n + 3) / 4 - a / 4)).map (a / 4 + ·)
  let whole (e : Nat) : Bool := decide (a ≤ 4 * e) && decide (4 * e + 4 ≤ a + n)
  { c with
    store := Memory.writeNat Memory.zeros c.store a n x
    storePoison := els.foldl (fun ps e => if p then insertN ps e else if whole e then eraseN ps e else ps) c.storePoison
    mixed := els.foldl (fun ms e => insertN ms (e / 32)) c.mixed }

/-- Whether any element that `n` bytes from `a` touch is poisoned. -/
def Core.poisoned (c : Core) (a n : Nat) : Bool :=
  c.storePoison.any fun e => decide (a < 4 * e + 4) && decide (4 * e < a + n)

/-- The core in focus changed. -/
def State.onCore (s : State) (f : Core → Core) : State := { s with core := f s.core }

/-- The element at a local address of the team in focus. -/
def State.elem (s : State) (a : Nat) : Word × Bool := s.core.elem (s.local a)

/-- Writes the element at a local address of the team in focus. -/
def State.setElem (s : State) (a : Nat) (w : Word) (p : Bool) : State := s.onCore (·.setElem (s.local a) w p)

/-- One element write of a lane: register, lane, word, poison. -/
structure LaneWrite where
  reg : Nat
  lane : Nat
  val : Word
  poison : Bool := false
  deriving DecidableEq, Repr

/-- Whether a row's writes create uniform form: 32 active lanes with identical results and poison (R138). -/
def uniformRow (ws : List LaneWrite) : Bool :=
  ws.length == 32 && ws.all (fun w => w.val == (ws.headD ⟨0, 0, 0, false⟩).val && w.poison == (ws.headD ⟨0, 0, 0, false⟩).poison)

/-- Writes per-lane registers of the group in focus and sets each row's uniform tag (R138, R139). -/
def State.writeLanes (s : State) (ws : List LaneWrite) : State :=
  let s' := ws.foldl (fun s w => s.setElem (s.vAddr w.reg w.lane) w.val w.poison) s
  let rows := (ws.map (·.reg)).eraseDups
  let row (n : Nat) : Nat := s.team.base + s.grp.base + n
  s'.onCore fun c => { c with
    mixed := rows.foldl (fun m n =>
      if uniformRow (ws.filter (·.reg == n)) then eraseN m (row n) else insertN m (row n)) c.mixed }

/-! ### The group between instructions -/

/-- The lanes whose arrival a RECONV judges: in HANDLER the handler's alone (R432, DEDUCED, log entry 31). -/
def Group.judged (g : Group) (x : Lane) : Bool := !g.inHandler || x.handler

/-- Releases the lanes at the RECONV with the lowest program counter when no lane is in RUN or PARKED (R106, R107, R114). -/
def Group.judgeReconv (g : Group) : Group :=
  if g.lanes.any (fun x => g.judged x && (x.st == .run || x.st == .parked)) then g
  else
    match leastPc ((g.lanes.filter fun x => g.judged x && x.st == .rcwait).map (·.pc)) with
    | none => g
    | some p => g.mapLanes fun _ x =>
        if g.judged x && x.st == .rcwait && x.pc == p then
          { x with st := if g.inHandler then .parked else .run, pc := nextPc p }
        else x

/-- The program counter of the REGROUP or REPACK at which every lane that has not ended stands (R114). -/
def Group.meeting (g : Group) : Option (BitVec 56) :=
  match g.lanes.filter (·.st != .exited) with
  | [] => none
  | x :: xs => if !g.inHandler && (x :: xs).all (fun y => y.st == .rdv && y.pc == x.pc) then some x.pc else none

/-- Whether a kind is fatal (R428). ORDER is fatal only at grid end and never parks a lane there. -/
def fatalKind (k : BitVec 5) : Bool := k == 8

/-- The value of `%trapcause` (R429). -/
def Trap.cause (t : Trap) : Word :=
  BitVec.ofNat 32 (t.code.toNat * 65536 + t.detail.toNat * 256 + b2n t.half * 64 + t.kind.toNat)

/-- The lanes of a killed group have exited, and nothing of it waits (R436, step 1). -/
def Group.killed (g : Group) : Group :=
  { g.mapLanes (fun _ x => { x with st := .exited, log := none, replay := false, handler := false }) with
    gst := .ended, inHandler := false, wait := none, held := none, pend := [] }

/-- The teams of a core with those of a grid killed. -/
def killTeams (gr : GridId) (ts : List Team) : List Team :=
  ts.map fun t => if t.id.grid = gr then { t with groups := t.groups.map Group.killed } else t

/-- A core with its teams of a grid killed; their group gives up the issue slot. -/
def Core.kill (gr : GridId) (c : Core) : Core :=
  { c with teams := killTeams gr c.teams, slot := c.slot.filter fun g => g.team.grid != gr }

/-- Kills the grid in focus for a kind and DETAIL (R436): every lane of every team exits. The rest of R436 follows in
the GRID_END event, which finds the kind and DETAIL in `kills`. -/
def State.killGrid (s : State) (kind : BitVec 5) (detail : BitVec 8) : State :=
  let gr := s.team.id.grid
  { s with
    grp := s.grp.killed
    team := { s.team with groups := s.team.groups.map Group.killed }
    core := s.core.kill gr
    cores := s.cores.map (Core.kill gr)
    kills := (gr, kind, detail) :: s.kills
    agenda := s.agenda ++ [.gridEnd gr] }

/-- Parks a lane of a group at its program counter: `%trapcause`, `%trappc` and `%trapaddr`, the operand log, and the
pending rows (R111, R112, R431). -/
def Group.park (g : Group) (l : Nat) (t : Trap) (vals : List (BitVec 64 × Bool)) (rows : List Nat) : Group :=
  { g.setLane l (fun x => { x with
      st := .parked, replay := false, cause := t.cause, tpc := x.pc.setWidth 64, taddr := t.addr,
      log := some ⟨x.pc, x.nest, vals, rows⟩ }) with
    pend := ⟨.lane l, rows⟩ :: g.pend }

/-- Parks a lane (R111): the trap operation. It records `%trapcause`, `%trappc` and `%trapaddr` and writes the operand
log; the destination rows become pending (R112). Within HANDLER it kills the grid instead (R432). -/
def State.trapLane (s : State) (l : Nat) (t : Trap) (vals : List (BitVec 64 × Bool)) (rows : List Nat) : State :=
  if (s.lane l).st = .exited then s
  else if s.grp.inHandler then s.killGrid t.kind t.detail
  else
    s.onGrp (·.park l t vals rows)

/-- Parks several lanes for one reason, with nothing logged but the program counter. -/
def State.trapLanes (s : State) (ls : List Nat) (t : Trap) (rows : List Nat) : State :=
  ls.foldl (fun s l => s.trapLane l t [] rows) s

/-- The fragment of the dispatch core in focus ends (R404): its reply carries the status and, after a trap, the lane's
trap registers, and the next message may start. -/
def State.endFragment (s : State) (status : Nat) (x : Lane) : State :=
  let d := CoreId.die s.core.id
  let f := s.core.frag.getD { tag := 0, seq := 0 }
  ({ s with core := { s.core with frag := none, slot := none }, grp := s.grp.killed }.sendUp
    (upMessage 1 d ([(8, 8, f.tag.toNat), (0x10, 4, f.seq.toNat), (0x14, 4, status)] ++
      (if status = 0 then [] else
        [(0x18, 4, x.cause.toNat), (0x20, 8, x.tpc.toNat), (0x28, 8, x.taddr.toNat)])))).send (.fragmentStart d)

/-- Whether the instruction that waits issues afresh when its condition holds. -/
def WaitFor.retries : WaitFor → Bool
  | .rows _ | .walks _ | .room _ _ _ _ | .engine _ _ | .starts _ | .peers _ _ _ | .order _ | .line _ | .tile _ _ | .tileAt _ _ _ | .queue _
  | .macroOps _ _ | .quarters | .epoch _ | .release _ => true
  | .start | .startAt _ | .counters _ _ _ _ | .barrier _ _ _ | .deadline _ | .sem _ _ _ _ _ _ | .sleep _ | .precv _ | .rendezvous | .drained _
  | .reply _ => false

/-- A wait to issue again ends, so that the group can be READY. -/
def Group.retry (g : Group) : Group :=
  match g.wait with
  | some w => if w.what.retries then { g with wait := none } else g
  | none => g

/-- The group enters READY at a clk, unless it stands there (R426). -/
def Group.ready (g : Group) (clk : Nat) : Group :=
  if g.gst = .ready then g else { g with gst := .ready, readyAt := clk, readyNo := g.readyNo + 1 }

/-- Handler entry (R432): every parked lane starts at TRAPVEC with a nesting counter of 0. A fatal kind, or a grid with
no TRAPVEC, kills the grid instead. On the dispatch core the trap ends the fragment (R404). -/
def State.enterHandler (s : State) : State :=
  match s.grp.which (·.st == .parked) with
  | [] => s
  | l :: ls =>
    if s.kind = .dispatch then s.endFragment 1 (s.lane l) else
    let fatal := (l :: ls).find? fun k => fatalKind ((s.lane k).cause.extractLsb' 0 5)
    match fatal with
    | some k => s.killGrid ((s.lane k).cause.extractLsb' 0 5) ((s.lane k).cause.extractLsb' 8 8)
    | none =>
      if s.team.lrec.trapvec = 0 then
        s.killGrid ((s.lane l).cause.extractLsb' 0 5) ((s.lane l).cause.extractLsb' 8 8)
      else
        s.onGrp fun g =>
          ({ g.mapLanes (fun _ x =>
              if x.st == .parked then { x with handler := true, nest := 0, pc := s.team.lrec.trapvec } else x) with
            inHandler := true, held := g.wait, wait := none } : Group).ready s.clk

/-- Leaves HANDLER when no handler lane remains (R433): lanes marked for replay enter RUN at their logged program
counter, the rows pending for lanes clear unless a lane remains parked (R113), and an instruction before which the group waited issues again. -/
def Group.leaveHandler (g : Group) : Group :=
  if g.inHandler && !(g.lanes.any (·.handler)) then
    let stays := g.lanes.any fun x => x.st == .parked && !x.replay
    { g.mapLanes (fun _ x =>
        if x.replay && x.st == .parked then
          { x with st := .run, pc := (x.log.map (·.pc)).getD x.pc, nest := (x.log.map (·.nest)).getD x.nest }
        else x) with
      inHandler := false, wait := g.held.filter (!·.what.retries), held := none,
      pend := g.pend.filter (fun p => match p.who with | .lane _ => stays | .op _ => true) }
  else g

/-- The return from the handler for lanes (R433, R523): PARKED again, marked for replay. -/
def Group.eret (g : Group) (ls : List Nat) : Group :=
  g.mapLanes fun k x => if has ls k then { x with handler := false, replay := true } else x

/-- EXIT for lanes (R524): in HANDLER the lane leaves the handler, and it ends. -/
def Group.exit (g : Group) (ls : List Nat) : Group :=
  g.mapLanes fun k x =>
    if has ls k then { x with st := .exited, handler := false, replay := false, log := none } else x

/-- An effect beyond the team's own store: the group is no longer idempotent (R443, R548). -/
def Group.effect (g : Group) : Group := { g with fx := true, inn := false }

/-- A group all of whose lanes stand at one REGROUP or REPACK waits to join (R114). -/
def State.meet (s : State) : State :=
  match s.grp.wait, s.grp.meeting with
  | none, some p =>
    (s.onGrp fun g => { g with wait := some ⟨.rendezvous, p, g.which (·.st == .rdv)⟩ }).send (.regroupJoin s.core.id s.gid)
  | _, _ => s

/-- The state of the group in focus when a run has ended or a lane has changed outside a run (R96, R97, R106, R113). -/
def State.settle (s : State) : State :=
  let g := (s.grp.judgeReconv).leaveHandler
  let s := { s with grp := g }.meet
  let g := s.grp
  if g.lanes.all (·.st == .exited) then
    if g.gst = .ended then s
    else if s.kind = .dispatch then s.endFragment 0 {}
    else (s.onGrp fun g => { g with gst := .ended, wait := none }).send (.teamEnd s.core.id s.team.id)
  else
    let quiet := g.wait.isSome || g.runners.isEmpty
    if quiet && !g.inHandler && g.lanes.any (·.st == .parked) then s.enterHandler
    else if quiet then s.onGrp fun g => { g with gst := .waiting }
    else s.onGrp (·.ready s.clk)

/-- Ends the run in focus: the group gives up the issue slot (R108). -/
def State.endRun (s : State) : State :=
  { s with
    core := { s.core with slot := none }, grp := { s.grp with runLen := 0 }
    team := { s.team with runs := s.team.runs + 1 } }.settle

/-- What follows every instruction (R108): one slot of the run is used, and the run ends after RUNEND, the 24th slot,
an instruction that can wait, or when the next issue PC is not the following slot. -/
def State.retire (s : State) (pc : BitVec 56) (canWait : Bool) : State :=
  let g := s.grp
  let ends := s.fetched.runEnd || canWait || decide (23 ≤ g.runLen) || g.issuePc != some (nextPc pc) || g.gst != .running
  let s := { s with core := { s.core with idle := 0, busy := true }, grp := { g with runLen := g.runLen + 1 } }
  if ends then s.endRun else s

/-- The run ends before the instruction, which issues afresh when what it waits for has come (R110). -/
def State.waitBefore (s : State) (w : WaitFor) : State :=
  { s with grp := { s.grp with wait := some ⟨w, s.pc, s.issueSet⟩ } }.endRun

/-- The instruction waits (R109): it completes later, and its lanes stay at it until then. -/
def State.waitFor (s : State) (w : WaitFor) : State :=
  let pc := s.pc
  { s with grp := { s.grp with wait := some ⟨w, pc, s.issueSet⟩ } }.retire pc true

/-- The lanes of a completed wait move on. For one that a late reply has parked meanwhile, the place that it will return
to moves on (R488). -/
def Group.pass (g : Group) (ls : List Nat) : Group :=
  g.mapLanes fun k x =>
    if !has ls k then x
    else match x.back with
      | some (p, n, st) => { x with back := some (nextPc p, n, st) }
      | none => x.after

/-- A waiting instruction completes (R109): its lanes move to the following slot and the group can be READY. -/
def State.wake (s : State) : State :=
  match s.grp.wait with
  | some w => { s with grp := { s.grp.pass w.lanes with wait := none, woke := true } }.settle
  | none =>
    match s.grp.held with
    | some w => { s with grp := { s.grp.pass w.lanes with held := none } }
    | none => s

/-- The wait of a group, held during a handler or not. -/
def Group.waiting? (g : Group) : Option Wait := g.wait.orElse fun _ => g.held

/-- The group looks at its lanes again, unless it holds the issue slot. -/
def State.touch (s : State) : State := if s.grp.gst = .running then s else s.settle

/-- The waiting lanes of the group in focus trap: those that were active park at the waiting instruction, the others move
on, and the group leaves WAITING (R355). -/
def State.trapWaiters (s : State) (t : Trap) : State :=
  match s.grp.waiting? with
  | none => s
  | some w =>
    let act := w.lanes.filter fun l => (s.lane l).nest == 0 && (s.lane l).st != .parked
    let rest := w.lanes.filter fun l => !has act l
    (s.onGrp fun g =>
      let g := act.foldl (fun g l => g.park l t [] []) (g.pass rest)
      if g.wait.isSome then { g with wait := none } else { g with held := none }).touch

/-- The whole issue set completes and moves to the following slot. -/
def State.next (s : State) (canWait : Bool := false) : State :=
  (s.onGrp (·.step s.issueSet)).retire s.pc canWait

/-! ### Focus (log entry 1)

One core, one team of it and one group of that team stand in focus; the others stand in lists. -/

/-- Puts the group in focus back into its team. -/
def State.stowGroup (s : State) : State :=
  if s.grp.lanes.isEmpty then s
  else { s with team := { s.team with groups := s.grp :: s.team.groups }, grp := {} }

/-- Puts the team in focus back into its core. -/
def State.stowTeam (s : State) : State :=
  let s := s.stowGroup
  if s.team.groups.isEmpty then { s with team := {} }
  else { s with core := { s.core with teams := s.team :: s.core.teams }, team := {} }

/-- The rows of a dispatch core's cache partition: it has copies (R408, R425) but holds no team whose placement would fix their rows (R133);
the smallest partition is the model's choice (log entry 26). -/
def dispatchRows : Nat := 32

/-- A core that is not listed: it holds its reset values, routes 0 to 3 as they stand from boot (R26), and its `%now` rises with the idle ticks of its die (R279). -/
def State.blankCore (s : State) (c : CoreId) : Core :=
  let routes := (s.pub.map fun q => Published.slots q c).getD []
  let part := if CoreId.kind c = .dispatch then dispatchRows else 0
  match s.dies.find? (·.num == CoreId.die c) with
  | some d => { id := c, now := d.idleNow, idle := d.idleClk, routes := routes, partRows := part }
  | none => { id := c, routes := routes, partRows := part }

/-- Brings a core into focus. -/
def State.focusCore (s : State) (c : CoreId) : State :=
  if s.core.id = c then s
  else
    let s := s.stowTeam
    let all := s.core :: s.cores
    { s with core := (all.find? (·.id == c)).getD (s.blankCore c), cores := all.filter (·.id != c) }

/-- Brings a team of the core into focus, if it is there. -/
def State.focusTeam (s : State) (t : TeamId) : State :=
  if s.core.teams.any (·.id == t) then
    let s := s.stowTeam
    match s.core.teams.find? (·.id == t) with
    | some x => { s with team := x, core := { s.core with teams := s.core.teams.filter (·.id != t) } }
    | none => s
  else s

/-- Brings a group of the core into focus, if it is there. -/
def State.focusGroup (s : State) (g : GroupId) : State :=
  let s := s.focusTeam g.team
  if s.team.id = g.team && s.team.groups.any (·.num == g.num) then
    let s := s.stowGroup
    match s.team.groups.find? (·.num == g.num) with
    | some x => { s with grp := x, team := { s.team with groups := s.team.groups.filter (·.num != g.num) } }
    | none => s
  else s

/-- Every team of the core in focus. -/
def State.coreTeams (s : State) : List Team :=
  (if s.team.groups.isEmpty && s.grp.lanes.isEmpty then [] else [{ s.team with groups :=
    (if s.grp.lanes.isEmpty then [] else [s.grp]) ++ s.team.groups }]) ++ s.core.teams

/-- Every group of the core in focus. -/
def State.coreGroups (s : State) : List GroupId :=
  (s.coreTeams.map fun t => t.groups.map fun g => GroupId.mk t.id g.num).flatten

/-- A group of the core in focus, if it is there. -/
def State.findGroup (s : State) (g : GroupId) : Option Group :=
  (s.coreTeams.find? (·.id == g.team)).bind fun t => t.groups.find? (·.num == g.num)

/-- Acts on each group of the core in turn, and returns to the group that was in focus. -/
def State.eachGroup (s : State) (f : State → State) : State :=
  (s.coreGroups.foldl (fun s g => f (s.focusGroup g)) s).focusGroup s.gid

/-- Acts on one group of the core, if it is there, and returns to the group that was in focus. -/
def State.atGroup (s : State) (g : GroupId) (f : State → State) : State :=
  if (s.findGroup g).isSome then (f (s.focusGroup g)).focusGroup s.gid else s

/-! ### Every group of the module -/

/-- Every core that is listed, with the one in focus put together. -/
def State.allCores (s : State) : List Core := { s.core with teams := s.coreTeams } :: s.cores

/-- Every team of the module with its core. -/
def State.allTeams (s : State) : List (CoreId × Team) :=
  (s.allCores.map fun c => c.teams.map fun t => (c.id, t)).flatten

/-- Every group of the module with its core and name. -/
def State.allGroups (s : State) : List (CoreId × GroupId × Group) :=
  (s.allTeams.map fun x => x.2.groups.map fun g => (x.1, GroupId.mk x.2.id g.num, g)).flatten

/-- Changes every team of the cores that satisfy a condition; the group in focus stands outside its team and changes too. -/
def State.mapTeams (s : State) (p : CoreId → Bool) (f : Team → Team) (g : TeamId → Group → Group) : State :=
  let team (t : Team) : Team := { f t with groups := (f t).groups.map (g t.id) }
  let core (c : Core) : Core := if p c.id then { c with teams := c.teams.map team } else c
  let here := p s.core.id
  { s with
    core := core s.core
    team := if here then team s.team else s.team
    grp := if here then g s.team.id s.grp else s.grp
    cores := s.cores.map core }

/-- Changes every group of the cores that satisfy a condition. -/
def State.mapGroups (s : State) (p : CoreId → Bool) (g : TeamId → Group → Group) : State := s.mapTeams p id g

/-- Changes every listed core. -/
def State.mapCores (s : State) (f : Core → Core) : State := { s with core := f s.core, cores := s.cores.map f }

/-! ### Trapping the active lanes -/

/-- The active lanes park for one reason, and the rest of the issue set moves on (R204). -/
def State.trapActive (s : State) (t : Trap) (rows : List Nat) : State :=
  let act := s.active
  let rest := s.issueSet.filter fun l => !has act l
  ((s.trapLanes act t rows).onGrp (·.step rest)).retire s.pc false

end Sys2Proof.Machine
end

