-- ==== Sys2Proof/Machine/Flags.lean ====
section
/-! DEFINITION. The flags and small status registers of a group: `%fpstat`, `%fpctl`, `%ucond`, and logical clocks and their words (R217, R224, R278, R566). -/

namespace Sys2Proof.Machine

/-- ORs flags into `%fpstat` (R224). -/
def State.raise (s : State) (f : FpFlags) : State := s.onGrp fun g => { g with fpstat := g.fpstat ||| f }

/-- `%fpstat` as a word (R224). -/
def Group.fpstatWord (g : Group) : Word := g.fpstat.setWidth 32

/-- `%fpctl` as a word (R217). -/
def Group.fpctlWord (g : Group) : Word := BitVec.ofNat 32 (g.randv.toNat * 256 + g.rm.toNat)

/-- A SETSP to `%fpctl` (R217): RM and RANDV are written only with values they may hold. -/
def Group.setFpctl (g : Group) (v : Word) : Group :=
  let rm := v.toNat % 8
  let rv := v.toNat / 256 % 256
  { g with
    rm := if 1 ≤ rm ∧ rm ≤ 5 then BitVec.ofNat 3 rm else g.rm
    randv := if rv % 4 = 0 ∧ rv + 4 ≤ g.win then BitVec.ofNat 8 rv else g.randv }

/-- `%ucond` as a word: scc in bit 0 (R567). -/
def Group.ucondWord (g : Group) : Word := BitVec.ofNat 32 (b2n g.scc)

/-- The default rounding code of the group (R217). -/
def State.rmCode (s : State) : Nat := s.grp.rm.toNat

end Sys2Proof.Machine
end

