-- ==== Sys2Proof/Machine/Operands.lean ====
section
/-! DEFINITION. Every operand form: reading a source through the crossbar, neg/abs, immediates, the operand log at a replay, writing results, pending rows, and the frame in which an instruction acts per lane or once (R141 to R144, R161 to R170, R431, R433). -/

namespace Sys2Proof.Machine

/-! ### Sources -/

/-- The lane whose element lane `l` receives under a permutation code (R142). -/
def permLane (p : BitVec 7) (l : Nat) : Nat :=
  let k := p.toNat % 32
  match p.toNat / 32 with
  | 0 => (l + k) % 32
  | 1 => k
  | 2 => l ^^^ k
  | _ => l ^^^ (2 ^ k - 1)

/-- A source value with its poison mark. -/
abbrev Src := BitVec 64 × Bool

/-- Two elements as a 64-bit value, low word first (R135). -/
def joinPair (lo hi : Word × Bool) : Src :=
  (BitVec.ofNat 64 (lo.1.toNat + hi.1.toNat * 2 ^ 32), lo.2 || hi.2)

/-- vN of lane `l`, or the pair from vN. -/
def State.readV (s : State) (n l : Nat) (wide : Bool) : Src :=
  if wide then joinPair (s.elem (s.vAddr n l)) (s.elem (s.vAddr (n + 1) l))
  else let e := s.elem (s.vAddr n l); (e.1.setWidth 64, e.2)

/-- sK or the pair from sK; on a scalar core the whole of cK, or a half of a buffer record (R162, R206). -/
def State.readS (s : State) (k : Nat) (wide : Bool) : Src :=
  match s.kind with
  | .vector =>
    if wide then joinPair (s.elem (s.sAddr k)) (s.elem (s.sAddr (k + 1)))
    else let e := s.elem (s.sAddr k); (e.1.setWidth 64, e.2)
  | _ =>
    if k < 32 then (s.core.c.getD k 0, s.core.cBad.getLsbD k)
    else
      let r := s.core.b.getD ((k - 32) / 2) 0
      (if k % 2 = 0 then r.extractLsb' 0 64 else r.extractLsb' 64 64, s.core.cBad.getLsbD k)

/-- A source as the crossbar delivers it to lane `l`, before neg/abs (R142, R144, R163). -/
def State.fetchUse (s : State) (u : Use) (l : Nat) : Src :=
  match u.o with
  | .v n => s.readV n.toNat (permLane u.perm l) u.ty.wide
  | .s k => s.readS k.toNat u.ty.wide
  | o => ((inlineBits u.ty o).getD 0, false)

/-- neg/abs on the sign bit of a type (R166). -/
def applyNabs (n : BitVec 2) (t : Ty) (x : BitVec 64) : BitVec 64 :=
  let sign := BitVec.ofNat 64 (2 ^ (t.width - 1))
  let x := if n.getLsbD 0 then x &&& ~~~sign else x
  if n.getLsbD 1 then x ^^^ sign else x

/-- The sources of lane `l`: a replaying lane takes its per-lane sources from the operand log (R433). -/
def State.sources (s : State) (us : List Use) (l : Nat) : List Src :=
  let x := s.lane l
  match x.replay, x.log with
  | true, some e =>
    us.mapIdx fun k u => if u.o.isV then e.vals.getD k (s.fetchUse u l) else s.fetchUse u l
  | _, _ => us.map fun u => s.fetchUse u l

/-- The values of sources after neg/abs (R166). -/
def modified (us : List Use) (vs : List Src) : List (BitVec 64) :=
  List.zipWith (fun u v => applyNabs u.nabs u.ty v.1) us vs

/-- The immediate of VI and U widened to a type (R170): binary32 exactly, by sign, or by zero. -/
def widenImm (t : Ty) (x : BitVec 32) : BitVec 64 :=
  match t with
  | .f64 =>
    match Ty.f32.fmt.decode x.toNat with
    | .nan _ => BitVec.ofNat 64 ((bits x.toNat 31 31) * 2 ^ 63 + 0x7FF * 2 ^ 52 + bits x.toNat 22 0 * 2 ^ 29)
    | v => (roundTo .f64 .rne true v).1
  | .i64 => x.signExtend 64
  | _ => x.setWidth 64

/-! ### Pending rows (R112, R368) -/

/-- The number of a register row in `Pend`: vN is N, sN (cN on a scalar core) is 256 + N. -/
def Opnd.row : Opnd → Option Nat
  | .v n => some n.toNat
  | .s n => some (256 + n.toNat)
  | _ => none

/-- The rows of one operand. -/
def Use.rows (u : Use) : List Nat :=
  match Opnd.row u.o with
  | some r => (List.range u.span).map (r + ·)
  | none => []

/-- The rows that an instruction's operands name beyond those of its encoding: the RAND state under SR (R220), and the
blocks that BINGET and RAST write (R366). -/
def extraRows (randv : Nat) (i : Instr) : List Nat :=
  let rnd (r : BitVec 3) : List Nat := if r = 6 then (List.range 4).map (randv + ·) else []
  match i with
  | .fadd f | .fmul f | .ffma f | .frint f | .fldexp f | .fdot2 f | .fdivfix f | .cvt f | .cvtef f
  | .mxpack f | .mxunpack f | .fsqrt f => rnd f.rnd
  | .faddVi f | .fmulVi f | .ffmaVi f => rnd f.rnd
  | .rand f => (List.range 4).map (f.a.reg + ·)
  | .binget f => (List.range 32).map (256 + f.count.toNat + ·)
  | .pairedSlot x y => x.reads ++ y.reads ++ x.writes ++ y.writes
  | _ => []

/-- The rows an instruction reads or writes. -/
def State.rowsOf (s : State) (i : Instr) : List Nat :=
  ((encOf s.ctx i).uses.map Use.rows).flatten ++ extraRows s.grp.randv.toNat i

/-- Instructions that wait while a lane of the group is parked (R112). -/
def waitsForParked (i : Instr) : Bool :=
  match i with
  | .reconv _ | .regroup _ | .repack _ | .shfl _ | .vote _ | .ballot _ | .matchl _ | .reduce _ | .scan _
  | .bararv _ => true
  | _ => false

/-- Whether rows that are pending count against an instruction. In HANDLER and at a replay those pending for parked lanes do not: the
handler shares the window (R432) and pending rows clear with the last parked lane (R113). -/
def Group.counts (g : Group) (p : Pend) : Bool :=
  match p.who with
  | .lane _ => !g.inHandler
  | .op _ => true

/-- Whether an outstanding memory operation made rows pending: the scoreboard alone holds an instruction back until its reply (R108). -/
def Group.loading (g : Group) (p : Pend) : Bool :=
  match p.who with
  | .lane _ => false
  | .op n => g.ops.any (·.id == n)

/-- Whether any of a list of rows is pending. -/
def Group.rowPending (g : Group) (rows : List Nat) : Bool := g.pend.any fun p => g.counts p && p.rows.any (has rows)

/-- Whether any of a list of rows is pending for a parked lane, a graphics unit or a LAUNCH: the run ends, and the group waits for them
(R112, R368, R406). -/
def Group.rowAwaited (g : Group) (rows : List Nat) : Bool := g.pend.any fun p => g.counts p && !g.loading p && p.rows.any (has rows)

/-- Whether an instruction waits for the parked lanes of its group (R112). -/
def State.lanesAwaited (s : State) (i : Instr) : Bool := waitsForParked i && !s.grp.inHandler && s.grp.lanes.any (·.st == .parked)

/-- Whether the scoreboard holds an instruction back (R112, R368). -/
def State.blocked (s : State) (i : Instr) : Bool :=
  (!s.active.isEmpty && s.grp.rowPending (s.rowsOf i)) || s.lanesAwaited i

/-- What happens before an instruction that the scoreboard holds back: the run ends and the group waits (R112, R368), or, where only the
replies of memory operations are due, the group keeps the core's issue, which stalls (R108). -/
def State.holdBack (s : State) (i : Instr) (rows : List Nat) : State :=
  if (!s.active.isEmpty && s.grp.rowAwaited rows) || s.lanesAwaited i then s.waitBefore (.rows rows) else s

/-- The frame of every instruction: the encoding checks first (R203, R204), then the scoreboard (R112), then the
instruction itself. -/
def State.frame (s : State) (i : Instr) (k : State → State) : State :=
  match illDetail s.ctx i with
  | some (d, h) => s.trapActive { kind := 1, detail := d, half := h } []
  | none => if s.blocked i then s.holdBack i (s.rowsOf i) else k s

/-- Instructions that can wait: a run ends after each (R108). -/
def canWait : Instr → Bool
  | .waitcnt _ | .barwait _ | .waitt _ | .semwait _ | .sleep _ | .reconv _ | .regroup _ | .repack _ | .precv _ | .mmawait _ => true
  | _ => false

/-! ### Acting per lane -/

/-- What an instruction does for one lane: its element writes and flags, or a trap. -/
inductive LaneOut where
  | done (ws : List (Nat × Word × Bool)) (fl : FpFlags)
  | trap (t : Trap)
  deriving DecidableEq, Repr

/-- The element writes of one value of a type to vN (R135, R212). -/
def putVal (n : Nat) (t : Ty) (x : BitVec 64) : List (Nat × Word × Bool) :=
  if t.wide then [(n, x.extractLsb' 0 32, false), (n + 1, x.extractLsb' 32 32, false)]
  else [(n, (t.fill x).extractLsb' 0 32, false)]

/-- Writes one value of a type per lane to vN. -/
def State.writeVals (s : State) (n : Nat) (t : Ty) (xs : List (Nat × BitVec 64)) : State :=
  s.writeLanes ((xs.map fun x => (putVal n t x.2).map fun w => LaneWrite.mk w.1 x.1 w.2.1 w.2.2).flatten)

/-- A whole 32-bit element write. -/
def put32 (n : Nat) (x : Nat) : List (Nat × Word × Bool) := [(n, BitVec.ofNat 32 x, false)]

/-- Poison consumption (R428, R439): kind POISON with a DETAIL. -/
def poisonTrap (detail : BitVec 8) : Trap := { kind := 8, detail := detail }

/-- The results of the active lanes, each from its sources: a poisoned source traps (R439), otherwise the body acts. -/
def State.laneResults (s : State) (us : List Use) (body : Nat → List (BitVec 64) → LaneOut) :
    List (Nat × List Src × LaneOut) :=
  s.active.map fun l =>
    let vs := s.sources us l
    (l, vs, if vs.any (·.2) then .trap (poisonTrap 1) else body l (modified us vs))

/-- The element writes of a result. -/
def LaneOut.writes : LaneOut → List (Nat × Word × Bool)
  | .done ws _ => ws
  | .trap _ => []

/-- The flags of a result. -/
def LaneOut.flags : LaneOut → FpFlags
  | .done _ fl => fl
  | .trap _ => 0

/-- The trap of a result. -/
def LaneOut.trapped : LaneOut → Option Trap
  | .done _ _ => none
  | .trap t => some t

/-- The writes of lane `l`. -/
def laneWrites (l : Nat) (ws : List (Nat × Word × Bool)) : List LaneWrite := ws.map fun x => LaneWrite.mk x.1 l x.2.1 x.2.2

/-- Applies the lanes' results: every lane that did not trap writes and raises its flags (R224), the others park with
their sources logged (R111), and the issue set moves on. -/
def State.commit (s : State) (rs : List (Nat × List Src × LaneOut)) (rows : List Nat) : State :=
  let ws := (rs.map fun r => laneWrites r.1 r.2.2.writes).flatten
  let fl := rs.foldl (fun f r => f ||| r.2.2.flags) (0 : FpFlags)
  let trapped := rs.filterMap fun r => r.2.2.trapped.map fun t => (r.1, r.2.1, t)
  let moved := s.issueSet.filter fun l => !(trapped.any (·.1 == l))
  let s' := (s.writeLanes ws).raise fl
  let s'' := trapped.foldl (fun s x => s.trapLane x.1 x.2.2 x.2.1 rows) s'
  (s''.onGrp (·.step moved)).retire s.pc false

/-- Instructions that write no register, though their encoding names one first. -/
def noDest : Instr → Bool
  | .scmp _ | .clkadv _ | .spinhint _ | .sleep _ | .waitt _ | .semsig _ | .semwait _ | .progress _ | .xcancel _
  | .tiledef _ | .tilerel _ => true
  | .atom f | .atoml f | .atomp f => !MF.ret f
  | _ => false

/-- The rows of the RAND state that an instruction steps: its own, or under SR those that `%randv` names (R217, R220). -/
def steppedRows (randv : Nat) (i : Instr) : List Nat :=
  match i with
  | .binget _ | .pairedSlot _ _ => []
  | i => extraRows randv i

/-- The rows an instruction writes: those of its first operand, and those of the RAND state that it steps (R220). -/
def State.dstRows (s : State) (i : Instr) : List Nat :=
  (if noDest i then [] else ((encOf s.ctx i).uses.head?.map Use.rows).getD []) ++ steppedRows s.grp.randv.toNat i

/-- An instruction that acts on each active lane alone. -/
def State.perLane (s : State) (i : Instr) (us : List Use) (body : Nat → List (BitVec 64) → LaneOut) : State :=
  s.frame i fun s => s.commit (s.laneResults us body) (s.dstRows i)

/-! ### Rounding with the group's mode and the RAND state (R165, R217 to R220) -/

/-- The RAND state words as sources, for rounding code 0b110 (R220). -/
def State.randUses (s : State) (rnd : BitVec 3) : List Use :=
  if rnd = 6 then (List.range 4).map fun k => { o := .v (BitVec.ofNat 8 (s.grp.randv.toNat + k)), kinds := kV, ty := .b32 }
  else []

/-- The rounding mode from the code, `%fpctl` and the four RAND words at the end of the sources, with the writes that
store the stepped state back (R219, R220). -/
def State.rounding (s : State) (rnd : BitVec 3) (vs : List (BitVec 64)) : Rm × List (Nat × Word × Bool) :=
  if rnd = 6 then
    let w := (vs.drop (vs.length - 4)).map (BitVec.setWidth 32)
    let st := randStep (w.getD 0 0) (w.getD 1 0) (w.getD 2 0) (w.getD 3 0)
    (.sr (st.1.toNat / 65536), st.2.mapIdx fun k x => (s.grp.randv.toNat + k, x, false))
  else (Rm.ofCode rnd.toNat s.rmCode 0, [])

/-- An instruction that acts on each active lane alone and rounds one result. -/
def State.perLaneRounded (s : State) (i : Instr) (rnd : BitVec 3) (us : List Use)
    (body : Rm → List (BitVec 64) → List (Nat × Word × Bool) × FpFlags) : State :=
  s.perLane i (us ++ s.randUses rnd) fun _ vs =>
    let r := s.rounding rnd vs
    let out := body r.1 vs
    .done (out.1 ++ r.2) out.2

/-! ### Acting once -/

/-- Writes a uniform register or pair, or a c register, of the stream in focus (R136, R162). On a scalar core a value of
a 32-bit type is extended by the caller. -/
def State.writeS (s : State) (k : Nat) (wide : Bool) (x : BitVec 64) (poison : Bool := false) : State :=
  match s.kind with
  | .vector =>
    let s := s.setElem (s.sAddr k) (x.extractLsb' 0 32) poison
    if wide then s.setElem (s.sAddr (k + 1)) (x.extractLsb' 32 32) poison else s
  | _ =>
    let bit : BitVec 64 := 1#64 <<< k
    let s := s.onCore fun c => { c with cBad := if poison then c.cBad ||| bit else c.cBad &&& ~~~bit }
    if k < 32 then s.onCore fun c => { c with c := c.c.set k x }
    else
      let n := (k - 32) / 2
      let r := s.core.b.getD n 0
      let r := if k % 2 = 0 then r.extractLsb' 64 64 ++ x else x ++ r.extractLsb' 0 64
      s.onCore fun c => { c with b := c.b.set n r }

/-- An instruction that acts once for a non-empty active set (R579): a poisoned operand traps every active lane, and
with no active lane only the program counters move. -/
def State.once (s : State) (i : Instr) (us : List Use) (body : State → List (BitVec 64) → State) : State :=
  s.frame i fun s =>
    if s.active.isEmpty then s.next (canWait i)
    else
      let vs := us.map fun u => s.fetchUse u 0
      if vs.any (·.2) then s.trapActive (poisonTrap 1) (s.dstRows i)
      else body s (vs.map (·.1))

end Sys2Proof.Machine
end

