-- ==== Sys2Proof/Machine/IntArith.lean ====
section
/-! DEFINITION. Integer arithmetic: IADD to LEA and their immediate twins (R544 to R546, R196). -/

namespace Sys2Proof.Machine

/-! ### The operations on values (R545) -/

/-- a + b modulo 2^W. -/
def intAdd (t : Ty) (a b : BitVec 64) : BitVec 64 := wrap t.width (t.int a + t.int b)
/-- a − b modulo 2^W. -/
def intSub (t : Ty) (a b : BitVec 64) : BitVec 64 := wrap t.width (t.int a - t.int b)
/-- Bits [W−1:0] of a·b. -/
def intMul (t : Ty) (a b : BitVec 64) : BitVec 64 := wrap t.width (t.int a * t.int b)
/-- Bits [2W−1:W] of the exact product. -/
def intMulh (t : Ty) (a b : BitVec 64) : BitVec 64 := wrap t.width ((t.int a * t.int b) / (2 : Int) ^ t.width)
/-- The smaller. -/
def intMin (t : Ty) (a b : BitVec 64) : BitVec 64 := if t.int a ≤ t.int b then low t.width a else low t.width b
/-- The larger. -/
def intMax (t : Ty) (a b : BitVec 64) : BitVec 64 := if t.int b ≤ t.int a then low t.width a else low t.width b
/-- −a modulo 2^W. -/
def intNeg (t : Ty) (a : BitVec 64) : BitVec 64 := wrap t.width (-(t.int a))
/-- |a| modulo 2^W. -/
def intAbs (t : Ty) (a : BitVec 64) : BitVec 64 := wrap t.width ((t.int a).natAbs : Int)
/-- a·b + c modulo 2^W. -/
def intMad (t : Ty) (a b c : BitVec 64) : BitVec 64 := wrap t.width (t.int a * t.int b + t.int c)

/-- The relations of R197 on exact values. -/
def intRel (sub : Nat) (a b : Int) : Bool :=
  match sub with
  | 0 => a == b
  | 1 => a != b
  | 2 => decide (a < b)
  | 3 => decide (a ≤ b)
  | 4 => decide (b < a)
  | _ => decide (b ≤ a)

/-- Byte `k` of a 32-bit source, signed or unsigned. -/
def dotByte (signed : Bool) (x : BitVec 64) (k : Nat) : Int :=
  let b := x.extractLsb' (8 * k) 8
  if signed then b.toInt else (b.toNat : Int)

/-- IDOT4 (R546): the sum of four byte products and the addend modulo 2^32. -/
def intDot4 (sub : Nat) (a b c : BitVec 64) : BitVec 64 :=
  let sa := sub < 2
  let sb := sub % 2 = 0
  wrap 32 ((List.range 4).foldl (fun n k => n + dotByte sa a k * dotByte sb b k) (sval 32 c))

/-- LEA (R546): a + (b · 2^n) modulo 2^W with b read as .I32. -/
def intLea (t : Ty) (n : Nat) (a b : BitVec 64) : BitVec 64 :=
  wrap t.width ((uval t.width a : Int) + sval 32 b * (2 : Int) ^ n)

/-- Value `k` of a list of source values. -/
def nth (vs : List (BitVec 64)) (k : Nat) : BitVec 64 := vs.getD k 0

/-! ### Frames -/

/-- The integer type of a V3 instruction. -/
def V3.ity (f : V3) : Ty := (intTy f.ty.toNat).getD .b32
/-- The integer type of a VI instruction. -/
def VI.ity (f : VI) : Ty := (intTy f.ty.toNat).getD .b32

/-- One source, one result of the type. -/
def State.intUn (s : State) (i : Instr) (f : V3) (op : Ty → BitVec 64 → BitVec 64) : State :=
  let t := V3.ity f
  s.perLane i [f.useA t] fun _ vs => .done (putVal f.dst.reg t (op t (nth vs 0))) 0

/-- Two sources, one result of the type. -/
def State.intBin (s : State) (i : Instr) (f : V3) (op : Ty → BitVec 64 → BitVec 64 → BitVec 64) : State :=
  let t := V3.ity f
  s.perLane i [f.useA t, f.useB t] fun _ vs => .done (putVal f.dst.reg t (op t (nth vs 0) (nth vs 1))) 0

/-- One source and the immediate, one result of the type (R196). -/
def State.intBinVi (s : State) (i : Instr) (f : VI) (op : Ty → BitVec 64 → BitVec 64 → BitVec 64) : State :=
  let t := VI.ity f
  s.perLane i [f.useA t] fun _ vs => .done (putVal f.dst.reg t (op t (nth vs 0) (widenImm t f.imm))) 0

/-! ### The instructions -/

/-- IADD (R545). -/
def execIadd (f : V3) (s : State) : Out := .next (s.intBin (.iadd f) f intAdd)
/-- ISUB (R545). -/
def execIsub (f : V3) (s : State) : Out := .next (s.intBin (.isub f) f intSub)
/-- INEG (R545). -/
def execIneg (f : V3) (s : State) : Out := .next (s.intUn (.ineg f) f intNeg)
/-- IABS (R545). -/
def execIabs (f : V3) (s : State) : Out := .next (s.intUn (.iabs f) f intAbs)
/-- IMUL (R545). -/
def execImul (f : V3) (s : State) : Out := .next (s.intBin (.imul f) f intMul)
/-- IMULH (R545). -/
def execImulh (f : V3) (s : State) : Out := .next (s.intBin (.imulh f) f intMulh)
/-- IMIN (R545). -/
def execImin (f : V3) (s : State) : Out := .next (s.intBin (.imin f) f intMin)
/-- IMAX (R545). -/
def execImax (f : V3) (s : State) : Out := .next (s.intBin (.imax f) f intMax)

/-- IMAD (R545). -/
def execImad (f : V3) (s : State) : Out :=
  let t := V3.ity f
  .next (s.perLane (.imad f) [f.useA t, f.useB t, f.useC t] fun _ vs =>
    .done (putVal f.dst.reg t (intMad t (nth vs 0) (nth vs 1) (nth vs 2))) 0)

/-- IADDC (R546): the sum with the carry bit of srcC, and the carry out in the register after the result. -/
def execIaddc (f : V3) (s : State) : Out :=
  let t := V3.ity f
  .next (s.perLane (.iaddc f) [f.useA t, f.useB t, f.useC .n32] fun _ vs =>
    let sum := uval t.width (nth vs 0) + uval t.width (nth vs 1) + b2n ((nth vs 2).getLsbD 0)
    .done (putVal f.dst.reg t (BitVec.ofNat 64 (sum % 2 ^ t.width))
      ++ put32 (f.dst.reg + t.regs) (b2n (decide (2 ^ t.width ≤ sum)))) 0)

/-- IMADW (R546): the 64-bit a·b + c of 32-bit factors. -/
def execImadw (f : V3) (s : State) : Out :=
  let t := V3.ity f
  let w : Ty := if t.signed then .i64 else .n64
  .next (s.perLane (.imadw f) [f.useA t, f.useB t, f.useC w] fun _ vs =>
    .done (putVal f.dst.reg w (wrap 64 (t.int (nth vs 0) * t.int (nth vs 1) + w.int (nth vs 2)))) 0)

/-- ICMP (R545): 1 or 0 in one 32-bit register. -/
def execIcmp (f : V3) (s : State) : Out :=
  let t := V3.ity f
  .next (s.perLane (.icmp f) [f.useA t, f.useB t] fun _ vs =>
    .done (put32 f.dst.reg (b2n (intRel f.sub.toNat (t.int (nth vs 0)) (t.int (nth vs 1))))) 0)

/-- IDOT4 (R546). -/
def execIdot4 (f : V3) (s : State) : Out :=
  .next (s.perLane (.idot4 f) [f.useA .i32, f.useB .i32, f.useC .i32] fun _ vs =>
    .done (putVal f.dst.reg .i32 (intDot4 f.sub.toNat (nth vs 0) (nth vs 1) (nth vs 2))) 0)

/-- SEL (R594): srcA when the condition of srcC is not zero, srcB otherwise. -/
def execSel (f : V3) (s : State) : Out :=
  let t := V3.ity f
  .next (s.perLane (.sel f) [f.useA t, f.useB t, f.useC .b32] fun _ vs =>
    .done (putVal f.dst.reg t (if uval 32 (nth vs 2) ≠ 0 then nth vs 0 else nth vs 1)) 0)

/-- LEA (R546). -/
def execLea (f : V3) (s : State) : Out :=
  let t := V3.ity f
  .next (s.perLane (.lea f) [f.useA t, f.useB .i32] fun _ vs =>
    .done (putVal f.dst.reg t (intLea t f.sub.toNat (nth vs 0) (nth vs 1))) 0)

/-- IADD with an immediate (R196). -/
def execIaddVi (f : VI) (s : State) : Out := .next (s.intBinVi (.iaddVi f) f intAdd)
/-- ISUB with an immediate (R196). -/
def execIsubVi (f : VI) (s : State) : Out := .next (s.intBinVi (.isubVi f) f intSub)
/-- IMUL with an immediate (R196). -/
def execImulVi (f : VI) (s : State) : Out := .next (s.intBinVi (.imulVi f) f intMul)
/-- IMIN with an immediate (R196). -/
def execIminVi (f : VI) (s : State) : Out := .next (s.intBinVi (.iminVi f) f intMin)
/-- IMAX with an immediate (R196). -/
def execImaxVi (f : VI) (s : State) : Out := .next (s.intBinVi (.imaxVi f) f intMax)

/-- IMAD with an immediate as srcC (R196). -/
def execImadVi (f : VI) (s : State) : Out :=
  let t := VI.ity f
  .next (s.perLane (.imadVi f) [f.useA t, f.useB t] fun _ vs =>
    .done (putVal f.dst.reg t (intMad t (nth vs 0) (nth vs 1) (widenImm t f.imm))) 0)

/-- ICMP with an immediate (R196). -/
def execIcmpVi (f : VI) (s : State) : Out :=
  let t := VI.ity f
  .next (s.perLane (.icmpVi f) [f.useA t] fun _ vs =>
    .done (put32 f.dst.reg (b2n (intRel f.sub.toNat (t.int (nth vs 0)) (t.int (widenImm t f.imm))))) 0)

end Sys2Proof.Machine
end

