-- ==== Sys2Proof/Machine/BitOps.lean ====
section
/-! DEFINITION. Bit operations and moves: AND to POPC, MOV and MOVI (R479, R480, R498 to R501, R515, R564, R572, R573, R591). -/

namespace Sys2Proof.Machine

/-- a and b. -/
def bitAnd (t : Ty) (a b : BitVec 64) : BitVec 64 := low t.width (a &&& b)
/-- a and not b. -/
def bitAndn (t : Ty) (a b : BitVec 64) : BitVec 64 := low t.width (a &&& ~~~b)
/-- a or b. -/
def bitOr (t : Ty) (a b : BitVec 64) : BitVec 64 := low t.width (a ||| b)
/-- a or not b. -/
def bitOrn (t : Ty) (a b : BitVec 64) : BitVec 64 := low t.width (a ||| ~~~b)
/-- a xor b. -/
def bitXor (t : Ty) (a b : BitVec 64) : BitVec 64 := low t.width (a ^^^ b)
/-- not a. -/
def bitNot (t : Ty) (a : BitVec 64) : BitVec 64 := bnot t.width a
/-- The shift amount b mod W of one 32-bit element (R591). -/
def shiftBy (t : Ty) (b : BitVec 64) : Nat := uval 32 b % t.width
/-- a shifted left (R591). -/
def bitShl (t : Ty) (a b : BitVec 64) : BitVec 64 := low t.width (BitVec.ofNat 64 (uval t.width a * 2 ^ shiftBy t b))
/-- a shifted right with zeros (R591). -/
def bitShr (t : Ty) (a b : BitVec 64) : BitVec 64 := BitVec.ofNat 64 (uval t.width a / 2 ^ shiftBy t b)
/-- a shifted right with copies of its top bit (R591). -/
def bitShra (t : Ty) (a b : BitVec 64) : BitVec 64 := wrap t.width (sval t.width a / (2 : Int) ^ shiftBy t b)
/-- a rotated left (R591). -/
def bitRotl (t : Ty) (a b : BitVec 64) : BitVec 64 := rotateLeft t.width (shiftBy t b) a

/-- BFE (R499): the field of width w at offset o of the source extended without end. -/
def bitBfe (t : Ty) (a spec : BitVec 64) : BitVec 64 :=
  let o := uval 8 spec
  let w := min (bits spec.toNat 15 8) t.width
  if w = 0 then 0
  else
    let x : Int := t.int a
    let f := (x / (2 : Int) ^ o).emod ((2 : Int) ^ w)
    let f := if t.signed && decide ((2 : Int) ^ w ≤ 2 * f) then f - (2 : Int) ^ w else f
    wrap t.width f

/-- BFI (R500). -/
def bitBfi (t : Ty) (a b spec : BitVec 64) : BitVec 64 :=
  let o := uval 8 spec
  let w := min (bits spec.toNat 15 8) t.width
  let m := BitVec.ofNat 64 ((2 ^ w - 1) * 2 ^ o % 2 ^ t.width)
  low t.width ((b &&& ~~~m) ||| (BitVec.ofNat 64 (uval t.width a * 2 ^ o % 2 ^ t.width) &&& m))

/-- A shift: srcB is one 32-bit element. -/
def State.shiftOp (s : State) (i : Instr) (f : V3) (op : Ty → BitVec 64 → BitVec 64 → BitVec 64) : State :=
  let t := V3.ity f
  s.perLane i [f.useA t, f.useB .b32] fun _ vs => .done (putVal f.dst.reg t (op t (nth vs 0) (nth vs 1))) 0

/-- A count of bits: a 32-bit result (R515, R573). -/
def State.countOp (s : State) (i : Instr) (f : V3) (op : Nat → BitVec 64 → Nat) : State :=
  let t := V3.ity f
  s.perLane i [f.useA t] fun _ vs => .done (put32 f.dst.reg (op t.width (nth vs 0))) 0

/-- FFS's result: the lowest set bit, or all ones for zero (R515). -/
def ffsOf (w : Nat) (x : BitVec 64) : Nat := (lowestSet w x).getD 0xFFFFFFFF

/-- AND (R480). -/
def execAnd (f : V3) (s : State) : Out := .next (s.intBin (.and f) f bitAnd)
/-- ANDN (R480). -/
def execAndn (f : V3) (s : State) : Out := .next (s.intBin (.andn f) f bitAndn)
/-- OR (R572). -/
def execOr (f : V3) (s : State) : Out := .next (s.intBin (.or f) f bitOr)
/-- ORN (R572). -/
def execOrn (f : V3) (s : State) : Out := .next (s.intBin (.orn f) f bitOrn)
/-- XOR (R591). -/
def execXor (f : V3) (s : State) : Out := .next (s.intBin (.xor f) f bitXor)
/-- NOT (R572). -/
def execNot (f : V3) (s : State) : Out := .next (s.intUn (.not f) f bitNot)
/-- SHL (R591). -/
def execShl (f : V3) (s : State) : Out := .next (s.shiftOp (.shl f) f bitShl)
/-- SHR (R591). -/
def execShr (f : V3) (s : State) : Out := .next (s.shiftOp (.shr f) f bitShr)
/-- SHRA (R591). -/
def execShra (f : V3) (s : State) : Out := .next (s.shiftOp (.shra f) f bitShra)
/-- ROTL (R591). -/
def execRotl (f : V3) (s : State) : Out := .next (s.shiftOp (.rotl f) f bitRotl)
/-- BFE (R499). -/
def execBfe (f : V3) (s : State) : Out := .next (s.shiftOp (.bfe f) f bitBfe)

/-- BFI (R500). -/
def execBfi (f : V3) (s : State) : Out :=
  let t := V3.ity f
  .next (s.perLane (.bfi f) [f.useA t, f.useB t, f.useC .b32] fun _ vs =>
    .done (putVal f.dst.reg t (bitBfi t (nth vs 0) (nth vs 1) (nth vs 2))) 0)

/-- BREV (R501). -/
def execBrev (f : V3) (s : State) : Out := .next (s.intUn (.brev f) f fun t a => reverseBits t.width a)
/-- CLZ (R515). -/
def execClz (f : V3) (s : State) : Out := .next (s.countOp (.clz f) f leadingZeros)
/-- FFS (R515). -/
def execFfs (f : V3) (s : State) : Out := .next (s.countOp (.ffs f) f ffsOf)
/-- POPC (R573). -/
def execPopc (f : V3) (s : State) : Out := .next (s.countOp (.popc f) f popcount)

/-- AND with an immediate (R479, R196). -/
def execAndVi (f : VI) (s : State) : Out := .next (s.intBinVi (.andVi f) f bitAnd)
/-- OR with an immediate (R572, R196). -/
def execOrVi (f : VI) (s : State) : Out := .next (s.intBinVi (.orVi f) f bitOr)
/-- XOR with an immediate (R591, R196). -/
def execXorVi (f : VI) (s : State) : Out := .next (s.intBinVi (.xorVi f) f bitXor)

/-- MOV (R564). -/
def execMov (f : V3) (s : State) : Out := .next (s.intUn (.mov f) f fun _ a => a)

/-- MOVI (R564). -/
def execMovi (f : VI) (s : State) : Out :=
  let t := VI.ity f
  .next (s.perLane (.movi f) [] fun _ _ => .done (putVal f.dst.reg t (widenImm t f.imm)) 0)

end Sys2Proof.Machine
end

