-- ==== Sys2Proof/Machine/Float.lean ====
section
/-! DEFINITION. Floating-point arithmetic, comparison, conversion, MX packing and transcendentals (R207 to R234, R517 to R543, R568 to R570). -/

namespace Sys2Proof.Machine

/-! ### The operations on values -/

/-- A result with the flags of the operation and of its rounding. -/
def rounded (t : Ty) (mode : Rm) (r : Val × FpFlags) : BitVec 64 × FpFlags :=
  let x := roundTo t mode false r.1
  (x.1, r.2 ||| x.2)

/-- FADD (R529). -/
def fpAdd (t : Ty) (mode : Rm) (a b : BitVec 64) : BitVec 64 × FpFlags :=
  rounded t mode (addVal mode (t.val a) (t.val b))

/-- FMUL (R529). -/
def fpMul (t : Ty) (mode : Rm) (a b : BitVec 64) : BitVec 64 × FpFlags :=
  rounded t mode (mulVal (t.val a) (t.val b))

/-- FFMA (R529). -/
def fpFma (t : Ty) (mode : Rm) (a b c : BitVec 64) : BitVec 64 × FpFlags :=
  rounded t mode (fmaVal mode (t.val a) (t.val b) (t.val c))

/-- NV for a signalling NaN among values. -/
def snanFlag (vs : List Val) : FpFlags := flagIf (vs.any Val.isSnan) fNV

/-- The canonical NaN of a type as a register value. -/
def Ty.nan (t : Ty) : BitVec 64 := BitVec.ofNat 64 t.fmt.nanBits

/-- FMIN or FMAX (R530): minimumNumber or maximumNumber, a source copied bit for bit, −0 below +0. -/
def fpMinMax (greater : Bool) (t : Ty) (a b : BitVec 64) : BitVec 64 × FpFlags :=
  let x := t.val a
  let y := t.val b
  let fl := snanFlag [x, y]
  let below := ltVal x y || (x.isZero && y.isZero && x.neg && !y.neg)
  let r :=
    if x.isNan && y.isNan then t.nan
    else if x.isNan then low t.width b
    else if y.isNan then low t.width a
    else if below != greater then low t.width a
    else if ltVal y x || (x.isZero && y.isZero && y.neg && !x.neg) then low t.width (if greater then a else b)
    else low t.width (if greater then b else a)
  (r, fl)

/-- FCMP (R532): the predicate and NV. -/
def fpCmp (sub : Nat) (t : Ty) (a b : BitVec 64) : Bool × FpFlags :=
  let x := t.val a
  let y := t.val b
  let nan := x.isNan || y.isNan
  let ordered := flagIf nan fNV
  let quiet := snanFlag [x, y]
  match sub with
  | 0 => (eqVal x y, quiet)
  | 1 => (!eqVal x y, quiet)
  | 2 => (ltVal x y, ordered)
  | 3 => (ltVal x y || eqVal x y, ordered)
  | 4 => (ltVal y x, ordered)
  | 5 => (ltVal y x || eqVal x y, ordered)
  | 6 => (!nan, quiet)
  | _ => (nan, quiet)

/-- The bit of FCLASS for a source (R531). -/
def fpClass (t : Ty) (a : BitVec 64) : Nat :=
  match t.val a with
  | .nan s => if s then 8 else 9
  | .inf s => if s then 0 else 7
  | .num s m _ _ =>
    if m = 0 then (if s then 3 else 4)
    else if m < 2 ^ t.fmt.fw then (if s then 2 else 5)
    else if s then 1 else 6

/-- FRINT (R543): an integral value of the same sign, without IX. -/
def fpRint (t : Ty) (mode : Rm) (a : BitVec 64) : BitVec 64 × FpFlags :=
  match t.val a with
  | .nan s => (t.nan, flagIf s fNV)
  | .inf _ => (low t.width a, 0)
  | .num s m e st =>
    let n := (roundInt mode s m e st).1
    ((roundTo t .rne false (.num s n.natAbs 0 false)).1, 0)

/-- FLDEXP (R542). -/
def fpLdexp (t : Ty) (mode : Rm) (a n : BitVec 64) : BitVec 64 × FpFlags :=
  rounded t mode (scaleVal (t.val a) (sval 32 n), 0)

/-- FDIVFIX (R535): the quotient of the first two sources, correctly rounded, whatever the third holds. -/
def fpDivfix (t : Ty) (mode : Rm) (a b : BitVec 64) : BitVec 64 × FpFlags :=
  rounded t mode (divVal (t.val a) (t.val b))

/-- FDOT2 (R536): a0·b0 + a1·b1 + c, exact and rounded once; neg/abs acts on both elements. -/
def fpDot2 (t : Ty) (mode : Rm) (na nb : BitVec 2) (a b c : BitVec 64) : BitVec 64 × FpFlags :=
  let el (n : BitVec 2) (x : BitVec 64) (k : Nat) : Val := t.val (applyNabs n t ((x.extractLsb' (16 * k) 16).setWidth 64))
  let p0 := mulVal (el na a 0) (el nb b 0)
  let p1 := mulVal (el na a 1) (el nb b 1)
  let s := addVal mode p0.1 p1.1
  let v := addVal mode s.1 (Ty.f32.val c)
  let r := rounded .f32 mode v
  (r.1, p0.2 ||| p1.2 ||| s.2 ||| r.2)

/-- CVT (R518): from a source type to a destination type. -/
def convert (src dst : Ty) (mode : Rm) (nosat : Bool) (a : BitVec 64) : BitVec 64 × FpFlags :=
  if dst.floating then roundTo dst mode nosat (src.val a)
  else if src.floating then toIntTy dst mode (src.val a)
  else clampInt dst (src.int a)

/-- CVTEF (R227, R520): the narrowed value, the residual, and the flags. -/
def convertEf (src dst : Ty) (mode : Rm) (nosat : Bool) (a : BitVec 64) : BitVec 64 × BitVec 64 × FpFlags :=
  let x := src.val a
  let y := roundTo dst mode nosat x
  let yf := y.2 &&& ~~~fIX
  match x with
  | .nan _ => (y.1, Ty.f32.nan, yf)
  | .inf s => (y.1, (roundTo .f32 .rne false (.inf s)).1, yf)
  | .num _ _ _ _ =>
    let rest := match dst.val y.1 with
      | .num s m e st => (addVal .rne x (.num (!s) m e st)).1
      | _ => x
    let e := roundTo .f32 .rne false rest
    (y.1, e.1, yf ||| e.2)

/-! ### MX blocks (R213, R214) -/

/-- The exponent of an MX element format's largest binade (R214). -/
def Ty.emax : Ty → Int
  | .mxe4m3 => 8
  | .mxe5m2 => 15
  | .mxe2m1 => 2
  | _ => 0

/-- floor(log2 |v|) of a non-zero finite value. -/
def Val.log2 : Val → Option Int
  | .num _ m e _ => if m = 0 then none else some (e + (Nat.log2 m : Int))
  | _ => none

/-- The larger of two exponents, `none` for zero. -/
def maxExp : Option Int → Option Int → Option Int
  | none, y => y
  | x, none => x
  | some x, some y => some (max x y)

/-- The scale of a block of values (R214): the code X, 0xFF when a value is NaN or infinite. -/
def mxScale (t : Ty) (vs : List Val) : Nat :=
  if vs.any (fun v => v.isNan || v.isInf) then 255
  else
    match vs.foldl (fun m v => maxExp m v.log2) none with
    | none => 0
    | some e => (max (-127) (min 127 (e - t.emax)) + 127).toNat

/-- One element of a block under a scale code (R214): the element's bits and flags. -/
def mxElem (t : Ty) (mode : Rm) (nosat : Bool) (x : Nat) (v : Val) : BitVec 64 × FpFlags :=
  if x = 255 then (0, fNV) else roundTo t mode nosat (scaleVal v (127 - (x : Int)))

/-- The value X·Pi of an element under a scale code (R213). -/
def mxVal (t : Ty) (x : Nat) (p : BitVec 64) : Val :=
  if x = 255 then .nan false else scaleVal (t.val p) ((x : Int) - 127)

/-- MXUNPACK (R570): bits [7:0], or [3:0] for .MXE2M1, under the scale in bits [15:8]. -/
def mxUnpack (t dst : Ty) (mode : Rm) (a : BitVec 64) : BitVec 64 × FpFlags :=
  rounded dst mode (mxVal t (bits a.toNat 15 8) (low t.elemBits a), 0)

/-! ### Transcendentals (R228 to R230, log entry 7) -/

/-- Whether a mantissa is a power of two. -/
def pow2 (m : Nat) : Bool := m != 0 && 2 ^ Nat.log2 m == m

/-- Whether only the neighbour toward zero lies within 1 ulp of an exact value (R228). -/
def nearOne (t : Ty) : Val → Bool
  | .num _ m e _ => halfUlp t m e
  | _ => false

/-- A neighbour of an exact value within 1 ulp, as the fixed function of the instruction chooses (R228). -/
def nearby (op : Nat) (t : Ty) (a : BitVec 64) (v : Val) : BitVec 64 × FpFlags :=
  let away := roundTo t (if v.neg then .rdn else .rup) false v
  if nearOne t v then roundTo t .rtz false v
  else if away.2 &&& fOF ≠ 0 then roundTo t .rne false v
  else if (Config.transcendental op t.width a).getLsbD 0 then away
  else roundTo t .rtz false v

/-- The result of the instruction's fixed function: any value within the bound of the exact one, with IX, and with UF where the exact result
is tiny and the delivered magnitude lies below the smallest normal (R225, R228, R230). Where the function's value lies outside, the exact result is rounded. -/
def freeResult (op : Nat) (t : Ty) (a : BitVec 64) (v : Val) (bound : Int) : BitVec 64 × FpFlags :=
  let r := low t.width (Config.transcendental op t.width (low t.width a))
  if (t.val r).near v bound then
    match t.val r with
    | .num _ m _ _ => (r, fIX ||| flagIf (decide (m < 2 ^ t.fmt.fw) && (roundTo t .rne false v).2 &&& fUF != 0) fUF)
    | _ => (r, fIX)
  else roundTo t .rne false v

/-- FRCP (R228 to R230). -/
def fpRcp (t : Ty) (a : BitVec 64) : BitVec 64 × FpFlags :=
  match t.val a with
  | .nan s => (t.nan, flagIf s fNV)
  | .inf s => rounded t .rne (.zero s, 0)
  | .num s m e _ =>
    if m = 0 then rounded t .rne (.inf s, fDZ)
    else
      let v := (divVal (.num false 1 0 false) (.num s m e false)).1
      if pow2 m || t == .f16 then roundTo t .rne false v else nearby 0 t (low t.width a) v

/-- One over the square root of m · 2^e for a positive m, to at least 150 bits with a sticky remainder (R228, R230). -/
def exactRsq (m : Nat) (e : Int) : Val :=
  let k := 320 + (e.emod 2).toNat
  let r := isqrt 170 (2 ^ k / m) 0
  .num false r ((-e - (k : Int)) / 2) (r * r * m != 2 ^ k)

/-- FRSQ (R228 to R230): within 1 ulp, or 2 ulp for .F32. -/
def fpRsq (t : Ty) (a : BitVec 64) : BitVec 64 × FpFlags :=
  match t.val a with
  | .nan s => (t.nan, flagIf s fNV)
  | .inf s => if s then (t.nan, fNV) else (0, 0)
  | .num s m e _ =>
    if m = 0 then rounded t .rne (.inf s, fDZ)
    else if s then (t.nan, fNV)
    else
      let v := exactRsq m e
      if v.exact then roundTo t .rne false v
      else if t = .f32 then freeResult 1 t a v (2 * ulpOf t v)
      else nearby 1 t (low t.width a) v

/-- FSQRT (R228, R229, R534). -/
def fpSqrt (t : Ty) (mode : Rm) (a : BitVec 64) : BitVec 64 × FpFlags := rounded t mode (sqrtVal (t.val a))

/-- FEXP2 (R228 to R230). -/
def fpExp2 (t : Ty) (a : BitVec 64) : BitVec 64 × FpFlags :=
  match t.val a with
  | .nan s => (t.nan, flagIf s fNV)
  | .inf s => if s then (0, 0) else rounded t .rne (.inf false, 0)
  | .num s m e st =>
    let n := roundInt .rtz s m e st
    if decide ((t.fmt.bias : Int) < n.1) then roundTo t .rne false (.num false 1 (t.fmt.bias + 1) false)
    else if !n.2 && decide (t.fmt.qmin ≤ n.1) then roundTo t .rne false (.num false 1 n.1 false)
    else let v := exactExp2 (.num s m e st); freeResult 3 t a v (ulpBound t v)

/-- FLOG2 (R228 to R230). -/
def fpLog2 (t : Ty) (a : BitVec 64) : BitVec 64 × FpFlags :=
  match t.val a with
  | .nan s => (t.nan, flagIf s fNV)
  | .inf s => if s then (t.nan, fNV) else rounded t .rne (.inf false, 0)
  | .num s m e _ =>
    if m = 0 then rounded t .rne (.inf true, fDZ)
    else if s then (t.nan, fNV)
    else if pow2 m then roundTo t .rne false (Val.ofInt (e + (Nat.log2 m : Int)))
    else
      let v := exactLog2 m e
      let mid := t == .f32 && decide (-(1 : Int) ≤ e + (Nat.log2 m : Int)) && decide (e + (Nat.log2 m : Int) < 1)
      freeResult 4 t a v (if mid then absBound t else ulpBound t v)

/-- FSIN and FCOS (R228 to R230). -/
def fpSinCos (cos : Bool) (t : Ty) (a : BitVec 64) : BitVec 64 × FpFlags :=
  match t.val a with
  | .nan s => (t.nan, flagIf s fNV)
  | .inf _ => (t.nan, fNV)
  | .num s m e st =>
    if m = 0 then (if cos then roundTo t .rne false (Val.ofInt 1) else rounded t .rne (.zero s, 0))
    else freeResult (if cos then 6 else 5) t a (exactSinCos cos (.num s m e st)) (absBound t)

/-- FTANH (R228 to R230). -/
def fpTanh (t : Ty) (a : BitVec 64) : BitVec 64 × FpFlags :=
  match t.val a with
  | .nan s => (t.nan, flagIf s fNV)
  | .inf s => roundTo t .rne false (.num s 1 0 false)
  | .num s m e st =>
    if m = 0 then rounded t .rne (.zero s, 0)
    else let v := exactTanh (.num s m e st); freeResult 7 t a v (ulpBound t v)

/-! ### Frames -/

/-- The numeric type of a V3 instruction. -/
def V3.nty (f : V3) : Ty := (numTy f.ty.toNat).getD .f32
/-- The numeric type of a VI instruction. -/
def VI.nty (f : VI) : Ty := (numTy f.ty.toNat).getD .f32

/-- A result of a type with its flags as the writes of a lane. -/
def outVal (n : Nat) (t : Ty) (r : BitVec 64 × FpFlags) : List (Nat × Word × Bool) × FpFlags := (putVal n t r.1, r.2)

/-- One source, one rounded result. -/
def State.fpUn (s : State) (i : Instr) (f : V3) (op : Ty → Rm → BitVec 64 → BitVec 64 × FpFlags) : State :=
  let t := V3.nty f
  s.perLaneRounded i f.rnd [f.useA t] fun m vs => outVal f.dst.reg t (op t m (nth vs 0))

/-- Two sources, one rounded result. -/
def State.fpBin (s : State) (i : Instr) (f : V3) (op : Ty → Rm → BitVec 64 → BitVec 64 → BitVec 64 × FpFlags) : State :=
  let t := V3.nty f
  s.perLaneRounded i f.rnd [f.useA t, f.useB t] fun m vs => outVal f.dst.reg t (op t m (nth vs 0) (nth vs 1))

/-- One source and the immediate, one rounded result (R196). -/
def State.fpBinVi (s : State) (i : Instr) (f : VI) (op : Ty → Rm → BitVec 64 → BitVec 64 → BitVec 64 × FpFlags) : State :=
  let t := VI.nty f
  s.perLaneRounded i f.rnd [f.useA t] fun m vs => outVal f.dst.reg t (op t m (nth vs 0) (widenImm t f.imm))

/-! ### The instructions -/

/-- FADD (R529). -/
def execFadd (f : V3) (s : State) : Out := .next (s.fpBin (.fadd f) f fpAdd)
/-- FMUL (R529). -/
def execFmul (f : V3) (s : State) : Out := .next (s.fpBin (.fmul f) f fpMul)

/-- FFMA (R529). -/
def execFfma (f : V3) (s : State) : Out :=
  let t := V3.nty f
  .next (s.perLaneRounded (.ffma f) f.rnd [f.useA t, f.useB t, f.useC t] fun m vs =>
    outVal f.dst.reg t (fpFma t m (nth vs 0) (nth vs 1) (nth vs 2)))

/-- FMIN (R530). -/
def execFmin (f : V3) (s : State) : Out := .next (s.fpBin (.fmin f) f fun t _ => fpMinMax false t)
/-- FMAX (R530). -/
def execFmax (f : V3) (s : State) : Out := .next (s.fpBin (.fmax f) f fun t _ => fpMinMax true t)

/-- FCMP (R532). -/
def execFcmp (f : V3) (s : State) : Out :=
  let t := V3.nty f
  .next (s.perLane (.fcmp f) [f.useA t, f.useB t] fun _ vs =>
    let r := fpCmp f.sub.toNat t (nth vs 0) (nth vs 1)
    .done (put32 f.dst.reg (b2n r.1)) r.2)

/-- FCLASS (R531). -/
def execFclass (f : V3) (s : State) : Out :=
  let t := V3.nty f
  .next (s.perLane (.fclass f) [f.useA t] fun _ vs => .done (put32 f.dst.reg (2 ^ fpClass t (nth vs 0))) 0)

/-- FRINT (R543). -/
def execFrint (f : V3) (s : State) : Out := .next (s.fpUn (.frint f) f fpRint)

/-- FLDEXP (R542). -/
def execFldexp (f : V3) (s : State) : Out :=
  let t := V3.nty f
  .next (s.perLaneRounded (.fldexp f) f.rnd [f.useA t, f.useB .i32] fun m vs =>
    outVal f.dst.reg t (fpLdexp t m (nth vs 0) (nth vs 1)))

/-- FDOT2 (R536). -/
def execFdot2 (f : V3) (s : State) : Out :=
  let t := V3.nty f
  .next (s.perLaneRounded (.fdot2 f) f.rnd
    [{ f.useA t with nabs := 0 }, { f.useB t with nabs := 0 }, f.useC .f32] fun m vs =>
    outVal f.dst.reg .f32 (fpDot2 t m f.na f.nb (nth vs 0) (nth vs 1) (nth vs 2)))

/-- FDIVFIX (R535). -/
def execFdivfix (f : V3) (s : State) : Out :=
  let t := V3.nty f
  .next (s.perLaneRounded (.fdivfix f) f.rnd [f.useA t, f.useB t, f.useC t] fun m vs =>
    outVal f.dst.reg t (fpDivfix t m (nth vs 0) (nth vs 1)))

/-- CVT (R517, R518). -/
def execCvt (f : V3) (s : State) : Out :=
  let src := (cvtSrc f.sub).getD .b32
  let dst := (cvtDst f.sub f.ty).getD .b32
  .next (s.perLaneRounded (.cvt f) f.rnd [f.useA src] fun m vs =>
    outVal f.dst.reg dst (convert src dst m f.nosat (nth vs 0)))

/-- CVTEF (R520): y to dst and the .F32 residual to dst + 1. -/
def execCvtef (f : V3) (s : State) : Out :=
  let src : Ty := if f.sub = 0 then .f64 else .f32
  let dst := V3.nty f
  .next (s.perLaneRounded (.cvtef f) f.rnd [f.useA src] fun m vs =>
    let r := convertEf src dst m f.nosat (nth vs 0)
    (putVal f.dst.reg dst r.1 ++ putVal (f.dst.reg + 1) .f32 r.2.1, r.2.2))

/-- MXPACK (R569): one block from the lanes of the group; a poisoned source traps every active lane. -/
def execMxpack (f : V3) (s : State) : Out :=
  let t := V3.nty f
  let src := (mxPlain f.sub).getD .f32
  let us := f.useA src :: s.randUses f.rnd
  .next (s.frame (.mxpack f) fun s =>
    let srcs := s.active.map fun l => (l, s.sources us l)
    if srcs.any (fun x => x.2.any (·.2)) then
      s.commit (srcs.map fun x => (x.1, x.2, .trap (poisonTrap 1))) (s.dstRows (.mxpack f))
    else
      let x := mxScale t (srcs.map fun y => src.val (nth (modified us y.2) 0))
      s.commit (srcs.map fun y =>
        let vs := modified us y.2
        let r := s.rounding f.rnd vs
        let p := mxElem t r.1 f.nosat x (src.val (nth vs 0))
        (y.1, y.2, .done (put32 f.dst.reg (x * 256 + p.1.toNat) ++ r.2) p.2)) (s.dstRows (.mxpack f)))

/-- MXUNPACK (R570). -/
def execMxunpack (f : V3) (s : State) : Out :=
  let t := V3.nty f
  let dst := (mxPlain f.sub).getD .f32
  .next (s.perLaneRounded (.mxunpack f) f.rnd [f.useA t] fun m vs =>
    outVal f.dst.reg dst (mxUnpack t dst m (nth vs 0)))

/-- FRCP (R534). -/
def execFrcp (f : V3) (s : State) : Out := .next (s.fpUn (.frcp f) f fun t _ => fpRcp t)
/-- FRSQ (R534). -/
def execFrsq (f : V3) (s : State) : Out := .next (s.fpUn (.frsq f) f fun t _ => fpRsq t)
/-- FSQRT (R534). -/
def execFsqrt (f : V3) (s : State) : Out := .next (s.fpUn (.fsqrt f) f fpSqrt)
/-- FEXP2 (R534). -/
def execFexp2 (f : V3) (s : State) : Out := .next (s.fpUn (.fexp2 f) f fun t _ => fpExp2 t)
/-- FLOG2 (R534). -/
def execFlog2 (f : V3) (s : State) : Out := .next (s.fpUn (.flog2 f) f fun t _ => fpLog2 t)
/-- FSIN (R534). -/
def execFsin (f : V3) (s : State) : Out := .next (s.fpUn (.fsin f) f fun t _ => fpSinCos false t)
/-- FCOS (R534). -/
def execFcos (f : V3) (s : State) : Out := .next (s.fpUn (.fcos f) f fun t _ => fpSinCos true t)
/-- FTANH (R534). -/
def execFtanh (f : V3) (s : State) : Out := .next (s.fpUn (.ftanh f) f fun t _ => fpTanh t)

/-- FADD with an immediate (R528, R196). -/
def execFaddVi (f : VI) (s : State) : Out := .next (s.fpBinVi (.faddVi f) f fpAdd)
/-- FMUL with an immediate (R528, R196). -/
def execFmulVi (f : VI) (s : State) : Out := .next (s.fpBinVi (.fmulVi f) f fpMul)

/-- FFMA with an immediate as srcC (R528, R196). -/
def execFfmaVi (f : VI) (s : State) : Out :=
  let t := VI.nty f
  .next (s.perLaneRounded (.ffmaVi f) f.rnd [f.useA t, f.useB t] fun m vs =>
    outVal f.dst.reg t (fpFma t m (nth vs 0) (nth vs 1) (widenImm t f.imm)))

/-- FCMP with an immediate (R532, R196). -/
def execFcmpVi (f : VI) (s : State) : Out :=
  let t := VI.nty f
  .next (s.perLane (.fcmpVi f) [f.useA t] fun _ vs =>
    let r := fpCmp f.sub.toNat t (nth vs 0) (widenImm t f.imm)
    .done (put32 f.dst.reg (b2n r.1)) r.2)

end Sys2Proof.Machine
end

