-- ==== Sys2Proof/Machine/CrossLane.lean ====
section
/-! DEFINITION. Cross-lane instructions: SHFL, VOTE, BALLOT, MATCH, REDUCE, SCAN, LANERD, LANEWR and RAND (R231, R232, R489, R550, R551, R559, R580, R585, R586, R600, R612). -/

namespace Sys2Proof.Machine

/-! ### SHFL (R600) -/

/-- The segment width of SHFL from flags [10:8]. -/
def shflWidth (k : Nat) : Nat := if k = 0 ∨ k = 5 then 32 else 2 ^ k

/-- The lane that SHFL reads for a lane, or none for the lane's own value (R600). -/
def shflLane (sub w l : Nat) (b : Nat) : Option Nat :=
  let base := l - l % w
  let i := l % w
  match sub with
  | 0 => if b < w then some (base + b) else none
  | 1 => if b ≤ i then some (base + (i - b)) else none
  | 2 => if i + b < w then some (base + (i + b)) else none
  | _ => if i ^^^ b < w then some (base + (i ^^^ b)) else none

/-- SHFL (R600). -/
def execShfl (f : V3) (s : State) : Out :=
  let t := V3.ity f
  let w := shflWidth (f.flags.toNat % 8)
  .next (s.frame (.shfl f) fun s =>
    let rs := s.active.map fun l =>
      let x := s.lane l
      let b := (s.sources [f.useA t, f.useB .n32] l).getD 1 (0, false)
      let own := s.fetchUse (f.useA t) ((shflLane f.sub.toNat w l (uval 32 b.1)).getD l)
      let v := match x.replay, x.log with
        | true, some e => if f.a.isV then e.vals.getD 0 own else own
        | _, _ => own
      (l, [v, b], if v.2 || b.2 then LaneOut.trap (poisonTrap 1) else .done (putVal f.dst.reg t v.1) 0)
    s.commit rs (s.dstRows (.shfl f)))

/-! ### VOTE, BALLOT and MATCH -/

/-- The active lanes with one source each. -/
def State.votes (s : State) (u : Use) : List (Nat × List Src) := s.active.map fun l => (l, s.sources [u] l)

/-- The value of a lane's only source. -/
def only (vs : List Src) : Src := vs.getD 0 (0, false)

/-- The lanes whose source is not poisoned, and those whose source is. -/
def clean (vs : List (Nat × List Src)) : List (Nat × List Src) := vs.filter fun x => !(only x.2).2

/-- The mask of a list of lanes. -/
def maskOf (ls : List Nat) : Nat := ls.foldl (fun m l => m ||| 2 ^ l) 0

/-- The results of lanes of which the poisoned ones trap (R544) and the others do as given. -/
def polled (vs : List (Nat × List Src)) (detail : BitVec 8) (out : Nat → BitVec 64 → List (Nat × Word × Bool)) :
    List (Nat × List Src × LaneOut) :=
  vs.map fun x => (x.1, x.2, if (only x.2).2 then .trap (poisonTrap detail) else .done (out x.1 (only x.2).1) 0)

/-- VOTE (R612): 1 when every clean lane, or some clean lane, holds a non-zero condition. -/
def execVote (f : V3) (s : State) : Out :=
  .next (s.frame (.vote f) fun s =>
    let vs := s.votes (f.useA .b32)
    let a := clean vs
    let yes (x : Nat × List Src) : Bool := decide (uval 32 (only x.2).1 ≠ 0)
    let r := b2n (if f.sub = 0 then a.all yes else a.any yes)
    let rows := s.dstRows (.vote f)
    if f.dst.isV then s.commit (polled vs 1 fun _ _ => put32 f.dst.reg r) rows
    else
      let s' := if a.isEmpty then s else s.writeS f.dst.reg false (BitVec.ofNat 64 r)
      s'.commit (polled vs 1 fun _ _ => []) rows)

/-- BALLOT (R489): the mask of the active lanes with a non-zero source. -/
def execBallot (f : V3) (s : State) : Out :=
  .next (s.frame (.ballot f) fun s =>
    let vs := s.votes (f.useA .b32)
    let m := maskOf ((clean vs).filterMap fun x => if uval 32 (only x.2).1 ≠ 0 then some x.1 else none)
    let s' := if vs.isEmpty then s else s.writeS f.dst.reg false (BitVec.ofNat 64 m)
    s'.commit (polled vs 1 fun _ _ => []) (s.dstRows (.ballot f)))

/-- MATCH (R559). -/
def execMatchl (f : V3) (s : State) : Out :=
  let t := V3.ity f
  .next (s.frame (.matchl f) fun s =>
    let vs := s.votes (f.useA t)
    let a := (clean vs).map fun x => (x.1, uval t.width (only x.2).1)
    let out (v : Nat) : Nat :=
      let same := (a.filter fun y => y.2 == v).map (·.1)
      if f.sub = 0 then maskOf same
      else if same.length = a.length then maskOf (a.map (·.1)) else 0
    s.commit (polled vs 1 fun _ x => put32 f.dst.reg (out (uval t.width x))) (s.dstRows (.matchl f)))

/-! ### REDUCE and SCAN (R231, R232) -/

/-- The node operation of REDUCE and SCAN (R585), with its flags. -/
def nodeOp (op : Nat) (t : Ty) (mode : Rm) (a b : BitVec 64) : BitVec 64 × FpFlags :=
  match op with
  | 0 => fpAdd t mode a b
  | 1 => fpMinMax false t a b
  | 2 => fpMinMax true t a b
  | 8 => (intAdd t a b, 0)
  | 9 => (intMin t a b, 0)
  | 10 => (intMax t a b, 0)
  | 11 => (bitAnd t a b, 0)
  | 12 => (bitOr t a b, 0)
  | _ => (bitXor t a b, 0)

/-- The identities of R231. -/
def nodeId (op : Nat) (t : Ty) : BitVec 64 :=
  match op with
  | 1 => (roundTo t .rne true (.inf false)).1
  | 2 => (roundTo t .rne true (.inf true)).1
  | 9 => wrap t.width t.maxInt
  | 10 => wrap t.width t.minInt
  | 11 => bnot t.width 0
  | _ => 0

/-- The fixed binary tree over 2^d values (R231), with the flags of every node. -/
def tree (op : BitVec 64 → BitVec 64 → BitVec 64 × FpFlags) : Nat → List (BitVec 64) → BitVec 64 × FpFlags
  | 0, l => (l.getD 0 0, 0)
  | d + 1, l =>
    let x := tree op d (l.take (2 ^ d))
    let y := tree op d (l.drop (2 ^ d))
    let r := op x.1 y.1
    (r.1, x.2 ||| y.2 ||| r.2)

/-- The inclusive prefix over the first `n` values (R232), taking blocks from 2^(k−1) down. -/
def prefixUp (op : BitVec 64 → BitVec 64 → BitVec 64 × FpFlags) (xs : List (BitVec 64)) (n : Nat) :
    Nat → Nat → Option (BitVec 64) → FpFlags → BitVec 64 × FpFlags
  | 0, _, acc, fl => (acc.getD 0, fl)
  | k + 1, lo, acc, fl =>
    if bit n k then
      let blk := tree op k ((xs.drop lo).take (2 ^ k))
      match acc with
      | none => prefixUp op xs n k (lo + 2 ^ k) (some blk.1) (fl ||| blk.2)
      | some a =>
        let r := op a blk.1
        prefixUp op xs n k (lo + 2 ^ k) (some r.1) (fl ||| blk.2 ||| r.2)
    else prefixUp op xs n k lo acc fl

/-- The type of REDUCE and SCAN (R194). -/
def V3.rty (f : V3) : Ty := if f.sub.toNat % 16 < 8 then V3.nty f else V3.ity f

/-- The 32 lane values: an active lane's source, otherwise the identity (R231). -/
def laneValues (us : List Use) (srcs : List (Nat × List Src)) (ident : BitVec 64) : List (BitVec 64) :=
  (List.range 32).map fun l =>
    match srcs.find? (·.1 == l) with
    | some x => nth (modified us x.2) 0
    | none => ident

/-- REDUCE and SCAN share this frame: a poisoned source of any active lane traps every active lane (R586). -/
def State.gather (s : State) (i : Instr) (u : Use) (k : State → List (Nat × List Src) → State) : State :=
  s.frame i fun s =>
    let srcs := s.votes u
    if srcs.any (fun x => (only x.2).2) then
      s.commit (srcs.map fun x => (x.1, x.2, .trap (poisonTrap 1))) (s.dstRows i)
    else k s srcs

/-- REDUCE (R231, R586). -/
def execReduce (f : V3) (s : State) : Out :=
  let t := V3.rty f
  let op := f.sub.toNat % 16
  .next (s.gather (.reduce f) (f.useA t) fun s srcs =>
    let mode := Rm.ofCode f.rnd.toNat s.rmCode 0
    let r := tree (nodeOp op t mode) 5 (laneValues [f.useA t] srcs (nodeId op t))
    if srcs.isEmpty then s.next
    else ((s.writeS f.dst.reg t.wide (t.fill r.1)).raise r.2).next)

/-- SCAN (R232, R586). -/
def execScan (f : V3) (s : State) : Out :=
  let t := V3.rty f
  let op := f.sub.toNat % 16
  .next (s.gather (.scan f) (f.useA t) fun s srcs =>
    let mode := Rm.ofCode f.rnd.toNat s.rmCode 0
    let xs := laneValues [f.useA t] srcs (nodeId op t)
    let incl (n : Nat) := prefixUp (nodeOp op t mode) xs n 6 0 none 0
    s.commit (srcs.map fun x =>
      let r := if f.sub.getLsbD 4 then (if x.1 = 0 then (nodeId op t, 0) else incl x.1) else incl (x.1 + 1)
      (x.1, x.2, .done (putVal f.dst.reg t r.1) r.2)) (s.dstRows (.scan f)))

/-! ### LANERD, LANEWR and RAND -/

/-- LANERD (R551): one lane's element into a uniform register. -/
def execLanerd (f : V3) (s : State) : Out :=
  let t := V3.ity f
  .next (s.once (.lanerd f) [f.useB .n32] fun s vs =>
    let v := s.fetchUse (f.useA t) (uval 5 (nth vs 0))
    if v.2 then s.trapActive (poisonTrap 1) (s.dstRows (.lanerd f))
    else (s.writeS f.dst.reg t.wide v.1).next)

/-- LANEWR (R551): a uniform value into one lane's element, whatever the lane's state. -/
def execLanewr (f : V3) (s : State) : Out :=
  let t := V3.ity f
  .next (s.once (.lanewr f) [f.useA t, f.useB .n32] fun s vs =>
    let q := uval 5 (nth vs 1)
    (s.writeLanes ((putVal f.dst.reg t (nth vs 0)).map fun w => ⟨w.1, q, w.2.1, w.2.2⟩)).next)

/-- RAND (R580): one RandStep on the state in vK to vK+3. -/
def execRand (f : V3) (s : State) : Out :=
  let k := f.a.reg
  let us : List Use := (List.range 4).map fun j => { o := .v (BitVec.ofNat 8 (k + j)), kinds := kV }
  .next (s.perLane (.rand f) us fun _ vs =>
    let w := vs.map (BitVec.setWidth 32)
    let r := randStep (w.getD 0 0) (w.getD 1 0) (w.getD 2 0) (w.getD 3 0)
    .done (put32 f.dst.reg r.1.toNat ++ r.2.mapIdx fun j x => (k + j, x, false)) 0)

end Sys2Proof.Machine
end

