-- ==== Sys2Proof/Machine/Uniform.lean ====
section
/-! DEFINITION. The uniform instructions SALU, SCMP, SSEL and SMOV on uniform registers, or on the c registers and buffer-record halves of a scalar core (R162, R206, R592, R593). -/

namespace Sys2Proof.Machine

/-- A uniform source in a type. On a scalar core a narrower type reads the low bits (R593). -/
def uUse (o : Opnd) (t : Ty) : Use := { o := o, kinds := kSKN, ty := t, span := t.regs, pair := t.wide }

/-- The result as a scalar core writes it: a 32-bit type is extended by sign for .I32 and by zero otherwise (R593). -/
def scalarFill (t : Ty) (x : BitVec 64) : BitVec 64 :=
  if t.wide then x else if t.signed then sext 32 x else low 32 x

/-- Writes a uniform result of a type (R592, R593). -/
def State.writeU (s : State) (o : Opnd) (t : Ty) (x : BitVec 64) : State :=
  match s.kind with
  | .vector => s.writeS o.reg t.wide (t.fill x)
  | _ => s.writeS o.reg t.wide (scalarFill t x)

/-- The integer type of a U instruction. -/
def UF.ity (f : UF) : Ty := (intTy f.ty.toNat).getD .b32

/-- srcB or the immediate that stands for it (R592), as a source; the immediate is widened in `t`. -/
def UF.second (f : UF) (t : Ty) (vs : List (BitVec 64)) : BitVec 64 :=
  if f.useImm = 1 then widenImm t f.imm else nth vs 1

/-- The sources of a two-source U instruction. -/
def UF.uses (f : UF) (t tb : Ty) : List Use := if f.useImm = 1 then [uUse f.a t] else [uUse f.a t, uUse f.b tb]

/-- The operation of SALU (R197, R592). -/
def saluOp (sub : Nat) (t : Ty) (a b : BitVec 64) : BitVec 64 :=
  match sub with
  | 0 => intAdd t a b
  | 1 => intSub t a b
  | 2 => intMul t a b
  | 3 => bitAnd t a b
  | 4 => bitOr t a b
  | 5 => bitXor t a b
  | 6 => bitShl t a b
  | 7 => bitShr t a b
  | 8 => bitShra t a b
  | 9 => intMin t a b
  | 10 => intMax t a b
  | _ => bitBfe t a b

/-- The type of SALU's srcB: one 32-bit element for shifts and .BFE (R591, R593). -/
def saluB (sub : Nat) (t : Ty) : Ty := if (6 ≤ sub ∧ sub ≤ 8) ∨ sub = 11 then .b32 else t

/-- SALU (R592, R593). -/
def execSalu (f : UF) (s : State) : Out :=
  let t := UF.ity f
  let tb := saluB f.sub.toNat t
  .next (s.once (.salu f) (UF.uses f t tb) fun s vs =>
    (s.writeU f.dst t (saluOp f.sub.toNat t (nth vs 0) (UF.second f tb vs))).next)

/-- SCMP (R592): the relation into scc. -/
def execScmp (f : UF) (s : State) : Out :=
  let t := UF.ity f
  .next (s.once (.scmp f) (UF.uses f t t) fun s vs =>
    (s.onGrp fun g => { g with scc := intRel f.sub.toNat (t.int (nth vs 0)) (t.int (UF.second f t vs)) }).next)

/-- SSEL (R592): a when scc is 1, b otherwise. -/
def execSsel (f : UF) (s : State) : Out :=
  let t := UF.ity f
  .next (s.once (.ssel f) (UF.uses f t t) fun s vs =>
    (s.writeU f.dst t (if s.grp.scc then nth vs 0 else UF.second f t vs)).next)

/-- SMOV (R592). -/
def execSmov (f : UF) (s : State) : Out :=
  let t := UF.ity f
  .next (s.once (.smov f) (if f.useImm = 1 then [] else [uUse f.a t]) fun s vs =>
    (s.writeU f.dst t (if f.useImm = 1 then widenImm t f.imm else nth vs 0)).next)

end Sys2Proof.Machine
end

