-- ==== Sys2Proof/Machine/Trans.lean ====
section
/-! DEFINITION. Physical addresses, page tables, walks and translation caches (R246 to R263, R266, R270). -/

namespace Sys2Proof.Machine

/-! ### Dies and clusters by number -/

/-- Changes a die's record. -/
def State.onDie (s : State) (d : Nat) (f : Die → Die) : State :=
  { s with dies := f (s.die d) :: s.dies.filter (·.num != d) }

/-- A cluster's record. -/
def State.cluster (s : State) (d n : Nat) : Cluster :=
  (s.clusters.find? fun c => c.die == d && c.num == n).getD { die := d, num := n }

/-- Changes a cluster's record. -/
def State.onCluster (s : State) (d n : Nat) (f : Cluster → Cluster) : State :=
  { s with clusters := f (s.cluster d n) :: s.clusters.filter fun c => !(c.die == d && c.num == n) }

/-- The cluster of a core: 4 × 4 logical cores (R21). A dispatch core belongs to none, and is told apart by number 256. -/
def State.clusterOf (s : State) (c : CoreId) : Nat :=
  match c with
  | .vec _ col _ => s.lrowOf c / 4 * 16 + col / 4
  | .ctl _ n => n
  | .disp _ => 256

/-- The quad of a core (R19). -/
def State.quadOf (s : State) (c : CoreId) : Nat := s.lrowOf c / 2 * 32 + CoreId.col c / 2

/-! ### Reserved frames (R250) -/

/-- Whether a frame lies in a reserved area of its die: the top GiB or the remote-data cache below it (R250). -/
def State.reservedFrame (s : State) (a size : Nat) : Bool :=
  decide ((127 - (s.die (paDie a)).rdcgib) * 2 ^ 30 < paOffset a + size)

/-! ### The page-table entry (R253 to R255) -/

/-- P of an entry. -/
def pteP (e : BitVec 64) : Bool := e.getLsbD 0
/-- LEAF. -/
def pteLeaf (e : BitVec 64) : Bool := e.getLsbD 1
/-- SPARSE. -/
def pteSparse (e : BitVec 64) : Bool := e.getLsbD 9
/-- DZ. -/
def pteDz (e : BitVec 64) : Bool := e.getLsbD 11
/-- ATTR. -/
def pteAttr (e : BitVec 64) : BitVec 2 := e.extractLsb' 4 2
/-- ADDR as a physical address. -/
def pteAddr (e : BitVec 64) : Nat := bits e.toNat 55 12 * 256
/-- DSET. -/
def pteDset (e : BitVec 64) : Nat := bits e.toNat 63 56

/-- The low virtual bit that a level indexes (R252). -/
def levelBit (k : Nat) : Nat :=
  match k with
  | 4 => 48 | 3 => 39 | 2 => 30 | 1 => 21 | _ => 16

/-- The index of a virtual address at a level (R252). -/
def levelIndex (k va : Nat) : Nat :=
  va / 2 ^ levelBit k % (match k with | 4 => 256 | 0 => 32 | _ => 512)

/-- The dies of a die set (R251). Bits [63:40] of an entry are ignored (log entry 83). -/
def State.dieSet (s : State) (dstab k : Nat) : List Nat :=
  let m := s.readNat (dstab + 8 * k) 8
  (List.range 40).filter fun d => bit m d

/-- Whether a present leaf breaks the attribute rules (R255). -/
def State.attrBad (s : State) (e : BitVec 64) (size : Nat) (ds : List Nat) : Bool :=
  let a := pteAddr e
  let badSet := ds.isEmpty || ds.any s.dieAbsent
  if paSpace a = 1 then pteAttr e != 0 || pteDset e != 0
  else
    match (pteAttr e).toNat with
    | 0 => pteDset e != 0
    | 1 => size == 16 || paDie a != 0 || badSet
    | 2 => badSet || !has ds (paDie a) || e.getLsbD 2
    | _ => true

/-- Whether a present entry at a level is malformed (R254). A next table outside SPACE 0x0 makes a non-leaf entry malformed, and the attribute
rules are judged for present entries alone (log entry 84); of an interleaved page the range of its frame on die 0 is held against the reserved
areas (log entry 88). -/
def State.pteBad (s : State) (k : Nat) (e : BitVec 64) (ds : List Nat) : Bool :=
  let a := pteAddr e
  let size := levelBit k
  if e.getLsbD 8 then true
  else if pteLeaf e then
    decide (3 ≤ k) || a % 2 ^ size != 0 || decide (2 ≤ paSpace a)
      || (paSpace a == 0 && (s.dieAbsent (paDie a) || s.reservedFrame a (2 ^ size)))
      || s.attrBad e size ds
  else
    k == 0 || paSpace a != 0 || s.dieAbsent (paDie a) || (e &&& ~~~(0x00FFFFFFFFFFF001 : BitVec 64)) != 0

/-- What a walk finds in an entry: an outcome, a not-present entry at an address for the page service (R263), or the entry of the next
table. -/
inductive WalkRead where
  | out (o : WalkOut)
  | absent (level entryAt : Nat) (e : BitVec 64)
  | down (e : BitVec 64)
  deriving DecidableEq, Repr

/-- The entry of a table that a walk reads at a level (R252). -/
def entryAt (k table va : Nat) : Nat := table + 8 * levelIndex k va

/-- One entry of a walk, at level `k` of the table at `table` (R252, R254, R258). -/
def State.walkEntry (s : State) (asid dstab va k table : Nat) : WalkRead :=
  let e := BitVec.ofNat 64 (s.readNat (entryAt k table va) 8)
  if !pteP e then (if pteSparse e then .out .sparse else .absent k (entryAt k table va) e)
  else
    let ds := if pteAttr e = 0 then [] else s.dieSet dstab (pteDset e)
    if s.pteBad k e ds then .out .malformed
    else if pteLeaf e then
      .out (.leaf { asid := asid, va := va / 2 ^ levelBit k * 2 ^ levelBit k, size := levelBit k, frame := pteAddr e,
                    dset := ds, attr := pteAttr e, lease := e.extractLsb' 6 2, por := e.getLsbD 10,
                    w := e.getLsbD 2, x := e.getLsbD 3 })
    else .down e

/-- A whole walk from level `k` of the table at `table`, with the address of its last entry: recursion on the level. -/
def State.walk (s : State) (asid dstab va : Nat) : Nat → Nat → Nat × WalkRead
  | k, table =>
    match k, s.walkEntry asid dstab va k table with
    | k + 1, .down e => s.walk asid dstab va k (pteAddr e)
    | k, r => (entryAt k table va, r)

/-- The panel-map window (R44, R259): 1 GiB from this virtual address. -/
def mapWindow : Nat := 0x00FFFFFFC0000000

/-- Firmware's translation of the panel-map window: the image of the core's own die, read-only, with leases of 8 ticks
(R44, R306, log entry 21). -/
def State.mapLeaf (s : State) (asid : Nat) : Leaf :=
  { asid := asid, va := mapWindow, size := 30, frame := paOf (CoreId.die s.core.id) (127 * 2 ^ 30),
    dset := [], attr := 0, lease := 0, por := false, w := false, x := false }

/-! ### Looking up (R260 to R262) -/

/-- Whether a leaf covers an address in an address space. -/
def Leaf.covers (l : Leaf) (asid va : Nat) : Bool := l.asid == asid && l.va == va / 2 ^ l.size * 2 ^ l.size

/-- The page of 64 KiB that a walk is asked for. -/
def walkPage (va : Nat) : Nat := va / 2 ^ 16

/-- The window of the register blocks: 1 MiB for each die (R453). -/
def regWindow : Nat := 0x00FFFFFF40000000

/-- The window of the code of control messages: 64 KiB for each place (R403). -/
def codeWindow : Nat := 0x00FFFFFF80000000

/-- Where the code lines of a message place stand: outside the physical address space of R248 (log entry 25). -/
def codeBase (d place : Nat) : Nat := 2 ^ 56 + (d * 16 + place) * 2 ^ 16

/-- Firmware's translations of its windows: none elsewhere. The register window is mapped in dispatch contexts and is a
malformed entry in the others; the code window belongs to the dispatch core (R44, R259, R403, R453, R631). -/
def State.windowLookup (s : State) (asid va : Nat) : Option WalkOut :=
  let disp := s.kind == .dispatch
  if mapWindow ≤ va ∧ va < 2 ^ 56 then some (.leaf (s.mapLeaf asid))
  else if regWindow ≤ va ∧ va < regWindow + 40 * 2 ^ 20 then
    let d := (va - regWindow) / 2 ^ 20
    if disp then some (.leaf { asid := asid, va := regWindow + d * 2 ^ 20, size := 20, frame := paOf d 0x1FFFF00000,
                               dset := [], attr := 0, lease := 0, por := false, w := true, x := false })
    else some .malformed
  else if disp && decide (codeWindow ≤ va) && decide (va < codeWindow + 2 ^ 20) then
    let p := (va - codeWindow) / 2 ^ 16
    some (.leaf { asid := asid, va := codeWindow + p * 2 ^ 16, size := 16, frame := codeBase (CoreId.die s.core.id) p,
                  dset := [], attr := 0, lease := 0, por := false, w := false, x := true })
  else none

/-- The leaves that the core in focus shares with its cluster. A dispatch core belongs to none (R21, R260, DEDUCED, log entry 85). -/
def State.sharedTc (s : State) : List Leaf :=
  match s.core.id with
  | .disp _ => []
  | c => (s.cluster (CoreId.die c) (s.clusterOf c)).tc

/-- The group in focus, as one for whom a walk is made. -/
def State.me (s : State) : WalkFor := .group s.core.id s.gid

/-- The translation of an address in an address space that the core in focus holds for someone: firmware's for its windows, a leaf of the
core's or the cluster's cache, or a held result of a walk (R259, R260, R262). -/
def State.lookupIn (s : State) (asid : Nat) (who : WalkFor) (quiet : Bool) (va : Nat) : Option WalkOut :=
  match s.windowLookup asid va with
  | some o => some o
  | none =>
    match (s.core.ltc ++ s.sharedTc).find? (fun l => l.covers asid va) with
    | some l => some (.leaf l)
    | none => (s.core.walkOuts.find? fun h =>
        h.owner == who && h.asid == asid && h.page == walkPage va && (quiet || !h.quiet)).map (·.out)

/-- The translation of an address of the team in focus. -/
def State.lookup (s : State) (va : Nat) (quiet : Bool := false) (who : WalkFor := s.me) : Option WalkOut :=
  s.lookupIn s.team.lrec.asid who quiet va

/-- The first address in each page of 64 KiB. -/
def pageFirsts (vas : List Nat) : List Nat :=
  vas.foldl (fun l va => if l.any fun x => walkPage x == walkPage va then l else l ++ [va]) []

/-- The virtual lines of the pages for which no translation is held. -/
def State.missing (s : State) (vas : List Nat) (quiet : Bool := false) (who : WalkFor := s.me) : List Nat :=
  ((pageFirsts vas).filter fun va => (s.lookup va quiet who).isNone).map fun va => va / 128 * 128

/-! ### Walkers and their queues (R260, R261) -/

/-- The deepest non-leaf entry that a die's walk cache holds for an address: the level below it and its table (R260). -/
def Die.walkStart (d : Die) (asid va troot : Nat) : Nat × Nat :=
  let hit (k : Nat) : Option WalkEntry := d.walkCache.find? fun w =>
    w.asid == asid && w.level == k && w.va == va / 2 ^ levelBit k * 2 ^ levelBit k
  match [1, 2, 3, 4].findSome? hit with
  | some w => (w.level - 1, pteAddr w.entry)
  | none => (4, troot)

/-- A walker of a die takes a request. -/
def State.startWalk (s : State) (d : Nat) (r : WalkReq) : State :=
  let st := (s.die d).walkStart r.asid r.va r.troot
  (s.onDie d fun x => { x with walking := x.walking ++ [⟨r, st.1, st.2⟩] }).send (.walkComplete r)

/-- A walk request reaches its die: a free walker takes it, or it queues, or it waits in its cluster (R261). -/
def State.queueWalk (s : State) (r : WalkReq) : State :=
  let d := CoreId.die r.core
  if (s.die d).walking.length < 64 then s.startWalk d r
  else if (s.die d).walkQueue.length < 512 then s.onDie d fun x => { x with walkQueue := x.walkQueue ++ [r] }
  else s.onCluster d (s.clusterOf r.core) fun c => { c with walkWait := c.walkWait ++ [r] }

/-- A place in a die's queue goes to a request that waits in a cluster; of which cluster is left open (R261, log entry 9). -/
def State.refillWalks (s : State) (d : Nat) : State :=
  match s.clusters.filter fun (c : Cluster) => c.die == d && !c.walkWait.isEmpty with
  | [] => s
  | c :: cs =>
    let (k, s) := s.drawNat (cs.length + 1)
    let n := ((c :: cs).getD k c).num
    match (s.cluster d n).walkWait with
    | [] => s
    | r :: rs => (s.onCluster d n fun x => { x with walkWait := rs }).onDie d fun x => { x with walkQueue := x.walkQueue ++ [r] }

/-- A walker that is free takes the next request of its die's queue (R261). -/
def State.nextWalk (s : State) (d : Nat) : State :=
  match (s.die d).walkQueue with
  | [] => s
  | r :: rs =>
    if (s.die d).walking.length < 64 then ((s.onDie d fun x => { x with walkQueue := rs }).startWalk d r).refillWalks d else s

/-- Asks for a walk at the core in focus; one that its owner awaits is not asked for again (R262). -/
def State.askWalk (s : State) (r : WalkReq) : State :=
  if s.core.walks.any fun w => w.owner == r.owner && w.asid == r.asid && walkPage w.va == walkPage r.va && w.kind / 5 == r.kind / 5 then s
  else (s.onCore fun c => { c with walks := r :: c.walks }).queueWalk r

/-- Asks for the walks of virtual lines. `kind` is 0 for a load, 1 for a store, 2 for an atomic, 3 for a fetch and 4 for an engine,
as the fault record states it (R263, R454), and 5 for the line operations that never go to the page service (R265). -/
def State.askWalks (s : State) (lines : List Nat) (kind : Nat) (who : WalkFor := s.me) : State :=
  lines.foldl (fun s va => s.askWalk ⟨who, s.core.id, s.team.lrec.asid, s.team.lrec.troot, s.team.lrec.dstab, va, kind⟩) s

/-- Drops the results that were held for someone who has now used them (R262). -/
def State.dropHeld (s : State) (vas : List Nat) (who : WalkFor := s.me) : State :=
  s.onCore fun c => { c with walkOuts := c.walkOuts.filter fun h =>
    !(h.owner == who && h.asid == s.team.lrec.asid && has (vas.map walkPage) h.page) }

/-- Drops every result that was held for someone. -/
def State.dropOwned (s : State) (who : WalkFor) : State :=
  s.onCore fun c => { c with walkOuts := c.walkOuts.filter (·.owner != who) }

/-- Results that were held for an instruction are held for the operation that it issues. -/
def State.giveHeld (s : State) (vas : List Nat) (old new : WalkFor) : State :=
  s.onCore fun c => { c with walkOuts := c.walkOuts.map fun h =>
    if h.owner = old ∧ h.asid = s.team.lrec.asid ∧ has (vas.map walkPage) h.page then { h with owner := new } else h }

/-- Whether an event belongs to a walk for one of those who need it no longer. -/
def walkFor (p : WalkFor → Bool) : Instr → Bool
  | .walkComplete r | .pageServiceResolve r => p r.owner
  | _ => false

/-- Whether a walk is for a group of a team, or for an operation of it at a core. -/
def Core.walksFor (c : Core) (p : TeamId → Bool) : WalkFor → Bool
  | .group _ g => p g.team
  | .engine id => c.engine.any fun o => o.id == id && p o.team
  | .unit id => c.units.any fun o => o.id == id && p o.gid.team
  | .launch _ _ | .grid _ => false

/-- Walks, and results that are held, for those who need them no longer end; free walkers take what is queued (R268). -/
def State.dropWalks (s : State) (p : WalkFor → Bool) : State :=
  let keep (r : WalkReq) : Bool := !p r.owner
  let s := s.mapCores fun c => { c with walks := c.walks.filter keep, walkOuts := c.walkOuts.filter fun h => !p h.owner }
  let s : State := { s with
    clusters := s.clusters.map fun (c : Cluster) => { c with walkWait := c.walkWait.filter keep }
    agenda := s.agenda.filter (!walkFor p ·)
    timers := s.timers.filter fun t => !walkFor p t.2 }
  (s.dies.filter fun d => (d.walking.any fun w => p w.req.owner) || d.walkQueue.any fun r => p r.owner).foldl (fun s d =>
    let s := s.onDie d.num fun x => { x with
      walking := x.walking.filter fun w => keep w.req, walkQueue := x.walkQueue.filter keep
      faultRecs := x.faultRecs.filter fun r => keep r.2 }
    (List.range d.walking.length).foldl (fun s _ => s.nextWalk d.num) s) s

/-- The instruction issues only when every address has its translation; otherwise the walks are asked for and the group
waits before it (R262). -/
def State.translated (s : State) (vas : List Nat) (kind : Nat) (k : State → State) : State :=
  let need := s.missing vas (kind == 5)
  if need.isEmpty then k s else (s.askWalks need kind).waitBefore (.walks s.core.id)

/-- The physical address of a virtual address under a leaf (R255). -/
def Leaf.phys (l : Leaf) (va : Nat) : Nat :=
  let off := va - l.va
  if l.attr = 1 then
    let i := off / 2 ^ 16
    let n := l.dset.length
    paOf (l.dset.getD (i % n) 0) (paOffset l.frame + i / n * 2 ^ 16 + off % 2 ^ 16)
  else l.frame + off

/-! ### Fetching lines (R157, R159, R266) -/

/-- The line address of a program counter (R98). -/
def lineOf (pc : Nat) : Nat := pc / 64 * 64

/-- What a fetch of a line gives: its 64 bytes, or the trap of R157 and R266. -/
inductive FetchOut where
  | line (bs : List Byte)
  | bad (t : Trap)
  deriving DecidableEq, Repr

/-- Whether a watch entry is enabled for an access that its bit `sel` selects, and a byte from `a` lies in its range
(R437): RD is bit 61, WR bit 60 and X bit 59. -/
def watchCovers (w : DWord) (isLocal : Bool) (sel : Nat) (a n : Nat) : Bool :=
  let size := 2 ^ (bits w.toNat 58 56 + 2)
  let base := bits w.toNat 55 0 / size * size
  w.getLsbD 63 && w.getLsbD 62 == isLocal && w.getLsbD sel && decide (base < a + n) && decide (a < base + size)

/-- Fetches a line whose translation is held (R157, R160, R246, R264, R266). A line in a poisoned sector, or whose PARITY is wrong
after the refetch, gives POISON with DETAIL 5. -/
def State.fetchLine (s : State) (line : Nat) : FetchOut :=
  match s.lookup line with
  | some (.leaf l) =>
    if !l.x then .bad { kind := 7, detail := 4, addr := BitVec.ofNat 64 line }
    else if paSpace (l.phys line) = 1 then .bad { kind := 7, detail := 2, addr := BitVec.ofNat 64 line }
    else
      let a := l.phys line
      let bs := s.bytes a 64
      if has s.memPoison (a / 32) || has s.memPoison (a / 32 + 1) || l.por || !parityOk bs then
        .bad (poisonTrap 5)
      else if s.core.watch.any (fun w => watchCovers w false 59 line 64) then
        .bad { kind := 0x11, addr := BitVec.ofNat 64 line }
      else .line bs
  | some .malformed => .bad { kind := 6, detail := 1, addr := BitVec.ofNat 64 line }
  | some .sparse => .bad { kind := 6, detail := 4, addr := BitVec.ofNat 64 line }
  | _ => .bad { kind := 6, detail := 2, addr := BitVec.ofNat 64 line }

end Sys2Proof.Machine
end

