-- ==== Sys2Proof/Machine/Wait.lean ====
section
/-! DEFINITION. What a group's waits depend on, and when each is over: the segment that a core holds for a grid, tiles and their states, matrix engines and their queues, the orders among accesses, the Hutch, and walks (R108 to R112, R145 to R153, R247, R262, R312, R317, R339, R359, R363 to R365, R450, R563, R611). -/

namespace Sys2Proof.Machine

/-! ### The segment at a route's end (R247, R450) -/

/-- What a peer access finds at a core: the team of its grid that was placed first, a placeholder, or nothing. -/
inductive PeerEnd where
  | team (t : TeamId)
  | placeholder
  | nobody
  deriving DecidableEq, Repr

/-- Resolves a grid on a core from its teams and placeholders (R247, R450). -/
def peerEnd (g : GridId) (ts : List Team) (saved : List (TeamId × Nat)) : PeerEnd :=
  let here := (ts.filter (·.id.grid == g)).map fun t => (t.placed, PeerEnd.team t.id)
  let gone := (saved.filter (·.1.grid == g)).map fun p => (p.2, PeerEnd.placeholder)
  match here ++ gone with
  | [] => .nobody
  | p :: ps => (ps.foldl (fun a b => if b.1 < a.1 then b else a) p).2

/-- What a grid's peer access finds on the core in focus. -/
def State.peerEnd (s : State) (g : GridId) : PeerEnd := Sys2Proof.Machine.peerEnd g s.coreTeams s.core.saved

/-- Acts on another core and comes back to the core, team and group in focus. -/
def State.atCore (s : State) (c : CoreId) (f : State → State) : State :=
  if c = s.core.id then f s
  else ((f (s.focusCore c)).focusCore s.core.id).focusGroup s.gid

/-- A core by name, in focus or not. -/
def State.coreOf (s : State) (c : CoreId) : Core :=
  if s.core.id = c then { s.core with teams := s.coreTeams } else (s.cores.find? (·.id == c)).getD (s.blankCore c)

/-- The team of a grid that was placed first on a core, if it is resident. -/
def State.firstTeam (s : State) (g : GridId) (c : CoreId) : Option Team :=
  let k := s.coreOf c
  match Sys2Proof.Machine.peerEnd g k.teams k.saved with
  | .team t => k.teams.find? (·.id == t)
  | _ => none

/-! ### Entries (R145) -/

/-- STATE: 0 EMPTY, 1 FILLING, 2 READY, 3 DRAINING. -/
def tileState (e : DWord) : Nat := bits e.toNat 63 62
/-- DEF. -/
def tileDef (e : DWord) : Bool := e.getLsbD 61
/-- OWNER. -/
def tileOwner (e : DWord) : Nat := bits e.toNat 60 60
/-- FMT. -/
def tileFmt (e : DWord) : Nat := bits e.toNat 59 56
/-- BASE. -/
def tileBase (e : DWord) : Nat := bits e.toNat 55 46
/-- EROWS. -/
def tileErows (e : DWord) : Nat := bits e.toNat 34 27
/-- ECOLS. -/
def tileEcols (e : DWord) : Nat := bits e.toNat 26 19
/-- BAR. -/
def tileBar (e : DWord) : Nat := bits e.toNat 16 0

/-- An entry in another state. -/
def tileTo (e : DWord) (st : Nat) : DWord := (e &&& 0x3FFFFFFFFFFFFFFF) ||| BitVec.ofNat 64 (st * 2 ^ 62)

/-- The Shelf entry of a team by number; none where the launch record declares none (R609). -/
def Team.tile (t : Team) (n : Nat) : Option DWord := (t.shelf.find? (·.1 == n)).map (·.2)

/-- A defined entry (R149). -/
def Team.defTile (t : Team) (n : Nat) : Option DWord := (t.tile n).filter tileDef

/-- Stores an entry of the team in focus. -/
def State.putTile (s : State) (n : Nat) (e : DWord) : State :=
  { s with team := { s.team with shelf := s.team.shelf.map fun t => if t.1 = n then (n, e) else t } }

/-- Whether no group of a role remains unended (R149). -/
def roleEnded (gs : List Group) (role : Nat) : Bool := gs.all fun g => g.role != role || g.gst == .ended

/-- Whether a running macro-op holds a tile of the team in focus (R362, R477). -/
def State.tileHeld (s : State) (n : Nat) : Bool :=
  s.quads.any fun q => q.running.any fun m =>
    m.core == s.core.id && m.team == s.team.id && m.tile == n && m.kind != .zero

/-! ### Engines (R359, R365) -/

/-- A quad's engine. -/
def State.quad (s : State) (d n : Nat) : Quad := (s.quads.find? fun q => q.die == d && q.num == n).getD { die := d, num := n }

/-- Stores an engine. -/
def State.putQuad (s : State) (q : Quad) : State :=
  { s with quads := q :: s.quads.filter fun x => !(x.die == q.die && x.num == q.num) }

/-- The quad that opA names within the control core's cluster (R19, R360). -/
def State.clusterQuad (s : State) (k : Nat) : Nat :=
  match s.core.id with
  | .ctl _ n => (n / 16 * 2 + k / 2) * 32 + n % 16 * 2 + k % 2
  | _ => 0

/-- The redirect entry of a quad, as the panel map of its die holds it; before a boot has published one, as the die's defects give it
(R45, R365). -/
def State.redirect (s : State) (d quad : Nat) : Nat :=
  if s.pub.isNone then (s.die d).redirectEntry quad
  else s.readNat (paOf d (127 * 2 ^ 30) + 0x1000000 * (d + 1) + 0x11000 + 2 * quad) 2

/-- REDIR of an entry. -/
def redirSet (e : Nat) : Bool := bit e 15
/-- NONE of an entry. -/
def redirNone (e : Nat) : Bool := bit e 14

/-- The engine that serves a quad (R365). -/
def State.serving (s : State) (d quad : Nat) : Nat :=
  let e := s.redirect d quad
  if redirSet e then bits e 9 0 else quad

/-- The four cores of a quad, in QCORE order (R19). -/
def State.quadCores (s : State) (d quad : Nat) : List CoreId :=
  (List.range 4).map fun q =>
    let col := quad % 32 * 2 + q % 2
    .vec d col (((s.die d).prow col (quad / 32 * 2 + q / 2)).getD 66)

/-- An accumulator of a quad: in the serving engine's second bank when the quad is redirected (R365, R472). -/
def State.acc (s : State) (d quad n : Nat) : Acc :=
  let q := s.quad d (s.serving d quad)
  (if redirSet (s.redirect d quad) then q.bank2 else q.accs).getD n {}

/-- Stores an accumulator. -/
def State.putAcc (s : State) (d quad n : Nat) (a : Acc) : State :=
  let q := s.quad d (s.serving d quad)
  s.putQuad (if redirSet (s.redirect d quad) then { q with bank2 := q.bank2.set n a } else { q with accs := q.accs.set n a })

/-- The even one of a pair. -/
def pairOf (n : Nat) : Nat := n / 2 * 2

/-- Whether a macro-op of a control core on an accumulator of a quad is not complete (R363, R473, R563). -/
def State.macroPending (s : State) (p : MacroOp → Bool) : Bool :=
  s.quads.any fun q => (q.queue ++ q.redir ++ q.running.toList).any fun m => m.ctl == s.core.id && p m

/-- Whether two accumulators share an element: the same, or a pair tagged F64. -/
def State.sameAcc (s : State) (d quad x y : Nat) : Bool :=
  x == y || (pairOf x == pairOf y && ((s.acc d quad (pairOf x)).tag == .f64 || (s.acc d quad y).tag == .f64))

/-! ### Order among a group's accesses (R312, R317, R538) -/

/-- Instructions that read or write memory, as the orders of R312 and R317 see them. -/
def isAccess : Instr → Bool
  | .ld _ | .st _ | .ldu _ | .ldl _ | .stl _ | .ldp _ | .stp _ | .atom _ | .atoml _ | .atomp _
  | .pref _ | .renew _ | .expire _ | .flush _ | .spill _ | .fill _ | .fence _
  | .xcpy _ | .xgather _ | .xscatter _ | .xreduce _ | .xfill _ | .xpeer _ | .psend _ | .precv _
  | .bararv _ | .barwait _ | .bartest _ | .semsig _ | .semwait _ | .binput _ | .binget _ | .launch _ => true
  | _ => false

/-- Accesses that a FENCE.REL holds back: those that write, and a later FENCE (R317, R538). -/
def isStoring : Instr → Bool
  | .st _ | .stl _ | .stp _ | .atom _ | .atoml _ | .atomp _ | .flush _ | .spill _ | .fence _
  | .xcpy _ | .xgather _ | .xscatter _ | .xreduce _ | .xfill _ | .xpeer _ | .psend _
  | .bararv _ | .semsig _ | .binput _ | .launch _ => true
  | _ => false

/-- Whether an earlier acquire, an .AR access or a FENCE of the group holds back its later accesses: all of them, or those that write
(R312, R317, R538). -/
def State.orderHeld (s : State) (storing : Bool := false) : Bool :=
  s.grp.ops.any (·.blocks) || s.core.rels.any fun r => r.gid == some s.gid && (match r.cont with
    | .fence acq => acq || storing
    | _ => false)

/-- Whether an earlier access or FENCE of the group holds an access back (R312, R317, R538). -/
def State.orderBlocked (s : State) (i : Instr) : Bool := isAccess i && s.orderHeld (isStoring i)

/-- The bytes of the target store that a peer access touches. -/
def PeerKind.bytes : PeerKind → Nat
  | .load w n => w * n
  | .store w vs => w * vs.length
  | .atom _ _ wide _ _ => if wide then 8 else 4

/-- Whether a peer access of the group that waits for its release touches bytes that another would (R312). -/
def State.peerBusy (s : State) (dst : CoreId) (a n : Nat) : Bool :=
  s.core.rels.any fun r => r.gid == some s.gid && (match r.cont with
    | .peers _ ms => ms.any fun m => m.dst == dst && decide (m.addr < a + n) && decide (a < m.addr + PeerKind.bytes m.kind)
    | _ => false)

/-! ### The Hutch (R151, R152) -/

/-- A range enters the Hutch: the entry it raises or takes, or none when no entry is free. -/
def registerRange (hutch : List RangeLock) (team : Option TeamId) (first last : Nat) : Option (RangeLock × List RangeLock) :=
  match hutch.find? fun h => h.team == team && decide (h.first ≤ first) && decide (last ≤ h.last) with
  | some h => some (h, hutch.map fun x => if x = h then { x with count := x.count + 1 } else x)
  | none => if 32 ≤ hutch.length then none
    else let h : RangeLock := ⟨team, 1, first, last⟩
      some (h, hutch ++ [h])

/-- Ranges enter the Hutch one after another: the entries they hold. -/
def registerAll (hutch : List RangeLock) : List (Option TeamId × Nat × Nat) → Option (List RangeLock × List RangeLock)
  | [] => some ([], hutch)
  | r :: rs => do
    let x ← registerRange hutch r.1 r.2.1 r.2.2
    let y ← registerAll x.2 rs
    pure (x.1 :: y.1, y.2)

/-! ### Drains that MMAWAIT reports (R355, R563) -/

/-- The number of a status (R355). -/
def statusCode : Status → Nat
  | .ok => 0 | .bounds => 1 | .align => 2 | .page => 3 | .prot => 4 | .route => 5 | .cancel => 6 | .poison => 7

/-- The kind of trap by which MMAWAIT reports a drain (R563). -/
def drainTrap (st : Status) : Trap :=
  let n := statusCode st
  { kind := match st with
      | .bounds => 5 | .align => 4 | .page => 6 | .prot => 7 | .route => 0x0D | _ => 8
    detail := BitVec.ofNat 8 n }

/-- Whether a MMAWAIT for an accumulator, or for all, still waits: a macro-op or a drain that it covers has not completed (R563). -/
def State.macroCovers (s : State) (acc : Option (Nat × Nat)) (quad n : Nat) : Bool :=
  match acc with
  | none => true
  | some a => quad == a.1 && s.sameAcc (CoreId.die s.core.id) a.1 n a.2

/-- Whether a MMAWAIT still waits. -/
def State.drainsDue (s : State) (acc : Option (Nat × Nat)) : Bool :=
  s.macroPending (fun m => s.macroCovers acc m.quad m.acc) || s.core.drains.any fun d => s.macroCovers acc d.quad d.acc && d.status.isNone

/-- The earliest drain that failed of those that a MMAWAIT covers. -/
def State.failedDrain (s : State) (acc : Option (Nat × Nat)) : Option Drain :=
  s.core.drains.find? fun d => s.macroCovers acc d.quad d.acc && d.status != some .ok

/-- A failed drain has been reported (R563). -/
def State.reported (s : State) (d : Drain) : State := s.onCore fun c => { c with drains := c.drains.filter (·.op != d.op) }

/-- The drains that a MMAWAIT covers are done with. -/
def State.drainsSeen (s : State) (acc : Option (Nat × Nat)) : State :=
  s.onCore fun c => { c with drains := c.drains.filter fun d => !s.macroCovers acc d.quad d.acc }

/-! ### When a wait is over (R109, R110) -/

/-- A wait for room in LOADS (R339). -/
def WaitFor.loads : WaitFor := .room 62 63 255 15
/-- A wait for room in STORES for an access that raises it more than once, or for its fall to 0 (R339, log entry 81). -/
def WaitFor.stores (more : Nat := 0) : WaitFor := .room 63 (62 - more) 255 15
/-- A wait for room in COPIES, and in TILES for a command that binds a tile (R339). -/
def WaitFor.copies (binds : Bool) : WaitFor := .room 63 63 254 (if binds then 14 else 15)
/-- A wait for room in TILES (R339). -/
def WaitFor.tiles : WaitFor := .room 63 63 255 14

/-- Whether the counters of a group have fallen to their limits (R339, R340). -/
def Group.within (g : Group) (l s c t : Nat) : Bool :=
  decide (g.loads ≤ l) && decide (g.stores ≤ s) && decide (g.copies ≤ c) && decide (g.tiles ≤ t)

/-- Whether a tile of the team in focus lets a command go on that waits for it: a fill, a drain, or a TILEREL (R147, R362, R611). -/
def State.tileFree (s : State) (n : Nat) (fill : Option Bool) : Bool :=
  match s.team.tile n with
  | none => true
  | some e =>
    let ready := tileState e == 2 && !s.tileHeld n
    match fill with
    | some true => tileState e == 0
    | some false => ready
    | none => tileState e == 0 || ready

/-- Whether the tile that a control core names is READY, or never will be (R110, R149). -/
def State.tileAtDue (s : State) (c : CoreId) (t : TeamId) (n : Nat) : Bool :=
  match ((s.coreOf c).teams.find? (·.id == t)).bind fun x => (x.defTile n).map fun e => (x, e) with
  | none => true
  | some (x, e) => tileState e == 2 || (tileState e == 0 && roleEnded x.groups (tileOwner e))

/-- The queue of an engine that serves a quad: its own, or the redirected one (R363, R365). -/
def State.macroQueue (s : State) (quad : Nat) : List MacroOp :=
  let d := CoreId.die s.core.id
  let q := s.quad d (s.serving d quad)
  if redirSet (s.redirect d quad) then q.redir else q.queue

/-- Whether the engine and the Hutch of a core have room for an operation with ranges (R152, R339). -/
def State.engineRoom (s : State) (c : CoreId) (ranges : List (Option TeamId × Nat × Nat)) : Bool :=
  decide ((s.coreOf c).engine.length < 256) && (registerAll (s.coreOf c).hutch ranges).isSome

/-- Whether what the group in focus waits for has come, for the waits that end so. A wait for a line is judged at its home. -/
def State.waitDue (s : State) (w : WaitFor) : Bool :=
  let g := s.grp
  match w with
  | .rows rs => !g.rowAwaited rs && (g.inHandler || g.lanes.all (·.st != .parked))
  | .walks c => !((s.coreOf c).walks.any (·.owner == s.me))
  | .room l st c t | .counters l st c t => g.within l st c t
  | .engine c rs => s.engineRoom c rs
  | .starts ls => !g.ops.any fun o => o.lines.any (has ls)
  | .peers dst a n => !s.peerBusy dst a n
  | .order storing => !s.orderHeld storing
  | .tile n fill => s.tileFree n fill
  | .tileAt c t n => s.tileAtDue c t n
  | .queue quad => decide ((s.macroQueue quad).length < 16)
  | .macroOps quad acc => !s.macroPending fun m => m.quad == quad && s.sameAcc (CoreId.die s.core.id) quad m.acc acc
  | .quarters => decide (s.core.quarters.length < 2)
  | .epoch n => (s.die (CoreId.die s.core.id)).rebases.toNat != n
  | .release pc => !s.core.rels.any fun r => r.gid == some s.gid && r.cont == .reissue pc
  | .rendezvous => g.loads == 0 && g.stores == 0 && !g.joined
  | .drained acc => !s.drainsDue acc
  | .line _ | .start | .startAt _ | .barrier _ _ _ | .deadline _ | .sem _ _ _ _ _ _ | .sleep _ | .precv _ | .reply _ => false

/-- A MMAWAIT whose macro-ops and drains have completed: it completes, or traps for the earliest drain that failed (R563). -/
def State.endDrained (s : State) (acc : Option (Nat × Nat)) : State :=
  match s.failedDrain acc with
  | some d => (s.reported d).trapWaiters (drainTrap (d.status.getD .ok))
  | none => (s.drainsSeen acc).wake

/-- The group in focus looks again at what it waits for (R109, R110, R340). -/
def State.poll (s : State) : State :=
  match s.grp.gst, s.grp.wait with
  | .waiting, some w =>
    if !s.waitDue w.what then s
    else if w.what.retries then (s.onGrp Group.retry).settle
    else match w.what with
      | .rendezvous => s.send (.regroupJoin s.core.id s.gid)
      | .drained acc => s.endDrained acc
      | _ => s.wake
  | _, _ => s

end Sys2Proof.Machine
end

