-- ==== Sys2Proof/Machine/Cache.lean ====
section
/-! DEFINITION. A core's side of timestamp coherence: logical clocks, copies, copy-back, requests, outstanding operations, and the shared functions Release and Acquire (R276 to R290, R297, R298, R312 to R315, R325, R326). -/

namespace Sys2Proof

/-- A stored timestamp as it reads in epoch `e` (R297). A stamp that is behind by 2 or more reads 0. -/
def Stamp.read (t : Stamp) (e : BitVec 2) : Nat :=
  match (e - t.ep).toNat with
  | 0 => t.tick
  | 1 => t.tick - 0x800000
  | _ => 0

/-- Whether a stamp is behind by 2 or more (R277, R297). -/
def Stamp.lost (t : Stamp) (e : BitVec 2) : Bool := decide (2 ≤ (e - t.ep).toNat)

/-- Whether a scope is DIE or wider (R287). -/
def Scope.wide : Scope → Bool
  | .group | .core => false
  | _ => true

/-- The scope of an encoding (R7). -/
def Scope.ofCode (k : Nat) : Scope :=
  match k with
  | 0 => .group | 1 => .core | 2 => .die | 3 => .panel | _ => .system

/-- The line of an atomic's address. -/
def AtomMsg.line (m : AtomMsg) : Nat := m.addr / 128
/-- The line of a contribution's element. -/
def Contribution.line (m : Contribution) : Nat := m.addr / 128

end Sys2Proof

namespace Sys2Proof.Machine

/-! ### Logical time (R278, R279, R297, R298) -/

/-- The current epoch of the die of the core in focus. -/
def State.ep (s : State) : BitVec 2 := (s.die (CoreId.die s.core.id)).epoch

/-- `%now` as a number of ticks. -/
def State.nowTick (s : State) : Nat := s.core.now.read s.ep

/-- `%horizon` as a number of ticks. -/
def State.horizonTick (s : State) : Nat := s.grp.horizon.read s.ep

/-- The largest stored timestamp (R297, R301). -/
def tickMax : Nat := 0xFFFFFF

/-- REQ (R298, R308): a rebase is requested in host-assisted mode and awaits START. -/
def Die.awaitsStart (d : Die) : Bool := d.rebaseReq && d.hostRb && !d.rebaseGo

/-- Starts a rebase: the start goes to every present die (R298, R299). -/
def State.startRebase (s : State) (e : BitVec 2) : State :=
  { s with agenda := s.agenda ++ s.present.map fun d => .rebaseStart d e }

/-- Whether the module is not done with a rebase: a die has yet to take its start, or still sweeps (R298, R299). -/
def State.rebasing (s : State) : Bool :=
  s.present.any (fun d => (s.die d).sweeping)
    || (s.arrived ++ s.agenda).any fun m => match m with | .rebaseStart d _ => !s.dieAbsent d | _ => false

/-- Requests a rebase for a die (R298). In hardware mode it starts at once unless a die is still sweeping; in
host-assisted mode REQ is set. -/
def State.requestRebase (s : State) (d : Nat) : State :=
  let x := s.die d
  if x.rebaseReq then s
  else
    let s := s.onDie d fun x => { x with rebaseReq := true }
    if x.hostRb || s.rebasing then s else s.startRebase (x.epoch + 1)

/-- Requests a rebase when a timestamp reaches 0xC0_0000 (R298). -/
def State.noteTick (s : State) (d n : Nat) : State := if 0xC00000 ≤ n then s.requestRebase d else s

/-- The run ends before an instruction for which `%now` cannot rise, and the group waits for the rebase (R301). -/
def State.waitRebase (s : State) : State :=
  let d := CoreId.die s.core.id
  (s.requestRebase d).waitBefore (.epoch (s.die d).rebases.toNat)

/-- Sets `%now` (R279). -/
def State.setNow (s : State) (n : Nat) : State :=
  (s.onCore fun c => { c with now := ⟨s.ep, n⟩ }).noteTick (CoreId.die s.core.id) n

/-- `%now` := max(`%now`, t). -/
def State.raiseNow (s : State) (t : Nat) : State := if s.nowTick < t then s.setNow t else s

/-- `%horizon` := max(`%horizon`, t) for the group in focus (R278). -/
def State.raiseHorizon (s : State) (t : Nat) : State :=
  if s.horizonTick < t then s.onGrp fun g => { g with horizon := ⟨s.ep, t⟩ } else s

/-- Acquire(scope) (R287). -/
def State.acquire (s : State) (sc : Scope) : State := if sc.wide then s.raiseNow s.horizonTick else s

/-! ### Messages that go on (R275, R299) -/

/-- Messages that have reached their home or die are handled next, in their order (R275). -/
def State.requeue (s : State) (ms : List Instr) : State := { s with arrived := ms ++ s.arrived }

/-- A message tagged with an epoch that its die has not taken makes the die take the start first (R299). -/
def State.early (s : State) (d : Nat) (t : Stamp) : Bool := ((s.die d).epoch - t.ep).toNat == 3

/-- Handles a message at a die, after the start that its tag brings (R299). -/
def State.onTime (s : State) (d : Nat) (t : Stamp) (m : Instr) (k : State → State) : State :=
  if s.early d t then s.requeue [.rebaseStart d t.ep, m] else k s

/-! ### Bytes of a line -/

/-- The byte mask of `n` bytes from an offset. -/
def spanMask (off n : Nat) : BitVec 128 := BitVec.ofNat 128 ((2 ^ n - 1) * 2 ^ off)

/-- `n` bytes of a line from an offset, as a number. -/
def lineNat (b : BitVec 1024) (off n : Nat) : Nat := b.toNat / 2 ^ (8 * off) % 2 ^ (8 * n)

/-- A byte mask as a mask of bits. -/
def spread (m : BitVec 128) : BitVec 1024 :=
  BitVec.ofNat 1024 ((List.range 128).foldl (fun x k => if m.getLsbD k then x + 255 * 2 ^ (8 * k) else x) 0)

/-- The bytes under a mask replaced. -/
def mergeBytes (m : BitVec 128) (old new : BitVec 1024) : BitVec 1024 := (old &&& ~~~spread m) ||| (new &&& spread m)

/-- The marked bytes of word `k`. -/
def wordMask (m : BitVec 128) (k : Nat) : Nat := m.toNat / 2 ^ (4 * k) % 16

/-- The words that satisfy a condition, as bits. -/
def wordBits (p : Nat → Bool) : BitVec 32 :=
  BitVec.ofNat 32 ((List.range 32).foldl (fun x k => if p k then x + 2 ^ k else x) 0)

/-- DIRTY of a byte mask (R276). -/
def dirtyWords (m : BitVec 128) : BitVec 32 := wordBits fun k => wordMask m k != 0

/-- Sector poison spread to its eight elements (R290). -/
def sectorWords (p : BitVec 4) : BitVec 32 := wordBits fun k => p.getLsbD (k / 8)

/-- Whether any word that `n` bytes from an offset touch is marked. -/
def touchesWords (p : BitVec 32) (off n : Nat) : Bool :=
  (List.range 32).any fun k => p.getLsbD k && decide (4 * k < off + n) && decide (off < 4 * k + 4)

/-! ### Copies (R276, R277, R283, R285, R286) -/

/-- The core's copy of a line. -/
def State.copyOf (s : State) (line : Nat) : Option Copy := s.core.copies.find? (·.line == line)

/-- Stores a copy, in place of the one of its line. -/
def State.putCopy (s : State) (c : Copy) : State :=
  s.onCore fun x => { x with copies := c :: x.copies.filter (·.line != c.line) }

/-- Drops the copy of a line. A load that waits for its reply has kept what it needs (R277, R288). -/
def State.dropCopy (s : State) (line : Nat) : State :=
  s.onCore fun x => { x with copies := x.copies.filter (·.line != line) }

/-- A store into a copy (R277, R285); poison follows R127. -/
def Copy.store (c : Copy) (p : StorePart) : Copy :=
  { c with
    bytes := mergeBytes p.mask c.bytes p.bytes
    mask := c.mask ||| p.mask
    poison := wordBits fun k =>
      if wordMask p.mask k = 15 then p.poison.getLsbD k
      else if wordMask p.mask k = 0 then c.poison.getLsbD k
      else c.poison.getLsbD k || p.poison.getLsbD k }

/-- A fill: bytes marked in BMASK are kept (R277). -/
def Copy.fill (c : Copy) (bytes : BitVec 1024) (poison : BitVec 4) : Copy :=
  let q := sectorWords poison
  { c with
    clean := true
    bytes := mergeBytes c.mask bytes c.bytes
    poison := wordBits fun k =>
      if wordMask c.mask k = 15 then c.poison.getLsbD k
      else if wordMask c.mask k = 0 then q.getLsbD k
      else c.poison.getLsbD k || q.getLsbD k }

/-- What is left of a copy that loses its lease with the starts that its core missed: its dirty words (R277, R302). -/
def Copy.lose (c : Copy) : Option Copy :=
  if c.st == .p then some c else if c.mask = 0 then none else some { c with st := .w, clean := false, repl := false }

/-- A W copy with no dirty word left becomes I (R277, R286). -/
def State.settleCopy (s : State) (line : Nat) : State :=
  s.onCore fun c => { c with copies := c.copies.filter fun x => !(x.line == line && x.st == .w && x.mask == 0) }

/-- Whether a V copy's lease covers `%now` (R277). -/
def State.leased (s : State) (c : Copy) : Bool :=
  c.clean && c.st == .v && (c.repl || (!c.rts.lost s.ep && decide (s.nowTick ≤ c.rts.read s.ep)))

/-- Copies back the marked bytes of a line (R285, R286): sends the CPBK and answers its number. -/
def State.copyBack (s : State) (line : Nat) : List Nat × State :=
  match s.copyOf line with
  | none => ([], s)
  | some c =>
    if c.mask = 0 then ([], s)
    else
      let (r, s) := s.newId
      let m : CpbkMsg := { line := line, who := .core s.core.id, mask := c.mask, bytes := c.bytes,
                           poison := c.poison &&& dirtyWords c.mask, now := s.core.now, ref := r }
      ([r], ((s.putCopy { c with mask := 0 }).onCore fun x => { x with acks := r :: x.acks }).send (.cpbk m))

/-- Copies back every dirty line of the core. -/
def State.copyBackAll (s : State) : State :=
  (s.core.copies.filter (·.mask != 0)).foldl (fun s c => (s.copyBack c.line).2) s

/-- Sends bytes home at once without a copy: the store of a no-allocate access (R283, R285). -/
def State.sendStore (s : State) (p : StorePart) : Nat × State :=
  let (r, s) := s.newId
  let m : CpbkMsg := { line := p.line, who := .core s.core.id, mask := p.mask, bytes := p.bytes,
                       poison := p.poison &&& dirtyWords p.mask, now := s.core.now, ref := r }
  (r, (s.onCore fun x => { x with acks := r :: x.acks }).send (.cpbk m))

/-- Evicts the copy of a line after its copy-back (R277). -/
def State.evict (s : State) (line : Nat) : State := (s.copyBack line).2.dropCopy line

/-- Makes room for one more copy (R133, R256, R277): whether there is room. A streaming copy goes first and a P copy
never; which of the others goes is left open (log entry 9). -/
def State.makeRoom (s : State) : Bool × State :=
  if s.core.copies.length < s.core.partRows then (true, s)
  else
    let cands := s.core.copies.filter (·.st != .p)
    let first := cands.filter (·.stream)
    let from' := if first.isEmpty then cands else first
    match from' with
    | [] => (false, s)
    | c :: _ =>
      let (k, s) := s.drawNat from'.length
      (true, s.evict (from'.getD k c).line)

/-! ### Requests (R281, R282, R327) -/

/-- Sends READ, or RENEWQ when clean data is held, and answers the request's number. -/
def State.askLine (s : State) (a : LineAcc) (c : Option Copy) (promote : Option Scope) : Nat × State :=
  let (r, s) := s.newId
  let has' := c.any (·.clean)
  let m : LineReq := { line := a.line, src := s.core.id, now := s.core.now, wts := (c.map (·.wts)).getD ⟨s.ep, 0⟩,
                       lease := a.lease, promote := promote, page := a.page, ref := r, fill := none }
  (r, s.send (if has' then .renewq m else .read m))

/-- Puts a line's copy into P for a request, if a copy is kept. -/
def State.enterP (s : State) (a : LineAcc) (r : Nat) : State :=
  match s.copyOf a.line with
  | some c => s.putCopy { c with st := .p, ref := r, stream := a.stream }
  | none =>
    if a.noAlloc then s
    else
      match s.makeRoom with
      | (true, s) => s.putCopy { line := a.line, st := .p, ref := r, stream := a.stream }
      | (false, s) => s

/-- The lookup of one line by a load (R281, R283, R327): none for a hit, or the request to wait for. -/
def State.lookLine (s : State) (a : LineAcc) (promote : Option Scope) : Option Nat × State :=
  let c := s.copyOf a.line
  let all := c.any fun c => a.mask &&& ~~~c.mask == 0
  if promote.isSome then
    let (r, s) := s.askLine a c promote
    (some r, if a.noAlloc then s else s.enterP a r)
  else if all then (none, s)
  else if a.noAlloc then
    let (r, s) := s.askLine a none none
    (some r, s)
  else
    match c with
    | some c =>
      if c.st = .p then (some c.ref, s)
      else if s.leased c then (none, s)
      else
        let (r, s) := s.askLine a (some c) none
        (some r, s.enterP a r)
    | none =>
      let (r, s) := s.askLine a none none
      (some r, s.enterP a r)

/-- The value of an element from a copy, with its poison mark. -/
def Elem.from (e : Elem) (c : Copy) : Elem :=
  { e with wait := none
           val := (BitVec.ofNat 64 (lineNat c.bytes e.off e.w), e.por || touchesWords c.poison e.off e.w) }

/-! ### Outstanding operations (R313, R338) -/

/-- Changes an outstanding operation of the group in focus. -/
def State.onOp (s : State) (id : Nat) (f : MemOp → MemOp) : State :=
  s.onGrp fun g => { g with ops := g.ops.map fun o => if o.id = id then f o else o }

/-- Adds an outstanding operation and raises its counter (R338). -/
def State.addOp (s : State) (o : MemOp) : State :=
  s.onGrp fun g => { g with
    ops := g.ops ++ [o]
    loads := if o.counted && o.load then g.loads + 1 else g.loads
    stores := if o.counted && !o.load then g.stores + 1 else g.stores }

/-- Whether an operation is performed. -/
def MemOp.finished (o : MemOp) : Bool := o.started && o.waits.isEmpty && o.due.isEmpty && o.elems.all (·.wait.isNone)

/-- Writes an element to its registers (R554, R556). -/
def State.writeUniElem (s : State) (t : Ty) (e : Elem) : State :=
  match s.kind with
  | .vector => s.writeS e.reg t.wide (t.fill e.val.1) e.val.2
  | _ => s.writeS e.reg t.wide (if t.signed then sext t.width e.val.1 else low t.width e.val.1) e.val.2

/-- The element writes of a lane. -/
def Elem.writes (t : Ty) (e : Elem) : List LaneWrite :=
  (putVal e.reg t e.val.1).map fun w => ⟨w.1, e.lane, w.2.1, e.val.2⟩

/-- An operation is performed: its values are written, its rows are no longer pending, its counter falls, and an
acquire acts (R279, R313, R338, R555). -/
def State.finish (s : State) (o : MemOp) : State :=
  let s := if o.uni then o.elems.foldl (fun s e => s.writeUniElem o.ty e) s
    else s.writeLanes ((o.elems.map (Elem.writes o.ty)).flatten)
  let s := s.onGrp fun g => { g with
    ops := g.ops.filter (·.id != o.id)
    pend := g.pend.filter (fun p => p.who != .op o.id)
    loads := if o.counted && o.load then g.loads - 1 else g.loads
    stores := if o.counted && !o.load then g.stores - 1 else g.stores }
  match o.acq with
  | some sc => s.acquire sc
  | none => s

/-- Performs every operation of the group in focus that has nothing left to wait for. -/
def State.finishOps (s : State) : State := (s.grp.ops.filter MemOp.finished).foldl State.finish s

/-- The copy of a line as an operation saw it at its lookup. -/
def MemOp.snap (o : MemOp) (line : Nat) : Copy := (o.snaps.find? (·.line == line)).getD { line := line, st := .p }

/-- Binds the elements that wait for a request (R281, R555): bytes that the core had written at the lookup come from the copy
as it then stood, and the others from the reply `f` (R320, log entry 33). An acquire load raises `%now` (R279). -/
def State.bindOps (s : State) (line ref : Nat) (f : Copy → Copy) : State :=
  let hits := s.grp.ops.filter fun o => o.elems.any (·.wait == some ref)
  let s := s.onGrp fun g => { g with
    ops := g.ops.map fun o => { o with elems := o.elems.map fun e => if e.wait == some ref then e.from (f (o.snap line)) else e } }
  hits.foldl (fun s o =>
    let w := (f (o.snap line)).wts.read s.ep
    let s := s.raiseHorizon w
    if o.acq.isSome then s.raiseNow w else s) s

/-- A reply no longer waited for by any operation of the group. -/
def State.clearWait (s : State) (ref : Nat) : State :=
  s.onGrp fun g => { g with ops := g.ops.map fun o => { o with waits := o.waits.filter (· != ref) } }

/-! ### What follows a release -/

/-- Starts the lookups of a load (R279, R281, R555). -/
def State.startLoads (s : State) (op : Nat) (accs : List LineAcc) (promote : Option Scope) : State :=
  let acq := (s.grp.ops.find? (·.id == op)).any (·.acq.isSome)
  let s := if acq then s.setNow (s.nowTick + 1) else s
  let s := accs.foldl (fun s a =>
    let seen := (s.copyOf a.line).toList
    match s.lookLine a promote with
    | (some r, s) => s.onOp op fun o => { o with
        snaps := seen ++ o.snaps
        elems := o.elems.map fun e => if (e.line == a.line) && (e.wait == some 0) then { e with wait := some r } else e }
    | (none, s) =>
      match s.copyOf a.line with
      | some c =>
        let w := c.wts.read s.ep
        let s := (s.onOp op fun o => { o with elems := o.elems.map fun e =>
          if (e.line == a.line) && (e.wait == some 0) then e.from c else e }).raiseHorizon w
        if acq then s.raiseNow w else s
      | none => s) s
  s.onOp op fun o => { o with started := true, lines := [] }

/-- Performs the lines of a store (R283, R285, R288, R605). `wide` when it carries .REL or .AR at DIE scope or wider. -/
def State.storeLine (s : State) (op : Nat) (wide : Bool) (p : StorePart) : State :=
  let await' (s : State) (rs : List Nat) : State := s.onOp op fun o => { o with waits := rs ++ o.waits }
  let home (s : State) : State :=
    let (r, s) := s.sendStore p
    await' s [r]
  if p.noAlloc then
    match s.copyOf p.line with
    | some c =>
      let s := home s
      s.putCopy { c.store p with mask := c.mask &&& ~~~p.mask }
    | none => home s
  else
    let kept := match s.copyOf p.line with
      | some c => some (s.putCopy (c.store p))
      | none =>
        match s.makeRoom with
        | (true, s) => some (s.putCopy (Copy.store { line := p.line, st := .w, stream := p.stream } p))
        | (false, _) => none
    match kept with
    | none => home s
    | some s =>
      if wide then
        let (rs, s) := s.copyBack p.line
        await' s rs
      else s

/-- Sends an ordered contribution, whose acceptance a save awaits (R335, R447). -/
def State.contribute (s : State) (m : Contribution) : State :=
  (s.onCore fun c => { c with accepts := m.ref :: c.accepts }).send (.benchContribution m)

/-- What an atomic does at one line (R288, R483): the line's dirty words leave, its copy is dropped, and the messages follow. -/
def State.sendAtoms (s : State) (line : Nat) (msgs : List AtomMsg) (bench : List Contribution) : State :=
  let s := s.evict line
  let s := msgs.foldl (fun s m => s.send (.atomq { m with now := s.core.now })) s
  bench.foldl (fun s m => s.contribute { m with now := s.core.now }) s

/-- Registers the core as the holder of a line (R325): by the atomics of the line, or by a HOLD. -/
def State.register (s : State) (line ref : Nat) (msgs : List AtomMsg) (bench : List Contribution) : State :=
  if msgs.isEmpty && bench.isEmpty then s.send (.hold ⟨line, s.core.id, ref⟩) else s.sendAtoms line msgs bench

/-- The oldest entry of a full table is retired, and the line that takes its place is registered (R326). -/
def State.retireHeld (s : State) (old new ref : Nat) (msgs : List AtomMsg) (bench : List Contribution) : State :=
  (s.send (.unhold ⟨old, s.core.id, 0⟩)).register new ref msgs bench

/-- Enters a line in the held-line table for operation `op` (R325, R326): when the table is full its oldest entry is retired first, after
Release(PANEL). -/
def State.hold (s : State) (op line ref : Nat) (msgs : List AtomMsg) (bench : List Contribution) : State :=
  let enter (l : List Nat) (s : State) : State := s.onCore fun c => { c with heldLines := l ++ [line] }
  if has s.core.heldLines line then s.register line ref msgs bench
  else
    match s.core.heldLines with
    | old :: rest =>
      if rest.length < 31 then (enter (old :: rest) s).register line ref msgs bench
      else
        let s := (enter rest s).copyBackAll
        let before := s.grp.ops.filter fun o => !o.hold && decide (o.id < op)
        if s.core.acks.isEmpty && before.isEmpty && decide (s.nowTick < tickMax) then
          (s.setNow (s.nowTick + 1)).retireHeld old line ref msgs bench
        else s.onCore fun c => { c with rels := c.rels ++
          [{ gid := some s.gid, scope := .panel, release := true, acks := c.acks, ops := before.map (·.id), most := 0
             cont := .retire old line ref msgs bench, again := before.any fun o => !o.started }] }
    | [] => (enter [] s).register line ref msgs bench

/-- A HOLD for a line of a store that the table lacks (R325): STORES counts it until its HOLDACK. -/
def State.holdLine (s : State) (op line : Nat) : State :=
  if has s.core.heldLines line then s
  else
    let (id, s) := s.newId
    let (ref, s) := s.newId
    (s.addOp { id := id, load := false, waits := [ref], hold := true }).hold op line ref [] []

/-- Starts a store; with .REL or .AR at CORE scope its core becomes the holder of each line (R325). -/
def State.startStores (s : State) (op : Nat) (wide : Bool) (parts : List StorePart) (hold : Bool) : State :=
  let s := parts.foldl (fun s p => s.storeLine op wide p) s
  let s := s.onOp op fun o => { o with started := true, lines := [] }
  if hold then parts.foldl (fun s p => s.holdLine op p.line) s else s

/-- Starts an atomic, line by line (R288, R325, R483). -/
def State.startAtoms (s : State) (op : Nat) (msgs : List AtomMsg) (bench : List Contribution) : State :=
  let lines := (msgs.map (·.line) ++ bench.map (·.line)).eraseDups
  let s := lines.foldl (fun s line =>
    let ms := msgs.filter (·.line == line)
    let bs := bench.filter (·.line == line)
    if ms.any (·.holds) || bs.any (·.holds) then s.hold op line 0 ms bs else s.sendAtoms line ms bs) s
  s.onOp op fun o => { o with started := true, lines := [] }

/-- Loads that wait for a line's reply no longer bind the bytes of a mask from what the core had written before: its home has
them (R285, R324). -/
def State.forgetBytes (s : State) (line : Nat) (mask : BitVec 128) : State :=
  s.eachGroup fun s => s.onGrp fun g => { g with ops := g.ops.map fun o =>
    { o with snaps := o.snaps.map fun c => if c.line = line then { c with mask := c.mask &&& ~~~mask } else c } }

/-- YIELD (R286, R328): the core gives up the line with its dirty words. -/
def State.yield (s : State) (line : Nat) : State :=
  let c := (s.copyOf line).getD { line := line, st := .w }
  let s := s.onCore fun x => { x with
    heldLines := eraseN x.heldLines line
    copies := x.copies.map fun y => if y.line = line then { y with mask := 0 } else y }
  ((s.settleCopy line).forgetBytes line c.mask).send
    (.yield { line := line, core := s.core.id, mask := c.mask, bytes := c.bytes, poison := c.poison &&& dirtyWords c.mask, ynow := s.core.now })

/-- What follows a release or condition (R288, R314, R316, R317, R326, R328). -/
def State.follow (s : State) (r : Rel) : State :=
  let inGroup (f : State → State) : State := match r.gid with
    | some g => s.atGroup g f
    | none => s
  match r.cont with
  | .loads op accs promote => inGroup fun s => s.startLoads op accs promote
  | .stores op parts hold => inGroup fun s => s.startStores op (r.scope.wide && r.release) parts hold
  | .atoms op msgs bench => inGroup fun s => s.startAtoms op msgs bench
  | .peers op reqs => inGroup fun s =>
      (reqs.foldl (fun s m => s.sendRoute m.route (.peerAccessArrive { m with carry := m.carry.map fun _ => s.core.now })) s).onOp op
        fun o => { o with started := true, lines := [] }
  | .fence acq => if acq then inGroup fun s => s.acquire r.scope else s
  | .reissue pc => inGroup fun s => s.onGrp fun g => { g with relDone := some pc }
  | .retire old new ref msgs bench => s.retireHeld old new ref msgs bench
  | .yield line => s.yield line
  | .send m => s.send (match m with
    | .launchRequest d r => .launchRequest d { r with now := s.core.now }
    | m => m)
  | .sends ms => ms.foldl (fun s m => s.send (match m with
    | .binnerPacketArrive x => .binnerPacketArrive { x with packet := { x.packet with now := s.core.now } }
    | m => m)) s
  | .boundary g =>
      let s := s.core.heldLines.foldl (fun s l => s.send (.unhold ⟨l, s.core.id, 0⟩)) s
      let s := s.onCore fun c => { c with heldLines := [] }
      let me := s.core.id
      let left (x : Grid) : Grid := { x with closing := x.closing.map fun l => l.filter fun c => !(c == me) }
      let s := { s with grids := s.grids.map fun (x : Grid) => if x.id = g then left x else x }
      if s.grids.any (fun (x : Grid) => x.id == g && x.closing == some []) then s.send (.gridEnd g) else s
  | .preempted t =>
      let s' := s.focusTeam t
      { s' with team := { s'.team with pre := s'.team.pre.map fun p => { p with released := true } } }
  | .done => s

/-- By how much a release and what follows it at once raise `%now`: one for a release at DIE scope or wider, and one for an acquire
load (R279). -/
def State.relTicks (s : State) (r : Rel) : Nat :=
  let acq (op : Nat) : Bool := (r.gid.bind s.findGroup).any fun x => x.ops.any fun o => o.id == op && o.acq.isSome
  (if r.release && r.scope.wide then 1 else 0) + (match r.cont with
    | .loads op _ _ => if acq op then 1 else 0
    | _ => 0)

/-- Whether the accesses that a release or condition waits for have been performed. -/
def State.relOps (s : State) (r : Rel) : Bool :=
  match r.gid with
  | some g => !((s.findGroup g).any fun x => x.ops.any fun o => has r.ops o.id)
  | none => true

/-- Whether a release has more to copy back, once what it waited for has come: words that earlier accesses wrote after its start
(R315), and before a YIELD every word that the core wrote meanwhile outside the line (R328, R330). -/
def State.relMore (s : State) (r : Rel) : Bool :=
  r.again || match r.cont with
    | .yield line => !s.core.acks.isEmpty || s.core.copies.any fun c => c.mask != 0 && c.line != line
    | _ => false

/-- A release copies back again, and waits for every CPBKACK of the core. -/
def State.relAgain (s : State) (r : Rel) : State × Rel :=
  let spare (l : Nat) : Bool := match r.cont with
    | .yield line => l == line
    | _ => false
  let s := ((s.core.copies.filter fun c => c.mask != 0 && !spare c.line).map (·.line)).foldl (fun s l => (s.copyBack l).2) s
  (s, { r with acks := s.core.acks, again := false })

/-- Whether what a release or condition waits for has come, but for a rebase and for words still to be copied back. -/
def State.relCome (s : State) (r : Rel) : Bool := r.acks.isEmpty && s.relOps r

/-- Whether everything that a release or condition waits for has come, a rebase included where `%now` would pass the largest (R301). -/
def State.relReady (s : State) (r : Rel) : Bool :=
  s.relCome r && !s.relMore r && (s.relTicks r == 0 || decide (max s.nowTick r.most + s.relTicks r ≤ tickMax))

/-- A release completes: its clock step (R279, R287), and what follows. -/
def State.fire (s : State) (r : Rel) : State :=
  let s := if r.release && r.scope.wide then s.setNow (max s.nowTick r.most + 1) else s
  s.follow r

/-- Performs Release(scope), or waits for earlier accesses, and then goes on (R287, R315, R317). Words that an earlier access has still to
write are copied back once it has. -/
def State.release (s : State) (sc : Scope) (release : Bool) (ops : List Nat) (cont : Cont) : State :=
  let wide := release && sc.wide
  let s := if wide then s.copyBackAll else s
  let r : Rel := { gid := some s.gid, scope := sc, release := release, acks := if wide then s.core.acks else [], ops := ops, most := 0
                   cont := cont, again := wide && s.grp.ops.any fun o => has ops o.id && !o.started }
  if s.relReady r then s.fire r else s.onCore fun c => { c with rels := c.rels ++ [r] }

/-! ### Going on after a reply -/

/-- Performs what the core in focus can perform, release by release. -/
def State.pumpN : Nat → State → State
  | 0, s => s.eachGroup State.poll
  | n + 1, s =>
    let s := s.eachGroup State.finishOps
    match s.core.rels.findIdx? fun r => s.relReady r || (s.relCome r && s.relMore r) with
    | none => s.eachGroup State.poll
    | some k =>
      match s.core.rels[k]? with
      | none => s
      | some r =>
        if s.relReady r then ((s.onCore fun c => { c with rels := c.rels.eraseIdx k }).fire r).pumpN n
        else
          let (s, r) := s.relAgain r
          (s.onCore fun c => { c with rels := c.rels.set k r }).pumpN n

/-- What follows every reply to a core. -/
def State.pump (s : State) : State := s.pumpN (3 * s.core.rels.length + 8)

end Sys2Proof.Machine
end

