-- ==== Sys2Proof/Machine/Memory.lean ====
section
/-! DEFINITION. Global memory instructions: LD, LDU, ST, ATOM, PREF, RENEW, EXPIRE and FLUSH (R239 to R245, R256 to R258, R262, R264, R265, R312 to R315, R325, R327, R481 to R485, R525 to R527, R553 to R556, R575, R589, R604, R605). -/

namespace Sys2Proof.Machine

/-- The frame of an access: the checks and the scoreboard, then the orders of earlier accesses. -/
def State.access (s : State) (i : Instr) (k : State → State) : State :=
  s.frame i fun s =>
    if s.active.isEmpty then s.next (canWait i)
    else if s.orderBlocked i then s.waitBefore (.order (isStoring i)) else k s

/-- The end of an instruction whose lanes may trap: those park with their sources logged, the others move on. -/
def State.proceed (s : State) (trapped : List (Nat × List Src × Trap)) (rows : List Nat) (canWait : Bool := false) : State :=
  let pc := s.pc
  let moved := s.issueSet.filter fun l => !(trapped.any (·.1 == l))
  let s := trapped.foldl (fun s x => s.trapLane x.1 x.2.2 x.2.1 rows) s
  (s.onGrp (·.step moved)).retire pc canWait

/-- The outstanding operations of the group, as a release of it sees them (R315). -/
def State.earlier (s : State) : List Nat := (s.grp.ops.filter (!·.hold)).map (·.id)

/-! ### Buffer records (R239 to R241) -/

/-- Element size of a record. -/
def recEsz (r : BitVec 128) : Nat := 2 ^ bits r.toNat 117 115
/-- Bytes from one element to the next. -/
def recStep (r : BitVec 128) : Nat := let n := bits r.toNat 107 88; if n = 0 then recEsz r else n
/-- EXTENT. -/
def recExtent (r : BitVec 128) : Nat := bits r.toNat 87 56
/-- BASE. -/
def recBase (r : BitVec 128) : Nat := bits r.toNat 55 0
/-- CPOL. -/
def recCpol (r : BitVec 128) : Nat := bits r.toNat 125 124
/-- OAE. -/
def recOae (r : BitVec 128) : Bool := r.getLsbD 126

/-- Whether a record may be used (R240, R241). -/
def recOk (r : BitVec 128) : Bool :=
  let n := r.toNat
  r.getLsbD 127 && decide (recCpol r ≤ 2) && (bits n 123 121 == 0 || decide (4 ≤ bits n 123 121))
    && decide (bits n 120 118 ≤ 3) && decide (bits n 117 115 ≤ 4) && bits n 114 108 == 0

/-- The ticks of a lease code of a page (R253). -/
def leaseTicks (k : Nat) : Nat := match k with | 0 => 8 | 1 => 32 | 2 => 128 | _ => 512

/-- The lease that an access requests: the shorter of the page's and the record's (R256). -/
def leaseOf (r : BitVec 128) (l : Leaf) : Nat :=
  let page := leaseTicks l.lease.toNat
  let k := bits r.toNat 123 121
  if k = 0 then page else min page (leaseTicks (k - 4))

/-- The swizzle (R244). -/
def swizzle (r : BitVec 128) (va : Nat) : Nat :=
  let m := 2 ^ bits r.toNat 120 118 - 1
  va ^^^ ((va / 128 % 8 &&& m) * 16)

/-- The address of element `i` of a record (R242). -/
def recAddr (r : BitVec 128) (i : Nat) : Nat := swizzle r (recBase r + i * recStep r)

/-- A record of the stream in focus, with its poison (R136, R206). -/
def State.record (s : State) (k : Nat) : BitVec 128 × Bool :=
  match s.kind with
  | .vector =>
    let es := (List.range 4).map fun j => s.elem (s.bAddr k + 4 * j)
    (BitVec.ofNat 128 (es.foldr (fun e n => e.1.toNat + n * 2 ^ 32) 0), es.any (·.2))
  | _ => (s.core.b.getD k 0, s.core.cBad.getLsbD (32 + 2 * k) || s.core.cBad.getLsbD (33 + 2 * k))

/-! ### The checks of one lane (R242, R243, R264) -/

/-- What the checks of a global access depend on: the record, the elements per lane, the width (0 for a line operation),
whether it writes and how. -/
structure GAcc where
  brec : BitVec 128
  poison : Bool
  n : Nat
  w : Nat
  clamp : Bool
  writes : Bool
  ordered : Bool
  deriving DecidableEq, Repr

/-- A trap that names an address. -/
def trapAt (kind : BitVec 5) (detail : BitVec 8) (a : Nat) : Trap := { kind := kind, detail := detail, addr := BitVec.ofNat 64 a }

/-- A trap that names a signed number. -/
def trapInt (kind : BitVec 5) (a : Int) : Trap := { kind := kind, addr := BitVec.ofInt 64 a }

/-- Checks 2 and 3 for the elements from index `i` (R241 to R243): each element's address, or none where it is clamped. -/
def GAcc.addresses (g : GAcc) (i : Int) : Except Trap (List (Option Nat)) :=
  let r := g.brec
  let esz := recEsz r
  let out (e : Nat) : Bool := decide (i + e < 0) || decide ((recExtent r : Int) ≤ i + e)
  let va (e : Nat) : Nat := recAddr r (i + e).toNat
  let ks := List.range g.n
  if !recOk r || (g.w != 0 && esz != g.w) then .error { kind := 5 }
  else if 32 < g.n * esz then .error (trapInt 5 i)
  else
    match ks.find? fun e => (out e && !g.clamp) || (!out e && decide (2 ^ 56 < va e + esz)) with
    | some e => .error (trapInt 5 (i + e))
    | none =>
      let vas := ks.map fun e => if out e then none else some (va e)
      match (vas.filterMap id).filter (fun a => a % esz != 0) with
      | [] => .ok vas
      | a :: as => .error (trapAt 4 0 (as.foldl min a))

/-- Whether bytes from an address lie in a global range of the Hutch (R151, R153). -/
def State.lockedLine (s : State) (va : Nat) : Bool :=
  s.core.hutch.any fun h => h.team.isNone && decide (h.first ≤ va / 128) && decide (va / 128 ≤ h.last)

/-- Check 4 of R264. -/
def State.lockTrap (s : State) (vas : List Nat) : Option Trap :=
  match vas.filter s.lockedLine with
  | [] => none
  | a :: as => some (trapAt 9 0 (as.foldl min a))

/-- Where an element lies: clamped, in a sparse hole, or at a physical address under a leaf. -/
inductive Place where
  | clamped
  | hole
  | at (pa : Nat) (leaf : Leaf)
  deriving DecidableEq, Repr

/-- The place of one element, or the trap of checks 5 and 6 (R258, R264). -/
def State.place (s : State) (g : GAcc) (va : Nat) (quiet : Bool := false) : Except Trap Place :=
  match s.lookup va quiet with
  | some (.leaf l) =>
    if g.writes && !l.w then .error (trapAt 7 1 va)
    else if paSpace (l.phys va) = 1 then .error (trapAt 7 2 va)
    else if g.ordered && !recOae g.brec then .error (trapAt 7 3 va)
    else .ok (.at (l.phys va) l)
  | some .sparse => if g.writes then .error (trapAt 6 3 va) else .ok .hole
  | some .malformed => .error (trapAt 6 1 va)
  | some .unresolved | none => .error (trapAt 6 2 va)

/-- The places of a lane's elements, or the trap of the first check that an element fails, with its lowest address. -/
def State.places (s : State) (g : GAcc) (vas : List (Option Nat)) (quiet : Bool := false) : Except Trap (List Place) :=
  let ps := vas.map fun a => match a with
    | none => Except.ok Place.clamped
    | some va => s.place g va quiet
  let errs := ps.filterMap fun p => match p with | .error t => some t | .ok _ => none
  let first := errs.filter fun t => errs.all fun u => decide (t.kind ≤ u.kind)
  match first with
  | [] => .ok (ps.filterMap fun p => match p with | .ok x => some x | .error _ => none)
  | t :: ts => .error (ts.foldl (fun a b => if b.addr < a.addr then b else a) t)

/-- Check of the watch entries, after every check of R264 (R437). -/
def State.watchTrap (s : State) (g : GAcc) (vas : List (Option Nat)) : Option Trap :=
  let n := recEsz g.brec
  let hits := (vas.filterMap id).filter fun a => s.core.watch.any fun w => watchCovers w false (if g.writes then 60 else 61) a n
  match hits with
  | [] => none
  | a :: as => some (trapAt 0x11 0 (as.foldl min a))

/-- Poison of what a lane consumes: its index, the record, its store data (R264, R429). -/
def GAcc.poisonTrap (g : GAcc) (idx : Src) (data : List Src) : Option Trap :=
  if idx.2 then some (Sys2Proof.Machine.poisonTrap 2)
  else if g.poison then some (Sys2Proof.Machine.poisonTrap 6)
  else if data.any (·.2) then some (Sys2Proof.Machine.poisonTrap 3)
  else none

/-- One lane of a global access: its sources, and its element addresses or its trap of checks 1 to 4. -/
structure LaneAcc where
  lane : Nat
  srcs : List Src
  vas : Except Trap (List (Option Nat))

/-- Checks 1 to 4 of a lane. The index is source 0, store data the others. -/
def State.preCheck (s : State) (g : GAcc) (off : BitVec 16) (l : Nat) (srcs : List Src) : LaneAcc :=
  let idx := srcs.getD 0 (0, false)
  ⟨l, srcs, match g.poisonTrap idx (srcs.drop 1) with
    | some t => .error t
    | none => do
      let vas ← g.addresses ((uval 32 idx.1 : Int) + off.toInt)
      match s.lockTrap (vas.filterMap id) with
      | some t => .error t
      | none => pure vas⟩

/-- The addresses that lanes touch. -/
def touched (ls : List LaneAcc) : List Nat :=
  (ls.map fun x => match x.vas with | .ok vas => vas.filterMap id | .error _ => []).flatten

/-- Checks 5 and 6 and the watch entries. -/
def State.postCheck (s : State) (g : GAcc) (x : LaneAcc) : Except Trap (List Place) := do
  let vas ← x.vas
  let ps ← s.places g vas
  if g.ordered && !recOae g.brec && !vas.isEmpty then .error { kind := 7, detail := 3 }
  else match s.watchTrap g vas with
  | some t => .error t
  | none => pure ps

/-- The lanes that pass, with their places. -/
def passed (rs : List (LaneAcc × Except Trap (List Place))) : List (LaneAcc × List Place) :=
  rs.filterMap fun r => match r.2 with | .ok ps => some (r.1, ps) | .error _ => none

/-- The lanes that trap. -/
def failed (rs : List (LaneAcc × Except Trap (List Place))) : List (Nat × List Src × Trap) :=
  rs.filterMap fun r => match r.2 with | .ok _ => none | .error t => some (r.1.lane, r.1.srcs, t)

/-- The index, poison, place and width data of an instruction with a record. -/
def State.gacc (s : State) (f : MF) (w : Nat) (writes ordered : Bool) : GAcc :=
  let r := s.record f.brec.toNat
  ⟨r.1, r.2, MF.n f, w, MF.clamp f, writes, ordered⟩

/-- Whether an access keeps no copy (R256). -/
def State.noAlloc (s : State) (r : BitVec 128) : Bool := recCpol r == 2 || s.core.partRows == 0

/-- The frame and size of a replicated page whose lines the core's die may hold as replicas (R303). -/
def State.replPage (s : State) (l : Leaf) : Option (Nat × Nat) :=
  let d := CoreId.die s.core.id
  if l.attr == 2 && paDie l.frame != d && has l.dset d && (s.die d).rdcgib != 0 then some (l.frame, 2 ^ l.size) else none

/-! ### Loads (R555, R556) -/

/-- The lines that elements touch, ascending, with the bytes read of each (R245, R256). -/
def State.lineAccs (s : State) (r : BitVec 128) (es : List (Elem × Leaf)) : List LineAcc :=
  let lines := ((es.map (·.1.line)).eraseDups).mergeSort (· ≤ ·)
  lines.map fun line =>
    let mine := es.filter (·.1.line == line)
    let leaf := (mine.map (·.2)).head?
    { line := line
      mask := mine.foldl (fun m e => m ||| spanMask e.1.off e.1.w) 0
      lease := (leaf.map (leaseOf r)).getD 8
      noAlloc := s.noAlloc r
      stream := recCpol r == 1
      page := leaf.bind s.replPage }

/-- The type of a load or store. -/
def MF.lty (f : MF) : Ty := (intTy f.ty.toNat).getD .b32

/-- Bytes of one element of a load or store. -/
def MF.w (f : MF) : Nat := (MF.lty f).width / 8

/-- The registers that element `k` of a block starts at (R554). On a scalar core each element takes one c register. -/
def State.elemReg (s : State) (data : Opnd) (t : Ty) (k : Nat) : Nat :=
  data.reg + k * (if s.kind == .vector then t.regs else 1)

/-- Issues a load for lanes that passed every check (R555). An acquire load waits for a rebase when `%now` cannot rise (R301). -/
def State.issueLoad (s : State) (f : MF) (g : GAcc) (uni : Bool) (lanes : List (LaneAcc × List Place)) (rows : List Nat) : State :=
  let t := MF.lty f
  let (id, s) := s.newId
  let es : List (Elem × Option Leaf) := (lanes.map fun x => x.2.mapIdx fun k p =>
    let e : Elem := { lane := x.1.lane, reg := s.elemReg f.data t k, line := 0, off := 0, w := MF.w f }
    match p with
    | .at pa l => ({ e with line := pa / 128, off := pa % 128, por := l.por, wait := some 0 }, some l)
    | _ => (e, none)).flatten
  let accs := s.lineAccs g.brec (es.filterMap fun e => e.2.map fun l => (e.1, l))
  let acq := f.order == 1 || f.order == 3
  let sc := Scope.ofCode f.scope.toNat
  let before := s.earlier
  let later := f.order == 3 || (acq && decide (tickMax ≤ s.nowTick))
  let s := s.addOp { id := id, load := true, counted := s.kind == .vector, started := false, elems := es.map (·.1), ty := t,
                     uni := uni, acq := if acq then some sc else none, blocks := acq, pc := s.pc
                     srcs := lanes.map fun x => (x.1.lane, x.1.srcs), rows := rows
                     lines := if later then accs.map (·.line) else [] }
  let s := s.onGrp fun g => { g with
    pend := ⟨.op id, rows⟩ :: g.pend
    lastAcq := if acq then (accs.getLast?.map (·.lease)).orElse (fun _ => g.lastAcq) else g.lastAcq }
  let pr := if MF.promoted f then some sc else none
  (if later then s.release sc (f.order == 3) (if f.order = 3 then before else []) (.loads id accs pr)
    else s.startLoads id accs pr).finishOps

/-- The lines that lanes touch. -/
def lanesLines (lanes : List (LaneAcc × List Place)) : List Nat :=
  ((lanes.map fun x => x.2.filterMap fun p => match p with | .at pa _ => some (pa / 128) | _ => none).flatten).eraseDups

/-- Whether an operation of the group that has not started yet touches lines (R312): the access waits for it. -/
def State.lineBusy (s : State) (lanes : List (LaneAcc × List Place)) : Bool := s.grp.ops.any fun o => o.lines.any (has (lanesLines lanes))

/-- A load through a buffer record; LDU acts once (R555). -/
def State.globalLoad (s : State) (i : Instr) (f : MF) (uni : Bool) : State :=
  s.access i fun s =>
    let g := s.gacc f (MF.w f) false false
    let idx : Use := if uni then { o := f.index, kinds := kSN, ty := .n32 } else f.idx
    let who := if uni then s.active.take 1 else s.active
    let ls := who.map fun l => s.preCheck g f.offset l (s.sources [idx] l)
    if s.kind == .vector && decide (63 ≤ s.grp.loads) then s.waitBefore .loads
    else
      s.translated (touched ls) 0 fun s =>
        let rs := ls.map fun x => (x, s.postCheck g x)
        if s.lineBusy (passed rs) then s.waitBefore (.starts (lanesLines (passed rs)))
        else
          let rows := s.dstRows i
          let s := s.dropHeld (touched ls)
          let s := s.issueLoad f g uni (passed rs) rows
          let bad := failed rs
          let bad := if uni then (bad.map fun x => s.active.map fun l => (l, x.2.1, x.2.2)).flatten else bad
          s.proceed bad rows

/-- LD (R555). -/
def execLd (f : MF) (s : State) : Out := .next (s.globalLoad (.ld f) f false)
/-- LDU (R555, R556). -/
def execLdu (f : MF) (s : State) : Out := .next (s.globalLoad (.ldu f) f true)

/-! ### Stores (R605) -/

/-- The lines that a store writes, ascending; of several elements that write a byte the highest lane's highest element
wins (R245). -/
def storeParts (ws : List (Nat × Nat × BitVec 64)) (noAlloc stream : Bool) : List StorePart :=
  let lines := ((ws.map (·.1 / 128)).eraseDups).mergeSort (· ≤ ·)
  lines.map fun line =>
    (ws.filter (fun x => x.1 / 128 == line)).foldl (fun p x =>
      let m := spanMask (x.1 % 128) x.2.1
      { p with mask := p.mask ||| m
               bytes := mergeBytes m p.bytes (BitVec.ofNat 1024 (x.2.2.toNat % 2 ^ (8 * x.2.1) * 2 ^ (8 * (x.1 % 128)))) })
      { line := line, mask := 0, bytes := 0, poison := 0, noAlloc := noAlloc, stream := stream }

/-- The block of registers that a store or atomic reads, element by element. -/
def MF.dataUses (f : MF) (t : Ty) (n : Nat) : List Use :=
  (List.range n).map fun k =>
    { o := match f.data with | .v r => .v (BitVec.ofNat 8 (r.toNat + k * t.regs)) | o => o
      kinds := kV, ty := t, span := t.regs, pair := t.wide }

/-- Issues a store for lanes that passed every check (R605). -/
def State.issueStore (s : State) (f : MF) (g : GAcc) (lanes : List (LaneAcc × List Place)) : State :=
  let ws := (lanes.map fun x => (x.2.mapIdx fun k p => match p with
    | .at pa _ => some (pa, MF.w f, (x.1.srcs.getD (k + 1) (0, false)).1)
    | _ => none).filterMap id).flatten
  let parts := storeParts ws (s.noAlloc g.brec) (recCpol g.brec == 1)
  let rel := f.order == 2 || f.order == 3
  let sc := Scope.ofCode f.scope.toNat
  let (id, s) := s.newId
  let before := s.earlier
  let s := (s.onGrp Group.effect).addOp
    { id := id, load := false, started := false, blocks := f.order == 3, lines := if rel then parts.map (·.line) else []
      pc := s.pc, srcs := lanes.map fun x => (x.1.lane, x.1.srcs) }
  let hold := rel && sc == .core
  (if rel then s.release sc true before (.stores id parts hold) else s.startStores id false parts false).finishOps

/-- The HOLDs of a store: one for each line that it adds to the held-line table, which STORES counts beside it (R325, R338). -/
def State.storeHolds (s : State) (f : MF) (lanes : List (LaneAcc × List Place)) : Nat :=
  let hold := (f.order == 2 || f.order == 3) && Scope.ofCode f.scope.toNat == .core
  if hold then ((lanesLines lanes).filter fun l => !has s.core.heldLines l).length else 0

/-- Whether STORES has room for a store and its HOLDs (R339). One that the whole counter could not hold goes on once the counter is 0
(log entry 81). -/
def State.storeRoom (s : State) (f : MF) (lanes : List (LaneAcc × List Place)) : Bool := decide (s.grp.stores ≤ 62 - s.storeHolds f lanes)

/-- ST (R605). -/
def execSt (f : MF) (s : State) : Out :=
  .next (s.access (.st f) fun s =>
    let t := MF.lty f
    let g := s.gacc f (MF.w f) true false
    let ls := s.active.map fun l => s.preCheck g f.offset l (s.sources (f.idx :: MF.dataUses f t (MF.n f)) l)
    if 63 ≤ s.grp.stores then s.waitBefore .stores
    else
      s.translated (touched ls) 1 fun s =>
        let rs := ls.map fun x => (x, s.postCheck g x)
        if s.lineBusy (passed rs) then s.waitBefore (.starts (lanesLines (passed rs)))
        else if !s.storeRoom f (passed rs) then s.waitBefore (.stores (s.storeHolds f (passed rs)))
        else ((s.dropHeld (touched ls)).issueStore f g (passed rs)).proceed (failed rs) [])

/-! ### Atomics (R481 to R485) -/

/-- The operation of a sub-op (R482). -/
def atomOp (k : Nat) : AtomOp :=
  match k with
  | 0 => .add | 1 => .fadd | 2 => .faddo | 3 => .min | 4 => .max | 5 => .and | 6 => .or | 7 => .xor
  | 8 => .xchg | 9 => .cas | 10 => .inc | _ => .dec

/-- How an atomic's type reads its word (R482). -/
def atomClass (t : Ty) : AtomClass := if t.floating then .floating else if t.signed then .signed else if t == .b32 || t == .b64 then .bits else .unsigned

/-- The new value of a word under an atomic, with the flags of a local .FADD (R482, R487). -/
def atomNew (op : AtomOp) (cls : AtomClass) (wide : Bool) (old a c : BitVec 64) : BitVec 64 × FpFlags :=
  let w := if wide then 64 else 32
  let it : Ty := match cls, wide with
    | .signed, true => .i64 | .signed, false => .i32
    | _, true => .n64 | _, false => .n32
  let ft : Ty := if wide then .f64 else .f32
  match op with
  | .add => (intAdd it old a, 0)
  | .fadd | .faddo => fpAdd ft .rne old a
  | .min => (intMin it old a, 0)
  | .max => (intMax it old a, 0)
  | .and => (low w (old &&& a), 0)
  | .or => (low w (old ||| a), 0)
  | .xor => (low w (old ^^^ a), 0)
  | .xchg => (low w a, 0)
  | .cas => (if low w old = low w c then low w a else low w old, 0)
  | .inc => (if uval w a ≤ uval w old then 0 else low w (old + 1), 0)
  | .dec => (if uval w old = 0 ∨ uval w a < uval w old then low w a else low w (old - 1), 0)

/-- Data and operand c of an atomic as sources after the index. -/
def MF.atomUses (f : MF) (t : Ty) : List Use :=
  MF.dataUses f t 1 ++ (if f.sub = 9 then [{ o := f.c, kinds := kV, ty := t, span := t.regs, pair := t.wide }] else [])

/-- The teams of the grid in focus (R410). -/
def LaunchRecord.teams (r : LaunchRecord) : Nat := r.rw * r.rh * r.tpd

/-- Whether a rank lies in the grid's contributor set (R235). -/
def State.inSet (s : State) (rank : Nat) : Bool := decide (rank < s.team.lrec.benchl)

/-- Issues an atomic for lanes that passed every check (R483 to R485). On a page with POR it returns its old value poisoned, as a load
does (R257, log entry 89). -/
def State.issueAtom (s : State) (f : MF) (lanes : List (LaneAcc × List Place)) (rows : List Nat) : State :=
  let t := (MF.atomTy f).getD .b32
  let op := atomOp f.sub.toNat
  let ord := op == .faddo
  let ret := MF.ret f
  let rank (l : Nat) : Nat := s.grp.num * 32 + l
  let acq := f.order == 1 || f.order == 3
  let rel := f.order == 2 || f.order == 3
  let sc := Scope.ofCode f.scope.toNat
  let (id, s) := s.newId
  let val (x : LaneAcc) (k : Nat) : BitVec 64 := (x.srcs.getD k (0, false)).1
  let todo := lanes.map fun x => (x.1, match x.2.head? with | some (.at pa l) => some (pa, l.por) | _ => none)
  let hits := todo.filterMap fun x => x.2.map fun p => (x.1, p.1)
  let s0 := s
  let refs := (List.range hits.length).map (s0.fresh + 1 + ·)
  let s := { s with fresh := s.fresh + hits.length }
  let sorted := (hits.zip refs).mergeSort fun a b =>
    decide (a.1.2 / 128 < b.1.2 / 128) || (a.1.2 / 128 == b.1.2 / 128 && decide (a.1.1.lane ≤ b.1.1.lane))
  let msgs : List AtomMsg := if ord then [] else sorted.map fun h =>
    { addr := h.1.2, wide := t.wide, op := op, cls := atomClass t, a := val h.1.1 1, c := val h.1.1 2,
      who := .core s.core.id, now := s.core.now, holds := sc == .core, promote := if MF.promoted f then some sc else none,
      ref := h.2, lane := h.1.1.lane }
  let bench : List Contribution := if !ord then [] else sorted.map fun h =>
    { addr := h.1.2, wide := t.wide, value := val h.1.1 1, poison := false, grid := s.team.id.grid,
      teamRank := s.team.id.rank, laneRank := rank h.1.1.lane, who := .core s.core.id, now := s.core.now, ref := h.2, holds := sc == .core }
  let elems : List Elem := if !ret then [] else todo.map fun x =>
    { lane := x.1.lane, reg := f.data.reg, line := 0, off := 0, w := t.width / 8, por := (x.2.map (·.2)).getD false,
      wait := ((hits.zip refs).find? (·.1.1.lane == x.1.lane)).map (·.2) }
  let before := s.earlier
  let s := (s.onGrp Group.effect).addOp
    { id := id, load := ret, started := false, bench := ord, waits := refs, elems := elems, ty := t,
      acq := if acq then some sc else none, blocks := acq, pc := s.pc
      srcs := lanes.map fun x => (x.1.lane, x.1.srcs), rows := rows
      lines := if rel then (msgs.map (·.line) ++ bench.map (·.line)).eraseDups else [] }
  let s := s.onGrp fun g => { g with pend := ⟨.op id, rows⟩ :: g.pend }
  (if rel then s.release sc true before (.atoms id msgs bench) else s.startAtoms id msgs bench).finishOps

/-- The checks of one lane of an atomic; an ordered contribution comes from a rank of the contributor set (R235, R264). -/
def State.atomCheck (s : State) (f : MF) (g : GAcc) (x : LaneAcc) : Except Trap (List Place) :=
  match s.postCheck g x with
  | .ok ps => if atomOp f.sub.toNat == .faddo && !s.inSet (s.grp.num * 32 + x.lane) then .error { kind := 0x0C } else .ok ps
  | e => e

/-- ATOM (R483 to R485). -/
def execAtom (f : MF) (s : State) : Out :=
  .next (s.access (.atom f) fun s =>
    let t := (MF.atomTy f).getD .b32
    let g := { s.gacc f (t.width / 8) true (atomOp f.sub.toNat == .faddo) with n := 1 }
    let ls := s.active.map fun l => s.preCheck g f.offset l (s.sources (f.idx :: MF.atomUses f t) l)
    if (if MF.ret f then 63 ≤ s.grp.loads else 63 ≤ s.grp.stores) then s.waitBefore (if MF.ret f then .loads else .stores)
    else
      s.translated (touched ls) 2 fun s =>
        let rs := ls.map fun x => (x, s.atomCheck f g x)
        if s.lineBusy (passed rs) then s.waitBefore (.starts (lanesLines (passed rs)))
        else
          let rows := if MF.ret f then s.dstRows (.atom f) else []
          ((s.dropHeld (touched ls)).issueAtom f (passed rs) rows).proceed (failed rs) rows)

/-! ### Line operations (R525 to R527, R575, R589) -/

/-- The line set of a line operation: the distinct lines, ascending, of the elements that pass every check (R265). -/
def State.lineSet (s : State) (g : GAcc) (ls : List LaneAcc) : List LineAcc :=
  let es := (ls.map fun x => match x.vas with
    | .error _ => []
    | .ok vas => vas.filterMap fun a => a.bind fun va =>
      if s.lockedLine va || g.w != 0 then none
      else match s.place g va true with
        | .ok (.at pa l) => some (({ lane := 0, reg := 0, line := pa / 128, off := pa % 128, w := 1 } : Elem), l)
        | _ => none).flatten
  s.lineAccs g.brec es

/-- Elements of a lane for a line operation, each judged alone: one that fails a check is skipped (R265). -/
def GAcc.quietAddresses (g : GAcc) (i : Int) : List (Option Nat) :=
  if !recOk g.brec || decide (32 < g.n * recEsz g.brec) then []
  else (List.range g.n).map fun e => match { g with n := 1, clamp := true }.addresses (i + e) with
    | .ok vas => vas.head?.join
    | .error _ => none

/-- A line operation: only poison traps (R265). -/
def State.lineOp (s : State) (i : Instr) (f : MF) (k : State → List LineAcc → State) : State :=
  s.access i fun s =>
    let g := s.gacc f 0 false false
    let ls := s.active.map fun l =>
      let srcs := s.sources [f.idx] l
      let idx := srcs.getD 0 (0, false)
      LaneAcc.mk l srcs (match g.poisonTrap idx [] with
        | some t => .error t
        | none => .ok (g.quietAddresses ((uval 32 idx.1 : Int) + f.offset.toInt)))
    s.translated (touched ls) 5 fun s =>
      let bad := ls.filterMap fun x => match x.vas with | .error t => some (x.lane, x.srcs, t) | .ok _ => none
      (k (s.dropHeld (touched ls)) (s.lineSet g ls)).proceed bad []

/-- PREF of one line (R575). -/
def State.prefLine (s : State) (a : LineAcc) : State :=
  match s.copyOf a.line with
  | some c =>
    if a.noAlloc || c.st == .p || s.leased c then s
    else
      let (r, s) := s.askLine a (some c) none
      s.enterP a r
  | none =>
    if a.noAlloc then s
    else
      match s.makeRoom with
      | (false, s) => s
      | (true, s) =>
        let (r, s) := s.askLine a none none
        s.enterP a r

/-- EXPIRE of one line (R526). -/
def State.expireLine (s : State) (line : Nat) : State :=
  match s.copyOf line with
  | none => s
  | some c =>
    if c.repl && c.st != .p then
      if c.mask = 0 then s.dropCopy line else s.putCopy { c with st := .w, clean := false, repl := false }
    else if c.st = .v then s.putCopy { c with st := .x }
    else s

/-- PREF (R575). -/
def execPref (f : MF) (s : State) : Out := .next (s.lineOp (.pref f) f fun s as => as.foldl State.prefLine s)

/-- RENEW (R589): EXPIRE and then PREF of each line. -/
def execRenew (f : MF) (s : State) : Out :=
  .next (s.lineOp (.renew f) f fun s as => as.foldl (fun s a => (s.expireLine a.line).prefLine a) s)

/-- EXPIRE (R526). -/
def execExpire (f : MF) (s : State) : Out :=
  .next (s.lineOp (.expire f) f fun s as => as.foldl (fun s a => s.expireLine a.line) s)

/-- FLUSH (R527). -/
def execFlush (f : MF) (s : State) : Out :=
  .next (if 63 ≤ s.grp.stores ∧ !s.active.isEmpty ∧ (illDetail s.ctx (.flush f)).isNone then s.waitBefore .stores
    else s.lineOp (.flush f) f fun s as =>
      let (id, s) := s.newId
      let (refs, s) := as.foldl (fun (p : List Nat × State) a =>
        let (r, s) := p.2.copyBack a.line
        (p.1 ++ r, s)) ([], s)
      (s.addOp { id := id, load := false, waits := refs }).finishOps)

end Sys2Proof.Machine
end

