-- ==== Sys2Proof/Machine/Local.lean ====
section
/-! DEFINITION. Local addresses and the layout of a team's segment; LDL, STL, ATOML, SPILL and FILL (R129 to R137, R153, R352, R486, R487, R539 to R541, R553, R554, R557, R602, R604, R606). -/

namespace Sys2Proof.Machine

/-! ### The layout of a segment (R130 to R132, R411) -/

/-- NROWS of a Shelf entry (R145). -/
def tileNrows (e : DWord) : Nat := bits e.toNat 45 35

/-- Rows of the tile region (R130, R411). -/
def LaunchRecord.tileRows (r : LaunchRecord) : Nat := roundUp ((r.tiles.map fun t => tileNrows t.2).sum) 8

/-- The first row of the group areas (R130). -/
def LaunchRecord.areaRow (r : LaunchRecord) : Nat := r.tmRows + r.tileRows

/-- The window of a role (R130, R410). -/
def LaunchRecord.window (r : LaunchRecord) (role : Nat) : Nat := if role = 0 then r.w0 else r.w1

/-- The rows of one group area (R130). -/
def LaunchRecord.groupRows (r : LaunchRecord) (g : Nat) : Nat := r.window (if g < r.p then 0 else 1) + 8 + r.spill

/-- The first row of a group's area, relative to the segment (R130). -/
def LaunchRecord.groupBase (r : LaunchRecord) (g : Nat) : Nat :=
  r.areaRow + ((List.range g).map r.groupRows).sum

/-- The rows of a segment (R130). -/
def LaunchRecord.rows (r : LaunchRecord) : Nat := r.groupBase (r.p + r.c)

/-- Whether a local byte lies in a group's private rows (R136). -/
def LaunchRecord.privateByte (r : LaunchRecord) (a : Nat) : Bool :=
  (List.range (r.p + r.c)).any fun g =>
    let b := (r.groupBase g + r.window (if g < r.p then 0 else 1) + 4) * 128
    decide (b ≤ a) && decide (a < b + 512)

/-- Whether `n` local bytes touch a barrier object (R132, R352). -/
def LaunchRecord.touchesObject (r : LaunchRecord) (a n : Nat) : Bool := decide (a < 16 * r.nbar) && decide (0 < n)

/-- Whether `n` local bytes touch a group area (R134). -/
def LaunchRecord.touchesArea (r : LaunchRecord) (a n : Nat) : Bool := decide (r.areaRow * 128 < a + n)

/-! ### Checks of a local access (R486) -/

/-- A trap that names a local address (R430). -/
def trapLocal (kind : BitVec 5) (detail : BitVec 8) (a : Int) : Trap :=
  { kind := kind, detail := detail, addr := BitVec.ofInt 64 a ||| 0x8000000000000000 }

/-- Whether a local row lies in a local range of the Hutch (R151, R153). -/
def State.lockedRow (s : State) (row : Nat) : Bool :=
  s.core.hutch.any fun h => h.team == some s.team.id && decide (h.first ≤ row) && decide (row ≤ h.last)

/-- The checks BOUNDS, ALIGN, LOCKHIT, PROT and WATCH of `n` elements of `w` bytes from a local address; `writes` adds
the barrier objects to PROT (R129, R136, R153, R352, R437, R486). -/
def State.localCheck (s : State) (writes : Bool) (n w : Nat) (a : Int) : Except Trap (List Nat) :=
  let els := (List.range n).map fun k => a + (k * w : Nat)
  let first (p : Nat → Bool) : Option Nat := (els.map Int.toNat).find? p
  let ends (x : Int) : Bool := decide (x < 0) || decide ((s.team.rows * 128 : Nat) < x + (w : Nat))
  match els.find? ends with
  | some x => .error (trapLocal 5 0 x)
  | none =>
    match first fun x => x % w != 0 with
    | some x => .error (trapLocal 4 0 x)
    | none =>
      match first fun x => s.lockedRow (x / 128) || s.lockedRow ((x + w - 1) / 128) with
      | some x => .error (trapLocal 9 0 x)
      | none =>
        match first fun x => s.team.lrec.privateByte x || (writes && s.team.lrec.touchesObject x w) with
        | some x => .error (trapLocal 7 5 x)
        | none =>
          match first fun x => s.core.watch.any fun q => watchCovers q true (if writes then 60 else 61) x w with
          | some x => .error (trapLocal 0x11 0 x)
          | none => .ok (els.map Int.toNat)

/-- One lane of a local access: its sources, and its addresses or its trap. -/
structure LaneLoc where
  lane : Nat
  srcs : List Src
  at' : Except Trap (List Nat)

/-- The local address of a lane: its index plus the offset in elements (R486). -/
def localIndex (off : BitVec 16) (w : Nat) (idx : BitVec 64) : Int := (uval 32 idx : Int) + off.toInt * w

/-- The checks of one lane: poison of its sources first (R439, R486). -/
def State.localLane (s : State) (f : MF) (writes : Bool) (n w : Nat) (us : List Use) (l : Nat) : LaneLoc :=
  let srcs := s.sources us l
  let idx := srcs.getD 0 (0, false)
  ⟨l, srcs,
    if idx.2 then .error (poisonTrap 2)
    else if (srcs.drop 1).any (·.2) then .error (poisonTrap 3)
    else s.localCheck writes n w (localIndex f.offset w idx.1)⟩

/-- The lanes that pass. -/
def locOk (ls : List LaneLoc) : List (LaneLoc × List Nat) :=
  ls.filterMap fun x => match x.at' with | .ok as => some (x, as) | .error _ => none

/-- The lanes that trap. -/
def locBad (ls : List LaneLoc) : List (Nat × List Src × Trap) :=
  ls.filterMap fun x => match x.at' with | .ok _ => none | .error t => some (x.lane, x.srcs, t)

/-- The local bytes of a pending row of the group in focus (R135 to R137). -/
def State.rowBytes (s : State) (r : Nat) : Nat × Nat :=
  if r < 256 then ((s.grp.base + r) * 128, 128) else (s.sAddr (r - 256), 4)

/-- The pending rows of the group's own that an access touches (R112, R137). -/
def State.ownRows (s : State) (as : List Nat) (w : Nat) : List Nat :=
  (((s.grp.pend.filter s.grp.counts).map (·.rows)).flatten).filter fun r =>
    as.any fun a => decide (a < (s.rowBytes r).1 + (s.rowBytes r).2) && decide ((s.rowBytes r).1 < a + w)

/-- A local access goes on unless it touches a row of the group's own that is pending, which holds it back as the scoreboard holds an
instruction that names the row (R137). -/
def State.ownReady (s : State) (i : Instr) (as : List Nat) (w : Nat) (k : State → State) : State :=
  match s.ownRows as w with
  | [] => k s
  | rs => s.holdBack i rs

/-! ### Order of a local or peer access (R312, R315, R487, R557) -/

/-- Performs the release of an access before it: at once when nothing is waited for, otherwise the group waits and the
access issues again (R312, R487). -/
def State.released (s : State) (rel : Bool) (sc : Scope) (k : State → State) : State :=
  if !rel then k s
  else if s.grp.relDone = some s.pc then k (s.onGrp fun g => { g with relDone := none })
  else if s.core.rels.any (fun r => r.gid == some s.gid && r.cont == .reissue s.pc) then s.waitBefore (.release s.pc)
  else
    let s := s.release sc true s.earlier (.reissue s.pc)
    if s.grp.relDone = some s.pc then k (s.onGrp fun g => { g with relDone := none }) else s.waitBefore (.release s.pc)

/-- Whether an order field releases. -/
def MF.rel (f : MF) : Bool := f.order == 2 || f.order == 3
/-- Whether an order field acquires. -/
def MF.acq (f : MF) : Bool := f.order == 1 || f.order == 3
/-- The scope of a memory instruction. -/
def MF.sc (f : MF) : Scope := Scope.ofCode f.scope.toNat

/-- The end of a local access: its acquire, then the lanes move on or park. -/
def State.localEnd (s : State) (f : MF) (bad : List (Nat × List Src × Trap)) (rows : List Nat) : State :=
  (if MF.acq f then s.acquire (MF.sc f) else s).proceed bad rows

/-! ### Bytes of the team's segment -/

/-- `w` bytes of the segment with their poison. -/
def State.localRead (s : State) (a w : Nat) : BitVec 64 × Bool :=
  (BitVec.ofNat 64 (Memory.readNat Memory.zeros s.core.store (s.local a) w), s.core.poisoned (s.local a) w)

/-- Writes `w` bytes of the segment. -/
def State.localWrite (s : State) (a w : Nat) (x : BitVec 64) (p : Bool) : State :=
  s.onCore (·.setBytes (s.local a) w x.toNat p)

/-- LDL (R557). -/
def execLdl (f : MF) (s : State) : Out :=
  .next (s.access (.ldl f) fun s =>
    let t := MF.lty f
    let w := MF.w f
    let ls := s.active.map fun l => s.localLane f false (MF.n f) w [f.idx] l
    let rows := s.dstRows (.ldl f)
    s.ownReady (.ldl f) ((locOk ls).map (·.2)).flatten w fun s =>
      s.released (MF.rel f && !(locOk ls).isEmpty) (MF.sc f) fun s =>
        let ws := ((locOk ls).map fun x => (x.2.mapIdx fun k a =>
          let v := s.localRead a w
          (putVal (s.elemReg f.data t k) t v.1).map fun e => LaneWrite.mk e.1 x.1.lane e.2.1 v.2).flatten).flatten
        (s.writeLanes ws).localEnd f (locBad ls) rows)

/-- STL (R606): lanes and elements in ascending order, so that the highest lane wins. -/
def execStl (f : MF) (s : State) : Out :=
  .next (s.access (.stl f) fun s =>
    let w := MF.w f
    let ls := s.active.map fun l => s.localLane f true (MF.n f) w (f.idx :: MF.dataUses f (MF.lty f) (MF.n f)) l
    s.ownReady (.stl f) ((locOk ls).map (·.2)).flatten w fun s =>
      s.released (MF.rel f && !(locOk ls).isEmpty) (MF.sc f) fun s =>
        let ws := ((locOk ls).map fun x => x.2.mapIdx fun k a => (a, (x.1.srcs.getD (k + 1) (0, false)).1)).flatten
        (ws.foldl (fun s e => s.localWrite e.1 w e.2 false) s).localEnd f (locBad ls) [])

/-- One update of a local atomic: the old value with its mark, the flags, and the state after it (R487). A poisoned word
stays poisoned (R483). -/
def State.atomStep (s : State) (f : MF) (t : Ty) (a : Nat) (x c : BitVec 64) : (BitVec 64 × Bool) × FpFlags × State :=
  let old := s.localRead a (t.width / 8)
  let r := atomNew (atomOp f.sub.toNat) (atomClass t) t.wide old.1 x c
  (old, r.2, s.localWrite a (t.width / 8) r.1 old.2)

/-- ATOML (R486, R487): one lane after another in ascending order. -/
def execAtoml (f : MF) (s : State) : Out :=
  .next (s.access (.atoml f) fun s =>
    let t := (MF.atomTy f).getD .b32
    let w := t.width / 8
    let ls := s.active.map fun l => s.localLane f true 1 w (f.idx :: MF.atomUses f t) l
    let rows := if MF.ret f then s.dstRows (.atoml f) else []
    s.ownReady (.atoml f) ((locOk ls).map (·.2)).flatten w fun s =>
      s.released (MF.rel f && !(locOk ls).isEmpty) (MF.sc f) fun s =>
        let val (x : LaneLoc) (k : Nat) : BitVec 64 := (x.srcs.getD k (0, false)).1
        let out := (locOk ls).foldl (fun (p : List LaneWrite × FpFlags × State) x =>
          let r := p.2.2.atomStep f t (x.2.headD 0) (val x.1 1) (val x.1 2)
          (p.1 ++ (putVal f.data.reg t r.1.1).map (fun e => LaneWrite.mk e.1 x.1.lane e.2.1 r.1.2),
            p.2.1 ||| r.2.1, r.2.2)) ([], 0, s)
        let s := out.2.2.raise out.2.1
        (if MF.ret f then s.writeLanes out.1 else s).localEnd f (locBad ls) rows)

/-! ### SPILL and FILL (R539 to R541, R602) -/

/-- The local address of lane `l`'s element of stack row `k` (R540). -/
def State.stackAddr (s : State) (k l : Nat) : Nat := (s.grp.base + s.grp.win + 8 + k) * 128 + 4 * l

/-- SPILL (R602). -/
def execSpill (f : MF) (s : State) : Out :=
  .next (s.access (.spill f) fun s =>
    let n := MF.n f
    if s.team.lrec.spill < s.grp.ssp + n then s.trapActive (trapInt 5 (s.grp.ssp + n : Nat)) []
    else
      let top := s.grp.ssp
      let s := s.active.foldl (fun s l => (List.range n).foldl (fun s i =>
        let e := s.elem (s.vAddr (f.data.reg + i) l)
        s.onCore (·.setBytes (s.local (s.stackAddr (top + i) l)) 4 e.1.toNat e.2)) s) s
      (s.onGrp fun g => { g with ssp := top + n }).next)

/-- FILL (R541). -/
def execFill (f : MF) (s : State) : Out :=
  .next (s.access (.fill f) fun s =>
    let n := MF.n f
    let rows := s.dstRows (.fill f)
    if s.grp.ssp < n then s.trapActive (trapInt 5 ((s.grp.ssp : Int) - n)) rows
    else
      let low := s.grp.ssp - n
      let ws := (s.active.map fun l => (List.range n).map fun i =>
        let e := s.elem (s.stackAddr (low + i) l)
        LaneWrite.mk (f.data.reg + i) l e.1 e.2).flatten
      ((s.writeLanes ws).onGrp fun g => { g with ssp := low }).next)

end Sys2Proof.Machine
end

