-- ==== Sys2Proof/Machine/Routes.lean ====
section
/-! DEFINITION. Route entries, the cores they lead to, the checks of an entry, and sending on a route (R16, R22 to R28, R33, R36 to R38, R247, R450). -/

namespace Sys2Proof.Machine

/-! ### Entries against the machine's own defects (R27, R36) -/

/-- Whether a leg's walk breaks the rules of its kind, or enters a place that carries no traffic (R23, R27). -/
def State.legBad (s : State) (w : Leg × PanelPos × List PanelPos) : Bool := Panel.legBad s.dies w

/-- Whether the router of a core refuses an entry (R27). -/
def State.routeRefused (s : State) (c : CoreId) (e : BitVec 256) : Bool := Panel.routeRefused s.dies c e

/-- The router of a core. -/
def State.pos (s : State) (c : CoreId) : PanelPos := Panel.pos s.dies c

/-! ### A core's table -/

/-- The entry of a route number. -/
def State.route (s : State) (n : Nat) : BitVec 256 := ((s.routeSlot n).map (·.entry)).getD 0

/-- Stores a slot of the route table. -/
def Core.putRoute (c : Core) (r : RouteSlot) : Core := { c with routes := r :: c.routes.filter (·.num != r.num) }

/-- The ROUTE trap of a route number, if its entry holds no reachable route (R28, R430). -/
def State.routeTrap (s : State) (n : Nat) : Option Trap :=
  let e := s.route n
  if !routeValid e || routeUnreach e then some { kind := 0x0D, addr := BitVec.ofNat 64 n } else none

/-- The core at the end of a route. -/
def State.routeDst (s : State) (n : Nat) : CoreId := Panel.routeEnd s.dies s.core.id (s.route n)


end Sys2Proof.Machine
end

