-- ==== Sys2Proof/Machine/Peer.lean ====
section
/-! DEFINITION. Peer accesses: LDP, STP and ATOMP, their arrival at the target store and their reply (R28, R37, R134, R247, R316, R338, R450, R486, R488, R553, R557, R604, R606). -/

namespace Sys2Proof.Machine

/-- The checks BOUNDS, ALIGN, PROT and ROUTE of a peer access, against the sender's own layout (R486). -/
def State.peerCheck (s : State) (f : MF) (n w : Nat) (a : Int) : Except Trap Nat :=
  let els := (List.range n).map fun k => a + (k * w : Nat)
  let first (p : Nat → Bool) : Option Nat := (els.map Int.toNat).find? p
  let ends (x : Int) : Bool :=
    decide (x < 0) || decide (2 ^ 17 ≤ x) || decide ((s.team.rows * 128 : Nat) < x + (w : Nat))
  match els.find? ends with
  | some x => .error (trapLocal 5 0 x)
  | none =>
    match first fun x => x % w != 0 with
    | some x => .error (trapLocal 4 0 x)
    | none =>
      match first fun x => s.team.lrec.touchesArea x w || s.team.lrec.touchesObject x w with
      | some x => .error (trapLocal 7 5 x)
      | none =>
        match s.routeTrap f.route.toNat with
        | some t => .error t
        | none => .ok a.toNat

/-- One lane of a peer access: its sources, and its address or its trap. -/
structure LanePeer where
  lane : Nat
  srcs : List Src
  at' : Except Trap Nat

/-- The checks of one lane, poison first. -/
def State.peerLane (s : State) (f : MF) (n w : Nat) (us : List Use) (l : Nat) : LanePeer :=
  let srcs := s.sources us l
  let idx := srcs.getD 0 (0, false)
  ⟨l, srcs,
    if idx.2 then .error (poisonTrap 2)
    else if (srcs.drop 1).any (·.2) then .error (poisonTrap 3)
    else s.peerCheck f n w (localIndex f.offset w idx.1)⟩

/-- The lanes that pass, with their addresses. -/
def peersOk (ls : List LanePeer) : List (LanePeer × Nat) :=
  ls.filterMap fun x => match x.at' with | .ok a => some (x, a) | .error _ => none

/-- The lanes that trap. -/
def peersBad (ls : List LanePeer) : List (Nat × List Src × Trap) :=
  ls.filterMap fun x => match x.at' with | .ok _ => none | .error t => some (x.lane, x.srcs, t)

/-- Whether a peer access writes the target store. -/
def PeerKind.writes : PeerKind → Bool
  | .load _ _ => false
  | .store _ _ | .atom _ _ _ _ _ => true

/-- Issues a peer access for the lanes that pass, with their addresses: one request for each, in ascending lane order (R488).
`elems` gives the elements that a reply binds. -/
def State.issuePeer (s : State) (f : MF) (load : Bool) (good : List (LanePeer × Nat)) (rows : List Nat)
    (elems : Nat → List Elem) (ty : Ty) (kind : LanePeer → PeerKind) : State :=
  let (id, s) := s.newId
  let wide := MF.rel f && (MF.sc f).wide
  let reqs : List PeerReq := good.map fun x =>
    { src := s.core.id, group := s.gid, op := id, lane := x.1.lane, route := f.route.toNat,
      dst := s.routeDst f.route.toNat, addr := x.2, kind := kind x.1
      carry := if wide && PeerKind.writes (kind x.1) then some s.core.now else none }
  let before := s.earlier
  let s := (if load then s else s.onGrp Group.effect).addOp
    { id := id, load := load, started := false, elems := (good.map fun x => elems x.1.lane).flatten, ty := ty,
      acq := if MF.acq f then some (MF.sc f) else none, blocks := MF.acq f, due := good.map (·.1.lane), pc := s.pc,
      srcs := good.map fun x => (x.1.lane, x.1.srcs), rows := rows }
  let s := s.onGrp fun g => { g with pend := ⟨.op id, rows⟩ :: g.pend }
  (if MF.rel f then s.release (MF.sc f) true before (.peers id reqs)
    else s.follow { gid := some s.gid, scope := MF.sc f, release := false, acks := [], ops := [], most := 0, cont := .peers id reqs }).finishOps

/-- A peer access: the lanes that fail a check park, and the others issue. -/
def State.peerAccess (s : State) (i : Instr) (f : MF) (load : Bool) (n w : Nat) (us : List Use) (rows : List Nat)
    (elems : Nat → List Elem) (ty : Ty) (kind : LanePeer → PeerKind) : State :=
  s.access i fun s =>
    let ls := s.active.map fun l => s.peerLane f n w us l
    let dst := s.routeDst f.route.toNat
    if (if load then 63 ≤ s.grp.loads else 63 ≤ s.grp.stores) then s.waitBefore (if load then .loads else .stores)
    else match (peersOk ls).find? fun x => s.peerBusy dst x.2 (n * w) with
    | some x => s.waitBefore (.peers dst x.2 (n * w))
    | none => (s.issuePeer f load (peersOk ls) rows elems ty kind).proceed (peersBad ls) rows

/-- LDP (R557). -/
def execLdp (f : MF) (s : State) : Out :=
  let t := MF.lty f
  let w := MF.w f
  .next (s.peerAccess (.ldp f) f true (MF.n f) w [f.idx] (s.dstRows (.ldp f))
    (fun l => (List.range (MF.n f)).map fun k =>
      { lane := l, reg := s.elemReg f.data t k, line := 0, off := 0, w := w }) t
    fun _ => .load w (MF.n f))

/-- STP (R606). -/
def execStp (f : MF) (s : State) : Out :=
  let t := MF.lty f
  let w := MF.w f
  .next (s.peerAccess (.stp f) f false (MF.n f) w (f.idx :: MF.dataUses f t (MF.n f)) [] (fun _ => []) t
    fun x => .store w ((x.srcs.drop 1).map (·.1)))

/-- ATOMP (R486, R488). -/
def execAtomp (f : MF) (s : State) : Out :=
  let t := (MF.atomTy f).getD .b32
  let w := t.width / 8
  .next (s.peerAccess (.atomp f) f (MF.ret f) 1 w (f.idx :: MF.atomUses f t) (s.dstRows (.atomp f))
    (fun l => if MF.ret f then [{ lane := l, reg := f.data.reg, line := 0, off := 0, w := w }] else []) t
    fun x => .atom (atomOp f.sub.toNat) (atomClass t) t.wide (x.srcs.getD 1 (0, false)).1 (x.srcs.getD 2 (0, false)).1)

/-! ### At the target and back (R37, R316, R450, R488) -/

/-- Performs a peer access on the team in focus: the values it returns. A poisoned word that an atomic updates stays
poisoned (R483). -/
def State.peerPerform (s : State) (a : Nat) (k : PeerKind) : List (BitVec 64 × Bool) × State :=
  match k with
  | .load w n => ((List.range n).map fun i => s.localRead (a + i * w) w, s)
  | .store w vs => ([], (vs.zipIdx).foldl (fun s v => s.localWrite (a + v.2 * w) w v.1 false) s)
  | .atom op cls wide x c =>
    let w := if wide then 8 else 4
    let old := s.localRead a w
    ([old], s.localWrite a w (atomNew op cls wide old.1 x c).1 old.2)

/-- The answer to a peer request. -/
def PeerReq.answer (m : PeerReq) (vs : List (BitVec 64 × Bool)) (ok : Bool) : Instr :=
  .peerAccessReply ⟨m.src, m.group, m.op, m.lane, m.route, vs, ok⟩

/-- A peer access at the target core (R247, R316, R450, R488). -/
def State.peerArrive (s : State) (m : PeerReq) : State :=
  let s := s.focusCore m.dst
  match s.peerEnd m.group.team.grid with
    | .team t =>
      let r := (s.focusTeam t).peerPerform m.addr m.kind
      let s := match m.carry with
        | some c => r.2.raiseNow (c.read r.2.ep)
        | none => r.2
      s.send (PeerReq.answer m r.1 true)
    | .placeholder => s.send (.retry (.peer m))
    | .nobody => s.send (PeerReq.answer m [] false)

/-- PEER_ACCESS_ARRIVE (R247, R299, R316, R450, R488). -/
def execPeerAccessArrive (m : PeerReq) (s : State) : Out :=
  .next (match m.carry with
    | some c => s.onTime (CoreId.die m.dst) c (.peerAccessArrive m) fun s => s.peerArrive m
    | none => s.peerArrive m)

/-- Parks a lane at the earlier instruction of an operation (R37, R488): its later instructions keep their effects. -/
def State.lateTrap (s : State) (o : MemOp) (l : Nat) (t : Trap) : State :=
  let srcs := ((o.srcs.find? (·.1 == l)).map (·.2)).getD []
  (s.onGrp fun g =>
    { g.setLane l (fun x => { x with
        st := .parked, replay := false, cause := t.cause, tpc := o.pc.setWidth 64, taddr := t.addr,
        log := some ⟨o.pc, 0, srcs, o.rows⟩, back := some (x.pc, x.nest, x.st) }) with
      pend := ⟨.lane l, o.rows⟩ :: g.pend }).touch

/-- The values that a reply binds (R488). -/
def MemOp.bindLane (o : MemOp) (l : Nat) (vs : List (BitVec 64 × Bool)) : MemOp :=
  let mine := o.elems.filter (·.lane == l)
  { o with
    due := eraseN o.due l
    elems := o.elems.filter (·.lane != l) ++ (mine.zipIdx).map fun e => { e.1 with val := vs.getD e.2 (0, false) } }

/-- PEER_ACCESS_REPLY (R37, R488): binds the lane's values, or parks the lane with ROUTE. While the lane stands parked or
in a handler the reply waits. -/
def execPeerAccessReply (m : PeerAns) (s : State) : Out :=
  let s := s.focusCore m.src
  .next (s.atGroup m.group fun s =>
    match s.grp.ops.find? (·.id == m.op) with
    | none => s
    | some o =>
      let x := s.lane m.lane
      let drop (o : MemOp) : MemOp := { o with due := eraseN o.due m.lane, elems := o.elems.filter (·.lane != m.lane) }
      if m.delivered then s.onOp m.op fun o => o.bindLane m.lane m.values
      else if x.st == .exited then s.onOp m.op drop
      else if x.st == .parked || x.replay then s.later 1 (.peerAccessReply m)
      else
        (s.onOp m.op drop).lateTrap o m.lane { kind := 0x0D, addr := BitVec.ofNat 64 m.route }).pump

end Sys2Proof.Machine
end

