-- ==== Sys2Proof/Machine/Barrier.lean ====
section
/-! DEFINITION. Barrier objects: their layout, the shared steps on them, BARINIT to BARTX, and the messages between objects (R351 to R356, R490 to R497). -/

namespace Sys2Proof.Machine

/-! ### The object (R351) -/

/-- A barrier object. `count` is KIND 1, `fwd` FWD, and `tx` TXBYTES as its 32 bits. -/
structure BarObj where
  broken : Bool := false
  phase : Bool := false
  count : Bool := false
  fwd : Bool := false
  err : BitVec 4 := 0
  amask : BitVec 8 := 0
  expect : BitVec 10 := 0
  arrived : BitVec 10 := 0
  live : BitVec 10 := 0
  defl : BitVec 10 := 0
  tx : BitVec 32 := 0
  upen : Bool := false
  uproute : BitVec 6 := 0
  upaddr : BitVec 17 := 0
  pmask : BitVec 8 := 0
  deriving DecidableEq, Repr

/-- A truth value as one bit. -/
def bit1 (b : Bool) : BitVec 1 := BitVec.ofBool b

/-- The 16 bytes of an object (R351). -/
def BarObj.pack (o : BarObj) : BitVec 128 :=
  bit1 o.broken ++ bit1 o.phase ++ bit1 o.count ++ bit1 o.fwd ++ o.err ++ o.amask ++ o.expect ++ o.arrived ++ o.live
    ++ o.defl ++ (0 : BitVec 8) ++ o.tx ++ bit1 o.upen ++ o.uproute ++ o.upaddr ++ o.pmask

/-- The object in 16 bytes (R351). -/
def BarObj.unpack (x : BitVec 128) : BarObj :=
  { broken := x.getLsbD 127, phase := x.getLsbD 126, count := x.getLsbD 125, fwd := x.getLsbD 124,
    err := x.extractLsb' 120 4, amask := x.extractLsb' 112 8, expect := x.extractLsb' 102 10,
    arrived := x.extractLsb' 92 10, live := x.extractLsb' 82 10, defl := x.extractLsb' 72 10,
    tx := x.extractLsb' 32 32, upen := x.getLsbD 31, uproute := x.extractLsb' 25 6, upaddr := x.extractLsb' 8 17,
    pmask := x.extractLsb' 0 8 }

/-- The object at a local address of the team in focus. -/
def State.bar (s : State) (a : Nat) : BarObj := BarObj.unpack (BitVec.ofNat 128 (Memory.readNat Memory.zeros s.core.store (s.local a) 16))

/-- Stores an object. -/
def State.putBar (s : State) (a : Nat) (o : BarObj) : State := s.onCore (·.setBytes (s.local a) 16 o.pack.toNat false)

/-- Whether a local address names a declared object (R491). -/
def LaunchRecord.isObject (r : LaunchRecord) (a : Nat) : Bool := a % 16 == 0 && decide (a < 16 * r.nbar)

/-- A BARRIER trap at an object (R429, R430). -/
def barTrap (detail : BitVec 8) (a : Nat) : Trap := { kind := 0x0B, detail := detail, addr := BitVec.ofNat 64 a }

/-- The scope of an object's edges (R492). -/
def BarObj.scope (o : BarObj) : Scope := if o.count then .panel else .core

/-! ### Waiters (R355, R497) -/

/-- Whether a group of the object's own team waits on it, with its parity. -/
def Group.waitsBar (g : Group) (a : Nat) : Option Bool :=
  g.waiting?.bind fun w => match w.what with
    | .barrier b p none => if b = a then some p else none
    | _ => none

/-- Every group of the team in focus. -/
def State.teamGroups (s : State) : List Group := s.grp :: s.team.groups

/-- Acts on each group of the team in focus that satisfies a condition. -/
def State.eachOf (s : State) (p : Group → Bool) (f : State → State) : State :=
  ((s.teamGroups.filter fun g => !g.lanes.isEmpty && p g).map (·.num)).foldl
    (fun s n => s.atGroup ⟨s.team.id, n⟩ f) s

/-- The answer to a waiter on another core (R497). -/
def BarWaiter.answer (w : BarWaiter) (o : BarObj) (detail : Nat) : Instr :=
  .barwaitReply ⟨w.core, w.group, w.addr, o.count, detail, 0, none⟩

/-- The object broke: every waiter traps with detail 2 (R353, R355). -/
def State.breakBar (s : State) (a : Nat) : State :=
  let o := s.bar a
  let away := s.team.barWaiters.filter (·.addr == a)
  let s := { s with team := { s.team with barWaiters := s.team.barWaiters.filter (·.addr != a) } }
  let s := away.foldl (fun s w => s.send (w.answer o 2)) s
  s.eachOf (fun g => (g.waitsBar a).isSome) (·.trapWaiters (barTrap 2 a))

/-- The phase changed: every waiter whose parity differs completes, with its acquire (R355, R492, R497). -/
def State.wakeBar (s : State) (a : Nat) : State :=
  let o := s.bar a
  let done (w : BarWaiter) : Bool := w.addr == a && w.parity != o.phase
  let away := s.team.barWaiters.filter done
  let s := { s with team := { s.team with barWaiters := s.team.barWaiters.filter (!done ·) } }
  let s := away.foldl (fun s w => s.send (w.answer o 0)) s
  s.eachOf (fun g => (g.waitsBar a).any (· != o.phase)) fun s => (s.acquire o.scope).wake

/-! ### The steps of R353 -/

/-- A first-level object whose EXPECT and LIVE reach 0 both, from `was` to `now`, sends LEAVE to its coordinator (R354). -/
def State.leaveUp (s : State) (a : Nat) (was now : BarObj) : State :=
  let gone (o : BarObj) : Bool := o.count && o.upen && o.expect == 0 && o.live == 0
  let n := now.uproute.toNat
  if gone now && !gone was && (s.routeTrap n).isNone then
    s.sendRoute n (.leave ⟨s.core.id, n, s.routeDst n, s.team.id, now.upaddr.toNat, some (s.core.id, a)⟩)
  else s

/-- complete(o) of R353, with the replies that an object at the second level holds (R356). Where the completion breaks the
object, its waiters trap in that step (R355). -/
def State.completeBar (s : State) (a : Nat) : State :=
  let was := s.bar a
  let live := was.live - was.defl
  let o := { was with live := live, defl := 0, arrived := 0, amask := 0, fwd := false, phase := !was.phase,
                      broken := decide (live < was.expect) }
  let replies := s.team.pendingUp.filter (·.addr == a)
  let s := s.putBar a o
  let s := { s with team := { s.team with
    pendingUp := s.team.pendingUp.filter (·.addr != a)
    arrivals := s.team.arrivals.filter (·.addr != a) } }
  let s := replies.foldl (fun s m => s.send (.arriveReply ⟨m.src, m.group, m.srcObj, true, 0, 0, none⟩)) s
  (if o.broken then s.breakBar a else s.wakeBar a).leaveUp a was o

/-- check(o) of R353. A forwarded completion travels on the object's route (R356). -/
def State.checkBar (s : State) (a : Nat) : State :=
  let o := s.bar a
  if o.broken then s
  else if o.arrived = o.expect ∧ o.tx = 0 then
    if o.count && o.upen then
      if o.fwd then s
      else
        let n := o.uproute.toNat
        let s := s.putBar a { o with fwd := true }
        if (s.routeTrap n).isSome then s
        else s.sendRoute n (.arrive { src := s.core.id, group := ⟨s.team.id, 0⟩, srcObj := a, dst := s.routeDst n,
                                      addr := o.upaddr.toNat, kind := .forward, lanes := 0, route := n })
    else s.completeBar a
  else if o.live < o.expect then (s.putBar a { o with broken := true }).breakBar a
  else s

/-- One step on an object: its change, the check, and the LEAVE of a first-level object (R353, R354). -/
def State.stepBar (s : State) (a : Nat) (f : BarObj → BarObj) : State :=
  ((s.putBar a (f (s.bar a))).checkBar a).leaveUp a (s.bar a) (f (s.bar a))

/-- The detail with which an arrival at an object traps, 0 for none (R354, R493). `g` is the number of a group of the
object's own team, none for a control core or a remote arrival. -/
def BarObj.refuses (o : BarObj) (g : Option Nat) : Nat :=
  if o.broken then 2
  else if o.count then (if o.arrived = o.expect then 1 else 0)
  else match g with
    | none => 1
    | some n => if !o.pmask.getLsbD n || o.amask.getLsbD n then 1 else 0

/-- One bit of a group mask. -/
def groupBit (n : Nat) : BitVec 8 := BitVec.ofNat 8 (2 ^ n)

/-- An arrival at an object that does not refuse it (R354). -/
def BarObj.arrive (o : BarObj) (g : Option Nat) (drop : Bool) : BarObj :=
  let b := groupBit (g.getD 8)
  let o := if o.count then o else { o with amask := o.amask ||| b }
  if drop then { o with expect := o.expect - 1, live := o.live - 1, pmask := if o.count then o.pmask else o.pmask &&& ~~~b }
  else { o with arrived := o.arrived + 1 }

/-- BARARV or BARARV.DROP reaches an object of the team in focus (R354, R493): the detail of its trap, or its step. -/
def State.arriveBar (s : State) (a : Nat) (g : Option Nat) (drop : Bool) (who : Arrival) (up : Option ArriveMsg) : Nat × State :=
  let o := s.bar a
  match o.refuses g with
  | 0 =>
    let s := { s with team := { s.team with
      arrivals := if drop || !o.count then s.team.arrivals else who :: s.team.arrivals
      pendingUp := s.team.pendingUp ++ up.toList } }
    (0, s.stepBar a (·.arrive g drop))
  | n + 1 => (n + 1, s)

/-- The end of group `g` reaches the objects of its team (R354). -/
def State.groupLeaves (s : State) (g : Nat) : State :=
  (List.range s.team.lrec.nbar).foldl (fun s k =>
    let o := s.bar (16 * k)
    if !o.count && o.pmask.getLsbD g then
      s.stepBar (16 * k) fun o =>
        let o := { o with pmask := o.pmask &&& ~~~groupBit g }
        if o.amask.getLsbD g then { o with defl := o.defl + 1 } else { o with live := o.live - 1 }
    else s) s

/-- The count-off of an engine operation in one step, with its status (R348, R354, R355). -/
def State.countOff (s : State) (a n : Nat) (status : Nat) : State :=
  s.stepBar a fun o =>
    { o with tx := o.tx - BitVec.ofNat 32 n, err := if o.err = 0 then BitVec.ofNat 4 status else o.err }

/-! ### The object that an instruction names (R490) -/

/-- The core that a quad and a QCORE name within the cluster of a control core (R19, R360, R490). -/
def State.quadCore (s : State) (quad q : Nat) : CoreId :=
  match s.core.id with
  | .ctl d n =>
    let col := n % 16 * 4 + quad % 2 * 2 + q % 2
    let row := n / 16 * 4 + quad / 2 * 2 + q / 2
    .vec d col (((s.die d).prow col row).getD 66)
  | c => c

/-- Acts on the team whose object an instruction names: the issuing team, or on a control core the team of its grid that
was placed first on the selected core. None when no such team is resident. -/
def State.atObject {α : Type} (s : State) (f : XF) (k : State → α × State) : Option (α × State) :=
  if s.kind != .control then some (k s)
  else
    let c := s.quadCore (f.b.reg / 4) (f.b.reg % 4)
    match s.firstTeam s.team.id.grid c with
    | none => none
    | some t =>
      let r := k ((s.focusCore c).focusTeam t.id)
      some (r.1, (r.2.focusCore s.core.id).focusGroup s.gid)

/-- The operands of a barrier instruction: opA, opB and opC where it uses them. -/
def State.barUses (s : State) (i : Instr) : List Use := (encOf s.ctx i).uses

/-- A barrier instruction: it acts once, after POISON and the check that BAR names an object (R491). A remote one leaves
that check to the target. -/
def State.barOp (s : State) (i : Instr) (f : XF) (body : State → List (BitVec 64) → State) : State :=
  s.access i fun s =>
    let vs := (s.barUses i).map fun u => s.fetchUse u 0
    if vs.any (·.2) then s.trapActive (poisonTrap 1) []
    else if !XF.remote f && !s.team.lrec.isObject f.bar.toNat then s.trapActive (barTrap 4 f.bar.toNat) []
    else body s (vs.map (·.1))

/-- The object named by an instruction as it stands, if there is one. -/
def State.namedBar (s : State) (f : XF) : Option BarObj := (s.atObject f fun s => (s.bar f.bar.toNat, s)).map (·.1)

/-! ### The instructions -/

/-- Whether BARINIT refuses its operands (R354, R494). -/
def State.barinitBad (s : State) (f : XF) (expect b c : Nat) : Bool :=
  let count := f.flags.getLsbD 1
  let live := if count then b else popcount 8 (BitVec.ofNat 64 b)
  let a := f.bar.toNat
  let waits := s.teamGroups.any (fun g => (g.waitsBar a).isSome) || s.team.barWaiters.any (·.addr == a)
  expect == 0 || decide (1023 < expect) || decide (live < expect) || decide (1023 < live)
    || (!count && decide (2 ^ (s.team.lrec.p + s.team.lrec.c) ≤ b)) || (!count && decide (256 ≤ b))
    || (count && f.flags.getLsbD 2 && c % 16 != 0) || waits || (s.bar a).tx != 0

/-- BARINIT (R494): the object starts afresh, with no arrival in its phase (R354). -/
def execBarinit (f : XF) (s : State) : Out :=
  .next (s.barOp (.barinit f) f fun s vs =>
    let e := uval 32 (nth vs 0)
    let b := uval 32 (nth vs 1)
    let c := uval 32 (nth vs 2)
    if s.barinitBad f e b c then s.trapActive (barTrap 3 f.bar.toNat) []
    else
      let o : BarObj :=
        if f.flags.getLsbD 1 then
          { count := true, expect := BitVec.ofNat 10 e, live := BitVec.ofNat 10 b, upen := f.flags.getLsbD 2,
            upaddr := BitVec.ofNat 17 c, uproute := BitVec.ofNat 6 (bits c 22 17) }
        else { expect := BitVec.ofNat 10 e, live := BitVec.ofNat 10 (popcount 8 (BitVec.ofNat 64 b)), pmask := BitVec.ofNat 8 b }
      let s := { s with team := { s.team with arrivals := s.team.arrivals.filter (·.addr != f.bar.toNat) } }
      (s.stepBar f.bar.toNat fun _ => o).next)

/-- The team notes a count-only object at which it arrives, with the route that it took and its DROPs there (R354). -/
def Team.noteObject (t : Team) (c : CoreId) (route a : Nat) (drops : Nat → Nat) : Team :=
  let mine (o : GangObj) : Bool := o.core == c && o.addr == a
  let old := ((t.gangObjs.find? mine).map (·.drops)).getD 0
  { t with gangObjs := ⟨c, route, a, drops old⟩ :: t.gangObjs.filter (!mine ·) }

/-- The team in focus notes an object. -/
def State.noteObject (s : State) (c : CoreId) (route a : Nat) (drop : Bool) : State :=
  { s with team := s.team.noteObject c route a (if drop then (· + 1) else id) }

/-- BARARV on an object that the core reaches itself (R492, R493). -/
def State.bararvHere (s : State) (f : XF) : State :=
  let a := f.bar.toNat
  let drop := f.sub == 1
  let g := if s.kind == .control then none else some s.grp.num
  let tid := s.team.id
  match s.namedBar f with
  | none => s.trapActive (barTrap 4 a) []
  | some o =>
    match o.refuses g with
    | n + 1 => s.trapActive (barTrap (BitVec.ofNat 8 (n + 1)) a) []
    | 0 =>
      s.released true o.scope fun s =>
        match s.atObject f fun s => s.arriveBar a g drop ⟨a, tid, none⟩ none with
        | none => s.trapActive (barTrap 4 a) []
        | some (0, s) =>
          let c := if s.kind == .control then s.quadCore (f.b.reg / 4) (f.b.reg % 4) else s.core.id
          (if o.count then s.noteObject c localRoute a drop else s).next
        | some (n + 1, s) => s.trapActive (barTrap (BitVec.ofNat 8 (n + 1)) a) []

/-- BARARV with REMOTE: the arrival travels along its route after the release (R356, R493). -/
def State.bararvRemote (s : State) (f : XF) : State :=
  let n := f.route.toNat
  match s.routeTrap n with
  | some t => s.trapActive t []
  | none =>
    s.released true .panel fun s =>
      let (id, s) := s.newId
      let m : ArriveMsg := { src := s.core.id, group := s.gid, srcObj := id, dst := s.routeDst n, addr := f.bar.toNat,
                             kind := if f.sub = 1 then .drop else .arrive, lanes := BitVec.ofNat 32 (maskOf s.active), route := n }
      (((s.onGrp fun g => { g.effect with arrs := (id, s.pc, f.bar.toNat) :: g.arrs }).noteObject m.dst n m.addr (f.sub == 1)).sendRoute
        n (.arrive m)).next

/-- BARARV (R492, R493). -/
def execBararv (f : XF) (s : State) : Out :=
  .next (s.barOp (.bararv f) f fun s _ => if XF.remote f then s.bararvRemote f else s.bararvHere f)

/-- BARTX (R496). -/
def execBartx (f : XF) (s : State) : Out :=
  .next (s.barOp (.bartx f) f fun s vs =>
    (s.stepBar f.bar.toNat fun o => { o with tx := o.tx + (nth vs 0).setWidth 32 }).next)

/-- BARTEST (R495). -/
def execBartest (f : XF) (s : State) : Out :=
  .next (s.barOp (.bartest f) f fun s vs =>
    match s.namedBar f with
    | none => s.trapActive (barTrap 4 f.bar.toNat) []
    | some o =>
      if o.broken then s.trapActive (barTrap 2 f.bar.toNat) []
      else
        let differs := o.phase != (nth vs 0).getLsbD 0
        let s := if differs then s.acquire o.scope else s
        (s.onGrp fun g => { g with scc := differs }).next)

/-- BARWAIT (R497). -/
def execBarwait (f : XF) (s : State) : Out :=
  .next (s.barOp (.barwait f) f fun s vs =>
    let a := f.bar.toNat
    let par := (nth vs 0).getLsbD 0
    if XF.remote f then
      let n := f.route.toNat
      match s.routeTrap n with
      | some t => s.trapActive t []
      | none =>
        (s.sendRoute n (.arrive { src := s.core.id, group := s.gid, srcObj := 0, dst := s.routeDst n, addr := a,
                                  kind := .wait par, lanes := BitVec.ofNat 32 (maskOf s.active), route := n })).waitFor
          (.barrier a par (some n))
    else
      match s.namedBar f with
      | none => s.trapActive (barTrap 4 a) []
      | some o =>
        if o.broken then s.trapActive (barTrap 2 a) []
        else if o.phase != par then (s.acquire o.scope).next true
        else if s.kind == .control then
          let w : BarWaiter := ⟨s.core.id, s.gid, a, par⟩
          match s.atObject f fun s => ((), { s with team := { s.team with barWaiters := s.team.barWaiters ++ [w] } }) with
          | some r => r.2.waitFor (.barrier a par (some 64))
          | none => s.trapActive (barTrap 4 a) []
        else s.waitFor (.barrier a par none))

/-! ### Messages (R354, R356, R497) -/

/-- The LEAVE that a team still owes an object at which its DROP trapped (R354). -/
def ArriveMsg.kept (m : ArriveMsg) : LeaveMsg := ⟨m.src, m.route, m.dst, m.group.team, m.addr, none⟩

/-- ARRIVE (R356, R493, R497): a remote arrival, a forwarded completion or a wait request reaches its object. An answer of
256 stands for ROUTE (R247). -/
def execArrive (m : ArriveMsg) (s : State) : Out :=
  let s := s.focusCore m.dst
  let fwd := m.kind == .forward
  let back (n : Nat) : Instr := match m.kind with
    | .wait _ => .barwaitReply ⟨m.src, m.group, m.addr, true, n, m.lanes, none⟩
    | k => .arriveReply ⟨m.src, m.group, m.srcObj, fwd, n, m.lanes, if k == .drop && n != 0 then some (ArriveMsg.kept m) else none⟩
  .next (match s.peerEnd m.group.team.grid with
    | .placeholder => s.later 64 (.arrive m)
    | .nobody => s.send (back 256)
    | .team t =>
      let s := s.focusTeam t
      if !s.team.lrec.isObject m.addr then s.send (back 4)
      else
        match m.kind with
        | .wait par =>
          let o := s.bar m.addr
          if o.broken then s.send (back 2)
          else if o.phase != par then s.send (.barwaitReply ⟨m.src, m.group, m.addr, o.count, 0, m.lanes, none⟩)
          else { s with team := { s.team with barWaiters := s.team.barWaiters ++ [⟨m.src, m.group, m.addr, par⟩] } }
        | .forward =>
          match s.arriveBar m.addr none false ⟨m.addr, m.group.team, some (m.src, m.srcObj)⟩ (some m) with
          | (0, s) => s
          | (n + 1, s) => s.send (back (n + 1))
        | k =>
          let r := s.arriveBar m.addr none (k == .drop) ⟨m.addr, m.group.team, none⟩ none
          r.2.send (back r.1))

/-- An answer to a team that has been saved waits for its restore, and then goes to its new core (R450); none while the team
is where the answer went. -/
def State.followTeam (s : State) (t : TeamId) (dst : CoreId) (again : CoreId → Instr) : Option State :=
  if (s.allTeams.any fun x => x.1 == dst && x.2.id == t) then none
  else if s.contexts.any (fun (x : Context) => x.team.id == t) then some (s.later 64 (again dst))
  else (s.allTeams.find? fun x => x.2.id == t).map fun x => s.send (again x.1)

/-- The trap that the answer to a remote barrier operation names. -/
def arriveTrap (detail a : Nat) : Trap :=
  if detail = 256 then { kind := 0x0D } else barTrap (BitVec.ofNat 8 detail) a

/-- A DROP trapped at its object: the team has not dropped it, and one that has ended meanwhile sends its LEAVE (R354). -/
def State.dropFailed (s : State) (m : ArriveAns) : State :=
  match m.leave with
  | none => s
  | some l =>
    if s.coreTeams.any (·.id == l.team) then
      let id := s.team.id
      let s := s.focusTeam l.team
      ({ s with team := s.team.noteObject l.dst l.route l.addr (· - 1) }).focusTeam id
    else s.sendRoute l.route (.leave l)

/-- ARRIVE_REPLY (R356): a first-level phase completes, or the sending lanes trap when the arrival trapped. A first-level
object whose forwarded arrival trapped is broken. -/
def execArriveReply (m : ArriveAns) (s : State) : Out :=
  let s := s.focusCore m.dst
  .next (match s.followTeam m.group.team m.dst fun c => .arriveReply { m with dst := c } with
    | some s => s
    | none =>
    if m.forward then
      let s := s.focusTeam m.group.team
      if s.team.id ≠ m.group.team then s
      else if m.detail = 0 then (if (s.bar m.obj).fwd then s.completeBar m.obj else s)
      else (s.putBar m.obj { s.bar m.obj with broken := true }).breakBar m.obj
    else
      (s.dropFailed m).atGroup m.group fun s =>
        match s.grp.arrs.find? (·.1 == m.obj) with
        | none => s
        | some r =>
          let lanes := (List.range 32).filter fun l => m.lanes.getLsbD l && (s.lane l).st != .exited
          let busy := lanes.any fun l => (s.lane l).st == .parked || (s.lane l).replay
          if m.detail ≠ 0 && busy then s.later 1 (.arriveReply m)
          else
            let s := s.onGrp fun g => { g with arrs := g.arrs.filter (·.1 != m.obj) }
            if m.detail = 0 then s
            else
              let o : MemOp := { id := m.obj, load := false, pc := r.2.1 }
              lanes.foldl (fun s l => s.lateTrap o l (arriveTrap m.detail r.2.2)) s)

/-- BARWAIT_REPLY (R497): the group's wait completes, or its lanes trap. -/
def execBarwaitReply (m : ArriveAns) (s : State) : Out :=
  .next (match s.followTeam m.group.team m.dst fun c => .barwaitReply { m with dst := c } with
    | some s => s
    | none => (s.focusCore m.dst).atGroup m.group fun s =>
    let mine := s.grp.waiting?.any fun w => match w.what with
      | .barrier a _ (some _) => a == m.obj
      | _ => false
    if !mine then s
    else if m.detail = 0 then (s.acquire (if m.forward then .panel else .core)).wake
    else s.trapWaiters (arriveTrap m.detail m.obj))

/-- LEAVE (R354). -/
def execLeave (m : LeaveMsg) (s : State) : Out :=
  let s := s.focusCore m.dst
  .next (match s.peerEnd m.team.grid with
    | .placeholder => s.later 64 (.leave m)
    | .nobody => s
    | .team t =>
      let s := s.focusTeam t
      let here := s.team.arrivals.any fun r => r.addr == m.addr && r.obj == m.obj && (m.obj.isSome || r.team == m.team)
      if !s.team.lrec.isObject m.addr || !(s.bar m.addr).count then s
      else s.stepBar m.addr fun o => if here then { o with defl := o.defl + 1 } else { o with live := o.live - 1 })

end Sys2Proof.Machine
end

