-- ==== Sys2Proof/Machine/Regs.lean ====
section
/-! DEFINITION. The register blocks of a die as they read, and the rights of the access tables (R70, R81 to R84, R269, R307 to R309, R437, R453, R459, R464 to R466, R469, R631). -/

namespace Sys2Proof.Machine

/-! ### Where the blocks lie (R453) -/

/-- OFFSET of the first register block in a die's firmware area. -/
def regOffset : Nat := 0x1FFFF00000

/-- Whether a line lies in a register block: the die, and the offset of the line from the first block. -/
def regLine (line : Nat) : Option (Nat × Nat) :=
  let a := line * 128
  if paSpace a = 0 ∧ regOffset ≤ paOffset a ∧ paOffset a < regOffset + 0x100000 ∧ paDie a < 40 then some (paDie a, paOffset a - regOffset)
  else none

/-! ### Access tables (R464) -/

/-- The entry of the access tables that judges a register block; none for the tables themselves. -/
def targetOf (off : Nat) : Option Nat :=
  match off / 0x1000 with
  | 0 => some 1 | 1 => some 2 | 2 => some 3 | 3 => some 4 | 4 => some 5
  | n => if 0x10 ≤ n ∧ n < 0x20 then some 6 else if 0x80 ≤ n ∧ n ≤ 0xA0 then some 7 else none

/-- The rights of a master at a target of a die: bits R, W, X, C. -/
def Die.rights (d : Die) (target m : Nat) : BitVec 4 :=
  let e := d.tables.getD target (0, 0)
  if m ≤ 15 then e.1.extractLsb' (4 * m) 4 else e.2.extractLsb' (4 * (m - 16)) 4

/-- Whether a master may read at an offset. -/
def State.mayRead (s : State) (d off m : Nat) : Bool :=
  match targetOf off with
  | some t => ((s.die d).rights t m).getLsbD 0
  | none => off / 0x1000 == 6

/-- A refused access is counted for the management controller (R464). -/
def State.refuse (s : State) (d : Nat) : State := s.onDie d fun x => { x with refused := x.refused + 1 }

/-! ### Peer ports (R457) -/

/-- The die that carries a peer port. -/
def portDie (p : Nat) : Nat := Config.portDie p % 40

/-- A peer port by number; one that is not listed holds its reset values. -/
def State.port (s : State) (p : Nat) : Port := (s.ports.find? (·.num == p)).getD { num := p }

/-- Changes a peer port. -/
def State.onPort (s : State) (p : Nat) (f : Port → Port) : State :=
  { s with ports := f (s.port p) :: s.ports.filter (·.num != p) }

/-! ### What the registers read -/

/-- STATE of a forwarder (R84). -/
def FwdSt.code : FwdSt → Nat
  | .off => 0 | .acquire => 1 | .run => 2 | .orphan => 3 | .adopt => 4

/-- FWDCFG (R82). -/
def Die.fwdcfg (d : Die) : Nat :=
  let x := d.fwd.asked.getD (d.fwd.parent, d.fwd.child)
  x.2.toNat * 2 ^ 8 + x.1.toNat * 2 ^ 4 + b2n d.fwd.hostMode

/-- FWDSTAT (R84). -/
def Die.fwdstat (d : Die) : Nat :=
  d.fwd.st.code * 2 ^ 5 + b2n d.fwd.refOk * 2 ^ 4 + b2n d.fwd.badCfg * 2 ^ 3 + b2n d.held * 2 ^ 2 + b2n d.fwd.lockE * 2 + b2n d.fwd.lockW

/-- BRBSTAT (R308). -/
def Die.brbstat (d : Die) : Nat :=
  d.epoch.toNat * 2 ^ 10 + b2n d.awaitsStart * 2 ^ 9 + b2n d.sweeping * 2 ^ 8 + b2n d.hostRb

/-- The words of a block as (offset, size, value). -/
def State.blockWords (s : State) (d n : Nat) : List (Nat × Nat × Nat) :=
  let x := s.die d
  match n with
  | 0 => [(0, 4, x.fwdcfg), (4, 4, x.fwdstat), (0x10, 8, s.ptp.rateWord.toNat),
          (0x18, 8, (BitVec.ofInt 64 ((s.ptp.slew + x.west.adj) / 2 ^ 32)).toNat), (0x20, 8, x.west.step.toNat)]
  | 1 => [(0, 8, x.tinv.va.toNat), (8, 8, x.tinv.len.toNat), (0x10, 4, x.tinv.cmd.toNat), (0x14, 4, b2n x.tinv.busy)]
  | 2 => [(0, 4, x.brbstat), (8, 4, x.rebases.toNat), (0x10, 8, x.rplAddr.toNat), (0x18, 4, x.rplCmd.toNat),
          (0x1C, 4, b2n x.rplNoent * 2 + b2n x.rplBusy.isSome)]
  | 3 => [(0, 8, x.dutySel.toNat), (0x20, 4, x.scval.toNat), (0x28, 8, x.pm.req.toNat % 2 ^ 62), (0x30, 8, b2n x.pm.notFound * 2 + b2n x.pm.busy)]
  | 4 => [(0, 8, x.loader.addr.toNat), (8, 4, x.loader.asid.toNat), (0x10, 4, x.loader.cmd.toNat % 2 ^ 31),
          (0x14, 4, x.loader.status * 2 ^ 16 + x.loader.failed * 2 ^ 8 + b2n x.loader.busy)]
  | 6 => (x.tables.zipIdx.map fun e => [(16 * e.2, 8, e.1.1.toNat), (16 * e.2 + 8, 8, e.1.2.toNat)]).flatten
  | _ =>
    if 0x10 ≤ n ∧ n < 0x20 then
      let p := s.port (n - 0x10)
      if portDie p.num = d then [(8, 8, p.done.toNat), (0x10, 8, p.err.toNat), (0x18, 8, 64 - p.posts.length)] else []
    else []

/-- The watch entries of a debug line: four lines hold sixteen cores' entries each (R437, R453). -/
def State.watchWords (s : State) (d off : Nat) : List (Nat × Nat × Nat) :=
  let k := (off - 0x80000) / 32
  let of (j : Nat) : List DWord :=
    let id : CoreId := .vec d ((k + j) / 66) ((k + j) % 66)
    if s.core.id = id then s.core.watch else ((s.cores.find? (·.id == id)).map (·.watch)).getD []
  ((List.range 4).map fun j => (of j).zipIdx.map fun w => (32 * j + 8 * w.2, 8, w.1.toNat)).flatten

/-- The 128 bytes of a register line as a master reads them; a refused read gives zeros. -/
def State.regBytes (s : State) (m d off : Nat) : Nat :=
  if !s.mayRead d off m then 0
  else
    let words :=
      if 0x80000 ≤ off then s.watchWords d off
      else (s.blockWords d (off / 0x1000)).filterMap fun w =>
        if off % 0x1000 ≤ w.1 ∧ w.1 < off % 0x1000 + 128 then some (w.1 - off % 0x1000, w.2) else none
    words.foldl (fun x w => x + w.2.2 % 2 ^ (8 * w.2.1) * 2 ^ (8 * w.1)) 0

/-- `w` bits of a register line from a bit. -/
def State.regBits (s : State) (m d off bit w : Nat) : Nat := s.regBytes m d off / 2 ^ bit % 2 ^ w

end Sys2Proof.Machine
end

