-- ==== Sys2Proof/Machine/Home.lean ====
section
/-! DEFINITION. Homes: the Bureau's side of timestamp coherence, holders and recalls, unit commits, remote-data caches and replicas, Bench, and the events of messages that reach a home (R235 to R238, R272 to R275, R280, R282, R284, R285, R288, R290, R291, R303, R304, R325 to R330, R334 to R336). -/

namespace Sys2Proof.Machine

/-! ### Lines and slices (R249, R272 to R274) -/

/-- The channel of a line's slice (R249, R272). -/
def lineChannel (line : Nat) : Nat := bits line 5 0 ^^^ bits line 11 6

/-- The die of a line. -/
def lineDie (line : Nat) : Nat := paDie (line * 128)

/-- The set of a line within its slice (R273). -/
def setOfLine (line : Nat) : Nat := bits (line * 128) 20 13

/-- The slice that holds a line. -/
def State.slice (s : State) (line : Nat) : Slice :=
  (s.slices.find? fun x => x.die == lineDie line && x.ch == lineChannel line).getD { die := lineDie line, ch := lineChannel line }

/-- Changes the slice of a line. -/
def State.onSlice (s : State) (line : Nat) (f : Slice → Slice) : State :=
  { s with slices := f (s.slice line) ::
      s.slices.filter fun x => !(x.die == lineDie line && x.ch == lineChannel line) }

/-- The epoch of a line's home die. -/
def State.homeEp (s : State) (line : Nat) : BitVec 2 := (s.die (lineDie line)).epoch

/-- The record of a resident line. -/
def State.homeOf (s : State) (line : Nat) : Option Home := s.homes.find? (·.line == line)

/-- Stores a resident line's record, as the latest used of its slice (R274). -/
def State.putHome (s : State) (h : Home) : State := { s with homes := h :: s.homes.filter (·.line != h.line) }

/-- Requests that wait for a way of a line's slice are handled again (R274). -/
def State.wayFreed (s : State) (line : Nat) : State :=
  (s.onSlice line fun x => { x with waiting := [] }).requeue (s.slice line).waiting

/-- Whether a slice may choose a line for eviction (R274). -/
def Home.evictable (h : Home) : Bool := h.holder.isNone && !h.opn && !h.recalling && h.prep.isNone

/-- Evicts a line: its timestamps fold into MTS (R274). -/
def State.evictHome (s : State) (h : Home) : State :=
  let e := s.homeEp h.line
  let r := h.rts.read e
  let s := { s with homes := s.homes.filter (·.line != h.line) }
  s.onSlice h.line fun x => { x with mts := ⟨e, max (x.mts.read e) r⟩ }

/-- Recalls the holder of a line (R328). -/
def State.recall (s : State) (h : Home) (sc : Scope) : State :=
  match h.holder with
  | some c => (s.putHome { h with recalling := true }).send (.recall ⟨h.line, c, sc⟩)
  | none => s

/-- The resident lines of a line's set. -/
def State.setOf (s : State) (line : Nat) : List Home :=
  s.homes.filter fun h => lineDie h.line == lineDie line && lineChannel h.line == lineChannel line && setOfLine h.line == setOfLine line

/-- Whether a set of lines has a way for one more, which the binner's ways are not (R273). -/
def State.spareWay (s : State) (line : Nat) : Bool :=
  decide ((s.setOf line).length < 16 - (s.die (lineDie line)).binWays)

/-- Makes a line resident (R274). The least recently used line that may go is evicted; when none may, the holder of the
least recently used held line is recalled, and the request waits. -/
def State.fillHome (s : State) (line : Nat) : Option Home × State :=
  match s.homeOf line with
  | some h => (some h, s.putHome h)
  | none =>
    let mine := s.setOf line
    let e := s.homeEp line
    let fresh (s : State) : Option Home × State :=
      let m : Stamp := ⟨e, (s.slice line).mts.read e⟩
      let h : Home := { line := line, wts := m, rts := m }
      (some h, s.putHome h)
    if s.spareWay line then fresh s
    else
      match (mine.filter Home.evictable).getLast? with
      | some v => fresh (s.evictHome v)
      | none =>
        match (mine.filter fun h => h.holder.isSome && !h.recalling && h.prep.isNone).getLast? with
        | some v => (none, s.recall v .panel)
        | none => (none, s)

/-- Whether a line can be resident: it is, or its set has a way or a line that may go (R274). -/
def State.wayFree (s : State) (line : Nat) : Bool :=
  (s.homeOf line).isSome || s.spareWay line || (s.setOf line).any Home.evictable

/-- Whether an agent that waits for a line must have a holder recalled, and no recall is under way for it (R274). -/
def State.lacksWay (s : State) (line : Nat) : Bool :=
  !s.wayFree line && !((s.setOf line).any (·.recalling)) && (s.setOf line).any fun h => h.holder.isSome && h.prep.isNone

/-- An agent that waits for a line asks for a way: a holder is recalled where that must be (R274). -/
def State.askWay (s : State) (line : Nat) : State := if s.lacksWay line then (s.fillHome line).2 else s

/-- Reads of lines at their homes make them resident and count as uses of them (R274). -/
def State.useLines (s : State) (lines : List Nat) : State := lines.foldl (fun s l => (s.fillHome l).2) s

/-- The line that a request to a home names. -/
def homeLine : Instr → Option Nat
  | .read m | .renewq m => some m.line
  | .cpbk m => some m.line
  | .atomq m => some m.line
  | .hold m | .unhold m => some m.line
  | .yield m => some m.line
  | .prep m => some m.line
  | .commit m => some m.line
  | .benchContribution m => some m.line
  | _ => none

/-- Handles a request at the home of a line (R274, R275, R299, R328, R334): behind one for the line that waits for a way or for a start;
when the line cannot be made resident it waits for a way; while a YIELD or COMMIT is awaited the kinds that those rules name are held. -/
def State.atHome (s : State) (line : Nat) (m : Instr) (now : Stamp) (holds : Bool) (k : Home → State → State) : State :=
  let mine (x : Instr) : Bool := homeLine x == some line
  s.onTime (lineDie line) now m fun s =>
    if (s.die (lineDie line)).stalled.any mine then s.onDie (lineDie line) fun d => { d with stalled := d.stalled ++ [m] }
    else if (s.slice line).waiting.any mine then s.onSlice line fun x => { x with waiting := x.waiting ++ [m] }
    else
      match s.fillHome line with
      | (none, s) => s.onSlice line fun x => { x with waiting := x.waiting ++ [m] }
      | (some h, s) =>
        if holds && (h.recalling || h.prep.isSome) then s.putHome { h with held := h.held ++ [m] }
        else k h s

/-- The requests held for a line are handled again, in their order. -/
def State.releaseHeld (s : State) (h : Home) : State := ((s.putHome { h with held := [] }).requeue h.held).wayFreed h.line

/-! ### Data at the home -/

/-- The 128 bytes of a line. -/
def State.lineBytes (s : State) (line : Nat) : BitVec 1024 := BitVec.ofNat 1024 (s.readNat (line * 128) 128)

/-- POISON of a line (R273). -/
def State.linePoison (s : State) (line : Nat) : BitVec 4 :=
  BitVec.ofNat 4 ((List.range 4).foldl (fun n k => n + b2n (has s.memPoison (line * 4 + k)) * 2 ^ k) 0)

/-- Sets the poison of a sector. -/
def State.setSector (s : State) (sector : Nat) (p : Bool) : State :=
  { s with memPoison := if p then insertN s.memPoison sector else eraseN s.memPoison sector }

/-- Writes the bytes of a line under a mask. -/
def writeMasked (u : Nat → Byte) (m : List Host.Cell) (line : Nat) (mask : BitVec 128) (bytes : BitVec 1024) : List Host.Cell :=
  (List.range 128).foldl (fun m k => if mask.getLsbD k then Memory.write u m (line * 128 + k) (byteOf bytes.toNat k) else m) m

/-- Merges masked bytes into memory and sets each sector's POISON (R285, R290). -/
def State.mergeLine (s : State) (line : Nat) (mask : BitVec 128) (bytes : BitVec 1024) (poison : BitVec 32) : State :=
  let s := { s with mem := writeMasked s.unlisted s.mem line mask bytes }
  (List.range 4).foldl (fun s k =>
    let m := mask.toNat / 2 ^ (32 * k) % 2 ^ 32
    let bad := poison.toNat / 2 ^ (8 * k) % 2 ^ 8 != 0
    if bad then s.setSector (line * 4 + k) true
    else if m = 2 ^ 32 - 1 then s.setSector (line * 4 + k) false
    else s) s

/-- Tells the waiters on a line whose target the semaphore's value now meets (R416, R596). -/
def State.notify (s : State) (line : Nat) (wts : Stamp) : State :=
  s.semWaiters.foldl (fun s w =>
    let v := BitVec.ofNat 64 (s.readNat w.addr 8)
    if w.addr / 128 = line ∧ w.target ≤ v then s.send (.semaphoreNotice ⟨w.core, w.group, w.ref, w.launch, v, wts⟩) else s) s

/-- The stamp of a write: max(RTS + 1, the writer's `%now`) (R285, R288). -/
def State.writeStamp (s : State) (h : Home) (now : Stamp) : Nat :=
  let e := s.homeEp h.line
  max (h.rts.read e + 1) (now.read e)

/-- Sets both stamps of a line, and tells the semaphore's waiters. A line that firmware writes while its set has no way for it is written
and evicted at once: MTS takes the stamp (R274). -/
def State.stamp (s : State) (h : Home) (w : Nat) : State :=
  let t : Stamp := ⟨s.homeEp h.line, w⟩
  let s := if (s.homeOf h.line).isSome then s.putHome { h with wts := t, rts := t }
    else s.onSlice h.line fun x => { x with mts := ⟨t.ep, max (x.mts.read t.ep) w⟩ }
  (s.noteTick (lineDie h.line) w).notify h.line t

/-- A resident line's record with both stamps set. -/
def Home.stamped (h : Home) (t : Stamp) : Home := { h with wts := t, rts := t }

/-- Holds a message whose stamp would pass 0xFF_FFFF until the next start (R301). -/
def State.stallOr (s : State) (line n : Nat) (m : Instr) (k : State → State) : State :=
  if tickMax < n then
    (s.onDie (lineDie line) fun d => { d with stalled := d.stalled ++ [m] }).requestRebase (lineDie line)
  else k s

/-- Whether a line holds back the access of an agent other than a core, which writes it `n` times: its home die is held or in another
epoch than the agent, the line awaits a YIELD or COMMIT, it finds no way, or its last stamp would pass the largest (R75, R274, R299, R301,
R328, R334). -/
def State.lineHeld (s : State) (ep : BitVec 2) (now : Stamp) (line : Nat) (n : Nat := 1) : Bool :=
  (s.die (lineDie line)).held || s.homeEp line != ep || !s.wayFree line || match s.homeOf line with
  | some h => h.recalling || h.prep.isSome || decide (tickMax + 1 < s.writeStamp h now + n)
  | none => decide (tickMax < (s.slice line).mts.read (s.homeEp line) + n)

/-- Whether a line holds back an access of an agent of the core in focus. -/
def State.lineWaits (s : State) (now : Stamp) (line : Nat) (n : Nat := 1) : Bool := s.lineHeld s.ep now line n

/-! ### Remote-data caches (R284) -/

/-- The die of a sender. -/
def Who.die : Who → Option Nat
  | .core c => some (CoreId.die c)
  | .engine c _ => some (CoreId.die c)
  | .port _ => none

/-- A write that a core sends to a remote line drops its die's cached copy (R284). -/
def State.dropRdc (s : State) (who : Who) (line : Nat) : State :=
  match Who.die who with
  | some d => if d = lineDie line then s else s.onDie d fun x => { x with rdc := x.rdc.filter (·.line != line) }
  | none => s

/-- The sets of a die's remote-data cache (R284). -/
def Die.rdcSets (d : Die) : Nat := d.rdcgib * 2 ^ 30 / 128 / 16

/-- Stores a line in a die's remote-data cache; of a full set one line goes, and which is left open (log entry 9). -/
def State.putRdc (s : State) (d : Nat) (x : RdcLine) : State :=
  let die := s.die d
  let rest := die.rdc.filter (·.line != x.line)
  let mine := rest.filter fun y => y.line % die.rdcSets == x.line % die.rdcSets
  if mine.length < 16 then s.onDie d fun y => { y with rdc := x :: rest }
  else
    let (k, s) := s.drawNat mine.length
    let v := (mine.getD k x).line
    s.onDie d fun y => { y with rdc := x :: rest.filter (·.line != v) }

/-- Answers a request from a cached line under R282: EXTEND when the requester's WTS is not 0 and matches. -/
def answerFrom (m : LineReq) (own : Stamp) (e : BitVec 2) (x : RdcLine) (ynow : Option Stamp) : Instr :=
  let now := m.now.read e
  let rts : Stamp := if x.repl then x.rts else ⟨e, min (x.rts.read e) (now + m.lease)⟩
  if own.read e ≠ 0 ∧ own.read e = x.wts.read e ∧ !x.repl then .extend ⟨x.line, m.src, rts, ynow, m.ref, none⟩
  else .dataMsg { line := x.line, dst := m.src, bytes := x.bytes, poison := x.poison, wts := x.wts, rts := rts,
                  ynow := ynow, repl := x.repl, ref := m.ref, via := none }

/-- Whether a request passes through the remote-data cache of the requester's die (R284, R303, R327). -/
def State.throughRdc (s : State) (m : LineReq) : Bool :=
  m.fill.isNone && m.promote.isNone && CoreId.die m.src != lineDie m.line && (s.die (CoreId.die m.src)).rdcgib != 0

/-- A request at the remote-data cache of its own die: answered there, or sent on for the cache's own copy (R284, R303). -/
def State.rdcRequest (s : State) (m : LineReq) (renew : Bool) : State :=
  let d := CoreId.die m.src
  let e := (s.die d).epoch
  let own : Stamp := if renew then m.wts else ⟨e, 0⟩
  let ask (x : Option RdcLine) : Instr :=
    let r := { m with fill := some own, wts := (x.map (·.wts)).getD ⟨e, 0⟩ }
    if x.isSome then .renewq r else .read r
  match (s.die d).rdc.find? (·.line == m.line) with
  | some x =>
    if x.repl || (!x.rts.lost e && decide (m.now.read e ≤ x.rts.read e)) then s.requeue [answerFrom m own e x none]
    else s.send (ask (some x))
  | none => s.send (ask none)

/-! ### READ and RENEWQ at the home (R280, R282, R304, R328) -/

/-- Whether a holder must yield to a promoted request (R328). -/
def mustYield (h : Home) (src : CoreId) (promote : Option Scope) : Bool :=
  match h.holder, promote with
  | some c, some sc => c != src && (sc != .die || CoreId.die c == CoreId.die src)
  | _, _ => false

/-- Whether a fill is served as a replica line (R304): a directory entry of the page exists or can be allocated, and the
page is not DOWN. The die joins the entry's mask. -/
def State.replicaFill (s : State) (m : LineReq) : Bool × State :=
  match m.page with
  | none => (false, s)
  | some (frame, size) =>
    let home := lineDie m.line
    let dir := (s.die home).replDir
    let d := CoreId.die m.src
    match dir.find? (·.frame == frame) with
    | some p =>
      if p.down then (false, s)
      else (true, s.onDie home fun x => { x with replDir := x.replDir.map fun q =>
        if q.frame == frame then { q with dies := insertN q.dies d } else q })
    | none =>
      if 4096 ≤ dir.length then (false, s)
      else (true, s.onDie home fun x => { x with replDir := ⟨frame, size, [d], false⟩ :: x.replDir })

/-- Serves a request at its home: Grant and the answer (R280, R282). -/
def State.serve (s : State) (m : LineReq) (renew : Bool) (h : Home) (msg : Instr) : State :=
  if mustYield h m.src m.promote then (s.recall { h with held := h.held ++ [msg] } (m.promote.getD .panel))
  else
    let e := s.homeEp m.line
    let own : Stamp := ⟨e, m.now.read e + m.lease⟩
    let top := max (h.rts.read e) own.tick
    s.stallOr m.line top msg fun s =>
      let wts := h.wts.read e
      let ynow := if m.promote.isSome then h.ynow else none
      let via := if m.fill.isSome then some m else none
      let bytes := s.lineBytes m.line
      let poison := s.linePoison m.line
      let s := (s.putHome { h with rts := ⟨e, top⟩, ynow := if m.promote.isSome then none else h.ynow }).noteTick (lineDie m.line) top
      let (repl, s) := s.replicaFill m
      if renew && !repl && m.wts.read e != 0 && m.wts.read e == wts then s.send (.extend ⟨m.line, m.src, own, ynow, m.ref, via⟩)
      else s.send (.dataMsg { line := m.line, dst := m.src, bytes := bytes, poison := poison, wts := ⟨e, wts⟩, rts := own, ynow := ynow,
                              repl := repl, ref := m.ref, via := via })

/-- The answer to a dispatch core's read of a register line: it takes part in no timestamp (R631). -/
def State.serveRegs (s : State) (m : LineReq) (d off : Nat) : State :=
  let t : Stamp := ⟨(s.die d).epoch, 0⟩
  let s' := if s.mayRead d off 3 then s else s.refuse d
  s'.send (.dataMsg { line := m.line, dst := m.src, bytes := BitVec.ofNat 1024 (s.regBytes 3 d off), poison := 0, wts := t,
                      rts := t, ynow := none, repl := false, ref := m.ref, via := none })

/-- READ (R282, R284, R631). -/
def execRead (m : LineReq) (s : State) : Out :=
  .next (match regLine m.line with
    | some (d, off) => s.serveRegs m d off
    | none =>
    if s.throughRdc m then s.rdcRequest m false
    else s.atHome m.line (.read m) m.now true fun h s => s.serve m false h (.read m))

/-- RENEWQ (R282, R284). -/
def execRenewq (m : LineReq) (s : State) : Out :=
  .next (if s.throughRdc m then s.rdcRequest m true
    else s.atHome m.line (.renewq m) m.now true fun h s => s.serve m true h (.renewq m))

/-! ### CPBK, ATOMQ, HOLD, UNHOLD and YIELD (R285, R288, R325, R326, R328) -/

/-- CPBK (R285, R290). -/
def execCpbk (m : CpbkMsg) (s : State) : Out :=
  .next ((s.dropRdc m.who m.line).atHome m.line (.cpbk m) m.now false fun h s =>
    let w := s.writeStamp h m.now
    s.stallOr m.line w (.cpbk m) fun s =>
      ((s.mergeLine m.line m.mask m.bytes m.poison).stamp h w).send
        (.cpbkack ⟨m.line, m.who, ⟨s.homeEp m.line, w⟩, m.ref, m.mask⟩))

/-- A registration at the home (R326): another core's is recalled first, at DIE scope if both cores share a die. -/
def State.registers (s : State) (h : Home) (c : CoreId) (msg : Instr) (k : Home → State → State) : State :=
  match h.holder with
  | some o =>
    if o = c then k h s
    else s.recall { h with held := h.held ++ [msg] } (if CoreId.die o = CoreId.die c then .die else .panel)
  | none => k { h with holder := some c } s

/-- One atomic update at the home (R288, R482, R483). -/
def State.atomAt (s : State) (m : AtomMsg) (h : Home) : State :=
  let w := s.writeStamp h m.now
  s.stallOr m.line w (.atomq m) fun s =>
    let n := if m.wide then 8 else 4
    let old := BitVec.ofNat 64 (s.readNat m.addr n)
    let bad := has s.memPoison (m.addr / 32)
    let new := (atomNew m.op m.cls m.wide old m.a m.c).1
    let ynow := if m.promote.isSome then h.ynow else none
    let h := { h with ynow := if m.promote.isSome then none else h.ynow }
    let s := (s.writeNat m.addr n new.toNat).stamp h w
    s.send (.atoma ⟨m.who, old, bad, ⟨s.homeEp m.line, w⟩, ynow, m.ref, m.lane⟩)

/-- The core that sent a request. -/
def Who.core? : Who → Option CoreId
  | .core c => some c
  | .engine c _ => some c
  | .port _ => none

/-- ATOMQ (R288, R325, R327). -/
def execAtomq (m : AtomMsg) (s : State) : Out :=
  .next ((s.dropRdc m.who m.line).atHome m.line (.atomq m) m.now true fun h s =>
    match Who.core? m.who with
    | some c =>
      if mustYield h c m.promote then s.recall { h with held := h.held ++ [.atomq m] } (m.promote.getD .panel)
      else if m.holds then s.registers h c (.atomq m) fun h s => s.atomAt m h
      else s.atomAt m h
    | none => s.atomAt m h)

/-- HOLD (R325, R326). -/
def execHold (m : HoldMsg) (s : State) : Out :=
  .next (s.atHome m.line (.hold m) ⟨s.homeEp m.line, 0⟩ true fun h s =>
    s.registers h m.core (.hold m) fun h s => (s.putHome h).send (.holdack m))

/-- UNHOLD (R326). -/
def execUnhold (m : HoldMsg) (s : State) : Out :=
  .next (match s.homeOf m.line with
    | some h => if h.holder = some m.core then (s.putHome { h with holder := none }).wayFreed m.line else s
    | none => s)

/-- YIELD (R328): one that carries a word is applied as a CPBK; HOLDER clears, and held requests are handled. -/
def execYield (m : YieldMsg) (s : State) : Out :=
  .next (s.atHome m.line (.yield m) m.ynow false fun h s =>
    let h := { h with holder := none, recalling := false, ynow := some m.ynow }
    if m.mask = 0 then s.releaseHeld h
    else
      let w := s.writeStamp h m.ynow
      s.stallOr m.line w (.yield m) fun s =>
        ((s.mergeLine m.line m.mask m.bytes m.poison).stamp h w).releaseHeld (h.stamped ⟨s.homeEp m.line, w⟩))

/-! ### MX units (R334) -/

/-- PREP (R334). -/
def execPrep (m : UnitMsg) (s : State) : Out :=
  .next (s.atHome m.line (.prep m) m.stamp true fun h s =>
    (s.putHome { h with prep := some (m.core, m.op) }).send (.prepack { m with stamp := h.rts }))

/-- COMMIT (R334). -/
def execCommit (m : CommitMsg) (s : State) : Out :=
  .next (s.atHome m.line (.commit m) m.stamp false fun h s =>
    let e := s.homeEp m.line
    let w := max (m.stamp.read e) (h.rts.read e + 1)
    s.stallOr m.line w (.commit m) fun s =>
      let h := { h with prep := none }
      (((s.mergeLine m.line m.mask m.bytes m.poison).stamp h w).send (.commitack ⟨m.line, m.core, m.op, ⟨e, w⟩⟩)).releaseHeld
        (h.stamped ⟨e, w⟩))

/-! ### Bench (R236, R237) -/

/-- The position of a contributor in its epoch's order (R236). -/
def contribPos (m : Contribution) (l : Nat) : Nat := m.teamRank * l + m.laneRank

/-- The launch record of a grid that has not ended (R97): that of the launch, or of any of its teams. -/
def State.recordOf (s : State) (g : GridId) : Option LaunchRecord :=
  let here := s.coreTeams ++ (s.cores.map (·.teams)).flatten
  ((s.grids.find? fun (x : Grid) => x.id == g).map fun (x : Grid) => x.lrec).orElse fun _ => (here.find? (·.id.grid == g)).map (·.lrec)

/-- Applies a contribution to its element (R236): its stamp and the answer APPLY (R288, R335). -/
def State.benchApply (s : State) (m : Contribution) : State :=
  match s.fillHome (m.addr / 128) with
  | (none, s) => s
  | (some h, s) =>
    let n := if m.wide then 8 else 4
    let old := BitVec.ofNat 64 (s.readNat m.addr n)
    let new := (atomNew .faddo .floating m.wide old m.value 0).1
    let w := s.writeStamp h m.now
    let s := s.writeNat m.addr n new.toNat
    let s := if m.poison then s.setSector (m.addr / 32) true else s
    (s.stamp { h with opn := true } w).send (.apply ⟨m.who, ⟨s.homeEp (m.addr / 128), w⟩, m.ref⟩)

/-- Applies what stands next in order, contribution by contribution (R236). -/
def State.benchRun (s : State) (l ranks : Nat) : Nat → BenchElem → BenchElem × State
  | 0, b => (b, s)
  | n + 1, b =>
    match b.buf.find? fun c => contribPos c l == b.pos with
    | none => (b, s)
    | some c => (s.benchApply c).benchRun l ranks n { b with pos := (b.pos + 1) % ranks, buf := b.buf.erase c }

/-- Contributions that a slice buffers (R237). -/
def State.benchLoad (s : State) (line : Nat) : Nat :=
  (s.bench.filter fun b => lineDie (b.addr / 128) == lineDie line && lineChannel (b.addr / 128) == lineChannel line).foldl
    (fun n b => n + b.buf.length) 0

/-- BENCH_CONTRIBUTION (R236, R237): applied in its turn, buffered ahead of it, or refused when the buffer is full. -/
def execBenchContribution (m : Contribution) (s : State) : Out :=
  let line := m.addr / 128
  .next ((s.dropRdc m.who line).atHome line (.benchContribution m) m.now true fun h s =>
    let mine (k : Home → State → State) : State := match m.holds, Who.core? m.who with
      | true, some c => s.registers h c (.benchContribution m) k
      | _, _ => k h s
    mine fun h s => match s.recordOf m.grid with
    | none => (s.putHome h).send (.accept ⟨m.who, h.wts, m.ref⟩)
    | some r =>
      let s := s.putHome h
      let l := r.benchl
      let ranks := r.teams * l
      let b := (s.bench.find? fun b => b.addr == m.addr && b.grid == m.grid).getD { addr := m.addr, wide := m.wide, grid := m.grid }
      if contribPos m l ≠ b.pos ∧ 256 ≤ s.benchLoad line then s.send (.retry (.bench m))
      else s.stallOr line (s.writeStamp h m.now + b.buf.length) (.benchContribution m) fun s =>
        let (b', s) := s.benchRun l ranks (b.buf.length + 1) { b with buf := b.buf ++ [m] }
        let rest := s.bench.filter fun x => !(x.addr == m.addr && x.grid == m.grid)
        let closed := b'.pos == 0 && b'.buf.isEmpty
        let s := { s with bench := if closed then rest else b' :: rest }
        let s := s.send (.accept ⟨m.who, h.wts, m.ref⟩)
        let still := s.bench.any fun x => x.addr / 128 == line
        match s.homeOf line with
        | some h => if still then s.putHome { h with opn := true } else (s.putHome { h with opn := false }).wayFreed line
        | none => s)

/-- The message that a refused or undeliverable one is (R38, R237, R357, R450). -/
def Resend.msg : Resend → Instr
  | .bench c => .benchContribution c
  | .packet p => .packetArrive p
  | .peer r => .peerAccessArrive r
  | .xpeer x => .xpeerWriteArrive x
  | .arrive a => .arrive a
  | .line r renew => if renew then .renewq r else .read r
  | .atom m => .atomq m
  | .cpbk m => .cpbk m

/-- The core that sends a refused message again. -/
def Resend.sender : Resend → Option CoreId
  | .bench c => Who.core? c.who
  | .packet p => some p.src
  | .peer r => some r.src
  | .xpeer x => some x.src
  | .arrive a => some a.src
  | .line r _ => some r.src
  | .atom m => Who.core? m.who
  | .cpbk m => Who.core? m.who

/-- RETRY_RESEND (R237, R357, R450): 64 clk after a refusal the sender sends the message again. -/
def execRetryResend (m : Resend) (s : State) : Out := .next (s.send (Resend.msg m))

/-- RETRY (R336): the sender will send the refused message again 64 clk later. -/
def execRetry (m : Resend) (s : State) : Out :=
  .next { s with timers := s.timers ++ [(s.clk + 64, .retryResend m)] }

end Sys2Proof.Machine
end

