-- ==== Sys2Proof/Machine/Time.lean ====
section
/-! DEFINITION. Clock regions and the forwarding tree as instructions read them: `%gtc`, `%clk`, `%clkstat`, `%skewcls` (R52 to R69, R633). -/

namespace Sys2Proof.Machine

/-- Whether a core lies in the east region of its die (R13, R633). -/
def CoreId.east (c : CoreId) : Bool := decide (32 ≤ CoreId.col c)

/-- A clock region. -/
def State.region (s : State) (d : Nat) (east : Bool) : Region := if east then (s.die d).east else (s.die d).west

/-- Changes a clock region. -/
def State.onRegion (s : State) (d : Nat) (east : Bool) (f : Region → Region) : State :=
  s.onDie d fun x => if east then { x with east := f x.east } else { x with west := f x.west }

/-- `%gtc` of a region: the top 64 bits of its accumulator (R62). -/
def Region.gtc (r : Region) : Nat := r.acc.toNat / 2 ^ 32

/-- `%gtc` as a core reads it (R61, R633). -/
def State.gtcOf (s : State) (c : CoreId) : Nat := (s.region (CoreId.die c) (CoreId.east c)).gtc

/-- `%skewcls` of a die (R69). -/
def State.skewWord (s : State) (d : Nat) : Nat :=
  match s.rootOf 13 d with
  | some (root, depth) => root * 2 ^ 16 + ((s.parentOf d).getD 0xFF) * 2 ^ 8 + depth * 2 ^ 4 + skewClass depth
  | none => 0xFF * 2 ^ 8

/-- PTPST (R67). -/
def PtpSt.code : PtpSt → Nat
  | .off => 0
  | .acquiring => 1
  | .locked => 2
  | .holdover => 3

/-- `%clkstat` of a die with LATE of a group (R67). -/
def State.clkstatWord (s : State) (d : Nat) (late : Bool) : Nat :=
  let x := s.die d
  b2n (s.isRoot d) * 2 ^ 8 + s.ptp.st.code * 2 ^ 6 + b2n x.fwd.hostMode * 2 ^ 5 + b2n late * 4 + b2n x.acc * 2
    + b2n (x.fwd.lockW && x.fwd.lockE)

end Sys2Proof.Machine
end

