-- ==== Sys2Proof/Machine/Special.lean ====
section
/-! DEFINITION. The special registers: MOVSP and SETSP (R17, R49, R61 to R69, R178, R217, R224, R278, R429, R430, R565 to R567, R598, R599). -/

namespace Sys2Proof.Machine

/-- `%core` (R17, R566). -/
def State.coreWord (s : State) : Nat :=
  match s.core.id with
  | .vec d c r => d * 2 ^ 24 + r * 2 ^ 16 + c * 2 ^ 8 + s.lrowOf s.core.id
  | c => CoreId.die c * 2 ^ 24

/-- The panel-map generation word of the core's die (R45, R49). -/
def State.mapgen (s : State) : Nat := s.readNat (paOf (CoreId.die s.core.id) (127 * 2 ^ 30)) 8

/-- The WTS of a line at its home; a line that is not resident has its slice's MTS (R274). -/
def State.homeWts (s : State) (line : Nat) : Stamp :=
  match s.homes.find? (·.line == line) with
  | some h => h.wts
  | none =>
    let a := line * 128
    let ch := bits a 12 7 ^^^ bits a 18 13
    ((s.slices.find? fun x => x.die == paDie a && x.ch == ch).map (·.mts)).getD ⟨0, 0⟩

/-- The value of a special register for a lane (R566). -/
def State.special (s : State) (n l : Nat) : Nat :=
  let v := s.kind == .vector
  let x := s.lane l
  let g := s.grp
  let d := CoreId.die s.core.id
  match n with
  | 0 => if v then l else 0
  | 1 => if v then g.num else 0
  | 2 => if v then s.team.id.rank else 0
  | 3 => if v then g.role else 0
  | 4 => s.coreWord
  | 5 => d
  | 6 => if v then s.quadOf s.core.id else 0
  | 7 => if v then x.nest.toNat else 0
  | 0x10 => (s.region d (CoreId.east s.core.id)).clk.toNat
  | 0x11 => s.gtcOf s.core.id
  | 0x12 => s.clkgen.toNat
  | 0x13 => s.clkstatWord d g.late
  | 0x14 => s.skewWord d
  | 0x18 => s.ep.toNat * 2 ^ 24 + s.nowTick
  | 0x19 => s.ep.toNat * 2 ^ 24 + s.horizonTick
  | 0x1A => s.mapgen
  | 0x20 => if v then g.fpstatWord.toNat else 0
  | 0x21 => if v then g.fpctlWord.toNat else 0
  | 0x22 => g.ucondWord.toNat
  | 0x30 => x.cause.toNat
  | 0x31 => x.tpc.toNat
  | 0x32 => x.taddr.toNat
  | _ => 0

/-- The line of a die's image of the panel map that holds its generation word (R45). -/
def mapgenLine (d : Nat) : Nat := paOf d (127 * 2 ^ 30) / 128

/-- A read of `%mapgen` orders like an acquire load at PANEL scope (R49, R567); its home takes note of it (R274). -/
def State.mapgenOrder (s : State) : State :=
  let line := mapgenLine (CoreId.die s.core.id)
  let w := (s.homeWts line).read s.ep
  let s := s.useLines [line]
  (((s.setNow (s.nowTick + 1)).raiseHorizon w).raiseNow w).acquire .panel

/-- MOVSP (R565 to R567). A read of `%mapgen` waits as an acquire load does, for earlier acquires and fences and for its home, and for a
rebase when `%now` cannot rise (R49, R301, R312, R317). -/
def execMovsp (f : SF) (s : State) : Out :=
  .next (s.frame (.movsp f) fun s =>
    if s.active.isEmpty then s.next
    else if f.code.toNat = 0x1A ∧ s.orderHeld then s.waitBefore (.order false)
    else if f.code.toNat = 0x1A ∧ s.lineWaits s.core.now (mapgenLine (CoreId.die s.core.id)) 0 then
      (s.askWay (mapgenLine (CoreId.die s.core.id))).waitBefore (.line (mapgenLine (CoreId.die s.core.id)))
    else if f.code.toNat = 0x1A ∧ tickMax ≤ s.nowTick then s.waitRebase
    else
      let n := f.code.toNat
      let val (l : Nat) : BitVec 64 := BitVec.ofNat 64 (s.special n l)
      let t : Ty := if specialWide n then .b64 else .b32
      let s' := match f.dst with
        | .v r => s.writeVals r.toNat t (s.active.map fun l => (l, val l))
        | o => s.writeS o.reg t.wide (val 0)
      (if n = 0x1A then s'.mapgenOrder else s').next)

/-- The effect of SETSP for the group (R599). -/
def Group.setSpecial (g : Group) (n : Nat) (v : Word) : Group :=
  match n with
  | 0x20 => { g with fpstat := v.extractLsb' 0 5 }
  | 0x21 => g.setFpctl v
  | 0x13 => { g with late := v.getLsbD 2 }
  | 0x22 => { g with scc := v.getLsbD 0 }
  | _ => g

/-- SETSP (R598, R599): once, or per lane for `%nest`. -/
def execSetsp (f : SF) (s : State) : Out :=
  let u : Use := { o := f.a, ty := .n32 }
  .next (s.frame (.setsp f) fun s =>
    if s.active.isEmpty then s.next
    else if f.code = 7 then
      let vs := s.active.map fun l => (l, s.sources [u] l)
      let bad := vs.filterMap fun x => if (only x.2).2 then some (x.1, x.2, poisonTrap 1) else none
      let pc := s.pc
      let moved := s.issueSet.filter fun l => !(bad.any (·.1 == l))
      let s := s.onGrp fun g => (g.step moved).mapLanes fun k x =>
        match vs.find? (·.1 == k) with
        | some y => if (only y.2).2 then x else { x with nest := BitVec.ofNat 6 (only y.2).1.toNat }
        | none => x
      (bad.foldl (fun s x => s.trapLane x.1 x.2.2 x.2.1 []) s).retire pc false
    else
      let v := s.fetchUse u 0
      if v.2 then s.trapActive (poisonTrap 1) []
      else (s.onGrp fun g => g.setSpecial f.code.toNat (v.1.setWidth 32)).next)

end Sys2Proof.Machine
end

