-- ==== Sys2Proof/Machine/Tile.lean ====
section
/-! DEFINITION. The Shelf: tile entries and their states, TILEDEF, TILEQ and TILEREL (R110, R145 to R149, R362, R609 to R611). -/

namespace Sys2Proof.Machine

/-- A TILE trap (R430). -/
def trapTile (n : Nat) : Trap := { kind := 0x0A, addr := BitVec.ofNat 64 n }

/-- Bytes of the elements of a box or tile, with the scales of an MX format after the next multiple of 128 (R343). -/
def boxBytes (t : Ty) (n : Nat) : Nat :=
  let e := (n * t.elemBits + 7) / 8
  if t.mx then roundUp e 128 + n / 32 else e

/-- The groups of the cluster's control core look again at what they wait for: a tile may have changed (R110). -/
def State.wakeControl (s : State) : State :=
  match s.core.id with
  | .vec d _ _ => s.atCore (.ctl d (s.clusterOf s.core.id)) fun s => s.eachGroup State.poll
  | _ => s

/-- A tile of the team in focus changes its state, and the groups that wait look again (R110, R148). -/
def State.moveTile (s : State) (n st : Nat) : State :=
  match s.team.tile n with
  | some e => ((s.putTile n (tileTo e st)).eachGroup State.poll).wakeControl
  | none => s

/-! ### The instructions -/

/-- The checks of TILEDEF after POISON (R146, R149, R610). -/
def State.tiledefTrap (s : State) (n : Nat) (e : DWord) : Option Trap :=
  let lo := s.team.lrec.tmRows
  let hi := lo + s.team.lrec.tileRows
  match numTy (tileFmt e) with
  | none => some { kind := 1, detail := 0x0D }
  | some t =>
    if bits e.toNat 18 17 ≠ 0 then some { kind := 1, detail := 0x0D }
    else if tileBase e < lo || hi < tileBase e + tileNrows e then some { kind := 5 }
    else if !s.team.lrec.isObject (tileBar e) then some (barTrap 4 (tileBar e))
    else if tileNrows e * 128 < boxBytes t ((tileErows e + 1) * (tileEcols e + 1)) then some { kind := 1, detail := 0x0D }
    else
      match s.team.tile n with
      | none => some (trapTile n)
      | some old =>
        if (tileDef old && tileState old != 0) || (tileOwner e == 1 && s.team.lrec.c == 0) then some (trapTile n) else none

/-- TILEDEF (R146, R610). -/
def execTiledef (f : XF) (s : State) : Out :=
  .next (s.once (.tiledef f) [uS2 f.a] fun s vs =>
    let n := f.tile.toNat
    let e := nth vs 0
    match s.tiledefTrap n e with
    | some t => s.trapActive t []
    | none => (s.putTile n ((e &&& 0x1FFFFFFFFFFFFFFF) ||| 0x2000000000000000)).next)

/-- TILEQ (R609, R610): an entry that is not declared or not defined reads as zero. -/
def execTileq (f : XF) (s : State) : Out :=
  .next (s.once (.tileq f) [] fun s _ =>
    let n := f.tile.toNat
    let team := if s.kind = .control then s.firstTeam s.team.id.grid (s.quadCore (f.b.reg / 4) (f.b.reg % 4)) else some s.team
    (s.writeS f.a.reg true ((team.bind fun t => t.defTile n).getD 0)).next)

/-- TILEREL (R148, R611). -/
def execTilerel (f : XF) (s : State) : Out :=
  .next (s.once (.tilerel f) [] fun s _ =>
    let n := f.tile.toNat
    match s.team.defTile n with
    | none => s.trapActive (trapTile n) []
    | some e =>
      match tileState e with
      | 0 => s.next
      | 2 => if s.tileHeld n then s.waitBefore (.tile n none) else (s.moveTile n 0).next
      | _ => s.waitBefore (.tile n none))

end Sys2Proof.Machine
end

