-- ==== Sys2Proof/Machine/Engine.lean ====
section
/-! DEFINITION. The bulk copy engine: shape records, boxes, the transfer and the completion of an engine operation (R152, R267, R289, R331, R334, R341 to R350, R455, R456, R471 to R475, R617 to R619). -/

namespace Sys2Proof.Machine

/-! ### Shape records (R341 to R345) -/

/-- `n` bytes of a record from an offset. -/
def recField (bs : List Byte) (off n : Nat) : Nat := leNat ((bs.drop off).take n)

/-- The record in 128 bytes. -/
def Shape.parse (bs : List Byte) : Shape :=
  let ctl := recField bs 8 8
  { gbase := bits (recField bs 0 8) 55 0
    efmt := bits ctl 39 36, ndim := bits ctl 31 29, dir := bits ctl 28 27, lswz := bits ctl 26 24
    fillen := bit ctl 23, gpol := bits ctl 22 21
    ext := (List.range 5).map fun d => recField bs (0x10 + 4 * d) 4
    str := (List.range 4).map fun d => bits (recField bs (0x28 + 8 * d) 8) 47 0
    start := (List.range 5).map fun d => sval 32 (BitVec.ofNat 64 (recField bs (0x48 + 4 * d) 4))
    box := (List.range 5).map fun d => bits (recField bs (0x60 + 2 * d) 2) 7 0
    fill := BitVec.ofNat 64 (recField bs 0x70 8)
    sbase := bits (recField bs 0x78 8) 55 0 }

/-- Whether a reserved field of a record is set, or a code is reserved (R341, R342). -/
def reservedShape (bs : List Byte) (drain : Bool) : Bool :=
  let ctl := recField bs 8 8
  bits (recField bs 0 8) 63 56 != 0 || bits ctl 63 40 != 0 || bits ctl 35 32 != 0 || bits ctl 20 0 != 0
    || (!drain && bits ctl 39 36 != 0) || decide (4 < bits ctl 31 29) || decide (3 < bits ctl 26 24)
    || bits ctl 22 21 == 3 || recField bs 0x24 4 != 0 || recField bs 0x5C 4 != 0 || recField bs 0x6A 6 != 0
    || (List.range 4).any (fun d => bits (recField bs (0x28 + 8 * d) 8) 63 48 != 0)
    || (List.range 5).any (fun d => bits (recField bs (0x60 + 2 * d) 2) 15 8 != 0)
    || bits (recField bs 0x78 8) 63 56 != 0

/-- BOXd + 1. -/
def Shape.boxN (r : Shape) (d : Nat) : Nat := r.box.getD d 0 + 1

/-- Elements of the box. -/
def Shape.count (r : Shape) : Nat := ((List.range 5).map r.boxN).foldl (· * ·) 1

/-- Box indices (c0, …, c4) of element `k`, c0 fastest (R343). -/
def Shape.index (r : Shape) (k : Nat) : List Nat :=
  ((List.range 5).foldl (fun (p : List Nat × Nat) d => (p.1 ++ [p.2 % r.boxN d], p.2 / r.boxN d)) ([], k)).1

/-- The coordinates of element `k`; with an index list dimension 1 takes the index of its row (R343, R347). -/
def Shape.coord (r : Shape) (idx : List (Option Nat)) (k : Nat) : List Int :=
  let c := r.index k
  (List.range 5).map fun d =>
    if d = 1 ∧ !idx.isEmpty then (((idx.getD (c.getD 1 0) none).getD 0 : Nat) : Int)
    else r.start.getD d 0 + (c.getD d 0 : Nat)

/-- Whether coordinates lie in the extents (R343). -/
def Shape.inRange (r : Shape) (x : List Int) : Bool :=
  (List.range 5).all fun d => decide (0 ≤ x.getD d 0) && decide (x.getD d 0 < (r.ext.getD d 1 : Nat))

/-- The byte size of a block of an MX format (R344). -/
def mxBlock (t : Ty) : Nat := t.elemBits * 4

/-- The global bit address of an element from in-range coordinates (R343). -/
def Shape.gbit (r : Shape) (t : Ty) (x : List Int) : Nat :=
  8 * r.gbase + (x.getD 0 0).toNat * t.elemBits
    + ((List.range 4).map fun d => if d < r.ndim then (x.getD (d + 1) 0).toNat * r.str.getD d 0 * 8 else 0).sum

/-- The global byte address of a block's scale (R344). -/
def Shape.scaleAt (r : Shape) (t : Ty) (x : List Int) : Nat :=
  r.sbase + (x.getD 0 0).toNat / 32
    + ((List.range 4).map fun d => if d < r.ndim then (x.getD (d + 1) 0).toNat * (r.str.getD d 0 / mxBlock t) else 0).sum

/-- One moved item of a box: an element, half of one or a block's scale. Its global bit address (none when clipped), its local bit
address, its width, whether it is a scale, whether its row's index is poisoned, the number of its element in the box, or of the first of its
block, the bit of the element at which it begins, and its global bit address in the second box of a copy. -/
structure Piece where
  g : Option Nat
  l : Nat
  w : Nat
  scale : Bool := false
  bad : Bool := false
  num : Nat := 0
  sh : Nat := 0
  g2 : Option Nat := none
  deriving DecidableEq, Repr

/-- A local byte address under LSWZ (R244, R342). -/
def localSwizzle (k a : Nat) : Nat := a ^^^ ((a / 128 % 8 &&& (2 ^ k - 1)) * 16)

/-- The items of a box at local byte address `la`, in local order (R343, R344). -/
def Shape.pieces (r : Shape) (t : Ty) (idx : List (Option Nat)) (la : Nat) : List Piece :=
  let n := r.count
  let e := t.elemBits
  let at' (b : Nat) : Nat := localSwizzle r.lswz (b / 8) * 8 + b % 8
  let row (k : Nat) : Bool := !idx.isEmpty && (idx.getD ((r.index k).getD 1 0) none).isNone
  let elems := (List.range n).map fun k =>
    let x := r.coord idx k
    { g := if r.inRange x then some (r.gbit t x) else none, l := at' (la * 8 + k * e), w := e, bad := row k, num := k : Piece }
  if !t.mx then elems
  else
    elems ++ (List.range (n / 32)).map fun b =>
      let x := r.coord idx (32 * b)
      { g := if r.inRange x then some (8 * r.scaleAt t x) else none
        l := at' ((la + roundUp (n * e / 8) 128 + b) * 8), w := 8, scale := true, num := 32 * b : Piece }

/-- Whether a record breaks R343 to R345, apart from its local bytes. -/
def Shape.malformed (r : Shape) (bs : List Byte) (t : Ty) (drain : Bool) (idx : List (Option Nat)) : Bool :=
  let above := (List.range 5).filter (r.ndim < ·)
  reservedShape bs drain
    || above.any (fun d => r.ext.getD d 1 != 1 || r.start.getD d 0 != 0 || r.box.getD d 0 != 0)
    || (!t.mx && r.sbase != 0)
    || (t.mx && ((r.start.getD 0 0) % 32 != 0 || r.boxN 0 % 32 != 0 || r.ext.getD 0 1 % 32 != 0
        || (List.range 4).any (fun d => r.str.getD d 0 % mxBlock t != 0)))
    || (t.elemBits == 4 && ((r.start.getD 0 0) % 2 != 0 || r.boxN 0 % 2 != 0))
    || (r.pieces t idx 0).any (fun p => !p.scale && p.g.any fun g => decide (8 ≤ t.elemBits) && g % t.elemBits != 0)

/-! ### Addresses of an engine (R258, R267) -/

/-- Where an engine's byte lies: in a hole, in device memory with POR, or in the control node's window. -/
inductive EngPlace where
  | hole
  | mem (pa : Nat) (por : Bool)
  | sys (pa : Nat)
  deriving DecidableEq, Repr

/-- The place of a virtual byte for an engine, or the status of its fault (R254, R258, R267). -/
def State.engPlace (s : State) (who : WalkFor) (writes : Bool) (va : Nat) : Except Status EngPlace :=
  if 2 ^ 56 ≤ va then .error .page
  else match s.lookup va (who := who) with
    | some (.leaf l) =>
      if writes && !l.w then .error .prot
      else if paSpace (l.phys va) = 1 then .ok (.sys (l.phys va))
      else .ok (.mem (l.phys va) l.por)
    | some .sparse => if writes then .error .page else .ok .hole
    | _ => .error .page

/-- `w` bits from a bit address of a memory. -/
def readBits (u : Nat → Byte) (m : List Host.Cell) (bitAt w : Nat) : Nat :=
  Memory.readNat u m (bitAt / 8) ((bitAt % 8 + w + 7) / 8) / 2 ^ (bitAt % 8) % 2 ^ w

/-- `w` bits at a bit address written into a memory. -/
def writeBits (u : Nat → Byte) (m : List Host.Cell) (bitAt w x : Nat) : List Host.Cell :=
  let n := (bitAt % 8 + w + 7) / 8
  let old := Memory.readNat u m (bitAt / 8) n
  let k := bitAt % 8
  let kept := old % 2 ^ k + old / 2 ^ (k + w) * 2 ^ (k + w)
  Memory.writeNat u m (bitAt / 8) n (kept + x % 2 ^ w * 2 ^ k)

/-! ### Local bits -/

/-- Bits of the segment with their poison. -/
def State.localBits (s : State) (l w : Nat) : BitVec 64 × Bool :=
  (BitVec.ofNat 64 (readBits Memory.zeros s.core.store (s.team.base * 1024 + l) w),
    s.core.poisoned (s.local (l / 8)) ((l % 8 + w + 7) / 8))

/-- Writes bits of the segment. -/
def State.setLocalBits (s : State) (l w : Nat) (x : BitVec 64) (p : Bool) : State :=
  let n := (l % 8 + w + 7) / 8
  let m := writeBits Memory.zeros s.core.store (s.team.base * 1024 + l) w x.toNat
  s.onCore (·.setBytes (s.local (l / 8)) n (Memory.readNat Memory.zeros m (s.local (l / 8)) n) p)

/-! ### Access at the homes (R285, R288 to R290) -/

/-- A write of an engine: bit address, width, value, poison. -/
structure EngWrite where
  bitAt : Nat
  w : Nat
  val : BitVec 64
  bad : Bool
  deriving DecidableEq, Repr

/-- The lines of writes, ascending. -/
def writeLines (ws : List EngWrite) : List Nat := ((ws.map (·.bitAt / 1024)).eraseDups).mergeSort (· ≤ ·)

/-- The masked bytes that writes put into a line. -/
def State.linePart (s : State) (line : Nat) (ws : List EngWrite) : StorePart :=
  let mine := ws.filter (·.bitAt / 1024 == line)
  let m := mine.foldl (fun m w => writeBits s.unlisted m w.bitAt w.w w.val.toNat) s.mem
  { line := line
    mask := mine.foldl (fun k w => k ||| spanMask (w.bitAt / 8 % 128) ((w.bitAt % 8 + w.w + 7) / 8)) 0
    bytes := BitVec.ofNat 1024 (Memory.readNat s.unlisted m (line * 128) 128)
    poison := mine.foldl (fun p w => if w.bad then p ||| BitVec.ofNat 32
      (((List.range ((w.bitAt % 32 + w.w + 31) / 32)).map fun k => 2 ^ (w.bitAt / 32 % 32 + k)).sum) else p) 0
    noAlloc := true
    stream := false }

/-- A line's record at its home. Agents other than firmware ask first whether the line can be resident (R274). -/
def State.homeFor (s : State) (line : Nat) : Home × State :=
  match s.fillHome line with
  | (some h, s) => (h, s)
  | (none, s) =>
    let m : Stamp := ⟨s.homeEp line, (s.slice line).mts.read (s.homeEp line)⟩
    ({ line := line, wts := m, rts := m }, s)

/-- A masked write of an engine at the home: the WTS it takes (R285, R289, R290). -/
def State.engWrite (s : State) (who : Who) (now : Stamp) (p : StorePart) : Nat × State :=
  let r := (s.dropRdc who p.line).homeFor p.line
  let w := r.2.writeStamp r.1 now
  (w, (r.2.mergeLine p.line p.mask p.bytes p.poison).stamp r.1 w)

/-- An atomic of an engine at the home: the WTS it takes (R288). Poisoned data marks its sector (R347). -/
def State.engAtomic (s : State) (who : Who) (now : Stamp) (wide : Bool) (pa : Nat) (new : BitVec 64 → BitVec 64)
    (bad : Bool) : Nat × State :=
  let r := (s.dropRdc who (pa / 128)).homeFor (pa / 128)
  let w := r.2.writeStamp r.1 now
  let n := if wide then 8 else 4
  let old := BitVec.ofNat 64 (r.2.readNat pa n)
  let s := r.2.writeNat pa n (new old).toNat
  (w, (if bad then s.setSector (pa / 32) true else s).stamp r.1 w)

/-! ### The Hutch (R151, R152) -/

/-- A range leaves the Hutch (R152). -/
def releaseRange (hutch : List RangeLock) (k : RangeLock) : List RangeLock :=
  (hutch.map fun h => if h.team = k.team ∧ h.first = k.first ∧ h.last = k.last then { h with count := h.count - 1 } else h).filter
    (·.count != 0)

/-- The interval of a list of numbers. -/
def interval : List Nat → Option (Nat × Nat)
  | [] => none
  | n :: ns => some (ns.foldl min n, ns.foldl max n)

/-! ### Operations in flight -/

/-- Changes an engine operation of the core in focus. -/
def State.onEng (s : State) (id : Nat) (f : EngOp → EngOp) : State :=
  s.onCore fun c => { c with engine := c.engine.map fun o => if o.id = id then f o else o }

/-- An operation goes on after a clk. -/
def State.retryEng (s : State) (id : Nat) : State := s.later 1 (.copyComplete s.core.id id)

/-- The event in which an operation goes on. -/
def State.wakeEng (s : State) (id : Nat) : State := s.send (.copyComplete s.core.id id)

/-- An operation, as one for whom a walk is made. -/
def EngOp.who (o : EngOp) : WalkFor := .engine o.id

/-- Brings the group of an operation into focus, or its team. -/
def State.focusOp (s : State) (o : EngOp) : State :=
  match o.gid with
  | some g => s.focusGroup g
  | none => s.focusTeam o.team

/-- The element type that an operation reads or writes in global memory or in its box. -/
def EngOp.memFmt (o : EngOp) : Ty := if o.kind = .drain then (numTy o.shape.efmt).getD .f32 else o.fmt

/-- The items of an operation's box. -/
def EngOp.pieces (o : EngOp) : List Piece := o.shape.pieces o.memFmt o.idx o.la

/-- The items of the second record of a global-to-global copy. -/
def EngOp.pieces2 (o : EngOp) : List Piece := (o.shape2.map fun r => r.pieces o.memFmt [] 0).getD []

/-- Whether an operation's box lies in global memory as a source, and as a destination (R347). -/
def EngOp.reads (o : EngOp) : Bool := (o.kind == .cpy && o.shape.dir != 1) || o.kind == .gather

/-- Whether an operation's records name global elements that it writes. -/
def EngOp.writes (o : EngOp) : Bool :=
  o.kind == .scatter || o.kind == .reduce || (o.kind == .fill && o.shape.dir == 1) || (o.kind == .cpy && o.shape.dir == 1)
    || (o.kind == .drain && o.shape.dir == 1)

/-- Whether an operation writes global elements. -/
def EngOp.stores (o : EngOp) : Bool := o.writes || (o.kind == .cpy && o.shape.dir == 2)

/-- The virtual bytes that an operation reads and those that it writes. -/
def EngOp.addresses (o : EngOp) : List Nat :=
  (if o.reads || o.writes then (o.pieces.filter (!·.bad)).filterMap (·.g.map (· / 8)) else [])
    ++ (o.pieces2.filterMap fun p => p.g.map (· / 8))

/-- What an item reads: nothing for a fault, or its value with poison (R257, R258, R290, R343). -/
def State.readPiece (s : State) (o : EngOp) (p : Piece) : Except Status (BitVec 64 × Bool) :=
  match p.g with
  | none =>
    if p.scale then .ok (Config.freeBits (s.fresh + p.l) &&& 0xFF, false)
    else .ok (if o.shape.fillen then BitVec.ofNat 64 (o.shape.fill.toNat / 2 ^ p.sh % 2 ^ p.w) else 0, false)
  | some g =>
    match s.engPlace o.who false (g / 8) with
    | .error e => .error e
    | .ok .hole => .ok (0, false)
    | .ok (.mem pa por) =>
      match regLine (pa / 128) with
      | some (d, off) => .ok (BitVec.ofNat 64 (s.regBits 3 d off (pa % 128 * 8 + g % 8) p.w), false)
      | none => .ok (BitVec.ofNat 64 (readBits s.unlisted s.mem (pa * 8 + g % 8) p.w), por || has s.memPoison (pa / 32))
    | .ok (.sys pa) =>
      match (o.sys.find? fun x => !x.write && x.line == pa / 128).bind (·.got) with
      | some bs => .ok (BitVec.ofNat 64 (leNat ((bs.drop (pa % 128)).take ((p.w + 7) / 8)) / 2 ^ (g % 8) % 2 ^ p.w), false)
      | none => .error .prot

/-- Records a fault of an item: the first kind is kept (R267, R355). -/
def EngOp.fault (o : EngOp) (st : Status) : EngOp := if o.status = .ok then { o with status := st } else o

/-- The lines in the control node's window that an operation reads. -/
def State.sysReads (s : State) (o : EngOp) : List Nat :=
  if !o.reads then []
  else (o.pieces.filterMap fun p => p.g.bind fun g => match s.engPlace o.who false (g / 8) with
    | .ok (.sys pa) => some (pa / 128)
    | _ => none).eraseDups

/-- An upstream window request (R456). -/
def windowRequest (type die tag pa size : Nat) (mask : BitVec 128) (data : List Byte) : List Byte :=
  upMessage type die [(8, 8, tag), (0x10, 8, pa), (0x18, 4, size), (0x20, 16, mask.toNat)] data

/-- Asks the control node for lines of its window (R455, R456). -/
def State.askSys (s : State) (o : EngOp) (lines : List Nat) : State :=
  lines.foldl (fun s line =>
    let r := s.newId
    (r.2.onEng o.id fun o => { o with sys := o.sys ++ [⟨r.1, line, false, none, false⟩] }).sendUp
      (windowRequest 7 (CoreId.die s.core.id) r.1 (line * 128) 128 0 [])) s

/-- The value of an item of a drain: that of its element in the format that memory takes (R364). -/
def EngOp.drained (o : EngOp) (p : Piece) : BitVec 64 :=
  let x := o.cells.getD p.num 0
  let y := if o.fmt = .i32 || o.fmt = o.memFmt then x else (convert o.fmt o.memFmt .rne false x).1
  BitVec.ofNat 64 (y.toNat / 2 ^ p.sh % 2 ^ p.w)

/-- An item with its value, or with none where a fault was met in reading it. -/
abbrev Moved := Piece × Option (BitVec 64 × Bool)

/-- What an item moves, or the status of the fault met in reading it. -/
def State.engValue (s : State) (o : EngOp) (p : Piece) : Except Status (BitVec 64 × Bool) :=
  if p.bad then .error .poison
  else match o.kind with
    | .fill => .ok (BitVec.ofNat 64 (o.shape.fill.toNat / 2 ^ p.sh % 2 ^ p.w), false)
    | .drain => .ok (o.drained p, o.rowBad.getLsbD (p.num / 64))
    | _ => if o.reads then s.readPiece o p else .ok (s.localBits p.l p.w)

/-- The die whose register block refuses the read of an item, which then gives zero with status PROT (R464). -/
def State.readRefused (s : State) (o : EngOp) (p : Piece) : Option Nat :=
  if !o.reads then none
  else match p.g.map fun g => s.engPlace o.who false (g / 8) with
    | some (.ok (.mem pa _)) => (regLine (pa / 128)).bind fun r => if s.mayRead r.1 r.2 3 then none else some r.1
    | _ => none

/-- The values that items move, and the operation with the faults met in reading them. -/
def State.engValues (s : State) (o : EngOp) (ps : List Piece) : EngOp × List Moved :=
  ps.foldr (fun p a => match s.engValue o p with
    | .ok v => (if (s.readRefused o p).isSome then a.1.fault .prot else a.1, (p, some v) :: a.2)
    | .error e => ({ a.1 with status := if o.status = .ok then e else o.status }, (p, none) :: a.2)) (o, [])

/-- The physical writes of values to global items, with the faults met, and the writes to the control node's window. -/
def State.engTargets (s : State) (o : EngOp) (vs : List Moved) : EngOp × List EngWrite × List EngWrite :=
  vs.foldr (fun v (a : EngOp × List EngWrite × List EngWrite) =>
    match v.1.g, v.2 with
    | some g, some x =>
      match s.engPlace o.who true (g / 8) with
      | .error e => ({ a.1 with status := if o.status = .ok then e else o.status }, a.2)
      | .ok (.mem pa _) => (a.1, ⟨pa * 8 + g % 8, v.1.w, x.1, x.2⟩ :: a.2.1, a.2.2)
      | .ok (.sys pa) => (a.1, a.2.1, ⟨pa * 8 + g % 8, v.1.w, x.1, x.2⟩ :: a.2.2)
      | .ok .hole => a
    | _, _ => a) (o, [], [])

/-- The largest WTS among the lines that items read (R289). -/
def State.topRead (s : State) (o : EngOp) (ps : List Piece) : Nat :=
  if !o.reads then 0
  else ps.foldl (fun t p => match p.g.map fun g => s.engPlace o.who false (g / 8) with
    | some (.ok (.mem pa _)) => if (regLine (pa / 128)).isSome then t else max t ((s.homeWts (pa / 128)).read s.ep)
    | _ => t) 0

/-- A write is on its way to a register block. -/
def State.toBlock (s : State) (w : RegStore) : State := { s with regStores := s.regStores ++ [w] }

/-- Writes of elements to register blocks, each on its way to its block, which answers once it is performed (R453, R631). -/
def State.regWriteAll (s : State) (o : EngOp) (ws : List EngWrite) : EngOp × State :=
  ws.foldl (fun (a : EngOp × State) w =>
    let line := w.bitAt / 1024
    match regLine line with
    | none => a
    | some x =>
      let r := a.2.newId
      ({ a.1 with sys := a.1.sys ++ [⟨r.1, line, true, none, false⟩] },
        r.2.toBlock ⟨x.1, x.2 + w.bitAt / 8 % 128, leBytes (w.w / 8) w.val.toNat, r.1⟩)) (o, s)

/-- Writes at the homes, line by line: the operation with the largest WTS (R289). Writes to register blocks take part in no
timestamp. -/
def State.engWriteAll (s : State) (o : EngOp) (ws : List EngWrite) : EngOp × State :=
  let isReg (w : EngWrite) : Bool := (regLine (w.bitAt / 1024)).isSome
  let (o, s) := s.regWriteAll o (ws.filter isReg)
  let ws := ws.filter (!isReg ·)
  (writeLines ws).foldl (fun (a : EngOp × State) line =>
    let r := a.2.engWrite (.engine s.core.id o.id) o.now (a.2.linePart line ws)
    ({ a.1 with top := max a.1.top r.1 }, r.2)) (o, s)

/-- Writes lines of the control node's window by upstream requests (R455, R456). -/
def State.sysWriteAll (s : State) (o : EngOp) (ws : List EngWrite) : EngOp × State :=
  (writeLines ws).foldl (fun (a : EngOp × State) line =>
    let p := a.2.linePart line ws
    let r := a.2.newId
    ({ a.1 with sys := a.1.sys ++ [⟨r.1, line, true, none, false⟩] },
      r.2.sendUp (windowRequest 8 (CoreId.die s.core.id) r.1 (line * 128) 0 p.mask (leBytes 128 p.bytes.toNat)))) (o, s)

/-! ### The parts of a transfer (R333, R334) -/

/-- The reduction that an operation combines its elements by; none for one that stores. 1 stands for Bench. -/
def EngOp.combines (o : EngOp) : Option Nat :=
  match o.kind with
  | .reduce => some o.sub
  | .drain => match o.sub with
    | 0 => none
    | 1 => some (if o.fmt = .i32 then 2 else 0)
    | _ => some 1
  | _ => none

/-- A list cut into its runs of items with one number. -/
def runsBy {α : Type} (key : α → Nat) (l : List α) : List (List α) :=
  l.foldr (fun x rs => match rs with
    | (y :: ys) :: r => if key x = key y then (x :: y :: ys) :: r else [x] :: (y :: ys) :: r
    | r => [x] :: r) []

/-- Whether an operation is a copy of a dispatch core, which has no local box (R618). -/
def EngOp.ofDispatch (o : EngOp) : Bool := o.gid.isSome && o.bar.isNone

/-- The items that an operation moves: those of its box with their places in a second box. What stores moves in words of 4 bytes, so an
element of 8 bytes is two items of a vector core's copy or fill and of a drain that stores (R333). -/
def EngOp.items (o : EngOp) : List Piece :=
  let ps := if o.pieces2.isEmpty then o.pieces else o.pieces.zipWith (fun p q => { p with g2 := q.g }) o.pieces2
  let half (p : Piece) (k : Nat) : Piece := { p with g := p.g.map (· + k), l := p.l + k, g2 := p.g2.map (· + k), w := 32, sh := k }
  if o.memFmt.elemBits = 64 ∧ o.combines.isNone ∧ !o.ofDispatch then (ps.map fun p => [half p 0, half p 32]).flatten else ps

/-- The word of 4 bytes in which an item's destination lies. -/
def EngOp.target (o : EngOp) (p : Piece) : Nat :=
  ((if o.kind = .cpy ∧ o.shape.dir = 2 then p.g2 else if o.writes then p.g else some p.l).getD p.l) / 32

/-- The items that are performed together: those of one word, and of an MX type those of the units whose scales lie in one word (R333, R334). -/
def EngOp.groups (o : EngOp) : List (List Piece) :=
  let ps := o.items
  if !o.memFmt.mx then runsBy o.target ps
  else
    let blocks := runsBy (·.num / 32) (ps.filter (!·.scale))
    let units := (ps.filter (·.scale)).zipWith (· :: ·) blocks
    (runsBy (fun u => (u.head?.map o.target).getD 0) units).map List.flatten

/-- How many parts an operation's transfer has at most: the words of an XPEER, or the groups of its items. -/
def EngOp.partCount (o : EngOp) : Nat := if o.kind = .peer then o.count / 4 else o.groups.length

/-- The groups with given numbers, in ascending order. -/
def pickAt {α : Type} : List Nat → Nat → List α → List (Nat × α)
  | _, _, [] => []
  | [], _, _ => []
  | k :: ks, i, x :: xs => if k = i then (i, x) :: pickAt ks (i + 1) xs else pickAt (k :: ks) (i + 1) xs

/-- Ascending numbers without some of them, which are ascending too. -/
def dropAt : List Nat → List Nat → List Nat
  | [], _ => []
  | k :: ks, [] => k :: ks
  | k :: ks, j :: js => if k = j then dropAt ks js else k :: dropAt ks (j :: js)

/-- The part of what is left that is performed next: which it is is left open (R333, log entry 34). -/
def State.drawPart (s : State) (left : List Nat) : List Nat × State :=
  if left.length ≤ 1 then (left, s)
  else
    let (i, s) := s.drawNat left.length
    let (n, s) := s.drawNat left.length
    ((left.drop i).take (if n = 0 then left.length else n), s)

/-! ### MX units in two lines (R334) -/

/-- The items of MX units whose writes stay in one line, and the units whose block and scale lie in two. -/
def State.splitUnits (s : State) (o : EngOp) (vs : List Moved) : List Moved × List UnitWrite :=
  (runsBy (·.1.num / 32) vs).foldr (fun unit a =>
    let ws := (s.engTargets o unit).2.1
    match writeLines ws with
    | [x, y] => (a.1, { lo := s.linePart x ws, hi := s.linePart y ws } :: a.2)
    | _ => (unit ++ a.1, a.2)) ([], [])

/-- A reader of a unit in two lines renews the one whose lease ends before the other was written, so that both WTS are at most both RTS
(R334, log entry 87). -/
def State.renewUnit (s : State) (x y : Nat) : State :=
  match s.homeOf x, s.homeOf y with
  | some a, some b =>
    let e := s.homeEp x
    let top := max (a.wts.read e) (b.wts.read e)
    let up (s : State) (h : Home) : State := if h.rts.read e < top then s.putHome { h with rts := ⟨e, top⟩ } else s
    up (up s a) b
  | _, _ => s

/-- The lines of device memory that the readings or writings of items reach; a register block has none that stands at a home. -/
def State.placeLines (s : State) (o : EngOp) (writes : Bool) (gs : List Nat) : List Nat :=
  (gs.filterMap fun g => match s.engPlace o.who writes (g / 8) with
    | .ok (.mem pa _) => if (regLine (pa / 128)).isSome then none else some (pa / 128)
    | _ => none).eraseDups

/-- The lines that items touch at homes. -/
def State.groupLines (s : State) (o : EngOp) (ps : List Piece) : List Nat :=
  let gs := (ps.filter (!·.bad)).filterMap (·.g)
  ((if o.reads then s.placeLines o false gs else []) ++ (if o.writes then s.placeLines o true gs else [])
    ++ s.placeLines o true (ps.filterMap (·.g2))).eraseDups

/-- The units of an MX type that are read in one part. -/
def State.renewUnits (s : State) (o : EngOp) (ps : List Piece) : State :=
  (runsBy (·.num / 32) ps).foldl (fun s u => match s.placeLines o false (u.filterMap (·.g)) with
    | [x, y] => s.renewUnit x y
    | _ => s) s

/-- Sends the first PREP of a unit. -/
def State.prepUnit (s : State) (o : EngOp) (u : UnitWrite) : State := s.send (.prep ⟨u.lo.line, s.core.id, o.id, o.now⟩)

/-! ### The effect of an operation (R347, R364) -/

/-- The element that a reduction leaves (R197, R347, R364): .FADD and .ORD, .ADD, .MIN, .MAX, .FMIN, .FMAX. -/
def reduceNew (sub : Nat) (t : Ty) (x old : BitVec 64) : BitVec 64 :=
  match sub with
  | 0 | 1 => (fpAdd t .rne old x).1
  | 2 => intAdd t old x
  | 3 => intMin t old x
  | 4 => intMax t old x
  | 5 => (fpMinMax false t old x).1
  | _ => (fpMinMax true t old x).1

/-- Combines elements at their homes; an element in the control node's window has none (R288, R347). -/
def State.combineAll (s : State) (o : EngOp) (sub : Nat) (ws : List EngWrite) : EngOp × State :=
  ws.foldl (fun (a : EngOp × State) w =>
    let r := a.2.engAtomic (.engine s.core.id o.id) o.now (w.w == 64) (w.bitAt / 8) (reduceNew sub o.memFmt w.val) w.bad
    ({ a.1 with top := max a.1.top r.1 }, r.2)) (o, s)

/-- Sends ordered contributions to Bench and waits for each APPLY (R235, R236, R335, R347). -/
def State.contributeAll (s : State) (o : EngOp) (ws : List EngWrite) : EngOp × State :=
  ws.foldl (fun (a : EngOp × State) w =>
    let r := a.2.newId
    let m : Contribution :=
      { addr := w.bitAt / 8, wide := w.w == 64, value := w.val, poison := w.bad, grid := o.team.grid, teamRank := o.team.rank,
        laneRank := o.rank, who := .engine s.core.id o.id, now := o.now, ref := r.1, holds := false }
    ({ a.1 with waits := r.1 :: a.1.waits }, r.2.contribute m)) (o, s)

/-- The words of an XPEER that a part sends, each on the route (R316, R619). -/
def State.peerWords (s : State) (o : EngOp) (part : List Nat) : EngOp × State :=
  ({ o with words := o.words + part.length }, part.foldl (fun s k =>
    let v := s.localRead (o.la + 4 * k) 4
    s.sendRoute o.route (.xpeerWriteArrive
      { src := s.core.id, op := o.id, dst := o.dst, grid := o.team.grid, addr := o.dstAddr + 4 * k,
        value := v.1.setWidth 32, poison := v.2, now := o.now, route := o.route })) s)

/-- The status of an XPEER's destination range, against the sender's own layout (R619). -/
def State.peerRange (s : State) (o : EngOp) : Status :=
  if s.team.rows * 128 < o.dstAddr + o.count then .bounds
  else if s.team.lrec.touchesArea o.dstAddr o.count || s.team.lrec.touchesObject o.dstAddr o.count then .prot
  else .ok

/-- Writes items of one word of the local box: in one write where they cover it, so that their poison is that of the data (R127, R333). -/
def State.landWord (s : State) (vs : List (Piece × BitVec 64 × Bool)) : State :=
  let word := ((vs.head?.map (·.1.l)).getD 0) / 32
  if (vs.map (·.1.w)).sum = 32 then
    s.setLocalBits (word * 32) 32 (vs.foldl (fun (n : BitVec 64) v => n ||| v.2.1.shiftLeft (v.1.l % 32)) 0) (vs.any (·.2.2))
  else vs.foldl (fun s v => s.setLocalBits v.1.l v.1.w v.2.1 v.2.2) s

/-- Writes values into the local box, scales after blocks. A drain moves only elements in range (R364). -/
def State.landAll (s : State) (o : EngOp) (vs : List Moved) : State :=
  let got := vs.filterMap fun v => if o.kind = .drain ∧ v.1.g.isNone then none else v.2.map fun x => (v.1, x.1, x.2)
  (runsBy (·.1.l / 32) (got.filter (!·.1.scale) ++ got.filter (·.1.scale))).foldl State.landWord s

/-- Performs some of an operation's items (R267, R333, R347): the operation and the state after it. -/
def State.moveItems (s : State) (o : EngOp) (ps : List Piece) : EngOp × State :=
  let mxRead := o.reads && o.memFmt.mx
  let s := if mxRead then s.renewUnits o ps else s
  let r := s.engValues { o with top := max o.top (s.topRead o ps) } ps
  let s := (ps.filterMap (s.readRefused o)).foldl State.refuse s
  let s := if mxRead then { s with fresh := s.fresh + 2 ^ 21 } else s
  let o := r.1
  let vs : List Moved := if o.kind = .cpy ∧ o.shape.dir = 2 then r.2.map fun v => ({ v.1 with g := v.1.g2 }, v.2) else r.2
  if !o.stores then (o, s.landAll o vs)
  else
    let t := s.engTargets o vs
    match o.combines with
    | some sub =>
      let o := if t.2.2.isEmpty then t.1 else t.1.fault .prot
      if sub = 1 then s.contributeAll o t.2.1 else s.combineAll o sub t.2.1
    | none =>
      let u := if o.memFmt.mx then s.splitUnits o vs else ([], [])
      let ws := if u.2.isEmpty then t.2.1 else (s.engTargets o u.1).2.1
      let x := s.engWriteAll { t.1 with units := t.1.units ++ u.2 } ws
      let y := x.2.sysWriteAll x.1 t.2.2
      match o.units, u.2 with
      | [], w :: _ => (y.1, y.2.prepUnit y.1 w)
      | _, _ => y

/-! ### Completion (R148, R289, R338, R348, R355, R617) -/

/-- The tile of an operation moves (R148). -/
def State.moveBound (s : State) (o : EngOp) : State :=
  match o.tile with
  | none => s
  | some (n, fill) =>
    match s.team.tile n with
    | none => s
    | some e =>
      let st := if fill then (if o.status = .ok then 2 else 0) else (if o.status = .cancel then 2 else 0)
      s.putTile n (tileTo e st)

/-- The next PSEND that a route holds back leaves (R357). -/
def State.nextPacket (s : State) (route : Nat) : State :=
  match s.core.engine.find? fun o => o.kind == .send && o.route == route && !o.started with
  | none => s
  | some o =>
    (s.onEng o.id fun o => { o with started := true }).sendRoute route
      (.packetArrive ⟨s.core.id, o.id, route, o.dst, o.team.grid,
        ⟨BitVec.ofNat 16 o.count, o.team.rank, o.now, o.payload⟩⟩)

/-- A drain reports to its control core (R475, R563). -/
def State.reportDrain (s : State) (o : EngOp) : State :=
  match o.ctl with
  | none => s
  | some c => s.atCore c fun s =>
      ((s.onCore fun k => { k with drains := k.drains.map fun d => if d.op = o.id then { d with status := some o.status } else d })).eachGroup
        State.poll

/-- An operation leaves the engine: its counters fall, its ranges are free, its tile moves, its bytes are counted off with
its status, all in one step (R148, R152, R338, R348, R617). -/
def State.closeEng (s : State) (o : EngOp) : State :=
  let s := (s.onCore fun c => { c with
    engine := c.engine.filter (·.id != o.id), hutch := o.locks.foldl releaseRange c.hutch }).dropWalks (· == o.who)
  let s := match o.gid with
    | some g => s.atGroup g fun s => s.onGrp fun g => { g with
        copies := g.copies - 1, tiles := if o.tile.isSome then g.tiles - 1 else g.tiles }
    | none => s
  let s := if s.team.id = o.team then
      (match o.bar with
        | some a => (s.moveBound o).countOff a o.bytes (statusCode o.status)
        | none => s.moveBound o)
    else s
  let ends := (o.gid.bind s.findGroup).any fun g => g.gst == .ended
  let s := if ends then s.send (.teamEnd s.core.id o.team) else s
  (((if o.kind = .send then s.nextPacket o.route else s).reportDrain o).pump).wakeControl

/-- The completion of an operation: `%now` first (R289). It waits for a rebase when `%now` would pass the largest (R301). -/
def State.finishEng (s : State) (o : EngOp) : State :=
  let n := max s.nowTick o.top + 1
  if tickMax < n then (s.requestRebase (CoreId.die s.core.id)).retryEng o.id
  else (s.setNow n).closeEng o

/-- Whether an operation awaits answers: of Bench, of homes, of the far end or of the control node. -/
def EngOp.due (o : EngOp) : Bool :=
  !o.waits.isEmpty || !o.units.isEmpty || decide (0 < o.words) || o.sys.any fun x => x.write && x.got.isNone && !x.bad

/-- An operation after a change: it is performed once no part of its transfer is left and no answer is due. -/
def EngOp.settled (o : EngOp) : EngOp :=
  { o with phase := if o.left != some [] then o.phase else if o.due then .waiting else .performed }

/-- Goes on with an operation after a change. -/
def State.stepEng (s : State) (o : EngOp) : State :=
  let o := o.settled
  let s := s.onEng o.id fun _ => o
  match o.phase with
  | .performed => s.finishEng o
  | .waiting => s
  | .fresh => s.wakeEng o.id

/-- The next unit after one that is written, or what is left of the operation. -/
def State.nextUnit (s : State) (o : EngOp) : State :=
  match o.units with
  | u :: _ => (s.onEng o.id fun _ => o).prepUnit o u
  | [] => s.stepEng o

/-- An operation that was cancelled stops: no further part begins, and it ends once the answers that are due have come (R350). -/
def State.stopEng (s : State) (o : EngOp) : State :=
  s.stepEng { o with status := .cancel, left := some [], units := o.units.take 1 }

/-- The words of an XPEER that come next; a destination that breaks R619 ends it at its first. -/
def State.peerPart (s : State) (o : EngOp) : State :=
  match s.peerRange o with
  | .ok =>
    let left := o.left.getD (List.range o.partCount)
    let (part, s) := s.drawPart left
    let r := s.peerWords o part
    r.2.stepEng { r.1 with left := some (dropAt left part) }
  | st => s.stepEng { o.fault st with left := some [] }

/-- How often items combine at a line; an item that stores writes it once. -/
def State.writesAt (s : State) (o : EngOp) (ps : List Piece) (line : Nat) : Nat :=
  if o.combines.isNone then 1
  else (ps.filter fun p => p.g.any fun g => match s.engPlace o.who true (g / 8) with
    | .ok (.mem pa _) => pa / 128 == line
    | _ => false).length

/-- The part of an operation's transfer that comes next, but for groups whose lines their homes hold back (R75, R274, R301, R328, R333, R334).
When they hold all of it back, it is tried again a clk later. -/
def State.boxPart (s : State) (o : EngOp) : State :=
  let gs := o.groups
  let left := o.left.getD (List.range gs.length)
  let (part, s) := s.drawPart left
  let mine := pickAt part 0 gs
  let ps := (mine.map (·.2)).flatten
  let held := (s.groupLines o ps).filter fun l => s.lineWaits o.now l (s.writesAt o ps l)
  let go := if held.isEmpty then mine else mine.filter fun x => !((s.groupLines o x.2).any (has held))
  match held, go with
  | l :: _, [] => (s.askWay l).retryEng o.id
  | _, _ =>
    let ps := (go.map (·.2)).flatten
    let r := (s.useLines (s.groupLines o ps)).moveItems o ps
    r.2.stepEng { r.1 with left := some (dropAt left (go.map (·.1))) }

/-- The shape record of a dispatch core's copy, read at its homes (R618): none when a walk is needed first. -/
def State.dispatchRecord (s : State) (o : EngOp) : EngOp :=
  let two := o.kind == .cpy
  let size := if two then 256 else 128
  let places := (List.range size).map fun k => s.engPlace o.who false (o.la + k)
  let bad := places.filterMap fun p => match p with | .error e => some e | .ok _ => none
  let byte (p : Except Status EngPlace) : Byte := match p with
    | .ok (.mem pa _) => s.byte pa
    | _ => 0
  let poison := places.any fun p => match p with
    | .ok (.mem pa por) => por || has s.memPoison (pa / 32)
    | _ => false
  let bs := places.map byte
  let r := Shape.parse (bs.take 128)
  let r2 := Shape.parse (bs.drop 128)
  let dirOk := if two then r.dir == 2 else r.dir == 1
  match bad with
    | e :: _ => { o.fault e with left := some [] }
    | [] =>
      if poison then { o.fault .poison with left := some [] }
      else if !dirOk || r.malformed (bs.take 128) o.fmt false []
          || (two && (r2.malformed (bs.drop 128) o.fmt false [] || r2.box != r.box)) then
        { o.fault .bounds with left := some [] }
      else { o with shape := r, shape2 := if two then some r2 else none }

/-- The lines of a dispatch core's shape records. -/
def State.recordPlaces (s : State) (o : EngOp) : List Nat :=
  s.placeLines o false ((List.range (if o.kind = .cpy then 2 else 1)).map fun k => 8 * (o.la + 128 * k))

/-- A dispatch core's copy takes up its shape records (R289, R618): it waits for their homes, and their WTS count among its reads'. -/
def State.takeRecord (s : State) (o : EngOp) : State :=
  let ls := s.recordPlaces o
  match ls.find? fun l => s.lineWaits o.now l 0 with
  | some l => (s.askWay l).retryEng o.id
  | none =>
    let top := ls.foldl (fun t l => max t ((s.homeWts l).read s.ep)) o.top
    (s.useLines ls).stepEng (s.dispatchRecord { o with top := top })

/-- The pages that an operation needs next. -/
def State.engMissing (s : State) (o : EngOp) : List Nat :=
  if s.kind == .dispatch && o.shape.box.isEmpty then s.missing [o.la, o.la + 255] (who := o.who) else s.missing o.addresses (who := o.who)

/-- An operation goes on with its transfer, or waits for its walks, for its records or for reads of the control node's window. -/
def State.beginEng (s : State) (o : EngOp) : State :=
  let need := s.engMissing o
  if !need.isEmpty then s.askWalks need 4 o.who
  else if s.kind == .dispatch && o.shape.box.isEmpty then s.takeRecord o
  else if o.kind == .peer then s.peerPart o
  else
    let sys := (s.sysReads o).filter fun l => !o.sys.any fun x => x.line == l
    if !sys.isEmpty then s.askSys o sys
    else if o.sys.any (fun x => !x.write && x.got.isNone && !x.bad) then s
    else s.boxPart o

/-- Whether a save cancels an operation that is not done: not XREDUCE, not ACCDRAIN.ADD or .ORD, and no packet that has left (R447). -/
def EngOp.cancels (o : EngOp) : Bool :=
  o.phase == .fresh && o.kind != .reduce && !(o.kind == .drain && o.sub != 0) && !(o.kind == .send && o.started)

/-- COPY_COMPLETE (R289, R346 to R350, R447, R617): an operation goes on with a part of its transfer, stops where it was cancelled, and
completes. One that a save cancels waits for the answers that are due, and is kept for reissue. -/
def execCopyComplete (core : CoreId) (op : Nat) (s : State) : Out :=
  let s := s.focusCore core
  .next (match s.core.engine.find? (·.id == op) with
    | none => s
    | some o =>
      let s := s.focusOp o
      if o.kept then s
      else if o.phase == .performed then s.finishEng o
      else if o.cancelled && !(o.kind == .send && o.started) then s.stopEng o
      else if o.phase == .waiting || o.kind == .send then s
      else if o.cancels && s.team.pre.any (·.quiesced) then
        if o.due then s else s.onEng op fun o => { o with kept := true }
      else s.beginEng o)

/-- The control node, or a register block, answered an access of an operation (R456, R631). -/
def State.sysAnswer (s : State) (m : UpAns) : State :=
  let cores := s.core :: s.cores
  match cores.find? fun c => c.engine.any fun o => o.sys.any fun x => x.tag == m.tag.toNat with
  | none => s
  | some c =>
    let s := s.focusCore c.id
    match s.core.engine.find? fun o => o.sys.any fun x => x.tag == m.tag.toNat with
    | none => s
    | some o =>
      let bad := m.status != 0
      let o : EngOp := { o with sys := o.sys.map fun (x : SysPart) =>
        if x.tag = m.tag.toNat then { x with got := if bad then none else some m.bytes, bad := bad } else x }
      let wr := o.sys.any fun x => x.tag == m.tag.toNat && x.write
      let o := (if bad && wr then o.fault .prot else o).settled
      (s.onEng o.id fun _ => o).wakeEng o.id

/-! ### PREPACK and COMMITACK (R334) -/

/-- PREPACK (R299, R334): the writer goes on to the higher line, or commits both with one stamp. -/
def execPrepack (m : UnitMsg) (s : State) : Out :=
  .next (s.onTime (CoreId.die m.core) m.stamp (.prepack m) fun s =>
    let s := s.focusCore m.core
    match s.core.engine.find? (·.id == m.op) with
    | none => s
    | some o =>
      match o.units with
      | [] => s
      | u :: us =>
        let u := { u with acks := u.acks ++ [m.stamp] }
        let s := s.onEng o.id fun o => { o with units := u :: us }
        if u.acks.length < 2 then s.send (.prep ⟨u.hi.line, s.core.id, o.id, o.now⟩)
        else
          let w : Stamp := ⟨s.ep, u.acks.foldl (fun a t => max a (t.read s.ep)) 0 + 1⟩
          let commit (p : StorePart) : Instr := .commit ⟨p.line, s.core.id, o.id, w, p.mask, p.bytes, p.poison⟩
          (s.send (commit u.lo)).send (commit u.hi))

/-- COMMITACK (R289, R334): the unit is written; the next one follows, unless the operation was cancelled (R350). -/
def execCommitack (m : UnitMsg) (s : State) : Out :=
  .next (s.onTime (CoreId.die m.core) m.stamp (.commitack m) fun s =>
    let s := s.focusCore m.core
    match s.core.engine.find? (·.id == m.op) with
    | none => s
    | some o =>
      match o.units with
      | [] => s
      | u :: us =>
        let s := s.focusOp o
        let o := { o with top := max o.top (m.stamp.read s.ep) }
        if 1 < u.due then s.onEng o.id fun _ => { o with units := { u with due := u.due - 1 } :: us }
        else if o.cancelled && !us.isEmpty then s.stepEng { o with units := [], status := .cancel, left := some [] }
        else s.nextUnit { o with units := us })

/-! ### XPEER and packets at the far end (R316, R357, R619) -/

/-- An operation of another core is performed, with a status. -/
def State.farDone (s : State) (core : CoreId) (op : Nat) (st : Status) : State :=
  s.atCore core fun s => (s.onEng op fun o => { o.fault st with phase := .performed }).wakeEng op

/-- A word of an XPEER is performed, or refused: then no further word is sent. With the last of them the operation is performed (R619). -/
def State.farWord (s : State) (core : CoreId) (op : Nat) (st : Status) : State :=
  s.atCore core fun s =>
    let s := s.onEng op fun o =>
      ({ o.fault st with words := o.words - 1, left := if st = .ok then o.left else some [] } : EngOp).settled
    if s.core.engine.any fun o => o.id == op && o.words == 0 then s.wakeEng op else s

/-- XPEER_WRITE_ARRIVE (R247, R316, R350, R450, R619): a word of a cancelled operation is not written. -/
def execXpeerWriteArrive (m : XpeerMsg) (s : State) : Out :=
  .next (s.onTime (CoreId.die m.dst) m.now (.xpeerWriteArrive m) fun s =>
    let s := s.focusCore m.dst
    let gone := !(s.coreOf m.src).engine.any fun o => o.id == m.op && !o.cancelled
    match s.peerEnd m.grid with
    | .placeholder => if gone then s.farWord m.src m.op .cancel else s.send (.retry (.xpeer m))
    | .nobody => s.farWord m.src m.op .route
    | .team t =>
      if gone then s.farWord m.src m.op .cancel
      else (((s.focusTeam t).localWrite m.addr 4 (m.value.setWidth 64) m.poison).raiseNow (m.now.read s.ep)).farWord m.src m.op .ok)

/-- The header and payload of a packet as PRECV writes them (R358). -/
def Packet.bytes (p : Packet) : List (Byte × Bool) :=
  let n := p.payload.length
  ((leBytes 2 n ++ leBytes 2 p.tag.toNat ++ leBytes 4 p.rank ++ leBytes 8 0).map fun b => (b, false)) ++ p.payload

/-- The group in focus takes the oldest packet at its PRECV (R358). -/
def State.takePacket (s : State) (area : Nat) : State :=
  match s.team.inbox with
  | [] => s
  | p :: ps =>
    let s := { s with team := { s.team with inbox := ps } }
    let bs := Sys2Proof.Machine.Packet.bytes p
    let els := (List.range ((bs.length + 3) / 4)).map fun k => (k, (bs.drop (4 * k)).take 4)
    let s := els.foldl (fun s e =>
      s.localWrite (area + 4 * e.1) e.2.length (BitVec.ofNat 64 (leNat (e.2.map (·.1)))) (e.2.any (·.2))) s
    s.raiseNow (p.now.read s.ep)

/-- The waiting PRECVs of the team in focus take packets in their issue order (R358). -/
def State.serveInbox : Nat → State → State
  | 0, s => s
  | n + 1, s =>
    match s.team.inbox, s.team.precvs with
    | _ :: _, g :: gs =>
      let s := { s with team := { s.team with precvs := gs } }
      (s.atGroup ⟨s.team.id, g⟩ fun s =>
        match s.grp.waiting? with
        | some ⟨.precv area, _, _⟩ => (s.takePacket area).wake
        | _ => s).serveInbox n
    | _, _ => s

/-- PACKET_ARRIVE (R247, R357, R450): the packet enters the queue and its PSEND is accepted, or it is refused. A refused
packet whose PSEND was cancelled is not sent again (R350). -/
def execPacketArrive (m : PacketMsg) (s : State) : Out :=
  .next (s.onTime (CoreId.die m.dst) m.packet.now (.packetArrive m) fun s =>
    let s := s.focusCore m.dst
    let gone := !(s.coreOf m.src).engine.any fun o => o.id == m.op && !o.cancelled
    let refuse (s : State) : State := if gone then s.farDone m.src m.op .cancel else s.send (.retry (.packet m))
    match s.peerEnd m.grid with
    | .placeholder => refuse s
    | .nobody => s.farDone m.src m.op .route
    | .team t =>
      let s := s.focusTeam t
      if 8 ≤ s.team.inbox.length then refuse s
      else
        let s := { s with team := { s.team with inbox := s.team.inbox ++ [m.packet] } }
        (s.serveInbox (s.team.precvs.length + 1)).farDone m.src m.op .ok)

end Sys2Proof.Machine
end

