-- ==== Sys2Proof/Machine/Copy.lean ====
section
/-! DEFINITION. The engine commands: XCPY, XGATHER, XSCATTER, XREDUCE, XFILL, XPEER, XCANCEL, PSEND and PRECV (R110, R134, R147 to R153, R338, R339, R345 to R350, R357, R358, R574, R577, R578, R615 to R619). -/

namespace Sys2Proof.Machine

/-! ### The checks of R349 -/

/-- A local range of a command: its first byte and its length. -/
structure LocalRange where
  at' : Nat
  n : Nat
  deriving DecidableEq, Repr

/-- BOUNDS for a local range that leaves the segment (R129, R349). -/
def State.rangeBounds (s : State) (r : LocalRange) : Except Trap Unit :=
  if s.team.rows * 128 < r.at' + r.n then .error (trapLocal 5 0 (max r.at' (s.team.rows * 128) : Nat)) else .ok ()

/-- PROT for a local range that touches a group area or a barrier object (R134, R349, R352). -/
def State.rangeProt (s : State) (r : LocalRange) : Except Trap Unit :=
  if s.team.lrec.touchesObject r.at' r.n then .error (trapLocal 7 5 r.at')
  else if s.team.lrec.touchesArea r.at' r.n then .error (trapLocal 7 5 (max r.at' (s.team.lrec.areaRow * 128) : Nat))
  else .ok ()

/-- The shape record at a local address: BOUNDS for its place, POISON for its content (R341, R349). -/
def State.shapeRow (s : State) (a : Nat) : Except Trap (List Byte) :=
  if a % 128 ≠ 0 ∨ s.team.rows * 128 < a + 128 then .error { kind := 5 }
  else if s.core.poisoned (s.local a) 128 then .error (poisonTrap 6)
  else .ok (Memory.readBytes Memory.zeros s.core.store (s.local a) 128)

/-- A trap unless a condition holds. -/
def need (p : Bool) (t : Trap) : Except Trap Unit := if p then .ok () else .error t

/-- The local range of a box (R343, R345). A swizzle moves bytes within their row. -/
def boxRange (r : Shape) (t : Ty) (la : Nat) : LocalRange :=
  let n := boxBytes t r.count
  if r.lswz = 0 then ⟨la, n⟩ else ⟨la / 128 * 128, roundUp (la + n) 128 - la / 128 * 128⟩

/-- The index list of XGATHER and XSCATTER, as read at issue: none for a poisoned index (R347, R617). -/
def State.indexList (s : State) (a n : Nat) : List (Option Nat) :=
  (List.range n).map fun j =>
    let v := s.localRead (a + 4 * j) 4
    if v.2 then none else some v.1.toNat

/-- TILE for a command that binds a tile (R147 to R149, R348). -/
def State.bindCheck (s : State) (f : XF) (fmt : Nat) (la n dir : Nat) : Except Trap (Option (Nat × Bool)) :=
  if !XF.binds f then .ok none
  else
    let k := f.tile.toNat
    match s.team.defTile k with
    | none => .error (trapTile k)
    | some e =>
      if tileOwner e ≠ s.grp.role ∨ tileFmt e ≠ fmt ∨ la ≠ tileBase e * 128 ∨ tileNrows e * 128 < n ∨ tileBar e ≠ f.bar.toNat
          ∨ 1 < dir then .error (trapTile k)
      else .ok (some (k, dir == 0))

/-- BARRIER for BAR (R349). -/
def State.barCheck (s : State) (f : XF) : Except Trap Unit := need (s.team.lrec.isObject f.bar.toNat) (barTrap 4 f.bar.toNat)

/-- ORDER for a Bench rank (R235, R349). -/
def State.orderCheck (s : State) (rank : Nat) : Except Trap Unit := need (s.inSet rank) { kind := 0x0C }

/-- The directions that a command accepts (R347). -/
def EngKind.dirs : EngKind → List Nat
  | .cpy => [0, 1, 2]
  | .gather => [0]
  | .scatter | .reduce => [1]
  | .fill => [0, 1]
  | _ => []

/-- The number of bytes that a command counts off (R348). -/
def opBytes (k : EngKind) (r : Shape) (t : Ty) : Nat :=
  if (k == .cpy && r.dir == 2) || (k == .fill && r.dir == 1) then (r.count * t.elemBits + 7) / 8 else boxBytes t r.count

/-- Whether a command has a local box (R347). -/
def hasBox (k : EngKind) (r : Shape) : Bool := !((k == .cpy && r.dir == 2) || (k == .fill && r.dir == 1))

/-- The checks of R349 for a copy command on a vector core, and the operation that it issues. -/
def State.planCopy (s : State) (f : XF) (k : EngKind) (ra la c : Nat) : Except Trap EngOp := do
  let t := (numTy f.ty.toNat).getD .b32
  let bs ← s.shapeRow ra
  let r := Shape.parse bs
  need (k.dirs.contains r.dir) { kind := 5 }
  let two := k == .cpy && r.dir == 2
  let bs2 ← if two then s.shapeRow (ra + 128) else pure []
  let r2 := Shape.parse bs2
  let listed := k == .gather || k == .scatter
  let list : LocalRange := ⟨c, 4 * r.boxN 1⟩
  let idx := if listed then s.indexList c (r.boxN 1) else []
  need (!r.malformed bs t false idx) { kind := 5 }
  need (!two || (!r2.malformed bs2 t false [] && r2.box == r.box)) { kind := 5 }
  let box := boxRange r t la
  need (!hasBox k r || decide (box.at' + box.n ≤ s.team.rows * 128)) { kind := 5 }
  if listed then s.rangeBounds list
  s.rangeProt ⟨ra, if two then 256 else 128⟩
  if hasBox k r then s.rangeProt box
  if listed then s.rangeProt list
  let tile ← s.bindCheck f f.ty.toNat la (boxBytes t r.count) r.dir
  s.barCheck f
  if k == .reduce && f.sub == 1 then s.orderCheck (bits c 7 0)
  pure { id := 0, gid := some s.gid, team := s.team.id, kind := k, sub := f.sub.toNat, fmt := t, shape := r,
         shape2 := if two then some r2 else none, la := la, idx := idx, rank := bits c 7 0, bar := some f.bar.toNat,
         bytes := opBytes k r t, tile := tile, now := s.core.now }

/-! ### Ranges and waits (R110, R147, R152, R339) -/

/-- The local rows that an operation touches. -/
def EngOp.localRows (o : EngOp) : List Nat :=
  match o.kind with
  | .peer => [o.la / 128, (o.la + o.count - 1) / 128]
  | .send => []
  | _ =>
    if hasBox o.kind o.shape then
      let into := o.shape.dir == 0
      (o.pieces.filter fun p => !p.bad && (p.g.isSome || (into && o.kind != .drain))).map (·.l / 1024)
    else []

/-- The ranges that an operation registers: its source and destination, and its index list (R152, R617). -/
def EngOp.ranges (o : EngOp) (list : Option LocalRange) : List (Option TeamId × Nat × Nat) :=
  let rows := ((interval o.localRows).map fun p => (some o.team, p.1, p.2)).toList
  let lines (ps : List Piece) : List (Option TeamId × Nat × Nat) :=
    ((interval ((ps.filter (!·.bad)).filterMap fun p => p.g.map (· / 1024))).map fun p => (none, p.1, p.2)).toList
  let lists := (list.map fun r => (some o.team, r.at' / 128, (r.at' + r.n - 1) / 128)).toList
  rows ++ (if o.reads || o.writes then lines o.pieces else []) ++ lines o.pieces2 ++ lists

/-- Whether a command waits before it issues for its counters (R339). -/
def State.commandWaits (s : State) (o : EngOp) : Bool :=
  decide (255 ≤ s.grp.copies) || (o.tile.isSome && decide (15 ≤ s.grp.tiles))

/-- Whether a command waits before it issues for the state of its tile (R147, R362). -/
def State.tileWaits (s : State) (o : EngOp) : Option (Nat × Bool) :=
  o.tile.filter fun t => match s.team.tile t.1 with
    | some e => if t.2 then tileState e != 0 else tileState e != 2 || s.tileHeld t.1
    | none => false

/-- Hands an operation to the engine (R617): its counters rise, its tile is bound, its ranges are registered. -/
def State.handOver (s : State) (o : EngOp) (locks hutch : List RangeLock) (remote : Bool) : State :=
  let r := s.newId
  let s := r.2.onCore fun c => { c with hutch := hutch, engine := c.engine ++ [{ o with id := r.1, locks := locks }] }
  let s := s.onGrp fun g =>
    { (if remote then g.effect else g) with copies := g.copies + 1, tiles := if o.tile.isSome then g.tiles + 1 else g.tiles }
  match o.tile with
  | some t => (match s.team.tile t.1 with
    | some e => s.putTile t.1 (tileTo e (if t.2 then 1 else 3))
    | none => s)
  | none => s

/-- Issues an operation once it has what it needs: room in its counters, its tile, the translation of its global ranges, and room in the
engine and the Hutch (R110, R147, R152, R262, R339). -/
def State.issueEng (s : State) (o : EngOp) (list : Option LocalRange) (go : State → Nat → State) : State :=
  if s.commandWaits o then s.waitBefore (.copies o.tile.isSome)
  else match s.tileWaits o with
  | some t => s.waitBefore (.tile t.1 (some t.2))
  | none =>
    let need := s.missing o.addresses
    if !need.isEmpty then (s.askWalks need 4).waitBefore (.walks s.core.id)
    else if 256 ≤ s.core.engine.length then s.waitBefore (.engine s.core.id (o.ranges list))
    else match registerAll s.core.hutch (o.ranges list) with
    | none => s.waitBefore (.engine s.core.id (o.ranges list))
    | some (locks, hutch) =>
      let id := s.fresh + 1
      (go ((s.handOver o locks hutch (o.writes || o.shape2.isSome || o.kind == .peer || o.kind == .send)).giveHeld o.addresses s.me
        (.engine id)) id).next

/-- A copy command of the dispatch core (R618): its shape record is read later, with the walks that it then needs, and its ranges are not
registered. -/
def State.dispatchCopy (s : State) (f : XF) (k : EngKind) (va : Nat) : State :=
  let o : EngOp := { id := 0, gid := some s.gid, team := s.team.id, kind := k, fmt := (numTy f.ty.toNat).getD .b32, la := va,
                     now := s.core.now }
  if s.commandWaits o then s.waitBefore (.copies false)
  else if 256 ≤ s.core.engine.length then s.waitBefore (.engine s.core.id [])
  else
    let id := s.fresh + 1
    ((s.handOver o [] s.core.hutch true).wakeEng id).next

/-- A copy command (R347, R617): POISON of its operands first. -/
def State.copyCommand (s : State) (i : Instr) (f : XF) (k : EngKind) : State :=
  s.access i fun s =>
    let vs := (s.barUses i).map fun u => s.fetchUse u 0
    if vs.any (·.2) then s.trapActive (poisonTrap 1) []
    else
      let v (n : Nat) : BitVec 64 := nth (vs.map (·.1)) n
      if s.kind = .dispatch then s.dispatchCopy f k (v 0).toNat
      else
        let c := uval 32 (v 2)
        match s.planCopy f k (uval 32 (v 0)) (uval 32 (v 1)) c with
        | .error t => s.trapActive t []
        | .ok o =>
          let list := if k == .gather || k == .scatter then some ⟨c, 4 * o.shape.boxN 1⟩ else none
          s.issueEng o list State.wakeEng

/-- XCPY (R347, R617). -/
def execXcpy (f : XF) (s : State) : Out := .next (s.copyCommand (.xcpy f) f .cpy)
/-- XGATHER (R347, R617). -/
def execXgather (f : XF) (s : State) : Out := .next (s.copyCommand (.xgather f) f .gather)
/-- XSCATTER (R347, R617). -/
def execXscatter (f : XF) (s : State) : Out := .next (s.copyCommand (.xscatter f) f .scatter)
/-- XREDUCE (R347, R617). -/
def execXreduce (f : XF) (s : State) : Out := .next (s.copyCommand (.xreduce f) f .reduce)
/-- XFILL (R347, R617). -/
def execXfill (f : XF) (s : State) : Out := .next (s.copyCommand (.xfill f) f .fill)

/-- A command on a route: POISON, BOUNDS, PROT, BARRIER and ROUTE in the order of R349. -/
def State.planRoute (s : State) (f : XF) (a n : Nat) (ok : Bool) : Except Trap Unit := do
  need ok { kind := 5 }
  s.rangeBounds ⟨a, n⟩
  s.rangeProt ⟨a, n⟩
  s.barCheck f
  match s.routeTrap f.route.toNat with
  | some t => .error t
  | none => pure ()

/-- The frame of XPEER and PSEND. -/
def State.routeCommand (s : State) (i : Instr) (f : XF) (nAt : Nat) (limit : Nat) (op : State → List (BitVec 64) → EngOp)
    (go : State → Nat → State) : State :=
  s.access i fun s =>
    let vs := (s.barUses i).map fun u => s.fetchUse u 0
    if vs.any (·.2) then s.trapActive (poisonTrap 1) []
    else
      let xs := vs.map (·.1)
      let n := uval 32 (nth xs nAt)
      match s.planRoute f (uval 32 (nth xs 0)) n (decide (4 ≤ n) && decide (n ≤ limit) && n % 4 == 0) with
      | .error t => s.trapActive t []
      | .ok _ =>
        s.issueEng { op s xs with
          gid := some s.gid, team := s.team.id, route := f.route.toNat, dst := s.routeDst f.route.toNat,
          bar := some f.bar.toNat, now := s.core.now } none go

/-- XPEER (R347, R619). -/
def execXpeer (f : XF) (s : State) : Out :=
  .next (s.routeCommand (.xpeer f) f 2 65536
    (fun s vs => { id := 0, gid := none, team := s.team.id, kind := .peer, la := uval 32 (nth vs 0),
                   dstAddr := uval 32 (nth vs 1), count := uval 32 (nth vs 2), bytes := uval 32 (nth vs 2) })
    State.wakeEng)

/-- PSEND (R357, R577, R578): the payload is read at issue; the packet leaves at once unless an earlier one of its route
is not accepted yet. -/
def execPsend (f : XF) (s : State) : Out :=
  .next (s.routeCommand (.psend f) f 1 240
    (fun s vs =>
      let a := uval 32 (nth vs 0)
      let n := uval 32 (nth vs 1)
      { id := 0, gid := none, team := s.team.id, kind := .send, la := a, count := bits (nth vs 2).toNat 15 0, bytes := 16 + n,
        payload := (List.range n).map fun k =>
          (Memory.read Memory.zeros s.core.store (s.local (a + k)), s.core.poisoned (s.local (a + k)) 1)
        started := false })
    fun s _ =>
      if s.core.engine.any (fun o => o.kind == .send && o.route == f.route.toNat && o.started) then s
      else s.nextPacket f.route.toNat)

/-- XCANCEL (R350, R615, R618). -/
def execXcancel (f : XF) (s : State) : Out :=
  .next (s.once (.xcancel f) [] fun s _ =>
    let go (s : State) (p : EngOp → Bool) : State :=
      ((s.core.engine.filter p).foldl (fun s o =>
        (s.onEng o.id fun o => { o with cancelled := true }).wakeEng o.id) s).next
    if s.kind = .dispatch then go s fun o => o.gid == some s.gid
    else if XF.binds f then
      match s.team.defTile f.tile.toNat with
      | none => s.trapActive (trapTile f.tile.toNat) []
      | some _ => go s fun o => o.team == s.team.id && o.tile.any (·.1 == f.tile.toNat)
    else if !s.team.lrec.isObject f.bar.toNat then s.trapActive (barTrap 4 f.bar.toNat) []
    else go s fun o => o.gid == some s.gid && o.bar == some f.bar.toNat)

/-- PRECV (R358, R574). Its bytes may not touch a barrier object (R352, log entry 93). -/
def execPrecv (f : XF) (s : State) : Out :=
  .next (s.access (.precv f) fun s =>
    let v := s.fetchUse (uSN f.a) 0
    let a := uval 32 v.1
    if v.2 then s.trapActive (poisonTrap 1) []
    else if a % 4 ≠ 0 then s.trapActive (trapLocal 4 0 a) []
    else
      match s.rangeProt ⟨a, 256⟩ with
      | .error t => s.trapActive t []
      | .ok _ =>
        if s.team.inbox.isEmpty || !s.team.precvs.isEmpty then
          { s with team := { s.team with precvs := s.team.precvs ++ [s.grp.num] } }.waitFor (.precv a)
        else (s.takePacket a).next true)

end Sys2Proof.Machine
end

