-- ==== Sys2Proof/Machine/Matrix.lean ====
section
/-! DEFINITION. The matrix engines: MMA, ACCZERO, ACCLOAD, ACCDRAIN, MMAWAIT and MMAB, with the start and completion of macro-ops (R234, R359 to R365, R471 to R478, R560 to R563). -/

namespace Sys2Proof.Machine

/-! ### The arithmetic of one MMA (R234, R360 to R362) -/

/-- Element `k` of a packed block of bytes as bits of a format. -/
def packedElem (t : Ty) (bs : List Byte) (k : Nat) : BitVec 64 :=
  let b := k * t.elemBits
  BitVec.ofNat 64 (leNat ((bs.drop (b / 8)).take ((t.elemBits + 7) / 8)) / 2 ^ (b % 8) % 2 ^ t.elemBits)

/-- An operand's value; an MX element under its scale (R213). -/
def operandVal (t : Ty) (x : BitVec 64) (scale : Byte) : Val := if t.mx then mxVal t scale.toNat x else t.val x

/-- An A tile as bytes and scales, with the poison of its rows; a poisoned scale poisons every row (R362). -/
structure TileData where
  bytes : List Byte
  scales : List Byte
  bad : BitVec 64
  deriving DecidableEq, Repr

/-- Reads a tile of 64 rows of `k` elements from the team in focus (R343, R360, R477). -/
def State.tileData (s : State) (e : DWord) (t : Ty) (k : Nat) : TileData :=
  let a := s.local (tileBase e * 128)
  let n := (64 * k * t.elemBits + 7) / 8
  let ns := if t.mx then 64 * (k / 32) else 0
  let sa := a + roundUp n 128
  let row := k * t.elemBits / 8
  { bytes := Memory.readBytes Memory.zeros s.core.store a n
    scales := Memory.readBytes Memory.zeros s.core.store sa ns
    bad := if decide (0 < ns) && s.core.poisoned sa ns then BitVec.allOnes 64
      else BitVec.ofNat 64 ((List.range 64).foldl (fun m i =>
        m + b2n (s.core.poisoned (a + i * row) row) * 2 ^ i) 0) }

/-- The products A[i, k]·B[k, j] for k ascending (R234). -/
def products (ta tb : Ty) (kn : Nat) (a : TileData) (qs : List Quarter) (i j : Nat) : List Val :=
  let q := qs.getD (j / 16) ⟨tb, [], [], true, ⟨⟨⟨0, 0⟩, 0⟩, 0⟩⟩
  (List.range kn).map fun k =>
    let x := operandVal ta (packedElem ta a.bytes (i * kn + k)) (a.scales.getD (i * (kn / 32) + k / 32) 0)
    let y := operandVal tb (packedElem tb q.bytes (k * 16 + j % 16)) (q.scales.getD (k / 32 * 16 + j % 16) 0)
    (mulVal x y).1

/-- The integer sum of products modulo 2^32 (R360). -/
def intSum (ta tb : Ty) (kn : Nat) (a : TileData) (qs : List Quarter) (i j : Nat) : Int :=
  let q := qs.getD (j / 16) ⟨tb, [], [], true, ⟨⟨⟨0, 0⟩, 0⟩, 0⟩⟩
  (List.range kn).foldl (fun n k =>
    n + ta.int (packedElem ta a.bytes (i * kn + k)) * tb.int (packedElem tb q.bytes (k * 16 + j % 16))) 0

/-- The tag that an MMA writes (R360). -/
def mmaTag (ta : Ty) : AccTag :=
  if ta = .i8 || ta = .n8 then .i32 else if ta = .f64 then .f64 else .f32

/-- One element of the result, from the accumulator's element (R234, R360). -/
def mmaElem (ta tb : Ty) (ovr : Bool) (kn : Nat) (a : TileData) (qs : List Quarter) (old : BitVec 64) (i j : Nat) : BitVec 64 :=
  match mmaTag ta with
  | .i32 => wrap 32 ((if ovr then 0 else Ty.i32.int old) + intSum ta tb kn a qs i j)
  | tag =>
    let t : Ty := if tag = .f64 then .f64 else .f32
    let sum := (products ta tb kn a qs i j).foldl (fun x y => (addVal .rne x y).1) (.zero true)
    (roundTo t .rne false (if ovr then sum else (addVal .rne (t.val old) sum).1)).1

/-- An accumulator after an MMA (R234, R360, R362). `other` is set when the pair of a binary64 accumulator holds another
tag. -/
def mmaResult (ta tb : Ty) (ovr : Bool) (kn : Nat) (a : TileData) (qs : List Quarter) (old : Acc) (other : Bool) : Acc :=
  let tag := mmaTag ta
  let clash := !ovr && ((old.tag != .z && old.tag != tag) || other)
  let allBad := clash || qs.any (fun q => q.bad || q.ty != tb) || decide (qs.length < 4)
  let start : BitVec 64 := if ovr then 0 else old.bad
  { tag := tag
    cells := (List.range 4096).map fun n => mmaElem ta tb ovr kn a qs (if old.tag = .z then 0 else old.cells.getD n 0) (n / 64) (n % 64)
    bad := if allBad then BitVec.allOnes 64 else start ||| a.bad }

/-! ### Queues (R363, R365) -/

/-- The macro-op that an engine would start next: from its own or the redirected queue, alternately while both hold work. -/
def Quad.head (q : Quad) : Option MacroOp :=
  match q.queue, q.redir with
  | [], [] => none
  | x :: _, [] => some x
  | [], y :: _ => some y
  | x :: _, y :: _ => some (if q.turn then y else x)

/-- Takes that macro-op out of its queue. -/
def Quad.pop (q : Quad) : Quad :=
  match q.queue, q.redir with
  | _ :: xs, [] => { q with queue := xs, turn := true }
  | [], _ :: ys => { q with redir := ys, turn := false }
  | _ :: xs, _ :: ys => if q.turn then { q with redir := ys, turn := false } else { q with queue := xs, turn := true }
  | [], [] => q

/-- Whether the four quarter queues of a quad each hold a head (R362). -/
def State.quartersReady (s : State) (d quad : Nat) : Bool :=
  (s.quadCores d quad).all fun c => !(s.coreOf c).quarters.isEmpty

/-- A timed event. -/
def State.after (s : State) (n : Nat) (i : Instr) : State := { s with timers := s.timers ++ [(s.clk + n, i)] }

/-- The clk of a macro-op; a redirected one adds 16 (R360, R365, R477, R478). -/
def State.macroClk (s : State) (d : Nat) (m : MacroOp) : Nat :=
  (match m.kind with
    | .mma _ _ _ => 128
    | .zero => 4
    | .load => if (s.acc d m.quad m.acc).tag = .f64 then 256 else 128) + (if redirSet (s.redirect d m.quad) then 16 else 0)

/-- An idle engine starts its next macro-op, if it can (R362, R363). -/
def State.kick (s : State) (d n : Nat) : State :=
  let q := s.quad d n
  if q.running.isSome then s
  else
    match q.head with
    | none => s
    | some m =>
      match m.kind with
      | .mma _ _ _ => if s.quartersReady d m.quad then s.send (.mmaStart d n) else s
      | _ => (s.putQuad { q.pop with running := some m }).after (s.macroClk d m) (.macroOpComplete d n)

/-- Acts on a team of another core and comes back, with a result. -/
def State.within {α : Type} (s : State) (c : CoreId) (t : TeamId) (k : State → α × State) : α × State :=
  let r := k ((s.focusCore c).focusTeam t)
  (r.1, (r.2.focusCore s.core.id).focusGroup s.gid)

/-- Takes the head of a core's quarter queue; TILES of its group falls (R362, R562). -/
def State.takeQuarter (s : State) (c : CoreId) : List Quarter × State :=
  match (s.coreOf c).quarters with
  | [] => ([], s)
  | q :: _ => ([q], s.atCore c fun s =>
      (((s.onCore fun k => { k with quarters := k.quarters.drop 1 }).atGroup q.gid fun s =>
        s.onGrp fun g => { g with tiles := g.tiles - 1 })).pump)

/-- MMA_START (R362): the MMA consumes the four heads and holds its tile. -/
def execMmaStart (die quad : Nat) (s : State) : Out :=
  let q := s.quad die quad
  .next (match q.running, q.head with
    | none, some m =>
      match m.kind with
      | .mma _ _ _ =>
        if s.quartersReady die m.quad then
          let s := s.putQuad { q.pop with running := some m }
          let r := (s.quadCores die m.quad).foldl (fun (a : List Quarter × State) c =>
            let x := a.2.takeQuarter c
            (a.1 ++ x.1, x.2)) ([], s)
          let q := r.2.quad die quad
          (r.2.putQuad { q with running := some { m with quarters := r.1 } }).after (r.2.macroClk die m) (.macroOpComplete die quad)
        else s
      | _ => s
    | _, _ => s)

/-- The tile that a macro-op reads, if its team is still resident. -/
def State.macroTile (s : State) (m : MacroOp) : Option DWord :=
  ((s.coreOf m.core).teams.find? (·.id == m.team)).bind fun t => t.tile m.tile

/-- The effect of a macro-op (R234, R359, R360, R362, R477, R478). -/
def State.macroEffect (s : State) (d : Nat) (m : MacroOp) : State :=
  let n := m.acc
  let tagOf (k : Nat) : AccTag := (s.acc d m.quad k).tag
  match m.kind with
  | .zero =>
    if tagOf n = .f64 then (s.putAcc d m.quad (pairOf n) {}).putAcc d m.quad (pairOf n + 1) {} else s.putAcc d m.quad n {}
  | .mma ta tb ovr =>
    match s.macroTile m, mmaK ta tb with
    | some e, some kn =>
      let r := s.within m.core m.team fun s => (s.tileData e ta kn, s)
      let wide := ta == .f64
      let other := wide && tagOf (n + 1) != .z && tagOf (n + 1) != .f64
      let s := r.2.putAcc d m.quad n (mmaResult ta tb ovr kn r.1 m.quarters (s.acc d m.quad n) other)
      if wide then s.putAcc d m.quad (n + 1) { tag := .f64 } else s
    | _, _ => s
  | .load =>
    match s.macroTile m with
    | some e =>
      let t := (numTy (tileFmt e)).getD .f32
      let r := s.within m.core m.team fun s => (s.tileData e t 64, s)
      let tag : AccTag := if t = .i32 then .i32 else if t = .f64 then .f64 else .f32
      let s := r.2.putAcc d m.quad n { tag := tag, cells := (List.range 4096).map (packedElem t r.1.bytes), bad := r.1.bad }
      if tag = .f64 then s.putAcc d m.quad (n + 1) { tag := .f64 } else s
    | none => s

/-- MACRO_OP_COMPLETE (R363): the accumulator takes its value, the tile is no longer held, and the engine goes on. -/
def execMacroOpComplete (die quad : Nat) (s : State) : Out :=
  let q := s.quad die quad
  .next (match q.running with
    | none => s
    | some m =>
      let s := s.macroEffect die m
      let s := (s.putQuad { s.quad die quad with running := none }).kick die quad
      ((s.atCore m.core fun s => s.eachGroup State.poll).atCore m.ctl fun s => s.eachGroup State.poll))

/-! ### The instructions of a control core -/

/-- A ROUTE trap that names no route number. -/
def engineRoute : Trap := { kind := 0x0D }

/-- Queues a macro-op; while the queue is full the control core waits (R363). -/
def State.queueMacro (s : State) (m : MacroOp) : State :=
  let d := CoreId.die s.core.id
  let n := s.serving d m.quad
  let q := s.quad d n
  let far := redirSet (s.redirect d m.quad)
  if 16 ≤ (s.macroQueue m.quad).length then s.waitBefore (.queue m.quad)
  else ((s.putQuad (if far then { q with redir := q.redir ++ [m] } else { q with queue := q.queue ++ [m] })).kick d n).next

/-- The quad that a matrix instruction names, unless no engine serves it (R365, R472, R561). -/
def State.matrixOp (s : State) (i : Instr) (f : MXF) (k : State → Nat → State) : State :=
  s.frame i fun s =>
    if s.active.isEmpty then s.next (canWait i)
    else
      let quad := s.clusterQuad f.a.reg
      if redirNone (s.redirect (CoreId.die s.core.id) quad) then s.trapActive engineRoute [] else k s quad

/-- The control core's next macro-op. -/
def State.macroOp (s : State) (f : MXF) (kind : MacroKind) (quad : Nat) (core : CoreId) (team : TeamId) : MacroOp :=
  { kind := kind, ctl := s.core.id, quad := quad, core := core, team := team, tile := f.tile.toNat, acc := f.acc.toNat }

/-- An instruction that reads a tile of the QCORE core (R110, R149, R477, R561). -/
def State.tileMacro (s : State) (i : Instr) (f : MXF) (kind : MacroKind) (fits : DWord → Bool) : State :=
  s.matrixOp i f fun s quad =>
    let c := s.quadCore f.a.reg f.qcore.toNat
    match s.firstTeam s.team.id.grid c with
    | none => s.trapActive (trapTile f.tile.toNat) []
    | some t =>
      match t.defTile f.tile.toNat with
      | none => s.trapActive (trapTile f.tile.toNat) []
      | some e =>
        if !fits e || (tileState e == 0 && roleEnded t.groups (tileOwner e)) then s.trapActive (trapTile f.tile.toNat) []
        else if tileState e ≠ 2 then s.waitBefore (.tileAt c t.id f.tile.toNat)
        else s.queueMacro (s.macroOp f kind quad c t.id)

/-- MMA (R560, R561). -/
def execMma (f : MXF) (s : State) : Out :=
  let ta := (numTy f.ta.toNat).getD .f16
  let tb := (numTy f.tb.toNat).getD .f16
  let k := (mmaK ta tb).getD 1
  .next (s.tileMacro (.mma f) f (.mma ta tb (f.sub == 1)) fun e =>
    tileFmt e == f.ta.toNat && tileErows e == 63 && tileEcols e + 1 == k)

/-- ACCLOAD (R476, R477). -/
def execAccload (f : MXF) (s : State) : Out :=
  .next (s.tileMacro (.accload f) f .load fun e =>
    let t := numTy (tileFmt e)
    tileErows e == 63 && tileEcols e == 63 && (t == some .f32 || t == some .i32 || t == some .f64)
      && !(t == some .f64 && f.acc.getLsbD 0))

/-- ACCZERO (R478). -/
def execAcczero (f : MXF) (s : State) : Out :=
  .next (s.matrixOp (.acczero f) f fun s quad => s.queueMacro (s.macroOp f .zero quad s.core.id s.team.id))

/-- MMAWAIT after its checks: it waits, reports the earliest failed drain, or completes (R109, R363, R563). -/
def State.mmawait (s : State) (acc : Option (Nat × Nat)) : State :=
  if s.drainsDue acc then s.waitFor (.drained acc)
  else match s.failedDrain acc with
    | some d => (s.reported d).trapActive (drainTrap (d.status.getD .ok)) []
    | none => (s.drainsSeen acc).next true

/-- MMAWAIT (R363, R563). -/
def execMmawait (f : MXF) (s : State) : Out :=
  .next (if f.flags.getLsbD 0 then
      s.frame (.mmawait f) fun s => if s.active.isEmpty then s.next true else s.mmawait none
    else
      s.matrixOp (.mmawait f) f fun s quad => s.mmawait (some (quad, f.acc.toNat)))

/-- The element types that a drain may write, by its form and the accumulator's tag (R474). -/
def drainFmts (sub : Nat) (tag : AccTag) : List Ty :=
  match sub, tag with
  | 0, .i32 => [.i32]
  | 0, .f64 => [.f64, .f32]
  | 0, _ => [.f32, .f16, .bf16, .e4m3, .e5m2, .e2m1]
  | 1, .i32 => [.i32]
  | _, .f64 => [.f64]
  | 2, .i32 => []
  | _, _ => [.f32]

/-- The checks of ACCDRAIN within the drain team (R473, R474). -/
def State.planDrain (s : State) (sub acc : Nat) (a : Acc) (rec' la rank : Nat) (none' : Bool) : Except Trap EngOp := do
  let bs ← s.shapeRow rec'
  let r := Shape.parse bs
  let t := numTy r.efmt
  need (!(acc % 2 == 1 && a.tag == .f64)) { kind := 5 }
  need (t.any fun x => (drainFmts sub a.tag).contains x) { kind := 5 }
  let t := t.getD .f32
  need (!r.malformed bs t true [] && r.ndim == 1 && r.boxN 0 == 64 && r.boxN 1 == 64) { kind := 5 }
  need (r.dir == 1 || (sub == 0 && r.dir == 0)) { kind := 5 }
  let box := boxRange r t la
  need (r.dir == 1 || decide (box.at' + box.n ≤ s.team.rows * 128)) { kind := 5 }
  s.rangeProt ⟨rec', 128⟩
  if r.dir == 0 then s.rangeProt box
  need (!none') engineRoute
  if sub == 2 then s.orderCheck rank
  need (r.dir == 0 || a.bad == 0) (poisonTrap 6)
  pure { id := 0, gid := none, team := s.team.id, kind := .drain, sub := sub, shape := r, la := la, rank := rank,
         fmt := (match a.tag with | .i32 => .i32 | .f64 => .f64 | _ => .f32), now := s.core.now, cells := a.cells, rowBad := a.bad }

/-- Hands a drain to the engine of the core in focus for a group of a control core, once its global range is translated there and there
is room (R152, R262, R339): its number, or what the control core waits for. -/
def State.handDrain (s : State) (o : EngOp) (ctl : CoreId) (who : WalkFor) : (WaitFor ⊕ Nat) × State :=
  let need := s.missing o.addresses (who := who)
  if !need.isEmpty then (.inl (.walks s.core.id), s.askWalks need 4 who)
  else if 256 ≤ s.core.engine.length then (.inl (.engine s.core.id (o.ranges none)), s)
  else match registerAll s.core.hutch (o.ranges none) with
    | none => (.inl (.engine s.core.id (o.ranges none)), s)
    | some (locks, hutch) =>
      let (id, s) := s.newId
      (.inr id, ((s.onCore fun k => { k with
        hutch := hutch, engine := k.engine ++ [{ o with id := id, locks := locks, ctl := some ctl }] }).giveHeld o.addresses who
          (.engine id)).wakeEng id)

/-- ACCDRAIN (R471 to R475). -/
def execAccdrain (f : MXF) (s : State) : Out :=
  .next (s.frame (.accdrain f) fun s =>
    if s.active.isEmpty then s.next
    else
      let d := CoreId.die s.core.id
      let quad := s.clusterQuad f.a.reg
      let n := f.acc.toNat
      if s.macroPending fun m => m.quad == quad && s.sameAcc d quad m.acc n then s.waitBefore (.macroOps quad n)
      else if (s.barUses (.accdrain f)).any fun u => (s.fetchUse u 0).2 then s.trapActive (poisonTrap 1) []
      else
        let c := s.quadCore f.a.reg f.qcore.toNat
        let rec' := uval 32 (s.fetchUse (uSN f.b) 0).1
        let cv := uval 32 (s.fetchUse (uSN f.c) 0).1
        let acc := s.acc d quad n
        let s0 := s
        let none' := redirNone (s.redirect d quad)
        match s.firstTeam s.team.id.grid c with
        | none => s.trapActive { kind := 5 } []
        | some t =>
          match s.within c t.id fun s => match s.planDrain f.sub.toNat n acc rec' cv (bits cv 7 0) none' with
            | .error t => (.error t, s)
            | .ok o =>
              let r := s.handDrain o s0.core.id s0.me
              (Except.ok r.1, r.2) with
          | (.error t, s) => s.trapActive t []
          | (.ok (.inl w), s) => s.waitBefore w
          | (.ok (.inr id), s) =>
            ((s.onCore fun k => { k with drains := k.drains ++ [⟨id, quad, n, none⟩] }).onGrp Group.effect).next)

/-! ### MMAB (R361, R562) -/

/-- The quarter that MMAB publishes, as its rows hold it (R361). -/
def State.quarterOf (s : State) (f : V3) (t : Ty) : Quarter :=
  let a := s.local (s.vAddr f.a.reg 0)
  let n := if t = .f64 then 128 else 512
  let sa := s.local (s.vAddr f.b.reg 0)
  let ns := if t = .mxe2m1 then 32 else if t.mx then 16 else 0
  { ty := t, bytes := Memory.readBytes Memory.zeros s.core.store a n, scales := Memory.readBytes Memory.zeros s.core.store sa ns,
    bad := s.core.poisoned a n || (decide (0 < ns) && s.core.poisoned sa ns), gid := s.gid }

/-- MMAB (R361, R562). -/
def execMmab (f : V3) (s : State) : Out :=
  .next (s.frame (.mmab f) fun s =>
    if s.active.isEmpty then s.next
    else if 15 ≤ s.grp.tiles then s.waitBefore .tiles
    else if 2 ≤ s.core.quarters.length then s.waitBefore .quarters
    else
      let d := CoreId.die s.core.id
      let q := s.quarterOf f ((numTy f.ty.toNat).getD .f16)
      let s := (s.onCore fun c => { c with quarters := c.quarters ++ [q] }).onGrp fun g => { g with tiles := g.tiles + 1 }
      (s.kick d (s.serving d (s.quadOf s.core.id))).next)

end Sys2Proof.Machine
end

