-- ==== Sys2Proof/Machine/Sync.lean ====
section
/-! DEFINITION. WAITCNT, FENCE, CLKADV, SPINHINT, SLEEP and WAITT (R88, R109, R279, R301, R317, R340, R513, R514, R537, R538, R601, R603, R613, R614). -/

namespace Sys2Proof.Machine

/-- WAITCNT (R340, R613). -/
def execWaitcnt (f : SF) (s : State) : Out :=
  .next (s.frame (.waitcnt f) fun s =>
    if s.active.isEmpty then s.next true
    else
      let g := s.grp
      let l := f.a.reg
      let st := f.b.reg
      let c := bits f.code.toNat 7 0
      let t := bits f.code.toNat 11 8
      if g.loads ≤ l ∧ g.stores ≤ st ∧ g.copies ≤ c ∧ g.tiles ≤ t then s.next true
      else s.waitFor (.counters l st c t))

/-- FENCE (R317, R537, R538): it completes at issue, and the accesses it orders wait for its conditions. -/
def execFence (f : SF) (s : State) : Out :=
  .next (s.access (.fence f) fun s =>
    let sc := Scope.ofCode f.scope.toNat
    let loads := (s.grp.ops.filter (·.load)).map (·.id)
    (match f.order.toNat with
    | 1 => s.release sc false loads (.fence true)
    | 2 => s.release sc true s.earlier (.fence false)
    | _ => s.release sc true s.earlier (.fence true)).next)

/-- The value of `%now` after CLKADV (R514). -/
def State.clkadvTo (s : State) (max' : Bool) (v : Nat) : Nat :=
  let n := s.nowTick
  if max' then
    let t : Stamp := ⟨BitVec.ofNat 2 (bits v 25 24), bits v 23 0⟩
    if (s.ep - t.ep).toNat ≤ 1 then max n (t.read s.ep) else n
  else n + min v 4096

/-- Sets `%now`, or waits before the instruction until the next rebase when it would pass 0xFF_FFFF (R301, R514). -/
def State.advanceTo (s : State) (n : Nat) : State :=
  if tickMax < n then s.waitRebase else (s.setNow n).next

/-- CLKADV (R513, R514). -/
def execClkadv (f : SF) (s : State) : Out :=
  .next (s.once (.clkadv f) [{ o := f.a, kinds := kSN, ty := .n32 }] fun s vs =>
    s.advanceTo (s.clkadvTo (f.sub == 1) (uval 32 (nth vs 0))))

/-- SPINHINT (R279, R603). -/
def execSpinhint (f : SF) (s : State) : Out :=
  .next (s.once (.spinhint f) [] fun s _ =>
    s.advanceTo (s.nowTick + match s.grp.lastAcq with | some l => l / 8 | none => 1))

/-- SLEEP (R601). -/
def execSleep (f : SF) (s : State) : Out :=
  .next (s.once (.sleep f) [{ o := f.a, kinds := kSN, ty := .n32 }] fun s vs =>
    let n := uval 32 (nth vs 0)
    if n = 0 then s.next true else s.waitFor (.sleep n))

/-- WAITT (R88, R614). -/
def execWaitt (f : SF) (s : State) : Out :=
  .next (s.once (.waitt f) [uS2 f.a] fun s vs =>
    if (nth vs 0).toNat ≤ s.gtcOf s.core.id then s.next true else s.waitFor (.deadline (nth vs 0)))

end Sys2Proof.Machine
end

