-- ==== Sys2Proof/Machine/Sem.lean ====
section
/-! DEFINITION. SEMSIG and SEMWAIT, their replies, notices and timeouts, and the events that end SLEEP, WAITT and idle spans (R78, R88, R279, R416, R595 to R597, R601). -/

namespace Sys2Proof.Machine

/-! ### Issue (R595, R596) -/

/-- Srcs B of a semaphore instruction: a 64-bit value. -/
def semB (f : SF) : Use := { o := f.b, kinds := kSN, ty := .n64, span := 2, pair := true }

/-- The register or pair of the deadline: srcA + 2, or c(srcA + 1) (R595). -/
def State.semLimit (s : State) (f : SF) : Use :=
  let k : Nat := if s.kind == .vector then 2 else 1
  { uS2 f.a with o := .s (BitVec.ofNat 6 (f.a.reg + k)) }

/-- What the checks of a semaphore's doubleword depend on. -/
def semAcc (writes : Bool) : GAcc := ⟨BitVec.ofNat 128 (3 * 2 ^ 115), false, 1, 8, false, writes, false⟩

/-- Checks 2 and 3 of R596: the semaphore's virtual address. -/
def semAddress (a : BitVec 64) : Except Trap Nat :=
  if a.toNat / 2 ^ 56 ≠ 0 then .error { kind := 5 }
  else if a.toNat % 8 ≠ 0 then .error (trapAt 4 0 a.toNat)
  else .ok a.toNat

/-- The address that stands for a sparse hole: no memory lies there, so it reads as zero (R258). -/
def holeAddr : Nat := 2 ^ 60

/-- Checks 2 to 4 of R596 and the watch entries (R437): the instruction goes on with the physical address, or every
active lane traps. -/
def State.semaphore (s : State) (i : Instr) (us : List Use) (writes : Bool) (kind : Nat)
    (k : State → Nat → List (BitVec 64) → State) : State :=
  s.once i us fun s vs =>
    match semAddress (nth vs 0) with
    | .error t => s.trapActive t []
    | .ok va =>
      if s.orderBlocked i then s.waitBefore (.order (isStoring i))
      else
        s.translated [va] kind fun s =>
          let g := semAcc writes
          let r : Except Trap (Option Place) := do
            let ps ← s.places g [some va]
            match s.watchTrap g [some va] with
            | some t => .error t
            | none => pure ps.head?
          let s' := s.dropHeld [va]
          match r with
          | .error t => s'.trapActive t []
          | .ok (some (.at pa _)) => k s' pa vs
          | .ok _ => k s' holeAddr vs

/-- SEMSIG (R596): Release(PANEL), then an ATOMQ that adds modulo 2^64. -/
def execSemsig (f : SF) (s : State) : Out :=
  .next (if s.kind == .vector ∧ 63 ≤ s.grp.stores ∧ !s.active.isEmpty ∧ (illDetail s.ctx (.semsig f)).isNone then s.waitBefore .stores
    else s.semaphore (.semsig f) [uS2 f.a, semB f] true 2 fun s pa vs =>
      let (id, s) := s.newId
      let (ref, s) := s.newId
      let m : AtomMsg :=
        { addr := pa, wide := true, op := .add, cls := .bits, a := nth vs 1, c := 0, who := .core s.core.id,
          now := s.core.now, holds := false, promote := none, ref := ref, lane := 0 }
      let before := s.earlier
      let s := (s.onGrp Group.effect).addOp
        { id := id, load := false, counted := s.kind == .vector, started := false, waits := [ref], lines := [pa / 128] }
      ((s.release .panel true before (.atoms id [m] [])).finishOps).next)

/-- The value of a semaphore at its home. -/
def State.semValue (s : State) (pa : Nat) : BitVec 64 := BitVec.ofNat 64 (s.readNat pa 8)

/-- Whether the home of a semaphore can answer a read now (R74, R274). -/
def State.semReach (s : State) (pa : Nat) : Bool := pa == holeAddr || !s.lineWaits s.core.now (pa / 128) 0

/-- A SEMWAIT's read at the home, which answers with the value and registers the waiter (R416, R596). A home that stands still takes it
later, as `State.pumpSem` says. -/
def State.semRead (s : State) (w : Wait) : State :=
  match w.what with
  | .sem pa target limit replied _ late =>
    let put (s : State) (ref : Nat) : State :=
      let w := { w with what := .sem pa target limit replied ref late }
      s.onGrp fun g => if g.wait.isSome then { g with wait := some w } else { g with held := some w }
    if s.semReach pa then
      let (ref, s) := s.newId
      let s := { s with semWaiters := ⟨pa, target, s.core.id, s.gid, ref, none⟩ :: s.semWaiters }
      let s := if pa = holeAddr then s else s.useLines [pa / 128]
      (put s ref).send (.semwaitReadReply ⟨s.core.id, s.gid, ref, none, s.semValue pa, s.homeWts (pa / 128)⟩)
    else put (if pa = holeAddr then s else s.askWay (pa / 128)) 0
  | _ => s

/-- A group of a core whose SEMWAIT has not been read at its home, which can now answer (R75, R274). -/
def State.semUnread (s : State) : Option (CoreId × GroupId × Wait) :=
  s.allGroups.findSome? fun x => match x.2.2.waiting? with
    | some w => match w.what with
      | .sem pa _ _ _ 0 _ => if pa = holeAddr || !s.lineHeld (s.die (CoreId.die x.1)).epoch (s.coreOf x.1).now (pa / 128) 0 then some (x.1, x.2.1, w) else none
      | _ => none
    | none => none

/-- Takes a SEMWAIT's read that waited for its home. -/
def State.pumpSem (s : State) : Option State :=
  s.semUnread.map fun x => (s.focusCore x.1).atGroup x.2.1 fun s => s.semRead x.2.2

/-- SEMWAIT (R596, R597). A sparse page reads as zero there (R258). -/
def execSemwait (f : SF) (s : State) : Out :=
  let timed := f.code.getLsbD 0
  .next (s.semaphore (.semwait f) ([uS2 f.a, semB f] ++ (if timed then [s.semLimit f] else [])) false 0 fun s pa vs =>
    let limit := if timed then some (nth vs 2) else none
    let late := limit.any fun d => decide (d.toNat ≤ s.gtcOf s.core.id)
    let pc := s.pc
    let w : Wait := ⟨.sem pa (nth vs 1) limit false 0 late, pc, s.issueSet⟩
    ((s.onGrp fun g => { g with wait := some w }).semRead w).retire pc true)

/-! ### Replies, notices and deadlines (R416, R596, R597) -/

/-- A registration ends. -/
def State.unregister (s : State) (ref : Nat) : State :=
  { s with semWaiters := s.semWaiters.filter fun w => w.ref != ref || w.launch.isSome }

/-- The SEMWAIT of the group in focus with a number: its target and deadline. -/
def Group.semWait (g : Group) (ref : Nat) : Option (BitVec 64 × Option (BitVec 64)) :=
  match g.waiting? with
  | some ⟨.sem _ target limit _ r _, _, _⟩ => if r = ref then some (target, limit) else none
  | _ => none

/-- The wait of a group for a semaphore changed: its reply came. -/
def Wait.replied (w : Wait) : Wait :=
  match w.what with
  | .sem a t l _ r _ => { w with what := .sem a t l true r false }
  | _ => w

/-- A value reaches the waiting group in focus (R596, R597): it completes with its acquire, meets a deadline that has
passed, or keeps waiting. -/
def State.semCheck (s : State) (ref : Nat) (value : BitVec 64) (wts : Stamp) : State :=
  match s.grp.semWait ref with
  | none => s
  | some (target, limit) =>
    if target ≤ value then
      let t := wts.read s.ep
      ((((s.unregister ref).raiseNow t).raiseHorizon t).acquire .panel).wake
    else if limit.any (fun d => decide (d.toNat ≤ s.gtcOf s.core.id)) then
      (s.unregister ref).trapWaiters { kind := 0x0E }
    else s.onGrp fun g => { g with wait := g.wait.map Wait.replied, held := g.held.map Wait.replied }

/-- SEMWAIT_READ_REPLY (R596, R597). -/
def execSemwaitReadReply (m : SemNotice) (s : State) : Out :=
  .next (s.onTime (CoreId.die m.core) m.wts (.semwaitReadReply m) fun s =>
    (s.focusCore m.core).atGroup m.group fun s => s.semCheck m.ref m.value m.wts)

/-- SEMWAIT_TIMEOUT (R75, R597): the region's `%gtc` reached the deadline, and no value that arrived met the target. While the
semaphore's home is held the check waits; a deadline that had passed at issue is checked at the reply to the issue read. -/
def execSemwaitTimeout (core : CoreId) (g : GroupId) (s : State) : Out :=
  .next ((s.focusCore core).atGroup g fun s =>
    match s.grp.waiting? with
    | some ⟨.sem pa _ (some d) _ ref late, _, _⟩ =>
      if late || (pa != holeAddr && (s.die (paDie pa)).held) then s
      else if d.toNat ≤ s.gtcOf s.core.id then (s.unregister ref).trapWaiters { kind := 0x0E } else s
    | _ => s)

/-! ### SLEEP, WAITT and idle spans (R78, R88, R279, R601) -/

/-- SLEEP_DONE (R601). -/
def execSleepDone (core : CoreId) (g : GroupId) (s : State) : Out :=
  .next ((s.focusCore core).atGroup g fun s =>
    match s.grp.waiting? with
    | some ⟨.sleep 0, _, _⟩ => s.wake
    | _ => s)

/-- WAITT_DEADLINE (R88). -/
def execWaittDeadline (g : GroupId) (core : CoreId) (s : State) : Out :=
  .next ((s.focusCore core).atGroup g fun s =>
    match s.grp.waiting? with
    | some ⟨.deadline t, _, _⟩ => if t.toNat ≤ s.gtcOf s.core.id then s.wake else s
    | _ => s)

/-- IDLE_TICK (R279): `%now` rises by one; at the largest value it waits for the rebase (R301). -/
def execIdleTick (core : CoreId) (s : State) : Out :=
  let s := s.focusCore core
  .next (if s.nowTick < tickMax then s.setNow (s.nowTick + 1) else s.requestRebase (CoreId.die s.core.id))

end Sys2Proof.Machine
end

