-- ==== Sys2Proof/Machine/Reply.lean ====
section
/-! DEFINITION. The coherence messages that reach a core: DATA, EXTEND, CPBKACK, ATOMA, HOLDACK, RECALL, ACCEPT and APPLY, and those of replicated pages: DROP and DROPACK (R277, R279, R281 to R291, R303 to R305, R325 to R336, R450). -/

namespace Sys2Proof.Machine

/-! ### DATA and EXTEND (R277, R281 to R284, R303, R328) -/

/-- Whether an operation of the group in focus waits for a request. -/
def State.waitsOn (s : State) (ref : Nat) : Bool := s.grp.ops.any fun o => has o.waits ref || o.elems.any (·.wait == some ref)

/-- YNOW of a reply to a promoted request raises both clocks (R328). -/
def State.takeYnow (s : State) (ref : Nat) (y : Option Stamp) : State :=
  match y with
  | none => s
  | some y =>
    let t := y.read s.ep
    if s.waitsOn ref then (s.raiseNow t).raiseHorizon t else s

/-- Every group of the core that waits for a request takes its elements from the reply. -/
def State.bindAll (s : State) (line ref : Nat) (f : Copy → Copy) (y : Option Stamp) : State :=
  s.eachGroup fun s => (s.takeYnow ref y).bindOps line ref f

/-- A reply fills the copy that its request left in P, if the core still holds it, and the loads that wait for the reply take
their values (R277, R281, R283, R288). -/
def State.fillCopy (s : State) (line ref : Nat) (f : Copy → Copy) (y : Option Stamp) : State :=
  let s := match s.copyOf line with
    | some c => if c.st == CopySt.p && c.ref == ref then s.putCopy { f c with st := .v, ref := 0 } else s
    | none => s
  (s.bindAll line ref f y).pump

/-- DATA (R277, R284, R291, R303): for a core, or for the copy of a remote-data cache, which then answers its requester. -/
def execDataMsg (m : DataMsg) (s : State) : Out :=
  .next (match m.via with
    | some r =>
      let d := CoreId.die r.src
      s.onTime d m.rts (.dataMsg m) fun s =>
        let x : RdcLine := ⟨m.line, m.wts, m.rts, m.bytes, m.poison, m.repl⟩
        (s.putRdc d x).requeue [answerFrom r (r.fill.getD ⟨m.wts.ep, 0⟩) (s.die d).epoch x m.ynow]
    | none =>
      s.onTime (CoreId.die m.dst) m.rts (.dataMsg m) fun s =>
        (s.focusCore m.dst).fillCopy m.line m.ref (fun c =>
          { c.fill m.bytes m.poison with wts := m.wts, rts := m.rts, repl := m.repl }) m.ynow)

/-- EXTEND (R277, R282, R284, R291): a copy that a remote-data cache lost or replaced meanwhile is asked for again. -/
def execExtend (m : ExtendMsg) (s : State) : Out :=
  .next (match m.via with
    | some r =>
      let d := CoreId.die r.src
      s.onTime d m.rts (.extend m) fun s =>
        match (s.die d).rdc.find? fun x => x.line == m.line && x.wts.read m.rts.ep == r.wts.read m.rts.ep with
        | some x =>
          let x := { x with rts := m.rts }
          (s.putRdc d x).requeue [answerFrom r (r.fill.getD ⟨m.rts.ep, 0⟩) (s.die d).epoch x m.ynow]
        | none => s.send (.read { r with wts := ⟨m.rts.ep, 0⟩ })
    | none =>
      s.onTime (CoreId.die m.dst) m.rts (.extend m) fun s =>
        (s.focusCore m.dst).fillCopy m.line m.ref (fun c => { c with rts := m.rts }) m.ynow)

/-! ### CPBKACK, ATOMA, HOLDACK, ACCEPT and APPLY (R279, R285, R286, R288, R325, R335, R338) -/

/-- A number that releases wait for has been answered with a WTS. -/
def Core.acked (c : Core) (ref w : Nat) : Core :=
  { c with
    acks := eraseN c.acks ref
    rels := c.rels.map fun r => if has r.acks ref then { r with acks := eraseN r.acks ref, most := max r.most w } else r }

/-- Every group of the core no longer waits for a number. -/
def State.clearAll (s : State) (ref : Nat) : State := s.eachGroup (·.clearWait ref)

/-- CPBKACK (R279, R285, R287). -/
def execCpbkack (m : AckMsg) (s : State) : Out :=
  .next (match Who.core? m.who with
    | none => s
    | some c =>
      s.onTime (CoreId.die c) m.wts (.cpbkack m) fun s =>
        let s := s.focusCore c
        let w := m.wts.read s.ep
        ((((s.raiseNow w).onCore (·.acked m.ref w)).settleCopy m.line |>.forgetBytes m.line m.mask).clearAll m.ref).pump)

/-- The elements of the group in focus that wait for an atomic's answer take the old value (R483, R488). -/
def State.bindAtom (s : State) (ref : Nat) (v : BitVec 64 × Bool) : State :=
  let take (e : Elem) : Elem := if e.wait = some ref then { e with wait := none, val := (v.1, v.2 || e.por) } else e
  s.onGrp fun g => { g with ops := g.ops.map fun o => { o with elems := o.elems.map take } }

/-- An answer raises `%now`, and the `%horizon` of the group whose value it brings; YNOW raises both for the group that promoted (R278,
R279, R328). -/
def State.atomClocks (s : State) (ref w : Nat) (y : Option Stamp) : State :=
  let s := s.raiseNow w
  let s := if s.grp.ops.any fun o => o.elems.any (·.wait == some ref) then s.raiseHorizon w else s
  if y.isSome && s.waitsOn ref then s.raiseHorizon w |>.takeYnow ref y else s

/-- ATOMA (R278, R279, R288, R338). -/
def execAtoma (m : AtomAns) (s : State) : Out :=
  .next (match m.who with
    | .port _ | .engine _ _ => s
    | .core c =>
      s.onTime (CoreId.die c) m.wts (.atoma m) fun s =>
        let s := s.focusCore c
        let w := m.wts.read s.ep
        ((s.raiseNow w).eachGroup fun s =>
          ((s.atomClocks m.ref w m.ynow).bindAtom m.ref (m.old, m.poison)).clearWait m.ref).pump)

/-- HOLDACK (R325, R338). -/
def execHoldack (m : HoldMsg) (s : State) : Out := .next (((s.focusCore m.core).clearAll m.ref).pump)

/-- ACCEPT (R336, R446): Bench has the contribution. -/
def execAccept (m : BenchAns) (s : State) : Out :=
  .next (match Who.core? m.who with
    | none => s
    | some c => (s.focusCore c).onCore fun c => { c with accepts := eraseN c.accepts m.ref })

/-- Whether a group of the core in focus waits for a number. -/
def State.awaited (s : State) (ref : Nat) : Bool :=
  (s.coreTeams.map (·.groups)).flatten.any fun g => g.ops.any fun o => has o.waits ref

/-- An engine operation has the answer to an ordered contribution; with the last one it is performed (R335). -/
def EngOp.applied (o : EngOp) (ref w : Nat) : EngOp :=
  ({ o with waits := eraseN o.waits ref, top := max o.top w } : EngOp).settled

/-- An APPLY at the core of its contributor (R335, R450). -/
def State.takeApply (s : State) (m : BenchAns) : State :=
  match m.who with
  | .port _ => s
  | .core c =>
    let s := s.focusCore c
    if s.awaited m.ref then
      let w := m.wts.read s.ep
      ((s.raiseNow w).clearAll m.ref).pump
    else if s.contexts.any (fun x => x.team.groups.any fun g => g.ops.any fun o => has o.waits m.ref) then
      { s with keptApply := s.keptApply ++ [m] }
    else s.raiseNow (m.wts.read s.ep)
  | .engine c op =>
    let s := s.focusCore c
    match s.core.engine.find? (·.id == op) with
    | none => s
    | some o =>
      let w := m.wts.read s.ep
      let o := EngOp.applied o m.ref w
      let s := (s.raiseNow w).onEng op fun _ => o
      if o.waits.isEmpty then s.wakeEng op else s

/-- APPLY (R299, R335, R450): for an outstanding ATOM.FADDO or a command; the dispatch core keeps that of a saved team. -/
def execApply (m : BenchAns) (s : State) : Out :=
  .next (match Who.core? m.who with
    | none => s
    | some c => s.onTime (CoreId.die c) m.wts (.apply m) fun s => s.takeApply m)

/-! ### RECALL (R328) -/

/-- RECALL (R328): Release(scope) for every dirty word but those of the line, then YIELD. -/
def execRecall (m : RecallMsg) (s : State) : Out :=
  let s := s.focusCore m.holder
  let r : Rel := { gid := none, scope := m.scope, release := true, acks := [], ops := [], most := 0, cont := .yield m.line }
  let r := s.relAgain r
  .next ((r.1.onCore fun c => { c with rels := c.rels ++ [r.2] }).pump)

/-! ### DROP and DROPACK (R303 to R305) -/

/-- Whether a line lies in a frame. -/
def inFrame (frame size line : Nat) : Bool := decide (frame ≤ line * 128) && decide (line * 128 < frame + size)

/-- A die drops its replica lines of a frame, and its cores their copies of them (R303, R305). -/
def State.dropReplicas (s : State) (die frame size : Nat) : State :=
  let s := s.onDie die fun d => { d with rdc := d.rdc.filter fun x => !(x.repl && inFrame frame size x.line) }
  let drop (c : Core) : Core :=
    if CoreId.die c.id = die then { c with copies := c.copies.filter fun x => !(x.repl && inFrame frame size x.line) } else c
  { s with core := drop s.core, cores := s.cores.map drop }

/-- DROP (R305). -/
def execDrop (m : DropMsg) (s : State) : Out := .next ((s.dropReplicas m.die m.frame m.size).send (.dropack m))

/-- DROPACK (R305): the die leaves the page's mask, and BUSY clears with the last one. -/
def execDropack (m : DropMsg) (s : State) : Out :=
  .next (s.onDie m.home fun d =>
    let dir := d.replDir.map fun p => if p.frame = m.frame then { p with dies := eraseN p.dies m.die } else p
    let left := dir.any fun p => p.frame == m.frame && !p.dies.isEmpty
    { d with replDir := dir, rplBusy := if d.rplBusy = some m.frame ∧ !left then none else d.rplBusy })

end Sys2Proof.Machine
end

