-- ==== Sys2Proof/Machine/Map.lean ====
section
/-! DEFINITION. The panel map as firmware writes it, and the groups of the module taken together (R43 to R51, R59, R60, R285, R306). -/

namespace Sys2Proof.Machine

/-! ### Writing the map (R44, R45, R49, R51, R306) -/

/-- The physical base of a die's panel-map image (R250). -/
def mapImage (d : Nat) : Nat := paOf d (127 * 2 ^ 30)

/-- Offset of a die block (R45). -/
def dieBlock (d : Nat) : Nat := 0x1000000 * (d + 1)

/-- The stamp of a firmware write at the home of a line, which firmware's clock at that die then holds: each of its writes is stamped no
lower than the one before, as R51 needs (R285, R306). -/
def State.firmwareStamp (s : State) (h : Home) : State :=
  let d := lineDie h.line
  let w := s.writeStamp h (s.die d).fwNow
  (s.stamp h w).onDie d fun x => { x with fwNow := ⟨x.epoch, w⟩ }

/-- A firmware write of bytes inside one line. -/
def State.firmwareWrite (s : State) (pa n x : Nat) : State :=
  let r := s.homeFor (pa / 128)
  (r.2.writeNat pa n x).firmwareStamp r.1

/-- Writes at an offset of the panel map, in the image of each present die. -/
def State.mapWrite (s : State) (off n x : Nat) : State :=
  s.present.foldl (fun s d => s.firmwareWrite (mapImage d + off) n x) s

/-- Raises the generation word of each image by one (R49). -/
def State.mapStep (s : State) : State :=
  s.present.foldl (fun s d => s.firmwareWrite (mapImage d) 8 (s.readNat (mapImage d) 8 + 1)) s

/-- An update of the panel map: the generation word is odd while it goes on (R49). -/
def State.mapUpdate (s : State) (f : State → State) : State := (f s.mapStep).mapStep

/-- A number in a die block as the die's own image holds it. -/
def State.blockNat (s : State) (d off n : Nat) : Nat := s.readNat (mapImage d + dieBlock d + off) n

/-- The offset of a region, in units of 2^-16 ns: as the map has it, and before a map is published as firmware measured it (R60). -/
def State.offsetOf (s : State) (d : Nat) (east : Bool) : Int :=
  if s.pub.isNone then regionOffset d east
  else (BitVec.ofNat 64 (s.blockNat d (0x20000 + if east then 8 else 0) 8)).toInt

/-- Whether an address lies in the panel-map image of a die, and at which offset of the map. -/
def imageOffset (a : Nat) : Option Nat :=
  if a < 40 * 2 ^ 37 ∧ 127 * 2 ^ 30 ≤ a % 2 ^ 37 then some (a % 2 ^ 37 - 127 * 2 ^ 30) else none

/-- Firmware writes anew every byte of the images at the offsets that satisfy a condition, and they read from then on as published: the
bytes that stand listed go, and each line that stands at its home is stamped. -/
def State.republish (s : State) (q : Published) (p : Nat → Bool) : State :=
  let hit (a : Nat) : Bool := (imageOffset a).any p
  let s := { s with pub := some q, mem := s.mem.filter fun c => !hit c.1 }
  (s.homes.filter fun h => hit (h.line * 128)).foldl State.firmwareStamp s

/-! ### The tree in the map (R58 to R60, R77) -/

/-- Publishes the region record of a die (R60). A die that has a place again after it had none has its offsets again. -/
def State.putRegionRecord (s : State) (d : Nat) : State :=
  let at' := dieBlock d + 0x20000
  let w := Panel.regionWord s.dies s.clkgen.toNat d
  let was := s.readNat (mapImage d + at' + 0x10) 1 == 0xFF
  let s := s.mapWrite (at' + 0x10) 16 (w / 2 ^ 128)
  if was || Panel.noPlace s.dies d then s.mapWrite at' 16 (w % 2 ^ 128) else s

/-- STATUS of a die (R46, R80). -/
def State.dieStatus (s : State) (d : Nat) : Nat := Panel.dieWord s.dies d 0 % 4

/-- Publishes a die's record (R46). -/
def State.putDieRecord (s : State) (d : Nat) : State :=
  (List.range 2).foldl (fun s k => s.mapWrite (0x1000 + 16 * d + 8 * k) 8 (Panel.dieWord s.dies d k)) s

/-- Publishes the stitch latencies of a die whose region PLLs have locked afresh: each is left open within its limits (R13, R56). -/
def State.putStitch (s : State) (d : Nat) : State :=
  (List.range 66).foldl (fun s r =>
    let (k, s) := s.drawNat 4
    s.mapWrite (dieBlock d + 0x10040 + r) 1 (6 + k)) s

/-- Publishes the tree (R77): the pairwise entries, the region records with the skew classes, the die records, and the stitch latencies
of the dies that have locked afresh. Before boot nothing is published. -/
def State.publishTree (s : State) (relocked : List Nat := []) : State :=
  if s.pub.isNone then s
  else s.mapUpdate fun s =>
    let ds := List.range 40
    let s := ds.foldl (fun s a => ds.foldl (fun s b => s.mapWrite (0x10000 + (a * 40 + b) * 8) 8 (Panel.pairEntry s.dies a b)) s) s
    let s := ds.foldl (fun s d => (s.putRegionRecord d).putDieRecord d) s
    relocked.foldl State.putStitch s

/-! ### Boot and the dies mapped out (R43 to R48, R635) -/

/-- What firmware knows of a die: its defects, its place in the tree and the size of its remote-data cache. -/
def Die.facts (d : Die) : Die :=
  { num := d.num, absent := d.absent, dead := d.dead, deadEngines := d.deadEngines, cut := d.cut, fwd := d.fwd, rdcgib := d.rdcgib,
    stranded := d.stranded, spare := d.spare }

/-- Firmware publishes the panel map when boot configuration completes, and the neighbour routes stand in every core's table from then
on (R26, R43, R45). The size of each remote-data cache is left open (R46, log entry 75). The first publication updates no published
entry, so that the generation word keeps its value (log entry 78). The routes above 3 that a core already has stay in its image. -/
def State.publishBoot (s : State) : State :=
  let s := s.present.foldl (fun s d => s.onDie d fun x => { x with rdcgib := Config.rdcGib d % 17 }) s
  let q : Published := { dies := s.dies.map Die.facts, gen := s.clkgen.toNat }
  let kept (off : Nat) : Bool := decide (off < 8) || (decide (0x1800000 ≤ off) && decide (0x800000 ≤ off % 0x1000000) && decide (128 ≤ off % 0x800))
  (s.republish q (!kept ·)).mapCores fun c => (q.slots c.id).foldl Core.putRoute c

/-- The die block of an absent die takes the contents of R635. -/
def State.blankBlock (s : State) (d : Nat) : State :=
  match s.pub with
  | none => s
  | some q => s.republish { q with out := insertN q.out d } fun off => decide (dieBlock d ≤ off) && decide (off < dieBlock d + 0x1000000)

/-! ### PANEL_MAP_UPDATE (R42, R46, R49, R60) -/

/-- A cell of the panel map on its way into an image; the generation word itself is firmware's own (R49). -/
def State.putMapCell (s : State) (c : Nat × Byte) : State :=
  if c.1 < 8 ∨ 2 ^ 30 ≤ c.1 then s else s.mapWrite c.1 1 c.2.toNat

/-- Whether a number lies within limits. -/
def inLimits (lo hi n : Int) : Bool := decide (lo ≤ n) && decide (n ≤ hi)

/-- Whether the figures of a present die in the map keep their limits: the size of its remote-data cache, its region offsets, and its
banded, stitch and edge latencies (R13, R32, R42, R46, R60). -/
def State.figuresOk (s : State) (d : Nat) : Bool :=
  let w := s.offsetOf d false
  let e := s.offsetOf d true
  decide (s.readNat (mapImage d + 0x1001 + 16 * d) 1 ≤ 16)
    && inLimits (-(offsetLimit : Int)) offsetLimit w && inLimits (-(offsetLimit : Int)) offsetLimit e
    && inLimits (-(offsetLimit : Int)) offsetLimit (e - w)
    && (List.range 8).all (fun b =>
      inLimits (204 + 16 * b) (236 + 16 * b) (s.blockNat d (0x10000 + 4 * b) 2)
        && inLimits (236 + 16 * b) (268 + 16 * b) (s.blockNat d (0x10002 + 4 * b) 2))
    && (List.range 66).all (fun r => inLimits 6 9 (s.blockNat d (0x10040 + r) 1))
    && (List.range 512).all fun k =>
      let n := s.blockNat d (0x10100 + k) 1
      n == 0 || inLimits 12 20 n

/-- Firmware's cells in the map: they leave it as it is when a figure would leave its limits. A die takes up the size of its
remote-data cache, which a change empties (R46, R284). -/
def State.putMapCells (s : State) (cells : List (Nat × Byte)) : State :=
  let t := cells.foldl State.putMapCell s
  if s.pub.isNone then t
  else if !t.present.all t.figuresOk then s
  else t.present.foldl (fun t d =>
    let n := t.readNat (mapImage d + 0x1001 + 16 * d) 1
    if (t.die d).rdcgib = n then t else t.onDie d fun x => { x with rdcgib := n, rdc := [] }) t

/-- PANEL_MAP_UPDATE (R49). -/
def execPanelMapUpdate (cells : List (Nat × Byte)) (s : State) : Out :=
  .next (s.mapUpdate fun s => s.putMapCells cells)

end Sys2Proof.Machine
end

