-- ==== Sys2Proof/Machine/Ports.lean ====
section
/-! DEFINITION. Peer ports: posted copies and their frames, frames that arrive, acknowledgements and refusals (R457 to R461, R464). -/

namespace Sys2Proof.Machine

/-! ### Posting (R459 to R461) -/

/-- Whether `n` bytes from a physical address exist in device memory. -/
def State.inMemory (s : State) (a n : Nat) : Bool :=
  paSpace a == 0 && !s.dieAbsent (paDie a) && decide (paOffset a + n ≤ 2 ^ 37)

/-- A field of a descriptor in memory. -/
def State.descField (s : State) (a off n : Nat) : Nat := s.readNat (a + off) n

/-- Whether a descriptor breaks R459. -/
def State.descBad (s : State) (a : Nat) : Bool :=
  let src := s.descField a 0 8
  let len := s.descField a 0x10 4
  a % 64 != 0 || !s.inMemory a 64 || decide (2 ^ 52 ≤ src) || decide (2 ^ 24 < len) || len % 4 != 0
    || s.descField a 0x18 8 % 8 != 0 || s.descField a 0x14 4 != 0 || s.descField a 0x28 24 != 0
    || (len != 0 && !s.inMemory src len)

/-- The frames of copy data: up to 4,096 bytes each, in ascending order; what follows a poisoned sector is left out (R458). -/
def State.dataFrames (s : State) (port : Nat) (post : BitVec 32) (src dst : Nat) : Nat → Nat → List (Nat × PeerFrame) × Bool
  | 0, _ => ([], false)
  | _ + 1, 0 => ([], false)
  | k + 1, len =>
    let n := min len 4096
    let bad := s.memPoison.any fun q => decide (q * 32 < src + n) && decide (src < q * 32 + 32)
    if bad then ([], true)
    else
      let r := s.dataFrames port post (src + n) (dst + n) k (len - n)
      ((1, { port := port, seq := 0, addr := dst, value := 0, post := post, status := 0
             payload := s.bytes src n, good := true }) :: r.1, r.2)

/-- A frame without payload. -/
def plainFrame (port : Nat) (post : BitVec 32) (addr : Nat) (value : BitVec 64) (status : Nat := 0) : PeerFrame :=
  { port := port, seq := 0, addr := addr, value := value, post := post, status := status, payload := [], good := true }

/-- The frames of a copy (R458). -/
def State.copyFrames (s : State) (port : Nat) (post : BitVec 32) (a : Nat) : List (Nat × PeerFrame) × Bool :=
  let len := s.descField a 0x10 4
  let sema := s.descField a 0x18 8
  let r := s.dataFrames port post (s.descField a 0 8) (s.descField a 8 8) 4097 len
  if r.2 then r
  else (r.1 ++ [(2, plainFrame port post 0 (BitVec.ofNat 64 len))]
    ++ (if sema = 0 then [] else [(3, plainFrame port post sema (BitVec.ofNat 64 (s.descField a 0x20 8)))]), false)

/-- Frames take their SEQs as they leave a port. -/
def numberFrames : BitVec 32 → List (Nat × PeerFrame) → List (Nat × PeerFrame)
  | _, [] => []
  | q, f :: fs => (f.1, { f.2 with seq := q }) :: numberFrames (q + 1) fs

/-- A post whose frames leave at a clk; one whose SRC was poisoned is counted in PQERR (R458). -/
def Port.leave (p : Port) (x : Post) (clk : Nat) : Port :=
  let fs := numberFrames p.seq x.frames
  let p := { p with seq := p.seq + BitVec.ofNat 32 fs.length, sent := p.sent ++ fs }
  if x.poisoned then { p with err := p.err + 1, posts := p.posts.filter (·.num != x.num) }
  else { p with posts := p.posts.map fun y => if y.num = x.num then { y with frames := fs, left := true, sentAt := clk } else y }

/-- Posts leave in posting order while the link is up (R460). -/
def Port.leaveAll (p : Port) (clk : Nat) : Port :=
  if !p.up then p else (p.posts.filter (!·.left)).foldl (fun p x => p.leave x clk) p

/-- The lines that a posting write reads at their homes: its descriptor's, and those of SRC (R459, R461). -/
def State.postLines (s : State) (a : Nat) : List Nat :=
  if !s.inMemory a 64 then []
  else
    let src := s.descField a 0 8
    let len := s.descField a 0x10 4
    a / 128 :: (if s.descBad a || len == 0 then [] else (List.range ((src + len - 1) / 128 - src / 128 + 1)).map (src / 128 + ·))

/-- A reply from a home raises the clock of a peer port (R298, R455). -/
def State.portSaw (s : State) (port line wts : Nat) : State :=
  let e := s.homeEp line
  let n := max ((s.port port).now.read e) wts + 1
  (s.onPort port fun p => { p with now := ⟨e, n⟩ }).noteTick (lineDie line) n

/-- A posting write is performed: the port reads at the homes (R459 to R461). -/
def State.post (s : State) (port a : Nat) : State :=
  let bad := s.descBad a
  let r := s.copyFrames port (s.port port).postNo a
  let ls := s.postLines a
  let s := ls.foldl (fun s l => s.portSaw port l ((s.homeWts l).read (s.homeEp l))) (s.useLines ls)
  if bad then s.onPort port fun p => { p with err := p.err + 1, postNo := p.postNo + 1 }
  else
    s.onPort port fun p =>
      { p with postNo := p.postNo + 1, posts := p.posts ++ [{ num := p.postNo, frames := r.1, poisoned := r.2 : Post }] }.leaveAll s.clk

/-- Whether a port can perform a posting write: it has a free place, and the homes of what it reads run and hold no line back (R75, R301,
R460). -/
def State.mayPost (s : State) (port a : Nat) : Bool :=
  let p := s.port port
  let ls := s.postLines a
  decide (p.posts.length < 64) && !(ls.any fun l => s.lineHeld p.now.ep p.now l (ls.length + 1))

/-- Whether a posting write can be performed, behind those that wait (R460). -/
def State.postReady (s : State) (port a : Nat) : Bool := (s.port port).waiting.isEmpty && s.mayPost port a

/-- A posting write: it is performed, or waits at the port (R460). -/
def State.postOrWait (s : State) (port a : Nat) : State :=
  if 16 ≤ port then s
  else if s.postReady port a then s.post port a
  else s.onPort port fun p => { p with waiting := p.waiting ++ [a] }

/-- The first posting that waits at a port is performed, if it can be. -/
def State.pumpPost (s : State) (port : Nat) : Option State :=
  match (s.port port).waiting with
  | [] => none
  | a :: r => if s.mayPost port a then some ((s.onPort port fun p => { p with waiting := r }).post port a) else none

/-- PQPOST_WRITE (R459 to R461). -/
def execPqpostWrite (port : Nat) (addr : Nat) (s : State) : Out := .next (s.postOrWait port addr)

/-! ### Acknowledgements, refusals and resending (R458) -/

/-- A post is counted and gives up its place. -/
def State.endPost (s : State) (port : Nat) (num : BitVec 32) (ok : Bool) : State :=
  s.onPort port fun p => { p with
    posts := p.posts.filter (·.num != num)
    done := if ok then p.done + 1 else p.done
    err := if ok then p.err else p.err + 1 }

/-- Whether every frame of a post that is acknowledged has been. -/
def Post.complete (x : Post) : Bool := x.frames.all fun f => f.1 == 1 || x.acked.contains f.2.seq

/-- PEER_ACKNOWLEDGEMENT (R458, R459): once all is acknowledged the copy counts in PQDONE. -/
def execPeerAcknowledgement (f : PeerFrame) (s : State) : Out :=
  let q := BitVec.ofNat 32 f.value.toNat
  .next (if !f.good then s.onPort f.port fun p => { p with discarded := p.discarded + 1 }
    else match (s.port f.port).posts.find? fun x => x.num == f.post && x.left with
      | none => s
      | some x =>
        let x := { x with acked := if x.frames.any (fun g => g.2.seq == q) then q :: x.acked else x.acked }
        let s := s.onPort f.port fun p => { p with posts := p.posts.map fun y => if y.num = x.num then x else y }
        if x.complete then s.endPost f.port x.num true else s)

/-- PEER_REFUSAL (R458): the copy fails. -/
def execPeerRefusal (f : PeerFrame) (s : State) : Out :=
  .next (if !f.good then s.onPort f.port fun p => { p with discarded := p.discarded + 1 }
    else if (s.port f.port).posts.any fun x => x.num == f.post then s.endPost f.port f.post false else s)

/-- The frames of a post leave again, up to 8 times; then the copy fails (R458). -/
def State.resend (s : State) (port : Nat) (num : BitVec 32) : State :=
  match (s.port port).posts.find? fun x => x.num == num && x.left with
  | none => s
  | some x =>
    if 8 ≤ x.tries then s.endPost port num false
    else s.onPort port fun p => { p with
      sent := p.sent ++ x.frames
      posts := p.posts.map fun y => if y.num = num then { y with tries := y.tries + 1, sentAt := s.clk } else y }

/-- PEER_RESEND_TIMEOUT (R458). -/
def execPeerResendTimeout (port : Nat) (post : BitVec 32) (s : State) : Out := .next (s.resend port post)

/-- 20 µs in clk (R458). -/
def resendTime : Nat := 25000

/-- Resends every post that stays unacknowledged for 20 µs. -/
def State.resendDue (s : State) : State :=
  s.ports.foldl (fun s p => (p.posts.filter fun x => x.left && decide (x.sentAt + resendTime ≤ s.clk)).foldl
    (fun s x => s.resend p.num x.num) s) s

/-- PEER_PORT_LINK_UP (R458): SEQ restarts at 0 on both sides, and the posts that hold places leave. -/
def execPeerPortLinkUp (port : Nat) (s : State) : Out :=
  .next (if 16 ≤ port then s
    else s.onPort port fun p =>
      let q : Port := { p with up := true, seq := 0, seen := []
                               posts := p.posts.map fun (x : Post) => { x with left := false, acked := [] } }
      q.leaveAll s.clk)

/-- PEER_FRAME_DISCARD (R457, R458). -/
def execPeerFrameDiscard (port : Nat) (s : State) : Out :=
  .next (s.onPort port fun p => { p with discarded := p.discarded + 1 })

/-! ### Frames that arrive (R458, R461, R464) -/

/-- The port sends an acknowledgement or a refusal. -/
def Port.answer (p : Port) (type : Nat) (f : PeerFrame) (status : Nat) : Port :=
  let g := { plainFrame p.num f.post 0 (f.seq.setWidth 64) status with seq := p.seq }
  { p with seq := p.seq + 1, sent := p.sent ++ [(type, g)] }

/-- Whether a frame is malformed (R458). -/
def frameBad (s : State) (type : Nat) (f : PeerFrame) : Bool :=
  match type with
  | 1 => f.payload.length % 4 != 0 || decide (4096 < f.payload.length) || !s.inMemory f.addr f.payload.length || f.addr % 4 != 0
  | 2 => !f.payload.isEmpty || f.addr != 0
  | _ => !f.payload.isEmpty || f.addr % 8 != 0 || !s.inMemory f.addr 8

/-- The agent of a peer port at the homes. -/
def portWho (port : Nat) : Who := .port (2 ^ 64 + port)

/-- The lines of a frame. -/
def frameLines (type : Nat) (f : PeerFrame) : List Nat :=
  match type with
  | 1 => if f.payload.isEmpty then []
    else (List.range ((f.addr + f.payload.length - 1) / 128 - f.addr / 128 + 1)).map (f.addr / 128 + ·)
  | 3 => [f.addr / 128]
  | _ => []

/-- Whether a frame can be performed now: its homes run and hold none of its lines back (R75, R301). -/
def State.frameReady (s : State) (type : Nat) (f : PeerFrame) : Bool :=
  let ls := frameLines type f
  ls.all fun l => !s.lineHeld (s.port f.port).now.ep (s.port f.port).now l (ls.length + 1)

/-- Writes the payload of a frame at its homes, line by line; every write raises the port's clock (R455, R461). -/
def State.frameWrite (s : State) (f : PeerFrame) : State :=
  let bs := f.payload
  (frameLines 1 f).foldl (fun s l =>
    let lo := max f.addr (l * 128)
    let hi := min (f.addr + bs.length) (l * 128 + 128)
    let part : StorePart :=
      { line := l, mask := spanMask (lo - l * 128) (hi - lo), poison := 0, noAlloc := true, stream := false
        bytes := BitVec.ofNat 1024 (leNat ((bs.drop (lo - f.addr)).take (hi - lo)) * 2 ^ (8 * (lo - l * 128))) }
    let r := s.engWrite (portWho f.port) (s.port f.port).now part
    r.2.portSaw f.port l r.1) s

/-- The bytes of a post that have been written. -/
def Port.bytesOf (p : Port) (post : BitVec 32) : Nat := ((p.got.filter (·.1 == post)).map (·.2.2)).sum

/-- A port refuses a frame, and with it its copy (R458, R461). -/
def State.refuseFrame (s : State) (f : PeerFrame) (status : Nat) : State :=
  s.onPort f.port fun p => { p.answer 5 f status with refused := f.post :: p.refused.filter (· != f.post) }

/-- A copy-end or semaphore-add frame is performed: it is noted by its SEQ and acknowledged. -/
def State.ackFrame (s : State) (f : PeerFrame) : State :=
  s.onPort f.port fun p => { p.answer 4 f 0 with seen := (f.seq :: p.seen).take 4096 }

/-- Performs a frame (R458, R461, R464). A copy-end frame whose data has not all come, or a semaphore-add frame whose copy has
not ended, is not acknowledged. -/
def State.performFrame (s : State) (type : Nat) (f : PeerFrame) : State :=
  let p := s.port f.port
  let rights (a : Nat) : Bool := ((s.die (paDie a)).rights 0 (4 + f.port)).getLsbD 1
  if frameBad s type f then s.refuseFrame f 2
  else if type ≠ 1 && p.seen.contains f.seq then s.onPort f.port fun p => p.answer 4 f 0
  else match type with
    | 1 =>
      if !rights f.addr then (s.refuse (paDie f.addr)).refuseFrame f 1
      else
        let again := p.ended.contains f.post && !(p.got.any (·.1 == f.post))
        let s := s.frameWrite f
        if again then s
        else s.onPort f.port fun p => { p with
          got := (f.post, f.addr, f.payload.length) :: p.got.filter (· != (f.post, f.addr, f.payload.length)) }
    | 2 =>
      if p.refused.contains f.post then s.refuseFrame f 1
      else if p.bytesOf f.post < f.value.toNat then s
      else (s.ackFrame f).onPort f.port fun p => { p with
        got := p.got.filter (·.1 != f.post), ended := (f.post :: p.ended.filter (· != f.post)).take 4096 }
    | _ =>
      if !rights f.addr then (s.refuse (paDie f.addr)).refuseFrame f 1
      else if p.refused.contains f.post then s.refuseFrame f 1
      else if !p.ended.contains f.post then s
      else
        let r := s.engAtomic (portWho f.port) p.now true f.addr (· + f.value) false
        (r.2.portSaw f.port (f.addr / 128) r.1).ackFrame f

/-- The first frame of a port that waits is performed, if it can be, or else the first posting. -/
def State.pumpPort (s : State) (port : Nat) : Option State :=
  match (s.port port).inbox with
  | [] => s.pumpPost port
  | x :: r => if s.frameReady x.1 x.2 then some ((s.onPort port fun p => { p with inbox := r }).performFrame x.1 x.2) else s.pumpPost port

/-- A frame arrives: it waits behind the earlier frames of its port; one that fails its check is discarded (R458). -/
def State.arriveFrame (s : State) (type : Nat) (f : PeerFrame) : State :=
  if 16 ≤ f.port then s
  else if !f.good then s.onPort f.port fun p => { p with discarded := p.discarded + 1 }
  else
    let s := s.onPort f.port fun p => { p with inbox := p.inbox ++ [(type, f)] }
    if (s.port f.port).inbox.length = 1 then (s.pumpPort f.port).getD s else s

/-- PEER_COPY_DATA (R458). -/
def execPeerCopyData (f : PeerFrame) (s : State) : Out := .next (s.arriveFrame 1 f)

/-- PEER_COPY_END (R458). -/
def execPeerCopyEnd (f : PeerFrame) (s : State) : Out := .next (s.arriveFrame 2 f)

/-- PEER_SEMAPHORE_ADD (R458, R461). -/
def execPeerSemaphoreAdd (f : PeerFrame) (s : State) : Out := .next (s.arriveFrame 3 f)

end Sys2Proof.Machine
end

