-- ==== Sys2Proof/Machine/Clock.lean ====
section
/-! DEFINITION. The forwarding tree, hold and re-rooting, the region counters clk by clk, and the discipline of `%gtc` (R52 to R89, R279, R423, R424, R441, R442, R567, R601). -/

namespace Sys2Proof.Machine

/-! ### Dies that run -/

/-- Whether the cores of a die issue nothing: it is held, or not started (R70, R74). -/
def Die.stopped (d : Die) : Bool := d.held || d.fwd.st == .off || d.fwd.st == .acquire

/-- Whether a die stands still for its cores. -/
def State.stopped (s : State) (d : Nat) : Bool := s.dieAbsent d || (s.die d).stopped

/-- Whether the cores of a die have a clock: in hold too, in which each completes its run (R70, R74). -/
def State.clocked (s : State) (d : Nat) : Bool := !(s.dieAbsent d || (s.die d).fwd.st == .off || (s.die d).fwd.st == .acquire)

/-- A die enters hold: its groups, engines and links stand still, ACC clears, and what `%gtc` then reads is kept (R74, R78, R87). -/
def Die.enterHold (d : Die) : Die :=
  if d.held then d else { d with held := true, acc := false, heldGtc := (d.west.gtc, d.east.gtc) }

/-- Whether an edge of a die carries a forwarded clock: a present neighbour, and no failure on either side (R54, R83). -/
def State.liveEdge (s : State) (d e : Nat) : Bool :=
  match neighbour d e with
  | none => false
  | some n => !s.dieAbsent n && !has (s.die d).fwd.down e && !has (s.die n).fwd.down ((e + 2) % 4)

/-- The neighbours of a die over live edges, with the edge. -/
def State.liveNeighbours (s : State) (d : Nat) : List (Nat × Nat) :=
  (List.range 4).filterMap fun e => if s.liveEdge d e then (neighbour d e).map fun n => (e, n) else none

/-- The children of a die: those that take it as their parent. -/
def State.childrenOf (s : State) (d : Nat) : List Nat :=
  s.present.filter fun k => k != d && (s.die k).fwd.st != .off && s.parentOf k == some d

/-! ### The tree by shortest paths (R53, R54) -/

/-- The dies of a re-rooting: those in RUN together with the orphans (R77). -/
def State.treeDies (s : State) : List Nat :=
  s.present.filter fun d => let st := (s.die d).fwd.st; st == .run || st == .orphan || st == .adopt

/-- One level of the shortest paths from the root. -/
def State.spread (s : State) (ds : List Nat) (seen : List (Nat × Nat)) (depth : Nat) : List (Nat × Nat) :=
  let edge := (seen.filter (·.2 == depth)).map (·.1)
  let next := ds.filter fun d => !(seen.any (·.1 == d)) && (s.liveNeighbours d).any fun n => has edge n.2
  seen ++ next.map fun d => (d, depth + 1)

/-- The depth of each die of a set, by shortest paths of at most 11 edges (R53, R54). -/
def State.depthsOver (s : State) (ds : List Nat) (root : Nat) : List (Nat × Nat) :=
  (List.range 11).foldl (fun seen k => s.spread ds seen k) [(root, 0)]

/-- The depth of each die of the live tree. -/
def State.depths (s : State) (root : Nat) : List (Nat × Nat) := s.depthsOver s.treeDies root

/-- The parent edge of a die at a depth: the neighbour at one less depth with the lowest number (R54). -/
def State.parentEdge (s : State) (ds : List (Nat × Nat)) (d depth : Nat) : Option (Nat × Nat) :=
  let ns := (s.liveNeighbours d).filter fun n => ds.any fun x => x.1 == n.2 && x.2 + 1 == depth
  ns.foldl (fun b n => match b with
    | none => some n
    | some m => if n.2 < m.2 then some n else some m) none

/-- The edges of a die, as FWDCFG.CHILD, at whose other end stands a die that takes it as its parent. -/
def State.childEdges (s : State) (ds : List (Nat × Nat)) (d depth : Nat) : BitVec 4 :=
  (s.liveNeighbours d).foldl (fun c n =>
    if ds.any fun x => x.1 == n.2 && x.2 == depth + 1 && (s.parentEdge ds n.2 (depth + 1)).any (·.2 == d) then
      c ||| BitVec.ofNat 4 (2 ^ n.1)
    else c) 0

/-! ### Configuration (R52, R53, R71, R82, R83) -/

/-- The number of parents above a die, up to a bound. -/
def State.chain (s : State) : Nat → Nat → Nat
  | 0, _ => 0
  | n + 1, d => match s.parentOf d with
    | none => 0
    | some p => s.chain n p + 1

/-- Whether the tree breaks R53: a chain of more than 11 edges, which a cycle also is. -/
def State.treeBroken (s : State) : Bool := s.present.any fun d => decide (11 < s.chain 13 d)

/-- 20 µs in clk (R71). -/
def lockTime : Nat := 25000

/-- PARENT of FWDCFG. -/
def cfgParent (v : Word) : BitVec 3 := v.extractLsb' 4 3
/-- CHILD of FWDCFG. -/
def cfgChild (v : Word) : BitVec 4 := v.extractLsb' 8 4

/-- Changes a die's forwarder. -/
def State.onFwd (s : State) (d : Nat) (f : Forwarder → Forwarder) : State := s.onDie d fun x => { x with fwd := f x.fwd }

/-- Applies PARENT and CHILD of a die. -/
def State.configured (s : State) (d : Nat) (v : Word) : State :=
  s.onFwd d fun x => { x with parent := cfgParent v, child := cfgChild v, asked := none }

/-- Whether another die is the root and still takes its reference (R52). -/
def State.otherRoot (s : State) (d : Nat) : Bool :=
  s.present.any fun k => k != d && s.isRoot k && (s.die k).fwd.st != .orphan

/-- Whether R83 refuses a configuration, or R52 does: a second root beside one that still takes its reference (log entry 80). -/
def State.cfgRefused (s : State) (d : Nat) (v : Word) : Bool :=
  let p := (cfgParent v).toNat
  p == 5 || p == 6 || (p == 4 && (!rootCapable d || s.otherRoot d)) || (decide (p < 4) && !s.liveEdge d p)
    || (decide (p < 4) && (cfgChild v).getLsbD p) || (s.configured d v).treeBroken

/-- The forwarder's PLLs begin to lock: they must within 20 µs (R71). -/
def State.lockFrom (s : State) (d : Nat) (st : FwdSt) : State :=
  (s.onFwd d fun x => { x with st := st, lockW := false, lockE := false, lockBy := s.clk + lockTime }).later (lockTime + 1) (.pllLockTimeout d)

/-- Whether a re-rooting is in progress. -/
def State.rerooting (s : State) : Bool := s.present.any fun d => (s.die d).fwd.st == .orphan || (s.die d).fwd.st == .adopt

/-! ### Panel time (R61 to R64, R79) -/

/-- One ns of `%gtc` in units of the accumulator, 2^-48 ns. -/
def fracUnit : Nat := 2 ^ 32

/-- The slew of one clk: 100 ppm of the nominal rate, in units of 2^-48 ns (R81, log entry 22). -/
def slewStep : Int := 22517998136

/-- The root of the tree (R52). -/
def State.root (s : State) : Option Nat := s.present.find? s.isRoot

/-- Panel time in units of 2^-48 ns: what the root's west region counts, less its offset (R63). -/
def State.panelTime (s : State) : Int :=
  match s.root with
  | some r => ((s.die r).west.acc.toNat : Int) - s.offsetOf r false * fracUnit
  | none => 0

/-- A region takes a time (R79): it steps forward, or stands still until time has caught up. -/
def Region.align (r : Region) (t : Int) : Region :=
  if (r.acc.toNat : Int) ≤ t then { r with acc := BitVec.ofInt 96 t, debt := 0 } else { r with debt := (r.acc.toNat - t).toNat }

/-- A region takes a time together with the rate, and the step and rate to come, of the root's counter: what the time taken already holds
is not added to it again (R62, R79, R81). -/
def Region.follow (r root : Region) (t : Int) : Region :=
  { r.align t with rate := root.rate, nextRate := root.nextRate, step := root.step }

/-- The error of a die: that of its parent and a part of its own, within 180 ps (R57, R58, R63), left open. -/
def State.drawErr (s : State) (d : Nat) : State :=
  if s.isRoot d then s.onDie d fun x => { x with err := 0 }
  else
    let up := ((s.parentOf d).map fun p => (s.die p).err).getD 0
    let (k, s) := s.drawNat 23593
    s.onDie d fun x => { x with err := up + ((k : Int) - 11796) }

/-- The regions of a die take panel time with its offsets and error (R63, R79). The root's west region is panel time's own counter. -/
def State.alignDie (s : State) (d : Nat) : State :=
  match s.root with
  | none => s
  | some r =>
    let src := (s.die r).west
    let t := s.panelTime
    let at' (east : Bool) : Int := t + (s.offsetOf d east + (s.die d).err) * fracUnit
    s.onDie d fun x => { x with
      west := if d = r then x.west else x.west.follow src (at' false)
      east := x.east.follow src (at' true) }

/-- Dies in order of depth. -/
def State.byDepth (s : State) (ds : List Nat) : List Nat :=
  let depth (d : Nat) : Nat := ((s.rootOf 13 d).map (·.2)).getD 12
  ds.mergeSort fun a b => decide (depth a < depth b) || (depth a == depth b && decide (a ≤ b))

/-- Dies that have a new place in the tree, and the running dies below them, take new errors (R63): these dies, and the state after. -/
def State.redraw (s : State) (moved : List Nat) : List Nat × State :=
  (s.byDepth (s.present.filter fun d => (s.die d).fwd.st == .run)).foldl (fun (a : List Nat × State) d =>
    if has moved d || (a.2.parentOf d).any (has a.1) then (d :: a.1, a.2.drawErr d) else a) ([], s)

/-- Dies that have a new place in the tree take new errors and panel time, with the running dies below them, and so do others that resume
(R63, R79). -/
def State.realign (s : State) (moved : List Nat) (others : List Nat := []) : State :=
  let r := s.redraw moved
  (r.1 ++ others).eraseDups.foldl State.alignDie r.2

/-! ### Configuration applied, and boot (R54, R66, R70, R71, R82) -/

/-- Boot configuration of the tree starts or goes on in hardware mode (R54): firmware chooses the root among the dies whose inputs carry a
reference, maps out the dies that no path of at most 11 edges reaches, and configures each die once its parent runs. Nothing happens
once boot is complete, after an image that failed (R467), or while no die can be the root. A die in host-assisted mode is the control
node's to configure. -/
def State.bootTree (s : State) : State :=
  let off (d : Nat) : Bool := (s.die d).fwd.st == .off
  let fresh := s.present.all off
  let root := if fresh then s.present.find? fun d => rootCapable d && (s.die d).fwd.refOk && !(s.die d).fwd.hostMode
    else s.present.find? fun d => s.isRoot d && !off d
  match root with
  | none => s
  | some r =>
    if s.pub.isSome || s.firmware.failed then s
    else
      let ds := s.depthsOver s.present r
      let s := if fresh then (s.present.filter fun d => !ds.any (·.1 == d)).foldl (fun s d => s.onDie d fun x => { x with absent := true }) s
        else s
      ds.foldl (fun s x =>
        let up := if x.2 = 0 then some (4, x.1) else s.parentEdge ds x.1 x.2
        match up with
        | none => s
        | some (e, up) =>
          if (s.die x.1).fwd.st != .off || (s.die x.1).fwd.hostMode || !(x.2 == 0 || (s.die up).fwd.st == .run) then s
          else (s.onFwd x.1 fun f =>
            { f with parent := BitVec.ofNat 3 e, child := s.childEdges ds x.1 x.2, asked := none }).lockFrom x.1 .acquire) s

/-- Whether boot configuration is complete: every present die is clocked (R66). -/
def State.booted (s : State) : Bool :=
  s.present.all fun d => (s.die d).fwd.st != .off && (s.die d).fwd.st != .acquire

/-- Boot goes on; at its completion `%clkgen` increases and the panel map is published (R43, R66). -/
def State.bootOn (s : State) : State :=
  let s := s.bootTree
  if s.pub.isNone && s.booted then { s with clkgen := s.clkgen + 1 }.publishBoot else s

/-- FWDCFG with GO is applied at a die. A die in OFF starts to lock. A live die whose part in the tree changes during a re-rooting is
held; outside one the change raises `%clkgen`, and the new tree is published (R66, R71, R77). An orphan that was the root is no longer
(R52). -/
def State.applyCfg (s : State) (die : Nat) (v : Word) : State :=
  let old := (s.die die).fwd
  let same := old.parent == cfgParent v && old.child == cfgChild v
  let moved := old.parent != cfgParent v
  let s := if cfgParent v = 4 then
      (s.present.filter fun k => k != die && s.isRoot k).foldl (fun s k => s.onFwd k fun f => { f with parent := 7 }) s
    else s
  let s := (s.configured die v).onFwd die fun f => { f with hostMode := v.getLsbD 0, badCfg := false }
  if old.st = .off then s.lockFrom die .acquire
  else if old.st != .run || same then s
  else if s.rerooting then s.onDie die fun x => { x.enterHold with fwd := { x.fwd with moved := x.fwd.moved || moved } }
  else
    let s := { s with clkgen := s.clkgen + 1 }.publishTree
    if moved then s.realign [die] else s

/-- FWDCFG_GO (R71, R77, R82, R83): applied, or refused with BADCFG. No die leaves OFF after an image that failed (R467). -/
def execFwdcfgGo (die : Nat) (value : Word) (s : State) : Out :=
  .next (if s.dieAbsent die || (s.firmware.failed && (s.die die).fwd.st == .off) then s
    else if s.cfgRefused die value then s.onFwd die fun f => { f with badCfg := true }
    else s.applyCfg die value)

/-- What a die physically is, and its input: it stays at power-on. -/
def Die.physical (d : Die) : Die :=
  { num := d.num, absent := d.absent, dead := d.dead, deadEngines := d.deadEngines, cut := d.cut, fwd := { refOk := d.fwd.refOk } }

/-- POWER_ON (R54, R70): every forwarder is OFF and the module holds its reset state; what its dies and inputs physically are
stays, as does the PTP domain it is set to. Then firmware boots. -/
def execPowerOn (s : State) : Out :=
  .next ({ State.reset with dies := s.dies.map Die.physical, ptp := { State.reset.ptp with domain := s.ptp.domain } }).bootTree

/-! ### Locking, loss and re-rooting (R71 to R73, R77 to R80) -/

/-- Whether a forwarder has a clock that its children can lock to: in RUN, or in ADOPT with its own PLLs locked. -/
def Forwarder.drives (f : Forwarder) : Bool := f.st == .run || (f.st == .adopt && f.lockW && f.lockE)

/-- Whether a die has a reference to lock to: its external input, or a parent that forwards to it. -/
def State.hasReference (s : State) (d : Nat) : Bool :=
  let x := (s.die d).fwd
  if x.parent = 4 then x.refOk
  else match s.parentOf d with
    | none => false
    | some p =>
      let y := (s.die p).fwd
      s.liveEdge d x.parent.toNat && y.child.getLsbD ((x.parent.toNat + 2) % 4) && y.drives

/-- Orphans with a new parent enter ADOPT once it drives their edge, which keeps them in order of depth (R77, step 3). -/
def State.adoptReady (s : State) : State :=
  s.present.foldl (fun s d =>
    let x := (s.die d).fwd
    if x.st == .orphan && x.assigned && s.hasReference d then s.lockFrom d .adopt else s) s

/-- PLL_LOCK (R71): ACQUIRE becomes RUN; a die in ADOPT stays there, locked, until the resume. The dies that wait for this one go on. -/
def execPllLock (die : Nat) (s : State) : Out :=
  let x := (s.die die).fwd
  let lock (st : FwdSt) (s : State) : State := s.onFwd die fun f => { f with st := st, lockW := true, lockE := true }
  .next (if !s.hasReference die || decide (x.lockBy < s.clk) then s
    else match x.st with
      | .acquire => ((lock .run s).realign [die]).adoptReady.bootOn
      | .adopt => (lock .adopt s).adoptReady
      | _ => s)

/-- A die in ORPHAN: held, on its backup oscillators, ACC clear, nothing forwarded (R70, R73). -/
def Die.orphaned (d : Die) : Die :=
  { d.enterHold with fwd := { d.fwd with st := .orphan, lockW := false, lockE := false, assigned := false } }

/-- A die becomes an orphan; each child detects the loss in turn (R72), and in hardware mode the re-rooting follows. -/
def State.orphan (s : State) (d : Nat) : State :=
  let kids := s.childrenOf d
  let s := s.onDie d Die.orphaned
  let s := kids.foldl (fun s k => s.send (.parentClockLoss ⟨k, .parent⟩)) s
  if (s.die d).fwd.hostMode then s else s.send (.rerootParentAssign [])

/-- PLL_LOCK_TIMEOUT (R66, R71). -/
def execPllLockTimeout (die : Nat) (s : State) : Out :=
  let x := (s.die die).fwd
  let waits := (x.st == .acquire || x.st == .adopt) && !(x.lockW && x.lockE)
  .next (if waits && decide (x.lockBy < s.clk) then (s.orphan die).bootOn else s)

/-- PARENT_CLOCK_LOSS (R71 to R73): the parent's clock is lost, the die's own PLL loses lock, or the parent edge fails. A die in RUN
becomes an orphan, and so does one in ADOPT whose new parent leaves RUN; one in ADOPT that loses its lock otherwise must lock again, and
an orphan whose new parent is lost waits for another. Only the failure of the edge stays with the edge (log entry 23). -/
def execParentClockLoss (m : ClockLoss) (s : State) : Out :=
  let die := m.die
  let cause := m.cause
  let x := (s.die die).fwd
  let s := if cause = .edge ∧ x.parent.toNat < 4 then s.onFwd die fun f => { f with down := insertN f.down x.parent.toNat } else s
  .next (match x.st with
    | .run => s.orphan die
    | .adopt => if cause = .parent then s.orphan die else s.lockFrom die .adopt
    | .orphan => if cause = .pll then s else s.onFwd die fun f => { f with assigned := false }
    | _ => s)

/-- EXTERNAL_REFERENCE_CHANGE (R54, R80, R84): REFOK follows the input; the root that loses its reference loses its clock. A reference that
comes lets boot begin, and lets orphans without a root find one. -/
def execExternalReferenceChange (die : Nat) (valid : Bool) (s : State) : Out :=
  .next (if !rootCapable die then s
    else
      let s := s.onFwd die fun f => { f with refOk := valid }
      if !valid then (if s.isRoot die then s.send (.parentClockLoss ⟨die, .parent⟩) else s)
      else
        let s := if s.present.any fun d => (s.die d).stranded && !(s.die d).fwd.hostMode then s.send (.rerootParentAssign []) else s
        s.adoptReady.bootTree)

/-- The root of a re-rooting: it stays, unless it is itself an orphan without a new reference (R54, R77). -/
def State.newRoot (s : State) : Option Nat :=
  match s.present.find? fun d => s.isRoot d && (let f := (s.die d).fwd; (f.st != .orphan && f.st != .off) || f.assigned) with
  | some r => some r
  | none => s.treeDies.find? fun d => rootCapable d && (s.die d).fwd.refOk

/-- A live die at an end of an edge that gains or loses the parent-child role enters hold (R77, step 2). -/
def State.holdLive (s : State) (d : Nat) : State :=
  if (s.die d).fwd.st == .run then s.onDie d Die.enterHold else s

/-- Sets a die's bit for the edge to a neighbour in CHILD. -/
def State.setChild (s : State) (d e : Nat) (on : Bool) : State :=
  s.onFwd d fun f => { f with
    asked := none
    child := if on then f.child ||| BitVec.ofNat 4 (2 ^ e) else f.child &&& ~~~(BitVec.ofNat 4 (2 ^ e)) }

/-- The old parent of an orphan no longer forwards to it; over a working edge a live one enters hold. -/
def State.leaveParent (s : State) (d : Nat) : State :=
  let e := (s.die d).fwd.parent.toNat
  match s.parentOf d with
  | none => s
  | some p =>
    let s' := s.setChild p ((e + 2) % 4) false
    if s.liveEdge d e then s'.holdLive p else s'

/-- An orphan for which step 1 finds no parent stays in hold, and is the root no longer (R52, R80). Its count of errors, which the
management controller reads, tells of it. -/
def State.strand (s : State) (d : Nat) : State :=
  (s.leaveParent d).onDie d fun x => { x with
    stranded := true, errors := if x.stranded then x.errors else x.errors + 1
    fwd := { x.fwd with parent := 7, assigned := false, asked := none } }

/-- An orphan has its new parent (R77, step 1). -/
def State.takeParent (s : State) (d : Nat) (e : BitVec 3) : State :=
  s.onDie d fun x => { x with stranded := false, fwd := { x.fwd with parent := e, assigned := true, asked := none } }

/-- An orphan is given its new parent (R77, steps 1 and 2). Where it takes its old one again, no role changes and nobody is held. -/
def State.adopt (s : State) (ds : List (Nat × Nat)) (root d : Nat) : State :=
  if d = root then ((if (s.die d).fwd.parent = 4 then s else s.leaveParent d)).takeParent d 4
  else
    match (ds.find? (·.1 == d)).bind fun x => s.parentEdge ds d x.2 with
    | none => s.strand d
    | some (e, p) =>
      let at' := (e + 2) % 4
      if (s.die d).fwd.parent.toNat = e ∧ (s.die p).fwd.child.getLsbD at' then s.takeParent d (BitVec.ofNat 3 e)
      else ((((s.leaveParent d).setChild p at' true).holdLive p)).takeParent d (BitVec.ofNat 3 e)

/-- Whether the loss of a clock is still spreading down the tree (R72). -/
def State.losing (s : State) : Bool := s.agenda.any fun m => match m with
  | .parentClockLoss _ => true
  | _ => false

/-- REROOT_PARENT_ASSIGN (R77, steps 1 to 3; R80): for the orphans named, or for all when none is named, once the loss has reached
every die below it. Orphans that find no parent show it in the map. -/
def execRerootParentAssign (orphans : List Nat) (s : State) : Out :=
  .next (if s.losing then s.later 1 (.rerootParentAssign orphans)
    else
      let all := s.present.filter fun d => (s.die d).fwd.st == .orphan && !(s.die d).fwd.assigned && (orphans.isEmpty || has orphans d)
      let stranded (s : State) : List Nat := s.present.filter fun d => (s.die d).stranded
      let t := match s.newRoot with
        | none => all.foldl State.strand s
        | some root => all.foldl (fun t d => t.adopt (s.depths root) root d) s
      (if stranded t = stranded s then t else t.publishTree).adoptReady)

/-- FWDCMD_DONE (R77, R81): in host-assisted mode the orphans to which the control node gave a parent go on to ADOPT. -/
def execFwdcmdDone (die : Nat) (value : Word) (s : State) : Out :=
  .next (if !value.getLsbD 0 || !(s.die die).fwd.hostMode then s
    else
      (s.present.foldl (fun s d =>
        let f := (s.die d).fwd
        if f.st == .orphan && f.parent != 7 && (f.parent == 4 || s.liveEdge d f.parent.toNat) then s.takeParent d f.parent else s) s).adoptReady)

/-! ### The resume (R77 to R79) -/

/-- What a group waits for when a deadline in `%gtc` units falls: the event that follows, if it has fallen (R78, R88, R89,
R597). -/
def Group.due (g : Group) (core : CoreId) (gid : GroupId) (gtc : Nat) : Option Instr :=
  match g.waiting?.map Wait.what with
  | some (.deadline t) => if t.toNat ≤ gtc then some (.waittDeadline gid core) else none
  | some (.startAt t) => if t ≤ gtc then some (.launchStartTime core gid.team.grid) else none
  | some (.sem _ _ (some t) _ _ false) => if t.toNat ≤ gtc then some (.semwaitTimeout core gid) else none
  | _ => none

/-- Whether a deadline that fell during hold sets LATE: that of a WAITT, or a start time (R78). -/
def Instr.setsLate : Instr → Bool
  | .waittDeadline _ _ | .launchStartTime _ _ => true
  | _ => false

/-- The deadlines due at the cores that satisfy a condition, as events not yet in the agenda (R78, R88, R89). -/
def State.dueAt (s : State) (p : CoreId → Bool) : List Instr :=
  (((s.allGroups.filter fun x => p x.1).filterMap fun x => x.2.2.due x.1 x.2.1 (s.gtcOf x.1)).eraseDups).filter fun i => !s.agenda.contains i

/-- Sets LATE in one group. -/
def State.lateGroup (s : State) (core : CoreId) (gid : GroupId) : State :=
  s.mapGroups (· == core) fun t g => if t = gid.team ∧ g.num = gid.num then { g with late := true } else g

/-- Sets LATE in every group of a grid (R78, R89). -/
def State.lateGrid (s : State) (grid : GridId) : State :=
  let s := s.mapGroups (fun _ => true) fun t g => if t.grid = grid then { g with late := true } else g
  { s with grids := s.grids.map fun (x : Grid) => if x.id = grid then { x with late := true } else x }

/-- What `%gtc` of a region read as its die entered hold (R78). -/
def State.heldGtc (s : State) (d : Nat) (east : Bool) : Nat := if east then (s.die d).heldGtc.2 else (s.die d).heldGtc.1

/-- The dies of a region, by their index (R418). -/
def LaunchRecord.regionDies (r : LaunchRecord) : List Nat :=
  (List.range (r.rw * r.rh)).map fun i => (r.dy + i / r.rw) * 8 + r.dx + i % r.rw

/-- Judges the deadlines of the groups and launches on resuming dies (R78): those that were not met before the hold and have passed now
set LATE. -/
def State.judge (s : State) (ds : List Nat) : State :=
  let here (c : CoreId) : Bool := has ds (CoreId.die c)
  let s := (s.allGroups.filter fun x => here x.1).foldl (fun s x =>
    let i := x.2.2.due x.1 x.2.1 (s.gtcOf x.1)
    if i.isNone || (x.2.2.due x.1 x.2.1 (s.heldGtc (CoreId.die x.1) (CoreId.east x.1))).isSome then s
    else match i with
      | some (.waittDeadline g c) => s.lateGroup c g
      | some (.launchStartTime _ g) => s.lateGrid g
      | _ => s) s
  let passed (g : Grid) (d : Nat) (e : Bool) : Bool :=
    decide (s.heldGtc d e < g.lrec.start.toNat) && decide (g.lrec.start.toNat ≤ (s.region d e).gtc)
  let late := s.grids.filter fun (g : Grid) => g.departed.isSome && g.lrec.starten
    && (ds.filter (has g.lrec.regionDies)).any fun d => passed g d false || passed g d true
  let s := late.foldl (fun s g => s.lateGrid g.id) s
  (s.dueAt here).foldl State.send s

/-- Whether a re-rooting can resume: every die in ADOPT is locked, and no orphan is left that has or awaits a parent (R77, R80). -/
def State.canResume (s : State) : Bool :=
  (s.present.filter fun d => (s.die d).fwd.st == .adopt).all (fun d => (s.die d).fwd.lockW && (s.die d).fwd.lockE)
    && s.present.all (fun d => (s.die d).fwd.st != .orphan || (s.die d).stranded)
    && s.present.any fun d => (s.die d).held && (s.die d).fwd.st != .orphan

/-- The dies that resume, in order of depth. -/
def State.resuming (s : State) : List Nat := s.byDepth (s.present.filter fun d => (s.die d).held && (s.die d).fwd.st != .orphan)

/-- REROOT_RESUME (R77, steps 4 to 8; R78, R79). -/
def execRerootResume (s : State) : Out :=
  .next (if !s.canResume then s
    else
      let ds := s.resuming
      let relocked := ds.filter fun d => (s.die d).fwd.st == .adopt
      let moved := ds.filter fun d => (s.die d).fwd.moved
      let s := { s with clkgen := s.clkgen + 1 }
      let s := ds.foldl (fun s d => s.onDie d fun x => { x with
        held := false, fwd := { x.fwd with st := .run, assigned := false, moved := false } }) s
      let s := (s.publishTree relocked).realign (relocked ++ moved) ds
      let s := s.judge ds
      let leads := (s.grids.map fun (g : Grid) => g.id.lead).eraseDups
      let s := leads.foldl (fun s d => s.send (.queueDepart d)) s
      (ds.foldl (fun s d => s.send (.teamPlacement d)) s).bootTree)

/-! ### The die at which a message or event acts (R74, R75) -/

/-- The die at which a message or event acts; a held one takes it at its resume (R74, R75). -/
def State.actsAt (s : State) : Instr → Option Nat
  | .read m | .renewq m => some (if s.throughRdc m then CoreId.die m.src else lineDie m.line)
  | .dataMsg m => some (match m.via with | some r => CoreId.die r.src | none => CoreId.die m.dst)
  | .extend m => some (match m.via with | some r => CoreId.die r.src | none => CoreId.die m.dst)
  | .cpbk m => some (lineDie m.line)
  | .atomq m => some (lineDie (m.addr / 128))
  | .hold m | .unhold m => some (lineDie m.line)
  | .holdack m => some (CoreId.die m.core)
  | .recall m => some (CoreId.die m.holder)
  | .yield m => some (lineDie m.line)
  | .prep m => some (lineDie m.line)
  | .commit m => some (lineDie m.line)
  | .prepack m | .commitack m => some (CoreId.die m.core)
  | .cpbkack m => (Who.core? m.who).map CoreId.die
  | .atoma m => (Who.core? m.who).map CoreId.die
  | .accept m | .apply m => (Who.core? m.who).map CoreId.die
  | .benchContribution m => some (lineDie (m.addr / 128))
  | .arrive m => some (CoreId.die m.dst)
  | .arriveReply m | .barwaitReply m => some (CoreId.die m.dst)
  | .leave m => some (CoreId.die m.dst)
  | .packetArrive m => some (CoreId.die m.dst)
  | .peerAccessArrive m => some (CoreId.die m.dst)
  | .peerAccessReply m => some (CoreId.die m.src)
  | .xpeerWriteArrive m => some (CoreId.die m.dst)
  | .copyComplete c _ | .unitResultWrite c _ => some (CoreId.die c)
  | .mmaStart d _ | .macroOpComplete d _ => some d
  | .walkComplete m | .pageServiceResolve m => some (CoreId.die m.core)
  | .drop m => some m.die
  | .dropack m => some m.home
  | .rebaseStart d _ | .sweepDone d | .fragmentStart d | .launchRequest d _ | .launchLeadRequest d _ | .queueDepart d
  | .launchDistribute d _ | .teamPlacement d | .loaderDone d => some d
  | .launchReply m => some (CoreId.die m.dst)
  | .semaphoreNotice m | .semwaitReadReply m => some (CoreId.die m.core)
  | .startMessage c _ | .idleTick c | .issueGrant c | .semwaitTimeout c _ | .sleepDone c _ => some (CoreId.die c)
  | .waittDeadline _ c => some (CoreId.die c)
  | .launchStartTime c _ => some (CoreId.die c)
  | .binnerPacketArrive m => some m.die
  | .binnerCloseArrive m => some m.die
  | .restore _ c => some (CoreId.die c)
  | .regroupJoin c _ => some (CoreId.die c)
  | .retry m | .retryResend m => (Resend.sender m).map CoreId.die
  | _ => none

/-! ### One clk (R62, R74, R81) -/

/-- A region counts `n` units; while it stands above its time it stands still (R79). -/
def Region.count (r : Region) (n : Int) (live : Bool) : Region :=
  let m := n.toNat
  let d := min r.debt m
  { r with acc := r.acc + BitVec.ofNat 96 (m - d), debt := r.debt - d, adj := 0, clk := if live then r.clk + 1 else r.clk }

/-- What the slew adds to each clk while more than one clk's part remains (R81). -/
def Ptp.slewPart (p : Ptp) : Int := if slewStep < p.slew then slewStep else if p.slew < -slewStep then -slewStep else 0

/-- How far the backup oscillator of a die runs off its rate, in parts of 10^9: at most 1,000 ppm, left open (R73). -/
def State.drawDrift (s : State) : Int × State :=
  let (k, s) := s.drawNat 2000001
  ((k : Int) - 1000000, s)

/-- What a rate comes to that is off by parts of 10^9. -/
def driftOf (rate : DWord) (ppb : Int) : Int := (rate.toNat : Int) + (rate.toNat : Int) * ppb / 1000000000

/-- Whether a die runs on its backup oscillator: an orphan, or a die in ADOPT that has not locked yet (R55, R70, R73). -/
def Forwarder.backup (f : Forwarder) : Bool := f.st == .orphan || (f.st == .adopt && !(f.lockW && f.lockE))

/-- Counts the regions of a die (R62, R73, R74, R81): with the slew, free-running on a held die, or off its rate on the backup
oscillator. A die that has not locked counts nothing. ACC sets once both regions are aligned and any PTP servo is locked (R79, R87). -/
def State.countDie (s : State) (d : Nat) : State :=
  let x := s.die d
  if x.fwd.st == .off || x.fwd.st == .acquire then s
  else if x.held then
    let (off, s) := if x.fwd.backup then s.drawDrift else (0, s)
    s.onDie d fun x => { x with west := x.west.count (driftOf x.west.rate off) false, east := x.east.count (driftOf x.east.rate off) false }
  else
    let p := s.ptp.slewPart
    s.onDie d fun x => { x with
      west := x.west.count (x.west.rate.toNat + p + x.west.adj) true
      east := x.east.count (x.east.rate.toNat + p + x.east.adj) true
      acc := x.acc || ((s.ptp.st == .off || s.ptp.st == .locked) && x.west.debt == 0 && x.east.debt == 0) }

/-- Whether a region stands at the point of R62: `%gtc` bits [35:16] are zero. -/
def Region.atPoint (r : Region) : Bool := r.gtc / 2 ^ 16 % 2 ^ 20 == 0

/-- The events of a region at its point (R62, R81); in hold too, in which `%gtc` runs on (R74). -/
def State.pointEvents (s : State) (d : Nat) (east : Bool) : List Instr :=
  let r := s.region d east
  if !s.clocked d || !r.atPoint then []
  else (if r.nextRate.isSome then [.rateWordSwitch d east] else []) ++ (if r.step = 0 then [] else [.gtcstepApply d east])

/-- The idle count after a further clk without a slot: 4,096 stands for a tick (R279). -/
def idleNext (n : Nat) : Nat := if n = 4096 then 1 else n + 1

/-- The idle count of a core after a clk: that of a slot restarts it (R279). -/
def Core.idleStep (c : Core) : Core := if c.busy then { c with idle := 0, busy := false } else { c with idle := idleNext c.idle }

/-- The durations of a group and team after a clk (R74, R442, R601). -/
def Group.clkStep (g : Group) : Group :=
  let dec (w : Wait) : Wait := match w.what with
    | .sleep (n + 1) => { w with what := .sleep n }
    | _ => w
  { g with wait := g.wait.map dec, held := g.held.map dec }

/-- A team after a clk in which it is resident and not held (R441, R442). -/
def Team.clkStep (t : Team) : Team :=
  { t with life := t.life + 1, progress := t.progress.map (· - 1), pre := t.pre.map fun p => { p with clk := p.clk + 1 } }

/-- Whether the group's SLEEP is over. -/
def Group.slept (g : Group) : Bool := g.waiting?.any fun w => w.what == .sleep 0

/-- Whether a team that saves or flushes has nothing left that its release waits for (R446): no run in progress, every
operation finished but ordered contributions that Bench accepted, and the engine quiet. -/
def settled (c : Core) (t : Team) : Bool :=
  !(c.slot.any fun g => g.team == t.id)
    && t.groups.all (fun g => g.ops.all fun o => o.bench && o.started && o.waits.all fun r => !has c.accepts r)
    && t.groups.all (fun g => !(g.wait.any fun w => w.what == .start))
    && !(c.engine.any fun o => o.team == t.id && !o.kept)
    && !(c.units.any (·.gid.team == t.id))

/-- What a pre-emption does next after a clk (R441, R444 to R447). -/
def preEvents (c : Core) (t : Team) : List Instr :=
  match t.pre with
  | none => []
  | some p =>
    let b := t.lrec.budget
    match p.mode with
    | 0 => if b ≤ p.clk then [.drainBudgetExpiry t.id] else []
    | 1 =>
      if p.released || (!p.releasing && !(c.slot.any fun g => g.team == t.id)) then [.preemptDecision t.id 1] else []
    | _ =>
      (if !p.quiesced && decide (b / 2 ≤ p.clk) then [.quiesceDeadline t.id] else [])
        ++ (if p.released || (!p.releasing && settled c t) then [.saveCapture t.id] else [])

/-- The events of a core at a clk. -/
def coreEvents (c : Core) : List Instr :=
  (if c.idle = 4096 && !c.retained then [.idleTick c.id] else [])
    ++ ((c.teams.map fun t => t.groups.map fun g => if g.slept then [.sleepDone c.id ⟨t.id, g.num⟩] else []).flatten.flatten)
    ++ (c.teams.map (preEvents c)).flatten

/-- Counts the clk of the cores of a die that no list holds: the idle ticks of a core that nothing has used (R279). -/
def Die.idleStep (d : Die) : Die :=
  if d.stopped then d
  else
    let n := idleNext d.idleClk
    { d with idleClk := n, idleNow := if n = 4096 then { d.idleNow with tick := min (d.idleNow.tick + 1) tickMax } else d.idleNow }

/-- A die whose idle cores reach 0xC0_0000 requests a rebase (R298). -/
def State.noteIdle (s : State) (d : Nat) : State :=
  let x := s.die d
  if x.idleClk = 4096 && !x.stopped then s.noteTick d x.idleNow.tick else s

/-- A timer after a clk: one whose message acts on a held die stands still (R74). -/
def State.timerStep (s : State) (x : Nat × Instr) : Nat × Instr :=
  if (s.actsAt x.2).any fun d => s.stopped d && !s.dieAbsent d then (x.1 + 1, x.2) else x

/-- One clk of the module: the regions count, durations fall on the dies that run, and the events that fall due join the
agenda. -/
def State.tick (s : State) : State :=
  let s := { s with clk := s.clk + 1 }
  let s := (s.dies.map (·.num)).foldl State.countDie s
  let s := { s with ptp := { s.ptp with slew := s.ptp.slew - s.ptp.slewPart }, dies := s.dies.map Die.idleStep }
  let s := (s.dies.map (·.num)).foldl State.noteIdle s
  let live (c : CoreId) : Bool := !s.stopped (CoreId.die c)
  let s : State := s.mapTeams live Team.clkStep fun _ => Group.clkStep
  let s : State := s.mapCores fun c => if live c.id then c.idleStep else c
  let cores := s.allCores.filter fun c => live c.id
  let s := { s with timers := s.timers.map s.timerStep }
  let due := s.timers.filter fun x => decide (x.1 ≤ s.clk)
  let s := { s with timers := s.timers.filter fun x => !decide (x.1 ≤ s.clk) }
  let points := ((s.dies.map fun d => s.pointEvents d.num false ++ s.pointEvents d.num true)).flatten
  let left : Int := s.ptp.slew
  let slew : List Instr := if left ≠ 0 ∧ left ≤ slewStep ∧ -slewStep ≤ left then [.slewComplete] else []
  { s.resendDue with agenda := s.agenda ++ points ++ slew ++ due.map (·.2) ++ s.dueAt live ++ (cores.map coreEvents).flatten }

/-! ### Rate, slew and step (R62, R81) -/

/-- Whether a die is the root, at which writes to the rate, slew and step take effect (R81). -/
def State.atRoot (s : State) (die : Nat) : Bool := s.isRoot die && !s.dieAbsent die

/-- Changes both regions of every die. -/
def State.mapRegions (s : State) (f : Region → Region) : State :=
  { s with dies := s.dies.map fun d => { d with west := f d.west, east := f d.east } }

/-- GTCRATE_WRITE (R62, R81). -/
def execGtcrateWrite (die : Nat) (value : DWord) (s : State) : Out :=
  .next (if s.atRoot die then
      { s with ptp := { s.ptp with rateWord := value } }.mapRegions fun r => { r with nextRate := some value }
    else s)

/-- GTCSLEW_WRITE (R81): it replaces any offset not yet applied. -/
def execGtcslewWrite (die : Nat) (value : DWord) (s : State) : Out :=
  .next (if s.atRoot die then
      { s with ptp := { s.ptp with slew := value.toInt * fracUnit } }.mapRegions fun r => { r with adj := 0 }
    else s)

/-- GTCSTEP_WRITE (R81). -/
def execGtcstepWrite (die : Nat) (value : DWord) (s : State) : Out :=
  .next (if s.atRoot die then s.mapRegions fun r => { r with step := value } else s)

/-- RATE_WORD_SWITCH (R62). -/
def execRateWordSwitch (die : Nat) (east : Bool) (s : State) : Out :=
  .next (match (s.region die east).nextRate with
    | some w => if (s.region die east).atPoint then s.onRegion die east fun r => { r with rate := w, nextRate := none } else s
    | none => s)

/-- GTCSTEP_APPLY (R81): a forward step at the point of R62. The deadlines that the counter so reaches are met (R88, R89). -/
def execGtcstepApply (die : Nat) (east : Bool) (s : State) : Out :=
  .next (if (s.region die east).atPoint then
      let s := s.onRegion die east fun r => { r with acc := r.acc + BitVec.ofNat 96 (r.step.toNat * fracUnit), step := 0 }
      if s.stopped die then s
      else (s.dueAt fun c => CoreId.die c == die && CoreId.east c == east).foldl State.send s
    else s)

/-- SLEW_COMPLETE (R81): what remains of the offset goes into the next clk, after which the rate word alone applies. -/
def execSlewComplete (s : State) : Out :=
  .next (if s.ptp.slew ≤ slewStep ∧ -slewStep ≤ s.ptp.slew then
      let x := s.ptp.slew
      { s with ptp := { s.ptp with slew := 0 }, dies := s.dies.map fun d =>
        if d.stopped then d else { d with west := { d.west with adj := x }, east := { d.east with adj := x } } }
    else s)

/-! ### IEEE 1588 (R85 to R87) -/

/-- Whether the servo runs in host-assisted mode (R465). -/
def State.hostServo (s : State) : Bool :=
  (s.present.find? s.isRoot).any fun r => (s.die r).dutySel.getLsbD 1

/-- ns in units of 2^-16 ns. -/
def nanos (n : Nat) : Int := n * 65536

/-- `%gtc` of the die that carries a peer port, with which its frames are stamped (R85, R457). Which of the die's two regions it is the
spec does not say: DESIGN CHOICE, the west one (log entry 48). -/
def State.portTime (s : State) (port : Nat) : Nat :=
  (s.region (portDie port) false).gtc

/-- A port's timestamp: within 0.8 ns of its region's counter, left open (R85). -/
def State.drawStamp (s : State) (port : Nat) : Int × State :=
  let (k, s) := s.drawNat 104857
  ((s.portTime port : Int) + ((k : Int) - 52428), s)

/-- A timestamp corrected by the port's region offset (R86). -/
def State.corrected (s : State) (port : Nat) (t : Int) : Int := t - s.offsetOf (portDie port) false

/-- The servo removes an offset: by a step forward of more than 1 µs, or by slewing (R86). -/
def State.correct (s : State) (offset : Int) : State :=
  if nanos 1000 < -offset then s.mapRegions fun r => { r with step := BitVec.ofInt 64 (-offset) }
  else { s with ptp := { s.ptp with slew := -offset * fracUnit } }.mapRegions fun r => { r with adj := 0 }

/-- The servo may write GTCRATE: whether it does, and what, is left open (R86, log entry 48). -/
def State.servoRate (s : State) : State :=
  let (k, s) := s.drawNat 2
  if k = 0 then s
  else
    let (w, s) := s.drawBits
    { s with ptp := { s.ptp with rateWord := w } }.mapRegions fun r => { r with nextRate := some w }

/-- Sets ACC of every running region. -/
def State.setAcc (s : State) (on : Bool) : State :=
  { s with dies := s.dies.map fun d => if d.stopped then d else { d with acc := on } }

/-- The servo takes an estimate at a Sync interval (R86, R87). -/
def State.servo (s : State) (offset : Int) : State :=
  let good := if offset.natAbs ≤ (nanos 50).natAbs then s.ptp.good + 1 else 0
  let lost := decide ((nanos 200).natAbs < offset.natAbs)
  let st : PtpSt := if 16 ≤ good then .locked else if lost || s.ptp.st != .locked then .acquiring else .locked
  let s := { s with ptp := { s.ptp with est := offset, good := good, st := st } }
  let s := if s.hostServo then s else (s.correct offset).servoRate
  if 16 ≤ good then s.setAcc true else if lost then s.setAcc false else s

/-- The path delay that the four timestamps of a Sync and a delay request give: half of (t2 − t1) + (t4 − t3) (R85). -/
def Ptp.pathDelay (p : Ptp) : Option Int :=
  match p.t1, p.t2, p.t3, p.t4 with
  | some a, some b, some c, some d => some (((b - a) + (d - c)) / 2)
  | _, _, _, _ => none

/-- A Follow_Up gives the time t1 of the Sync before it. The servo estimates its offset, (t2 − t1) less the path delay, once a delay
has been measured (R85, R86, log entry 48). -/
def State.followUp (s : State) (t : Int) : State :=
  let s := { s with ptp := { s.ptp with t1 := some t } }
  match s.ptp.t2, s.ptp.delay with
  | some t2, some delay => s.servo (t2 - t - delay)
  | _, _ => s

/-- PTP_FRAME_RECEIVE (R85 to R87): one-step messages and other domains are discarded; the first port that hears a master
is the slave. A Sync is stamped as it arrives; a Follow_Up and a Delay_Resp carry the master's timestamps. -/
def execPtpFrameReceive (f : PtpFrame) (s : State) : Out :=
  .next (if f.oneStep || f.domain != s.ptp.domain || f.kind == .other then s
    else
      let heard := f.kind == .announce || f.kind == .sync || f.kind == .followUp
      let s := if heard && s.ptp.slave.isNone then
          { s with ptp := { s.ptp with slave := some f.port, st := .acquiring, missed := 0, good := 0, heardAt := s.clk } }
        else s
      if s.ptp.slave != some f.port then s
      else match f.kind with
        | .announce => { s with ptp := { s.ptp with missed := 0, heardAt := s.clk } }
        | .sync =>
          let (t, s) := s.drawStamp f.port
          { s with ptp := { s.ptp with t1 := none, t2 := some (s.corrected f.port t) } }
        | .followUp => s.followUp f.time
        | .delayResp =>
          let p := { s.ptp with t4 := some f.time }
          { s with ptp := { p with delay := p.pathDelay.orElse fun _ => p.delay } }
        | _ => s)

/-- Three Announce intervals of 1 s, in clk (R85, R87). -/
def announceTime : Nat := 3750000000

/-- ANNOUNCE_TIMEOUT (R87): the slave port has heard no Announce for more than three intervals. The master is lost, PTPST shows holdover
and ACC clears. -/
def execAnnounceTimeout (s : State) : Out :=
  .next (if s.ptp.slave.isNone || decide (s.clk ≤ s.ptp.heardAt + announceTime) then s
    else ({ s with ptp := { s.ptp with
        st := .holdover, slave := none, good := 0, missed := 4, t1 := none, t2 := none, t3 := none, t4 := none, delay := none } }).setAcc false)

/-- PTP_MESSAGE_TRANSMIT (R85): delay requests leave on the slave port, Sync, its follow-up and Announce on the others. The stamp of a
delay request is the t3 of the delay that it measures. -/
def execPtpMessageTransmit (port : Nat) (kind : PtpKind) (s : State) : Out :=
  let slave := s.ptp.slave == some port
  let ok := match kind with
    | .delayReq => slave
    | .sync | .followUp | .announce | .delayResp => !slave
    | .other => false
  .next (if ok then
      let (t, s) := s.drawStamp port
      let t3 := if kind = .delayReq then some (s.corrected port t) else s.ptp.t3
      { s with ptp := { s.ptp with t3 := t3, sent := s.ptp.sent ++ [(port, kind, t)] } }
    else s)

end Sys2Proof.Machine
end

