-- ==== Sys2Proof/Machine/Roles.lean ====
section
/-! DEFINITION. How firmware finds routes: logical coordinates, neighbours, direct and relayed routes, and writing a core's route table and its image (R14, R22 to R28, R34, R35, R45, R49, R412). -/

namespace Sys2Proof.Machine

/-! ### Routes as firmware finds them (R26, R34, R412) -/

/-- The route of a role: one that names no present core is unreachable (R412). -/
def State.roleRoute (s : State) (c : CoreId) (x y : Int) : BitVec 256 := Panel.roleRoute s.dies c x y

/-- The neighbour route in a direction (R26). -/
def State.neighbourRoute (s : State) (c : CoreId) (dir : Nat) : BitVec 256 := Panel.neighbourRoute s.dies c dir

/-! ### Writing entries (R22, R27, R45) -/

/-- Offset of a core's route image in the panel map, if the core has one (R22, R45, R635). -/
def State.imageOf (s : State) (c : CoreId) : Option Nat :=
  match c with
  | .vec d col r => ((s.die d).lrow col r).map fun l => dieBlock d + 0x800000 + (l * 64 + col) * 0x800
  | _ => none

/-- Firmware writes an entry of the core in focus; the router refuses a malformed one, and the entry is left not valid and the
refusal reported (R27). The core's image, where it has one, shows what the table holds (R22). -/
def State.writeRoute (s : State) (n : Nat) (e : BitVec 256) : State :=
  let refused := s.routeRefused s.core.id e
  let e := if refused then 0 else e
  let s := if refused then s.onDie (CoreId.die s.core.id) fun d => { d with errors := d.errors + 1 } else s
  let old := s.routeSlot n
  let s := s.onCore (·.putRoute { num := n, entry := e })
  if (old.map (·.entry)).getD 0 = e then s
  else match s.imageOf s.core.id with
    | some at' => s.mapUpdate fun s => s.mapWrite (at' + 32 * n) 32 e.toNat
    | none => s

/-- Firmware writes routes 0 to 3 of the core in focus (R26). -/
def State.writeNeighbours (s : State) : State :=
  if Panel.routed s.dies s.core.id then (List.range 4).foldl (fun s dir => s.writeRoute dir (s.neighbourRoute s.core.id dir)) s else s

/-- Firmware writes the routes of valid roles for the core in focus (R412). -/
def State.writeRoles (s : State) (roles : List (Nat × Int × Int)) : State :=
  roles.foldl (fun s r => s.writeRoute r.1 (s.roleRoute s.core.id r.2.1 r.2.2)) s

/-- Firmware writes the routes of a core before it starts a team: those of its roles, and the others as not valid (R412). -/
def State.startRoutes (s : State) (roles : List (Nat × Int × Int)) : State :=
  let rest := ((List.range 64).drop 4).filter fun n => !roles.any (·.1 == n)
  (rest.foldl (fun s n => if (s.routeSlot n).isSome then s.writeRoute n 0 else s) s.writeNeighbours).writeRoles roles

end Sys2Proof.Machine
end

