-- ==== Sys2Proof/Machine/Launch.lean ====
section
/-! DEFINITION. LAUNCH, its request and reply, the launch record and its checks, the queues of a lead dispatch core with their waits, and the grid-boundary jump (R294, R295, R405 to R416, R421, R636). -/

namespace Sys2Proof.Machine

/-! ### LAUNCH (R405, R406) -/

/-- LAUNCH (R405, R406): Release(PANEL), then the request; dst is pending until the reply. -/
def execLaunch (f : SF) (s : State) : Out :=
  .next (s.once (.launch f) [uS2 f.a] fun s vs =>
    let (id, s) := s.newId
    let (ref, s) := s.newId
    let d := CoreId.die s.core.id
    let m : LaunchReq := ⟨s.core.id, s.gid, f.dst.reg, (nth vs 0).toNat % 2 ^ 56, s.core.now, false, []⟩
    let before := s.earlier
    let s := (s.onGrp fun g => { g.effect with pend := ⟨.op ref, s.dstRows (.launch f)⟩ :: g.pend }).addOp
      { id := id, load := true, counted := false, uni := true
        elems := [{ lane := 0, reg := f.dst.reg, line := 0, off := 0, w := 4, wait := some ref }] }
    (s.release .panel true before (.send (.launchRequest d m))).next)

/-- LAUNCH_REPLY (R406): the status word arrives and dst is no longer pending. -/
def execLaunchReply (m : LaunchAns) (s : State) : Out :=
  let mine (o : MemOp) (e : Elem) : Bool := !o.counted && o.uni && o.load && e.reg == m.dstReg && e.w == 4
  let come (o : MemOp) (e : Elem) : Elem := if mine o e then { e with wait := none, val := (m.status.setWidth 64, false) } else e
  let take (o : MemOp) : MemOp := { o with elems := o.elems.map (come o) }
  let ends (o : MemOp) (p : Pend) : Bool := o.elems.any fun e => mine o e && e.wait.any fun r => p.who == .op r
  .next (((s.focusCore m.dst).atGroup m.group fun s => s.onGrp fun g => { g with
    ops := g.ops.map take, pend := g.pend.filter fun p => !g.ops.any fun o => ends o p }).pump)

/-! ### Reading records (R281, R408, R636) -/

/-- The translation context of a requester: that of its grid, or of its die's dispatch code. -/
def State.launchCtx (s : State) (m : LaunchReq) : TransCtx :=
  match s.recordOf m.group.team.grid with
  | some r => ⟨r.asid, r.troot, r.dstab⟩
  | none => (s.die (CoreId.die m.src)).dispCtx

/-- The translation of an address in a context, as the dispatch core in focus holds it for someone (R260, R262). -/
def State.ctxLookup (s : State) (x : TransCtx) (who : WalkFor) (va : Nat) : Option WalkOut :=
  if 2 ^ 56 ≤ va then some .malformed else s.lookupIn x.asid who false va

/-- Asks for a walk in a context. -/
def State.askCtx (s : State) (x : TransCtx) (who : WalkFor) (va : Nat) : State :=
  s.askWalk ⟨who, s.core.id, x.asid, x.troot, x.dstab, va / 128 * 128, 0⟩

/-- What a dispatch core finds in a record: it waits for a walk or for a reply, the read faults or returns poison, or the bytes. -/
inductive RecLine where
  | wait
  | bad
  | data (bs : List Byte)
  deriving DecidableEq, Repr

/-- What two neighbouring parts of a record give together. -/
def RecLine.join : RecLine → RecLine → RecLine
  | .wait, _ => .wait
  | _, .wait => .wait
  | .bad, _ => .bad
  | _, .bad => .bad
  | .data p, .data q => .data (p ++ q)

/-- A dispatch core looks bytes of a line up in its own copies, and asks for the line when they do not serve (R277, R281, R408): what it
finds, and the WTS of the copy. -/
def State.copyRead (s : State) (a : LineAcc) (off n : Nat) : (RecLine × Nat) × State :=
  if (s.copyOf a.line).isNone && !s.makeRoom.1 then ((.wait, 0), s)
  else match s.lookLine a none with
    | (some _, s) => ((.wait, 0), s)
    | (none, s) =>
      match s.copyOf a.line with
      | none => ((.wait, 0), s)
      | some c =>
        ((if touchesWords c.poison off n then .bad
          else .data ((List.range n).map fun k => BitVec.ofNat 8 (lineNat c.bytes (off + k) 1)), c.wts.read s.ep), s)

/-- A dispatch core reads `n` bytes of a record from an address, within one line (R281, R408). -/
def State.recordPart (s : State) (x : TransCtx) (who : WalkFor) (va n : Nat) : (RecLine × Nat) × State :=
  match s.ctxLookup x who va with
  | none => ((.wait, 0), s)
  | some .sparse => ((.data (List.replicate n 0), 0), s)
  | some (.leaf l) =>
    let pa := l.phys va
    if paSpace pa = 1 || l.por then ((.bad, 0), s)
    else if paSpace pa ≠ 0 then ((.data (s.bytes pa n), 0), s)
    else match regLine (pa / 128) with
      | some (d, off) => ((.data (leBytes n (s.regBytes 3 d (off + pa % 128))), 0), s)
      | none =>
        s.copyRead { line := pa / 128, mask := spanMask (pa % 128) n, lease := leaseTicks l.lease.toNat, noAlloc := false
                     stream := false, page := s.replPage l } (pa % 128) n
  | some _ => ((.bad, 0), s)

/-- Whether the translations of a request's reads are known; each that is not is asked for (R260, R262). -/
def State.recordKnown (s : State) (m : LaunchReq) (parts : List (Nat × Nat)) : Bool × State :=
  let x := s.launchCtx m
  let who := WalkFor.launch m.src m.group
  match parts.filter fun p => (s.ctxLookup x who p.1).isNone with
  | [] => (true, s)
  | ps => (false, ps.foldl (fun s p => s.askCtx x who p.1) s)

/-- The parts of a record that a request has not got yet. -/
def reqLacks (m : LaunchReq) (parts : List (Nat × Nat)) : List (Nat × Nat) :=
  parts.filter fun p => !m.got.any (·.1 == p.1)

/-- A request with what a dispatch core found for one part: a part that waits stays to be read. -/
def reqTake (m : LaunchReq) (va : Nat) : RecLine → LaunchReq
  | .wait => m
  | .bad => { m with got := (va, none) :: m.got }
  | .data bs => { m with got := (va, some bs) :: m.got }

/-- One part of a record as a request holds it. -/
def reqPart (m : LaunchReq) (va : Nat) : RecLine :=
  match m.got.find? (·.1 == va) with
  | none => .wait
  | some (_, none) => .bad
  | some (_, some bs) => .data bs

/-- What a request has of parts of its record together. -/
def reqFound (m : LaunchReq) (parts : List (Nat × Nat)) : RecLine :=
  parts.foldl (fun r p => r.join (reqPart m p.1)) (.data [])

/-- A dispatch core reads parts of the record that a request names, each at an address with a length, as one acquire load through its own
copies: `%now` rises by one before the first lookup, each line is taken when its copy serves or its reply has come, and `%now` rises to
its WTS (R277, R279, R408, R636). What walks gave is held until the last value has come (R262). -/
def State.readRecord (s : State) (m : LaunchReq) (parts : List (Nat × Nat)) : (RecLine × LaunchReq) × State :=
  match s.recordKnown m (reqLacks m parts) with
  | (false, s) => ((.wait, m), s)
  | (true, s) =>
    let x := s.launchCtx m
    let who := WalkFor.launch m.src m.group
    let s := if m.begun then s else s.setNow (s.nowTick + 1)
    let r := (reqLacks m parts).foldl (fun (a : (LaunchReq × Nat) × State) p =>
      let b := a.2.recordPart x who p.1 p.2
      ((reqTake a.1.1 p.1 b.1.1, max a.1.2 b.1.2), b.2)) (({ m with begun := true }, 0), s)
    let s := r.2.raiseNow r.1.2
    match reqFound r.1.1 parts with
    | .wait => ((.wait, r.1.1), s)
    | got => ((got, r.1.1), s.dropOwned who)

/-! ### The record (R410 to R412) -/

/-- Whether any of `n` bytes of a record from an offset is set. -/
def recSet (bs : List Byte) (off n : Nat) : Bool := recField bs off n != 0

/-- Whether a program counter in a record breaks R98. -/
def recPcBad (pc : Nat) : Bool := decide (2 ^ 56 ≤ pc) || bits pc 5 3 != 0 || decide (4 < bits pc 2 0)

/-- The role of route `n`: its 32 bits. -/
def recRole (bs : List Byte) (n : Nat) : Nat := recField bs (0x100 + 4 * (n - 4)) 4

/-- The declaration of tile `n`. -/
def recTile (bs : List Byte) (n : Nat) : DWord := BitVec.ofNat 64 (recField bs (0x200 + 8 * n) 8)

/-- The tile declarations that declare something. -/
def recTiles (bs : List Byte) : List (Nat × DWord) := ((List.range 64).map fun n => (n, recTile bs n)).filter (·.2 != 0)

/-- Places the declared tiles one after another from the first row of the tile region (R411). -/
def placeTiles : Nat → List (Nat × DWord) → List (Nat × DWord)
  | _, [] => []
  | row, t :: ts => (t.1, t.2 ||| BitVec.ofNat 64 (row % 1024 * 2 ^ 46)) :: placeTiles (row + tileNrows t.2) ts

/-- The values of a record. -/
def LaunchRecord.parse (bs : List Byte) : LaunchRecord :=
  let f := recField bs
  let sems (off : Nat) : List (Nat × DWord) :=
    ((List.range 4).map fun k => (f (off + 16 * k) 8 % 2 ^ 56, BitVec.ofNat 64 (f (off + 16 * k + 8) 8))).filter (·.1 != 0)
  let s10 (x : Nat) : Int := (BitVec.ofNat 10 x).toInt
  { entry := BitVec.ofNat 56 (f 0 8), trapvec := BitVec.ofNat 56 (f 8 8), troot := f 0x10 8, dstab := f 0x18 8, asid := f 0x20 2
    dx := f 0x22 1, dy := f 0x23 1, rw := f 0x24 1, rh := f 0x25 1, tpd := f 0x26 2, p := f 0x28 1, c := f 0x29 1
    w0 := 8 * f 0x2A 1, w1 := 8 * f 0x2B 1, spill := 8 * f 0x2C 1, cache := 32 * f 0x2D 1, tmRows := 8 * f 0x2E 2
    nbar := f 0x30 1, prio := f 0x31 1 % 4, starten := bit (f 0x32 1) 0, far := bit (f 0x32 1) 1, gang := f 0x34 2
    benchl := f 0x36 2, budget := f 0x38 4, start := BitVec.ofNat 64 (f 0x40 8), pass := f 0x48 8
    args := BitVec.ofNat 64 (f 0x50 8), waits := sems 0x60, sigs := sems 0xA0
    roles := (((List.range 64).drop 4).filter fun n => bit (recRole bs n) 31).map fun n =>
      (n, s10 (recRole bs n), s10 (recRole bs n / 1024))
    tiles := placeTiles (8 * f 0x2E 2) (recTiles bs) }

/-- Whether a tile declaration breaks R411. -/
def tileDeclBad (r : LaunchRecord) (e : DWord) : Bool :=
  tileState e != 0 || tileBase e != 0 || bits e.toNat 18 17 != 0 || tileNrows e == 0 || decide (1024 < tileNrows e)
    || !r.isObject (tileBar e)
    || (match numTy (tileFmt e) with
      | none => true
      | some t => decide (tileNrows e * 128 < boxBytes t ((tileErows e + 1) * (tileEcols e + 1))))

/-- Whether the reserved bytes and bits of a record are not all zero (R410). -/
def recReserved (bs : List Byte) : Bool :=
  recSet bs 0x33 1 || recSet bs 0x3C 4 || recSet bs 0x58 8 || recSet bs 0xE0 32 || recSet bs 0x1F0 16
    || decide (4 ≤ recField bs 0x31 1) || decide (4 ≤ recField bs 0x32 1)
    || ((List.range 64).drop 4).any fun n => bits (recRole bs n) 30 20 != 0

/-- Whether a gang straddles two dies (R421). -/
def LaunchRecord.straddles (r : LaunchRecord) : Bool := decide (1 < r.rw * r.rh) && r.tpd % r.gang != 0

/-- BADREC of R408. -/
def recordBad (bs : List Byte) : Bool :=
  let r := LaunchRecord.parse bs
  let f := recField bs
  let w (x : Nat) : Bool := decide (x < 2) || decide (32 < x)
  recReserved bs || recPcBad (f 0 8) || (f 8 8 != 0 && recPcBad (f 8 8))
    || r.rw == 0 || r.rh == 0 || decide (8 < r.dx + r.rw) || decide (5 < r.dy + r.rh) || r.tpd == 0
    || r.p == 0 || decide (8 < r.p + r.c) || w (f 0x2A 1) || (if r.c = 0 then f 0x2B 1 != 0 else w (f 0x2B 1))
    || decide (8 < f 0x2C 1) || decide (16 < f 0x2D 1) || f 0x2E 2 == 0 || decide (128 < f 0x2E 2)
    || decide (1024 * f 0x2E 2 < 16 * r.nbar) || decide (256 < r.benchl)
    || (r.gang != 0 && ((r.tpd * r.rw * r.rh) % r.gang != 0 || (r.straddles && !r.far)))
    || (r.waits ++ r.sigs).any (fun x => x.1 % 8 != 0)
    || (recTiles bs).any fun t => tileDeclBad r t.2

/-- Teams of a record that an empty core can hold (R133, R420). -/
def LaunchRecord.perCore (r : LaunchRecord) : Nat :=
  min (8 / (r.p + r.c)) (min ((1024 - r.cache) / r.rows) (if r.tiles.isEmpty then 8 else 64 / r.tiles.length))

/-- The most members that one gang has on die index `i` (R421). -/
def LaunchRecord.gangOn (r : LaunchRecord) (i : Nat) : Nat :=
  let lo := i * r.tpd
  let hi := lo + r.tpd
  let part (k : Nat) : Nat := min hi ((k + 1) * r.gang) - max lo (k * r.gang)
  max (part (lo / r.gang)) (max (part (lo / r.gang + 1)) (part ((hi - 1) / r.gang)))

/-- NORES of R408. -/
def State.recordNores (s : State) (r : LaunchRecord) : Bool :=
  decide (1024 < r.rows + r.cache) || decide (64 < r.tiles.length)
    || (r.gang != 0 && r.regionDies.zipIdx.any fun d => decide ((s.die d.1).cores * r.perCore < r.gangOn d.2))

/-- The status of a launch whose record was read (R407, R408). -/
def State.launchStatus (s : State) (lead : Nat) (bs : List Byte) : Nat :=
  let r := LaunchRecord.parse bs
  if recordBad bs then 1
  else if r.regionDies.any fun d => s.dieStatus d != 1 then 2
  else if s.recordNores r then 4
  else if 64 ≤ (s.grids.filter fun (g : Grid) => g.id.lead == lead && g.departed.isNone && g.lrec.prio == r.prio).length then 3
  else 0

/-! ### Requests (R408, R636) -/

/-- The status word (R407). -/
def statusWord (status lead lid : Nat) : Word := BitVec.ofNat 32 (status * 2 ^ 28 + lead * 2 ^ 16 + lid)

/-- Answers the issuing core. -/
def State.answerLaunch (s : State) (m : LaunchReq) (status lead lid : Nat) : State :=
  s.send (.launchReply ⟨m.src, m.group, m.dstReg, statusWord status lead lid⟩)

/-- The dispatch core of a die takes up a request: its `%now` rises to that which the request carries (R408, R636). -/
def State.takeRequest (s : State) (die : Nat) (m : LaunchReq) : State :=
  let s := s.focusCore (.disp die)
  s.raiseNow (m.now.read s.ep)

/-- Whether a request must wait for a rebase of the die before the dispatch core takes it up (R301). -/
def State.requestStalls (s : State) (die : Nat) (m : LaunchReq) : Bool :=
  let s := s.focusCore (.disp die)
  !m.begun && decide (tickMax < max s.nowTick (m.now.read s.ep) + 1)

/-- Bytes 0x022 and 0x023 of a record, DX and DY (R636). -/
def recordHead (m : LaunchReq) : List (Nat × Nat) := [(m.record + 0x22, 2)]

/-- The eight lines of a record (R408). -/
def recordWhole (m : LaunchReq) : List (Nat × Nat) := (List.range 8).map fun k => (m.record + 128 * k, 128)

/-- A message that waits for the next start of a die (R301). -/
def State.stall (s : State) (die : Nat) (i : Instr) : State :=
  (s.onDie die fun d => { d with stalled := d.stalled ++ [i] }).requestRebase die

/-- LAUNCH_REQUEST (R636): checked at the issuing die's dispatch core, and forwarded to the lead. -/
def execLaunchRequest (die : Nat) (m : LaunchReq) (s : State) : Out :=
  .next (s.onTime die m.now (.launchRequest die m) fun s =>
    let s0 := s
    let s := s.takeRequest die m
    if s0.requestStalls die m then s0.stall die (.launchRequest die m) else if m.record % 128 ≠ 0 then s.answerLaunch m 5 die 0
    else
      let r := s.readRecord m (recordHead m)
      match r.1.1 with
      | .wait => r.2.later 1 (.launchRequest die r.1.2)
      | .bad => r.2.answerLaunch m 5 die 0
      | .data bs =>
        let dx := recField bs 0 1
        let dy := recField bs 1 1
        if 7 < dx ∨ 4 < dy then r.2.answerLaunch m 1 die 0 else r.2.send (.launchLeadRequest (dy * 8 + dx) { m with begun := false, got := [] }))

/-- The launch number after another (R407). -/
def nextLaunch (n : Nat) : Nat := if n = 65535 then 1 else n + 1

/-- LAUNCH_LEAD_REQUEST (R408): the record is read and checked, and the launch joins the tail of its queue. -/
def execLaunchLeadRequest (die : Nat) (m : LaunchReq) (s : State) : Out :=
  .next (s.onTime die m.now (.launchLeadRequest die m) fun s =>
    let s0 := s
    let s := s.takeRequest die m
    let r := s.readRecord m (recordWhole m)
    if s0.requestStalls die m then s0.stall die (.launchLeadRequest die m) else match r.1.1 with
    | .wait => r.2.later 1 (.launchLeadRequest die r.1.2)
    | .bad => r.2.answerLaunch m 5 die 0
    | .data bs =>
      let s := r.2
      match s.launchStatus die bs with
      | 0 =>
        let lid := (s.die die).nextLid
        let s := s.onDie die fun d => { d with nextLid := nextLaunch lid }
        let g : Grid := { id := ⟨die, lid⟩, lrec := LaunchRecord.parse bs }
        (({ s with grids := s.grids ++ [g] }.answerLaunch m 0 die lid).send (.queueDepart die))
      | k => s.answerLaunch m k die 0)

/-! ### Queues and waits (R413, R414, R416) -/

/-- Changes a grid. -/
def State.onGrid (s : State) (g : GridId) (f : Grid → Grid) : State :=
  { s with grids := s.grids.map fun (x : Grid) => if x.id = g then f x else x }

/-- The place of a semaphore in a grid's context, as the dispatch core in focus finds it: unknown until a walk, or none where
the address has no translation. -/
def State.semPlace (s : State) (g : Grid) (va : Nat) : Option (Option Nat) :=
  (s.ctxLookup ⟨g.lrec.asid, g.lrec.troot, g.lrec.dstab⟩ (.grid g.id) va).map fun o => match o with
    | .leaf l => if paSpace (l.phys va) = 0 ∧ (regLine (l.phys va / 128)).isNone then some (l.phys va) else none
    | .sparse => some holeAddr
    | _ => none

/-- Whether a wait of a launch is registered with its home. -/
def State.waitKnown (s : State) (g : GridId) (k : Nat) : Bool := s.semWaiters.any fun w => w.launch == some (g, k)

/-- Judges an unmet wait of a queued launch: it is met, or the home registers it (R416). -/
def State.judgeWait (s : State) (g : Grid) (k : Nat) (w : Nat × DWord) : State :=
  if has g.met k || s.waitKnown g.id k then s
  else match s.semPlace g w.1 with
    | none => s.askCtx ⟨g.lrec.asid, g.lrec.troot, g.lrec.dstab⟩ (.grid g.id) w.1
    | some none => s
    | some (some pa) =>
      if s.stopped (paDie pa) then s
      else if w.2 ≤ s.semValue pa then
        (s.raiseNow ((s.homeWts (pa / 128)).read s.ep)).onGrid g.id fun x => { x with met := k :: x.met }
      else { s with semWaiters := ⟨pa, w.2, s.core.id, ⟨⟨g.id, 0⟩, 0⟩, 0, some (g.id, k)⟩ :: s.semWaiters }

/-- Judges the waits of the launches that a lead holds in its queues. -/
def State.judgeWaits (s : State) (lead : Nat) : State :=
  (s.grids.filter fun (g : Grid) => g.id.lead == lead && g.departed.isNone).foldl (fun s g =>
    g.lrec.waits.zipIdx.foldl (fun s w => s.judgeWait g w.2 w.1) s) s

/-- Whether a wait of a queued launch is still to be judged: its walk is under way, or its home stands still. -/
def State.waitsOpen (s : State) (lead : Nat) : Bool :=
  s.grids.any fun (g : Grid) => g.id.lead == lead && g.departed.isNone && g.lrec.waits.zipIdx.any fun w =>
    !has g.met w.2 && !s.waitKnown g.id w.2 && (s.semPlace g w.1.1).all fun (o : Option Nat) => o.any fun pa => s.stopped (paDie pa)

/-- The head of a queue (R413). -/
def State.queueHead (s : State) (lead prio : Nat) : Option Grid :=
  s.grids.find? fun (g : Grid) => g.id.lead == lead && g.departed.isNone && g.lrec.prio == prio

/-- Whether a head may leave: its waits are met and no die of its region is held (R413). -/
def State.mayLeave (s : State) (g : Grid) : Bool :=
  g.lrec.waits.zipIdx.all (fun w => has g.met w.2) && g.lrec.regionDies.all fun d => !s.stopped d

/-- The head that leaves next: that of the highest priority that may (R413). -/
def State.leaving (s : State) (lead : Nat) : Option Grid :=
  ([3, 2, 1, 0].filterMap (s.queueHead lead)).find? s.mayLeave

/-- `%now` after the starts that a saved context or a core in retention missed (R299, R302). -/
def missedNow (missed t : Nat) : Nat :=
  match missed with
  | 0 => t
  | 1 => max t 0x800001 - 0x800000
  | _ => 1

/-- A stored timestamp after missed starts (R297, R302). -/
def missedStamp (missed t : Nat) : Nat :=
  match missed with
  | 0 => t
  | 1 => t - 0x800000
  | _ => 0

/-- The starts that a core in retention has not taken (R302). -/
def Core.behind (c : Core) (rebases : BitVec 32) : Nat := if c.retained then (rebases - c.retainedAt).toNat else 0

/-- `%now` of a core in its die's epoch, after the starts that it has not taken (R297, R302). -/
def Core.nowIn (c : Core) (e : BitVec 2) (rebases : BitVec 32) : Nat :=
  if c.retained then missedNow (c.behind rebases) c.now.tick else c.now.read e

/-- The largest `%now` of the cores and control cores of a die (R295). -/
def State.topNow (s : State) (d : Nat) : Nat :=
  let e := (s.die d).epoch
  let n := (s.die d).rebases
  s.allCores.foldl (fun t c => if CoreId.die c.id = d ∧ CoreId.kind c.id ≠ .dispatch then max t (c.nowIn e n) else t)
    ((s.die d).idleNow.read e)

/-- The core in focus wakes from retention (R302): it takes the starts that it missed, and with two or more of them its copies lose their
leases (R277). -/
def State.wakeCore (s : State) : State :=
  let e := s.ep
  let n := (s.die (CoreId.die s.core.id)).rebases
  let c := s.core
  if !c.retained then s
  else
    let lost := decide (2 ≤ c.missed + c.behind n)
    let swept (x : Copy) : Copy := { x with wts := ⟨e, x.wts.read e⟩, rts := ⟨e, x.rts.read e⟩ }
    { s with core := { c with
        retained := false, retainedAt := n, missed := 0, now := ⟨e, c.nowIn e n⟩
        copies := (if lost then c.copies.filterMap Copy.lose else c.copies).map swept } }

/-- A core takes the grid-boundary jump of its die (R295); one in retention has then taken the die's starts with `%now` alone. -/
def Core.jump (e : BitVec 2) (rebases : BitVec 32) (j : Nat) (c : Core) : Core :=
  { c with
    now := ⟨e, max (c.nowIn e rebases) j⟩, missed := c.missed + c.behind rebases
    retainedAt := if c.retained then rebases else c.retainedAt }

/-- The grid-boundary jump of a die (R295). -/
def State.jumpDie (s : State) (d : Nat) : State :=
  let e := (s.die d).epoch
  let n := (s.die d).rebases
  let j := s.topNow d + 513
  let s := s.mapCores fun c => if CoreId.die c.id = d ∧ CoreId.kind c.id ≠ .dispatch then c.jump e n j else c
  (s.onDie d fun x => { x with idleNow := ⟨e, max (x.idleNow.read e) j⟩ }).noteTick d j

/-- Whether the jump of a die would pass the largest timestamp, so that it waits for a rebase (R301). -/
def State.jumpPasses (s : State) (d : Nat) : Bool := decide (tickMax < s.topNow d + 513)

/-- Whether a launch's start time has passed as it leaves its queue (R89). -/
def State.startPassed (s : State) (g : Grid) : Bool :=
  g.lrec.starten && decide (g.lrec.start.toNat < s.gtcOf (.disp g.id.lead))

/-- A launch leaves its queue: the jump on each die of its region, and the launch goes to their dispatch cores (R414). -/
def State.depart (s : State) (g : Grid) : State :=
  let ds := g.lrec.regionDies
  let s := ds.foldl State.jumpDie s
  let late := s.startPassed g
  let s := s.onGrid g.id fun x => { x with departed := some s.departs, late := late }
  let s : State := { s with departs := s.departs + 1, semWaiters := s.semWaiters.filter fun w => !(w.launch.any (·.1 == g.id)) }
  ds.foldl (fun s d => s.send (.launchDistribute d g.id)) (s.dropWalks fun o => o == .grid g.id)

/-- QUEUE_DEPART (R413, R414, R416). -/
def execQueueDepart (die : Nat) (s : State) : Out :=
  let s := (s.focusCore (.disp die)).judgeWaits die
  .next (match s.leaving die with
    | some g =>
      match g.lrec.regionDies.filter s.jumpPasses with
      | [] => (s.depart g).send (.queueDepart die)
      | ds => (ds.foldl State.requestRebase s).later 1 (.queueDepart die)
    | none => if s.waitsOpen die then s.later 1 (.queueDepart die) else s)

/-- The ranks of a die (R418). -/
def LaunchRecord.ranksOn (r : LaunchRecord) (d : Nat) : List Nat :=
  match r.regionDies.findIdx? (· == d) with
  | some i => (List.range r.tpd).map (i * r.tpd + ·)
  | none => []

/-- LAUNCH_DISTRIBUTE (R414): the teams of the die wait for placement. -/
def execLaunchDistribute (die : Nat) (grid : GridId) (s : State) : Out :=
  .next ((s.onGrid grid fun g =>
    if has g.dies die then g
    else { g with dies := die :: g.dies, pending := g.pending ++ g.lrec.ranksOn die }).send (.teamPlacement die))

/-- SEMAPHORE_NOTICE (R416, R596): a waiting group looks at the value, or a wait of a launch is met and stays so. -/
def execSemaphoreNotice (m : SemNotice) (s : State) : Out :=
  .next (s.onTime (CoreId.die m.core) m.wts (.semaphoreNotice m) fun s =>
    let s := s.focusCore m.core
    match m.launch with
    | none => s.atGroup m.group fun s => s.semCheck m.ref m.value m.wts
    | some (g, k) =>
      let s := { s.raiseNow (m.wts.read s.ep) with semWaiters := s.semWaiters.filter fun w => w.launch != some (g, k) }
      (s.onGrid g fun x => { x with met := insertN x.met k }).send (.queueDepart g.lead))

end Sys2Proof.Machine
end

