-- ==== Sys2Proof/Machine/Resident.lean ====
section
/-! DEFINITION. Where teams fit: the placement order of cores, free rows, Shelf entries and groups, the cache partition, and the removal of a team (R97, R130, R133, R145, R419, R420, R449). -/

namespace Sys2Proof.Machine

/-! ### The order of cores (R419) -/

/-- The logical cores of a die in placement order: column and logical row. -/
def coreOrder : List (Nat × Nat) :=
  let quads : List (Nat × Nat) := [(0, 0), (1, 0), (0, 1), (1, 1)]
  ((List.range 256).map fun k =>
    (quads.map fun q => (List.range 4).map fun c =>
      (k / 16 * 4 + q.1 * 2 + c % 2, k % 16 * 4 + q.2 * 2 + c / 2)).flatten).flatten

/-- The place of a core in that order. -/
def State.orderOf (s : State) (c : CoreId) : Nat :=
  coreOrder.findIdx fun x => x.1 == CoreId.col c && x.2 == s.lrowOf c

/-! ### Rows, Shelf and groups (R133, R145, R420) -/

/-- Contexts that a core's rows hold, or that have not left it yet: first row and rows (R449). -/
def State.contextRows (s : State) (c : CoreId) : List (Nat × Nat) :=
  s.contexts.filterMap fun (x : Context) =>
    if x.moving && x.core == c then some (x.team.base, x.team.rows) else none

/-- The rows of a context: a header, the segment, 24 for each group and 32 for the team (R448). -/
def Context.size (x : Context) : Nat := 1 + x.team.rows + 24 * x.team.groups.length + 32

/-- The rows of a core that teams hold. -/
def State.busyRows (s : State) (k : Core) : List (Nat × Nat) :=
  (k.teams.map fun t => (t.base, t.rows)) ++ s.contextRows k.id

/-- The lowest run of `n` free rows below a limit among busy rows. -/
def lowestRun (busy : List (Nat × Nat)) (n limit : Nat) : Option Nat :=
  let free (b : Nat) : Bool := decide (b + n ≤ limit) && busy.all fun x => decide (b + n ≤ x.1) || decide (x.1 + x.2 ≤ b)
  ((0 :: busy.map fun x => x.1 + x.2).filter free).foldl (fun m b => match m with
    | none => some b
    | some a => some (min a b)) none

/-- The partition that a core has for a further team (R133). -/
def Core.partition (k : Core) (r : LaunchRecord) : Nat := if k.teams.isEmpty then r.cache else k.partRows

/-- Whether a core has room for a team: the first row of its segment (R420). -/
def State.fitBase (s : State) (c : CoreId) (r : LaunchRecord) : Option Nat :=
  let k := s.coreOf c
  let groups := (k.teams.map fun t => t.lrec.p + t.lrec.c).sum
  let tiles := (k.teams.map fun t => t.lrec.tiles.length).sum
  if 8 < groups + r.p + r.c ∨ 64 < tiles + r.tiles.length then none
  else lowestRun (s.busyRows k) r.rows (1024 - k.partition r)

/-- The first core of a die in placement order that has room, or one that is preferred (R420, R452). -/
def State.findCore (s : State) (d : Nat) (r : LaunchRecord) (prefer : Option CoreId) : Option CoreId :=
  match prefer.filter fun c => (s.fitBase c r).isSome with
  | some c => some c
  | none => coreOrder.findSome? fun x =>
      match (s.die d).prow x.1 x.2 with
      | some row => if (s.fitBase (.vec d x.1 row) r).isSome then some (.vec d x.1 row) else none
      | none => none

/-- The core in focus takes the partition of a team placed on it while it is empty; copies beyond it are evicted (R133). -/
def State.setPartition (s : State) (r : LaunchRecord) : State :=
  if !s.core.teams.isEmpty then s
  else
    let s := s.onCore fun c => { c with partRows := r.cache }
    (s.core.copies.drop r.cache).foldl (fun s c => s.evict c.line) s

/-- A team takes its place on the core in focus. Contexts that lie in its rows, or in the partition that comes with it, move to the save
area (R133, R449). -/
def State.seat (s : State) (t : Team) : State :=
  let s := (s.stowTeam).setPartition t.lrec
  let me := s.core.id
  let clear (x : Context) : Context :=
    if x.host.any fun h => h.1 == me && (decide (1024 - s.core.partRows < h.2 + x.size)
      || (decide (h.2 < t.base + t.rows) && decide (t.base < h.2 + x.size))) then { x with host := none } else x
  { s.onCore fun c => { c with teams := t :: c.teams } with contexts := s.contexts.map clear }

/-- A team leaves the core in focus, with its ranges of the Hutch and its walks (R97, R268). -/
def State.unseat (s : State) (t : TeamId) : State :=
  let s := s.stowTeam
  (s.dropWalks (s.core.walksFor (· == t))).onCore fun c => { c with
    teams := c.teams.filter (·.id != t), hutch := c.hutch.filter (·.team != some t)
    slot := c.slot.filter fun g => g.team != t }

/-- The core at which a team is resident. -/
def State.coreWith (s : State) (t : TeamId) : Option CoreId := (s.allTeams.find? fun x => x.2.id == t).map (·.1)

/-- A team that is resident, with its core. -/
def State.findTeam (s : State) (t : TeamId) : Option (CoreId × Team) := s.allTeams.find? fun x => x.2.id == t

/-- Ranks in ascending order with some added (R422). -/
def addRanks (ranks more : List Nat) : List Nat := ((ranks ++ more).eraseDups).mergeSort (· ≤ ·)

end Sys2Proof.Machine
end

