-- ==== Sys2Proof/Machine/Preempt.lean ====
section
/-! DEFINITION. Pre-emption: the decision, drain, flush-and-restart, save and restore, and the control node's requests and answers about them (R76, R296, R302, R441 to R452, R465, R466, R608). -/

namespace Sys2Proof.Machine

/-! ### The decision (R441 to R443) -/

/-- Every resident team of a team's gang, or the team alone (R441). -/
def State.gangTeams (s : State) (t : TeamId) : List (CoreId × Team) :=
  match s.findTeam t with
  | none => []
  | some (c, x) =>
    if x.lrec.gang = 0 then [(c, x)]
    else s.allTeams.filter fun y => y.2.id.grid == t.grid && y.2.id.rank / x.lrec.gang == t.rank / x.lrec.gang

/-- Whether a member of a team's gang stands on a die that stands still: what falls due for the gang waits until it resumes (R76). -/
def State.gangHeld (s : State) (t : TeamId) : Bool := (s.gangTeams t).any fun y => s.stopped (CoreId.die y.1)

/-- The estimate of remaining clk (R442). -/
def State.estimate (s : State) (c : CoreId) (x : Team) : Option Nat :=
  match x.progress with
  | some n => some n
  | none =>
    match (s.grids.find? fun (g : Grid) => g.id == x.id.grid).bind fun g => g.stats.find? (·.1 == CoreId.die c) with
    | none => none
    | some (_, n, runs) => if n = 0 ∨ x.runs = 0 then none else some ((runs - n * x.runs) * x.life / (n * x.runs))

/-- Drain's condition (R441). -/
def State.drains (s : State) (x : CoreId × Team) : Bool := (s.estimate x.1 x.2).any fun n => decide (n ≤ x.2.lrec.budget)

/-- Flush's condition (R441, R443). -/
def Team.flushes (x : Team) : Bool := x.groups.all (fun g => g.gst == .ended || g.inn) && decide (x.life ≤ x.lrec.budget)

/-- The mode for a gang: as asked for when its condition holds for every member, chosen by the table for code 3, otherwise
save (R441, R466). -/
def State.preMode (s : State) (ts : List (CoreId × Team)) (asked : Nat) : Nat :=
  let drain := ts.all s.drains
  let flush := ts.all fun x => x.2.flushes
  if drain && (asked == 0 || asked == 3) then 0 else if flush && (asked == 1 || asked == 3) then 1 else 2

/-- Starts the pre-emption of teams in a mode; a request for one that is under way is noted with it (R466). -/
def State.beginPre (s : State) (ts : List TeamId) (mode : Nat) (keep : Bool) (asked : Option Nat) : State :=
  let pre (t : Team) : Preempt := match t.pre with
    | some p => { p with keep := p.keep || keep, asked := p.asked.orElse fun _ => asked }
    | none => { mode := mode, keep := keep, asked := asked }
  (s.stowTeam).mapTeams (fun _ => true) (fun t => if ts.contains t.id then { t with pre := some (pre t) } else t) fun _ g => g

/-- Whether the pre-emption policy of a die is host-assisted (R465). -/
def Die.hostPolicy (d : Die) : Bool := d.dutySel.getLsbD 3

/-- Asks the control node for the mode (R441, R454, R465). -/
def State.askPolicy (s : State) (d : Nat) (t : TeamId) : State :=
  let q := (s.die d).pm.seq
  if (s.die d).pm.asked.any (·.2 == t) then s
  else (s.onDie d fun x => { x with pm := { x.pm with seq := q + 1, asked := x.pm.asked ++ [(q, t)] } }).sendUp
    (upMessage 5 d [(8, 4, q.toNat), (0x10, 2, t.grid.lid), (0x14, 4, t.rank)])

/-- A team is to be pre-empted: the mode is chosen, or the control node is asked (R441). -/
def State.preempt (s : State) (t : TeamId) (mode : Nat) : State :=
  match s.findTeam t with
  | none => s
  | some (c, x) =>
    let d := CoreId.die c
    if x.pre.isSome then s
    else if mode == 3 && (s.die d).hostPolicy then s.askPolicy d t
    else
      let ts := s.gangTeams t
      s.beginPre (ts.map (·.2.id)) (s.preMode ts mode) false none

/-! ### Leaving the core (R445 to R451) -/

/-- A request of the control node is done: the team has left its core (R466). -/
def State.pmDone (s : State) (asked : Option Nat) : State :=
  match asked with
  | some d => s.onDie d fun x => { x with pm := { x.pm with busy := false } }
  | none => s

/-- A team's operations leave the engine of the core in focus, with their ranges and walks (R268, R445). -/
def State.dropOps (s : State) (p : EngOp → Bool) : State :=
  let walks (w : WalkFor) : Bool := (s.core.engine.filter p).any fun o => w == .engine o.id
  (s.dropWalks walks).onCore fun c => { c with
    engine := c.engine.filter (!p ·)
    hutch := ((c.engine.filter p).map (·.locks)).flatten.foldl releaseRange c.hutch }

/-- Starts Release(DIE) of a team that leaves its core (R445, R446). -/
def State.releaseTeam (s : State) (c : CoreId) (t : TeamId) : State :=
  let s := (s.focusCore c).focusTeam t
  let s : State := { s with team := { s.team with pre := s.team.pre.map fun p => { p with releasing := true } } }
  let s := s.copyBackAll
  (s.onCore fun k => { k with rels := k.rels ++ [{ gid := none, scope := .die, release := true, acks := k.acks, ops := [], most := 0, cont := .preempted t }] }).pump

/-- Whether a team under pre-emption has done its release. -/
def Team.gone (x : Team) : Bool := x.pre.any (·.released)

/-- A flushed team leaves its core and is pending again, or kept out (R445, R466). -/
def State.flushOut (s : State) (c : CoreId) (x : Team) : State :=
  let p := x.pre.getD { mode := 1 }
  let s := ((s.focusCore c).unseat x.id).pmDone p.asked
  { s with grids := s.grids.map fun (g : Grid) =>
      if g.id ≠ x.id.grid then g
      else if p.keep then { g with kept := addRanks g.kept [x.id.rank] }
      else { g with pending := addRanks g.pending [x.id.rank] } }.send (.teamPlacement (CoreId.die c))

/-- What flush-and-restart does next: the engine operations are cancelled and the release starts; once every member has
released, the gang leaves (R119, R445). -/
def State.flushStep (s : State) (t : TeamId) : State :=
  let ts := s.gangTeams t
  match s.findTeam t with
  | none => s
  | some (c, x) =>
    let p := x.pre.getD { mode := 1 }
    if !p.releasing then
      let s := s.focusCore c
      (((s.dropWalks (s.core.walksFor (· == t))).dropOps fun o => o.team == t).onCore fun k => { k with units := k.units.filter (·.gid.team != t) }).releaseTeam c t
    else if ts.all fun y => y.2.gone then ts.foldl (fun s y => s.flushOut y.1 y.2) s
    else s

/-- PREEMPT_DECISION (R76, R441 to R443, R445): mode 0 to 2 as named by the control node, 3 as in hardware mode. A team that is
being flushed goes on. While a member of the gang is held the decision waits. -/
def execPreemptDecision (t : TeamId) (mode : Nat) (s : State) : Out :=
  .next (match s.findTeam t with
    | some (_, x) =>
      if x.pre.any (·.mode == 1) then (if s.gangHeld t then s else s.flushStep t)
      else if s.gangHeld t then s.later 1 (.preemptDecision t mode)
      else s.preempt t mode
    | none => s)

/-- DRAIN_BUDGET_EXPIRY (R76, R444): a gang that has not ended is saved. -/
def execDrainBudgetExpiry (t : TeamId) (s : State) : Out :=
  let ts := (s.gangTeams t).map (·.2.id)
  .next (if s.gangHeld t then s else match s.findTeam t with
    | some (_, x) =>
      if x.pre.any fun p => p.mode == 0 && decide (x.lrec.budget ≤ p.clk) then
        let late (p : Preempt) : Preempt := if p.mode = 0 then { p with mode := 2, clk := 0 } else p
        (s.stowTeam).mapTeams (fun _ => true)
          (fun y => if ts.contains y.id then { y with pre := y.pre.map late } else y) fun _ g => g
      else s
    | none => s)

/-- QUIESCE_DEADLINE (R76, R447): what is incomplete is cancelled, and its command kept for reissue. -/
def execQuiesceDeadline (t : TeamId) (s : State) : Out :=
  .next (if s.gangHeld t then s else match s.findTeam t with
    | some (c, x) =>
      if x.pre.any fun p => p.mode == 2 && decide (x.lrec.budget / 2 ≤ p.clk) then
        let s := (s.focusCore c).focusTeam t
        let s : State := { s with team := { s.team with pre := s.team.pre.map fun p => { p with quiesced := true } } }
        s.onCore fun k => { k with engine := k.engine.map fun (o : EngOp) => if o.team = t ∧ o.cancels ∧ !o.due then { o with kept := true } else o }
      else s
    | none => s)

/-! ### The context (R448 to R451) -/

/-- The cells of a byte range, moved down to 0. -/
def cellsFrom (m : List Host.Cell) (lo n : Nat) : List Host.Cell :=
  (m.filter fun c => decide (lo ≤ c.1) && decide (c.1 < lo + n)).map fun c => (c.1 - lo, c.2)

/-- The numbers of a range, moved down to 0. -/
def numsFrom (l : List Nat) (lo n : Nat) : List Nat := (l.filter fun k => decide (lo ≤ k) && decide (k < lo + n)).map (· - lo)

/-- The nearest core of a die that advertises enough free rows, with the first row (R449). -/
def State.settle449 (s : State) (c : CoreId) (n : Nat) : Option (CoreId × Nat) :=
  let d := CoreId.die c
  let hosted (k : CoreId) : List (Nat × Nat) := s.contexts.filterMap fun (x : Context) =>
    (x.host.filter (·.1 == k)).map fun h => (h.2, x.size)
  let here := s.pos c
  let dist (k : CoreId) : Nat := ((s.pos k).x - here.x).natAbs + ((s.pos k).y - here.y).natAbs
  ((List.range (64 * 66)).foldl (fun (b : Option (Nat × CoreId × Nat)) i =>
    let k : CoreId := .vec d (i / 66) (i % 66)
    if ((s.die d).lrow (i / 66) (i % 66)).isNone || (b.any fun x => decide (x.1 ≤ dist k)) then b
    else
      let core := s.coreOf k
      match lowestRun (s.busyRows core ++ hosted k) n (1024 - core.partRows) with
      | some row => some (dist k, k, row)
      | none => b) none).map (·.2)

/-- Ranges of the Hutch entered beside others: one that stands there already counts on (R151). -/
def mergeRanges (hutch more : List RangeLock) : List RangeLock :=
  more.foldl (fun l r =>
    if l.any fun h => h.team == r.team && h.first == r.first && h.last == r.last then
      l.map fun h => if h.team = r.team ∧ h.first = r.first ∧ h.last = r.last then { h with count := h.count + r.count } else h
    else l ++ [r]) hutch

/-- The Hutch entries of a team: its local ranges, and the global ranges that its cancelled commands hold (R151, R447, R448). -/
def Core.teamRanges (c : Core) (t : TeamId) : List RangeLock :=
  let held := (((c.engine.filter (·.team == t)).map (·.locks)).flatten.filter (·.team.isNone)).map fun h => { h with count := 1 }
  mergeRanges (c.hutch.filter (·.team == some t)) held

/-- Captures a team's context; it leaves its core, which keeps a placeholder (R448 to R451). -/
def State.capture (s : State) (c : CoreId) (x : Team) : State :=
  let s := (s.focusCore c).stowTeam
  let p := x.pre.getD { mode := 2 }
  let k := s.core
  let lo := x.base
  let ctx : Context :=
    { team := { x with pre := none }, core := c, now := k.now, rebases := (s.die (CoreId.die c)).rebases
      store := cellsFrom k.store (lo * 128) (x.rows * 128), poison := numsFrom k.storePoison (lo * 32) (x.rows * 32)
      mixed := numsFrom k.mixed lo x.rows, hutch := k.teamRanges x.id
      cmds := k.engine.filter (·.team == x.id)
      wake := x.groups.any fun g => g.woke && g.gst == .ready
      keep := p.keep }
  let s := (s.dropOps fun o => o.team == x.id).unseat x.id
  let s := s.onCore fun k => { k with saved := (x.id, x.placed) :: k.saved }
  let s := s.pmDone p.asked
  let s := { s with semWaiters := s.semWaiters.filter fun w => w.group.team != x.id || w.launch.isSome }
  { s with contexts := s.contexts ++ [{ ctx with host := s.settle449 c ctx.size }] }.send (.contextTransferDone x.id)

/-- The rank that sent a packet. -/
def PrimPacket.rank (p : PrimPacket) : Nat := bits p.token.toNat 47 24

/-- Whether the binners have accepted every packet of a team (R375). -/
def State.packetsTaken (s : State) (t : TeamId) : Bool :=
  let mine (m : Instr) : Bool := match m with
    | .binnerPacketArrive y => y.grid == t.grid && PrimPacket.rank y.packet == t.rank
    | .binnerCloseArrive y => y.grid == t.grid && y.rank == t.rank
    | _ => false
  !((s.arrived ++ s.agenda).any mine) && (s.dies.all fun d => d.passes.all fun p => !(p.waiting.any mine))
    && s.allCores.all fun c => c.rels.all fun r => match r.cont with
      | .sends ms => !(ms.any mine)
      | _ => true

/-- SAVE_CAPTURE (R76, R119, R446): once every member of the gang has nothing left to wait for its release starts, and once every
member has released the gang is captured. -/
def execSaveCapture (t : TeamId) (s : State) : Out :=
  let ts := s.gangTeams t
  let quiet (y : CoreId × Team) : Bool := y.2.pre.any (·.mode == 2) && settled (s.coreOf y.1) y.2 && s.packetsTaken y.2.id
  .next (if s.gangHeld t then s else match s.findTeam t with
    | some (_, x) =>
      match x.pre with
      | none => s
      | some p =>
        if p.mode ≠ 2 then s
        else if !p.releasing then (if ts.all quiet then ts.foldl (fun s y => s.releaseTeam y.1 y.2.id) s else s)
        else if ts.all fun y => y.2.gone then ts.foldl (fun s y => s.capture y.1 y.2) s
        else s
    | none => s)

/-- CONTEXT_TRANSFER_DONE (R449): the context is in its place, and the rows that it left are free. -/
def execContextTransferDone (t : TeamId) (s : State) : Out :=
  .next (match s.contexts.find? fun (x : Context) => x.team.id == t with
    | none => s
    | some x =>
      { s with contexts := s.contexts.map fun (y : Context) => if y.team.id = t then { y with moving := false } else y }.send
        (.teamPlacement (CoreId.die x.core)))

/-! ### Restore (R296, R302, R450 to R452) -/

/-- Names of cores in a team after a gang member has moved: the waiters and arrivals of that member, and the objects that its
old core stood for when the member was the one that its grid's accesses reached there (R247, R450). -/
def Team.moved (x : Team) (t : TeamId) (old new : CoreId) (first : Bool) : Team :=
  let at' (c : CoreId) : CoreId := if first && c == old then new else c
  { x with
    barWaiters := x.barWaiters.map fun w => if w.group.team = t then { w with core := new } else w
    pendingUp := x.pendingUp.map fun m => if m.group.team = t then { m with src := new } else m
    arrivals := x.arrivals.map fun a => if a.team = t then { a with obj := a.obj.map fun o => (new, o.2) } else a
    gangObjs := x.gangObjs.map fun o => { o with core := at' o.core } }

/-- Tells every team of a grid that a member has moved. -/
def State.tellMoved (s : State) (t : TeamId) (old new : CoreId) (first : Bool) : State :=
  let f (x : Team) : Team := if x.id.grid = t.grid then x.moved t old new first else x
  let s := (s.stowTeam).mapTeams (fun _ => true) f fun _ g => g
  { s with contexts := s.contexts.map fun (x : Context) => { x with team := f x.team } }

/-- Copies a segment image onto the core in focus (R452, step 2). -/
def State.copyImage (s : State) (x : Context) (base : Nat) : State :=
  let n := x.team.rows
  let out (l : List Nat) (w : Nat) : List Nat := l.filter fun k => !(decide (base * w ≤ k) && decide (k < (base + n) * w))
  s.onCore fun c => { c with
    store := x.store.foldl (fun m b => Memory.write Memory.zeros m (base * 128 + b.1) b.2)
      (c.store.filter fun b => !(decide (base * 128 ≤ b.1) && decide (b.1 < (base + n) * 128)))
    storePoison := out c.storePoison 32 ++ x.poison.map (· + base * 32)
    mixed := out c.mixed 1 ++ x.mixed.map (· + base) }

/-- Whether a team was the one that its grid's peer accesses reached on its old core (R247). -/
def State.wasFirst (s : State) (x : Context) : Bool :=
  let k := s.coreOf x.core
  (k.teams.all fun t => t.id.grid != x.team.id.grid || decide (x.team.placed < t.placed))
    && k.saved.all fun p => p.1.grid != x.team.id.grid || decide (x.team.placed ≤ p.2)

/-- A SEMWAIT reads its semaphore again and registers on the new core (R451, R596). -/
def State.rewait (s : State) : State :=
  match s.grp.waiting? with
  | some ⟨.sem pa target limit r _ _, pc, ls⟩ =>
    let late := limit.any fun d => decide (d.toNat ≤ s.gtcOf s.core.id)
    s.semRead ⟨.sem pa target limit r 0 late, pc, ls⟩
  | _ => s

/-- A group resumes in its saved state; a deadline that has passed completes its wait with LATE (R78, R452). -/
def State.resumeGroup (s : State) : State :=
  let s := s.rewait
  let s := if s.grp.gst = .ready then s.onGrp fun g => ({ g with gst := .waiting } : Group).ready s.clk else s.poll
  match s.grp.due s.core.id s.gid (s.gtcOf s.core.id) with
  | none => s
  | some i => (if Instr.setsLate i then s.onGrp fun g => { g with late := true } else s).send i

/-- APPLYs that the die's dispatch core kept for a team take effect (R450). -/
def State.applyKept (s : State) (x : Context) : State :=
  let mine (a : BenchAns) : Bool := x.team.groups.any fun g => g.ops.any fun o => has o.waits a.ref
  let s' := { s with keptApply := s.keptApply.filter (!mine ·) }
  (s.keptApply.filter mine).foldl (fun s a => (s.raiseNow (a.wts.read s.ep)).eachGroup (·.clearWait a.ref)) s'

/-- A cancelled command is reissued: on the new core, without raising its counters (R447, R452). -/
def State.reissue (s : State) (ep : BitVec 2) (missed : Nat) (o : EngOp) : State :=
  let t : Stamp := ⟨s.ep, missedStamp missed (o.now.read ep)⟩
  let dst := if o.kind = .peer ∨ o.kind = .send then s.routeDst o.route else o.dst
  let o := { o with kept := false, cancelled := false, now := t, dst := dst, sys := [], left := none }
  let s := s.onCore fun c => { c with engine := c.engine ++ [o] }
  if o.kind = .send then s.nextPacket o.route else s.wakeEng o.id

/-- Restores a context on a core that has room for it (R452). -/
def State.restore (s : State) (x : Context) (core : CoreId) (base : Nat) : State :=
  let first := s.wasFirst x
  let t := x.team.id
  let s := { s.focusCore core with contexts := s.contexts.filter fun (y : Context) => y.team.id != t }
  let (id, s) := s.newId
  let missed := ((s.die (CoreId.die core)).rebases - x.rebases).toNat
  let horizon (g : Group) : Group := { g with horizon := ⟨s.ep, missedStamp missed (g.horizon.read x.now.ep)⟩ }
  let team := { x.team with base := base, placed := id, groups := x.team.groups.map horizon }
  let s := ((s.writeRoles x.team.lrec.roles).seat team).copyImage x base
  let s := s.onCore fun c => { c with hutch := mergeRanges c.hutch x.hutch }
  let s := s.raiseNow (missedNow missed x.now.tick)
  let drop (c : Core) : Core := { c with saved := c.saved.filter (·.1 != t) }
  let s := (s.mapCores drop).tellMoved t x.core core first
  let s := x.cmds.foldl (fun s o => (s.focusTeam t).reissue x.now.ep missed o) s
  let s := (s.applyKept x).pump
  (x.team.groups.map (·.num)).foldl (fun s n => s.atGroup ⟨t, n⟩ State.resumeGroup) s

/-- Whether a context can be placed: it has arrived and no request keeps it out (R449, R466). -/
def Context.isPending (x : Context) : Bool := !x.moving && !x.keep

/-- RESTORE (R452). -/
def execRestore (t : TeamId) (core : CoreId) (s : State) : Out :=
  .next (match s.contexts.find? fun (x : Context) => x.team.id == t && x.isPending with
    | none => s
    | some x => match s.fitBase core x.team.lrec with
      | none => s
      | some base => s.restore x core base)

/-! ### Requests of the control node (R465, R466) -/

/-- The team that a value of PMREQ names. -/
def pmTeam (v : DWord) : TeamId := ⟨⟨bits v.toNat 55 50, bits v.toNat 47 32⟩, bits v.toNat 31 0⟩

/-- PMREQ_GO (R466). -/
def execPmreqGo (die : Nat) (value : DWord) (s : State) : Out :=
  .next (if s.dieAbsent die || (s.die die).pm.busy then s
    else
      let t := pmTeam value
      let s := s.onDie die fun d => { d with pm := { d.pm with req := value &&& 0x20FFFFFFFFFFFFFF, busy := true, notFound := false } }
      match s.findTeam t with
      | none => s.onDie die fun d => { d with pm := { d.pm with busy := false, notFound := true } }
      | some _ =>
        let ts := s.gangTeams t
        let s := s.beginPre ((ts.map (·.2.id)).filter (· != t)) (s.preMode ts (bits value.toNat 49 48)) (value.getLsbD 61) none
        s.beginPre [t] (s.preMode ts (bits value.toNat 49 48)) (value.getLsbD 61) (some die))

/-- The ranks of a kept team's gang, or its own. -/
def State.keptRanks (s : State) (t : TeamId) : List Nat :=
  match s.recordOf t.grid, s.grids.find? (fun (g : Grid) => g.id == t.grid) with
  | _, some g =>
    let ctx := (s.contexts.filter fun (x : Context) => x.team.id.grid == t.grid && x.keep).map (·.team.id.rank)
    let all := ctx ++ g.kept
    if !has all t.rank then [] else if g.lrec.gang = 0 then [t.rank] else all.filter fun r => r / g.lrec.gang == t.rank / g.lrec.gang
  | _, none => []

/-- PMREQ_RESUME (R466): a team that was kept out, with its gang, joins its grid's pending teams again. A write that holds GO too
is ignored while BUSY. -/
def execPmreqResume (die : Nat) (value : DWord) (s : State) : Out :=
  .next (if s.dieAbsent die || (s.die die).pm.busy && value.getLsbD 63 then s
    else
      let t := pmTeam value
      let ranks := s.keptRanks t
      let s := s.onDie die fun d => { d with pm := { d.pm with req := value &&& 0x20FFFFFFFFFFFFFF, notFound := ranks.isEmpty } }
      let s := { s with contexts := s.contexts.map fun (x : Context) =>
        if x.team.id.grid = t.grid ∧ has ranks x.team.id.rank then { x with keep := false } else x }
      let back (g : Grid) : Grid :=
        { g with pending := addRanks g.pending (g.kept.filter (has ranks)), kept := g.kept.filter (!has ranks ·) }
      let s := s.onGrid t.grid back
      match s.grids.find? fun (g : Grid) => g.id == t.grid with
      | some g => (g.dies.foldl (fun s d => s.send (.teamPlacement d)) s)
      | none => s)

/-- PMREPLY_WRITE (R465): an answer that matches an outstanding query names the mode; a mode of 3 is ignored. -/
def execPmreplyWrite (die : Nat) (value : DWord) (s : State) : Out :=
  let q := BitVec.ofNat 32 value.toNat
  let mode := bits value.toNat 33 32
  .next (if s.dieAbsent die || mode == 3 then s
    else match (s.die die).pm.asked.find? (·.1 == q) with
      | none => s
      | some a =>
        (s.onDie die fun d => { d with pm := { d.pm with asked := d.pm.asked.filter (·.1 != q) } }).send (.preemptDecision a.2 mode))

/-- The reply of the control node reaches the dst of the group in focus, which issues on in its handler (R608). -/
def State.takeReply (s : State) (v : Word) : State :=
  match s.grp.wait with
  | some ⟨.reply dst, _, _⟩ => (s.writeS dst false (v.setWidth 64)).wake
  | _ => s

/-- SCREPLY_WRITE (R608): the group that the write names takes SCVAL; a write that names no waiting group is ignored. -/
def execScreplyWrite (die : Nat) (value : DWord) (s : State) : Out :=
  let lid := bits value.toNat 47 32
  let rank := bits value.toNat 31 0
  let num := bits value.toNat 50 48
  .next (match s.allGroups.find? fun x => CoreId.die x.1 == die && x.2.1.team.grid.lid == lid && x.2.1.team.rank == rank
        && x.2.1.num == num && x.2.2.wait.any (fun w => match w.what with | .reply _ => true | _ => false) with
    | none => s
    | some x => (s.focusCore x.1).atGroup x.2.1 (·.takeReply (s.die die).scval))

end Sys2Proof.Machine
end

