-- ==== Sys2Proof/Machine/Exact.lean ====
section
/-! DEFINITION. Exact rational values with infinities and NaN, as the edge walker, the traversal unit and the texture unit compute with them (R383, R390, R391, R398). -/

namespace Sys2Proof.Machine

/-- An exact fraction; the denominator is positive. -/
structure Frac where
  num : Int
  den : Nat := 1
  deriving DecidableEq, Repr

/-- A fraction with a power of two. -/
def Frac.scale (n : Int) (e : Int) : Frac := if 0 ≤ e then ⟨n * 2 ^ e.toNat, 1⟩ else ⟨n, 2 ^ (-e).toNat⟩

/-- The sum. -/
def Frac.add (a b : Frac) : Frac := ⟨a.num * b.den + b.num * a.den, a.den * b.den⟩
/-- The negative. -/
def Frac.neg (a : Frac) : Frac := ⟨-a.num, a.den⟩
/-- The difference. -/
def Frac.sub (a b : Frac) : Frac := a.add b.neg
/-- The product. -/
def Frac.mul (a b : Frac) : Frac := ⟨a.num * b.num, a.den * b.den⟩
/-- The quotient by a fraction other than zero. -/
def Frac.div (a b : Frac) : Frac :=
  if b.num < 0 then ⟨-(a.num * b.den), a.den * b.num.natAbs⟩ else ⟨a.num * b.den, a.den * b.num.natAbs⟩
/-- Whether a fraction is at most another. -/
def Frac.le (a b : Frac) : Bool := decide (a.num * b.den ≤ b.num * a.den)
/-- Whether a fraction is below another. -/
def Frac.lt (a b : Frac) : Bool := decide (a.num * b.den < b.num * a.den)
/-- The largest integer that is not above. -/
def Frac.floor (a : Frac) : Int := a.num / a.den
/-- The smaller and the larger of two. -/
def Frac.min (a b : Frac) : Frac := if a.le b then a else b
/-- The larger of two. -/
def Frac.max (a b : Frac) : Frac := if a.le b then b else a

/-- A fraction as a value with a sticky remainder, to at least 128 bits. -/
def Frac.val (a : Frac) : Val :=
  if a.num = 0 then .zero false
  else
    let k := 130 + Nat.log2 a.den
    let n := a.num.natAbs * 2 ^ k
    .num (decide (a.num < 0)) (n / a.den) (-(k : Int)) (n % a.den != 0)

/-- A fraction, an infinity or no number. -/
inductive Ext where
  | nan
  | inf (neg : Bool)
  | fin (q : Frac)
  deriving DecidableEq, Repr

/-- A value without its sticky remainder. -/
def Val.ext : Val → Ext
  | .nan _ => .nan
  | .inf n => .inf n
  | .num n m e _ => .fin (Frac.scale (if n then -(m : Int) else (m : Int)) e)

/-- A bit pattern of a floating type. -/
def Ty.ext (t : Ty) (x : BitVec 64) : Ext := (t.val x).ext

/-- The value to round. -/
def Ext.val : Ext → Val
  | .nan => .nan false
  | .inf n => .inf n
  | .fin q => q.val

/-- RoundTo of R226 for a value. -/
def Ext.round (t : Ty) (mode : Rm) (x : Ext) : BitVec 64 := (roundTo t mode true x.val).1

/-- The flags of RoundTo for a value (R226). -/
def Ext.flags (t : Ty) (mode : Rm) (x : Ext) : FpFlags := (roundTo t mode true x.val).2

/-- Whether a value is a fraction. -/
def Ext.finite : Ext → Bool
  | .fin _ => true
  | _ => false

/-- The fraction, 0 for the others. -/
def Ext.frac : Ext → Frac
  | .fin q => q
  | _ => ⟨0, 1⟩

/-- The sum; opposite infinities give NaN. -/
def Ext.add : Ext → Ext → Ext
  | .nan, _ | _, .nan => .nan
  | .inf a, .inf b => if a = b then .inf a else .nan
  | .inf a, .fin _ => .inf a
  | .fin _, .inf b => .inf b
  | .fin p, .fin q => .fin (p.add q)

/-- Whether a fraction is negative. -/
def Frac.isNeg (a : Frac) : Bool := decide (a.num < 0)

/-- The product; an infinity times zero gives NaN. -/
def Ext.mul : Ext → Ext → Ext
  | .nan, _ | _, .nan => .nan
  | .inf a, .inf b => .inf (a != b)
  | .inf a, .fin q => if q.num = 0 then .nan else .inf (a != q.isNeg)
  | .fin q, .inf a => if q.num = 0 then .nan else .inf (a != q.isNeg)
  | .fin p, .fin q => .fin (p.mul q)

/-- The quotient by a value that is not zero. -/
def Ext.div : Ext → Ext → Ext
  | .nan, _ | _, .nan => .nan
  | .inf _, .inf _ => .nan
  | .inf a, .fin q => .inf (a != q.isNeg)
  | .fin _, .inf _ => .fin ⟨0, 1⟩
  | .fin p, .fin q => .fin (p.div q)

/-- Whether a value is at most another; NaN compares with nothing. -/
def Ext.le : Ext → Ext → Bool
  | .nan, _ | _, .nan => false
  | .inf true, _ => true
  | .inf false, .inf b => !b
  | .inf false, .fin _ => false
  | .fin _, .inf b => !b
  | .fin p, .fin q => p.le q

/-- The larger of two values that are no NaN. -/
def Ext.max (a b : Ext) : Ext := if a.le b then b else a
/-- The smaller of two values that are no NaN. -/
def Ext.min (a b : Ext) : Ext := if a.le b then a else b

/-- A determinant of three columns. -/
def det3 (a b c : Nat → Frac) : Frac :=
  ((a 0).mul (((b 1).mul (c 2)).sub ((b 2).mul (c 1)))).sub
    (((a 1).mul (((b 0).mul (c 2)).sub ((b 2).mul (c 0)))).sub ((a 2).mul (((b 0).mul (c 1)).sub ((b 1).mul (c 0)))))

end Sys2Proof.Machine
end

