-- ==== Sys2Proof/Machine/Unit.lean ====
section
/-! DEFINITION. Graphics units: what a unit reads at the homes, feedback, and how an operation issues and ends (R366 to R369, R396, R582, R583). -/

namespace Sys2Proof.Machine

/-! ### Reads at the homes (R289, R367, R369) -/

/-- What a unit met in reading: the largest WTS and the lines. -/
structure Seen where
  top : Nat := 0
  lines : List Nat := []
  deriving DecidableEq, Repr

/-- Two reads together. -/
def Seen.and (a b : Seen) : Seen := ⟨max a.top b.top, a.lines ++ b.lines⟩

/-- What a unit's read gives: a walk to wait for, a line to wait for, a fault or poison, or bytes. -/
inductive UnitGot where
  | walk (va : Nat)
  | held (line : Nat)
  | bad
  | got (bs : List Byte) (seen : Seen)
  deriving DecidableEq, Repr

/-- Whether any sector of a range of physical bytes is poisoned. -/
def State.rangePoison (s : State) (pa n : Nat) : Bool := s.memPoison.any fun k => decide (k * 32 < pa + n) && decide (pa < k * 32 + 32)

/-- Who reads at the homes, and its `%now`. -/
structure Reader where
  who : WalkFor
  now : Stamp
  deriving DecidableEq, Repr

/-- A unit's operation as a reader. -/
def UnitOp.reader (o : UnitOp) : Reader := ⟨.unit o.id, o.now⟩

/-- A read inside one line. -/
def State.unitPart (s : State) (q : Reader) (va n : Nat) : UnitGot :=
  if 2 ^ 56 < va + n then .bad
  else match s.lookup va (who := q.who) with
    | none => .walk va
    | some (.leaf l) =>
      let pa := l.phys va
      if paSpace pa ≠ 0 ∨ (regLine (pa / 128)).isSome then .bad
      else if s.lineWaits q.now (pa / 128) 0 then .held (pa / 128)
      else if l.por || s.rangePoison pa n then .bad
      else .got (s.bytes pa n) ⟨(s.homeWts (pa / 128)).read s.ep, [pa / 128]⟩
    | some _ => .bad

/-- A read of any length, line by line. -/
def State.unitRead (s : State) (q : Reader) : Nat → Nat → Nat → UnitGot
  | 0, _, _ => .got [] {}
  | k + 1, va, n =>
    if n = 0 then .got [] {}
    else
      let m := min n (128 - va % 128)
      match s.unitPart q va m with
      | .got a t => match s.unitRead q k (va + m) (n - m) with
        | .got b u => .got (a ++ b) (t.and u)
        | x => x
      | x => x

/-- A read of `n` bytes. -/
def State.readUnit (s : State) (q : Reader) (va n : Nat) : UnitGot := s.unitRead q (n / 128 + 2) va n

/-- Whether the page of an address is resident: none while its translation is not held, an error for a malformed entry
(R391, R395, R399). -/
def State.resident (s : State) (who : WalkFor) (va : Nat) : Option (Except Unit Bool) :=
  if 2 ^ 56 ≤ va then some (.error ())
  else match s.lookup va (who := who) with
    | none => none
    | some (.leaf _) => some (.ok true)
    | some .malformed => some (.error ())
    | some _ => some (.ok false)

/-! ### Fields of bytes -/

/-- A little-endian field. -/
def fieldOf (bs : List Byte) (off n : Nat) : Nat := leNat ((bs.drop off).take n)

/-- Whether bytes from an offset are all zero. -/
def zeroFrom (bs : List Byte) (off n : Nat) : Bool := fieldOf bs off n == 0

/-! ### Operations -/

/-- Changes a unit operation of the core in focus. -/
def State.onUnit (s : State) (id : Nat) (f : UnitOp → UnitOp) : State :=
  s.onCore fun c => { c with units := c.units.map fun o => if o.id = id then f o else o }

/-- What an operation meets when it goes on: it waits for a walk or for a line, it has more to do, or it is done. -/
inductive UnitGo where
  | walk (va : Nat)
  | held (line : Nat)
  | more (o : UnitOp) (s : State)
  | done (o : UnitOp) (s : State)

/-- An operation notes what it read. -/
def UnitOp.saw (o : UnitOp) (x : Seen) : UnitOp := { o with top := max o.top x.top, used := o.used ++ x.lines }

/-- A unit operation issues: its destination rows become pending until they are written (R368). -/
def State.issueUnit (s : State) (o : UnitOp) (rows : List Nat) (after : Nat := 0) : State :=
  let (id, s) := s.newId
  let s := s.onCore fun c => { c with units := c.units ++ [{ o with id := id, gid := s.gid, now := c.now }] }
  let s := s.onGrp fun g => { g with pend := ⟨.op id, rows⟩ :: g.pend }
  if after = 0 then s.send (.unitResultWrite s.core.id id) else s.later after (.unitResultWrite s.core.id id)

/-- The results of an operation: the records first, then the rows, which are no longer pending (R289, R368). -/
def State.landUnit (s : State) (o : UnitOp) : State :=
  let s := s.onCore fun c => { c with units := c.units.filter (·.id != o.id) }
  let s := s.raiseNow (max s.nowTick o.top + 1)
  let s := s.dropOwned (.unit o.id)
  let s := o.recs.foldl (fun s r => s.onCore (·.setBytes (s.local r.1) r.2.length (leNat r.2) false)) s
  let s := s.writeLanes (o.outs.map fun w => ⟨w.1, w.2.1, w.2.2, false⟩)
  let s := o.unis.foldl (fun s w => s.setElem (s.sAddr w.1) w.2 false) s
  ((s.raise o.flags).onGrp fun g => { g with pend := g.pend.filter fun p => p.who != .op o.id }).pump

/-! ### Feedback (R396) -/

/-- The place of a word or entry that an append writes: a page in memory that may be written, and no poisoned sector; none for
an append that is skipped. -/
def State.appendPlace (s : State) (who : WalkFor) (va n : Nat) : UnitGot ⊕ Option Nat :=
  if 2 ^ 56 < va + n then .inr none
  else match s.lookup va (who := who) with
    | none => .inl (.walk va)
    | some (.leaf l) =>
      let pa := l.phys va
      if !l.w || paSpace pa != 0 || (regLine (pa / 128)).isSome || s.rangePoison pa n then .inr none else .inr (some pa)
    | some _ => .inr none

/-- The 16 bytes of a feedback entry. -/
def Feedback.entry (f : Feedback) (n : Nat) : Nat :=
  f.va % 2 ^ 56 + f.kind % 16 * 2 ^ 84 + f.level % 256 * 2 ^ 88 + n % 2 ^ 32 * 2 ^ 96

/-- Writes bytes at physical places, line by line, for a unit. -/
def State.unitWrite (s : State) (o : UnitOp) (ws : List EngWrite) : Nat × State :=
  (writeLines ws).foldl (fun (a : Nat × State) line =>
    let r := a.2.engWrite (.engine s.core.id o.id) o.now (a.2.linePart line ws)
    (max a.1 r.1, r.2)) (0, s)

/-- The first append that is due goes on: the count, then the entry. -/
def State.appendStep (s : State) (o : UnitOp) (base size count : Nat) (f : Feedback) (rest : List Feedback) : UnitGo :=
  match f.n with
  | none =>
    if count % 8 ≠ 0 then .more { o with appends := rest } s
    else match s.appendPlace (.unit o.id) count 8 with
      | .inl (.walk va) => .walk va
      | .inl _ => .held 0
      | .inr none => .more { o with appends := rest } s
      | .inr (some pa) =>
        if s.lineWaits o.now (pa / 128) then .held (pa / 128)
        else
          let old := s.readNat pa 8
          let r := s.engAtomic (.engine s.core.id o.id) o.now true pa (· + 1) false
          .more ({ o with appends := { f with n := some old } :: rest }.saw ⟨r.1, []⟩) r.2
  | some n =>
    let va := base + 16 * (n % size)
    if size = 0 then .more { o with appends := rest } s
    else
      let ps := (List.range 16).map fun k => s.appendPlace (.unit o.id) (va + k) 1
      let walks := ps.filterMap fun p => match p with | .inl (.walk a) => some a | _ => none
      let pas := ps.filterMap fun p => match p with | .inr (some pa) => some pa | _ => none
      match walks with
      | a :: _ => .walk a
      | [] =>
        if pas.length < 16 then .more { o with appends := rest } s
        else match pas.find? fun pa => s.lineWaits o.now (pa / 128) with
        | some pa => .held (pa / 128)
        | none =>
          let ws := pas.mapIdx fun k pa => EngWrite.mk (pa * 8) 8 (BitVec.ofNat 64 (f.entry n / 256 ^ k % 256)) false
          let r := s.unitWrite o ws
          .more ({ o with appends := rest }.saw ⟨r.1, []⟩) r.2

/-! ### Reads at issue (R289, R367) -/

/-- An instruction that reads ranges at issue issues once the walks of their pages are done and their homes answer. `vas` are its
addresses, whose held results are used up. -/
def State.onceRead (s : State) (g : UnitGot) (vas : List Nat) (k : State → State) : State :=
  match g with
  | .walk va => (s.askWalks [va / 128 * 128] 4).waitBefore (.walks s.core.id)
  | .held l => (s.askWay l).waitBefore (.line l)
  | .got _ x => k ({ (s.dropHeld vas).useLines x.lines with fresh := s.fresh + 2 ^ 17 })
  | .bad => k (s.dropHeld vas)

/-! ### Descriptor records (R367) -/

/-- Whether a record may name a descriptor. -/
def descOk (r : BitVec 128) : Bool := recOk r && recEsz r == 16 && decide (8 ≤ recExtent r)

/-- What a read of a descriptor gives: its bytes, none when the read faults or meets poison. -/
def UnitGot.bytes : UnitGot → List Byte
  | .got bs _ => bs
  | _ => []

/-- The largest WTS that a read returned. -/
def UnitGot.top : UnitGot → Nat
  | .got _ x => x.top
  | _ => 0

/-- The read of a descriptor at issue. -/
def State.descRead (s : State) (va : Nat) : UnitGot := s.readUnit ⟨s.me, s.core.now⟩ va 128

/-- An operation issues with the descriptor that is read at its issue (R367). -/
def State.issueDesc (s : State) (desc : Nat) (o : UnitOp) (rows : List Nat) (k : State → State) : State :=
  let g := s.descRead desc
  s.onceRead g [desc, desc + 127] fun s => k (s.issueUnit { o with bytes := some g.bytes, top := g.top } rows)

/-- A per-lane unit instruction (R582): POISON of the lane's registers, the record, then the hit-record area; the lanes that pass
issue as one operation, and the others park. `reads` says that it reads its descriptor: a query keeps the one that it started with. -/
def State.unitLanes (s : State) (i : Instr) (f : GF) (us : List Use) (area : Option Use) (op : UnitOp) (reads : Bool := true) : State :=
  s.frame i fun s =>
    if s.active.isEmpty then s.next
    else
      let r := s.record f.brec.toNat
      let a := (area.map fun u => s.fetchUse u 0).getD (0, false)
      let base := uval 32 a.1
      let bad : Option Trap :=
        if a.2 then some (poisonTrap 1)
        else if r.2 then some (poisonTrap 6)
        else if !descOk r.1 then some { kind := 5 }
        else if area.isSome && (base % 32 != 0 || decide (s.team.lrec.areaRow * 128 < base + 1024)) then some (trapLocal 7 5 base)
        else none
      let rs := s.active.map fun l => (l, s.sources us l)
      let judge (x : Nat × List Src) : Option Trap := if x.2.any (·.2) then some (poisonTrap 1) else bad
      let rows := s.dstRows i
      let ok := rs.filter fun x => (judge x).isNone
      let trapped := rs.filterMap fun x => (judge x).map fun t => (x.1, x.2, t)
      let o := { op with area := base, todo := ok.map fun x => (x.1, x.2.map (·.1)) }
      if ok.isEmpty then s.proceed trapped rows
      else if reads then s.issueDesc (recBase r.1) o rows (·.proceed trapped rows)
      else (s.issueUnit o rows).proceed trapped rows

end Sys2Proof.Machine
end

