-- ==== Sys2Proof/Machine/Raster.lean ====
section
/-! DEFINITION. The pass descriptor, sample positions, and RAST on a quad's edge walker (R370, R371, R382 to R384, R581, R582). -/

namespace Sys2Proof.Machine

/-! ### The pass descriptor (R370, R371) -/

/-- A pass descriptor. -/
structure PassDesc where
  binmap : Nat
  tw : Nat
  th : Nat
  smp : Nat
  ways : Nat
  granks : Nat
  spill : Nat
  sarea : Nat
  deriving DecidableEq, Repr

/-- The fields of a descriptor's 128 bytes. -/
def PassDesc.parse (bs : List Byte) : PassDesc :=
  { binmap := fieldOf bs 0 8, tw := fieldOf bs 8 1, th := fieldOf bs 9 1, smp := fieldOf bs 10 1, ways := fieldOf bs 11 1
    granks := fieldOf bs 12 4, spill := fieldOf bs 0x10 8, sarea := fieldOf bs 0x18 4 }

/-- The samples of a pixel. -/
def PassDesc.samples (p : PassDesc) : Nat := 2 ^ p.smp

/-- The number of tiles. -/
def PassDesc.tileCount (p : PassDesc) : Nat := p.tw * p.th

/-- The bytes of a sample area. -/
def PassDesc.areaBytes (p : PassDesc) : Nat := 8192 * p.samples

/-- Whether a descriptor breaks R370. -/
def PassDesc.bad (p : PassDesc) (bs : List Byte) (r : LaunchRecord) : Bool :=
  p.tw == 0 || p.th == 0 || decide (3 < p.smp) || p.ways == 0 || decide (4 < p.ways) || p.granks == 0
    || decide (r.teams < p.granks) || p.spill % 65536 != 0 || p.sarea % 128 != 0
    || decide (r.tmRows * 128 < p.sarea + p.areaBytes) || decide (2 ^ 56 < p.binmap + p.tileCount)
    || decide (2 ^ 56 < p.spill + p.tileCount * (p.areaBytes + 128)) || !zeroFrom bs 0x1C 100

/-- A byte as the binner or the edge walker reads it at issue: a sparse hole reads as zero (R258), and one that cannot be read, or is
poisoned, is a free value, the `k`th of the instruction (R267, log entry 63). -/
def State.passByte (s : State) (k va : Nat) : Byte :=
  let free : Byte := (Config.freeBits (s.fresh + k)).setWidth 8
  match s.lookup va with
  | some (.leaf l) =>
    let pa := l.phys va
    if paSpace pa ≠ 0 || (regLine (pa / 128)).isSome || l.por || s.rangePoison pa 1 then free else s.byte pa
  | some .sparse => 0
  | _ => free

/-- The lines of device memory that virtual addresses reach. -/
def State.passLines (s : State) (vas : List Nat) : List Nat :=
  (vas.filterMap fun va => match s.lookup va with
    | some (.leaf l) => let pa := l.phys va; if paSpace pa ≠ 0 || (regLine (pa / 128)).isSome then none else some (pa / 128)
    | _ => none).eraseDups

/-- The addresses of a virtual range, one in each line. -/
def rangeLines (va n : Nat) : List Nat := (List.range ((va + n + 127) / 128 - va / 128)).map fun k => max va ((va / 128 + k) * 128)

/-- The bytes of a range that an instruction reads at issue (R369): they wait for walks or for a line, or they are there with the lines and
the largest WTS among them. `k` numbers the first byte. -/
def State.passRange (s : State) (k va n : Nat) : UnitGot :=
  let vas := rangeLines va n
  match vas.find? fun a => (s.lookup a).isNone with
  | some a => .walk a
  | none =>
    let ls := s.passLines vas
    match ls.find? fun l => s.lineWaits s.core.now l 0 with
    | some l => .held l
    | none => .got ((List.range n).map fun j => s.passByte (k + j) (va + j)) ⟨ls.foldl (fun t l => max t ((s.homeWts l).read s.ep)) 0, ls⟩

/-- The bytes of the pass descriptor, or what is waited for. -/
def State.passBytes (s : State) : UnitGot :=
  let a := s.team.lrec.pass
  if a = 0 ∨ 2 ^ 56 < a + 128 then .bad else s.passRange 0 a 128

/-- What the pass descriptor of the grid in focus reads as: its bytes, the WTS with which they were read, and the descriptor; none when
it breaks R370 or cannot be read. -/
structure PassRead where
  bytes : List Byte
  top : Nat
  desc : Option PassDesc
  deriving DecidableEq, Repr

/-- The pass descriptor from a read of its bytes. -/
def State.passRead (s : State) (g : UnitGot) : PassRead :=
  match g with
  | .got bs t => ⟨bs, t.top, let p := PassDesc.parse bs; if p.bad bs s.team.lrec then none else some p⟩
  | _ => ⟨[], 0, none⟩

/-- The addresses of the pass descriptor, one in each line. -/
def State.passEnds (s : State) : List Nat := rangeLines s.team.lrec.pass 128

/-- An instruction that reads the pass descriptor. -/
def State.withPass (s : State) (k : State → PassRead → State) : State :=
  s.onceRead s.passBytes s.passEnds fun t => k t (s.passRead s.passBytes)

/-! ### Sample positions (R382) -/

/-- The position of sample `k` in sixteenths of a pixel. -/
def samplePos (smp k : Nat) : Nat × Nat :=
  match smp with
  | 0 => (8, 8)
  | 1 => [(4, 4), (12, 12)].getD k (0, 0)
  | 2 => [(6, 2), (14, 6), (2, 10), (10, 14)].getD k (0, 0)
  | _ => [(9, 5), (7, 11), (13, 9), (5, 3), (3, 13), (1, 7), (11, 15), (15, 1)].getD k (0, 0)

/-- The point of position `q` in the walk order of a tile (R382, R384). -/
def walkPoint (p : PassDesc) (tile q : Nat) : Frac × Frac :=
  let k := q % p.samples
  let x := q / p.samples % 32
  let y := q / p.samples / 32
  let at' := samplePos p.smp k
  (⟨((32 * (tile % p.tw) + x) * 16 + at'.1 : Nat), 16⟩, ⟨((32 * (tile / p.tw) + y) * 16 + at'.2 : Nat), 16⟩)

/-! ### Coverage and interpolation (R383) -/

/-- A vertex: x and y, then z and w. -/
structure Vertex where
  x : Ext
  y : Ext
  z : Ext
  w : Ext
  deriving DecidableEq, Repr

/-- E_ab(p) (R383). -/
def edge (a b : Vertex) (p : Frac × Frac) : Frac :=
  ((b.x.frac.sub a.x.frac).mul (p.2.sub a.y.frac)).sub ((b.y.frac.sub a.y.frac).mul (p.1.sub a.x.frac))

/-- Whether a value of E counts as covered on an edge. -/
def edgeCovers (a b : Vertex) (e : Frac) : Bool :=
  let dy := b.y.frac.sub a.y.frac
  let dx := b.x.frac.sub a.x.frac
  decide (0 < e.num) || (e.num == 0 && (dy.isNeg || (dy.num == 0 && decide (0 < dx.num))))

/-- A primitive: its three vertices. -/
abbrev Tri := Vertex × Vertex × Vertex

/-- Whether every coordinate is finite. -/
def Tri.finite (t : Tri) : Bool := [t.1, t.2.1, t.2.2].all fun v => v.x.finite && v.y.finite

/-- A of R383. -/
def Tri.area (t : Tri) : Frac := edge t.1 t.2.1 (t.2.2.x.frac, t.2.2.y.frac)

/-- Whether a point is covered. -/
def Tri.covers (t : Tri) (p : Frac × Frac) : Bool :=
  let a := t.area
  let v0 := t.1
  let v1 := if a.isNeg then t.2.2 else t.2.1
  let v2 := if a.isNeg then t.2.1 else t.2.2
  t.finite && a.num != 0 && edgeCovers v0 v1 (edge v0 v1 p) && edgeCovers v1 v2 (edge v1 v2 p) && edgeCovers v2 v0 (edge v2 v0 p)

/-- λ1, λ2 and z at a point, with NV when Σω = 0 and the flags of each RoundTo (R226). -/
def Tri.interp (t : Tri) (p : Frac × Frac) : List (BitVec 64) × FpFlags :=
  let e0 := Ext.fin (edge t.2.1 t.2.2 p)
  let e1 := Ext.fin (edge t.2.2 t.1 p)
  let e2 := Ext.fin (edge t.1 t.2.1 p)
  let w0 := t.1.w.mul e0
  let w1 := t.2.1.w.mul e1
  let w2 := t.2.2.w.mul e2
  let sum := (w0.add w1).add w2
  let none' := sum.finite && sum.frac.num == 0
  let l (w : Ext) : BitVec 64 := if none' then Ty.nan32 else (w.div sum).round .f32 .rne
  let lf (w : Ext) : FpFlags :=
    if none' then fNV else (w.div sum).flags .f32 .rne ||| invalid (w.div sum) [t.1.w, t.2.1.w, t.2.2.w]
  let z := (((e0.mul t.1.z).add (e1.mul t.2.1.z)).add (e2.mul t.2.2.z)).div (.fin t.area)
  ([l w1, l w2, z.round .f32 .rne], lf w1 ||| lf w2 ||| z.flags .f32 .rne ||| invalid z [t.1.z, t.2.1.z, t.2.2.z])
where
  /-- The canonical NaN of binary32. -/
  Ty.nan32 : BitVec 64 := BitVec.ofNat 64 Ty.f32.fmt.nanBits
  /-- NV for a result that is NaN though no source is (R224). -/
  invalid (x : Ext) (srcs : List Ext) : FpFlags := flagIf (x == .nan && srcs.all (· != .nan)) fNV

/-- The packet's vertices from its words (R373). -/
def packetTri (wide : Bool) (ws : List Word) : Tri :=
  let w (k : Nat) : BitVec 64 := (ws.getD k 0).setWidth 64
  let d (k : Nat) : BitVec 64 := w k + w (k + 1) * 2 ^ 32
  let v (i : Nat) : Vertex :=
    if wide then ⟨Ty.f64.ext (d (6 * i)), Ty.f64.ext (d (6 * i + 2)), Ty.f32.ext (w (6 * i + 4)), Ty.f32.ext (w (6 * i + 5))⟩
    else ⟨Ty.f32.ext (w (4 * i)), Ty.f32.ext (w (4 * i + 1)), Ty.f32.ext (w (4 * i + 2)), Ty.f32.ext (w (4 * i + 3))⟩
  (v 0, v 1, v 2)

/-- Whether a depth or a w of a packet is a signalling NaN (R224). -/
def packetSignals (wide : Bool) (ws : List Word) : Bool :=
  (List.range 3).any fun i => (List.range 2).any fun k =>
    Ty.f32.val ((ws.getD ((if wide then 6 * i + 4 else 4 * i + 2) + k) 0).setWidth 64) == .nan true

/-! ### RAST (R383, R384) -/

/-- The covered positions from `q` on in walk order, up to `n` of them, and the position after the last one tested. -/
def coveredFrom (t : Tri) (p : PassDesc) (tile : Nat) : Nat → Nat → Nat → List Nat
  | 0, _, _ => []
  | _, _, 0 => []
  | k + 1, q, n + 1 =>
    if t.covers (walkPoint p tile q) then q :: coveredFrom t p tile k (q + 1) n else coveredFrom t p tile k (q + 1) (n + 1)

/-- The result word of a covered position. -/
def sampleWord (t : Tri) (p : PassDesc) (q : Nat) : Nat :=
  let k := q % p.samples
  let x := q / p.samples % 32
  let y := q / p.samples / 32
  x + y * 2 ^ 5 + k * 2 ^ 10 + b2n (!t.area.isNeg) * 2 ^ 30 + 2 ^ 31

/-- What RAST gives: the words of each active lane, the token and the flags. -/
def rastOut (t : Tri) (p : PassDesc) (tile tok : Nat) (lanes : List Nat) : List (Nat × List Word) × Nat × FpFlags :=
  let total := 1024 * p.samples
  let q0 := tok % 2 ^ 14
  let found := if bit tok 31 then [] else coveredFrom t p tile (total - q0) q0 (lanes.length + 1)
  let given := found.take lanes.length
  let next := match given.getLast? with
    | some q => q + 1
    | none => q0
  let words (q : Nat) : List Word × FpFlags :=
    let r := t.interp (walkPoint p tile q)
    (BitVec.ofNat 32 (sampleWord t p q) :: r.1.map (BitVec.setWidth 32), r.2)
  let outs := lanes.zipIdx.map fun l => (l.1, ((given[l.2]?).map fun q => (words q).1).getD [0, 0, 0, 0])
  let fl := given.foldl (fun f q => f ||| (words q).2) 0
  (outs, if found.length ≤ lanes.length then 2 ^ 31 else next, fl)

/-- Whether a token breaks R384. -/
def tokenBad (p : PassDesc) (tok : Nat) : Bool := bits tok 30 14 != 0 || decide (1024 * p.samples ≤ tok % 2 ^ 14)

/-- The uniform registers that RAST reads: the packet's vertices, the token and the tile index. -/
def rastUses (f : GF) : List Use :=
  (List.range (if f.ty = 0 then 18 else 12)).map (fun k => uS (.s (BitVec.ofNat 6 (f.a.reg + 4 + k)))) ++ [uS f.b, uS f.c]

/-- The rows that RAST leaves pending: its results and its token (R583). -/
def rastRows (f : GF) : List Nat := (List.range 4).map (f.dst.reg + ·) ++ [256 + f.b.reg]

/-- RAST of words under a pass descriptor (R382 to R384): the results are written 8 clk after the walker takes the instruction,
and its flags are raised with them (log entry 74). -/
def State.rastIssue (s : State) (f : GF) (p : PassDesc) (top : Nat) (ws : List Word) : State :=
  let r := rastOut (packetTri (f.ty == 0) ws) p (ws.getD (ws.length - 1) 0).toNat (ws.getD (ws.length - 2) 0).toNat s.active
  let outs := (r.1.map fun x => x.2.mapIdx fun k w => (f.dst.reg + k, x.1, w)).flatten
  let given := r.1.any fun x => x.2.getD 0 0 != 0
  s.issueUnit { id := 0, gid := s.gid, kind := .rast, dst := f.dst.reg, outs := outs
                unis := [(f.b.reg, BitVec.ofNat 32 r.2.1)], flags := r.2.2 ||| flagIf (given && packetSignals (f.ty == 0) ws) fNV, top := top } (rastRows f) 8

/-- RAST (R382 to R384, R582). -/
def execRast (f : GF) (s : State) : Out :=
  .next (s.frame (.rast f) fun s =>
    if s.active.isEmpty then s.next
    else
      let vs := (rastUses f).map fun u => s.fetchUse u 0
      if vs.any (·.2) then s.trapActive (poisonTrap 1) (rastRows f)
      else s.withPass fun s r =>
        let ws : List Word := vs.map fun v => v.1.setWidth 32
        match r.desc with
        | none => s.trapActive { kind := 5 } (rastRows f)
        | some p =>
          if tokenBad p (ws.getD (ws.length - 2) 0).toNat then s.trapActive { kind := 5 } (rastRows f)
          else (s.rastIssue f p r.top ws).next)

end Sys2Proof.Machine
end

