-- ==== Sys2Proof/Machine/Binner.lean ====
section
/-! DEFINITION. Render passes: primitive packets, draw closes, the binner of a die and BINGET (R370 to R381, R436, R502 to R504). -/

namespace Sys2Proof.Machine

/-! ### The bin map (R370, R372) -/

/-- The die that owns each tile; none when a byte names an absent die or one outside the grid's region (R372). -/
def State.binMap (s : State) (bs : List Byte) : Option (List Nat) :=
  bs.mapM fun b => if s.dieAbsent b.toNat || !has s.team.lrec.regionDies b.toNat then none else some b.toNat

/-- An instruction that reads the pass descriptor and the bin map at issue. -/
def State.withMap (s : State) (k : State → PassRead → Option (PassDesc × List Nat) → State) : State :=
  let r := s.passRead s.passBytes
  match r.desc with
  | none => s.onceRead s.passBytes s.passEnds fun t => k t r none
  | some p =>
    let g := s.passRange 128 p.binmap p.tileCount
    let map := match g with
      | .got bs _ => (s.binMap bs).map fun m => (p, m)
      | _ => none
    match s.passBytes, g with
    | .got bs x, .got cs y => s.onceRead (.got (bs ++ cs) (x.and y)) (s.passEnds ++ rangeLines p.binmap p.tileCount) fun t => k t r map
    | _, _ => s.onceRead g [] fun t => k t r map

/-! ### Passes (R372) -/

/-- The pass that a die's binner serves. -/
def Die.livePass (d : Die) : Option Pass := d.passes.find? (·.live)

/-- Whether a die's binner serves another grid. -/
def State.binnerBusy (s : State) (d : Nat) (g : GridId) : Bool := (s.die d).livePass.any fun p => p.grid != g

/-- Changes the pass of a grid at a die. -/
def State.onPass (s : State) (d : Nat) (g : GridId) (f : Pass → Pass) : State :=
  s.onDie d fun x => { x with passes := x.passes.map fun p => if p.grid = g then f p else p }

/-- The lines of a die that do not fit beside the ways of the bins are evicted (R274, R372). -/
def State.evictFor (s : State) (d ways : Nat) : State :=
  (s.homes.filter fun h => lineDie h.line == d).reverse.foldl (fun s h =>
    let mine := s.homes.filter fun x => lineDie x.line == d && lineChannel x.line == lineChannel h.line && setOfLine x.line == setOfLine h.line
    if 16 - ways < mine.length ∧ h.evictable then s.evictHome h else s) s

/-- Requests that wait for a way of a die's slices are handled again. -/
def State.waysBack (s : State) (d : Nat) : State :=
  let mine := (s.slices.filter fun (x : Slice) => x.die == d).map (·.waiting)
  let s' : State := { s with slices := s.slices.map fun (x : Slice) => if x.die = d then { x with waiting := [] } else x }
  s'.requeue mine.flatten

/-- The first BINPUT or BINGET of a grid that reaches an idle binner opens its pass there (R372). -/
def State.openPass (s : State) (p : PassDesc) (map : List Nat) (g : GridId) (d : Nat) : State :=
  if (s.die d).passes.any (fun x => x.grid == g) || (s.die d).livePass.isSome then s
  else
    let tiles := (map.zipIdx.filter fun x => x.1 == d).map fun x => ({ num := x.2 } : BinTile)
    let pass : Pass := { grid := g, live := !tiles.isEmpty, ways := p.ways, granks := p.granks, tiles := tiles }
    if tiles.isEmpty then s.onDie d fun x => { x with passes := x.passes ++ [pass] }
    else (s.onDie d fun x => { x with passes := x.passes ++ [pass], binWays := p.ways }).evictFor d p.ways

/-- A pass is no longer served: its ways hold lines again. -/
def State.endServing (s : State) (d : Nat) : State := (s.onDie d fun x => { x with binWays := 0 }).waysBack d

/-- A pass closes at a die once every one of its tiles is DONE (R372). -/
def State.closeIfDone (s : State) (d : Nat) (g : GridId) : State :=
  if (s.die d).passes.any fun p => p.grid == g && p.live && p.tiles.all (·.st == .done) then
    (s.onPass d g fun p => { p with live := false }).endServing d
  else s

/-- The passes of a grid close (R372, R436). -/
def State.closePass (s : State) (g : GridId) : State :=
  (List.range 40).foldl (fun s d =>
    if (s.die d).passes.any (·.grid == g) then
      let live := (s.die d).passes.any fun p => p.grid == g && p.live
      let s := s.onDie d fun x => { x with passes := x.passes.filter (·.grid != g) }
      if live then s.endServing d else s
    else s) s

/-- The tiles that a team holds are ABANDONED when it ends (R376). -/
def State.abandon (s : State) (t : TeamId) : State :=
  let tile (b : BinTile) : BinTile := if b.st = .attached ∧ b.holder = some t.rank then { b with st := .abandoned, holder := none } else b
  { s with dies := s.dies.map fun (d : Die) => { d with passes := d.passes.map fun p =>
      if p.grid = t.grid then { p with tiles := p.tiles.map tile } else p } }

/-! ### What a binner holds (R376 to R378) -/

/-- The draw index of a packet. -/
def PrimPacket.draw (p : PrimPacket) : Nat := bits p.token.toNat 63 48
/-- The bin entries of a packet. -/
def PrimPacket.entries (p : PrimPacket) : Nat := if p.wide then 2 else 1

/-- The last draw that a rank closed. -/
def Pass.closeOf (p : Pass) (r : Nat) : Option Nat := (p.closes.find? (·.1 == r)).map (·.2)

/-- The watermark D: the largest draw index that every geometry rank has closed, or none (R376). -/
def Pass.mark (p : Pass) : Option Nat :=
  (List.range p.granks).foldl (fun m r => match m, p.closeOf r with
    | some a, some b => some (min a b)
    | _, _ => none) (some 0xFFFF)

/-- Whether geometry has ended (R376). -/
def Pass.geometryOver (p : Pass) : Bool := p.mark == some 0xFFFF

/-- The releasable packets of a tile (R376). -/
def Pass.releasable (p : Pass) (t : Nat) : List PrimPacket :=
  match p.mark with
  | none => []
  | some d => p.bin.filter fun x => has x.tiles t && decide (PrimPacket.draw x ≤ d)

/-- The packet with the least TOKEN, the first that arrived among equals (R377). -/
def leastPacket : List PrimPacket → Option PrimPacket
  | [] => none
  | x :: xs => match leastPacket xs with
    | none => some x
    | some y => some (if x.token ≤ y.token then x else y)

/-- Whether a packet finds bin entries: each way of the die's 64 slices has 256 lines of two entries (R372, R377). -/
def Pass.fits (p : Pass) (x : PrimPacket) : Bool :=
  decide ((p.bin.map PrimPacket.entries).sum + PrimPacket.entries x ≤ p.ways * 64 * 256 * 2)

/-- A draw close (R375, R376): once geometry has ended every tile that collects may be attached. -/
def Pass.close (p : Pass) (rank draw : Nat) : Pass :=
  let p := { p with closes := (rank, max draw ((p.closeOf rank).getD 0)) :: p.closes.filter (·.1 != rank) }
  if p.geometryOver then
    { p with tiles := p.tiles.map fun t => if t.st = .open ∨ t.st = .spilled then { t with st := .avail } else t }
  else p

/-- Takes what waits, in order; what a rank sent stays behind a packet of that rank that finds no entry (R374, R378). -/
def Pass.takeWaiting (p : Pass) : Pass :=
  p.waiting.foldl (fun (a : Pass) m =>
    let behind (r : Nat) : Bool := a.waiting.any fun x => match x with
      | .binnerPacketArrive y => PrimPacket.rank y.packet == r
      | .binnerCloseArrive y => y.rank == r
      | _ => false
    match m with
    | .binnerPacketArrive y =>
      if behind (PrimPacket.rank y.packet) || !a.fits y.packet then { a with waiting := a.waiting ++ [m] }
      else { a with bin := a.bin ++ [y.packet] }
    | .binnerCloseArrive y => if behind y.rank then { a with waiting := a.waiting ++ [m] } else a.close y.rank y.draw
    | _ => a) { p with waiting := [] }

/-- The tile to flush early: an OPEN or SPILLED one with the most releasable packets, ties to the lowest index (R378). -/
def Pass.flushed (p : Pass) : Option Nat :=
  (p.tiles.foldl (fun (b : Option (Nat × Nat)) t =>
    let n := (p.releasable t.num).length
    let more := match b with
      | some x => decide (x.2 < n) || (x.2 == n && decide (t.num < x.1))
      | none => decide (0 < n)
    if (t.st == .open || t.st == .spilled) && more then some (t.num, n) else b) none).map (·.1)

/-- Chooses a tile for early flush while a packet waits for an entry (R378). -/
def Pass.relieve (p : Pass) : Pass :=
  let stuck := p.waiting.any fun m => match m with | .binnerPacketArrive _ => true | _ => false
  match stuck, p.flushed with
  | true, some t => { p with tiles := p.tiles.map fun x => if x.num = t then { x with st := .avail, early := true } else x }
  | _, _ => p

/-- A message reaches a binner. -/
def State.binArrive (s : State) (d : Nat) (g : GridId) (m : Instr) : State :=
  s.onPass d g fun p => if p.live then ({ p with waiting := p.waiting ++ [m] } : Pass).takeWaiting.relieve else p

/-- BINNER_PACKET_ARRIVE (R377, R378). -/
def execBinnerPacketArrive (m : BinMsg) (s : State) : Out :=
  .next (s.onTime m.die m.packet.now (.binnerPacketArrive m) fun s => s.binArrive m.die m.grid (.binnerPacketArrive m))

/-- BINNER_CLOSE_ARRIVE (R375, R376). -/
def execBinnerCloseArrive (m : CloseMsg) (s : State) : Out := .next (s.binArrive m.die m.grid (.binnerCloseArrive m))

/-! ### BINPUT (R373 to R375, R503, R504) -/

/-- The registers of a packet: its vertices, then the primitive and draw indices, then the attribute handle. -/
def binputUses (f : GF) : List Use :=
  (List.range (if f.flags.getLsbD 1 then 18 else 12)).map (fun k => uV (.v (BitVec.ofNat 8 (f.a.reg + k))))
    ++ [uV f.b, uV (.v (BitVec.ofNat 8 (f.b.reg + 1))), uV f.c]

/-- The tiles that a range of a coordinate touches, clipped to the screen (R374). -/
def tileSpan (xs : List Frac) (n : Nat) : Option (Nat × Nat) :=
  match xs with
  | [] => none
  | x :: rest =>
    let lo := ((rest.foldl Frac.min x).div ⟨32, 1⟩).floor
    let hi := ((rest.foldl Frac.max x).div ⟨32, 1⟩).floor
    if hi < 0 ∨ (n : Int) ≤ lo then none else some ((max lo 0).toNat, (min hi (n - 1)).toNat)

/-- What a lane of BINPUT sends: nothing with NV, or the packets by die (R373, R374). -/
def lanePackets (p : PassDesc) (map : List Nat) (rank : Nat) (now : Stamp) (wide : Bool) (vs : List (BitVec 64)) : Bool × List (Nat × PrimPacket) :=
  let n := if wide then 18 else 12
  let ws : List Word := vs.map (BitVec.setWidth 32)
  let t := packetTri wide ws
  let xs := [t.1.x, t.2.1.x, t.2.2.x]
  let ys := [t.1.y, t.2.1.y, t.2.2.y]
  if !((xs ++ ys).all Ext.finite) then (true, [])
  else match tileSpan (xs.map Ext.frac) p.tw, tileSpan (ys.map Ext.frac) p.th with
    | some (x0, x1), some (y0, y1) =>
      let token := bits (ws.getD (n + 1) 0).toNat 15 0 * 2 ^ 48 + rank % 2 ^ 24 * 2 ^ 24 + bits (ws.getD n 0).toNat 23 0
      let tiles := ((List.range (y1 - y0 + 1)).map fun j => (List.range (x1 - x0 + 1)).map fun i => (y0 + j) * p.tw + x0 + i).flatten
      let bytes := leBytes 8 token ++ leBytes 4 ((ws.getD (n + 2) 0).toNat % 2 ^ 31 + b2n wide * 2 ^ 31)
        ++ [BitVec.ofNat 8 x0, BitVec.ofNat 8 y0, BitVec.ofNat 8 x1, BitVec.ofNat 8 y1]
        ++ ((ws.take n).map fun w => leBytes 4 w.toNat).flatten ++ List.replicate (if wide then 40 else 0) 0
      let owner (t : Nat) : Nat := map.getD t 0
      (false, ((tiles.map owner).eraseDups).map fun d =>
        (d, { token := BitVec.ofNat 64 token, wide := wide, bytes := bytes, tiles := tiles.filter fun t => owner t == d, now := now }))
    | _, _ => (false, [])

/-- The draw index of a lane of BINPUT. -/
def laneDraw (wide : Bool) (vs : List Src) : Nat := bits ((vs.getD (if wide then 19 else 13) (0, false)).1).toNat 15 0

/-- Whether a draw index is out of order for the team in focus (R375). -/
def State.drawLate (s : State) (p : PassDesc) (draw : Nat) (close : Bool) : Bool :=
  decide (p.granks ≤ s.team.id.rank) || s.team.closed.any fun c => if close then decide (draw < c) else decide (draw ≤ c)

/-- What a lane of BINPUT does: it traps with POISON, BOUNDS or ORDER, or it gives packets, with NV when it gives none (R504). -/
def State.binLane (s : State) (wide : Bool) (pm : Option (PassDesc × List Nat)) (vs : List Src) : Option Trap × Bool × List (Nat × PrimPacket) :=
  if vs.any (·.2) then (some (poisonTrap 1), false, [])
  else match pm with
    | none => (some { kind := 5 }, false, [])
    | some (p, m) =>
      let out := lanePackets p m s.team.id.rank s.core.now wide (vs.map (·.1))
      if s.drawLate p (laneDraw wide vs) false || out.2.any (fun y => s.binnerBusy y.1 s.team.id.grid) then (some { kind := 0x0C }, false, [])
      else (none, out)

/-- Packets go to their dies after a release (R374): each die opens the pass that it does not have yet. -/
def State.sendPackets (s : State) (p : PassDesc) (m : List Nat) (msgs : List (Nat × PrimPacket)) (nv : Bool) : State :=
  let g := s.team.id.grid
  let s := ((msgs.map fun (y : Nat × PrimPacket) => y.1).eraseDups).foldl (fun (s : State) d => s.openPass p m g d) s
  let s := s.raise (flagIf nv fNV)
  (s.onGrp Group.effect).release .panel true s.earlier (.sends (msgs.map fun (y : Nat × PrimPacket) => .binnerPacketArrive ⟨y.1, g, y.2⟩))

/-- The packet form of BINPUT (R374, R504). -/
def State.binput (s : State) (f : GF) : State :=
  let rs := s.active.map fun l => (l, s.sources (binputUses f) l)
  s.withMap fun s _ pm =>
    let js := rs.map fun x => (x, s.binLane (f.flags.getLsbD 1) pm x.2)
    let trapped := js.filterMap fun x => x.2.1.map fun t => (x.1.1, x.1.2, t)
    let s := match pm with
      | some (p, m) => if trapped.length = js.length then s
        else s.sendPackets p m (js.map fun (x : (Nat × List Src) × Option Trap × Bool × List (Nat × PrimPacket)) => x.2.2.2).flatten (js.any fun (x : (Nat × List Src) × Option Trap × Bool × List (Nat × PrimPacket)) => x.2.2.1)
      | none => s
    s.proceed trapped []

/-- A draw closes (R375): every die of the region learns it after a release. -/
def State.sendClose (s : State) (p : PassDesc) (m : List Nat) (draw : Nat) : State :=
  let g := s.team.id.grid
  let dies := s.team.lrec.regionDies.filter fun d => !s.dieAbsent d
  let s := dies.foldl (fun s d => s.openPass p m g d) s
  let s := { s with team := { s.team with closed := some draw } }
  (s.onGrp Group.effect).release .panel true s.earlier (.sends (dies.map fun d => .binnerCloseArrive ⟨d, g, s.team.id.rank, draw⟩))

/-- BINPUT.CLOSE (R375, R504). -/
def State.binClose (s : State) (f : GF) : State :=
  let v := s.fetchUse (uS f.b) 0
  if v.2 then s.trapActive (poisonTrap 1) []
  else
    let draw := bits v.1.toNat 15 0
    s.withMap fun s _ pm =>
      match pm with
      | none => s.trapActive { kind := 5 } []
      | some (p, m) =>
        let dies := s.team.lrec.regionDies.filter fun d => !s.dieAbsent d
        if s.drawLate p draw true || dies.any (fun d => s.binnerBusy d s.team.id.grid) then s.trapActive { kind := 0x0C } []
        else (s.sendClose p m draw).next

/-- BINPUT (R374, R375, R503, R504). -/
def execBinput (f : GF) (s : State) : Out :=
  .next (s.access (.binput f) fun s => if f.flags.getLsbD 0 then s.binClose f else s.binput f)

/-! ### BINGET (R379 to R381, R502) -/

/-- The rows that BINGET leaves pending (R502). -/
def bingetRows (f : GF) : List Nat := (256 + f.dst.reg) :: (List.range 32).map (256 + f.count.toNat + ·)

/-- BINGET asks its die's binner, which answers later (R368, R379). -/
def State.bingetIssue (s : State) (f : GF) (r : PassRead) (p : PassDesc) (m : List Nat) (named : Nat) : State :=
  (s.openPass p m s.team.id.grid (CoreId.die s.core.id)).issueUnit
    { id := 0, gid := s.gid, kind := .binget named, dst := f.dst.reg, area := f.count.toNat, bytes := some r.bytes, top := r.top }
    (bingetRows f)

/-- BINGET (R379, R502): its checks at issue. -/
def execBinget (f : GF) (s : State) : Out :=
  .next (s.access (.binget f) fun s =>
    let v := s.fetchUse (uSN f.a) 0
    let named := uval 32 v.1
    let d := CoreId.die s.core.id
    if v.2 then s.trapActive (poisonTrap 1) (bingetRows f)
    else s.withMap fun s r pm =>
      match pm with
      | none => s.trapActive { kind := 5 } (bingetRows f)
      | some (p, m) =>
        if named ≠ 0xFFFF ∧ m[named]? ≠ some d then s.trapActive { kind := 5 } (bingetRows f)
        else if s.binnerBusy d s.team.id.grid then s.trapActive { kind := 0x0C } (bingetRows f)
        else (s.bingetIssue f r p m named).next)

/-- The status word (R380). -/
def binStatus (status : Nat) (fresh resumed wide : Bool) (tile : Nat) : Word :=
  BitVec.ofNat 32 (status * 2 ^ 28 + b2n fresh * 2 ^ 27 + b2n resumed * 2 ^ 26 + b2n wide * 2 ^ 25 + tile % 2 ^ 16)

/-- The virtual address of a tile's spill slot (R371). -/
def slotAt (p : PassDesc) (t : Nat) : Nat := p.spill + t * (p.areaBytes + 128)

/-- Where a line of a spill slot lies: in device memory, with whether its page returns poison (R257), in a sparse hole, or where a copy of
it completes with a status (R258, R267). -/
def State.slotLine (s : State) (who : WalkFor) (writes : Bool) (va : Nat) : Except Status (Option (Nat × Bool)) :=
  match s.lookup va (who := who) with
  | some (.leaf l) =>
    let pa := l.phys va
    if (writes && !l.w) || paSpace pa != 0 || (regLine (pa / 128)).isSome then .error .prot else .ok (some (pa / 128, l.por))
  | some .sparse => if writes then .error .page else .ok none
  | _ => .error .page

/-- The lines that a copy reaches. -/
def slotMem (ls : List (Except Status (Option (Nat × Bool)))) : List Nat :=
  ls.filterMap fun x => match x with | .ok l => l.map (·.1) | .error _ => none

/-- The lines of a spill slot by their places, or what its copy waits for. -/
def State.slotLines (s : State) (o : UnitOp) (va n : Nat) (writes : Bool) : UnitGot ⊕ List (Except Status (Option (Nat × Bool))) :=
  let vas := (List.range n).map fun k => va + 128 * k
  match vas.find? fun a => (s.lookup a (who := .unit o.id)).isNone with
  | some a => .inl (.walk a)
  | none =>
    let ls := vas.map (s.slotLine (.unit o.id) writes)
    match (slotMem ls).find? fun l => s.lineWaits o.now l (if writes then 1 else 0) with
    | some l => .inl (.held l)
    | none => .inr ls

/-- A copy records the status of its first line that faults (R267). -/
def UnitOp.noted (o : UnitOp) (ls : List (Except Status (Option (Nat × Bool)))) : UnitOp :=
  match o.status, ls.findSome? fun x => match x with | .error e => some e | .ok _ => none with
  | .ok, some e => { o with status := e }
  | _, _ => o

/-- Copies a slot's image into the sample area, poison with it (R257, R381); a sparse hole reads as zero (R258), and a line that faults
leaves its bytes alone (R267). -/
def State.slotIn (s : State) (o : UnitOp) (p : PassDesc) (ls : List (Except Status (Option (Nat × Bool)))) : Nat × State :=
  ls.zipIdx.foldl (fun (a : Nat × State) x =>
    match x.1 with
    | .ok (some (l, por)) =>
      let s := (List.range 4).foldl (fun s k =>
        s.onCore (·.setBytes (s.local (p.sarea + 128 * x.2 + 32 * k)) 32 (s.readNat (l * 128 + 32 * k) 32)
          (por || has s.memPoison (l * 4 + k)))) a.2
      (max a.1 ((s.homeWts l).read s.ep), s)
    | .ok none => (a.1, a.2.onCore (·.setBytes (a.2.local (p.sarea + 128 * x.2)) 128 0 false))
    | .error _ => a) (o.top, s)

/-- Copies the sample area and the resume record into a slot, poison with them (R381); a line that faults keeps its bytes (R267). -/
def State.slotOut (s : State) (o : UnitOp) (p : PassDesc) (t : BinTile) (ls : List (Except Status (Option (Nat × Bool)))) : Nat × State :=
  let n := p.areaBytes / 128
  ls.zipIdx.foldl (fun (a : Nat × State) x =>
    match x.1 with
    | .ok (some (l, _)) =>
      let at' := a.2.local (p.sarea + 128 * x.2)
      let record := x.2 == n
      let r := a.2.engWrite (.engine a.2.core.id o.id) o.now
        { line := l, mask := spanMask 0 128, noAlloc := true, stream := false
          bytes := if record then BitVec.ofNat 1024 (t.token.toNat + t.count % 2 ^ 64 * 2 ^ 64)
            else BitVec.ofNat 1024 (Memory.readNat Memory.zeros a.2.core.store at' 128)
          poison := if record then 0 else wordBits fun k => has a.2.core.storePoison (at' / 4 + k) }
      (max a.1 r.1, r.2)
    | _ => a) (o.top, s)

/-- Changes a tile of the pass of a grid at a die. -/
def State.onTile (s : State) (d : Nat) (g : GridId) (t : Nat) (f : BinTile → BinTile) : State :=
  s.onPass d g fun p => { p with tiles := p.tiles.map fun x => if x.num = t then f x else x }

/-- The tile that a request for any tile settles on (R379). -/
def Pass.anyTile (p : Pass) : Option BinTile :=
  let ok := p.tiles.filter (·.st == .avail)
  (ok.find? (·.early)).orElse fun _ => ok.head?

/-- BINGET ends with a status and no packet. -/
def State.bingetStatus (s : State) (o : UnitOp) (status : Nat) (fresh resumed : Bool) (tile : Nat) : UnitGo :=
  .done { o with unis := [(o.dst, binStatus status fresh resumed false tile)] } s

/-- The team holds the tile: it takes a packet, or the tile is DONE or spilled (R379). -/
def State.bingetHeld (s : State) (o : UnitOp) (p : PassDesc) (x : Pass) (t : BinTile) (fresh resumed : Bool) : UnitGo :=
  let d := CoreId.die s.core.id
  match leastPacket (x.releasable t.num) with
  | some k =>
    let rest := { k with tiles := eraseN k.tiles t.num }
    let take (q : Pass) : Pass :=
      let bin := match q.bin.findIdx? (· == k) with
        | some i => if rest.tiles.isEmpty then q.bin.eraseIdx i else q.bin.set i rest
        | none => q.bin
      ({ q with bin := bin } : Pass).takeWaiting
    let s := (s.onPass d x.grid take).onTile d x.grid t.num fun b => { b with token := k.token, count := b.count + 1 }
    let s := (s.raiseHorizon (k.now.read s.ep)).acquire .panel
    let words := (List.range (k.bytes.length / 4)).map fun i => (o.area + i, BitVec.ofNat 32 (fieldOf k.bytes (4 * i) 4))
    .done { o with unis := (o.dst, binStatus 0 fresh resumed k.wide t.num) :: words } s
  | none =>
    if x.geometryOver then
      ((s.onTile d x.grid t.num fun b => { b with st := .done, holder := none }).closeIfDone d x.grid).bingetStatus o 2 fresh resumed t.num
    else
      let va := slotAt p t.num
      match s.slotLines o va (p.areaBytes / 128 + 1) true with
      | .inl (.walk a) => .walk a
      | .inl (.held l) => .held l
      | .inl _ => .held 0
      | .inr ls =>
        let r := s.slotOut o p t ls
        let s := (r.2.onTile d x.grid t.num fun b => { b with st := .spilled, holder := none, early := false, resume := true }).onPass d x.grid
          Pass.relieve
        s.bingetStatus { (o.noted ls).saw ⟨r.1, slotMem ls⟩ with top := r.1 } 3 fresh resumed t.num

/-- The binner answers a BINGET (R379). -/
def State.bingetGo (s : State) (o : UnitOp) (named : Nat) : UnitGo :=
  let d := CoreId.die s.core.id
  let g := o.gid.team.grid
  let rank := o.gid.team.rank
  let p := PassDesc.parse (o.bytes.getD [])
  let any := named == 0xFFFF
  match (s.die d).passes.find? fun x => x.grid == g with
  | none => s.bingetStatus o (if any then 6 else 2) false false named
  | some x =>
    match x.tiles.find? fun t => t.st == .attached && t.holder == some rank with
    | some t => if any || named == t.num then s.bingetHeld o p x t false false else s.bingetStatus o 4 false false t.num
    | none =>
      match if any then x.anyTile else x.tiles.find? (·.num == named) with
      | none =>
        let r := s.drawBits
        r.2.bingetStatus o (if x.tiles.all (·.st == .done) then 6 else 5) false false r.1.toNat
      | some t =>
        match t.st with
        | .attached => s.bingetStatus o 4 false false t.num
        | .open | .spilled => s.bingetStatus o 1 false false t.num
        | .done => s.bingetStatus o 2 false false t.num
        | .abandoned => s.bingetStatus o 7 false false t.num
        | .avail =>
          let attach (s : State) : State := s.onTile d g t.num fun b => { b with st := .attached, holder := some rank }
          if !t.resume then (attach s).bingetHeld o p x { t with st := .attached } true false
          else match s.slotLines o (slotAt p t.num) (p.areaBytes / 128) false with
            | .inl (.walk a) => .walk a
            | .inl (.held l) => .held l
            | .inl _ => .held 0
            | .inr ls =>
              let r := s.slotIn o p ls
              (attach r.2).bingetHeld { (o.noted ls).saw ⟨r.1, slotMem ls⟩ with top := r.1 } p x { t with st := .attached } false true

end Sys2Proof.Machine
end

