-- ==== Sys2Proof/Machine/Mesh.lean ====
section
/-! DEFINITION. Writes of route entries, failures of routers and links, rebuilt routes, and packets that a failure stops (R27, R36 to R39, R438, R465). -/

namespace Sys2Proof.Machine

/-! ### Packets on a route (R33, R37, R38, R39) -/

/-- Whether a message was sent by a core on a route number and is still on its way, one that its sender is to send again included. -/
def onRoute (c : CoreId) (n : Nat) : Instr → Bool
  | .peerAccessArrive m => m.src == c && m.route == n
  | .packetArrive m => m.src == c && m.route == n
  | .xpeerWriteArrive m => m.src == c && m.route == n
  | .arrive m => m.src == c && m.route == n
  | .leave m => m.src == c && m.route == n
  | .retry r | .retryResend r => match Resend.msg r with
    | .peerAccessArrive m => m.src == c && m.route == n
    | .packetArrive m => m.src == c && m.route == n
    | .xpeerWriteArrive m => m.src == c && m.route == n
    | _ => false
  | _ => false

/-- Whether a packet of a core is in flight on a route number (R39). -/
def State.inFlight (s : State) (c : CoreId) (n : Nat) : Bool :=
  s.agenda.any (onRoute c n) || s.timers.any fun x => onRoute c n x.2

/-- A message of the core in focus on its new way. -/
def redirectTo (dst : CoreId) : Instr → Instr
  | .peerAccessArrive m => .peerAccessArrive { m with dst := dst }
  | .packetArrive m => .packetArrive { m with dst := dst }
  | .xpeerWriteArrive m => .xpeerWriteArrive { m with dst := dst }
  | .arrive m => .arrive { m with dst := dst }
  | .leave m => .leave { m with dst := dst }
  | m => m

/-- A message of a route completes with ROUTE (R37, R38). -/
def State.failRoute (s : State) (m : Instr) : State :=
  match m with
  | .peerAccessArrive r => s.send (PeerReq.answer r [] false)
  | .packetArrive p => s.farDone p.src p.op .route
  | .xpeerWriteArrive x => s.farWord x.src x.op .route
  | .arrive a => s.send (match a.kind with
      | .wait _ => .barwaitReply ⟨a.src, a.group, a.addr, true, 256, a.lanes, none⟩
      | k => .arriveReply ⟨a.src, a.group, a.srcObj, k == .forward, 256, a.lanes,
          if k == .drop then some (ArriveMsg.kept a) else none⟩)
  | _ => s

/-! ### Requests to homes that a failure stops (R38) -/

/-- The lanes of an operation that a lost request concerns: those whose elements it was to bring, or all of them when the operation
waits for its acknowledgement. -/
def MemOp.lostLanes (o : MemOp) (ref : Nat) : List Nat :=
  (o.elems.filter (·.wait == some ref)).map (·.lane) ++ (if has o.waits ref && o.elems.isEmpty then o.srcs.map (·.1) else [])

/-- An operation without what a lost request was to bring. -/
def MemOp.without (o : MemOp) (ref : Nat) : MemOp :=
  { o with waits := eraseN o.waits ref, elems := o.elems.filter (·.wait != some ref) }

/-- The lanes of the group in focus whose operations wait for a lost request trap with ROUTE, and the operations no longer wait (R37,
R38). A request to a home names no route, and what `%trapaddr` then holds is left open (log entry 79). -/
def State.loseRequest (s : State) (ref : Nat) : State :=
  (s.grp.ops.filter fun o => has o.waits ref || o.elems.any (·.wait == some ref)).foldl (fun s o =>
    let s := s.onOp o.id (·.without ref)
    ((o.lostLanes ref).eraseDups.filter fun l => (s.lane l).st != .exited).foldl (fun s l =>
      let (x, s) := s.drawBits
      s.lateTrap o l { kind := 0x0D, addr := x }) s) s

/-- Whether some lane that a lost request concerns stands parked or replays, so that it cannot trap yet. -/
def State.lossWaits (s : State) (c : CoreId) (ref : Nat) : Bool :=
  (s.coreOf c).teams.any fun t => t.groups.any fun g => g.ops.any fun o =>
    (o.lostLanes ref).any fun l => (g.lane l).st == .parked || (g.lane l).replay

/-- The core and number of a request to a home. -/
def homeRequest : Resend → Option (CoreId × Nat)
  | .line r _ => some (r.src, r.ref)
  | .atom m => (Who.core? m.who).map fun c => (c, m.ref)
  | .cpbk m => (Who.core? m.who).map fun c => (c, m.ref)
  | _ => none

/-- A request to a home completes with ROUTE: its copy is no longer awaited, and neither is its acknowledgement. -/
def State.failRequest (s : State) (c : CoreId) (ref : Nat) : State :=
  (s.atCore c fun s =>
    let s := s.onCore fun k => { k with
      copies := (k.copies.filter fun x => !(x.st == .p && x.ref == ref && x.mask == 0)).map fun x =>
        if x.st == .p && x.ref == ref then { x with st := .w, clean := false } else x
      acks := eraseN k.acks ref
      rels := k.rels.map fun r => { r with acks := eraseN r.acks ref } }
    (s.eachGroup fun s => s.loseRequest ref).pump)

/-- Changes a slot of the route table of the core in focus. -/
def State.onSlot (s : State) (n : Nat) (f : RouteSlot → RouteSlot) : State :=
  s.onCore fun c => { c with routes := c.routes.map fun r => if r.num = n then f r else r }

/-- Packets of a route that waited in the injection queue leave on the new route in their order, or complete with ROUTE (R37). -/
def State.drainRoute (s : State) (n : Nat) : State :=
  let mine := s.core.inject.filter (·.route == n)
  let s := s.onCore fun c => { c with inject := c.inject.filter (·.route != n) }
  let e := s.route n
  let bad := !routeValid e || routeUnreach e
  let dst := s.routeDst n
  mine.foldl (fun s x => if bad then s.failRoute x.msg else s.send (redirectTo dst x.msg)) s

/-- An entry comes for a route of the core in focus; its router takes it once no packet is in flight on the number (R39). -/
def State.comeRoute (s : State) (n : Nat) (e : BitVec 256) : State :=
  let slot := (s.routeSlot n).getD { num := n, entry := 0 }
  (s.onCore (·.putRoute { slot with coming := some e })).send (.routeEntryTaken s.core.id n)

/-- ROUTE_ENTRY_TAKEN (R37, R39). -/
def execRouteEntryTaken (core : CoreId) (n : Nat) (s : State) : Out :=
  let s := s.focusCore core
  .next (match (s.routeSlot n).bind (·.coming) with
    | none => s
    | some e =>
      if s.inFlight core n then s.later 1 (.routeEntryTaken core n)
      else (s.writeRoute n e).drainRoute n)

/-- ROUTE_ENTRY_WRITE (R27, R36, R39): an entry that firmware or the control node writes; the router checks it as it takes
it. -/
def execRouteEntryWrite (core : CoreId) (n : Nat) (entry : BitVec 256) (s : State) : Out :=
  .next (if 64 ≤ n ∨ s.dieAbsent (CoreId.die core) then s else (s.focusCore core).comeRoute n entry)

/-! ### Failures (R36, R38, R438) -/

/-- Whether a route of a core passes through what has failed. -/
def State.routeBroken (s : State) (c : CoreId) (e : BitVec 256) : Bool :=
  routeValid e && !routeUnreach e && (walkLegs (s.pos c) (routeLegs e)).any s.legBad

/-- A new entry for a withdrawn route, with the role that it had (R34 to R36, R39). -/
def State.rebuilt (s : State) (c : CoreId) (e : BitVec 256) : BitVec 256 := s.roleRoute c (routeRoleX e) (routeRoleY e)

/-- The routes of a core that pass through what has failed are withdrawn; in hardware mode their rebuild follows (R36). -/
def State.withdraw (s : State) (c : CoreId) : State :=
  let s := s.focusCore c
  let bad := s.core.routes.filter fun r => !r.withdrawn && s.routeBroken c r.entry
  let host := (s.die (CoreId.die c)).dutySel.getLsbD 0
  bad.foldl (fun s r =>
    let s := s.onSlot r.num fun x => { x with withdrawn := true }
    if host then s else s.comeRoute r.num (s.rebuilt c r.entry)) s

/-- The cores that no list holds and whose neighbour routes, as they stand from boot, pass through what has failed. -/
def State.unlistedBroken (s : State) : List CoreId :=
  match s.pub with
  | none => []
  | some q => ((s.present.map fun d => (List.range (64 * 66)).map fun i => CoreId.vec d (i / 66) (i % 66)).flatten ++
      (s.present.map fun d => (List.range 256).map fun n => CoreId.ctl d n).flatten).filter fun c =>
    !(s.allCores.any (·.id == c)) && (Published.slots q c).any fun r => s.routeBroken c r.entry

/-- Every route that passes through what has failed is withdrawn (R36). -/
def State.withdrawAll (s : State) : State := ((s.allCores.map (·.id)) ++ s.unlistedBroken).foldl State.withdraw s

/-- A router or link fails (R36). -/
def State.failLink (s : State) (m : MeshFault) : State :=
  (s.onDie m.die fun d => { d with cut := if d.cut.contains m then d.cut else m :: d.cut, errors := d.errors + 1 }).withdrawAll

/-- ROUTER_LINK_FAILURE (R36). -/
def execRouterLinkFailure (m : MeshFault) (s : State) : Out := .next (if s.dieAbsent m.die then s else s.failLink m)

/-- ROUTE_REBUILD_DONE (R36, R37, R39): the entries of a rebuild reach a core; none changes a route's role. -/
def execRouteRebuildDone (core : CoreId) (entries : List (Nat × BitVec 256)) (s : State) : Out :=
  let s := s.focusCore core
  .next (entries.foldl (fun s x =>
    let old := s.route x.1
    if (s.routeSlot x.1).any (·.withdrawn) ∧ routeRoleX old = routeRoleX x.2 ∧ routeRoleY old = routeRoleY x.2
    then s.comeRoute x.1 x.2 else s) s)

/-- UNDELIVERABLE_RESPONSE (R38): a packet in the mesh met a failed router, and its operation completes with ROUTE. -/
def execUndeliverableResponse (m : Resend) (s : State) : Out :=
  let i := Resend.msg m
  .next (if !s.agenda.contains i then s
    else
      let t : State := { s with agenda := s.agenda.erase i }
      match m, homeRequest m with
      | .bench _, _ => s
      | _, none => t.failRoute i
      | _, some (c, ref) => if s.lossWaits c ref then s else t.failRequest c ref)

/-- MESH_FLIT_CRC_ERROR (R438): the flit is retried; after 16 failures on a link the link fails. -/
def execMeshFlitCrcError (m : MeshFault) (s : State) : Out :=
  .next (if s.dieAbsent m.die then s
    else
      let n := ((s.die m.die).crc.find? (·.1 == m)).elim 1 (·.2 + 1)
      let rest (d : Die) : List (MeshFault × Nat) := d.crc.filter (·.1 != m)
      if 16 ≤ n then (s.onDie m.die fun d => { d with crc := rest d }).failLink m
      else s.onDie m.die fun d => { d with crc := (m, n) :: rest d, corrected := d.corrected + 1 })

end Sys2Proof.Machine
end

