-- ==== Sys2Proof/Machine/Start.lean ====
section
/-! DEFINITION. Control messages and fragments, placement of teams and gangs, start waves, the end of teams and grids, and mapping out a die (R80, R89, R97, R206, R238, R294, R295, R354, R401 to R404, R417 to R424, R436). -/

namespace Sys2Proof.Machine

/-! ### Control messages and fragments (R401 to R404) -/

/-- The places of a die that messages hold. -/
def State.heldPlaces (s : State) (d : Nat) : List Nat :=
  (s.die d).msgs.map (·.place) ++ ((s.coreOf (.disp d)).frag.toList.map (·.place))

/-- The lowest free place of a die (R403). -/
def State.freePlace (s : State) (d : Nat) : Option Nat := (List.range 16).find? fun p => !has (s.heldPlaces d) p

/-- Whether a message is executed (R403). -/
def controlSound (m : ControlMsg) : Bool := decide (1 ≤ m.len) && decide (m.len ≤ 1023) && !m.reservedSet

/-- A message takes a place: its code lines stand at the place's address (R403). -/
def State.placeMessage (s : State) (d p : Nat) (m : ControlMsg) (now : Stamp) : State :=
  let base := codeBase d p
  let clear := s.mem.filter fun c => !(decide (base ≤ c.1) && decide (c.1 < base + 2 ^ 16))
  let n := m.len.toNat
  let mem := (m.code.take n).zipIdx.foldl (fun mm l => Memory.writeNat s.unlisted mm (base + 64 * l.2) 64 l.1.toNat) clear
  { s.onDie d (fun x => { x with msgs := x.msgs ++ [⟨p, m, now⟩] }) with mem := mem }

/-- A message at the port: refused with status 2, placed, or stopped until a place is free (R403). -/
def State.arriveMessage (s : State) (d : Nat) (m : ControlMsg) (now : Stamp) : State :=
  if !controlSound m then s.sendUp (upMessage 1 d [(8, 8, m.tag.toNat), (0x10, 4, m.seq.toNat), (0x14, 4, 2)])
  else match s.freePlace d with
    | some p => s.placeMessage d p m now
    | none => s.onDie d fun x => { x with stoppedMsgs := x.stoppedMsgs ++ [(m, now)] }

/-- CONTROL_MESSAGE (R402, R403). -/
def execControlMessage (die : Nat) (m : ControlMsg) (s : State) : Out :=
  .next (if s.dieAbsent die then s
    else (s.arriveMessage die m s.portNow).send (.fragmentStart die))

/-- Messages that the port has stopped go on, as places allow. -/
def State.drainPort (s : State) (d : Nat) : State :=
  match (s.die d).stoppedMsgs with
  | [] => s
  | m :: ms => if (s.freePlace d).isNone then s
    else (s.onDie d fun x => { x with stoppedMsgs := ms }).arriveMessage d m.1 m.2

/-- The stream of dispatch code of a die. -/
def fragTeam (d : Nat) : TeamId := ⟨⟨d, 0⟩, 0⟩

/-- The program counter of a message's first slot (R403). -/
def fragEntry (p : Nat) : BitVec 56 := BitVec.ofNat 56 (codeWindow + p * 2 ^ 16)

/-- The team that runs a fragment: one lane, in dispatch's own context (R403, R404). -/
def fragmentTeam (d p : Nat) (x : TransCtx) : Team :=
  { id := fragTeam d
    lrec := { entry := fragEntry p, asid := x.asid, troot := x.troot, dstab := x.dstab }
    groups := [{ num := 0, gst := .waiting, lanes := [{ pc := fragEntry p, st := .run }], entering := true }] }

/-- FRAGMENT_START (R403): the next message starts; `%now` rises to the port clock of its arrival. -/
def execFragmentStart (die : Nat) (s : State) : Out :=
  let s := (s.focusCore (.disp die)).drainPort die
  .next (if s.core.frag.isSome then s
    else match (s.die die).msgs with
      | [] => s
      | m :: ms =>
        let x := (s.die die).dispCtx
        let s := (s.onDie die fun d => { d with msgs := ms }).unseat (fragTeam die)
        let s := s.onCore fun c => { c with
          frag := some ⟨m.msg.tag, m.msg.seq, m.place⟩, teams := fragmentTeam die m.place x :: c.teams }
        ((s.raiseNow (m.now.read s.ep)).focusGroup ⟨fragTeam die, 0⟩).onGrp fun g => g.ready s.clk)

/-- DISPATCH_FAILOVER (R401): the spare takes over with all that the dispatch core held; a fragment that ran is abandoned. -/
def execDispatchFailover (die : Nat) (s : State) : Out :=
  .next (if (s.die die).spare then s
    else
      let s := (s.onDie die fun d => { d with spare := true }).focusCore (.disp die)
      if s.core.frag.isSome then (s.focusGroup ⟨fragTeam die, 0⟩).endFragment 1 {} else s)

/-! ### Pending teams (R418, R421, R422) -/

/-- What is pending: the ranks of a gang, or one rank, that wait for placement as fresh teams and as contexts. -/
structure Cand where
  grid : Grid
  rank : Nat
  fresh : List Nat
  saved : List Context
  deriving DecidableEq, Repr

/-- WAKE of what is pending (R451). -/
def Cand.wake (c : Cand) : Bool := c.saved.any (·.wake)

/-- The order of placement (R422, R451). -/
def Cand.before (a b : Cand) : Bool :=
  let da := a.grid.departed.getD 0
  let db := b.grid.departed.getD 0
  if a.grid.lrec.prio ≠ b.grid.lrec.prio then decide (b.grid.lrec.prio < a.grid.lrec.prio)
  else if a.wake != b.wake then a.wake
  else if da ≠ db then decide (da < db)
  else decide (a.rank ≤ b.rank)

/-- The first rank of a rank's gang. -/
def LaunchRecord.gangFirst (r : LaunchRecord) (rank : Nat) : Nat := if r.gang = 0 then rank else rank / r.gang * r.gang

/-- The die of a rank (R418). -/
def LaunchRecord.dieOf (r : LaunchRecord) (rank : Nat) : Nat := r.regionDies.getD (rank / r.tpd) 0

/-- Whether a gang is whole: its dies have the launch and run, and no member is resident, on its way or kept out (R76, R119,
R421). -/
def State.whole (s : State) (g : Grid) (first : Nat) : Bool :=
  let mine (t : TeamId) : Bool := t.grid == g.id && g.lrec.gangFirst t.rank == first
  g.lrec.gang == 0
    || ((List.range g.lrec.gang).all (fun k =>
        let d := g.lrec.dieOf (first + k)
        has g.dies d && (s.dieAbsent d || !s.stopped d))
      && s.allTeams.all (fun x => !mine x.2.id)
      && s.contexts.all (fun (x : Context) => !mine x.team.id || x.isPending)
      && g.kept.all fun r => g.lrec.gangFirst r != first)

/-- What a grid has pending on a die, gang by gang. -/
def State.gridCands (s : State) (d : Nat) (g : Grid) : List Cand :=
  let saved := s.contexts.filter fun (x : Context) => x.team.id.grid == g.id && x.isPending
  let on (r : Nat) : Bool := g.lrec.dieOf r == d
  let here := g.pending.filter on ++ (saved.filter fun x => CoreId.die x.core == d).map (·.team.id.rank)
  ((here.map g.lrec.gangFirst).eraseDups.filter (s.whole g)).map fun first =>
    { grid := g, rank := first
      fresh := (g.pending.filter fun r => g.lrec.gangFirst r == first).mergeSort (· ≤ ·)
      saved := (saved.filter fun x => g.lrec.gangFirst x.team.id.rank == first) }

/-- What is pending on a die, in the order of placement. -/
def State.candidates (s : State) (d : Nat) : List Cand :=
  ((s.grids.filter (fun (g : Grid) => g.departed.isSome && g.closing.isNone)).map (s.gridCands d)).flatten.mergeSort Cand.before

/-! ### Placing (R418 to R423) -/

/-- A group before its start (R423): its lanes stand at ENTRY. -/
def freshGroup (r : LaunchRecord) (g : Nat) : Group :=
  let role := if g < r.p then 0 else 1
  { num := g, role := role, base := r.groupBase g, win := r.window role, gst := .waiting
    wait := some ⟨.start, r.entry, List.range 32⟩
    lanes := List.replicate 32 { pc := r.entry, st := .run }, entering := true }

/-- A team before its start. -/
def freshTeam (g : Grid) (rank base placed : Nat) : Team :=
  { id := ⟨g.id, rank⟩, lrec := g.lrec, base := base, rows := g.lrec.rows
    groups := (List.range (g.lrec.p + g.lrec.c)).map (freshGroup g.lrec), shelf := g.lrec.tiles, placed := placed }

/-- Places a fresh team: the core it takes, or none when no core has room (R420). -/
def State.placeFresh (s : State) (g : Grid) (rank : Nat) : Option (CoreId × State) :=
  match s.findCore (g.lrec.dieOf rank) g.lrec none with
  | none => none
  | some c =>
    match s.fitBase c g.lrec with
    | none => none
    | some base =>
      let (id, s) := s.newId
      let s := (s.focusCore c).seat (freshTeam g rank base id)
      some (c, s.onGrid g.id fun x => { x with pending := x.pending.filter (· != rank) })

/-- Places the fresh teams of a gang, one after another. -/
def State.placeAllFresh (s : State) (g : Grid) : List Nat → Option (List CoreId × State)
  | [] => some ([], s)
  | r :: rs => do
    let x ← s.placeFresh g r
    let y ← x.2.placeAllFresh g rs
    pure (x.1 :: y.1, y.2)

/-- The cores for the saved teams of a gang, each restored in turn to see where the next fits (R452). -/
def State.trySaved (s : State) : List Context → Option (List (TeamId × CoreId))
  | [] => some []
  | x :: xs => do
    let c ← s.findCore (CoreId.die x.core) x.team.lrec (some x.core)
    let b ← s.fitBase c x.team.lrec
    let s := (s.focusCore c).seat { x.team with base := b }
    let r ← s.trySaved xs
    pure ((x.team.id, c) :: r)

/-- Places what is pending, whole or not at all (R119, R421): the cores that its fresh teams took; its saved teams follow in
RESTORE events. -/
def State.placeCand (s : State) (c : Cand) : Option (List CoreId × State) := do
  let x ← s.placeAllFresh c.grid c.fresh
  let r ← x.2.trySaved c.saved
  pure (x.1, r.foldl (fun s p => s.send (.restore p.1 p.2)) x.2)

/-! ### Making room (R422) -/

/-- The teams of lower priority on a die in the order in which they give way: the lowest priority first, then the latest
placed. -/
def State.victims (s : State) (d prio : Nat) : List (CoreId × Team) :=
  (s.allTeams.filter fun x => CoreId.die x.1 == d && CoreId.kind x.1 == .vector && decide (x.2.lrec.prio < prio)).mergeSort fun a b =>
    decide (a.2.lrec.prio < b.2.lrec.prio) || (a.2.lrec.prio == b.2.lrec.prio && decide (b.2.placed ≤ a.2.placed))

/-- The state in which teams had left their cores. -/
def State.without (s : State) (ts : List (CoreId × Team)) : State :=
  ts.foldl (fun s x => (s.focusCore x.1).unseat x.2.id) s

/-- Pre-empts lower teams one after another, with their gangs, until what is pending would fit (R422). When it would not fit
without all of them none is pre-empted. -/
def State.makeRoom422 (s : State) (c : Cand) : List (CoreId × Team) → State → Option State
  | [], _ => none
  | v :: vs, t =>
    let gang := t.gangTeams v.2.id
    let t := t.without gang
    let s := s.preempt v.2.id 3
    if (t.placeCand c).isSome then some s else s.makeRoom422 c vs t

/-- Pre-empts for what is pending, unless teams that already leave would make it fit. -/
def State.giveWay (s : State) (d : Nat) (c : Cand) : State :=
  let going := s.allTeams.filter fun x => CoreId.die x.1 == d && x.2.pre.isSome
  let t := s.without going
  if (t.placeCand c).isSome then s
  else (s.makeRoom422 c ((s.victims d c.grid.lrec.prio).filter (·.2.pre.isNone)) t).getD s

/-- Places pending teams in their order, until one does not fit (R422): the grids and cores of fresh teams, in order. -/
def State.placeRound (s : State) (d : Nat) : Nat → List (CoreId × GridId) → List (CoreId × GridId) × State
  | 0, acc => (acc, s)
  | n + 1, acc =>
    match s.candidates d with
    | [] => (acc, s)
    | c :: _ =>
      match s.placeCand c with
      | none => (acc, s.giveWay d c)
      | some (cs, s) =>
        let acc := acc ++ cs.map fun k => (k, c.grid.id)
        if c.saved.isEmpty then s.placeRound d n acc else (acc, s.send (.teamPlacement d))

/-- Sends the start messages of a placement step: waves of 256 cores in the order of R419, 10 clk apart (R424). -/
def State.sendStarts (s : State) (placed : List (CoreId × GridId)) : State :=
  let cores := (placed.map (·.1)).eraseDups.mergeSort fun a b => decide (s.orderOf a ≤ s.orderOf b)
  placed.eraseDups.foldl (fun s p =>
    let k := cores.findIdx (· == p.1) / 256
    let s : State := s.mapTeams (· == p.1)
      (fun t => if t.id.grid = p.2 ∧ t.groups.any (fun g => g.wait.any fun w => w.what == .start) then { t with wave := k } else t)
      fun _ g => g
    if k = 0 then s.send (.startMessage p.1 p.2) else s.later (10 * k) (.startMessage p.1 p.2)) s

/-- TEAM_PLACEMENT (R418 to R422). -/
def execTeamPlacement (die : Nat) (s : State) : Out :=
  .next (if s.stopped die then s
    else
      let s := s.stowTeam
      let r := s.placeRound die (4 * 65536) []
      (r.2.stowTeam).sendStarts r.1)

/-! ### Starting (R89, R423, R424) -/

/-- 8 ns in `%gtc` units. -/
def waveStep : Nat := 524288

/-- Clears the rows of a segment of the core in focus: zero, not poisoned, uniform (R423). -/
def Core.clearRows (c : Core) (base rows : Nat) : Core :=
  let out (w k : Nat) : Bool := !(decide (base * w ≤ k) && decide (k < (base + rows) * w))
  { c with
    store := c.store.filter fun b => out 128 b.1
    storePoison := c.storePoison.filter (out 32)
    mixed := c.mixed.filter (out 1) }

/-- A group of the team in focus starts, at once or at its start time (R89, R423, R424). -/
def State.startGroup (s : State) (late : Bool) : State :=
  let r := s.team.lrec
  let s := (s.setElem (s.sAddr 0) (r.args.extractLsb' 0 32) false).setElem (s.sAddr 1) (r.args.extractLsb' 32 32) false
  let s := s.onGrp fun g => { g with horizon := s.core.now, late := late }
  if r.starten && !late then
    s.onGrp fun g => { g with wait := g.wait.map fun w => { w with what := .startAt (r.start.toNat + s.team.wave * waveStep) } }
  else (s.onGrp fun g => { g with wait := none }).settle

/-- Whether a team waits for its start message. -/
def Team.unstarted (t : Team) : Bool := t.groups.any fun g => g.wait.any fun w => w.what == .start

/-- The buffer-record registers of a control core at the start of a grid's stream: zero (R206). -/
def Core.clearRecords (c : Core) : Core :=
  if CoreId.kind c.id = .control then { c with b := List.replicate 16 0, cBad := c.cBad &&& 0xFFFFFFFF } else c

/-- A team of the core in focus starts. -/
def State.startTeam (s : State) (t : Team) (late : Bool) : State :=
  let s := (s.onCore fun c => (c.clearRows t.base t.rows).clearRecords).focusTeam t.id
  (t.groups.map (·.num)).foldl (fun s n => (s.focusGroup ⟨t.id, n⟩).startGroup late) s

/-- START_MESSAGE (R412, R423, R424): the core writes its routes, clears the segments and starts the teams of the grid. A start
time that has come already is met at once. -/
def execStartMessage (core : CoreId) (grid : GridId) (s : State) : Out :=
  let s := (s.focusCore core).stowTeam
  .next (match s.core.teams.filter fun t => t.id.grid == grid && t.unstarted with
    | [] => s
    | t :: ts =>
      let late := (s.grids.find? fun (g : Grid) => g.id == grid).any (·.late)
      let s := s.wakeCore
      let s := s.startRoutes t.lrec.roles
      let s := (t :: ts).foldl (fun s t => s.startTeam t late) s
      if t.lrec.starten && !late then s.send (.launchStartTime core grid) else s)

/-- LAUNCH_START_TIME (R89): groups whose start time has come issue their first instruction. -/
def execLaunchStartTime (core : CoreId) (grid : GridId) (s : State) : Out :=
  let s := s.focusCore core
  let now := s.gtcOf core
  .next (s.eachGroup fun s =>
    match s.grp.wait.map Wait.what with
    | some (.startAt t) =>
      if s.team.id.grid = grid ∧ t ≤ now then (s.onGrp fun g => { g with wait := none }).settle else s
    | _ => s)

/-! ### The end of a team (R97, R149, R354) -/

/-- The groups of the team in focus that have ended reach its barrier objects (R354). -/
def State.leaveObjects (s : State) : State :=
  s.eachOf (fun g => g.gst == .ended && !g.left) fun s =>
    (s.onGrp fun g => { g with left := true }).groupLeaves s.grp.num

/-- Whether a team has ended (R97). -/
def Team.over (t : Team) : Bool := t.groups.all fun g => g.gst == .ended && g.copies == 0 && g.tiles == 0

/-- A team of its grid has ended on a die with a run count (R97, R442). -/
def Grid.endTeam (g : Grid) (d runs : Nat) : Grid :=
  let old := (g.stats.find? (·.1 == d)).getD (d, 0, 0)
  { g with ended := g.ended + 1, stats := (d, old.2.1 + 1, old.2.2 + runs) :: g.stats.filter (·.1 != d) }

/-- Whether every team of a grid has ended. -/
def Grid.over (g : Grid) : Bool := g.departed.isSome && decide (g.lrec.teams ≤ g.ended)

/-- The count-only objects at which a team arrived and that it has not dropped take its LEAVE, on the route of its last
arrival (R354). -/
def State.sendLeaves (s : State) (t : Team) : State :=
  (t.gangObjs.filter (·.drops == 0)).foldl (fun s o =>
    s.sendRoute o.route (.leave ⟨s.core.id, o.route, o.core, t.id, o.addr, none⟩)) s

/-- A team that has ended leaves its core (R97). -/
def State.endTeam (s : State) (t : Team) : State :=
  let d := CoreId.die s.core.id
  let s := ((s.unseat t.id).abandon t.id).pmDone (t.pre.bind (·.asked))
  let s := s.sendLeaves t
  let s := s.onGrid t.id.grid (·.endTeam d t.runs)
  let s := if s.grids.any fun (g : Grid) => g.id == t.id.grid && g.over then s.send (.gridEnd t.id.grid) else s
  s.send (.teamPlacement d)

/-- TEAM_END (R97, R117, R149, R354): ended groups reach the team's objects, waits that depend on them are looked at again,
and the team ends with its last group and operation. -/
def execTeamEnd (core : CoreId) (t : TeamId) (s : State) : Out :=
  let s := s.focusCore core
  .next (if !(s.coreTeams.any (·.id == t)) then s
    else
      let s := ((s.focusTeam t).leaveObjects.eachGroup State.poll).wakeControl
      match s.coreTeams.find? (·.id == t) with
      | none => s
      | some x =>
        let s := (x.groups.filter fun g => g.wait.any fun w => w.what == .rendezvous).foldl
          (fun s g => s.send (.regroupJoin core ⟨t, g.num⟩)) s
        if x.over then s.endTeam x else s)

/-! ### The end of a grid (R238, R294, R295, R417, R436) -/

/-- A core without the teams, operations and placeholders of a grid that was killed (R436). -/
def Core.drop (g : GridId) (c : Core) : Core :=
  let mine := c.engine.filter (·.team.grid == g)
  { c with
    teams := c.teams.filter (·.id.grid != g)
    engine := c.engine.filter (·.team.grid != g)
    hutch := ((mine.map (·.locks)).flatten.foldl releaseRange c.hutch).filter fun h => !(h.team.any (·.grid == g))
    units := c.units.filter (·.gid.team.grid != g)
    quarters := c.quarters.filter (·.gid.team.grid != g)
    saved := c.saved.filter (·.1.grid != g)
    drains := c.drains.filter fun d => !(mine.any (·.id == d.op))
    slot := c.slot.filter fun x => x.team.grid != g }

/-- A matrix engine without the macro-ops of a grid. -/
def Quad.drop (g : GridId) (q : Quad) : Quad :=
  let ok (m : MacroOp) : Bool := m.team.grid != g
  { q with queue := q.queue.filter ok, redir := q.redir.filter ok, running := q.running.filter ok }

/-- What a killed grid had in flight is gone, and its teams are off their cores (R436). -/
def State.clearKilled (s : State) (g : GridId) : State :=
  let s := s.stowTeam
  let cs := s.allCores
  let s := s.dropWalks fun w => w == .grid g || cs.any fun c => c.walksFor (fun t => t.grid == g) w
  { s with
    core := s.core.drop g, cores := s.cores.map (Core.drop g), quads := s.quads.map (Quad.drop g)
    contexts := s.contexts.filter fun (x : Context) => x.team.id.grid != g
    semWaiters := s.semWaiters.filter fun w => w.group.team.grid != g
    grids := s.grids.map fun (x : Grid) => if x.id = g then { x with pending := [], kept := [] } else x }

/-- The listed cores of a region, which release at the end of a grid. -/
def State.regionCores (s : State) (r : LaunchRecord) : List CoreId :=
  (s.allCores.map (·.id)).filter fun c => has r.regionDies (CoreId.die c) && CoreId.kind c != .dispatch

/-- A core starts its Release(SYSTEM) at the end of a grid (R294). -/
def State.endRelease (s : State) (g : GridId) (c : CoreId) : State :=
  let s := (s.focusCore c).copyBackAll
  (s.onCore fun k => { k with rels := k.rels ++ [{ gid := none, scope := .system, release := true, acks := k.acks, ops := [], most := 0, cont := .boundary g }] }).pump

/-- Open epochs of a grid: the elements are marked poison, and what was buffered is discarded (R238). -/
def State.closeEpochs (s : State) (g : GridId) : State :=
  let mine := s.bench.filter (·.grid == g)
  let s := { s with bench := s.bench.filter (·.grid != g) }
  mine.foldl (fun s b =>
    let s := s.setSector (b.addr / 32) true
    match s.homeOf (b.addr / 128) with
    | some h => if s.bench.any (fun x => x.addr / 128 == h.line) then s else (s.putHome { h with opn := false }).wayFreed h.line
    | none => s) s

/-- Whether a grid's SIG values must still wait: for a walk, a held die or a held line (R416, R417). -/
def State.sigsWait (s : State) (g : Grid) : Bool :=
  g.lrec.sigs.any fun x => match s.semPlace g x.1 with
    | none => true
    | some (some pa) => pa != holeAddr && (s.stopped (paDie pa) || s.lineWaits s.core.now (pa / 128))
    | some none => false

/-- The lead dispatch core adds a SIG value to its semaphore (R417). -/
def State.signal (s : State) (g : Grid) (x : Nat × DWord) : State :=
  match s.semPlace g x.1 with
  | some (some pa) =>
    if pa = holeAddr then s
    else
      let w := s.engAtomic (.core s.core.id) s.core.now true pa (· + x.2) false
      w.2.raiseNow w.1
  | _ => s

/-- The end message of a killed grid (R436, R454). -/
def State.endMessage (s : State) (g : GridId) (kind : BitVec 5) (detail : BitVec 8) : State :=
  s.sendUp (upMessage 2 g.lead [(8, 2, g.lid), (0xA, 1, kind.toNat), (0xB, 1, detail.toNat)])

/-- The first reason for which a grid was killed. -/
def State.killOf (s : State) (g : GridId) : Option (BitVec 5 × BitVec 8) := (s.kills.reverse.find? (·.1 == g)).map (·.2)

/-- A grid is gone. -/
def State.forget (s : State) (g : GridId) : State :=
  { s with grids := s.grids.filter (fun (x : Grid) => x.id != g), kills := s.kills.filter (·.1 != g) }

/-- Every core of the region has released: epochs and the pass close, the jump, and the signals or the end message. -/
def State.finishGrid (s : State) (x : Grid) : State :=
  let g := x.id
  let opn := s.bench.any (·.grid == g)
  let s := (s.closeEpochs g).closePass g
  let s := if opn then { s with kills := s.kills ++ [(g, 0x0C, 0)] } else s
  let s := s.focusCore (.disp g.lead)
  match s.killOf g with
  | some k => ((x.lrec.regionDies.foldl State.jumpDie s).endMessage g k.1 k.2).forget g
  | none =>
    let s := s.raiseNow ((x.lrec.regionDies.map s.topNow).foldl max 0)
    if s.sigsWait x then
      (x.lrec.sigs.foldl (fun s w => if (s.semPlace x w.1).isNone
        then s.askCtx ⟨x.lrec.asid, x.lrec.troot, x.lrec.dstab⟩ (.grid g) w.1 else s) s).later 1 (.gridEnd g)
    else
      let s := x.lrec.regionDies.foldl State.jumpDie s
      ((x.lrec.sigs.foldl (fun s w => s.signal x w) s).dropWalks fun o => o == .grid g).forget g

/-- GRID_END (R294, R417, R436): every core of the region releases at SYSTEM scope and empties its held-line table; then the
grid is closed, once no jump would pass the largest timestamp (R301). A killed grid first loses what it has in flight. A grid that no launch created only loses its teams. -/
def execGridEnd (grid : GridId) (s : State) : Out :=
  let killed := (s.killOf grid).isSome
  .next (match s.grids.find? fun (g : Grid) => g.id == grid with
    | none => match s.killOf grid with
      | some k => ((s.clearKilled grid).endMessage grid k.1 k.2).forget grid
      | none => s
    | some x =>
      match x.closing with
      | none =>
        if !killed && !x.over then s
        else
          let s := if killed then s.clearKilled grid else s
          let cs := s.regionCores x.lrec
          let s := s.onGrid grid fun y => { y with closing := some cs }
          if cs.isEmpty then s.send (.gridEnd grid) else cs.foldl (fun s c => s.endRelease grid c) s
      | some [] =>
        match x.lrec.regionDies.filter s.jumpPasses with
        | [] => s.finishGrid x
        | ds => (ds.foldl State.requestRebase s).later 1 (.gridEnd grid)
      | some _ => s)

/-! ### Mapping out a die (R46, R80) -/

/-- DIE_MAP_OUT (R36, R80, R635): the die is absent from then on, as the map shows it, and routes through it are withdrawn; the teams on it,
resident, saved or pending, count as ended (log entry 24). -/
def execDieMapOut (die : Nat) (s : State) : Out :=
  .next (if s.dieAbsent die || !((s.die die).fwd.st == .orphan && (s.die die).held) then s
    else
      let s := s.stowTeam
      let here := s.allTeams.filter fun x => CoreId.die x.1 == die && CoreId.kind x.1 == .vector
      let s := s.without here
      let gone (g : Grid) : Nat :=
        (here.filter fun x => x.2.id.grid == g.id).length + (g.pending.filter fun r => g.lrec.dieOf r == die).length
          + (s.contexts.filter fun (x : Context) => x.team.id.grid == g.id && CoreId.die x.core == die).length
          + (g.kept.filter fun r => g.lrec.dieOf r == die).length
          + (if g.departed.isSome && has g.lrec.regionDies die && !has g.dies die then g.lrec.tpd else 0)
      let leave (g : Grid) : Grid :=
        { g with
          ended := g.ended + gone g, dies := if has g.lrec.regionDies die then insertN g.dies die else g.dies
          pending := g.pending.filter fun r => g.lrec.dieOf r != die
          kept := g.kept.filter fun r => g.lrec.dieOf r != die }
      let s := { s with
        grids := s.grids.map leave
        contexts := s.contexts.filter fun (x : Context) => CoreId.die x.core != die }
      let s := s.onDie die fun d => { d with absent := true, held := false, fwd := { d.fwd with st := .off } }
      let s := (s.mapUpdate (·.blankBlock die)).publishTree.withdrawAll
      let ends := s.grids.filter fun (g : Grid) => g.over && g.closing.isNone
      ends.foldl (fun s g => s.send (.gridEnd g.id)) s)

end Sys2Proof.Machine
end

