-- ==== Sys2Proof/Machine/Walk.lean ====
section
/-! DEFINITION. Page walks and the page service, invalidation of translations, rebase and sweep, replicated pages, retention, handler entry, parity and scrubbing (R260 to R270, R297 to R309, R432, R438, R465). -/

namespace Sys2Proof.Machine

/-! ### Walks (R260 to R263, R268) -/

/-- The entry that a walker reads next. -/
def Walking.entry (w : Walking) : Nat := entryAt w.level w.table w.req.va

/-- The walker of a request. -/
def State.walker (s : State) (m : WalkReq) : Option Walking := (s.die (CoreId.die m.core)).walking.find? (·.req == m)

/-- What a walker finds in its entry. -/
def State.readEntry (s : State) (w : Walking) : WalkRead := s.walkEntry w.req.asid w.req.dstab w.req.va w.level w.table

/-- Keeps a list within a size by dropping one entry, which is left open (log entry 9). -/
def State.dropOne {α : Type} (s : State) (l : List α) (n : Nat) : List α × State :=
  if l.length ≤ n then (l, s)
  else
    let (k, s) := s.drawNat l.length
    (l.eraseIdx k, s)

/-- A non-leaf entry enters the die's walk cache, which holds 4,096 (R260). -/
def State.cacheEntry (s : State) (d : Nat) (w : WalkEntry) : State :=
  let same (x : WalkEntry) : Bool := x.asid == w.asid && x.level == w.level && x.va == w.va
  let r := s.dropOne ((s.die d).walkCache.filter (!same ·)) 4095
  r.2.onDie d fun x => { x with walkCache := w :: r.1 }

/-- The set of a leaf in a cluster's translation cache: which it is is left open (R260, log entry 85). -/
def Leaf.set (l : Leaf) : Nat := Config.tcSet l.asid l.va l.size % 256

/-- A leaf enters the translation cache of the core in focus, which holds 64, and that of its cluster, 256 sets of 8 ways; a dispatch core
shares none (R260, log entry 85). -/
def State.cacheLeaf (s : State) (l : Leaf) : State :=
  let d := CoreId.die s.core.id
  let n := s.clusterOf s.core.id
  let same (x : Leaf) : Bool := x.asid == l.asid && x.va == l.va && x.size == l.size
  let r := s.dropOne (s.core.ltc.filter (!same ·)) 63
  let s := r.2.onCore fun c => { c with ltc := l :: r.1 }
  if CoreId.kind s.core.id = .dispatch then s
  else
    let tc := (s.cluster d n).tc.filter (!same ·)
    let inSet (x : Leaf) : Bool := Leaf.set x == Leaf.set l
    let r := s.dropOne (tc.filter inSet) 7
    r.2.onCluster d n fun c => { c with tc := l :: (r.1 ++ tc.filter (!inSet ·)) }

/-- Walks at the core in focus have ended: the one for whom they were made goes on when it awaits no other there (R262). A launch request
and a queued launch look again by themselves. -/
def State.walksDone (s : State) (who : WalkFor) : State :=
  if s.core.walks.any (·.owner == who) then s
  else match who with
    | .group c g => s.atCore c fun s => s.atGroup g State.poll
    | .engine id => s.wakeEng id
    | .unit id => s.send (.unitResultWrite s.core.id id)
    | .launch _ _ | .grid _ => s

/-- A walk ends: its walker takes the next request, and the result enters the caches and is held for the one that asked (R260, R262). An
entry that a line operation did not find serves no other access (R265). -/
def State.endWalk (s : State) (m : WalkReq) (o : WalkOut) : State :=
  let d := CoreId.die m.core
  let s := (s.onDie d fun x => { x with walking := x.walking.filter (·.req != m) }).nextWalk d
  let s := s.focusCore m.core
  let mine (h : WalkHeld) : Bool := h.owner == m.owner && h.asid == m.asid && h.page == walkPage m.va
  let s := s.onCore fun c => { c with
    walks := c.walks.filter (· != m)
    walkOuts := ⟨m.owner, m.asid, walkPage m.va, o, m.kind == 5 && o == .unresolved⟩ :: c.walkOuts.filter (!mine ·) }
  (match o with
    | .leaf l => s.cacheLeaf l
    | _ => s).walksDone m.owner

/-- The page service of a die is asked about a not-present entry (R263): in host-assisted mode by a fault record, once for each
entry. -/
def State.askService (s : State) (w : Walking) : State :=
  let m := w.req
  let d := CoreId.die m.core
  if !(s.die d).dutySel.getLsbD 2 then s.send (.pageServiceResolve m)
  else match (s.die d).faultRecs.find? fun r => (s.walker r.2).any fun x => x.entry == w.entry with
    | some r => s.onDie d fun x => { x with faultRecs := x.faultRecs ++ [(r.1, m)] }
    | none =>
      let q := (s.die d).faultSeq
      let c := (s.focusCore m.core).coreWord
      (s.onDie d fun x => { x with faultSeq := q + 1, faultRecs := x.faultRecs ++ [(q, m)] }).sendUp
        (upMessage 4 d [(8, 4, q.toNat), (0x10, 2, m.asid), (0x18, 8, m.va), (0x20, 1, m.kind), (0x24, 4, c)])

/-- A walker goes on from what it found in its entry (R254, R260, R263, R265). -/
def State.walkOn (s : State) (w : Walking) : State :=
  let m := w.req
  let d := CoreId.die m.core
  match s.readEntry w with
  | .out o => s.endWalk m o
  | .absent _ _ _ => if m.kind = 5 then s.endWalk m .unresolved else s.askService w
  | .down e =>
    let s := s.cacheEntry d ⟨m.asid, w.level, m.va / 2 ^ levelBit w.level * 2 ^ levelBit w.level, e⟩
    let next (x : Walking) : Walking := if x.req = m then ⟨m, w.level - 1, pteAddr e⟩ else x
    (s.onDie d fun x => { x with walking := x.walking.map next }).send (.walkComplete m)

/-- Whether the home of a table's line holds back a walker, as it does any agent that reads there (R75, R268, R274, R328, R334). -/
def State.tableHeld (s : State) (w : Walking) : Bool :=
  !s.dieAbsent (paDie w.entry) && s.lineHeld (s.homeEp (w.entry / 128)) ⟨0, 0⟩ (w.entry / 128) 0

/-- The other walkers of the die that are reading the line share what its read brings: they go on next, before the line can change (R261). -/
def State.shareRead (s : State) (w : Walking) : State :=
  let shares (x : Walking) : Bool := x.req != w.req && x.entry / 128 == w.entry / 128
  let ms := ((s.die (CoreId.die w.req.core)).walking.filter shares).map fun x => Instr.walkComplete x.req
  { s with agenda := s.agenda.filter (!ms.contains ·) }.requeue (ms.filter (s.agenda.contains ·))

/-- WALK_COMPLETE (R261 to R263, R265, R268): the read of one table line at its home comes back. -/
def execWalkComplete (m : WalkReq) (s : State) : Out :=
  .next (match s.walker m with
    | none => s
    | some w =>
      if s.tableHeld w then (s.askWay (w.entry / 128)).later 1 (.walkComplete m)
      else ((if s.dieAbsent (paDie w.entry) then s else s.useLines [w.entry / 128]).shareRead w).walkOn w)

/-- A frame of the die's pool for a leaf of a level, and the die without it (R263). The frames that stand in the pool are taken first; then
the control node fills it, with which of the die's frames, or not at all, being left open (log entry 55). -/
def Die.takeFrame (d : Die) (level : Nat) : Option Nat × Die :=
  let bit := levelBit level
  match d.freeFrames.find? (·.2 == bit) with
  | some f => (some f.1, { d with freeFrames := d.freeFrames.erase f })
  | none =>
    let n := (127 - d.rdcgib) * 2 ^ 30 / 2 ^ bit
    ((Config.poolFrame d.num bit d.poolFills).map fun x => paOf d.num (x % n * 2 ^ bit), { d with poolFills := d.poolFills + 1 })

/-- Zeroes a frame (R263). Lines that stand at their homes take a stamp, and the other lines of a slice are made resident, written and
evicted, so that MTS takes theirs. -/
def State.zeroFrame (s : State) (frame size : Nat) : State :=
  let inside (a w : Nat) : Bool := decide (frame ≤ a * w) && decide (a * w < frame + 2 ^ size)
  let s := { s with
    mem := s.mem.filter fun c => !inside c.1 1
    memPoison := s.memPoison.filter fun k => !inside k 32 }
  let s := (List.range 64).foldl (fun s k => s.onSlice (frame / 128 + k) fun x =>
    let e := s.homeEp (frame / 128)
    { x with mts := ⟨e, max (x.mts.read e + 1) ((s.die (paDie frame)).fwNow.read e)⟩ }) s
  (s.homes.filter fun h => inside h.line 128).foldl (fun s h => s.firmwareStamp h) s

/-- The entry that the page service writes: present, with its frame, and DZ clear (R263). -/
def resolvedPte (e : BitVec 64) (frame : Nat) : BitVec 64 :=
  ((e &&& ~~~(0x00FFFFFFFFFFF000 : BitVec 64)) ||| BitVec.ofNat 64 (frame / 256 * 4096 % 2 ^ 56)) &&& ~~~(0x800 : BitVec 64) ||| 1

/-- Whether the page service resolves a not-present entry: a local leaf at level 1 or 0 with DZ (R263). -/
def demandZero (level : Nat) (e : BitVec 64) : Bool := decide (level ≤ 1) && pteDz e && pteAttr e == 0 && pteLeaf e

/-- PAGE_SERVICE_RESOLVE (R263): an entry of demand-zero takes a frame of the pool, and the walk goes on; any other, and one for which the
pool is empty, is unresolved. An entry that another fault on it has resolved is read again. -/
def execPageServiceResolve (m : WalkReq) (s : State) : Out :=
  let d := CoreId.die m.core
  .next (match s.walker m with
    | none => s
    | some w =>
      if s.tableHeld w then (s.askWay (w.entry / 128)).later 1 (.pageServiceResolve m)
      else match s.readEntry w with
        | .absent level at' e =>
          if demandZero level e then
            let r := (s.die d).takeFrame level
            let s := s.onDie d fun _ => r.2
            match r.1 with
            | some frame =>
              ((s.zeroFrame frame (levelBit level)).firmwareWrite at' 8 (resolvedPte e frame).toNat).send (.walkComplete m)
            | none => s.endWalk m .unresolved
          else s.endWalk m .unresolved
        | _ => s.send (.walkComplete m))

/-- PAGEREPLY_WRITE (R263, R465): the fault is resolved, and its walks go on, or it is not. A sequence that matches no query is
ignored. -/
def execPagereplyWrite (die : Nat) (value : DWord) (s : State) : Out :=
  let q := BitVec.ofNat 32 value.toNat
  let mine := (s.die die).faultRecs.filter (·.1 == q)
  let s := s.onDie die fun x => { x with faultRecs := x.faultRecs.filter (·.1 != q) }
  .next (if value.getLsbD 32 then mine.foldl (fun s r => s.send (.walkComplete r.2)) s
    else mine.foldl (fun s r => s.endWalk r.2 .unresolved) s)

/-! ### Invalidation (R269, R270) -/

/-- TINV_GO (R269): a GO while BUSY is ignored. -/
def execTinvGo (die : Nat) (value : Word) (s : State) : Out :=
  .next (if s.dieAbsent die || (s.die die).tinv.busy || !value.getLsbD 31 then s
    else (s.onDie die fun d => { d with tinv := { d.tinv with cmd := value.extractLsb' 0 17, busy := true } }).send (.tinvDone die))

/-- Whether an invalidation covers a page of an address space. -/
def Tinv.covers (t : Tinv) (asid va size : Nat) : Bool :=
  let lo := bits t.va.toNat 55 16 * 2 ^ 16
  asid == t.cmd.toNat % 2 ^ 16
    && (t.len == 0 || (decide (lo < va + size) && decide (va < lo + t.len.toNat * 2 ^ 16)))

/-- No translation cache of a die holds the range of its invalidation any more, nor does any result that is held, and walks of the range
that are under way begin again (R270). The range and the ASID are taken as they stand in the registers then (log entry 86). -/
def State.dropRange (s : State) (die : Nat) : State :=
  let t := (s.die die).tinv
  let keep (l : Leaf) : Bool := !t.covers l.asid l.va (2 ^ l.size)
  let core (c : Core) : Core :=
    if CoreId.die c.id ≠ die then c
    else { c with ltc := c.ltc.filter keep, walkOuts := c.walkOuts.filter fun h => !t.covers h.asid (h.page * 2 ^ 16) (2 ^ 16) }
  let s := s.mapCores core
  let s := { s with clusters := s.clusters.map fun (c : Cluster) => if c.die = die then { c with tc := c.tc.filter keep } else c }
  s.onDie die fun d =>
    let d := if t.cmd.getLsbD 16 then
        { d with walkCache := d.walkCache.filter fun w => !t.covers w.asid w.va (2 ^ levelBit w.level) }
      else d
    let again (w : Walking) : Walking :=
      if t.covers w.req.asid (walkPage w.req.va * 2 ^ 16) (2 ^ 16) then
        let st := d.walkStart w.req.asid w.req.va w.req.troot
        ⟨w.req, st.1, st.2⟩
      else w
    { d with walking := d.walking.map again }

/-- The operation whose messages a release holds back at its core, under a translation that its issue used (R270, R287). -/
def Cont.unsent : Cont → Option Nat
  | .loads op _ _ | .stores op _ _ | .atoms op _ _ => some op
  | _ => none

/-- Whether an access of an address space from before a number has not been sent from its core (R270). -/
def State.unsentAt (s : State) (die asid before : Nat) : Bool :=
  s.allCores.any fun c => CoreId.die c.id == die && c.rels.any fun r =>
    (r.gid.any fun g => (c.teams.find? (·.id == g.team)).any fun (t : Team) => t.lrec.asid == asid)
      && ((Cont.unsent r.cont).any fun op => decide (op ≤ before))

/-- TINV_DONE (R270): the range is dropped, and BUSY clears once every access that used a dropped translation has been sent. -/
def execTinvDone (die : Nat) (s : State) : Out :=
  let t := (s.die die).tinv
  .next (if !t.busy then s
    else
      let (since, s) := match t.since with
        | some n => (n, s)
        | none => (s.fresh, s.dropRange die)
      if s.unsentAt die (t.cmd.toNat % 2 ^ 16) since then
        (s.onDie die fun d => { d with tinv := { d.tinv with since := some since } }).later 1 (.tinvDone die)
      else s.onDie die fun d => { d with tinv := { d.tinv with busy := false, since := none } })

/-! ### Rebase (R297 to R301) -/

/-- `%now` at a start (R299). -/
def stepNow (e : BitVec 2) (t : Stamp) : Stamp := ⟨e, max t.tick 0x800001 - 0x800000⟩

/-- What a core counts in ticks of its die's epoch at a start (R299): `%now`, and the largest WTS that releases, engine operations and unit
operations have met. -/
def Core.stepEpoch (e : BitVec 2) (c : Core) : Core :=
  { c with
    now := stepNow e c.now
    rels := c.rels.map fun r => { r with most := r.most - 0x800000 }
    engine := c.engine.map fun (o : EngOp) => { o with top := o.top - 0x800000 }
    units := c.units.map fun (o : UnitOp) => { o with top := o.top - 0x800000 } }

/-- What waited at the cores of a die for its start looks again (R301). -/
def State.wakeDie (s : State) (d : Nat) : State :=
  ((s.allCores.filter fun c => CoreId.die c.id == d && !c.retained).map (·.id)).foldl (fun s c => s.atCore c State.pump) s

/-- REBASE_START (R299, R301): the die enters the next epoch, and what waited for it goes on. -/
def execRebaseStart (die : Nat) (ep : BitVec 2) (s : State) : Out :=
  .next (if s.dieAbsent die || (s.die die).epoch + 1 != ep then s
    else
      let stalled := (s.die die).stalled
      let s := s.mapCores fun c => if CoreId.die c.id = die ∧ !c.retained then c.stepEpoch ep else c
      let s := s.onDie die fun d => { d with
        epoch := ep, rebases := d.rebases + 1, rebaseReq := false, rebaseGo := false, sweeping := true, stalled := []
        idleNow := stepNow ep d.idleNow }
      let port (t : Stamp) : Stamp := if t.ep + 1 = ep then stepNow ep t else t
      let s := { s with portNow := port s.portNow, ports := s.ports.map fun (x : Port) => { x with now := port x.now } }
      ((s.requeue stalled).send (.sweepDone die)).wakeDie die)

/-- A stored timestamp in an epoch (R297, R300). -/
def Stamp.swept (e : BitVec 2) (t : Stamp) : Stamp := ⟨e, if t.lost e then 0 else t.read e⟩

/-- A core's stored timestamps after the sweep of its die; a core in retention takes none (R300, R302). -/
def Core.sweep (e : BitVec 2) (c : Core) : Core :=
  if c.retained then c
  else { c with copies := c.copies.map fun x => { x with wts := Stamp.swept e x.wts, rts := Stamp.swept e x.rts } }

/-- SWEEP_DONE (R298, R300, R301): every stored value of the die stands in its epoch; a rebase that waited for the last sweep
starts. -/
def execSweepDone (die : Nat) (s : State) : Out :=
  let e := (s.die die).epoch
  let home (h : Home) : Home :=
    if lineDie h.line = die then { h with wts := Stamp.swept e h.wts, rts := Stamp.swept e h.rts } else h
  let s := { s with
    homes := s.homes.map home
    slices := s.slices.map fun (x : Slice) => if x.die = die then { x with mts := Stamp.swept e x.mts } else x }
  let s := s.mapCores fun c => if CoreId.die c.id = die then c.sweep e else c
  let s := s.mapGroups (fun c => CoreId.die c == die) fun _ g => { g with horizon := Stamp.swept e g.horizon }
  let s := s.onDie die fun d => { d with
    sweeping := false, rdc := d.rdc.map fun x => { x with wts := Stamp.swept e x.wts, rts := Stamp.swept e x.rts } }
  .next (if s.rebasing then s
    else match s.present.find? fun d => (s.die d).rebaseReq && (!(s.die d).hostRb || (s.die d).rebaseGo) with
      | some d => s.startRebase ((s.die d).epoch + 1)
      | none => s)

/-- BRBCMD_START (R298, R308): a requested rebase starts in host-assisted mode, after any sweep. -/
def execBrbcmdStart (die : Nat) (value : Word) (s : State) : Out :=
  .next (if s.dieAbsent die || !value.getLsbD 0 || !(s.die die).awaitsStart then s
    else if s.rebasing then s.onDie die fun d => { d with rebaseGo := true }
    else s.startRebase ((s.die die).epoch + 1))

/-! ### Replicated pages (R305, R309) -/

/-- The low bit of a page size in RPLCMD. -/
def rplSize (v : Word) : Nat := match (v.extractLsb' 0 2).toNat with | 0 => 16 | 1 => 21 | _ => 30

/-- A command on a replicated page: refused, without an entry, or performed on its directory entry (R305, R309). -/
def State.replCommand (s : State) (die : Nat) (value : Word) (k : ReplPage → State → State) : State :=
  if s.dieAbsent die || (s.die die).rplBusy.isSome || !value.getLsbD 31 then s
  else
    let frame := bits (s.die die).rplAddr.toNat 51 16 * 2 ^ 16
    let s := s.onDie die fun d => { d with rplCmd := value.extractLsb' 0 3, rplNoent := false }
    let none' (s : State) : State := s.onDie die fun d => { d with rplNoent := true }
    if value.extractLsb' 0 2 = 3 ∨ frame % 2 ^ rplSize value ≠ 0 then none' s
    else match (s.die die).replDir.find? (·.frame == frame) with
      | none => none' s
      | some p => k p s

/-- A directory entry changed. -/
def State.onRepl (s : State) (die frame : Nat) (f : ReplPage → ReplPage) : State :=
  s.onDie die fun d => { d with replDir := d.replDir.map fun p => if p.frame = frame then f p else p }

/-- RPLCMD_TEARDOWN (R305). -/
def execRplcmdTeardown (die : Nat) (value : Word) (s : State) : Out :=
  .next (s.replCommand die value fun p s =>
    let s := s.onRepl die p.frame fun q => { q with down := true }
    if p.dies.isEmpty then s
    else p.dies.foldl (fun s d => s.send (.drop ⟨die, d, p.frame, p.size⟩))
      (s.onDie die fun d => { d with rplBusy := some p.frame }))

/-- RPLCMD_CLEAR_DOWN (R305). -/
def execRplcmdClearDown (die : Nat) (value : Word) (s : State) : Out :=
  .next (s.replCommand die value fun p s => s.onRepl die p.frame fun q => { q with down := false })

/-! ### Retention (R302) -/

/-- CORE_RETENTION_ENTRY (R302): a core with no resident team enters retention with its copies. -/
def execCoreRetentionEntry (core : CoreId) (s : State) : Out :=
  let s := (s.focusCore core).stowTeam
  .next (if s.core.teams.isEmpty && !s.core.retained && !s.dieAbsent (CoreId.die core) then
      s.onCore fun c => { c with retained := true, retainedAt := (s.die (CoreId.die core)).rebases }
    else s)

/-- CORE_RETENTION_WAKE (R302). -/
def execCoreRetentionWake (core : CoreId) (s : State) : Out := .next (s.focusCore core).wakeCore

/-! ### Handler entry, parity and scrubbing (R432, R438) -/

/-- HANDLER_ENTRY (R432): a group with parked lanes that neither issues nor runs its handler enters it. -/
def execHandlerEntry (core : CoreId) (g : GroupId) (s : State) : Out :=
  .next ((s.focusCore core).atGroup g fun s => if s.grp.gst = .running then s else s.settle)

/-- A parity error in the cells of an accumulator poisons the row (R362, R438); an accumulator that is zero by its tag holds no cells. -/
def Acc.hit (a : Acc) (row : Nat) : Acc := if a.tag = .z then a else { a with bad := a.bad ||| BitVec.ofNat 64 (2 ^ row) }

/-- PARITY_ERROR (R438): the grid is killed with POISON, detail 8, or the row of the accumulator is poisoned. -/
def execParityError (core : CoreId) (hit : ParityHit) (s : State) : Out :=
  let s := s.focusCore core
  let d := CoreId.die core
  .next (match hit with
    | .grid grid => match s.coreTeams.find? (·.id.grid == grid) with
      | some t => (s.focusTeam t.id).killGrid 8 8
      | none => s
    | .row quad n row =>
      let k := if (s.acc d quad (pairOf n)).tag = .f64 then pairOf n else n
      s.putAcc d quad k ((s.acc d quad k).hit row))

/-- A die counts a corrected error (R438, R462). -/
def State.countFixed (s : State) (d : Nat) : State := s.onDie d fun x => { x with corrected := x.corrected + 1 }

/-- A bad 8-byte word of a core store: both its elements are poisoned, in a row of the segments or in the copy whose line the
row of the partition holds (R127, R438). -/
def Core.badWord (c : Core) (k : Nat) : Core :=
  let row := k / 16
  let first := 1024 - c.partRows
  if row < first then { c with storePoison := insertN (insertN c.storePoison (2 * k)) (2 * k + 1) }
  else
    let word := k % 16
    let two : BitVec 32 := BitVec.ofNat 32 (3 * 2 ^ (2 * word))
    { c with copies := c.copies.mapIdx fun i x => if i = row - first then { x with poison := x.poison ||| two } else x }

/-- CORE_STORE_SCRUB (R127, R438): the scrub corrects words, which the die counts, and poisons those that it cannot correct. -/
def execCoreStoreScrub (core : CoreId) (found : List WordError) (s : State) : Out :=
  .next (found.foldl (fun s e =>
    if 16384 ≤ e.word then s else if e.fixed then s.countFixed (CoreId.die core) else s.onCore (·.badWord e.word)) (s.focusCore core))

/-- One error of a Bureau (R438). -/
def State.sectorError (s : State) (e : SectorError) : State :=
  let line := e.sector / 4
  if e.fixed then s.countFixed (e.rdc.getD (lineDie line))
  else match e.rdc with
    | none => s.setSector e.sector true
    | some d => s.onDie d fun x => { x with rdc := x.rdc.map fun (r : RdcLine) =>
        if r.line = line then { r with poison := r.poison ||| BitVec.ofNat 4 (2 ^ (e.sector % 4)) } else r }

/-- HBM_SCRUB (R438). -/
def execHbmScrub (found : List SectorError) (s : State) : Out := .next (found.foldl State.sectorError s)

end Sys2Proof.Machine
end

