-- ==== Sys2Proof/Machine/Blocks.lean ====
section
/-! DEFINITION. Writes to the register blocks of a die, judged against the access tables, and the loader (R81 to R84, R263, R269, R307 to R309, R437, R453, R459, R464 to R469, R608, R631). -/

namespace Sys2Proof.Machine

/-- The state after a meaning that always goes on. -/
def Out.stateOr (o : Out) (s : State) : State :=
  match o with
  | .next t => t
  | _ => s

/-! ### Dretin Load Images (R468) -/

/-- `n` bytes from a list of bytes. -/
def sliceOf (bs : List Byte) (off n : Nat) : List Byte := (bs.drop off).take n

/-- A field of the container at a physical address. -/
def State.dliField (s : State) (a off n : Nat) : Nat := s.readNat (a + off) n

/-- Whether the container's header breaks R468. -/
def State.dliBad (s : State) (a : Nat) : Bool :=
  !s.inMemory a 128 || s.dliField a 0 4 != 0x31494C44 || s.dliField a 4 4 != 1
    || s.dliField a 8 4 == 0 || decide (256 < s.dliField a 8 4) || s.dliField a 16 112 != 0
    || !s.inMemory a (128 + 192 * s.dliField a 8 4)

/-- Whether a segment's table entry breaks R468. -/
def State.segBad (s : State) (a e : Nat) : Bool :=
  let f := s.dliField e 16 4
  s.dliField e 0 8 % 65536 != 0 || decide (2 ^ 56 ≤ s.dliField e 0 8) || s.dliField e 8 8 % 65536 != 0
    || decide (3 ≤ f) || s.dliField e 20 4 != 0 || !s.inMemory a (s.dliField e 24 8 + s.dliField e 8 8)

/-- A translation context with an address space, of the grids that are launched or of the dispatch cores (R251, R469). -/
def State.contextOf (s : State) (asid : Nat) : Option TransCtx :=
  match s.grids.find? fun (g : Grid) => g.lrec.asid == asid with
  | some g => some ⟨asid, g.lrec.troot, g.lrec.dstab⟩
  | none => (s.dies.find? fun (d : Die) => d.dispCtx.asid == asid).map (·.dispCtx)

/-- A leaf entry on the way of a load: the address of the entry, the entry, and the page's virtual base, size and frame. -/
structure LoadPage where
  entryAt : Nat
  entry : BitVec 64
  va : Nat
  size : Nat
  frame : Nat
  deriving DecidableEq, Repr

/-- The page of a virtual address for the loader: a present local leaf with X = 0, or none (R469). -/
def State.loadPage (s : State) (c : TransCtx) (va : Nat) : Option LoadPage :=
  match s.walk c.asid c.dstab va 4 c.troot with
  | (at', .out (.leaf l)) =>
    if l.attr = 0 ∧ paSpace l.frame = 0 ∧ !l.x then some ⟨at', BitVec.ofNat 64 (s.readNat at' 8), l.va, l.size, l.frame⟩ else none
  | _ => none

/-- The pages of a segment, 64 KiB by 64 KiB; none when one of them may not be loaded. -/
def State.loadPages (s : State) (c : TransCtx) (va : Nat) : Nat → Option (List LoadPage)
  | 0 => some []
  | n + 1 => match s.loadPage c va, s.loadPages c (va + 65536) n with
    | some p, some ps => some (p :: ps)
    | _, _ => none

/-- The physical address of a virtual address in its page. -/
def LoadPage.phys (p : LoadPage) (va : Nat) : Nat := p.frame + (va - p.va)

/-- A leaf entry with the segment's X and W (R253, R469). -/
def segmentPte (e : BitVec 64) (x w : Bool) : BitVec 64 :=
  (e &&& ~~~(0xC : BitVec 64)) ||| BitVec.ofNat 64 (b2n w * 4 + b2n x * 8)

/-- The bytes of a segment go to its pages, line by line, as firmware writes them. -/
def State.placeBytes (s : State) (ps : List LoadPage) (va : Nat) (bs : List Byte) : State :=
  (ps.zipIdx.foldl (fun s p =>
    (List.range 512).foldl (fun s k =>
      s.firmwareWrite (p.1.phys (va + 65536 * p.2) + 128 * k) 128 (leNat (sliceOf bs (65536 * p.2 + 128 * k) 128))) s) s)

/-- The outcome of a load: LDRSTAT's status and the failed segment. -/
structure LoadEnd where
  status : Nat
  failed : Nat := 0

/-- Loads the segments from number `k` (R469): copied, checked, extended, and only then made executable. -/
def State.loadSegs (s : State) (d a : Nat) (c : TransCtx) : Nat → Nat → LoadEnd × State
  | 0, _ => (⟨0, 0⟩, s)
  | n + 1, k =>
    let e := a + 128 + 192 * k
    let va := s.dliField e 0 8
    let len := s.dliField e 8 8
    if s.segBad a e then (⟨1, k⟩, s)
    else match s.loadPages c va (len / 65536) with
      | none => (⟨5, k⟩, s)
      | some ps =>
        let bs := s.bytes (a + s.dliField e 24 8) len
        let dig := BitVec.ofNat 384 (s.dliField e 32 48)
        let sig := BitVec.ofNat 768 (s.dliField e 80 96)
        let key := s.dliField a 12 4
        let head := s.bytes e 80
        let s := s.placeBytes ps va bs
        if Config.sha384 bs ≠ dig then (⟨2, k⟩, s)
        else if !Config.keyKnown key then (⟨4, k⟩, s)
        else if !Config.ecdsaVerify key (Config.sha384 head) sig then (⟨3, k⟩, s)
        else
          let s := s.onDie d fun x => { x with
            att := Config.sha384 (leBytes 48 x.att.toNat ++ leBytes 48 dig.toNat) }
          let s := ps.foldl (fun s p =>
            s.firmwareWrite p.entryAt 8 (segmentPte p.entry (bit (s.dliField e 16 4) 0) (bit (s.dliField e 16 4) 1)).toNat) s
          s.loadSegs d a c n (k + 1)

/-- The whole load (R469). -/
def State.loadImage (s : State) (d : Nat) : LoadEnd × State :=
  let l := (s.die d).loader
  let a := l.addr.toNat
  if s.dliBad a then (⟨1, 0⟩, s)
  else match s.contextOf (l.asid.toNat % 65536) with
    | none => (⟨5, 0⟩, s)
    | some c => s.loadSegs d a c (s.dliField a 8 4) 0

/-- LOADER_GO (R464, R469): a master without X on device memory is refused with status 6; a GO while BUSY is ignored. -/
def execLoaderGo (master die : Nat) (value : Word) (s : State) : Out :=
  let s' := s.onDie die fun d => { d with loader := { d.loader with cmd := value &&& 0x7FFFFFFF } }
  .next (if s.dieAbsent die || (s.die die).loader.busy || !value.getLsbD 31 then s
    else if !((s.die die).rights 0 master).getLsbD 2 then
      (s'.onDie die fun d => { d with loader := { d.loader with status := 6, failed := 0 } }).refuse die
    else (s'.onDie die fun d => { d with loader := { d.loader with busy := true, master := master, status := 0, failed := 0 } }).send
      (.loaderDone die))

/-- LOADER_DONE (R469): the load ends, or stops at the segment that failed. -/
def execLoaderDone (die : Nat) (s : State) : Out :=
  .next (if !(s.die die).loader.busy then s
    else
      let r := s.loadImage die
      r.2.onDie die fun d => { d with loader := { d.loader with busy := false, status := r.1.status, failed := r.1.failed } })

/-! ### The rights of a write (R464, R465) -/

/-- Whether a register holds a field named GO, DONE, START, HOSTMODE or HOSTRB, or lies in the duty block. -/
def configures (off : Nat) : Bool :=
  off == 0 || off == 8 || off == 0x1010 || off == 0x2000 || off == 0x2004 || off == 0x2018 || off / 0x1000 == 3 || off == 0x4010

/-- Whether a master may write at an offset. Only the management controller writes the access tables. -/
def State.mayWrite (s : State) (d off m : Nat) : Bool :=
  match targetOf off with
  | some t =>
    let r := (s.die d).rights t m
    r.getLsbD 1 && (!configures off || r.getLsbD 3)
  | none => off / 0x1000 == 6 && m == 1

/-! ### The registers (R82, R84, R269, R307 to R309, R437, R465, R469, R608) -/

/-- Rights that the management controller holds in an entry stay: they cannot be cleared (R464). -/
def keepOwn (old new : DWord) : DWord := new ||| (old &&& 0xF0)

/-- An entry of the access tables is written, 8 bytes at a time; bits above peer port 15's are zero. -/
def writeTable (l : List (DWord × DWord)) (off : Nat) (v : DWord) : List (DWord × DWord) :=
  let e := l.getD (off / 16) (0, 0)
  l.set (off / 16) (if off % 16 = 0 then (keepOwn e.1 v, e.2) else (e.1, v &&& 0xFFFF))

/-- A write to the clock unit (R81, R82, R84). -/
def State.clockWrite (s : State) (d off : Nat) (v : DWord) : State :=
  let w : Word := v.setWidth 32
  match off with
  | 0 =>
    if w.getLsbD 31 then (execFwdcfgGo d w s).stateOr s
    else s.onDie d fun x => { x with fwd := { x.fwd with hostMode := w.getLsbD 0, asked := some (cfgParent w, cfgChild w) } }
  | 4 => s.onDie d fun x => { x with fwd := { x.fwd with badCfg := x.fwd.badCfg && !w.getLsbD 3 } }
  | 8 => (execFwdcmdDone d w s).stateOr s
  | 0x10 => (execGtcrateWrite d v s).stateOr s
  | 0x18 => (execGtcslewWrite d v s).stateOr s
  | 0x20 => (execGtcstepWrite d v s).stateOr s
  | _ => s

/-- A write to translation control (R269). -/
def State.tinvWrite (s : State) (d off : Nat) (v : DWord) : State :=
  match off with
  | 0 => s.onDie d fun x => { x with tinv := { x.tinv with va := v &&& 0x00FFFFFFFFFF0000 } }
  | 8 => s.onDie d fun x => { x with tinv := { x.tinv with len := v } }
  | 0x10 =>
    if v.getLsbD 31 then (execTinvGo d (v.setWidth 32) s).stateOr s
    else s.onDie d fun x => { x with tinv := { x.tinv with cmd := v.setWidth 17 } }
  | _ => s

/-- HOSTRB (R298, R308): a rebase that awaits START starts with hardware mode. -/
def State.setHostRb (s : State) (d : Nat) (on : Bool) : State :=
  let s := s.onDie d fun x => { x with hostRb := on }
  if !on && (s.die d).rebaseReq && !s.rebasing then s.startRebase ((s.die d).epoch + 1) else s

/-- A write to Bureau control (R307 to R309). -/
def State.bureauWrite (s : State) (d off : Nat) (v : DWord) : State :=
  match off with
  | 0 => s.setHostRb d (v.getLsbD 0)
  | 4 => (execBrbcmdStart d (v.setWidth 32) s).stateOr s
  | 0x10 => s.onDie d fun x => { x with rplAddr := v &&& 0x000FFFFFFFFF0000 }
  | 0x18 =>
    if !v.getLsbD 31 then s.onDie d fun x => { x with rplCmd := v.setWidth 3 }
    else if v.getLsbD 2 then (execRplcmdClearDown d (v.setWidth 32) s).stateOr s
    else (execRplcmdTeardown d (v.setWidth 32) s).stateOr s
  | 0x1C => s.onDie d fun x => { x with rplNoent := x.rplNoent && !v.getLsbD 1 }
  | _ => s

/-- A write to the duty block (R465, R466, R608). -/
def State.dutyWrite (s : State) (d off : Nat) (v : DWord) : State :=
  match off with
  | 0 => s.onDie d fun x => { x with dutySel := v &&& 0xF }
  | 8 => (execPagereplyWrite d v s).stateOr s
  | 0x10 => (execPmreplyWrite d v s).stateOr s
  | 0x18 => (execScreplyWrite d v s).stateOr s
  | 0x20 => s.onDie d fun x => { x with scval := v.setWidth 32 }
  | 0x28 =>
    if v.getLsbD 62 then (execPmreqResume d v s).stateOr s
    else if v.getLsbD 63 then (execPmreqGo d v s).stateOr s
    else s.onDie d fun x => { x with pm := { x.pm with req := v &&& 0x20FFFFFFFFFFFFFF } }
  | _ => s

/-- A write to the loader (R469). -/
def State.loaderWrite (s : State) (m d off : Nat) (v : DWord) : State :=
  match off with
  | 0 => s.onDie d fun x => { x with loader := { x.loader with addr := v } }
  | 8 => s.onDie d fun x => { x with loader := { x.loader with asid := v.setWidth 32 } }
  | 0x10 =>
    if v.getLsbD 31 then (execLoaderGo m d (v.setWidth 32) s).stateOr s
    else s.onDie d fun x => { x with loader := { x.loader with cmd := v.setWidth 32 } }
  | _ => s

/-- A write to a core's watch entries (R437, R453). -/
def State.watchWrite (s : State) (d off : Nat) (v : DWord) : State :=
  let k := (off - 0x80000) / 32
  if 64 * 66 ≤ k ∨ off % 8 ≠ 0 then s
  else
    let back := s.core.id
    let home := s.gid
    ((s.focusCore (.vec d (k / 66) (k % 66))).onCore fun c => { c with watch := c.watch.set (off % 32 / 8) v }).focusCore back |>.focusGroup home

/-- The registers at which a write acts, with their sizes in bytes. -/
def regSize (off : Nat) : Nat :=
  match off / 0x1000 with
  | 0 => if has [0, 4, 8] off then 4 else if has [0x10, 0x18, 0x20] off then 8 else 0
  | 1 => if has [0x1000, 0x1008] off then 8 else if off = 0x1010 then 4 else 0
  | 2 => if has [0x2000, 0x2004, 0x2018, 0x201C] off then 4 else if off = 0x2010 then 8 else 0
  | 3 => if has [0x3000, 0x3008, 0x3010, 0x3018, 0x3028] off then 8 else if off = 0x3020 then 4 else 0
  | 4 => if off = 0x4000 then 8 else if has [0x4008, 0x4010] off then 4 else 0
  | 6 => if off % 8 = 0 ∧ off < 0x6080 then 8 else 0
  | n => if 0x10 ≤ n ∧ n < 0x20 then (if off % 0x1000 = 0 then 8 else 0)
    else if 0x80 ≤ n ∧ n ≤ 0xA0 ∧ off % 8 = 0 then 8 else 0

/-- A write that was allowed, at the register at an offset. -/
def State.regStore (s : State) (m d off : Nat) (v : DWord) : State :=
  match off / 0x1000 with
  | 0 => s.clockWrite d off v
  | 1 => s.tinvWrite d (off % 0x1000) v
  | 2 => s.bureauWrite d (off % 0x1000) v
  | 3 => s.dutyWrite d (off % 0x1000) v
  | 4 => s.loaderWrite m d (off % 0x1000) v
  | 6 => s.onDie d fun x => { x with tables := writeTable x.tables (off % 0x1000) v }
  | n =>
    if 0x80 ≤ n then s.watchWrite d off v
    else if portDie (n - 0x10) = d then s.postOrWait (n - 0x10) v.toNat
    else s

/-- A write of a whole register by a master (R464): whether it was allowed, and the state after it. A refused write is
dropped and counted. -/
def State.regWrite (s : State) (m d off : Nat) (v : DWord) : Bool × State :=
  if s.dieAbsent d then (true, s)
  else if s.mayWrite d off m then (true, s.regStore m d off v)
  else (false, s.refuse d)

/-- Bytes written in a register block by a master: each register whose bytes are all covered is written, in ascending
order. -/
def State.regWriteBytes (s : State) (m d off : Nat) (bs : List Byte) : Bool × State :=
  let whole := ((List.range bs.length).map (off + ·)).filter fun o => regSize o != 0 && decide (o + regSize o ≤ off + bs.length)
  if whole.isEmpty && !s.dieAbsent d && !s.mayWrite d off m then (false, s.refuse d)
  else whole.foldl (fun a o =>
    let r := a.2.regWrite m d o (BitVec.ofNat 64 (leNat (sliceOf bs (o - off) (regSize o))))
    (a.1 && r.1, r.2)) (true, s)

/-- ACCESS_TABLE_WRITE (R464). -/
def execAccessTableWrite (w : RegWrite) (s : State) : Out :=
  .next (s.regWriteBytes w.master w.die w.offset (leBytes w.size w.value.toNat)).2

/-- REGISTER_WRITE (R464). -/
def execRegisterWrite (w : RegWrite) (s : State) : Out :=
  .next (s.regWriteBytes w.master w.die w.offset (leBytes w.size w.value.toNat)).2

/-- Whether a block takes a write now: a posting write that is allowed waits until its port can perform it (R460). -/
def State.blockTakes (s : State) (m d off : Nat) (bs : List Byte) : Bool :=
  let b := off / 0x1000
  !(decide (0x10 ≤ b) && decide (b < 0x20) && off % 0x1000 == 0 && decide (8 ≤ bs.length) && portDie (b - 0x10) == d && s.mayWrite d off m)
    || s.postReady (b - 0x10) (leNat (bs.take 8))

/-- The writes of engines that are on their way reach their blocks, those of a block in their order; the block answers each once it is
performed (R453, R460, R464, R631). -/
def State.takeRegStores (s : State) : Option State :=
  let first (k : Nat) (w : RegStore) : Bool :=
    !((s.regStores.take k).any fun x => x.die == w.die && x.offset / 0x1000 == w.offset / 0x1000) && s.blockTakes 3 w.die w.offset w.bytes
  match (List.range s.regStores.length).find? fun k => (s.regStores[k]?).any (first k) with
  | none => none
  | some k => (s.regStores[k]?).map fun w =>
    let r := { s with regStores := s.regStores.eraseIdx k }.regWriteBytes 3 w.die w.offset w.bytes
    r.2.sysAnswer ⟨BitVec.ofNat 64 w.tag, if r.1 then 0 else 1, 0, []⟩

end Sys2Proof.Machine
end

