-- ==== Sys2Proof/Machine/Control.lean ====
section
/-! DEFINITION. Control transfers and structured control: BRA to EXIT, NOP and the ILL row (R100 to R107, R159, R168, R506 to R524, R549, R558, R571, R584, R590). -/

namespace Sys2Proof.Machine

/-! ### Targets (R159) -/

/-- A BADTARGET trap with its target. -/
def badTarget (target : Nat) : Trap := { kind := 2, addr := BitVec.ofNat 64 target }

/-- Whether a target's own bits break R159. -/
def targetMalformed (target : Nat) : Bool :=
  bits target 5 3 != 0 || decide (4 < target % 8) || decide (2 ^ 56 ≤ target)

/-- The trap that a taken transfer to a target meets, if any (R157, R159, R266). A poisoned target line reports the
target program counter. -/
def State.targetTrap (s : State) (target : Nat) : Option Trap :=
  if targetMalformed target then some (badTarget target)
  else
    match s.fetchLine (lineOf target) with
    | .line bs => if lineTarget bs (target % 8) then none else some (badTarget target)
    | .bad t => some (if t.kind = 8 then { t with addr := BitVec.ofNat 64 target } else t)

/-- The lines that checking targets reads. -/
def targetLines (ts : List Nat) : List Nat := (ts.filter (!targetMalformed ·)).map lineOf

/-- The target of a B instruction: its line plus 64·DELTA at SLOT (R174). A sum outside the 56-bit space wraps, which R174 leaves open
(log entry 82). -/
def BF.target (f : BF) (pc : BitVec 56) : Nat :=
  (((lineOf pc.toNat : Int) + 64 * f.delta.toInt).emod ((2 : Int) ^ 56)).toNat + f.slot.toNat

/-! ### Conditions (R174) -/

/-- The condition operand, for KIND 0b010 and 0b011. -/
def BF.condUse (f : BF) : Use := { o := f.cond, ty := .b32 }

/-- Whether a uniform condition holds after NEG: KIND 0b000, 0b001 or 0b010. -/
def State.uniformCond (s : State) (f : BF) : Bool :=
  let c := match f.kind.toNat with
    | 0 => true
    | 1 => s.grp.scc
    | _ => decide ((s.fetchUse (BF.condUse f) 0).1 ≠ 0)
  c != (f.neg == 1)

/-- Whether a uniform condition is poisoned. -/
def State.condPoisoned (s : State) (f : BF) : Bool := f.kind == 2 && (s.fetchUse (BF.condUse f) 0).2

/-- The sources that a per-lane condition reads. -/
def State.condSources (s : State) (f : BF) (l : Nat) : List Src :=
  if f.kind = 3 then s.sources [BF.condUse f] l else []

/-- The condition of a lane after NEG, none when it is poisoned (R439). -/
def State.laneCond (s : State) (f : BF) (l : Nat) : Option Bool :=
  if f.kind = 3 then
    let v := only (s.condSources f l)
    if v.2 then none else some (decide (uval 32 v.1 ≠ 0) != (f.neg == 1))
  else if s.condPoisoned f then none
  else some (s.uniformCond f)

/-! ### Moving lanes -/

/-- Where a lane goes: on to the following slot, to a target, or out. -/
inductive LaneGo where
  | on
  | goto (target : Nat)
  | leave
  | trap (t : Trap)
  deriving DecidableEq, Repr

/-- The lanes that go a certain way. -/
def going (gs : List (Nat × List Src × LaneGo)) (p : LaneGo → Bool) : List Nat :=
  gs.filterMap fun g => if p g.2.2 then some g.1 else none

/-- Moves each active lane its own way and every inactive lane of the issue set on (R102). A taken transfer is checked
under R159. -/
def State.scatter (s : State) (gs : List (Nat × List Src × LaneGo)) : State :=
  let pc := s.pc
  let gs := gs.map fun g => match g.2.2 with
    | .goto t => (g.1, g.2.1, match s.targetTrap t with | some x => LaneGo.trap x | none => .goto t)
    | _ => g
  let others := s.issueSet.filter fun l => !(gs.any (·.1 == l))
  let on := others ++ going gs (fun g => g == .on)
  let taken := gs.any fun g => match g.2.2 with | .goto _ => true | _ => false
  let s1 := s.onGrp fun g => (g.step on).exit (going gs (fun g => g == .leave))
  let s2 := gs.foldl (fun s g => match g.2.2 with
    | .goto t => s.onGrp (·.mapLanes fun k x => if k = g.1 then { x.completed with pc := BitVec.ofNat 56 t } else x)
    | .trap t => s.trapLane g.1 t g.2.1 []
    | _ => s) s1
  s2.retire pc taken

/-- Moves the whole issue set to a target, or parks all of it when the target fails R159 (R102); `rows` are those that the instruction
would write (R111, R112). -/
def State.jump (s : State) (target : Nat) (rows : List Nat) (before : State → State) : State :=
  s.translated (targetLines [target]) 3 fun s =>
    let pc := s.pc
    let set' := s.issueSet
    match s.targetTrap target with
    | some t => (s.trapLanes set' t rows).retire pc true
    | none =>
      ((before s).onGrp (·.mapLanes fun k x =>
        if has set' k then { x.completed with pc := BitVec.ofNat 56 target } else x)).retire pc true

/-- A uniform transfer under a condition of KIND 0b000 to 0b010 (R507, R512); `before` acts only when it is taken. -/
def State.uniformTransfer (s : State) (f : BF) (rows : List Nat) (before : State → State) : State :=
  if s.active.isEmpty then s.next
  else if s.condPoisoned f then s.trapActive (poisonTrap 4) rows
  else if s.uniformCond f then s.jump (BF.target f s.pc) rows before
  else s.next

/-! ### The instructions -/

/-- ILL (R168, R203): every active lane traps. -/
def execIll (detail : BitVec 8) (half : Bool) (s : State) : Out :=
  .next (s.trapActive { kind := 1, detail := detail, half := half } [])

/-- NOP (R571). -/
def execNop (f : V3) (s : State) : Out := .next (s.frame (.nop f) fun s => s.next)

/-- BRA (R507). -/
def execBra (f : BF) (s : State) : Out :=
  .next (s.frame (.bra f) fun s =>
    if f.kind = 3 then
      let go (s : State) := s.active.map fun l => (l, s.condSources f l, match s.laneCond f l with
        | none => LaneGo.trap (poisonTrap 4)
        | some true => .goto (BF.target f s.pc)
        | some false => .on)
      if (going (go s) (fun g => match g with | .goto _ => true | _ => false)).isEmpty then s.scatter (go s)
      else s.translated (targetLines [BF.target f s.pc]) 3 fun s => s.scatter (go s)
    else s.uniformTransfer f [] id)

/-- The link or target operand of CALL, RET and BRX (R174, R199). -/
def linkUse (o : Opnd) : Use := { o := o, ty := .b64, span := 2, pair := true }

/-- CALL (R512): each active lane's link receives the following slot. -/
def execCall (f : BF) (s : State) : Out :=
  .next (s.frame (.call f) fun s =>
    let ret : DWord := (nextPc s.pc).setWidth 64
    s.uniformTransfer f (Use.rows (linkUse f.link)) fun s =>
      match f.link with
      | .v n => s.writeVals n.toNat .b64 (s.active.map fun l => (l, ret))
      | o => s.writeS o.reg true ret)

/-- Each active lane goes to the program counter in its link (R509, R590). -/
def State.goLink (s : State) (i : Instr) (f : BF) : State :=
  s.frame i fun s =>
    let src (s : State) (l : Nat) : List Src := s.sources [linkUse f.link] l
    let ts := s.active.filterMap fun l => let v := only (src s l); if v.2 then none else some v.1.toNat
    s.translated (targetLines ts) 3 fun s =>
      s.scatter (s.active.map fun l =>
        let v := only (src s l)
        (l, src s l, if v.2 then .trap (poisonTrap 1) else .goto v.1.toNat))

/-- BRX (R509). -/
def execBrx (f : BF) (s : State) : Out := .next (s.goLink (.brx f) f)
/-- RET (R590). -/
def execRet (f : BF) (s : State) : Out := .next (s.goLink (.ret f) f)

/-- The change of a lane's nesting counter: a new value, or a trap. -/
inductive NestOut where
  | to (n : Nat)
  | trap (t : Trap)
  deriving DecidableEq, Repr

/-- Structured control on the issue set (R103 to R105): each lane's counter changes as given; a counter that would pass
63 traps with NEST and keeps its value. -/
def State.nesting (s : State) (vals : Nat → List Src) (f : Nat → Nat → NestOut) : State :=
  let pc := s.pc
  let outs : List (Nat × NestOut) := s.issueSet.map fun l => (l, match f l (s.lane l).nest.toNat with
    | .to n => if n ≤ 63 then NestOut.to n else .trap { kind := 3 }
    | t => t)
  let ok := outs.filterMap fun o => match o.2 with | .to _ => some o.1 | .trap _ => none
  let s1 := s.onGrp (·.mapLanes fun k x =>
    match (outs.find? (·.1 == k)).map (·.2) with
    | some (NestOut.to n) => { x with nest := BitVec.ofNat 6 n }
    | _ => x)
  let s2 := outs.foldl (fun s o => match o.2 with
    | .trap t => s.trapLane o.1 t (vals o.1) []
    | .to _ => s) s1
  (s2.onGrp (·.step ok)).retire pc false

/-- IF (R103, R549). -/
def execIfc (f : BF) (s : State) : Out :=
  .next (s.frame (.ifc f) fun s =>
    s.nesting (s.condSources f) fun l n =>
      if 0 < n then .to (n + 1)
      else match s.laneCond f l with
        | none => .trap (poisonTrap 4)
        | some c => .to (if c then 0 else 1))

/-- ELSE (R103, R521). -/
def execElsec (f : BF) (s : State) : Out :=
  .next (s.frame (.elsec f) fun s =>
    s.nesting (fun _ => []) fun _ n => .to (if n = 0 then 1 else if n = 1 then 0 else n))

/-- ENDIF (R103, R521). -/
def execEndif (f : BF) (s : State) : Out :=
  .next (s.frame (.endif f) fun s => s.nesting (fun _ => []) fun _ n => .to (n - 1))

/-- LOOP (R104, R558). -/
def execLoop (f : BF) (s : State) : Out :=
  .next (s.frame (.loop f) fun s => s.nesting (fun _ => []) fun _ n => .to (if 0 < n then n + 2 else 0))

/-- BREAKIF and CONTIF (R104): active lanes whose condition holds take the counter given. -/
def State.loopLeave (s : State) (f : BF) (n : Nat) : State :=
  s.nesting (s.condSources f) fun l k =>
    if 0 < k then .to k
    else match s.laneCond f l with
      | none => .trap (poisonTrap 4)
      | some c => .to (if c then n else 0)

/-- BREAKIF (R508). -/
def execBreakif (f : BF) (s : State) : Out :=
  .next (s.frame (.breakif f) fun s => s.loopLeave f (f.depth.toNat + 2))
/-- CONTIF (R516). -/
def execContif (f : BF) (s : State) : Out :=
  .next (s.frame (.contif f) fun s => s.loopLeave f (f.depth.toNat + 1))

/-- ENDLOOP (R104, R522): counters of 1 fall to 0; with a lane at 0 the issue set takes the back edge, otherwise every
counter falls by 2. -/
def execEndloop (f : BF) (s : State) : Out :=
  .next (s.frame (.endloop f) fun s =>
    let set' := s.issueSet
    if set'.any (fun l => (s.lane l).nest.toNat ≤ 1) then
      s.jump (BF.target f s.pc) [] fun s =>
        s.onGrp (·.mapLanes fun k x => if has set' k && x.nest == 1 then { x with nest := 0 } else x)
    else s.nesting (fun _ => []) fun _ n => .to (n - 2))

/-- RECONV (R106, R584): the issue set enters RCWAIT. -/
def execReconv (f : BF) (s : State) : Out :=
  .next (s.frame (.reconv f) fun s =>
    let set' := s.issueSet
    (s.onGrp (·.mapLanes fun k x => if has set' k then { x.completed with st := .rcwait } else x)).retire s.pc true)

/-- EXIT (R524). -/
def execExit (f : BF) (s : State) : Out :=
  .next (s.frame (.exit f) fun s =>
    s.scatter (s.active.map fun l => (l, s.condSources f l, match s.laneCond f l with
      | none => .trap (poisonTrap 4)
      | some true => .leave
      | some false => .on)))

end Sys2Proof.Machine
end

