-- ==== Sys2Proof/Machine/Mgmt.lean ====
section
/-! DEFINITION. Window requests of the control port and the management controller (R454 to R456, R462 to R464, R467). -/

namespace Sys2Proof.Machine

/-! ### Window requests (R455, R456) -/

/-- The line of a window request. -/
def winLine (m : WindowReq) : Nat := m.addr / 128

/-- Whether a window request breaks the limits of R455 and R456. -/
def winBad (s : State) (k : WinKind) (m : WindowReq) : Bool :=
  let off := m.addr % 128
  paSpace m.addr != 0 || s.dieAbsent (paDie m.addr) ||
    match k with
    | .read => m.size % 8 != 0 || m.size == 0 || decide (128 < m.size) || off % 8 != 0 || decide (128 < off + m.size)
      || m.mask != 0 || m.value != 0
    | .write => m.size != 0 || off != 0 || m.value != 0
    | .add => m.size != 0 || off % 8 != 0 || m.mask != 0

/-- Whether a line lies in a replicated page or in a panel-map image, which a window may not write (R303, R455). -/
def State.winClosed (s : State) (line : Nat) : Bool :=
  let a := line * 128
  let d := paDie a
  (decide (mapImage d ≤ a) && decide (a < mapImage d + 2 ^ 30))
    || (s.die d).replDir.any fun p => decide (p.frame ≤ a) && decide (a < p.frame + 2 ^ p.size)

/-- The port answers a window request (R454, R456). -/
def State.winReply (s : State) (m : WindowReq) (status old : Nat) (data : List Byte) : State :=
  s.sendUp (upMessage 6 (paDie m.addr) [(8, 8, m.tag.toNat), (0x10, 4, status), (0x14, 4, m.size), (0x18, 8, old)]
    (data ++ List.replicate (roundUp data.length 64 - data.length) 0))

/-- A reply raises the port clock (R298, R455). -/
def State.portSees (s : State) (line wts : Nat) : State :=
  let e := s.homeEp line
  let n := max (s.portNow.read e) wts + 1
  { s with portNow := ⟨e, n⟩ }.noteTick (lineDie line) n

/-- A window request to a register block, judged for the control node (R453, R464). Register blocks take no atomic. -/
def State.winReg (s : State) (k : WinKind) (m : WindowReq) (d off : Nat) : State :=
  match k with
  | .read =>
    let ok := s.mayRead d off 0
    let s' := if ok then s else s.refuse d
    s'.winReply m (if ok then 0 else 1) 0 (sliceOf (leBytes 128 (s.regBytes 0 d off)) (m.addr % 128) m.size)
  | .write =>
    let step (a : Bool × State) (o : Nat) : Bool × State :=
      let n := regSize (off + o)
      if n = 0 ∨ m.mask.toNat / 2 ^ o % 2 ^ n ≠ 2 ^ n - 1 then a
      else
        let r := a.2.regWrite 0 d (off + o) (BitVec.ofNat 64 (lineNat m.bytes o n))
        (a.1 && r.1, r.2)
    let r := (List.range 128).foldl step (true, s)
    r.2.winReply m (if r.1 then 0 else 1) 0 []
  | .add => (s.refuse d).winReply m 1 0 []

/-- Performs a window request at its home (R455, R456, R464). -/
def State.performWindow (s : State) (k : WinKind) (m : WindowReq) : State :=
  let d := paDie m.addr
  let line := winLine m
  if winBad s k m then s.winReply m 2 0 []
  else match regLine line with
    | some r => s.winReg k m r.1 r.2
    | none =>
      let ok := ((s.die d).rights 0 0).getLsbD (if k = .read then 0 else 1)
      if !ok then (s.refuse d).winReply m 1 0 (if k = .read then List.replicate m.size 0 else [])
      else match k with
        | .read =>
          let r := s.homeFor line
          let bad := touchesWords (sectorWords (r.2.linePoison line)) (m.addr % 128) m.size
          (r.2.portSees line (r.1.wts.read (s.homeEp line))).winReply m (if bad then 3 else 0) 0
            (r.2.bytes m.addr m.size)
        | .write =>
          if s.winClosed line then s.winReply m 1 0 []
          else
            let r := s.engWrite (.port 0) s.portNow
              { line := line, mask := m.mask, bytes := m.bytes, poison := 0, noAlloc := true, stream := false }
            (r.2.portSees line r.1).winReply m 0 0 []
        | .add =>
          if s.winClosed line then s.winReply m 1 0 []
          else
            let old := s.readNat m.addr 8
            let bad := (s.linePoison line).getLsbD (m.addr % 128 / 32)
            if bad then (s.portSees line ((s.homeWts line).read (s.homeEp line))).winReply m 3 old []
            else
              let r := s.engAtomic (.port 0) s.portNow true m.addr (· + m.value) false
              (r.2.portSees line r.1).winReply m 0 old []

/-- Whether a window request can be performed: no earlier one names its line, its die runs, and its home does not hold the line
back (R75, R301, R328, R455). The register blocks answer a held die's requests too; a posting write waits for its port (R460). -/
def State.windowReady (s : State) (before : List (WinKind × WindowReq)) (x : WinKind × WindowReq) : Bool :=
  !(before.any fun y => winLine y.2 == winLine x.2)
    && (winBad s x.1 x.2 || match regLine (winLine x.2) with
      | some r => x.1 != .write || x.2.mask.toNat % 256 != 255 || s.blockTakes 0 r.1 r.2 (leBytes 8 x.2.bytes.toNat)
      | none => !s.stopped (paDie x.2.addr) && !s.lineHeld s.portNow.ep s.portNow (winLine x.2) 2)

/-- The first window request that can be performed, by its place. -/
def State.nextWindow (s : State) : Option Nat :=
  (List.range s.windows.length).find? fun k => (s.windows[k]?).any fun x => s.windowReady (s.windows.take k) x

/-- Performs the first window request that can be performed. -/
def State.pumpWindow (s : State) : Option State :=
  s.nextWindow.bind fun k => (s.windows[k]?).map fun x => { s with windows := s.windows.eraseIdx k }.performWindow x.1 x.2

/-- A window request arrives; it waits behind the earlier ones of its line, and for its home (R75, R455). -/
def State.arriveWindow (s : State) (k : WinKind) (m : WindowReq) : State :=
  if s.windowReady s.windows (k, m) then s.performWindow k m else { s with windows := s.windows ++ [(k, m)] }

/-- WINDOW_READ (R455, R456). -/
def execWindowRead (m : WindowReq) (s : State) : Out := .next (s.arriveWindow .read m)

/-- WINDOW_WRITE (R455, R456). -/
def execWindowWrite (m : WindowReq) (s : State) : Out := .next (s.arriveWindow .write m)

/-- WINDOW_ATOMIC_ADD (R455, R456). -/
def execWindowAtomicAdd (m : WindowReq) (s : State) : Out := .next (s.arriveWindow .add m)

/-- WINDOW_UPSTREAM_REPLY (R456). -/
def execWindowUpstreamReply (m : UpAns) (s : State) : Out := .next (s.sysAnswer m)

/-- CONTROL_LANE_LOSS (R454): no message is lost. -/
def execControlLaneLoss (lane : Nat) (s : State) : Out := .next { s with lanesLost := insertN s.lanesLost lane }

/-! ### PLDM (R462, R467) -/

/-- The management controller answers. -/
def State.answer (s : State) (m : MgmtMsg) : State := { s with mgmt := s.mgmt ++ [m] }

/-- PLDM_BASE_DISCOVERY (R462). -/
def execPldmBaseDiscovery (s : State) : Out := .next (s.answer .baseDiscovery)

/-- The depth of a die in the clock tree. -/
def State.depthOf (s : State) (d : Nat) : Nat := ((s.rootOf 13 d).map (·.2)).getD 0

/-- PLDM_SENSOR_READ (R462): 40 die temperatures, 40 die powers and the module's power, which the module measures and nothing
fixes (log entry 6), then 40 corrected-error counts and 40 skew classes. -/
def execPldmSensorRead (sensor : Nat) (s : State) : Out :=
  .next (if sensor < 81 then
      let r := s.drawBits
      r.2.answer (.sensor sensor r.1)
    else if sensor < 121 then s.answer (.sensor sensor (BitVec.ofNat 64 (s.die (sensor - 81)).corrected))
    else if sensor < 161 then
      s.answer (.sensor sensor (if Panel.noPlace s.dies (sensor - 121) then 0xFF else BitVec.ofNat 64 (skewClass (s.depthOf (sensor - 121)))))
    else s.answer (.noSensor sensor))

/-- PLDM_FIRMWARE_UPDATE (R467): the image is a body and a signature. If it verifies, every attestation record is zeroed and
extended with the digest; if not, it is discarded, and no die leaves OFF. -/
def execPldmFirmwareUpdate (image : List Byte) (s : State) : Out :=
  let body := image.take (image.length - 96)
  let dig := Config.sha384 body
  let sig := BitVec.ofNat 768 (leNat (image.drop (image.length - 96)))
  .next (if 96 ≤ image.length ∧ Config.ecdsaVerify 0 dig sig then
      let rec0 : BitVec 384 := Config.sha384 (leBytes 48 0 ++ leBytes 48 dig.toNat)
      ({ (s.present.foldl (fun s d => s.onDie d fun x => { x with att := rec0 }) s) with
        firmware := ⟨dig, false⟩ } : State).answer (.firmware true)
    else ({ s with firmware := { s.firmware with failed := true } } : State).answer (.firmware false))

/-! ### SPDM (R462, R463) -/

/-- GET_VERSION (R462). -/
def execGetVersion (s : State) : Out := .next (s.answer .version)

/-- GET_CAPABILITIES (R462). -/
def execGetCapabilities (s : State) : Out := .next (s.answer .capabilities)

/-- NEGOTIATE_ALGORITHMS (R462): ECDSA P-384 with SHA-384 and nothing else. -/
def execNegotiateAlgorithms (ecdsa sha : Nat) (s : State) : Out :=
  .next (s.answer (.algorithms (ecdsa == 384 && sha == 384)))

/-- GET_DIGESTS (R462). -/
def execGetDigests (s : State) : Out := .next (s.answer (.digests (Config.sha384 Config.certificate)))

/-- GET_CERTIFICATE (R463). -/
def execGetCertificate (s : State) : Out := .next (s.answer (.certificate Config.certificate))

/-- CHALLENGE (R463): signed with the module's key. -/
def execChallenge (nonce : List Byte) (s : State) : Out := .next (s.answer (.challenge (Config.ecdsaSign nonce)))

/-- GET_MEASUREMENTS (R463). -/
def execGetMeasurements (index : Nat) (s : State) : Out :=
  .next (s.answer (if index = 1 then .measurement 1 s.firmware.digest
    else if 2 ≤ index ∧ index < 42 then
      .measurement index (if s.dieAbsent (index - 2) then 0 else (s.die (index - 2)).att)
    else .noMeasurement index))

/-! ### What waits outside the agenda -/

/-- The first peer port with a frame that can be performed now. -/
def State.pumpPorts (s : State) : Option State := (s.ports.map (·.num)).findSome? s.pumpPort

/-- The line at whose home a group waits: for its access, or for the read of its SEMWAIT. -/
def Group.lineAwaited (g : Group) : Option Nat :=
  match g.waiting?.map Wait.what with
  | some (.line l) => some l
  | some (.sem pa _ _ _ 0 _) => if pa = holeAddr then none else some (pa / 128)
  | _ => none

/-- The homes of window requests, peer frames and groups that wait are asked for ways (R274). -/
def State.pumpWays (s : State) : Option State :=
  let frames := (s.ports.map fun (p : Port) => (p.inbox.map fun f => frameLines f.1 f.2).flatten).flatten
  let groups := s.allGroups.filterMap fun x => x.2.2.lineAwaited
  ((s.windows.map fun x => winLine x.2) ++ frames ++ groups).find? s.lacksWay |>.map s.askWay

/-- Whether the wait of a group that is WAITING on a die that runs is over (R109, R110). -/
def State.groupDue (s : State) (c : CoreId) (g : GroupId) (x : Group) : Bool :=
  match x.gst, x.wait.map Wait.what with
  | .waiting, some w => !s.stopped (CoreId.die c) && (match w with
    | .line l => !s.lineHeld (s.die (CoreId.die c)).epoch (s.coreOf c).now l 0
    | .rendezvous => false
    | w => ((s.focusCore c).focusGroup g).waitDue w)
  | _, _ => false

/-- The first group whose wait is over goes on (R109, R110). -/
def State.pumpWaits (s : State) : Option State :=
  (s.allGroups.find? fun x => s.groupDue x.1 x.2.1 x.2.2).map fun x =>
    (s.focusCore x.1).atGroup x.2.1 fun s =>
      match x.2.2.wait.map Wait.what with
      | some (.line _) => (s.onGrp Group.retry).settle
      | _ => s.poll

/-- What waits outside the agenda and can go on now: register writes of engines, window requests, peer frames, the reads of SEMWAITs, and
groups whose wait is over. -/
def State.waitingInput (s : State) : Option State :=
  match s.takeRegStores with
  | some t => some t
  | none => match s.pumpWindow with
    | some t => some t
    | none => match s.pumpPorts with
      | some t => some t
      | none => match s.pumpSem with
        | some t => some t
        | none => match s.pumpWaits with
          | some t => some t
          | none => s.pumpWays

end Sys2Proof.Machine
end

