-- ==== Sys2Proof/Machine/Fetch.lean ====
section
/-! DEFINITION. Issue arbitration, fetching a slot, which messages can be delivered, and what moves next (R30, R33, R74, R75, R98, R100, R108, R147, R157 to R160, R203, R275, R423, R426). -/

namespace Sys2Proof.Machine

/-! ### Issue arbitration (R426) -/

/-- A READY group with the team that holds it. -/
structure Ready where
  team : Team
  grp : Group
  deriving DecidableEq, Repr

/-- Its name. -/
def Ready.id (r : Ready) : GroupId := ⟨r.team.id, r.grp.num⟩

/-- Whether a team's groups may issue: not while it saves or flushes (R445, R446). -/
def Team.issues (t : Team) : Bool := !(t.pre.any fun p => p.mode != 0)

/-- The READY groups of a core. -/
def State.readyGroups (s : State) : List Ready :=
  ((s.coreTeams.filter Team.issues).map fun t => (t.groups.filter (·.gst == .ready)).map fun g => Ready.mk t g).flatten

/-- Whether a group may not win yet: a group over which it won has stayed READY since and has not won (R426). -/
def Ready.barred (all : List Ready) (r : Ready) : Bool :=
  r.grp.wonOver.any fun w => all.any fun x => x.id == w.1 && x.grp.readyNo == w.2

/-- The PMASK and AMASK bits of a group for an object that another group of its team awaits (R426, step 1). -/
def State.lacksArrival (s : State) (t : Team) (a g : Nat) : Bool :=
  let o := BarObj.unpack (BitVec.ofNat 128 (Memory.readNat Memory.zeros s.core.store (t.base * 128 + a) 16))
  o.pmask.getLsbD g && !o.amask.getLsbD g

/-- Step 1 of R426 for a group. -/
def State.prefers1 (s : State) (r : Ready) : Bool :=
  (r.team.groups.filter fun g => g.num != r.grp.num && g.gst == .waiting).any fun g =>
    match g.wait.map Wait.what with
    | some (.barrier a _ none) => s.lacksArrival r.team a r.grp.num
    | some (.tile n (some true)) =>
      (r.team.tile n).any (fun e => tileState e == 2) && (r.grp.role != g.role || r.team.lrec.c == 0)
    | _ => false

/-- Step 2 of R426 for a group. -/
def prefers2 (r : Ready) : Bool :=
  r.grp.role == 0 && (r.team.groups.filter fun g => g.role == 1 && g.gst == .waiting).any fun g =>
    match g.wait.map Wait.what with
    | some (.tile n _) => (r.team.tile n).any fun e => tileState e == 0
    | _ => false

/-- The order of step 3 of R426. -/
def Ready.before (a b : Ready) : Bool :=
  decide (a.grp.readyAt < b.grp.readyAt)
    || (a.grp.readyAt == b.grp.readyAt && (decide (a.team.placed < b.team.placed)
      || (a.team.placed == b.team.placed && decide (a.grp.num < b.grp.num))))

/-- The first of a list under step 3. -/
def firstReady : List Ready → Option Ready
  | [] => none
  | r :: rs => match firstReady rs with
    | none => some r
    | some x => some (if x.before r then x else r)

/-- The winner of a run boundary (R426). -/
def State.winner (s : State) (all : List Ready) : Option Ready :=
  let fit := all.filter fun r => !r.barred all
  match fit.filter s.prefers1, fit.filter prefers2 with
  | [], [] => firstReady fit
  | [], l => firstReady l
  | l, _ => firstReady l

/-- ISSUE_GRANT (R74, R96, R426): at a run boundary the winner takes the issue slot. -/
def execIssueGrant (core : CoreId) (s : State) : Out :=
  .next (if s.stopped (CoreId.die core) then s
    else
      let s := s.focusCore core
      if s.core.slot.isSome || s.core.retained then s
      else
        let all := s.readyGroups
        match s.winner all with
        | none => s
        | some r =>
          let ends := (all.filter fun x => x.id != r.id).map fun x => (x.id, x.grp.readyNo)
          let s := s.focusGroup r.id
          { s with
            core := { s.core with slot := some s.gid }
            grp := { s.grp with gst := .running, runLen := 0, woke := false, wonOver := ends } })

/-! ### Fetching a slot (R98, R157 to R160) -/

/-- The lanes of a fresh group are checked at the transfer to its entry (R159, R423): the trap, if any. -/
def State.entryTrap (s : State) : Option Trap := if s.grp.entering then s.targetTrap s.pc.toNat else none

/-- The instruction that a line holds at a slot (R155, R156, R158, R203). -/
def slotInstr (bs : List Byte) (slot : Nat) : Instr :=
  if lineReserved bs ≠ 0 then .ill 1 false
  else match decode (linePair bs slot) (lineSlot bs slot) with
    | .ok i => i
    | .undefinedOpcode _ => .ill 2 false
    | .undefinedHalfOp second _ => .ill 2 second

/-- Fetches the slot at the issue PC of the group in focus: the instruction, or the state after a walk was asked for or the
lanes trapped (R157, R262, R266). -/
def State.fetch (s : State) : Option Instr × State :=
  let pc := s.pc.toNat
  let line := lineOf pc
  if !(s.missing [line]).isEmpty then (none, s.translated [line] 3 id)
  else
    match s.entryTrap with
    | some t =>
      let all := s.issueSet
      let s := (s.onGrp fun g => { g with entering := false }).dropHeld [line]
      (none, (s.trapLanes all t []).retire s.pc true)
    | none =>
      let s := s.onGrp fun g => { g with entering := false }
      match s.fetchLine line with
      | .bad t => (none, (s.dropHeld [line]).trapActive t [])
      | .line bs => (some (slotInstr bs (pc % 8)), { s.dropHeld [line] with fetched := ⟨lineRunEnd bs (pc % 8)⟩ })

/-- The next slot of a core: that of the group which holds its issue slot (R108). -/
def State.issue (s : State) (c : CoreId) : Option Instr × State :=
  let s := s.focusCore c
  match s.core.slot with
  | none => (none, s)
  | some g => (s.focusGroup g).fetch

/-! ### Delivery (R30, R33, R74, R75, R275) -/

/-- Events that belong to the step which raised them, or to the clk at which their time comes: nothing comes between (R62, R81, R88, R89,
R97, R114, R452). -/
def urgent : Instr → Bool
  | .teamEnd _ _ | .regroupJoin _ _ | .restore _ _ | .slewComplete | .rateWordSwitch _ _ | .gtcstepApply _ _ | .waittDeadline _ _
  | .launchStartTime _ _ | .pllLockTimeout _ => true
  | _ => false

/-- A channel in which messages keep their order: packets of one core on one route (R33), requests of one core or port to one slice
and the answers of one line to one core (R275), replicas of one home at one die (R305), and packets and closes of one rank to one
binner (R374, R375). -/
inductive Channel where
  | route (c : CoreId) (n : Nat)
  | request (w : Who) (die ch : Nat)
  | answer (line : Nat) (c : CoreId)
  | replica (home die : Nat)
  | binner (d : Nat) (g : GridId) (rank : Nat)
  deriving DecidableEq, Repr

/-- The channel of a request to the home of a line; a core and its engine send as one. -/
def requestTo (w : Who) (line : Nat) : Channel :=
  .request (match w with | .engine c _ => .core c | w => w) (lineDie line) (lineChannel line)

/-- The channels of a message. -/
def channelsOf : Instr → List Channel
  | .peerAccessArrive m => [.route m.src m.route]
  | .packetArrive m => [.route m.src m.route]
  | .xpeerWriteArrive m => [.route m.src m.route]
  | .arrive m => [.route m.src m.route]
  | .leave m => [.route m.src m.route]
  | .read m | .renewq m => [requestTo (.core m.src) m.line]
  | .cpbk m => [requestTo m.who m.line]
  | .atomq m => [requestTo m.who m.line]
  | .hold m | .unhold m => [requestTo (.core m.core) m.line]
  | .yield m => [requestTo (.core m.core) m.line]
  | .benchContribution m => [requestTo m.who m.line]
  | .prep m => [requestTo (.core m.core) m.line]
  | .commit m => [requestTo (.core m.core) m.line]
  | .dataMsg m => .answer m.line m.dst :: (if m.repl then [.replica (lineDie m.line) (CoreId.die m.dst)] else [])
  | .extend m => [.answer m.line m.dst]
  | .cpbkack m => ((Who.core? m.who).map (Channel.answer m.line)).toList
  | .recall m => [.answer m.line m.holder]
  | .drop m => [.replica m.home m.die]
  | .binnerPacketArrive m => [.binner m.die m.grid (PrimPacket.rank m.packet)]
  | .binnerCloseArrive m => [.binner m.die m.grid m.rank]
  | _ => []

/-- The dies on the direct way between two dies: along the row, then along the column (R31). -/
def dieWay (a b : Nat) : List Nat :=
  let row (x : Nat) : Bool := decide (min (a % 8) (b % 8) ≤ x) && decide (x ≤ max (a % 8) (b % 8))
  let col (y : Nat) : Bool := decide (min (a / 8) (b / 8) ≤ y) && decide (y ≤ max (a / 8) (b / 8))
  (((List.range 8).filter row).map (a / 8 * 8 + ·)) ++ (((List.range 5).filter col).map (8 * · + b % 8))

/-- The dies through which a packet on a route number passes. -/
def State.routeWay (s : State) (c : CoreId) (n : Nat) (dst : CoreId) : List Nat :=
  match (s.coreOf c).routes.find? (·.num == n) with
  | some r => CoreId.die c :: Panel.routeDies s.dies c r.entry
  | none => dieWay (CoreId.die c) (CoreId.die dst)

/-- The home die of the semaphore for which a group waits: a check of its deadline waits while that die is held (R75). -/
def State.semHome (s : State) (c : CoreId) (g : GroupId) : List Nat :=
  match (s.allGroups.find? fun x => x.1 == c && x.2.1 == g).bind fun x => x.2.2.waiting? with
  | some ⟨.sem pa _ _ _ _ _, _, _⟩ => if pa = holeAddr then [] else [paDie pa]
  | _ => []

/-- The dies that a message passes, both ends included (R31, R75). -/
def State.wayOf (s : State) : Instr → List Nat
  | .peerAccessArrive m => s.routeWay m.src m.route m.dst
  | .packetArrive m => s.routeWay m.src m.route m.dst
  | .xpeerWriteArrive m => s.routeWay m.src m.route m.dst
  | .arrive m => s.routeWay m.src m.route m.dst
  | .leave m => s.routeWay m.src m.route m.dst
  | .read m | .renewq m => dieWay (CoreId.die m.src) (if s.throughRdc m then CoreId.die m.src else lineDie m.line)
  | .cpbk m => (Who.die m.who).elim [] (dieWay · (lineDie m.line))
  | .atomq m => (Who.die m.who).elim [] (dieWay · (lineDie m.line))
  | .benchContribution m => (Who.die m.who).elim [] (dieWay · (lineDie m.line))
  | .hold m | .unhold m | .holdack m => dieWay (CoreId.die m.core) (lineDie m.line)
  | .yield m => dieWay (CoreId.die m.core) (lineDie m.line)
  | .prep m | .prepack m | .commitack m => dieWay (CoreId.die m.core) (lineDie m.line)
  | .commit m => dieWay (CoreId.die m.core) (lineDie m.line)
  | .dataMsg m => dieWay (CoreId.die m.dst) (lineDie m.line)
  | .extend m => dieWay (CoreId.die m.dst) (lineDie m.line)
  | .cpbkack m => (Who.die m.who).elim [] (dieWay · (lineDie m.line))
  | .recall m => dieWay (CoreId.die m.holder) (lineDie m.line)
  | .drop m | .dropack m => dieWay m.home m.die
  | .launchLeadRequest d m => dieWay (CoreId.die m.src) d
  | .launchDistribute d g => dieWay g.lead d
  | .semwaitTimeout c g => s.semHome c g
  | _ => []

/-- Whether firmware has room for its stamps, in every image of the map and in a frame that it zeroes (R51, R263, R301): an update raises
those of a die by less than 0x4000. -/
def State.mapRoom (s : State) : Bool :=
  s.present.all fun d =>
    let e := (s.die d).epoch
    let top := (s.homes.filter fun h => lineDie h.line == d).foldl (fun t h => max t (h.rts.read e)) ((s.die d).fwNow.read e)
    let most := (s.slices.filter fun x => x.die == d).foldl (fun t (x : Slice) => max t (x.mts.read e)) top
    decide (most + 0x4000 ≤ tickMax)

/-- Events in which firmware may write the panel map or a page table. -/
def firmwareActs : Instr → Bool
  | .panelMapUpdate _ | .pllLock _ | .pllLockTimeout _ | .rerootParentAssign _ | .rerootResume | .dieMapOut _ | .fwdcfgGo _ _
  | .pageServiceResolve _ | .startMessage _ _ | .restore _ _ | .routeEntryTaken _ _ | .loaderDone _ => true
  | _ => false

/-- Whether a message can be handled: no die that it acts on or passes stands still, and firmware has room for its stamps (R74, R75, R301). -/
def State.canReach (s : State) (m : Instr) : Bool :=
  let still (d : Nat) : Bool := s.stopped d && !s.dieAbsent d
  !((s.actsAt m).any still) && !((s.wayOf m).any still) && (!firmwareActs m || s.mapRoom)

/-- Whether message `k` of the agenda can be delivered: it can be handled, and no earlier message of a channel of it waits. -/
def State.deliverable (s : State) (k : Nat) : Bool :=
  match s.agenda[k]? with
  | none => false
  | some m => s.canReach m && !((s.agenda.take k).any fun x => (channelsOf x).any fun c => (channelsOf m).contains c)

/-- Takes message `k` out of the agenda. -/
def State.take (s : State) (k : Nat) : Option Instr × State := (s.agenda[k]?, { s with agenda := s.agenda.eraseIdx k })

/-- A core whose group in its issue slot can issue. -/
def canIssue (c : Core) : Bool := c.slot.isSome

/-- A core with a free issue slot and a READY group. -/
def canGrant (c : Core) : Bool :=
  c.slot.isNone && !c.retained && c.teams.any fun t => t.issues && t.groups.any (·.gst == .ready)

/-- Whether a core has a slot to issue, or an issue slot to grant, which a held die does not (R74). -/
def State.moves (s : State) (c : Core) : Bool :=
  (canIssue c && s.clocked (CoreId.die c.id)) || (canGrant c && !s.stopped (CoreId.die c.id))

/-- What moves when the schedule says nothing: a message that can be delivered; otherwise, turn about, a slot or grant of the
core that has stood back longest, and a clk. -/
def State.default (s : State) : Option Instr × State :=
  match (List.range s.agenda.length).find? s.deliverable with
  | some k => s.take k
  | none =>
    match s.beat, s.allCores.reverse.find? s.moves with
    | false, some c =>
      let s := { s with beat := true }
      if canIssue c then s.issue c.id else (some (.issueGrant c.id), s)
    | _, _ => (none, { s with beat := false }.tick)

/-- What the schedule names next. -/
def State.scheduled (s : State) : Option Instr × State :=
  match s.sched with
  | .deliver k :: r =>
    let s := { s with sched := r }
    if s.deliverable k then s.take k else (none, s)
  | .issue c :: r =>
    let s := { s with sched := r }
    if s.clocked (CoreId.die c) then s.issue c else (none, s)
  | .clk :: r => (none, { s with sched := r }.tick)
  | [] => s.default

/-- What moves next: first what belongs to the step before, then what has waited at a home or die and goes on, then an input that waits
and can be performed, then what the schedule names. -/
def State.pick (s : State) : Option Instr × State :=
  match s.agenda.findIdx? fun m => urgent m && s.canReach m with
  | some k => s.take k
  | none => match s.arrived.findIdx? s.canReach with
    | some k => (s.arrived[k]?, { s with arrived := s.arrived.eraseIdx k })
    | none => match s.waitingInput with
      | some t => (none, t)
      | none => s.scheduled

end Sys2Proof.Machine
end

