-- ==== Sys2Proof/Machine/Pair.lean ====
section
/-! DEFINITION. Paired slots: the 44 half-ops and the instruction that issues two of them as one (R179 to R182, R200 to R202, R519). -/

namespace Sys2Proof.Machine

/-- What a half-op writes and the flags it raises, from its sources; a half that rounds uses the mode given (R180, R201). -/
def halfOut (h : Half) (mode : Rm) (vs : List (BitVec 64)) : List (Nat × Word × Bool) × FpFlags :=
  let t := h.type.getD .b32
  let a := nth vs 0
  let b := nth vs 1
  let n := h.dst.toNat
  let int (x : BitVec 64) : List (Nat × Word × Bool) × FpFlags := (putVal n t x, 0)
  let fp (r : BitVec 64 × FpFlags) : List (Nat × Word × Bool) × FpFlags := outVal n t r
  match h.op with
  | .mov => int a
  | .iadd => int (intAdd t a b)
  | .isub => int (intSub t a b)
  | .imul => int (intMul t a b)
  | .imulh => int (intMulh t a b)
  | .imin => int (intMin t a b)
  | .imax => int (intMax t a b)
  | .ineg => int (intNeg t a)
  | .iabs => int (intAbs t a)
  | .fadd => fp (fpAdd t mode a b)
  | .fmul => fp (fpMul t mode a b)
  | .fmin => fp (fpMinMax false t a b)
  | .fmax => fp (fpMinMax true t a b)
  | .fldexp => fp (fpLdexp t mode a b)
  | .frint => fp (fpRint t mode a)
  | .fclass => (put32 n (2 ^ fpClass t a), 0)
  | .and => int (bitAnd t a b)
  | .andn => int (bitAndn t a b)
  | .or => int (bitOr t a b)
  | .orn => int (bitOrn t a b)
  | .xor => int (bitXor t a b)
  | .not => int (bitNot t a)
  | .shl => int (bitShl t a b)
  | .shr => int (bitShr t a b)
  | .shra => int (bitShra t a b)
  | .rotl => int (bitRotl t a b)
  | .brev => int (reverseBits t.width a)
  | .clz => (put32 n (leadingZeros t.width a), 0)
  | .ffs => (put32 n (ffsOf t.width a), 0)
  | .popc => (put32 n (popcount t.width a), 0)
  | .frcp => fp (fpRcp t a)
  | .frsq => fp (fpRsq t a)
  | .fsqrt => fp (fpSqrt t mode a)
  | .fexp2 => fp (fpExp2 t a)
  | .flog2 => fp (fpLog2 t a)
  | .fsin => fp (fpSinCos false t a)
  | .fcos => fp (fpSinCos true t a)
  | .ftanh => fp (fpTanh t a)
  | .cvtF32 | .cvtF16 | .cvtBF16 | .cvtI32 | .cvtF64 => fp (convert h.srcTy t mode false a)

/-- The sources of a half. -/
def Half.sourceUses (h : Half) : List Use := h.enc.uses.drop 1

/-- PAIRED_SLOT (R182): both halves read before either writes, a trap in either half keeps both from writing the lane,
and the flags of both are ORed. HALF is set when only the second half trapped (R429). -/
def execPairedSlot (x y : Half) (s : State) : Out :=
  let ux := Half.sourceUses x
  let us := ux ++ Half.sourceUses y
  .next (s.frame (.pairedSlot x y) fun s =>
    let mode := Rm.ofCode 0 s.rmCode 0
    let rs := s.active.map fun l =>
      let vs := s.sources us l
      let vx := vs.take ux.length
      let vy := vs.drop ux.length
      let bx := vx.any (·.2)
      if bx || vy.any (·.2) then (l, vs, LaneOut.trap { poisonTrap 1 with half := !bx })
      else
        let rx := halfOut x mode (vx.map (·.1))
        let ry := halfOut y mode (vy.map (·.1))
        (l, vs, .done (rx.1 ++ ry.1) (rx.2 ||| ry.2))
    s.commit rs (x.writes ++ y.writes))

end Sys2Proof.Machine
end

