-- ==== Sys2Proof/Machine/Regroup.lean ====
section
/-! DEFINITION. REGROUP and REPACK: the arrival of lanes, joining, and the move of lanes among the groups of a role (R114 to R117, R217, R548, R587, R588). -/

namespace Sys2Proof.Machine

/-! ### Arrival (R114, R116, R588) -/

/-- The target and key of a lane of REGROUP. -/
def regroupUses (f : GF) : List Use := [{ o := f.a, ty := .b64, span := 2, pair := true }, uV f.b]

/-- What a lane of the issue set brings, or its trap: NEST, POISON, BADTARGET in this order (R588). -/
def State.arrival (s : State) (regroup : Bool) (f : GF) (l : Nat) : Trap ⊕ Meet :=
  if (s.lane l).nest ≠ 0 then .inl { kind := 3 }
  else if !regroup then .inr ⟨false, f.count.toNat, nextPc s.pc, 0⟩
  else
    let vs := s.sources (regroupUses f) l
    if vs.any (·.2) then .inl (poisonTrap 1)
    else
      let target := (nth (vs.map (·.1)) 0).toNat
      match s.targetTrap target with
      | some t => .inl t
      | none => .inr ⟨true, f.count.toNat, BitVec.ofNat 56 target, (nth (vs.map (·.1)) 1).setWidth 16⟩

/-- The lanes of the issue set arrive: those that trap park, and the others stand at the instruction (R114). -/
def State.arriveLanes (s : State) (regroup : Bool) (f : GF) : State :=
  let pc := s.pc
  let outs := s.issueSet.map fun l => (l, s.arrival regroup f l)
  let stand (m : Meet) (x : Lane) : Lane := { x.completed with st := .rdv, meet := some m }
  let s := outs.foldl (fun s (o : Nat × (Trap ⊕ Meet)) => match o.2 with
    | .inl t => s.trapLane o.1 t (if regroup then s.sources (regroupUses f) o.1 else []) []
    | .inr m => s.onLane o.1 (stand m)) s
  s.retire pc true

/-- The targets whose lines an arrival reads. -/
def State.arrivalTargets (s : State) (f : GF) : List Nat :=
  (s.active.map fun l => s.sources (regroupUses f) l).filterMap fun vs =>
    if vs.any (·.2) then none else some (nth (vs.map (·.1)) 0).toNat

/-- An arrival under the frame of R112 and R203. An N that is too large is one of the checks of R203: its ILL parks the active lanes, and the
other lanes of the issue set move on (R116 as R204 says it, DEDUCED, log entry 32). -/
def State.rendezvous (s : State) (i : Instr) (regroup : Bool) (f : GF) : State :=
  s.frame i fun s =>
    if regroup then s.translated (targetLines (s.arrivalTargets f)) 3 fun s => s.arriveLanes true f else s.arriveLanes false f

/-- REGROUP (R114, R587, R588). -/
def execRegroup (f : GF) (s : State) : Out := .next (s.rendezvous (.regroup f) true f)

/-- REPACK (R114, R587, R588). -/
def execRepack (f : GF) (s : State) : Out := .next (s.rendezvous (.repack f) false f)

/-! ### The move (R115, R116) -/

/-- A lane on its way: its key in the rendezvous order, its old group and lane, and its v0 to vN with their poison. -/
structure Mover where
  meet : Meet
  group : Nat
  lane : Nat
  vals : List (Word × Bool)
  deriving DecidableEq, Repr

/-- Whether a lane comes before another by target and key; ties keep the order in which they are given (R115). -/
def Mover.before (a b : Mover) : Bool :=
  decide (a.meet.target < b.meet.target) || (a.meet.target == b.meet.target && decide (a.meet.key < b.meet.key))

/-- Inserts a lane behind those that do not come after it. -/
def insertMover (m : Mover) : List Mover → List Mover
  | [] => [m]
  | x :: xs => if Mover.before m x then m :: x :: xs else x :: insertMover m xs

/-- The rendezvous order of lanes given by old group and lane (R115): REPACK keeps that order, its targets and keys being
equal. -/
def rendezvousOrder (ms : List Mover) : List Mover := ms.foldl (fun l m => insertMover m l) []

/-- The lanes of a joined group, by number. -/
def State.moversOf (s : State) (g : Group) : List Mover :=
  (g.which (·.st == .rdv)).filterMap fun l =>
    (g.lane l).meet.map fun m => ⟨m, g.num, l, (List.range (m.n + 1)).map fun n => s.elem ((g.base + n) * 128 + 4 * l)⟩

/-- Inserts a group by its number. -/
def insertGroup (g : Group) : List Group → List Group
  | [] => [g]
  | x :: xs => if g.num < x.num then g :: x :: xs else x :: insertGroup g xs

/-- The groups of the team in focus. -/
def State.meetGroups (s : State) : List Group := (s.grp :: s.team.groups).filter (!·.lanes.isEmpty)

/-- The groups that complete the rendezvous of a role, by number: none until every group of the role that has not ended has joined,
then those at the lowest program counter (R114). -/
def State.joinedGroups (s : State) (role : Nat) : List Group :=
  let live := s.meetGroups.filter fun g => g.role == role && g.gst != .ended
  let pc (g : Group) : BitVec 56 := (g.wait.map (·.pc)).getD 0
  if live.all fun g => g.joined && g.gst == .waiting && g.wait.any fun w => w.what == .rendezvous then
    match leastPc (live.map pc) with
    | some p => (live.filter fun g => pc g == p).foldl (fun l g => insertGroup g l) []
    | none => []
  else []

/-- A position of a resulting group: its new lane, or none. What belongs to the position stays (R116, log entry 32). -/
def Lane.receive (x : Lane) (m : Option Mover) : Lane :=
  match m with
  | some m => { x with st := .run, pc := m.meet.target, nest := 0, replay := false, log := none, back := none, meet := none }
  | none => { x with st := .exited, nest := 0, replay := false, log := none, back := none, meet := none }

/-- The values that every resulting group takes (R116, R217, R548). -/
structure Merged where
  fpstat : BitVec 5
  horizon : Stamp
  fx : Bool
  inn : Bool
  rm : BitVec 3
  randv : BitVec 8
  deriving DecidableEq, Repr

/-- The merged values of the joined groups, the lowest-numbered first. -/
def State.merge (s : State) (js : List Group) : Merged :=
  { fpstat := (js.map (·.fpstat)).foldl (· ||| ·) 0
    horizon := ⟨s.ep, (js.map fun g => g.horizon.read s.ep).foldl max 0⟩
    fx := js.any (·.fx), inn := js.all (·.inn)
    rm := (js.headD {}).rm, randv := (js.headD {}).randv }

/-- Copies the four rows of uniform and buffer-record registers of one group to the group in focus, with poison and uniform tags
(R136, R116). -/
def State.copyUniform (s : State) (g : Group) : State :=
  let src := g.base + g.win
  let dst := s.grp.base + s.grp.win
  if src = dst then s
  else
    let s := (List.range 128).foldl (fun s k => let e := s.elem (src * 128 + 4 * k); s.setElem (dst * 128 + 4 * k) e.1 e.2) s
    s.onCore fun c => { c with
      mixed := (List.range 4).foldl (fun m k =>
        if has m (s.team.base + src + k) then insertN m (s.team.base + dst + k) else eraseN m (s.team.base + dst + k)) c.mixed }

/-- The group in focus becomes a resulting group with the lanes given to it (R115, R116). -/
def State.receive (s : State) (first : Group) (v : Merged) (part : List Mover) : State :=
  let s := s.writeLanes ((part.zipIdx.map fun (x : Mover × Nat) =>
    x.1.vals.zipIdx.map fun w => LaneWrite.mk w.2 x.2 w.1.1 w.1.2).flatten)
  let s := s.copyUniform first
  (s.onGrp fun g =>
    { g.mapLanes (fun k x => x.receive part[k]?) with
      wait := none, joined := false, fpstat := v.fpstat, horizon := v.horizon, fx := v.fx, inn := v.inn, rm := v.rm, randv := v.randv }).settle

/-- A rendezvous that can complete does so in one move (R114 to R117). -/
def State.tryMeet (s : State) (role : Nat) : State :=
  match s.joinedGroups role with
  | [] => s
  | first :: rest =>
    let js := first :: rest
    let order := rendezvousOrder ((js.map s.moversOf).flatten)
    let v := s.merge js
    js.zipIdx.foldl (fun s (x : Group × Nat) =>
      s.atGroup ⟨s.team.id, x.1.num⟩ fun s => s.receive first v ((order.drop (32 * x.2)).take 32)) s

/-- REGROUP_JOIN (R114): a group all of whose lanes stand at one REGROUP or REPACK joins once its loads and stores are done. -/
def execRegroupJoin (core : CoreId) (g : GroupId) (s : State) : Out :=
  let s := s.focusCore core
  .next (s.atGroup g fun s =>
    if s.grp.gst == .waiting && (s.grp.wait.any fun w => w.what == .rendezvous) && s.grp.loads == 0 && s.grp.stores == 0 then
      (s.onGrp fun g => { g with joined := true }).tryMeet s.grp.role
    else s)

end Sys2Proof.Machine
end

