-- ==== Sys2Proof/Machine/System.lean ====
section
/-! DEFINITION. TRAP, BKPT, SYSCALL, ERET, IDEM and PROGRESS (R434, R442, R505, R523, R547, R548, R576, R607, R608). -/

namespace Sys2Proof.Machine

/-- Every active lane that does not replay traps; a replay completes with no effect (R505, R608). -/
def State.trapUnlessReplay (s : State) (t : Trap) : State :=
  let new := s.active.filter fun l => !(s.lane l).replay
  let rest := s.issueSet.filter fun l => !has new l
  ((s.trapLanes new t []).onGrp (·.step rest)).retire s.pc false

/-- TRAP (R608). -/
def execTrap (f : SF) (s : State) : Out :=
  .next (s.frame (.trap f) fun s => s.trapUnlessReplay { kind := 0x10, code := f.code })

/-- BKPT (R505). -/
def execBkpt (f : SF) (s : State) : Out :=
  .next (s.frame (.bkpt f) fun s => s.trapUnlessReplay { kind := 0x0F })

/-- The upstream message of a SYSCALL (R434, R454): the parked-lane mask and, for each lane in it, 24 bytes. -/
def State.syscallMessage (s : State) (code : Nat) : List Byte :=
  let ls := s.grp.which (·.handler)
  let mask := ls.foldl (fun m l => m ||| 2 ^ l) 0
  upMessage 3 (CoreId.die s.core.id)
    [(8, 2, s.team.id.grid.lid), (0xC, 4, s.team.id.rank), (0x10, 1, s.grp.num), (0x14, 4, mask), (0x18, 2, code)]
    ((ls.map fun l =>
      let x := s.lane l
      leBytes 8 x.cause.toNat ++ leBytes 8 x.tpc.toNat ++ leBytes 8 x.taddr.toNat).flatten)

/-- SYSCALL (R434, R608): in a handler it asks the control node and waits for the reply; elsewhere it acts as TRAP. -/
def execSyscall (f : SF) (s : State) : Out :=
  .next (s.frame (.syscall f) fun s =>
    if s.grp.inHandler then
      if s.active.isEmpty then s.next
      else ((s.onGrp Group.effect).sendUp (s.syscallMessage f.code.toNat)).waitFor (.reply f.dst.reg)
    else (if s.active.isEmpty then s else s.onGrp Group.effect).trapUnlessReplay { kind := 0x10, code := f.code })

/-- ERET (R433, R523): the active handler lanes return to PARKED, marked for replay, and the run ends. -/
def execEret (f : SF) (s : State) : Out :=
  .next (s.frame (.eret f) fun s =>
    let act := s.active
    let rest := s.issueSet.filter fun l => !has act l
    (s.onGrp fun g => (g.step rest).eret act).retire s.pc true)

/-- IDEM and IDEM.END (R548). -/
def execIdem (f : SF) (s : State) : Out :=
  .next (s.frame (.idem f) fun s =>
    (if s.active.isEmpty then s
    else s.onGrp fun g =>
      if f.sub = 0 then (if g.fx then g else { g with inn := true }) else { g with inn := false }).next)

/-- PROGRESS (R442, R576): the estimate of remaining clk, or its withdrawal. -/
def execProgress (f : SF) (s : State) : Out :=
  .next (s.once (.progress f) [uSN f.a] fun s vs =>
    let n := uval 32 (nth vs 0)
    { s with team := { s.team with progress := if n = 0xFFFFFFFF then none else some n } }.next)

end Sys2Proof.Machine
end

