-- ==== Sys2Proof/Machine/Texture.lean ====
section
/-! DEFINITION. TEX and TEXQ on a cluster's texture unit (R397 to R399). -/

namespace Sys2Proof.Machine

/-- A texture descriptor (R397). -/
structure TexDesc where
  base : Nat
  w : Nat
  h : Nat
  levels : Nat
  fmt : Nat
  clamp : Bool
  fbBase : Nat
  fbSize : Nat
  fbCount : Nat
  deriving DecidableEq, Repr

/-- The fields of a descriptor's 128 bytes. -/
def TexDesc.parse (bs : List Byte) : TexDesc :=
  { base := fieldOf bs 0 8, w := fieldOf bs 8 2 + 1, h := fieldOf bs 0xA 2 + 1, levels := fieldOf bs 0xC 1, fmt := fieldOf bs 0xD 1
    clamp := fieldOf bs 0xE 1 == 1, fbBase := fieldOf bs 0x10 8, fbSize := fieldOf bs 0x18 4, fbCount := fieldOf bs 0x20 8 }

/-- Whether a descriptor breaks R397. -/
def texBad (bs : List Byte) : Bool :=
  let d := TexDesc.parse bs
  d.base % 65536 != 0 || decide (2 ^ 56 ≤ d.base) || decide (16384 < d.w) || decide (16384 < d.h) || d.levels == 0
    || decide (15 < d.levels) || decide (2 < d.fmt) || decide (1 < fieldOf bs 0xE 1) || fieldOf bs 0xF 1 != 0
    || fieldOf bs 0x1C 4 != 0 || !zeroFrom bs 0x28 88

/-- Bytes of a texel. -/
def TexDesc.texel (d : TexDesc) : Nat := match d.fmt with | 1 => 8 | _ => 4

/-- Width and height of a level. -/
def TexDesc.dim (d : TexDesc) (k : Nat) : Nat × Nat := (max 1 (d.w / 2 ^ k), max 1 (d.h / 2 ^ k))

/-- Where a level starts. -/
def TexDesc.start (d : TexDesc) (k : Nat) : Nat :=
  d.base + ((List.range k).map fun j => roundUp ((d.dim j).1 * (d.dim j).2 * d.texel) 65536).sum

/-- An index brought into a dimension (R398). -/
def TexDesc.wrap (d : TexDesc) (n : Nat) (i : Int) : Nat := if d.clamp then (max 0 (min i (n - 1))).toNat else (i % n).toNat

/-- The virtual address of a texel. -/
def TexDesc.addr (d : TexDesc) (k : Nat) (x y : Int) : Nat :=
  let n := d.dim k
  d.start k + (d.wrap n.2 y * n.1 + d.wrap n.1 x) * d.texel

/-- A texel with its weight. -/
structure Tap where
  level : Nat
  va : Nat
  weight : Frac
  deriving DecidableEq, Repr

/-- A coordinate; one that is not finite reads as 0 (R398). -/
def texCoord (x : BitVec 64) : Frac := (Ty.f32.ext x).frac

/-- The nearest texel of a level. -/
def TexDesc.point (d : TexDesc) (k : Nat) (u v : Frac) : Tap :=
  let n := d.dim k
  ⟨k, d.addr k (u.mul ⟨n.1, 1⟩).floor (v.mul ⟨n.2, 1⟩).floor, ⟨1, 1⟩⟩

/-- A fraction cut to 256ths. -/
def to256 (x : Frac) : Frac := ⟨(x.mul ⟨256, 1⟩).floor, 256⟩

/-- The four texels of a level with their weights, scaled (R398). -/
def TexDesc.bilin (d : TexDesc) (k : Nat) (u v scale : Frac) : List Tap :=
  let n := d.dim k
  let x := (u.mul ⟨n.1, 1⟩).sub ⟨1, 2⟩
  let y := (v.mul ⟨n.2, 1⟩).sub ⟨1, 2⟩
  let x0 := x.floor
  let y0 := y.floor
  let a := to256 (x.sub ⟨x0, 1⟩)
  let b := to256 (y.sub ⟨y0, 1⟩)
  let one : Frac := ⟨1, 1⟩
  let tap (dx dy : Int) (w : Frac) : Tap := ⟨k, d.addr k (x0 + dx) (y0 + dy), w.mul scale⟩
  [tap 0 0 ((one.sub a).mul (one.sub b)), tap 1 0 (a.mul (one.sub b)), tap 0 1 ((one.sub a).mul b), tap 1 1 (a.mul b)]

/-- λ of R398. -/
def TexDesc.lambda (d : TexDesc) (lod : Frac) : Frac := (lod.max ⟨0, 1⟩).min ⟨(d.levels : Int) - 1, 1⟩

/-- The texels that a filter needs, the finest level first (R398): 0 .POINT, 1 .BILIN, 2 .TRILIN. -/
def TexDesc.taps (d : TexDesc) (filter : Nat) (u v lod : Frac) : List Tap :=
  let l := d.lambda lod
  let near := (l.add ⟨1, 2⟩).floor.toNat
  let k := l.floor.toNat
  let g := to256 (l.sub ⟨k, 1⟩)
  match filter with
  | 0 => [d.point near u v]
  | 1 => d.bilin near u v ⟨1, 1⟩
  | _ => if d.levels ≤ k + 1 then d.bilin k u v ⟨1, 1⟩
    else d.bilin k u v ((⟨1, 1⟩ : Frac).sub g) ++ d.bilin (k + 1) u v g

/-- The channels of a texel (R397, R398). -/
def TexDesc.channels (d : TexDesc) (bs : List Byte) : List Ext :=
  match d.fmt with
  | 0 => (List.range 4).map fun c => .fin ⟨fieldOf bs c 1, 255⟩
  | 1 => (List.range 4).map fun c => Ty.f16.ext (BitVec.ofNat 64 (fieldOf bs (2 * c) 2))
  | _ => [Ty.f32.ext (BitVec.ofNat 64 (fieldOf bs 0 4)), .fin ⟨0, 1⟩, .fin ⟨0, 1⟩, .fin ⟨1, 1⟩]

/-- The weighted sum of a channel, rounded once; a texel of weight 0 takes no part (R398). -/
def blend (xs : List (Frac × List Ext)) (c : Nat) : Word :=
  let sum := (xs.filter fun x => x.1.num != 0).foldl (fun (a : Ext) x => a.add ((Ext.fin x.1).mul (x.2.getD c .nan))) (.fin ⟨0, 1⟩)
  (sum.round .f32 .rne).setWidth 32

/-- What the residence of texels is: a walk to wait for, a fault, or the pages that are not resident with their levels. -/
inductive TapsIn where
  | walk (va : Nat)
  | bad
  | pages (ps : List (Nat × Nat))

/-- The residence of texels (R399). -/
def State.tapsIn (s : State) (who : WalkFor) (ts : List Tap) : TapsIn :=
  ts.foldl (fun a t => match a with
    | .pages ps => (match s.resident who t.va with
      | none => .walk t.va
      | some (.error _) => .bad
      | some (.ok true) => .pages ps
      | some (.ok false) => .pages (if ps.contains (t.va / 65536 * 65536, t.level) then ps else ps ++ [(t.va / 65536 * 65536, t.level)]))
    | x => x) (.pages [])

/-- What reading texels gives. -/
inductive TapsGot where
  | walk (va : Nat)
  | held (line : Nat)
  | bad
  | got (xs : List (Frac × List Ext)) (seen : Seen)

/-- Reads texels. -/
def State.tapsRead (s : State) (q : Reader) (d : TexDesc) : List Tap → TapsGot
  | [] => .got [] {}
  | t :: ts =>
    match s.readUnit q t.va d.texel with
    | .walk va => .walk va
    | .held l => .held l
    | .bad => .bad
    | .got bs u => match s.tapsRead q d ts with
      | .got xs v => .got ((t.weight, d.channels bs) :: xs) (u.and v)
      | x => x

/-- The first lane of an operation is served: its channels, if it writes any, and its code word (R399). -/
def UnitOp.texAnswer (o : UnitOp) (chans : List Word) (code level : Nat) : UnitOp :=
  match o.todo with
  | [] => o
  | (l, _) :: rest =>
    let w := BitVec.ofNat 32 (code + level * 2 ^ 8)
    let outs := if o.kind = .texq then [(o.dst, l, w)] else (chans ++ [w]).mapIdx fun k x => (o.dst + k, l, x)
    { o with todo := rest, qid := none, outs := o.outs ++ outs }

/-- Zero channels. -/
def zeroChans : List Word := [0, 0, 0, 0]

/-- Samples texels that are resident. -/
def State.sample (s : State) (o : UnitOp) (d : TexDesc) (ts : List Tap) (code level : Nat) : UnitGo :=
  if o.kind = .texq then .more (o.texAnswer [] code level) s
  else match s.tapsRead o.reader d ts with
    | .walk va => .walk va
    | .held l => .held l
    | .bad => .more (o.texAnswer zeroChans 3 0) s
    | .got xs top => .more ((o.saw top).texAnswer ((List.range 4).map (blend xs)) code level) s

/-- The finest coarser level whose needed texels are all resident (R399). -/
def State.fallBack (s : State) (o : UnitOp) (d : TexDesc) (u v : Frac) : Nat → Nat → UnitGo
  | 0, _ => .more (o.texAnswer zeroChans 2 0) s
  | n + 1, k =>
    let ts := if o.kind = .texq then [d.point k u v] else d.bilin k u v ⟨1, 1⟩
    match s.tapsIn (.unit o.id) ts with
    | .walk va => .walk va
    | .bad => .more (o.texAnswer zeroChans 3 0) s
    | .pages [] => s.sample o d ts 1 k
    | .pages _ => s.fallBack o d u v n (k + 1)

/-- A lane of TEX or TEXQ (R398, R399). `qid` is set once the lane's feedback has been noted. -/
def State.texLane (s : State) (o : UnitOp) (bs : List Byte) (filter : Nat) (r : List (BitVec 64)) : UnitGo :=
  let d := TexDesc.parse bs
  let u := texCoord (nth r 0)
  let v := texCoord (nth r 1)
  let lod := texCoord (nth r 2)
  let ts := if o.kind = .texq then [d.point (d.lambda lod).floor.toNat u v] else d.taps filter u v lod
  let k := (ts.head?.map (·.level)).getD 0
  if texBad bs then .more (o.texAnswer zeroChans 3 0) s
  else match s.tapsIn (.unit o.id) ts with
    | .walk va => .walk va
    | .bad => .more (o.texAnswer zeroChans 3 0) s
    | .pages [] => s.sample o d ts 0 k
    | .pages ps =>
      if o.kind ≠ .texq && o.qid.isNone then
        .more { o with qid := some 0, appends := ps.map fun p => { kind := 2, va := p.1, level := p.2 } } s
      else s.fallBack o d u v (d.levels - (k + 1)) (k + 1)

/-- An operation of the texture unit goes on. -/
def State.texGo (s : State) (o : UnitOp) (filter : Nat) : UnitGo :=
  let bs := o.bytes.getD []
  match o.appends, o.todo with
  | f :: rest, _ => let d := TexDesc.parse bs; s.appendStep o d.fbBase d.fbSize d.fbCount f rest
  | _, [] => .done o s
  | _, (_, r) :: _ => s.texLane o bs filter r

/-- TEX (R398, R399, R582). -/
def execTex (f : GF) (s : State) : Out :=
  .next (s.unitLanes (.tex f) f [uV f.a, uV (.v (BitVec.ofNat 8 (f.a.reg + 1))), uV f.b] none
    { id := 0, gid := s.gid, kind := .tex f.sub.toNat, dst := f.dst.reg })

/-- TEXQ (R399, R582). -/
def execTexq (f : GF) (s : State) : Out :=
  .next (s.unitLanes (.texq f) f [uV f.a, uV (.v (BitVec.ofNat 8 (f.a.reg + 1))), uV f.b] none
    { id := 0, gid := s.gid, kind := .texq, dst := f.dst.reg })

end Sys2Proof.Machine
end

