-- ==== Sys2Proof/Machine/Traverse.lean ====
section
/-! DEFINITION. The cluster BVH and its traversal: TRAV and TRAVNEXT (R385 to R396, R627). -/

namespace Sys2Proof.Machine

/-! ### Rays and boxes (R388, R390) -/

/-- A component of a ray in a frame. -/
def rayAt (ray : List DWord) (k : Nat) : Frac := (Ty.f64.ext (ray.getD k 0)).frac

/-- Negative infinity in binary64. -/
def f64NegInf : DWord := 0xFFF0000000000000
/-- Positive infinity in binary64. -/
def f64Inf : DWord := 0x7FF0000000000000

/-- The slab of one axis as binary64 entry and exit; none where the box cannot be hit (R390). -/
def slab (o d lo hi : Frac) : Option (DWord × DWord) :=
  if d.num = 0 then (if lo.le o && o.le hi then some (f64NegInf, f64Inf) else none)
  else
    let a := (lo.sub o).div d
    let b := (hi.sub o).div d
    some ((Ext.fin (a.min b)).round .f64 .rdn, (Ext.fin (a.max b)).round .f64 .rup)

/-- The flags of the roundings of a slab (R226, R390). -/
def slabFlags (o d lo hi : Frac) : FpFlags :=
  if d.num = 0 then 0
  else
    let a := (lo.sub o).div d
    let b := (hi.sub o).div d
    (Ext.fin (a.min b)).flags .f64 .rdn ||| (Ext.fin (a.max b)).flags .f64 .rup

/-- The larger of two binary64 values. -/
def maxF (a b : DWord) : DWord := if (Ty.f64.ext a).le (Ty.f64.ext b) then b else a
/-- The smaller of two binary64 values. -/
def minF (a b : DWord) : DWord := if (Ty.f64.ext a).le (Ty.f64.ext b) then a else b

/-- The slab entry and exit of a box over its axes. -/
def boxSlab (ray : List DWord) (lo hi : Nat → Frac) : Option (DWord × DWord) :=
  [1, 2].foldl (fun b a => match b, slab (rayAt ray a) (rayAt ray (3 + a)) (lo a) (hi a) with
    | some x, some y => some (maxF x.1 y.1, minF x.2 y.2)
    | _, _ => none) (slab (rayAt ray 0) (rayAt ray 3) (lo 0) (hi 0))

/-- Whether a box is hit with the limits of a query as they stand (R390). -/
def Query.hits (q : Query) (entry exit' : DWord) : Bool :=
  (Ty.f64.ext (maxF entry q.tmin)).le (Ty.f64.ext (minF exit' q.tmax))

/-- The order of children: ascending entry, ties to the lower index (R390). -/
def insertItem (q : Query) (x : TravItem) : List TravItem → List TravItem
  | [] => [x]
  | y :: ys =>
    if (Ty.f64.ext (maxF y.entry q.tmin)).le (Ty.f64.ext (maxF x.entry q.tmin)) then y :: insertItem q x ys else x :: y :: ys

/-! ### Nodes (R385 to R387) -/

/-- Whether an interior node breaks R385. -/
def interiorBad (va : Nat) (bs : List Byte) : Bool :=
  va % 128 != 0 || fieldOf bs 0x1F 1 != 0 || fieldOf bs 0x27 1 != 0 || !zeroFrom bs 0x58 40
    || ((List.range 3).any fun a => fieldOf bs (0x24 + a) 1 == 255 || !(Ty.f64.ext (BitVec.ofNat 64 (fieldOf bs (8 * a) 8))).finite)
    || ((List.range 8).any fun i => decide (3 < fieldOf bs 0x20 4 / 16 ^ i % 16))

/-- A corner of a child's box on an axis, from its quantised offset (R385). -/
def boxCorner (bs : List Byte) (k a : Nat) : Frac :=
  (rayAt [BitVec.ofNat 64 (fieldOf bs 0 8), BitVec.ofNat 64 (fieldOf bs 8 8), BitVec.ofNat 64 (fieldOf bs 16 8)] a).add
    (Frac.scale k ((fieldOf bs (0x24 + a) 1 : Int) - 127))

/-- The lower and the upper end of child `i` on an axis (R385). -/
def boxLo (bs : List Byte) (i a : Nat) : Frac := boxCorner bs (fieldOf bs (0x28 + 6 * i + a) 1) a
/-- The upper end. -/
def boxHi (bs : List Byte) (i a : Nat) : Frac := boxCorner bs (fieldOf bs (0x28 + 6 * i + 3 + a) 1 + 1) a

/-- The flags of the slabs of a node's children (R226, R390). -/
def childFlags (it : TravItem) (bs : List Byte) : FpFlags :=
  (List.range 8).foldl (fun f i =>
    if fieldOf bs 0x20 4 / 16 ^ i % 16 = 0 then f
    else [0, 1, 2].foldl (fun f a => f ||| slabFlags (rayAt it.ray a) (rayAt it.ray (3 + a)) (boxLo bs i a) (boxHi bs i a)) f) 0

/-- A child of an interior node that is hit (R385, R390). -/
def childItem (q : Query) (it : TravItem) (bs : List Byte) (i : Nat) : Option TravItem :=
  let kind := fieldOf bs 0x20 4 / 16 ^ i % 16
  if kind = 0 then none
  else match boxSlab it.ray (boxLo bs i) (boxHi bs i) with
    | none => none
    | some (en, ex) =>
      if q.hits en ex then
        some { it with kind := if kind = 1 then .interior else if kind = 2 then .leaf else .inst
                       va := fieldOf bs 0x18 8 % 2 ^ 56 + 128 * i, entry := en, exit' := ex }
      else none

/-- Whether an instance node breaks R386. -/
def instanceBad (va : Nat) (bs : List Byte) : Bool :=
  va % 128 != 0 || fieldOf bs 0x67 1 != 0 || !zeroFrom bs 0x6C 20
    || ((List.range 12).any fun k => !(Ty.f64.ext (BitVec.ofNat 64 (fieldOf bs (8 * k) 8))).finite)

/-- The exact components of a ray in the frame of an instance (R386, R390). -/
def instanceParts (ray : List DWord) (bs : List Byte) : List Ext :=
  let m (r c : Nat) : Frac := (Ty.f64.ext (BitVec.ofNat 64 (fieldOf bs (8 * (4 * r + c)) 8))).frac
  let dot (r at' : Nat) : Frac := (((m r 0).mul (rayAt ray at')).add ((m r 1).mul (rayAt ray (at' + 1)))).add ((m r 2).mul (rayAt ray (at' + 2)))
  ((List.range 3).map fun r => Ext.fin ((dot r 0).add (m r 3))) ++ (List.range 3).map fun r => Ext.fin (dot r 3)

/-- The ray in the frame of an instance; none when a component is not finite (R390). -/
def instanceRay (ray : List DWord) (bs : List Byte) : Option (List DWord) :=
  let r := (instanceParts ray bs).map (Ext.round .f64 .rne)
  if r.all fun x => (Ty.f64.ext x).finite then some r else none

/-- The flags of an instance's transform (R226, R390). -/
def instanceFlags (ray : List DWord) (bs : List Byte) : FpFlags :=
  (instanceParts ray bs).foldl (fun f x => f ||| Ext.flags .f64 .rne x) 0

/-- Whether a leaf breaks R387. -/
def leafBad (va : Nat) (bs : List Byte) : Bool :=
  let n := fieldOf bs 0 1
  va % 128 != 0 || n == 0 || decide (7 < n) || ((List.range n).any fun j => !zeroFrom bs (0x1C + 16 * j) 4)

/-- The cluster of a level. -/
def clusterAt (bs : List Byte) (j : Nat) : Nat := fieldOf bs (0x10 + 16 * j) 8 % 2 ^ 56

/-- The level that a leaf's entry asks for (R391). -/
def Query.level (q : Query) (bs : List Byte) (entry : DWord) : Nat :=
  let bound := ((Ty.f32.ext (q.w0.setWidth 64)).add
    ((Ty.f32.ext (q.spread.setWidth 64)).mul (Ty.f64.ext (maxF entry q.tmin)))).mul (Ty.f32.ext (q.quality.setWidth 64))
  ((List.range (fieldOf bs 0 1)).filter fun j => (Ty.f32.ext (BitVec.ofNat 64 (fieldOf bs (0x18 + 16 * j) 4))).le bound).foldl max 0

/-- A triangle of a cluster as its corners (R387). -/
def clusterTri (bs : List Byte) (k : Nat) : List (Nat → Frac) :=
  let nv := fieldOf bs 0x19 1 + 1
  let tris := (0x20 + 12 * nv + 3) / 4 * 4
  (List.range 3).map fun c =>
    let v := fieldOf bs (tris + 3 * k + c) 1
    fun a => ((Ty.f64.ext (BitVec.ofNat 64 (fieldOf bs (8 * a) 8))).frac).add
      ((Ty.f32.ext (BitVec.ofNat 64 (fieldOf bs (0x20 + 12 * v + 4 * a) 4))).frac)

/-- The bytes of a cluster (R387). -/
def clusterBytes (head : List Byte) : Nat :=
  (0x20 + 12 * (fieldOf head 0x19 1 + 1) + 3) / 4 * 4 + 3 * (fieldOf head 0x18 1 + 1)

/-- Whether a cluster breaks R387. -/
def clusterBad (va : Nat) (bs : List Byte) : Bool :=
  let nt := fieldOf bs 0x18 1 + 1
  let nv := fieldOf bs 0x19 1 + 1
  let tris := (0x20 + 12 * nv + 3) / 4 * 4
  decide (128 < nt) || decide (65536 < va % 65536 + clusterBytes bs)
    || ((List.range (3 * nt)).any fun k => decide (nv ≤ fieldOf bs (tris + k) 1))
    || ((List.range 3).any fun a => !(Ty.f64.ext (BitVec.ofNat 64 (fieldOf bs (8 * a) 8))).finite)
    || ((List.range (3 * nv)).any fun k => !(Ty.f32.ext (BitVec.ofNat 64 (fieldOf bs (0x20 + 4 * k) 4))).finite)

/-- A hit of a ray on a triangle with exact t, λ1 and λ2 (R390); a triangle without area is not hit. -/
def triHit (ray : List DWord) (vs : List (Nat → Frac)) (tmin tmax : DWord) : Option (Frac × Frac × Frac) :=
  match vs with
  | [v0, v1, v2] =>
    let e1 (a : Nat) : Frac := (v1 a).sub (v0 a)
    let e2 (a : Nat) : Frac := (v2 a).sub (v0 a)
    let o (a : Nat) : Frac := (rayAt ray a).sub (v0 a)
    let nd (a : Nat) : Frac := (rayAt ray (3 + a)).neg
    let det := det3 e1 e2 nd
    if det.num = 0 then none
    else
      let l1 := (det3 o e2 nd).div det
      let l2 := (det3 e1 o nd).div det
      let t := (det3 e1 e2 o).div det
      if l1.isNeg || l2.isNeg || !((l1.add l2).le ⟨1, 1⟩) || !((Ty.f64.ext tmin).le (.fin t)) || !((Ext.fin t).le (Ty.f64.ext tmax)) then
        none
      else some (t, l1, l2)
  | _ => none

/-- A value rounded to binary32 (R390). -/
def toF32 (x : Frac) : Word := ((Ext.fin x).round .f32 .rne).setWidth 32

/-- The flags of rounding t, λ1 and λ2 (R226, R390). -/
def hitFlags (h : Frac × Frac × Frac) : FpFlags :=
  (Ext.fin h.1).flags .f32 .rne ||| (Ext.fin h.2.1).flags .f32 .rne ||| (Ext.fin h.2.2).flags .f32 .rne

/-- A binary32 value in binary64. -/
def f32to64 (x : Word) : DWord := (Ty.f32.ext (x.setWidth 64)).round .f64 .rne

/-! ### A visit (R390 to R392) -/

/-- What a visit gives: it waits, it finds BADNODE, the query changes with feedback, or the query stands at a candidate; with the
flags of what it rounded (R226, log entry 74). -/
inductive Visit where
  | walk (va : Nat)
  | held (line : Nat)
  | bad (fl : FpFlags := 0)
  | went (q : Query) (fb : List Feedback) (seen : List Seen) (fl : FpFlags := 0)
  | cand (q : Query) (seen : List Seen) (fl : FpFlags)

/-- A read for a visit. -/
def State.visitRead (s : State) (q : Reader) (va n : Nat) (k : List Byte → Seen → Visit) : Visit :=
  match s.readUnit q va n with
  | .walk a => .walk a
  | .held l => .held l
  | .bad => .bad
  | .got bs t => k bs t

/-- A level that is resident, from a level on: none while a walk is awaited, an error for a malformed entry. -/
def State.coarser (s : State) (who : WalkFor) (bs : List Byte) : Nat → Nat → Nat ⊕ Except Unit (Option Nat)
  | 0, _ => .inr (.ok none)
  | n + 1, j =>
    match s.resident who (clusterAt bs j) with
    | none => .inl (clusterAt bs j)
    | some (.error e) => .inr (.error e)
    | some (.ok true) => .inr (.ok (some j))
    | some (.ok false) => s.coarser who bs n (j + 1)

/-- A leaf (R391). -/
def State.visitLeaf (s : State) (who : WalkFor) (q : Query) (it : TravItem) (bs : List Byte) (seen : List Seen) : Visit :=
  let n := fieldOf bs 0 1
  let j := q.level bs it.entry
  let go (q : Query) (k : Nat) (fb : Bool) : Query :=
    { q with stack := { it with kind := .tris, va := clusterAt bs k, k := 0, leaf := BitVec.ofNat 32 (fieldOf bs 4 4), level := k
                                fallback := fb } :: q.stack }
  match s.resident who (clusterAt bs j) with
  | none => .walk (clusterAt bs j)
  | some (.error _) => .bad
  | some (.ok true) => .went (go q j false) [] seen
  | some (.ok false) =>
    let note : List Feedback := [{ kind := 1, va := clusterAt bs j, level := j }]
    match s.coarser who bs (n - (j + 1)) (j + 1) with
    | .inl va => .walk va
    | .inr (.error _) => .bad
    | .inr (.ok (some k)) => .went (go q k true) note seen
    | .inr (.ok none) => .went { q with nrseen := true } note seen

/-- A hit is found (R392): a candidate in any-hit mode; in closest-hit mode it is committed, unless its rounded t equals the one
committed before. -/
def Query.meet (q : Query) (it : TravItem) (h : Frac × Frac × Frac) (seen : List Seen) : Visit :=
  let x : TravHit := ⟨toF32 h.1, toF32 h.2.1, toF32 h.2.2, it.k, it.leaf, it.inst, it.level, it.fallback⟩
  if q.any then .cand { q with cand := some x } seen (hitFlags h)
  else if q.best.any (fun b => (Ty.f32.ext (b.t.setWidth 64)).le (Ty.f32.ext (x.t.setWidth 64))) then .went q [] seen (hitFlags h)
  else .went { q with best := some x, tmax := f32to64 x.t } [] seen (hitFlags h)

/-- A visit of a query whose next item is `it` and whose stack is what follows (R385 to R392). -/
def State.visit (s : State) (rd : Reader) (q : Query) (it : TravItem) : Visit :=
  match it.kind with
  | .tris =>
    s.visitRead rd it.va 0x20 fun head _ =>
      if 128 ≤ fieldOf head 0x18 1 then .bad
      else s.visitRead rd it.va (clusterBytes head) fun bs t =>
        if clusterBad it.va bs then .bad
        else if fieldOf bs 0x18 1 < it.k then .went q [] [t]
        else
          let q := { q with stack := { it with k := it.k + 1 } :: q.stack }
          match triHit it.ray (clusterTri bs it.k) q.tmin q.tmax with
          | none => .went q [] [t]
          | some h => q.meet it h [t]
  | kind =>
    if !q.hits it.entry it.exit' then .went q [] []
    else if kind = .inst && it.inst.isSome then .bad
    else s.visitRead rd it.va 128 fun bs t =>
      match kind with
      | .leaf => if leafBad it.va bs then .bad else s.visitLeaf rd.who q it bs [t]
      | .inst =>
        if instanceBad it.va bs then .bad
        else match instanceRay it.ray bs with
          | none => .bad (instanceFlags it.ray bs)
          | some r =>
            .went { q with stack := { it with kind := .interior, va := fieldOf bs 0x60 8 % 2 ^ 56, ray := r,
                                              inst := some (BitVec.ofNat 32 (fieldOf bs 0x68 4)),
                                              entry := f64NegInf, exit' := f64Inf } :: q.stack } [] [t]
              (instanceFlags it.ray bs)
      | _ =>
        if interiorBad it.va bs then .bad
        else
          let kids := ((List.range 8).filterMap (childItem q it bs)).foldl (fun l x => insertItem q x l) []
          .went { q with stack := kids ++ q.stack } [] [t] (childFlags it bs)

/-! ### Queries and their results (R388, R392 to R395, R627) -/

/-- The kind word (R393). -/
def kindWord (kind qid : Nat) (h : Option TravHit) (nrseen : Bool) : Word :=
  BitVec.ofNat 32 (kind + qid * 2 ^ 16 + b2n nrseen * 2 ^ 5
    + (match h with | some x => x.level * 2 ^ 8 + b2n x.fallback * 2 ^ 4 | none => 0))

/-- The hit record (R394). -/
def hitRecord (w : Word) (h : Option TravHit) : List Byte :=
  leBytes 4 w.toNat ++ match h with
    | none => List.replicate 28 0
    | some x => leBytes 4 x.t.toNat ++ leBytes 4 x.l1.toNat ++ leBytes 4 x.l2.toNat ++ leBytes 4 x.tri ++ leBytes 4 x.leaf.toNat
        ++ leBytes 4 ((x.inst.map BitVec.toNat).getD 0xFFFFFFFF) ++ leBytes 4 0

/-- The first lane of an operation is served: its kind word and record are known, and the next lane follows. -/
def UnitOp.answer (o : UnitOp) (kind qid : Nat) (h : Option TravHit) (nrseen : Bool) : UnitOp :=
  match o.todo with
  | [] => o
  | (l, _) :: rest =>
    let w := kindWord kind qid h nrseen
    { o with todo := rest, qid := none, outs := o.outs ++ [(o.dst, l, w)], recs := o.recs ++ [(o.area + 32 * l, hitRecord w h)] }

/-- Changes the open queries of the team in focus. -/
def State.putQuery (s : State) (q : Query) : State :=
  { s with team := { s.team with queries := q :: s.team.queries.filter (·.qid != q.qid) } }

/-- A query ends and frees its number (R392, R627). -/
def State.endQuery (s : State) (o : UnitOp) (q : Query) (bad : Bool) : UnitGo :=
  let s := { s with team := { s.team with queries := s.team.queries.filter (·.qid != q.qid) } }
  if bad then .more (o.answer 5 0 none q.nrseen) s
  else match q.best with
    | some h => .more (o.answer 1 0 (some h) q.nrseen) s
    | none => .more (o.answer (if q.nrseen then 3 else 0) 0 none q.nrseen) s

/-- The queries that a cluster's traversal unit holds (R388). -/
def State.unitLoad (s : State) : Nat :=
  let c := s.core.id
  ((s.allTeams.filter fun x => CoreId.die x.1 == CoreId.die c && CoreId.kind x.1 == .vector && s.clusterOf x.1 == s.clusterOf c).map
    fun x => x.2.queries.length).sum

/-- Whether a ray ends at once with MISS (R388). -/
def rayIdle (r : List (BitVec 64)) : Bool :=
  let o := (List.range 3).map fun a => Ty.f64.ext (nth r (2 * a) + nth r (2 * a + 1) * 2 ^ 32)
  let d := (List.range 3).map fun a => Ty.f32.ext (nth r (6 + a))
  !((o ++ d).all Ext.finite) || !((Ty.f32.ext (nth r 9)).le (Ty.f32.ext (nth r 10)))

/-- A cone value; NaN reads as 0 (R388). -/
def coneWord (x : BitVec 64) : Word := if Ty.f32.ext x = .nan then 0 else x.setWidth 32

/-- Whether a BVH descriptor breaks R389. -/
def bvhBad (bs : List Byte) : Bool :=
  let n := fieldOf bs 0x10 4
  fieldOf bs 7 1 != 0 || !zeroFrom bs 0x20 96 || !(decide (16 ≤ n) && decide (n ≤ 2 ^ 24) && pow2' n)
where
  /-- Whether a number is a power of two. -/
  pow2' (n : Nat) : Bool := n != 0 && 2 ^ Nat.log2 n == n

/-- A query of a ray, before its descriptor is read. -/
def newQuery (qid : Nat) (any term : Bool) (r : List (BitVec 64)) : Query :=
  { qid := qid, any := any, term := term, tmin := f32to64 ((nth r 9).setWidth 32), tmax := f32to64 ((nth r 10).setWidth 32)
    w0 := coneWord (nth r 11), spread := coneWord (nth r 12) }

/-- The ray in the world frame. -/
def worldRay (r : List (BitVec 64)) : List DWord :=
  (List.range 3).map (fun a => nth r (2 * a) + nth r (2 * a + 1) * 2 ^ 32) ++ (List.range 3).map fun a => f32to64 ((nth r (6 + a)).setWidth 32)

/-- A lane of TRAV starts its query (R388, R389, R627). -/
def State.startQuery (s : State) (o : UnitOp) (any term : Bool) (r : List (BitVec 64)) : UnitGo :=
  match (List.range 256).find? fun k => !(s.team.queries.any (·.qid == k)) with
  | none => .more (o.answer 4 0 none false) s
  | some qid =>
    if 1024 ≤ s.unitLoad then .more (o.answer 4 0 none false) s
    else if rayIdle r then .more (o.answer 0 0 none false) s
    else
      let bs := o.bytes.getD []
      let q := newQuery qid any term r
      if bvhBad bs then s.endQuery o q true
      else
        let q := { q with
          fbBase := fieldOf bs 8 8, fbSize := fieldOf bs 0x10 4, quality := BitVec.ofNat 32 (fieldOf bs 0x14 4)
          fbCount := fieldOf bs 0x18 8
          stack := [{ kind := .interior, va := fieldOf bs 0 8, ray := worldRay r, entry := f64NegInf, exit' := f64Inf }] }
        .more { o with qid := some qid } (s.putQuery q)

/-- A lane of TRAVNEXT goes on with its query (R392, R395, R583). -/
def State.nextQuery (s : State) (o : UnitOp) (accept : Bool) (w : Nat) : UnitGo :=
  match s.team.queries.find? fun q => q.qid == bits w 23 16 && q.cand.isSome with
  | none => .more (o.answer 6 0 none false) s
  | some q =>
    if w % 16 ≠ 2 then .more (o.answer 6 0 none false) s
    else if accept then
      let q' := { q with best := q.cand, cand := none, tmax := (q.cand.map fun c => f32to64 c.t).getD q.tmax }
      if q.term then s.endQuery o q' false else .more { o with qid := some q.qid } (s.putQuery q')
    else .more { o with qid := some q.qid } (s.putQuery { q with cand := none })

/-- The query in progress goes on by one visit. -/
def State.goQuery (s : State) (o : UnitOp) (q : Query) : UnitGo :=
  match q.stack with
  | [] => s.endQuery o q false
  | it :: rest =>
    let note (o : UnitOp) (seen : List Seen) : UnitOp := seen.foldl UnitOp.saw o
    match s.visit o.reader { q with stack := rest } it with
    | .walk va => .walk va
    | .held l => .held l
    | .bad fl => s.endQuery { o with flags := o.flags ||| fl } q true
    | .went q' fb seen fl => .more { note o seen with appends := fb, flags := o.flags ||| fl } (s.putQuery q')
    | .cand q' seen fl => .more (({ note o seen with flags := o.flags ||| fl }).answer 2 q.qid q'.cand q'.nrseen) (s.putQuery q')

/-- An operation of the traversal unit goes on: an append that is due, the query in progress, or the next lane. -/
def State.travGo (s : State) (o : UnitOp) : UnitGo :=
  let q := o.qid.bind fun n => s.team.queries.find? (·.qid == n)
  match o.appends, q, o.todo with
  | f :: rest, some q, _ => s.appendStep o q.fbBase q.fbSize q.fbCount f rest
  | _, some q, _ => s.goQuery o q
  | _, none, [] => .done o s
  | _, none, (_, r) :: _ =>
    match o.kind with
    | .trav any term => s.startQuery o any term r
    | .travnext accept => s.nextQuery o accept (nth r 0).toNat
    | _ => .done o s

/-- TRAV (R388, R582). -/
def execTrav (f : GF) (s : State) : Out :=
  .next (s.unitLanes (.trav f) f ((List.range 13).map fun k => uV (.v (BitVec.ofNat 8 (f.a.reg + k)))) (some (uS f.b))
    { id := 0, gid := s.gid, kind := .trav (f.flags.getLsbD 0) (f.flags.getLsbD 1), dst := f.dst.reg })

/-- TRAVNEXT (R392, R582, R583). -/
def execTravnext (f : GF) (s : State) : Out :=
  .next (s.unitLanes (.travnext f) f [uV f.a] (some (uS f.b))
    { id := 0, gid := s.gid, kind := .travnext (f.sub == 0), dst := f.dst.reg } (reads := false))

end Sys2Proof.Machine
end

