-- ==== Sys2Proof/Machine/Units.lean ====
section
/-! DEFINITION. The event in which a graphics unit goes on and writes its pending rows (R368). -/

namespace Sys2Proof.Machine

/-- An operation goes on by one part of its work. -/
def State.unitGo (s : State) (o : UnitOp) : UnitGo :=
  match o.kind with
  | .trav _ _ | .travnext _ => s.travGo o
  | .tex filter => s.texGo o filter
  | .texq => s.texGo o 0
  | .rast => .done o s
  | .binget named => s.bingetGo o named

/-- The work of an operation in one event: what is left after a number of parts goes on a clk later. One whose results are all known waits
as RAST does where `%now` would pass the largest (R301). -/
def State.unitRun : Nat → State → UnitOp → State
  | 0, s, o => (s.onUnit o.id fun _ => o).later 1 (.unitResultWrite s.core.id o.id)
  | n + 1, s, o =>
    match s.unitGo o with
    | .more o s => (s.useLines o.used).unitRun n { o with used := [] }
    | .done o s =>
      let s := s.useLines o.used
      if tickMax < max s.nowTick o.top + 1 then
        ((s.onUnit o.id fun _ => { o with kind := .rast }).requestRebase (CoreId.die s.core.id)).later 1 (.unitResultWrite s.core.id o.id)
      else s.landUnit o
    | .walk va => (s.onUnit o.id fun _ => { o with asleep := true }).askWalks [va / 128 * 128] 4 (.unit o.id)
    | .held line => ((s.onUnit o.id fun _ => o).askWay line).later 1 (.unitResultWrite s.core.id o.id)

/-- UNIT_RESULT_WRITE (R368): the unit goes on; once all is known, the rows are written. An operation whose group is gone leaves
nothing. -/
def execUnitResultWrite (core : CoreId) (op : Nat) (s : State) : Out :=
  let s := s.focusCore core
  .next (match s.core.units.find? (·.id == op) with
    | none => s
    | some o =>
      if (s.findGroup o.gid).isNone then s.onCore fun c => { c with units := c.units.filter (·.id != op) }
      else s.atGroup o.gid fun s => s.unitRun 4096 { o with asleep := false })

end Sys2Proof.Machine
end

