-- ==== Sys2Proof/Machine/Dispatch.lean ====
section
/-! DEFINITION. The dispatch: one arm for each constructor of Instr. -/

namespace Sys2Proof.Machine

/-- Executes one instruction or machine event. -/
def exec (i : Instr) (s : State) : Host.Outcome State Fault Refusal :=
  match i with
  | .ill detail half => Sys2Proof.Machine.execIll detail half s
  | .nop f => Sys2Proof.Machine.execNop f s
  | .bra f => Sys2Proof.Machine.execBra f s
  | .brx f => Sys2Proof.Machine.execBrx f s
  | .call f => Sys2Proof.Machine.execCall f s
  | .ret f => Sys2Proof.Machine.execRet f s
  | .ifc f => Sys2Proof.Machine.execIfc f s
  | .elsec f => Sys2Proof.Machine.execElsec f s
  | .endif f => Sys2Proof.Machine.execEndif f s
  | .loop f => Sys2Proof.Machine.execLoop f s
  | .breakif f => Sys2Proof.Machine.execBreakif f s
  | .contif f => Sys2Proof.Machine.execContif f s
  | .endloop f => Sys2Proof.Machine.execEndloop f s
  | .reconv f => Sys2Proof.Machine.execReconv f s
  | .exit f => Sys2Proof.Machine.execExit f s
  | .iadd f => Sys2Proof.Machine.execIadd f s
  | .iaddc f => Sys2Proof.Machine.execIaddc f s
  | .isub f => Sys2Proof.Machine.execIsub f s
  | .ineg f => Sys2Proof.Machine.execIneg f s
  | .iabs f => Sys2Proof.Machine.execIabs f s
  | .imul f => Sys2Proof.Machine.execImul f s
  | .imulh f => Sys2Proof.Machine.execImulh f s
  | .imad f => Sys2Proof.Machine.execImad f s
  | .imadw f => Sys2Proof.Machine.execImadw f s
  | .imin f => Sys2Proof.Machine.execImin f s
  | .imax f => Sys2Proof.Machine.execImax f s
  | .icmp f => Sys2Proof.Machine.execIcmp f s
  | .idot4 f => Sys2Proof.Machine.execIdot4 f s
  | .sel f => Sys2Proof.Machine.execSel f s
  | .lea f => Sys2Proof.Machine.execLea f s
  | .fadd f => Sys2Proof.Machine.execFadd f s
  | .fmul f => Sys2Proof.Machine.execFmul f s
  | .ffma f => Sys2Proof.Machine.execFfma f s
  | .fmin f => Sys2Proof.Machine.execFmin f s
  | .fmax f => Sys2Proof.Machine.execFmax f s
  | .fcmp f => Sys2Proof.Machine.execFcmp f s
  | .fclass f => Sys2Proof.Machine.execFclass f s
  | .frint f => Sys2Proof.Machine.execFrint f s
  | .fldexp f => Sys2Proof.Machine.execFldexp f s
  | .fdot2 f => Sys2Proof.Machine.execFdot2 f s
  | .fdivfix f => Sys2Proof.Machine.execFdivfix f s
  | .cvt f => Sys2Proof.Machine.execCvt f s
  | .cvtef f => Sys2Proof.Machine.execCvtef f s
  | .mxpack f => Sys2Proof.Machine.execMxpack f s
  | .mxunpack f => Sys2Proof.Machine.execMxunpack f s
  | .frcp f => Sys2Proof.Machine.execFrcp f s
  | .frsq f => Sys2Proof.Machine.execFrsq f s
  | .fsqrt f => Sys2Proof.Machine.execFsqrt f s
  | .fexp2 f => Sys2Proof.Machine.execFexp2 f s
  | .flog2 f => Sys2Proof.Machine.execFlog2 f s
  | .fsin f => Sys2Proof.Machine.execFsin f s
  | .fcos f => Sys2Proof.Machine.execFcos f s
  | .ftanh f => Sys2Proof.Machine.execFtanh f s
  | .and f => Sys2Proof.Machine.execAnd f s
  | .andn f => Sys2Proof.Machine.execAndn f s
  | .or f => Sys2Proof.Machine.execOr f s
  | .orn f => Sys2Proof.Machine.execOrn f s
  | .xor f => Sys2Proof.Machine.execXor f s
  | .not f => Sys2Proof.Machine.execNot f s
  | .shl f => Sys2Proof.Machine.execShl f s
  | .shr f => Sys2Proof.Machine.execShr f s
  | .shra f => Sys2Proof.Machine.execShra f s
  | .rotl f => Sys2Proof.Machine.execRotl f s
  | .bfe f => Sys2Proof.Machine.execBfe f s
  | .bfi f => Sys2Proof.Machine.execBfi f s
  | .brev f => Sys2Proof.Machine.execBrev f s
  | .clz f => Sys2Proof.Machine.execClz f s
  | .ffs f => Sys2Proof.Machine.execFfs f s
  | .popc f => Sys2Proof.Machine.execPopc f s
  | .movi f => Sys2Proof.Machine.execMovi f s
  | .iaddVi f => Sys2Proof.Machine.execIaddVi f s
  | .isubVi f => Sys2Proof.Machine.execIsubVi f s
  | .imulVi f => Sys2Proof.Machine.execImulVi f s
  | .imadVi f => Sys2Proof.Machine.execImadVi f s
  | .iminVi f => Sys2Proof.Machine.execIminVi f s
  | .imaxVi f => Sys2Proof.Machine.execImaxVi f s
  | .icmpVi f => Sys2Proof.Machine.execIcmpVi f s
  | .andVi f => Sys2Proof.Machine.execAndVi f s
  | .orVi f => Sys2Proof.Machine.execOrVi f s
  | .xorVi f => Sys2Proof.Machine.execXorVi f s
  | .faddVi f => Sys2Proof.Machine.execFaddVi f s
  | .fmulVi f => Sys2Proof.Machine.execFmulVi f s
  | .ffmaVi f => Sys2Proof.Machine.execFfmaVi f s
  | .fcmpVi f => Sys2Proof.Machine.execFcmpVi f s
  | .mov f => Sys2Proof.Machine.execMov f s
  | .shfl f => Sys2Proof.Machine.execShfl f s
  | .vote f => Sys2Proof.Machine.execVote f s
  | .ballot f => Sys2Proof.Machine.execBallot f s
  | .matchl f => Sys2Proof.Machine.execMatchl f s
  | .reduce f => Sys2Proof.Machine.execReduce f s
  | .scan f => Sys2Proof.Machine.execScan f s
  | .lanerd f => Sys2Proof.Machine.execLanerd f s
  | .lanewr f => Sys2Proof.Machine.execLanewr f s
  | .rand f => Sys2Proof.Machine.execRand f s
  | .salu f => Sys2Proof.Machine.execSalu f s
  | .scmp f => Sys2Proof.Machine.execScmp f s
  | .ssel f => Sys2Proof.Machine.execSsel f s
  | .smov f => Sys2Proof.Machine.execSmov f s
  | .ld f => Sys2Proof.Machine.execLd f s
  | .st f => Sys2Proof.Machine.execSt f s
  | .ldu f => Sys2Proof.Machine.execLdu f s
  | .ldl f => Sys2Proof.Machine.execLdl f s
  | .stl f => Sys2Proof.Machine.execStl f s
  | .ldp f => Sys2Proof.Machine.execLdp f s
  | .stp f => Sys2Proof.Machine.execStp f s
  | .atom f => Sys2Proof.Machine.execAtom f s
  | .atoml f => Sys2Proof.Machine.execAtoml f s
  | .atomp f => Sys2Proof.Machine.execAtomp f s
  | .pref f => Sys2Proof.Machine.execPref f s
  | .renew f => Sys2Proof.Machine.execRenew f s
  | .expire f => Sys2Proof.Machine.execExpire f s
  | .flush f => Sys2Proof.Machine.execFlush f s
  | .spill f => Sys2Proof.Machine.execSpill f s
  | .fill f => Sys2Proof.Machine.execFill f s
  | .xcpy f => Sys2Proof.Machine.execXcpy f s
  | .xgather f => Sys2Proof.Machine.execXgather f s
  | .xscatter f => Sys2Proof.Machine.execXscatter f s
  | .xreduce f => Sys2Proof.Machine.execXreduce f s
  | .xfill f => Sys2Proof.Machine.execXfill f s
  | .xpeer f => Sys2Proof.Machine.execXpeer f s
  | .xcancel f => Sys2Proof.Machine.execXcancel f s
  | .tiledef f => Sys2Proof.Machine.execTiledef f s
  | .tilerel f => Sys2Proof.Machine.execTilerel f s
  | .tileq f => Sys2Proof.Machine.execTileq f s
  | .psend f => Sys2Proof.Machine.execPsend f s
  | .precv f => Sys2Proof.Machine.execPrecv f s
  | .barinit f => Sys2Proof.Machine.execBarinit f s
  | .bararv f => Sys2Proof.Machine.execBararv f s
  | .barwait f => Sys2Proof.Machine.execBarwait f s
  | .bartest f => Sys2Proof.Machine.execBartest f s
  | .bartx f => Sys2Proof.Machine.execBartx f s
  | .waitcnt f => Sys2Proof.Machine.execWaitcnt f s
  | .fence f => Sys2Proof.Machine.execFence f s
  | .clkadv f => Sys2Proof.Machine.execClkadv f s
  | .spinhint f => Sys2Proof.Machine.execSpinhint f s
  | .sleep f => Sys2Proof.Machine.execSleep f s
  | .waitt f => Sys2Proof.Machine.execWaitt f s
  | .semsig f => Sys2Proof.Machine.execSemsig f s
  | .semwait f => Sys2Proof.Machine.execSemwait f s
  | .movsp f => Sys2Proof.Machine.execMovsp f s
  | .setsp f => Sys2Proof.Machine.execSetsp f s
  | .mma f => Sys2Proof.Machine.execMma f s
  | .acczero f => Sys2Proof.Machine.execAcczero f s
  | .accload f => Sys2Proof.Machine.execAccload f s
  | .accdrain f => Sys2Proof.Machine.execAccdrain f s
  | .mmawait f => Sys2Proof.Machine.execMmawait f s
  | .mmab f => Sys2Proof.Machine.execMmab f s
  | .rast f => Sys2Proof.Machine.execRast f s
  | .binput f => Sys2Proof.Machine.execBinput f s
  | .binget f => Sys2Proof.Machine.execBinget f s
  | .trav f => Sys2Proof.Machine.execTrav f s
  | .travnext f => Sys2Proof.Machine.execTravnext f s
  | .regroup f => Sys2Proof.Machine.execRegroup f s
  | .repack f => Sys2Proof.Machine.execRepack f s
  | .tex f => Sys2Proof.Machine.execTex f s
  | .texq f => Sys2Proof.Machine.execTexq f s
  | .launch f => Sys2Proof.Machine.execLaunch f s
  | .trap f => Sys2Proof.Machine.execTrap f s
  | .syscall f => Sys2Proof.Machine.execSyscall f s
  | .bkpt f => Sys2Proof.Machine.execBkpt f s
  | .eret f => Sys2Proof.Machine.execEret f s
  | .idem f => Sys2Proof.Machine.execIdem f s
  | .progress f => Sys2Proof.Machine.execProgress f s
  | .pairedSlot x y => Sys2Proof.Machine.execPairedSlot x y s
  | .routeEntryTaken core n => Sys2Proof.Machine.execRouteEntryTaken core n s
  | .parentClockLoss m => Sys2Proof.Machine.execParentClockLoss m s
  | .rerootParentAssign orphans => Sys2Proof.Machine.execRerootParentAssign orphans s
  | .rateWordSwitch die east => Sys2Proof.Machine.execRateWordSwitch die east s
  | .gtcstepApply die east => Sys2Proof.Machine.execGtcstepApply die east s
  | .waittDeadline g core => Sys2Proof.Machine.execWaittDeadline g core s
  | .launchStartTime core grid => Sys2Proof.Machine.execLaunchStartTime core grid s
  | .idleTick core => Sys2Proof.Machine.execIdleTick core s
  | .issueGrant core => Sys2Proof.Machine.execIssueGrant core s
  | .teamEnd core t => Sys2Proof.Machine.execTeamEnd core t s
  | .gridEnd grid => Sys2Proof.Machine.execGridEnd grid s
  | .regroupJoin core g => Sys2Proof.Machine.execRegroupJoin core g s
  | .benchContribution m => Sys2Proof.Machine.execBenchContribution m s
  | .retryResend m => Sys2Proof.Machine.execRetryResend m s
  | .walkComplete m => Sys2Proof.Machine.execWalkComplete m s
  | .pageServiceResolve m => Sys2Proof.Machine.execPageServiceResolve m s
  | .tinvDone die => Sys2Proof.Machine.execTinvDone die s
  | .read m => Sys2Proof.Machine.execRead m s
  | .renewq m => Sys2Proof.Machine.execRenewq m s
  | .dataMsg m => Sys2Proof.Machine.execDataMsg m s
  | .extend m => Sys2Proof.Machine.execExtend m s
  | .cpbk m => Sys2Proof.Machine.execCpbk m s
  | .cpbkack m => Sys2Proof.Machine.execCpbkack m s
  | .atomq m => Sys2Proof.Machine.execAtomq m s
  | .atoma m => Sys2Proof.Machine.execAtoma m s
  | .drop m => Sys2Proof.Machine.execDrop m s
  | .dropack m => Sys2Proof.Machine.execDropack m s
  | .hold m => Sys2Proof.Machine.execHold m s
  | .holdack m => Sys2Proof.Machine.execHoldack m s
  | .recall m => Sys2Proof.Machine.execRecall m s
  | .yield m => Sys2Proof.Machine.execYield m s
  | .unhold m => Sys2Proof.Machine.execUnhold m s
  | .prep m => Sys2Proof.Machine.execPrep m s
  | .prepack m => Sys2Proof.Machine.execPrepack m s
  | .commit m => Sys2Proof.Machine.execCommit m s
  | .commitack m => Sys2Proof.Machine.execCommitack m s
  | .accept m => Sys2Proof.Machine.execAccept m s
  | .apply m => Sys2Proof.Machine.execApply m s
  | .retry m => Sys2Proof.Machine.execRetry m s
  | .rebaseStart die ep => Sys2Proof.Machine.execRebaseStart die ep s
  | .sweepDone die => Sys2Proof.Machine.execSweepDone die s
  | .arrive m => Sys2Proof.Machine.execArrive m s
  | .arriveReply m => Sys2Proof.Machine.execArriveReply m s
  | .barwaitReply m => Sys2Proof.Machine.execBarwaitReply m s
  | .leave m => Sys2Proof.Machine.execLeave m s
  | .copyComplete core op => Sys2Proof.Machine.execCopyComplete core op s
  | .packetArrive m => Sys2Proof.Machine.execPacketArrive m s
  | .mmaStart die quad => Sys2Proof.Machine.execMmaStart die quad s
  | .macroOpComplete die quad => Sys2Proof.Machine.execMacroOpComplete die quad s
  | .binnerPacketArrive m => Sys2Proof.Machine.execBinnerPacketArrive m s
  | .binnerCloseArrive m => Sys2Proof.Machine.execBinnerCloseArrive m s
  | .unitResultWrite core op => Sys2Proof.Machine.execUnitResultWrite core op s
  | .fragmentStart die => Sys2Proof.Machine.execFragmentStart die s
  | .launchRequest die m => Sys2Proof.Machine.execLaunchRequest die m s
  | .launchLeadRequest die m => Sys2Proof.Machine.execLaunchLeadRequest die m s
  | .launchReply m => Sys2Proof.Machine.execLaunchReply m s
  | .queueDepart die => Sys2Proof.Machine.execQueueDepart die s
  | .launchDistribute die grid => Sys2Proof.Machine.execLaunchDistribute die grid s
  | .semaphoreNotice m => Sys2Proof.Machine.execSemaphoreNotice m s
  | .teamPlacement die => Sys2Proof.Machine.execTeamPlacement die s
  | .startMessage core grid => Sys2Proof.Machine.execStartMessage core grid s
  | .preemptDecision t mode => Sys2Proof.Machine.execPreemptDecision t mode s
  | .drainBudgetExpiry t => Sys2Proof.Machine.execDrainBudgetExpiry t s
  | .quiesceDeadline t => Sys2Proof.Machine.execQuiesceDeadline t s
  | .saveCapture t => Sys2Proof.Machine.execSaveCapture t s
  | .contextTransferDone t => Sys2Proof.Machine.execContextTransferDone t s
  | .restore t core => Sys2Proof.Machine.execRestore t core s
  | .peerAccessArrive m => Sys2Proof.Machine.execPeerAccessArrive m s
  | .peerAccessReply m => Sys2Proof.Machine.execPeerAccessReply m s
  | .xpeerWriteArrive m => Sys2Proof.Machine.execXpeerWriteArrive m s
  | .semwaitReadReply m => Sys2Proof.Machine.execSemwaitReadReply m s
  | .semwaitTimeout core g => Sys2Proof.Machine.execSemwaitTimeout core g s
  | .sleepDone core g => Sys2Proof.Machine.execSleepDone core g s
  | .loaderDone die => Sys2Proof.Machine.execLoaderDone die s
  | .routeEntryWrite core n entry => Sys2Proof.Machine.execRouteEntryWrite core n entry s
  | .routerLinkFailure m => Sys2Proof.Machine.execRouterLinkFailure m s
  | .routeRebuildDone core entries => Sys2Proof.Machine.execRouteRebuildDone core entries s
  | .undeliverableResponse m => Sys2Proof.Machine.execUndeliverableResponse m s
  | .meshFlitCrcError m => Sys2Proof.Machine.execMeshFlitCrcError m s
  | .panelMapUpdate cells => Sys2Proof.Machine.execPanelMapUpdate cells s
  | .powerOn => Sys2Proof.Machine.execPowerOn s
  | .fwdcfgGo die value => Sys2Proof.Machine.execFwdcfgGo die value s
  | .pllLock die => Sys2Proof.Machine.execPllLock die s
  | .pllLockTimeout die => Sys2Proof.Machine.execPllLockTimeout die s
  | .rerootResume => Sys2Proof.Machine.execRerootResume s
  | .fwdcmdDone die value => Sys2Proof.Machine.execFwdcmdDone die value s
  | .gtcrateWrite die value => Sys2Proof.Machine.execGtcrateWrite die value s
  | .gtcslewWrite die value => Sys2Proof.Machine.execGtcslewWrite die value s
  | .slewComplete => Sys2Proof.Machine.execSlewComplete s
  | .gtcstepWrite die value => Sys2Proof.Machine.execGtcstepWrite die value s
  | .ptpFrameReceive f => Sys2Proof.Machine.execPtpFrameReceive f s
  | .announceTimeout => Sys2Proof.Machine.execAnnounceTimeout s
  | .handlerEntry core g => Sys2Proof.Machine.execHandlerEntry core g s
  | .parityError core hit => Sys2Proof.Machine.execParityError core hit s
  | .coreStoreScrub core found => Sys2Proof.Machine.execCoreStoreScrub core found s
  | .hbmScrub found => Sys2Proof.Machine.execHbmScrub found s
  | .pagereplyWrite die value => Sys2Proof.Machine.execPagereplyWrite die value s
  | .tinvGo die value => Sys2Proof.Machine.execTinvGo die value s
  | .brbcmdStart die value => Sys2Proof.Machine.execBrbcmdStart die value s
  | .coreRetentionWake core => Sys2Proof.Machine.execCoreRetentionWake core s
  | .rplcmdTeardown die value => Sys2Proof.Machine.execRplcmdTeardown die value s
  | .rplcmdClearDown die value => Sys2Proof.Machine.execRplcmdClearDown die value s
  | .controlMessage die m => Sys2Proof.Machine.execControlMessage die m s
  | .dispatchFailover die => Sys2Proof.Machine.execDispatchFailover die s
  | .pmreqGo die value => Sys2Proof.Machine.execPmreqGo die value s
  | .pmreqResume die value => Sys2Proof.Machine.execPmreqResume die value s
  | .pmreplyWrite die value => Sys2Proof.Machine.execPmreplyWrite die value s
  | .screplyWrite die value => Sys2Proof.Machine.execScreplyWrite die value s
  | .windowRead m => Sys2Proof.Machine.execWindowRead m s
  | .windowWrite m => Sys2Proof.Machine.execWindowWrite m s
  | .windowAtomicAdd m => Sys2Proof.Machine.execWindowAtomicAdd m s
  | .windowUpstreamReply m => Sys2Proof.Machine.execWindowUpstreamReply m s
  | .controlLaneLoss lane => Sys2Proof.Machine.execControlLaneLoss lane s
  | .pqpostWrite port addr => Sys2Proof.Machine.execPqpostWrite port addr s
  | .peerCopyData f => Sys2Proof.Machine.execPeerCopyData f s
  | .peerCopyEnd f => Sys2Proof.Machine.execPeerCopyEnd f s
  | .peerSemaphoreAdd f => Sys2Proof.Machine.execPeerSemaphoreAdd f s
  | .peerAcknowledgement f => Sys2Proof.Machine.execPeerAcknowledgement f s
  | .peerRefusal f => Sys2Proof.Machine.execPeerRefusal f s
  | .peerResendTimeout port post => Sys2Proof.Machine.execPeerResendTimeout port post s
  | .pldmBaseDiscovery => Sys2Proof.Machine.execPldmBaseDiscovery s
  | .pldmSensorRead sensor => Sys2Proof.Machine.execPldmSensorRead sensor s
  | .pldmFirmwareUpdate image => Sys2Proof.Machine.execPldmFirmwareUpdate image s
  | .getVersion => Sys2Proof.Machine.execGetVersion s
  | .getCapabilities => Sys2Proof.Machine.execGetCapabilities s
  | .negotiateAlgorithms ecdsa sha => Sys2Proof.Machine.execNegotiateAlgorithms ecdsa sha s
  | .getDigests => Sys2Proof.Machine.execGetDigests s
  | .getCertificate => Sys2Proof.Machine.execGetCertificate s
  | .challenge nonce => Sys2Proof.Machine.execChallenge nonce s
  | .getMeasurements index => Sys2Proof.Machine.execGetMeasurements index s
  | .loaderGo master die value => Sys2Proof.Machine.execLoaderGo master die value s
  | .accessTableWrite w => Sys2Proof.Machine.execAccessTableWrite w s
  | .registerWrite w => Sys2Proof.Machine.execRegisterWrite w s
  | .externalReferenceChange die valid => Sys2Proof.Machine.execExternalReferenceChange die valid s
  | .ptpMessageTransmit port kind => Sys2Proof.Machine.execPtpMessageTransmit port kind s
  | .peerPortLinkUp port => Sys2Proof.Machine.execPeerPortLinkUp port s
  | .peerFrameDiscard port => Sys2Proof.Machine.execPeerFrameDiscard port s
  | .dieMapOut die => Sys2Proof.Machine.execDieMapOut die s
  | .coreRetentionEntry core => Sys2Proof.Machine.execCoreRetentionEntry core s

end Sys2Proof.Machine
end

