-- ==== Sys2Proof/Machine/Place.lean ====
section
/-! DEFINITION. Placing one instruction where the next step fetches it (log entry 2). -/

namespace Sys2Proof.Machine

/-- The core that an instruction needs: the core of die 0, column 0, logical row 0 (R14), or a control core, since the matrix instructions execute on control cores only (R205). -/
def placeCore (i : Instr) : CoreId := if coreOk .vector i then .vec 0 0 2 else .ctl 0 0

/-- The page of the code: its virtual base and frame. -/
def placePage : Nat := 0x10000

/-- The launch record of the team that runs the instruction: one group with a window of 256 registers. -/
def placeRecord : LaunchRecord := { entry := BitVec.ofNat 56 placePage, w0 := 256, tmRows := 8 }

/-- The team. -/
def placeTeam : TeamId := ⟨⟨0, 1⟩, 0⟩

/-- The group: its lanes in RUN at the first slot, and the issue slot held. -/
def placeGroup (i : Instr) : Group :=
  { num := 0, base := placeRecord.groupBase 0, win := 256, gst := .running
    lanes := List.replicate (if coreOk .vector i then 32 else 1) { pc := BitVec.ofNat 56 placePage, st := .run } }

/-- The leaf that maps the code page. -/
def placeLeaf : Leaf :=
  { asid := 0, va := placePage, size := 16, frame := placePage, dset := [], attr := 0, lease := 0, por := false, w := false, x := true }

/-- The line that holds the instruction in slot 0, with its PAIR bit and TARGET bit. -/
def placeLine (w : Nat) : List Byte := makeLine [w % 2 ^ 96] (w / 2 ^ 96 % 2 + 32)

/-- The state in which the next step fetches and runs the instruction of a table word. -/
def State.placeWord (s : State) (w : Nat) : State :=
  let i := (decodeTableWord 96 w).getD (.ill 2 false)
  let c := placeCore i
  let s := (s.focusCore c).stowTeam
  let s := s.onDie 0 fun d => { d with absent := false, held := false, fwd := { d.fwd with st := .run, parent := 4, lockW := true, lockE := true } }
  { s with
    core := { s.core with
      slot := some ⟨placeTeam, 0⟩, retained := false, ltc := placeLeaf :: s.core.ltc
      teams := s.core.teams.filter (·.id != placeTeam), watch := [0, 0, 0, 0] }
    team := { id := placeTeam, lrec := placeRecord, rows := placeRecord.rows }
    grp := placeGroup i
    mem := Memory.writeBytes s.unlisted s.mem placePage (placeLine w)
    memPoison := (s.memPoison.filter fun k => k / 2 != placePage / 64)
    agenda := s.agenda.filter (!urgent ·)
    regStores := []
    arrived := []
    windows := []
    ports := s.ports.map fun p => { p with inbox := [] }
    sched := [.issue c] }

end Sys2Proof.Machine
end

