-- ==== Sys2Proof/Machine/Step.lean ====
section
/-! DEFINITION. One step of the machine, and the state whose next step runs a given instruction. -/

namespace Sys2Proof.Machine

/-- One step: what moves next is an instruction or event, which exec runs, or a change that is no instruction's (a clk, a
walk that a fetch asks for). -/
def step (s : State) : Host.Outcome State Fault Refusal :=
  match s.pick with
  | (some i, s') => exec i s'
  | (none, s') => .next s'

/-- The state with an instruction stored where step fetches its next one (log entry 2). -/
def State.withFetchWord (s : State) (nbits w : Nat) : State := s.placeWord (w % 2 ^ (max nbits 97))

end Sys2Proof.Machine
end

