-- ==== Sys2Proof/Safety.lean ====
section
/-! DEFINITION. What counts as a safe step: the invariant that every step keeps, and what an instruction leaves as it was. -/

namespace Sys2Proof.Machine

/-! ### The invariant -/

/-- A group has at most 32 lanes (R91). -/
def Group.ok (g : Group) : Prop := g.lanes.length ≤ 32

/-- Every group of a team has at most 32 lanes. -/
def Team.ok (t : Team) : Prop := ∀ g ∈ t.groups, g.ok

/-- A core store stands in its canonical form, a scalar core has 32 c registers and 16 buffer records (R162, R206), and every
group of the core has at most 32 lanes. -/
def Core.ok (c : Core) : Prop :=
  Memory.wf Memory.zeros c.store = true ∧ c.c.length = 32 ∧ c.b.length = 16 ∧ ∀ t ∈ c.teams, t.ok

/-- The invariant: memory and every core store stand in their canonical form, and no group has more than 32 lanes, whether
resident or saved. -/
def State.ok (s : State) : Prop :=
  Memory.wf s.unlisted s.mem = true ∧ s.core.ok ∧ s.team.ok ∧ s.grp.ok ∧ (∀ c ∈ s.cores, c.ok) ∧ ∀ x ∈ s.contexts, x.team.ok

/-! ### What stays -/

/-- The trap registers of a lane (R429, R430). -/
def Lane.trapRegs (x : Lane) : Word × DWord × DWord := (x.cause, x.tpc, x.taddr)

/-- A group without what the end of an instruction or of a run may change: its lanes' places, its scheduling state, and the
rows pending for parked lanes. Its registers, flags, counters and operations remain. -/
def Group.regs (g : Group) : Group :=
  { g with gst := .ended, inHandler := false, wait := none, held := none, lanes := [], pend := [], runLen := 0, readyAt := 0, readyNo := 0 }

/-- A core without its issue slot, its idle clk, its fragment and its teams. -/
def Core.regs (c : Core) : Core := { c with slot := none, idle := 0, busy := false, frag := none, teams := [] }

/-- The state without what the end of an instruction or of a run may change: the places of lanes, the scheduling state of
groups and cores, the events that follow and the messages to the control node. -/
def State.regs (s : State) : State :=
  { s with
    core := s.core.regs, team := { s.team with groups := [], runs := 0 }, grp := s.grp.regs, cores := s.cores.map Core.regs
    agenda := [], up := [], kills := [] }

/-- Nothing changes but what `regs` leaves out: every register, memory and the trap registers of every lane stay. -/
def registersStay (s t : State) : Prop := t.regs = s.regs ∧ t.grp.lanes.map Lane.trapRegs = s.grp.lanes.map Lane.trapRegs

/-- The same without the core store in focus. -/
def State.rest (s : State) : State :=
  { s.regs with core := { s.regs.core with store := [], storePoison := [], mixed := [] } }

/-- Whether a byte of the core store in focus belongs to one of the registers that `regs` lists for some lanes of the group in
focus. -/
def State.inLaneRegs (s : State) (ls : List Nat) (regs : Nat → List Nat) (a : Nat) : Prop :=
  ∃ l ∈ ls, ∃ n ∈ regs l, s.local (s.vAddr n l) ≤ a ∧ a < s.local (s.vAddr n l) + 4

/-- Nothing changes but what `regs` leaves out and registers of lanes: memory, every special register, the uniform registers
and flags, the trap registers of every lane, and every other byte of the core store. -/
def onlyLaneRegs (s t : State) (ls : List Nat) (regs : Nat → List Nat) : Prop :=
  t.rest = s.rest
    ∧ t.grp.lanes.map Lane.trapRegs = s.grp.lanes.map Lane.trapRegs
    ∧ ∀ a, ¬ s.inLaneRegs ls regs a → Memory.read Memory.zeros t.core.store a = Memory.read Memory.zeros s.core.store a

/-! ### When an instruction acts -/

/-- Nothing holds an instruction back: no check of R203 fails, and no row that it names is pending (R112). -/
def State.clear (s : State) (i : Instr) : Prop := illDetail s.ctx i = none ∧ s.blocked i = false

/-- No source of an active lane is poisoned (R439). -/
def State.clean (s : State) (us : List Use) : Prop := ∀ l ∈ s.active, (s.sources us l).any (·.2) = false

/-- The operand values of a lane, after neg/abs (R166). -/
def State.operands (s : State) (us : List Use) (l : Nat) : List (BitVec 64) := modified us (s.sources us l)

/-- The flags that several lanes raise (R224). -/
def orFlags (fl : Nat → FpFlags) (ls : List Nat) : FpFlags := ls.foldl (fun x l => x ||| fl l) 0

/-- The words of a value of a type in the registers from vN (R135, R212). -/
def valueWords (n : Nat) (t : Ty) (x : BitVec 64) : List (Nat × Word) := (putVal n t x).map fun w => (w.1, w.2.1)

/-- The number whose bit k, for k below `w`, is `p k`. -/
def bitsOf (w : Nat) (p : Nat → Bool) : BitVec 64 :=
  BitVec.ofNat 64 ((List.range w).foldr (fun k n => n + b2n (p k) * 2 ^ k) 0)

/-- The last entry of a list that satisfies a condition. -/
def findLast {α : Type} (ws : List α) (p : α → Bool) : Option α := ws.reverse.find? p

/-- An instruction completes, and in every active lane the registers that `f` lists take the words that it gives them, without
poison (where it lists one twice, the later word); the flags that `f` gives are raised, and nothing else changes. -/
def lanesBecome (s : State) (i : Instr) (f : Nat → List (Nat × Word) × FpFlags) : Prop :=
  ∃ t, exec i s = .next t
    ∧ (∀ l ∈ s.active, ∀ n w, findLast (f l).1 (·.1 == n) = some w → t.core.elem (s.local (s.vAddr n l)) = (w.2, false))
    ∧ onlyLaneRegs (s.raise (orFlags (fun l => (f l).2) s.active)) t s.active fun l => (f l).1.map (·.1)

/-- What a per-lane instruction does when nothing holds it back and no source is poisoned: `f` gives each active lane's writes and
flags from its operands. -/
def LaneEffect (i : Instr) (us : State → List Use) (f : State → List (BitVec 64) → List (Nat × Word) × FpFlags) : Prop :=
  ∀ s : State, s.ok → s.clear i → s.clean (us s) → lanesBecome s i fun l => f s (s.operands (us s) l)

/-- A per-lane instruction that rounds (R165, R217 to R220): `g` has the mode, which is that of the rounding code or of %fpctl; under
SR the mode carries the random bits of one RandStep on the lane's RAND state, and the stepped state is written back. -/
def RoundedEffect (i : Instr) (rnd : BitVec 3) (us : List Use) (g : Rm → List (BitVec 64) → List (Nat × Word) × FpFlags) : Prop :=
  LaneEffect i (fun s => us ++ s.randUses rnd) fun s v =>
    let r := s.rounding rnd v
    ((g r.1 v).1 ++ r.2.map fun w => (w.1, w.2.1), (g r.1 v).2)

/-! ### Moving and parking lanes -/

/-- An instruction completes with each lane changed as `h` says, and what follows every instruction (R108) with it: `ends` says
whether the instruction ends the run. `s'` is the state in which it acts. -/
def lanesGo (s' : State) (s : State) (i : Instr) (ends : Bool) (h : Nat → Lane → Lane) : Prop :=
  exec i s = .next ((s'.onGrp (·.mapLanes h)).retire s.pc ends)

/-- A lane at which an instruction completes while its program counter goes to a target. -/
def Lane.goto (x : Lane) (target : Nat) : Lane := { x.completed with pc := BitVec.ofNat 56 target }

/-- A parked lane (R111, R429 to R431): `%trapcause`, `%trappc` and `%trapaddr`, and its operand log. -/
def Lane.parkedFor (x : Lane) (t : Trap) (vals : List Src) (rows : List Nat) : Lane :=
  { x with
    st := .parked, replay := false, cause := t.cause, tpc := x.pc.setWidth 64, taddr := t.addr
    log := some ⟨x.pc, x.nest, vals, rows⟩ }

/-- A group of which lanes have parked: those that `t` gives a trap with it, every other lane of the issue set moved on, and no
register changed. -/
def parksIn (s : State) (g : Group) (t : Nat → Option Trap) (vals : Nat → List Src) (rows : List Nat) : Prop :=
  g.regs = s.grp.regs ∧ g.lanes.length = s.grp.lanes.length
    ∧ ∀ k < s.grp.lanes.length, g.lane k =
        match t k with
        | some x => (s.lane k).parkedFor x (vals k) rows
        | none => if s.issueSet.contains k then (s.lane k).after else s.lane k

/-- An instruction whose effect in `s'` is to park lanes, with what follows every instruction. -/
def lanesPark (s' s : State) (i : Instr) (ends : Bool) (t : Nat → Option Trap) (vals : Nat → List Src) (rows : List Nat) : Prop :=
  ∃ g : Group, exec i s = .next (({ s' with grp := g } : State).retire s.pc ends) ∧ parksIn s' g t vals rows

/-! ### Instructions that act once -/

/-- No uniform source is poisoned (R439). -/
def State.uniformClean (s : State) (us : List Use) : Prop := ∀ u ∈ us, (s.fetchUse u 0).2 = false

/-- The values of uniform sources. -/
def State.uniformOperands (s : State) (us : List Use) : List (BitVec 64) := us.map fun u => (s.fetchUse u 0).1

/-- `rest` without the registers of a scalar core. -/
def State.restScalar (s : State) : State := { s.rest with core := { s.rest.core with c := [], b := [], cBad := 0 } }

/-- Nothing changes but what `regs` leaves out and the uniform register sK, with sK+1 for a pair, or cK or half of a buffer record
on a scalar core. -/
def onlyUniform (s t : State) (k : Nat) (wide : Bool) : Prop :=
  t.restScalar = s.restScalar
    ∧ t.grp.lanes.map Lane.trapRegs = s.grp.lanes.map Lane.trapRegs
    ∧ (s.kind = .vector → t.core.c = s.core.c ∧ t.core.b = s.core.b ∧ t.core.cBad = s.core.cBad
        ∧ ∀ a, ¬ (s.local (s.sAddr k) ≤ a ∧ a < s.local (s.sAddr k) + (if wide then 8 else 4)) →
          Memory.read Memory.zeros t.core.store a = Memory.read Memory.zeros s.core.store a)
    ∧ (s.kind ≠ .vector → t.core.store = s.core.store ∧ t.core.storePoison = s.core.storePoison
        ∧ ∀ j < 64, j ≠ k → t.readS j false = s.readS j false)

/-- An instruction completes, a uniform register takes a value without poison, flags are raised, and nothing else changes. -/
def uniformBecomes (s : State) (i : Instr) (k : Nat) (wide : Bool) (x : BitVec 64) (fl : FpFlags) : Prop :=
  ∃ t, exec i s = .next t ∧ t.readS k wide = (x, false) ∧ onlyUniform (s.raise fl) t k wide

/-- What an instruction that acts once does, when some lane is active and no source is poisoned: `f` gives the register's value from
the operands. -/
def UniformEffect (i : Instr) (us : List Use) (k : Nat) (wide : Bool) (f : State → List (BitVec 64) → BitVec 64) : Prop :=
  ∀ s : State, s.ok → s.clear i → s.active ≠ [] → s.uniformClean us →
    uniformBecomes s i k wide (f s (s.uniformOperands us)) 0

/-! ### Accesses to memory -/

/-- Nothing holds an access back: no check fails and no row is pending, some lane is active, and no earlier acquire, .AR access or
FENCE of the group comes first (R312, R317). -/
def State.mayAccess (s : State) (i : Instr) : Prop := s.clear i ∧ s.active ≠ [] ∧ s.orderBlocked i = false

/-- The release of an access has been done, where it carries one (R312, R314). -/
def State.released? (s : State) (rel : Bool) : Prop := rel = true → s.grp.relDone = some s.pc

/-- The state once an access has used the release done for it. -/
def State.useRelease (s : State) (rel : Bool) : State := if rel then s.onGrp fun g => { g with relDone := none } else s

/-- An instruction completes, registers of the active lanes take words with their poison (where `f` lists one twice, the later),
and nothing else changes from `s'`. -/
def lanesTake (s' s : State) (i : Instr) (f : Nat → List (Nat × Word × Bool)) : Prop :=
  ∃ t, exec i s = .next t
    ∧ (∀ l ∈ s.active, ∀ n w, findLast (f l) (·.1 == n) = some w → t.core.elem (s.local (s.vAddr n l)) = w.2)
    ∧ onlyLaneRegs s' t s.active fun l => (f l).map (·.1)

/-- The words of a value with one poison mark. -/
def markedWords (n : Nat) (t : Ty) (x : BitVec 64 × Bool) : List (Nat × Word × Bool) :=
  (valueWords n t x.1).map fun w => (w.1, w.2, x.2)

/-- The bytes that storing `n` bytes of a number at an address writes, in ascending order. -/
def bytesAt (a n x : Nat) : List (Nat × Byte) := (List.range n).map fun j => (a + j, BitVec.ofNat 8 (x / 256 ^ j))

/-- The core store takes the bytes listed (where an address is listed twice, the later), and nothing else changes from `s`: every
register outside the store, memory, and every other byte of the store. -/
def onlyBytes (s t : State) (ws : List (Nat × Byte)) : Prop :=
  t.rest = s.rest
    ∧ t.grp.lanes.map Lane.trapRegs = s.grp.lanes.map Lane.trapRegs
    ∧ ∀ a, Memory.read Memory.zeros t.core.store a =
        match findLast ws (·.1 == a) with
        | some w => w.2
        | none => Memory.read Memory.zeros s.core.store a

/-- The group in focus has nothing outstanding, and its core has no dirty bytes and awaits no acknowledgement: a release by it is
done at once (R287, R315). -/
def State.quiet (s : State) : Prop := s.grp.ops = [] ∧ s.core.acks = [] ∧ ∀ c ∈ s.core.copies, c.mask = 0

/-- No other team or group goes by the name of the one in focus. -/
def State.alone (s : State) : Prop := (∀ t ∈ s.core.teams, t.id ≠ s.team.id) ∧ ∀ g ∈ s.team.groups, g.num ≠ s.grp.num

/-- The lanes of a global access with the addresses and places that `vas` and `ps` give them. -/
def passing (s : State) (us : List Use) (vas : Nat → List (Option Nat)) (ps : Nat → List Place) : List (LaneAcc × List Place) :=
  s.active.map fun l => (⟨l, s.sources us l, .ok (vas l)⟩, ps l)

/-- Every active lane of a global access passes the checks of R264 with these addresses and places, every translation is held,
and no line is one that an operation of the group has yet to write (R312). -/
def State.reaches (s : State) (g : GAcc) (off : BitVec 16) (us : List Use) (vas : Nat → List (Option Nat)) (ps : Nat → List Place) : Prop :=
  (∀ l ∈ s.active, s.preCheck g off l (s.sources us l) = ⟨l, s.sources us l, .ok (vas l)⟩)
    ∧ s.missing ((s.active.map fun l => (vas l).filterMap id).flatten) = []
    ∧ (∀ l ∈ s.active, s.postCheck g ⟨l, s.sources us l, .ok (vas l)⟩ = .ok (ps l))
    ∧ s.lineBusy (passing s us vas ps) = false

/-- The state in which a global access issues: the walk results that it used are dropped (R262). -/
def State.issuing (s : State) (vas : Nat → List (Option Nat)) : State :=
  s.dropHeld (s.active.map fun l => (vas l).filterMap id).flatten

/-! ### Instructions that act once, and barriers -/

/-- Nothing holds back an instruction that acts once: no check fails, no row is pending, some lane is active, and no source is
poisoned. -/
def State.mayActOnce (s : State) (i : Instr) (us : List Use) : Prop := s.clear i ∧ s.active ≠ [] ∧ s.uniformClean us

/-- Nothing holds back a barrier instruction: it may access memory, no operand is poisoned, and BAR names an object unless a remote
core holds it (R491). -/
def State.mayUseBarrier (s : State) (i : Instr) (f : XF) : Prop :=
  s.mayAccess i ∧ s.uniformClean (s.barUses i) ∧ (XF.remote f = true ∨ s.team.lrec.isObject f.bar.toNat = true)

/-- No group and no other core waits on an object of the team in focus, and no forwarded arrival awaits its phase. -/
def State.noWaiters (s : State) (a : Nat) : Prop :=
  (∀ g ∈ s.teamGroups, g.waitsBar a = none) ∧ (∀ w ∈ s.team.barWaiters, w.addr ≠ a) ∧ ∀ m ∈ s.team.pendingUp, m.addr ≠ a

/-! ### Events at a group -/

/-- Whether a group is resident on a core. -/
def State.groupHere (s : State) (c : CoreId) (g : GroupId) : Prop := ((s.focusCore c).findGroup g).isSome = true

/-- The state with a group of a core in focus. -/
def State.seen (s : State) (c : CoreId) (g : GroupId) : State := (s.focusCore c).focusGroup g

/-- An event acts on one group of a core, after which the group of that core that was in focus is in focus again. -/
def groupDoes (s : State) (i : Instr) (c : CoreId) (g : GroupId) (f : State → State) : Prop :=
  exec i s = .next ((f (s.seen c g)).focusGroup (s.focusCore c).gid)

/-- What the group with a name waits for, in a handler or not. -/
def State.awaits (s : State) (c : CoreId) (g : GroupId) : Option WaitFor := (s.seen c g).grp.waiting?.map Wait.what

/-! ### Requests at a home -/

/-- A message tagged with an epoch that its die has taken finds a line resident at its home, and no request for the line waits there
(R274, R275, R299). -/
def State.atHomeWith (s : State) (line : Nat) (now : Stamp) (h : Home) : Prop :=
  s.early (lineDie line) now = false ∧ s.homeOf line = some h
    ∧ (s.die (lineDie line)).stalled.any (fun x => homeLine x == some line) = false
    ∧ (s.slice line).waiting.any (fun x => homeLine x == some line) = false

/-- Nothing that the home awaits holds a request for the line back (R328, R334). -/
def Home.free (h : Home) : Prop := h.recalling = false ∧ h.prep = none

end Sys2Proof.Machine
end

