-- ==== Sys2Proof/Certificates/Slice0/Obligations.lean ====
section
/-! DEFINITION. The statements for the provers. -/

open Sys2Proof Sys2Proof.Machine

/-! ### Per-lane arithmetic -/

/-- The two-source integer instructions of R545 and their immediate twins (R196). `two f g` says of a V3 instruction that every
active lane's dst takes `g` of the type's integers, modulo 2^W; `imm f g` says it of the twin, with the immediate widened as R170
says as the second integer. INEG and IABS (R545), IMAD with its twin, IDOT4, LEA and IMADW (R545, R546): the exact result modulo 2^W, or modulo 2^64 for
IMADW. -/
def Obligations.IntegerArithmetic : Prop :=
  (let two (i : V3 → Instr) (g : Ty → Int → Int → Int) : Prop := ∀ f : V3, let t := V3.ity f
    LaneEffect (i f) (fun _ => [f.useA t, f.useB t]) fun _ v =>
      (valueWords f.dst.reg t (wrap t.width (g t (t.int (nth v 0)) (t.int (nth v 1)))), 0)
  let imm (i : VI → Instr) (g : Ty → Int → Int → Int) : Prop := ∀ f : VI, let t := VI.ity f
    LaneEffect (i f) (fun _ => [f.useA t]) fun _ v =>
      (valueWords f.dst.reg t (wrap t.width (g t (t.int (nth v 0)) (t.int (widenImm t f.imm)))), 0)
  (two .iadd fun _ a b => a + b) ∧ (two .isub fun _ a b => a - b) ∧ (two .imul fun _ a b => a * b)
    ∧ (two .imulh fun t a b => (a * b) / (2 : Int) ^ t.width) ∧ (two .imin fun _ a b => min a b) ∧ (two .imax fun _ a b => max a b)
    ∧ (imm .iaddVi fun _ a b => a + b) ∧ (imm .isubVi fun _ a b => a - b) ∧ (imm .imulVi fun _ a b => a * b)
    ∧ (imm .iminVi fun _ a b => min a b) ∧ (imm .imaxVi fun _ a b => max a b))
  ∧ (∀ f : V3, let t := V3.ity f
    (LaneEffect (.ineg f) (fun _ => [f.useA t]) fun _ v => (valueWords f.dst.reg t (wrap t.width (-t.int (nth v 0))), 0))
    ∧ (LaneEffect (.iabs f) (fun _ => [f.useA t]) fun _ v =>
        (valueWords f.dst.reg t (wrap t.width ((t.int (nth v 0)).natAbs : Int)), 0))
    ∧ (LaneEffect (.imad f) (fun _ => [f.useA t, f.useB t, f.useC t]) fun _ v =>
        (valueWords f.dst.reg t (wrap t.width (t.int (nth v 0) * t.int (nth v 1) + t.int (nth v 2))), 0))
    ∧ (∀ g : VI, LaneEffect (.imadVi g) (fun _ => [g.useA (VI.ity g), g.useB (VI.ity g)]) fun _ v =>
        (valueWords g.dst.reg (VI.ity g) (wrap (VI.ity g).width
          ((VI.ity g).int (nth v 0) * (VI.ity g).int (nth v 1) + (VI.ity g).int (widenImm (VI.ity g) g.imm))), 0))
    ∧ (LaneEffect (.idot4 f) (fun _ => [f.useA .i32, f.useB .i32, f.useC .i32]) fun _ v =>
        let byte (signed : Bool) (x : BitVec 64) (k : Nat) : Int :=
          if signed then (x.extractLsb' (8 * k) 8).toInt else ((x.extractLsb' (8 * k) 8).toNat : Int)
        let p (k : Nat) : Int := byte (f.sub.toNat < 2) (nth v 0) k * byte (f.sub.toNat % 2 = 0) (nth v 1) k
        (valueWords f.dst.reg .i32 (wrap 32 (p 0 + p 1 + p 2 + p 3 + sval 32 (nth v 2))), 0))
    ∧ (LaneEffect (.lea f) (fun _ => [f.useA t, f.useB .i32]) fun _ v =>
        (valueWords f.dst.reg t (wrap t.width ((uval t.width (nth v 0) : Int) + sval 32 (nth v 1) * (2 : Int) ^ f.sub.toNat)), 0))
    ∧ (let w : Ty := if t.signed then .i64 else .n64
       LaneEffect (.imadw f) (fun _ => [f.useA t, f.useB t, f.useC w]) fun _ v =>
        (valueWords f.dst.reg w (wrap 64 (t.int (nth v 0) * t.int (nth v 1) + w.int (nth v 2))), 0)))

/-- IADDC (R546): the sum with the carry bit of srcC modulo 2^W, and the carry out in the register after the result. -/
def Obligations.AddWithCarry : Prop :=
  ∀ f : V3, let t := V3.ity f
    LaneEffect (.iaddc f) (fun _ => [f.useA t, f.useB t, f.useC .n32]) fun _ v =>
      let sum := uval t.width (nth v 0) + uval t.width (nth v 1) + (nth v 2).toNat % 2
      (valueWords f.dst.reg t (BitVec.ofNat 64 (sum % 2 ^ t.width))
        ++ [(f.dst.reg + (if t.wide then 2 else 1), if 2 ^ t.width ≤ sum then 1 else 0)], 0)

/-- ICMP and its twin (R545, R197): 1 when the relation of the sub-op holds between the type's integers, 0 otherwise. SEL (R594):
srcA when the condition is not zero, srcB otherwise. The bit operations of R480, R572 and R591 bit by bit: each bit of the result from bits of the sources. -/
def Obligations.ComparesAndBits : Prop :=
  (let rel (sub : Nat) (a b : Int) : Bool :=
    if sub = 0 then a = b else if sub = 1 then a ≠ b else if sub = 2 then a < b else if sub = 3 then a ≤ b
    else if sub = 4 then a > b else a ≥ b
  (∀ f : V3, let t := V3.ity f
    LaneEffect (.icmp f) (fun _ => [f.useA t, f.useB t]) fun _ v =>
      ([(f.dst.reg, if rel f.sub.toNat (t.int (nth v 0)) (t.int (nth v 1)) then 1 else 0)], 0))
  ∧ (∀ f : VI, let t := VI.ity f
    LaneEffect (.icmpVi f) (fun _ => [f.useA t]) fun _ v =>
      ([(f.dst.reg, if rel f.sub.toNat (t.int (nth v 0)) (t.int (widenImm t f.imm)) then 1 else 0)], 0))
  ∧ (∀ f : V3, let t := V3.ity f
    LaneEffect (.sel f) (fun _ => [f.useA t, f.useB t, f.useC .b32]) fun _ v =>
      (valueWords f.dst.reg t (if uval 32 (nth v 2) ≠ 0 then nth v 0 else nth v 1), 0)))
  ∧ (let two (i : V3 → Instr) (g : Bool → Bool → Bool) : Prop := ∀ f : V3, let t := V3.ity f
    LaneEffect (i f) (fun _ => [f.useA t, f.useB t]) fun _ v =>
      (valueWords f.dst.reg t (bitsOf t.width fun k => g ((nth v 0).getLsbD k) ((nth v 1).getLsbD k)), 0)
  let imm (i : VI → Instr) (g : Bool → Bool → Bool) : Prop := ∀ f : VI, let t := VI.ity f
    LaneEffect (i f) (fun _ => [f.useA t]) fun _ v =>
      (valueWords f.dst.reg t (bitsOf t.width fun k => g ((nth v 0).getLsbD k) ((widenImm t f.imm).getLsbD k)), 0)
  (two .and fun a b => a && b) ∧ (two .andn fun a b => a && !b) ∧ (two .or fun a b => a || b) ∧ (two .orn fun a b => a || !b)
    ∧ (two .xor fun a b => a != b) ∧ (imm .andVi fun a b => a && b) ∧ (imm .orVi fun a b => a || b)
    ∧ (imm .xorVi fun a b => a != b)
    ∧ ∀ f : V3, LaneEffect (.not f) (fun _ => [f.useA (V3.ity f)]) fun _ v =>
        (valueWords f.dst.reg (V3.ity f) (bitsOf (V3.ity f).width fun k => !(nth v 0).getLsbD k), 0))

/-- Shifts and rotation (R591) bit by bit, with n the amount modulo W. BREV, BFE and BFI (R499 to R501) bit by bit, CLZ, FFS and POPC (R515, R573) by what they count, MOV and MOVI (R564). -/
def Obligations.ShiftsFieldsMoves : Prop :=
  (let op (i : V3 → Instr) (g : (w n : Nat) → (Nat → Bool) → Nat → Bool) : Prop := ∀ f : V3, let t := V3.ity f
    LaneEffect (i f) (fun _ => [f.useA t, f.useB .b32]) fun _ v =>
      (valueWords f.dst.reg t (bitsOf t.width (g t.width (uval 32 (nth v 1) % t.width) fun k => (nth v 0).getLsbD k)), 0)
  (op .shl fun _ n a k => decide (n ≤ k) && a (k - n))
    ∧ (op .shr fun w n a k => decide (k + n < w) && a (k + n))
    ∧ (op .shra fun w n a k => a (min (k + n) (w - 1)))
    ∧ (op .rotl fun w n a k => a ((k + w - n) % w)))
  ∧ (∀ (f : V3), let t := V3.ity f; let w := t.width
    (LaneEffect (.brev f) (fun _ => [f.useA t]) fun _ v =>
      (valueWords f.dst.reg t (bitsOf w fun k => (nth v 0).getLsbD (w - 1 - k)), 0))
    ∧ (LaneEffect (.bfe f) (fun _ => [f.useA t, f.useB .b32]) fun _ v =>
      let o := (nth v 1).toNat % 256; let n := min ((nth v 1).toNat / 256 % 256) w
      let x (j : Nat) : Bool := if j < w then (nth v 0).getLsbD j else t.signed && (nth v 0).getLsbD (w - 1)
      (valueWords f.dst.reg t (if n = 0 then 0
        else bitsOf w fun k => if k < n then x (o + k) else t.signed && x (o + n - 1)), 0))
    ∧ (LaneEffect (.bfi f) (fun _ => [f.useA t, f.useB t, f.useC .b32]) fun _ v =>
      let o := (nth v 2).toNat % 256; let n := min ((nth v 2).toNat / 256 % 256) w
      (valueWords f.dst.reg t (bitsOf w fun k =>
        if o ≤ k ∧ k < o + n then (nth v 0).getLsbD (k - o) else (nth v 1).getLsbD k), 0))
    ∧ (∀ g : List (BitVec 64) → Nat,
      (∀ v, g v ≤ w ∧ (∀ k, w - g v ≤ k → k < w → (nth v 0).getLsbD k = false) ∧ (g v < w → (nth v 0).getLsbD (w - 1 - g v) = true)) →
      LaneEffect (.clz f) (fun _ => [f.useA t]) fun _ v => ([(f.dst.reg, BitVec.ofNat 32 (g v))], 0))
    ∧ (∀ g : List (BitVec 64) → Nat,
      (∀ v, ((∀ k < w, (nth v 0).getLsbD k = false) → g v = 0xFFFFFFFF)
        ∧ ∀ k < w, (nth v 0).getLsbD k = true → (∀ j < k, (nth v 0).getLsbD j = false) → g v = k) →
      LaneEffect (.ffs f) (fun _ => [f.useA t]) fun _ v => ([(f.dst.reg, BitVec.ofNat 32 (g v))], 0))
    ∧ (LaneEffect (.popc f) (fun _ => [f.useA t]) fun _ v =>
      ([(f.dst.reg, BitVec.ofNat 32 ((List.range w).countP fun k => (nth v 0).getLsbD k))], 0))
    ∧ (LaneEffect (.mov f) (fun _ => [f.useA t]) fun _ v => (valueWords f.dst.reg t (nth v 0), 0))
    ∧ ∀ g : VI, LaneEffect (.movi g) (fun _ => []) fun _ _ => (valueWords g.dst.reg (VI.ity g) (widenImm (VI.ity g) g.imm), 0))

/-! ### Floating point -/

/-- FADD, FMUL, FFMA and their twins, FDIVFIX and FLDEXP (R529, R535, R542): the exact result of the sources, rounded once in the
instruction's mode, with the flags of both. -/
def Obligations.FloatArithmetic : Prop :=
  let out (n : Nat) (t : Ty) (m : Rm) (x : Val × FpFlags) : List (Nat × Word) × FpFlags :=
    (valueWords n t (roundTo t m false x.1).1, x.2 ||| (roundTo t m false x.1).2)
  (∀ f : V3, let t := V3.nty f
    (RoundedEffect (.fadd f) f.rnd [f.useA t, f.useB t] fun m v =>
      out f.dst.reg t m (addVal m (t.val (nth v 0)) (t.val (nth v 1))))
    ∧ (RoundedEffect (.fmul f) f.rnd [f.useA t, f.useB t] fun m v =>
      out f.dst.reg t m (mulVal (t.val (nth v 0)) (t.val (nth v 1))))
    ∧ (RoundedEffect (.ffma f) f.rnd [f.useA t, f.useB t, f.useC t] fun m v =>
      out f.dst.reg t m (fmaVal m (t.val (nth v 0)) (t.val (nth v 1)) (t.val (nth v 2))))
    ∧ (RoundedEffect (.fdivfix f) f.rnd [f.useA t, f.useB t, f.useC t] fun m v =>
      out f.dst.reg t m (divVal (t.val (nth v 0)) (t.val (nth v 1))))
    ∧ (RoundedEffect (.fldexp f) f.rnd [f.useA t, f.useB .i32] fun m v =>
      out f.dst.reg t m (scaleVal (t.val (nth v 0)) (sval 32 (nth v 1)), 0)))
  ∧ (∀ f : VI, let t := VI.nty f
    (RoundedEffect (.faddVi f) f.rnd [f.useA t] fun m v =>
      out f.dst.reg t m (addVal m (t.val (nth v 0)) (t.val (widenImm t f.imm))))
    ∧ (RoundedEffect (.fmulVi f) f.rnd [f.useA t] fun m v =>
      out f.dst.reg t m (mulVal (t.val (nth v 0)) (t.val (widenImm t f.imm))))
    ∧ (RoundedEffect (.ffmaVi f) f.rnd [f.useA t, f.useB t] fun m v =>
      out f.dst.reg t m (fmaVal m (t.val (nth v 0)) (t.val (nth v 1)) (t.val (widenImm t f.imm)))))

/-- FMIN and FMAX (R530): the smaller or larger source bit for bit, −0 below +0, the other source beside one NaN, the canonical NaN
for two; NV for a signalling NaN. FCMP and its twin (R532): the predicate of the sub-op and NV. FCLASS (R531): the one bit of the
source's class. FRINT (R543): the integral value in the mode. -/
def Obligations.FloatCompareClass : Prop :=
  let below (x y : Val) : Bool := ltVal x y || (x.isZero && y.isZero && x.neg && !y.neg)
  let pick (t : Ty) (a b : BitVec 64) (first : Bool) : BitVec 64 :=
    if (t.val a).isNan ∧ (t.val b).isNan then BitVec.ofNat 64 t.fmt.nanBits
    else if (t.val a).isNan then low t.width b else if (t.val b).isNan then low t.width a
    else if first then low t.width a else low t.width b
  let sig (t : Ty) (a b : BitVec 64) : FpFlags := if (t.val a).isSnan ∨ (t.val b).isSnan then fNV else 0
  let holds (sub : Nat) (x y : Val) : Bool :=
    match sub with
    | 0 => eqVal x y | 1 => !eqVal x y | 2 => ltVal x y | 3 => ltVal x y || eqVal x y
    | 4 => ltVal y x | 5 => ltVal y x || eqVal x y | 6 => !x.isNan && !y.isNan | _ => x.isNan || y.isNan
  let nv (sub : Nat) (x y : Val) : FpFlags :=
    if 2 ≤ sub ∧ sub ≤ 5 then (if x.isNan ∨ y.isNan then fNV else 0) else if x.isSnan ∨ y.isSnan then fNV else 0
  (∀ f : V3, let t := V3.nty f
    (RoundedEffect (.fmin f) f.rnd [f.useA t, f.useB t] fun _ v =>
      (valueWords f.dst.reg t (pick t (nth v 0) (nth v 1) (below (t.val (nth v 0)) (t.val (nth v 1)))), sig t (nth v 0) (nth v 1)))
    ∧ (RoundedEffect (.fmax f) f.rnd [f.useA t, f.useB t] fun _ v =>
      (valueWords f.dst.reg t (pick t (nth v 0) (nth v 1) (below (t.val (nth v 1)) (t.val (nth v 0)))), sig t (nth v 0) (nth v 1)))
    ∧ (LaneEffect (.fcmp f) (fun _ => [f.useA t, f.useB t]) fun _ v =>
      let x := t.val (nth v 0); let y := t.val (nth v 1)
      ([(f.dst.reg, if holds f.sub.toNat x y then 1 else 0)], nv f.sub.toNat x y))
    ∧ (LaneEffect (.fclass f) (fun _ => [f.useA t]) fun _ v =>
      ([(f.dst.reg, match t.val (nth v 0) with
        | .nan s => if s then 0x100 else 0x200
        | .inf s => if s then 0x001 else 0x080
        | .num s m _ _ => if m = 0 then (if s then 0x008 else 0x010)
          else if m < 2 ^ t.fmt.fw then (if s then 0x004 else 0x020) else if s then 0x002 else 0x040)], 0))
    ∧ (RoundedEffect (.frint f) f.rnd [f.useA t] fun m v =>
      match t.val (nth v 0) with
      | .nan s => (valueWords f.dst.reg t (BitVec.ofNat 64 t.fmt.nanBits), if s then fNV else 0)
      | .inf _ => (valueWords f.dst.reg t (low t.width (nth v 0)), 0)
      | .num s m' e st => (valueWords f.dst.reg t (roundTo t .rne false (.num s (roundInt m s m' e st).1.natAbs 0 false)).1, 0)))
  ∧ (∀ f : VI, let t := VI.nty f
    LaneEffect (.fcmpVi f) (fun _ => [f.useA t]) fun _ v =>
      let x := t.val (nth v 0); let y := t.val (widenImm t f.imm)
      ([(f.dst.reg, if holds f.sub.toNat x y then 1 else 0)], nv f.sub.toNat x y))

/-- FDOT2 (R536): a0·b0 + a1·b1 + c exact and rounded once. CVT (R518): the source's value in the destination type. CVTEF (R227,
R520): the narrowed value, and in the next register the rest as .F32. MXUNPACK (R570): the element under its scale. -/
def Obligations.FloatConversions : Prop :=
  ∀ f : V3, let t := V3.nty f
    (RoundedEffect (.fdot2 f) f.rnd [{ f.useA t with nabs := 0 }, { f.useB t with nabs := 0 }, f.useC .f32] fun m v =>
      let el (n : BitVec 2) (x : BitVec 64) (k : Nat) : Val := t.val (applyNabs n t ((x.extractLsb' (16 * k) 16).setWidth 64))
      let p (k : Nat) := mulVal (el f.na (nth v 0) k) (el f.nb (nth v 1) k)
      let s := addVal m (p 0).1 (p 1).1
      let x := addVal m s.1 (Ty.f32.val (nth v 2))
      let r := roundTo .f32 m false x.1
      (valueWords f.dst.reg .f32 r.1, (p 0).2 ||| (p 1).2 ||| s.2 ||| (x.2 ||| r.2)))
    ∧ (∀ src dst, cvtSrc f.sub = some src → cvtDst f.sub f.ty = some dst →
      RoundedEffect (.cvt f) f.rnd [f.useA src] fun m v =>
        let r := if dst.floating then roundTo dst m f.nosat (src.val (nth v 0))
          else if src.floating then toIntTy dst m (src.val (nth v 0)) else clampInt dst (src.int (nth v 0))
        (valueWords f.dst.reg dst r.1, r.2))
    ∧ (let src : Ty := if f.sub = 0 then .f64 else .f32
      RoundedEffect (.cvtef f) f.rnd [f.useA src] fun m v =>
        let r := convertEf src t m f.nosat (nth v 0)
        (valueWords f.dst.reg t r.1 ++ valueWords (f.dst.reg + 1) .f32 r.2.1, r.2.2))
    ∧ (∀ dst, mxPlain f.sub = some dst →
      RoundedEffect (.mxunpack f) f.rnd [f.useA t] fun m v =>
        let x := nth v 0
        let r := roundTo dst m false (mxVal t (x.toNat / 256 % 256) (low t.elemBits x))
        (valueWords f.dst.reg dst r.1, r.2))

/-- FSQRT rounds the exact root (R229, R534). The approximating instructions write one fixed function of their operand bits, in every type
(R228, R534). It gives the special results of R229, and the canonical NaN for a NaN, with NV for a signalling one; the exact results of
R230; and otherwise, with IX, a neighbour of the exact value (FRCP, and FRSQ but for .F32), or a value within the bound of R228 around it or
that value rounded to nearest.
What the spec leaves open here is as the model chooses it (log entry 7). -/
def Obligations.Transcendentals : Prop :=
  (∀ f : V3, let t := V3.nty f
    let un (i : Instr) (g : BitVec 64 → BitVec 64 × FpFlags) : Prop :=
      RoundedEffect i f.rnd [f.useA t] fun _ v => (valueWords f.dst.reg t (g (nth v 0)).1, (g (nth v 0)).2)
    (RoundedEffect (.fsqrt f) f.rnd [f.useA t] fun m v =>
      let x := sqrtVal (t.val (nth v 0)); let r := roundTo t m false x.1
      (valueWords f.dst.reg t r.1, x.2 ||| r.2))
    ∧ un (.frcp f) (fpRcp t) ∧ un (.frsq f) (fpRsq t) ∧ un (.fexp2 f) (fpExp2 t) ∧ un (.flog2 f) (fpLog2 t)
    ∧ un (.fsin f) (fpSinCos false t) ∧ un (.fcos f) (fpSinCos true t) ∧ un (.ftanh f) (fpTanh t))
  ∧ (∀ t ∈ [Ty.f64, Ty.f32, Ty.f16],
    let sign : BitVec 64 := BitVec.ofNat 64 (2 ^ (t.width - 1))
    let inf : BitVec 64 := BitVec.ofNat 64 t.fmt.infBits
    let nan : BitVec 64 := BitVec.ofNat 64 t.fmt.nanBits
    let one : BitVec 64 := BitVec.ofNat 64 (t.fmt.bias * 2 ^ t.fmt.fw)
    fpRcp t 0 = (inf, fDZ) ∧ fpRcp t sign = (sign ||| inf, fDZ) ∧ fpRcp t inf = (0, 0) ∧ fpRcp t (sign ||| inf) = (sign, 0)
      ∧ fpRsq t 0 = (inf, fDZ) ∧ fpRsq t sign = (sign ||| inf, fDZ) ∧ fpRsq t inf = (0, 0) ∧ fpRsq t (sign ||| inf) = (nan, fNV)
      ∧ fpExp2 t (sign ||| inf) = (0, 0) ∧ fpExp2 t inf = (inf, 0) ∧ fpExp2 t 0 = (one, 0) ∧ fpExp2 t sign = (one, 0)
      ∧ fpLog2 t 0 = (sign ||| inf, fDZ) ∧ fpLog2 t sign = (sign ||| inf, fDZ) ∧ fpLog2 t one = (0, 0)
      ∧ fpLog2 t (sign ||| inf) = (nan, fNV) ∧ fpLog2 t inf = (inf, 0)
      ∧ (∀ cos, fpSinCos cos t inf = (nan, fNV) ∧ fpSinCos cos t (sign ||| inf) = (nan, fNV)) ∧ fpSinCos false t 0 = (0, 0)
      ∧ fpSinCos false t sign = (sign, 0) ∧ fpSinCos true t 0 = (one, 0) ∧ fpSinCos true t sign = (one, 0)
      ∧ fpTanh t inf = (one, 0) ∧ fpTanh t (sign ||| inf) = (sign ||| one, 0) ∧ fpTanh t 0 = (0, 0) ∧ fpTanh t sign = (sign, 0)
      ∧ fpSqrt t .rne 0 = (0, 0) ∧ fpSqrt t .rne sign = (sign, 0) ∧ fpSqrt t .rne inf = (inf, 0) ∧ fpSqrt t .rne (sign ||| inf) = (nan, fNV)
      ∧ ∀ a m e st, t.val a = .num true m e st → m ≠ 0 → fpSqrt t .rne a = (nan, fNV) ∧ fpRsq t a = (nan, fNV) ∧ fpLog2 t a = (nan, fNV))
  ∧ ∀ (t : Ty) (a : BitVec 64),
    (∀ s, t.val a = .nan s → ∀ g ∈ [fpRcp t, fpRsq t, fpExp2 t, fpLog2 t, fpSinCos false t, fpSinCos true t, fpTanh t],
      g a = (t.nan, if s = true then fNV else 0))
    ∧ ∀ s m e st, t.val a = .num s m e st → m ≠ 0 →
      let x : Val := .num s m e st
      let beside (r : BitVec 64 × FpFlags) (v : Val) : Prop := ∃ mode, r = roundTo t mode false v
      let lies (r : BitVec 64 × FpFlags) (v : Val) (bound : Int) : Prop :=
        (t.val r.1).near v bound = true ∧ r.2 &&& fIX = fIX ∨ r = roundTo t .rne false v
      let inverse : Val := (divVal (.num false 1 0 false) (.num s m e false)).1
      let n := (roundInt .rtz s m e st)
      (if pow2 m = true ∨ t = .f16 then fpRcp t a = roundTo t .rne false inverse else beside (fpRcp t a) inverse)
      ∧ (s = false → if (exactRsq m e).exact = true then fpRsq t a = roundTo t .rne false (exactRsq m e)
          else if t = .f32 then lies (fpRsq t a) (exactRsq m e) (2 * ulpOf t (exactRsq m e)) else beside (fpRsq t a) (exactRsq m e))
      ∧ (n.1 ≤ (t.fmt.bias : Int) → if n.2 = false ∧ t.fmt.qmin ≤ n.1 then fpExp2 t a = roundTo t .rne false (.num false 1 n.1 false)
          else lies (fpExp2 t a) (exactExp2 x) (ulpBound t (exactExp2 x)))
      ∧ ((t.fmt.bias : Int) < n.1 → fpExp2 t a = roundTo t .rne false (.num false 1 (t.fmt.bias + 1) false))
      ∧ (s = false → if pow2 m = true then fpLog2 t a = roundTo t .rne false (Val.ofInt (e + (Nat.log2 m : Int)))
          else lies (fpLog2 t a) (exactLog2 m e)
            (if t = .f32 ∧ -1 ≤ e + (Nat.log2 m : Int) ∧ e + (Nat.log2 m : Int) < 1 then absBound t else ulpBound t (exactLog2 m e)))
      ∧ (∀ cos, lies (fpSinCos cos t a) (exactSinCos cos x) (absBound t))
      ∧ lies (fpTanh t a) (exactTanh x) (ulpBound t (exactTanh x))

/-! ### Across lanes -/

/-- SHFL (R600): each active lane takes the element of the lane that its own lane operand names within its segment, and its own
value when that lies outside. -/
def Obligations.ShuffleReadsNamedLane : Prop :=
  ∀ (f : V3) (s : State), let t := V3.ity f
    let w : Nat := if f.flags.toNat % 8 = 0 ∨ f.flags.toNat % 8 = 5 then 32 else 2 ^ (f.flags.toNat % 8)
    let named (l : Nat) : Nat :=
      let b := uval 32 (s.fetchUse (f.useB .n32) l).1
      let i := l % w
      let j : Int := match f.sub.toNat with
        | 0 => b | 1 => (i : Int) - b | 2 => i + b | _ => ((i ^^^ b : Nat) : Int)
      if j < 0 ∨ (w : Int) ≤ j then l else l - i + j.toNat
    s.ok → s.clear (.shfl f) → (∀ l ∈ s.active, (s.lane l).replay = false) →
    (∀ l ∈ s.active, (s.fetchUse (f.useB .n32) l).2 = false ∧ (s.fetchUse (f.useA t) (named l)).2 = false) →
    lanesBecome s (.shfl f) fun l => (valueWords f.dst.reg t (s.fetchUse (f.useA t) (named l)).1, 0)

/-- VOTE, BALLOT and MATCH (R489, R559, R612) with no poisoned source: the vote of the active lanes to a uniform register or to
their own; the mask of the lanes with a non-zero source; the lanes that hold the lane's own value. -/
def Obligations.VotesAndMasks : Prop :=
  ∀ (f : V3) (s : State), s.ok →
    let yes (l : Nat) : Bool := uval 32 (nth (s.operands [f.useA .b32] l) 0) ≠ 0
    (s.clear (.vote f) → s.clean [f.useA .b32] →
      let r : Nat := if (if f.sub = 0 then s.active.all yes else s.active.any yes) then 1 else 0
      (f.dst.isV = true → lanesBecome s (.vote f) fun _ => ([(f.dst.reg, BitVec.ofNat 32 r)], 0))
      ∧ (f.dst.isV = false → s.active ≠ [] → uniformBecomes s (.vote f) f.dst.reg false (BitVec.ofNat 64 r) 0))
    ∧ (s.clear (.ballot f) → s.clean [f.useA .b32] → s.active ≠ [] →
      uniformBecomes s (.ballot f) f.dst.reg false (bitsOf 32 fun l => s.active.contains l && yes l) 0)
    ∧ (let t := V3.ity f
      let val (l : Nat) : Nat := uval t.width (nth (s.operands [f.useA t] l) 0)
      s.clear (.matchl f) → s.clean [f.useA t] →
      lanesBecome s (.matchl f) fun l =>
        let m := if f.sub = 0 then bitsOf 32 fun j => s.active.contains j && val j == val l
          else if s.active.all fun j => val j == val l then bitsOf 32 fun j => s.active.contains j else 0
        ([(f.dst.reg, m.setWidth 32)], 0))

/-- REDUCE (R231, R586): the fixed tree over the 32 lane values, with the identity for a lane that is not active, into the uniform
register, with every node's flags. SCAN (R232): each active lane takes the prefix of its place. -/
def Obligations.ReduceAndScan : Prop :=
  ∀ (f : V3) (s : State), let t := V3.rty f
    let op := nodeOp (f.sub.toNat % 16) t (Rm.ofCode f.rnd.toNat s.rmCode 0)
    let x (l : Nat) : BitVec 64 :=
      if s.active.contains l then (nth (s.operands [f.useA t] l) 0) else nodeId (f.sub.toNat % 16) t
    let xs := (List.range 32).map x
    let up (n : Nat) := prefixUp op xs n 6 0 none 0
    s.ok →
    (s.clear (.reduce f) → s.clean [f.useA t] → s.active ≠ [] →
      uniformBecomes s (.reduce f) f.dst.reg t.wide (t.fill (tree op 5 xs).1) (tree op 5 xs).2)
    ∧ (s.clear (.scan f) → s.clean [f.useA t] → lanesBecome s (.scan f) fun l =>
        let r := if f.sub.getLsbD 4 then (if l = 0 then (nodeId (f.sub.toNat % 16) t, 0) else up l) else up (l + 1)
        (valueWords f.dst.reg t r.1, r.2))

/-- LANERD and LANEWR (R551) act once on one element; RAND (R580) steps the state in its four registers and writes the output.
What the spec leaves open here is as the model chooses it (log entry 71). -/
def Obligations.LaneAccessAndRand : Prop :=
  ∀ (f : V3) (s : State), let t := V3.ity f
    s.ok → s.active ≠ [] →
    (let q := (s.fetchUse (f.useB .n32) 0).1.toNat % 32
     s.clear (.lanerd f) → (s.fetchUse (f.useB .n32) 0).2 = false → (s.fetchUse (f.useA t) q).2 = false →
      uniformBecomes s (.lanerd f) f.dst.reg t.wide (s.fetchUse (f.useA t) q).1 0)
    ∧ (let q := (s.fetchUse (f.useB .n32) 0).1.toNat % 32
     s.clear (.lanewr f) → s.uniformClean [f.useA t, f.useB .n32] →
      ∃ t', exec (.lanewr f) s = .next t'
        ∧ (∀ w ∈ valueWords f.dst.reg t (s.fetchUse (f.useA t) 0).1, t'.core.elem (s.local (s.vAddr w.1 q)) = (w.2, false))
        ∧ onlyLaneRegs s t' [q] fun _ => (valueWords f.dst.reg t 0).map (·.1))
    ∧ LaneEffect (.rand f) (fun _ => (List.range 4).map fun j => { o := .v (BitVec.ofNat 8 (f.a.reg + j)), kinds := kV }) fun _ v =>
      let w (k : Nat) : Word := (nth v k).setWidth 32
      let r := randStep (w 0) (w 1) (w 2) (w 3)
      ((f.dst.reg, r.1) :: r.2.mapIdx fun j x => (f.a.reg + j, x), 0)

/-- MXPACK (R213, R214, R569): one scale for the values of all active lanes, and each lane's element under it. -/
def Obligations.PackSharesScale : Prop :=
  ∀ (f : V3) (s : State) (src : Ty), mxPlain f.sub = some src →
    let us := f.useA src :: s.randUses f.rnd
    s.ok → s.clear (.mxpack f) → s.clean us →
    let val (l : Nat) : Val := src.val (nth (s.operands us l) 0)
    let x := mxScale (V3.nty f) (s.active.map val)
    lanesBecome s (.mxpack f) fun l =>
      let r := s.rounding f.rnd (s.operands us l)
      let p := mxElem (V3.nty f) r.1 f.nosat x (val l)
      ((f.dst.reg, BitVec.ofNat 32 (x * 256 + p.1.toNat)) :: r.2.map (fun w => (w.1, w.2.1)), p.2)

/-- A paired slot (R179 to R182): both halves read before either writes, each half acts as its own instruction does, and the flags
of both are raised. -/
def Obligations.PairedHalvesReadFirst : Prop :=
  ∀ (x y : Half) (s : State),
    let us := Half.sourceUses x ++ Half.sourceUses y
    s.ok → s.clear (.pairedSlot x y) → s.clean us →
    let m := Rm.ofCode 0 s.rmCode 0
    let vals (l : Nat) : List (BitVec 64) := (s.sources us l).map (·.1)
    let first (l : Nat) := halfOut x m ((vals l).take (Half.sourceUses x).length)
    let second (l : Nat) := halfOut y m ((vals l).drop (Half.sourceUses x).length)
    lanesBecome s (.pairedSlot x y) fun l =>
      ((first l).1.map (fun w => (w.1, w.2.1)) ++ (second l).1.map (fun w => (w.1, w.2.1)), (first l).2 ||| (second l).2)

/-! ### Uniform registers -/

/-- SALU, SSEL and SMOV (R592, R593): the result of the sub-op's instruction, extended on a scalar core as R593 says. SCMP: the
relation into scc, and nothing else. -/
def Obligations.UniformInstructions : Prop :=
  ∀ f : UF, let t := UF.ity f
    let n := f.sub.toNat
    let tb : Ty := if (6 ≤ n ∧ n ≤ 8) ∨ n = 11 then .b32 else t
    let uses (ty : Ty) : List Use := if f.useImm = 1 then [uUse f.a t] else [uUse f.a t, uUse f.b ty]
    let second (ty : Ty) (v : List (BitVec 64)) : BitVec 64 := if f.useImm = 1 then widenImm ty f.imm else nth v 1
    let ext (s : State) (x : BitVec 64) : BitVec 64 :=
      match s.kind with
      | .vector => t.fill x
      | _ => if t.wide then x else if t.signed then sext 32 x else low 32 x
    (UniformEffect (.salu f) (uses tb) f.dst.reg t.wide fun s v =>
      ext s (let a := nth v 0; let b := second tb v
        match n with
        | 0 => intAdd t a b | 1 => intSub t a b | 2 => intMul t a b | 3 => bitAnd t a b | 4 => bitOr t a b | 5 => bitXor t a b
        | 6 => bitShl t a b | 7 => bitShr t a b | 8 => bitShra t a b | 9 => intMin t a b | 10 => intMax t a b | _ => bitBfe t a b))
    ∧ (UniformEffect (.ssel f) (uses t) f.dst.reg t.wide fun s v => ext s (if s.grp.scc then nth v 0 else second t v))
    ∧ (UniformEffect (.smov f) (if f.useImm = 1 then [] else [uUse f.a t]) f.dst.reg t.wide fun s v =>
        ext s (if f.useImm = 1 then widenImm t f.imm else nth v 0))
    ∧ ∀ s : State, s.ok → s.clear (.scmp f) → s.active ≠ [] → s.uniformClean (uses t) →
        ∃ t', exec (.scmp f) s = .next t'
          ∧ t'.grp.scc = intRel n (t.int (nth (s.uniformOperands (uses t)) 0)) (t.int (second t (s.uniformOperands (uses t))))
          ∧ registersStay (s.onGrp fun g => { g with scc := t'.grp.scc }) t'

/-! ### Control -/

/-- An instruction whose active set is empty only moves its issue set on, but for those that R101 lists, which act on the issue set: structured
control, and the meeting of lanes. NOP (R571), and RECONV (R106, R584), which puts the whole issue set into RCWAIT. EXIT (R524): the active lanes whose condition
holds end, and the others move on. ERET (R523): the active handler lanes are parked again, marked for replay. -/
def Obligations.NopReconvExitEret : Prop :=
  ∀ s : State,
    (s.active = [] → ∀ i, (encode i).isSome → s.clear i →
      match i with
      | .ifc _ | .elsec _ | .endif _ | .loop _ | .breakif _ | .contif _ | .endloop _ | .reconv _ | .regroup _ | .repack _ => True
      | _ => ∃ ends, exec i s = .next (s.next ends))
    ∧ (∀ f, s.clear (.nop f) → lanesGo s s (.nop f) false fun k x => if s.issueSet.contains k then x.after else x)
    ∧ (∀ f, s.clear (.reconv f) →
      lanesGo s s (.reconv f) true fun k x => if s.issueSet.contains k then { x.completed with st := .rcwait } else x)
    ∧ (∀ f, s.clear (.exit f) → (∀ l ∈ s.active, s.laneCond f l ≠ none) →
      lanesGo s s (.exit f) false fun k x =>
        if s.active.contains k && s.laneCond f k == some true then { x with st := .exited, handler := false, replay := false, log := none }
        else if s.issueSet.contains k then x.after else x)
    ∧ (∀ f, s.clear (.eret f) →
      lanesGo s s (.eret f) true fun k x =>
        if s.active.contains k then { x with handler := false, replay := true }
        else if s.issueSet.contains k then x.after else x)

/-- IF, ELSE, ENDIF, LOOP, BREAKIF and CONTIF (R103, R104) change the nesting counters of the issue set by the rules' own tables, as
long as no counter passes 63 (R105) and no condition is poisoned. ENDLOOP (R104, R522): counters of 1 fall to 0; with a lane at 0 the issue set takes the back edge, and otherwise every counter
falls by 2 and the issue set leaves the loop.
What the spec leaves open here is as the model chooses it (log entry 14). -/
def Obligations.StructuredControl : Prop :=
  (∀ (s : State) (f : BF),
    let holds (l : Nat) : Bool := s.laneCond f l == some true
    let known : Prop := ∀ l ∈ s.active, s.laneCond f l ≠ none
    let go (i : Instr) (n : Nat → Nat → Nat) : Prop :=
      (∀ l ∈ s.issueSet, n l (s.lane l).nest.toNat ≤ 63) → lanesGo s s i false fun k x =>
        if s.issueSet.contains k then ({ x with nest := BitVec.ofNat 6 (n k x.nest.toNat) } : Lane).after else x
    (s.clear (.ifc f) → known → go (.ifc f) fun l n => if 0 < n then n + 1 else if holds l then 0 else 1)
    ∧ (s.clear (.elsec f) → go (.elsec f) fun _ n => if n = 0 then 1 else if n = 1 then 0 else n)
    ∧ (s.clear (.endif f) → go (.endif f) fun _ n => if 0 < n then n - 1 else n)
    ∧ (s.clear (.loop f) → go (.loop f) fun _ n => if 0 < n then n + 2 else n)
    ∧ (s.clear (.breakif f) → known → go (.breakif f) fun l n => if n = 0 ∧ holds l then f.depth.toNat + 2 else n)
    ∧ (s.clear (.contif f) → known → go (.contif f) fun l n => if n = 0 ∧ holds l then f.depth.toNat + 1 else n))
  ∧ (∀ (s : State) (f : BF), s.clear (.endloop f) →
    let target := BF.target f s.pc
    ((∃ l ∈ s.issueSet, (s.lane l).nest.toNat ≤ 1) → s.missing (targetLines [target]) false = [] → s.targetTrap target = none →
      lanesGo s s (.endloop f) true fun k x =>
        if s.issueSet.contains k then (if x.nest = 1 then { x with nest := 0 } else x : Lane).goto target else x)
    ∧ ((∀ l ∈ s.issueSet, 2 ≤ (s.lane l).nest.toNat) →
      lanesGo s s (.endloop f) false fun k x =>
        if s.issueSet.contains k then ({ x with nest := BitVec.ofNat 6 (x.nest.toNat - 2) } : Lane).after else x))

/-- BRA and CALL (R102, R507, R512), BRX and RET (R509, R590) with targets that pass R159: a uniform transfer moves the whole issue
set, a divergent one each active lane to its own place; CALL first writes the following slot to every active lane's link. -/
def Obligations.Transfers : Prop :=
  ∀ (s : State) (f : BF),
    let target := BF.target f s.pc
    let sound (t : Nat) : Prop := s.missing (targetLines [t]) false = [] ∧ s.targetTrap t = none
    let step (k : Nat) (x : Lane) : Lane := if s.issueSet.contains k then x.after else x
    let allGo (k : Nat) (x : Lane) : Lane := if s.issueSet.contains k then x.goto target else x
    let uniform (i : Instr) (s' : State) : Prop := s.clear i → f.kind ≠ 3 → s.condPoisoned f = false →
      (s.active ≠ [] → s.uniformCond f = true → sound target → lanesGo s' s i true allGo)
      ∧ ((s.active = [] ∨ s.uniformCond f = false) → lanesGo s s i false step)
    uniform (.bra f) s
    ∧ (let ret : DWord := (nextPc s.pc).setWidth 64
      uniform (.call f) (match f.link with
        | .v n => s.writeVals n.toNat .b64 (s.active.map fun l => (l, ret))
        | o => s.writeS o.reg true ret))
    ∧ (s.clear (.bra f) → f.kind = 3 → (∀ l ∈ s.active, s.laneCond f l ≠ none) → sound target →
      lanesGo s s (.bra f) (s.active.any fun l => s.laneCond f l == some true) fun k x =>
        if s.active.contains k && s.laneCond f k == some true then x.goto target else step k x)
    ∧ ∀ i ∈ [Instr.brx f, .ret f], s.clear i →
        let dest (l : Nat) : Src := only (s.sources [linkUse f.link] l)
        (∀ l ∈ s.active, (dest l).2 = false ∧ sound (dest l).1.toNat) →
        lanesGo s s i (!s.active.isEmpty) fun k x => if s.active.contains k then x.goto (dest k).1.toNat else step k x

/-! ### Traps -/

/-- An encoding that a check of R203 refuses parks every active lane with ILL and the check's detail (R203, R204); so does the ILL row
(R168). TRAP, and SYSCALL outside a handler, park the lanes that do not replay with the code (R608), BKPT with kind 0x0F (R505), and a
lane that replays moves on. -/
def Obligations.TrappingInstructions : Prop :=
  ∀ s : State, s.grp.inHandler = false →
    let act (x : Trap) (l : Nat) : Option Trap := if s.active.contains l then some x else none
    let new (x : Trap) (l : Nat) : Option Trap := if s.active.contains l && !(s.lane l).replay then some x else none
    (∀ d h, lanesPark s s (.ill d h) false (act { kind := 1, detail := d, half := h }) (fun _ => []) [])
    ∧ (∀ f, s.clear (.trap f) → lanesPark s s (.trap f) false (new { kind := 0x10, code := f.code }) (fun _ => []) [])
    ∧ (∀ f, s.clear (.bkpt f) → lanesPark s s (.bkpt f) false (new { kind := 0x0F }) (fun _ => []) [])
    ∧ (∀ f, s.clear (.syscall f) →
        lanesPark (if s.active = [] then s else s.onGrp Group.effect) s (.syscall f) false (new { kind := 0x10, code := f.code }) (fun _ => []) [])

/-- Every instruction slot obeys the checks of R203 (R204): whatever instruction of an encoding issues outside a handler, a check that
fails parks the active lanes with ILL, its detail and its half, and the rest of the issue set moves on; no register changes. An N of
REGROUP or REPACK that is too large is such a check (R116 as R204 says it).
What the spec leaves open here is as the model chooses it (log entries 13, 14 and 32). -/
def Obligations.IllegalEncodingsTrap : Prop :=
  ∀ (i : Instr) (s : State) (d : BitVec 8) (h : Bool), (encode i).isSome → s.grp.inHandler = false → illDetail s.ctx i = some (d, h) →
    lanesPark s s i false (fun l => if s.active.contains l then some { kind := 1, detail := d, half := h } else none) (fun _ => []) []

/-! ### Memory -/

/-- Local loads (R486, R554, R557): LDL gives each active lane the elements at its local address, with their poison; an acquire
raises `%now` to the horizon. FILL (R541) pops the stack rows below `%ssp`.
What the spec leaves open here is as the model chooses it (log entry 18). -/
def Obligations.LocalLoads : Prop :=
  ∀ (f : MF) (s : State), s.ok →
    (∀ as : Nat → List Nat, s.mayAccess (.ldl f) →
      (∀ l ∈ s.active, (s.localLane f false (MF.n f) (MF.w f) [f.idx] l).at' = .ok (as l)) →
      s.ownRows (s.active.map as).flatten (MF.w f) = [] → s.released? (MF.rel f) →
      let s' := s.useRelease (MF.rel f)
      lanesTake (if MF.acq f then s'.acquire (MF.sc f) else s') s (.ldl f) fun l =>
        ((as l).mapIdx fun k a => markedWords (s.elemReg f.data (MF.lty f) k) (MF.lty f) (s.localRead a (MF.w f))).flatten)
    ∧ (s.mayAccess (.fill f) → MF.n f ≤ s.grp.ssp →
      lanesTake (s.onGrp fun g => { g with ssp := s.grp.ssp - MF.n f }) s (.fill f) fun l =>
        (List.range (MF.n f)).map fun i => (f.data.reg + i, s.elem (s.stackAddr (s.grp.ssp - MF.n f + i) l)))

/-- Local stores (R486, R554, R606): STL writes the lanes' elements in ascending order of lane and element, so that the highest lane
wins. SPILL (R540, R602) pushes registers to the stack rows above `%ssp`, with their poison. Every other byte stays.
What the spec leaves open here is as the model chooses it (log entry 18). -/
def Obligations.LocalStores : Prop :=
  ∀ (f : MF) (s : State), s.ok →
    (∀ as : Nat → List Nat,
      let us := f.idx :: MF.dataUses f (MF.lty f) (MF.n f)
      s.mayAccess (.stl f) → (∀ l ∈ s.active, (s.localLane f true (MF.n f) (MF.w f) us l).at' = .ok (as l)) →
      s.ownRows (s.active.map as).flatten (MF.w f) = [] → s.released? (MF.rel f) →
      let s' := s.useRelease (MF.rel f)
      ∃ t, exec (.stl f) s = .next t
        ∧ onlyBytes (if MF.acq f then s'.acquire (MF.sc f) else s') t
          (s.active.map fun l => ((as l).mapIdx fun k a =>
            bytesAt (s.local a) (MF.w f) ((s.sources us l).getD (k + 1) (0, false)).1.toNat).flatten).flatten)
    ∧ (s.mayAccess (.spill f) → s.grp.ssp + MF.n f ≤ s.team.lrec.spill →
      ∃ t, exec (.spill f) s = .next t
        ∧ onlyBytes (s.onGrp fun g => { g with ssp := s.grp.ssp + MF.n f }) t
          (s.active.map fun l => ((List.range (MF.n f)).map fun i =>
            bytesAt (s.local (s.stackAddr (s.grp.ssp + i) l)) 4 (s.elem (s.vAddr (f.data.reg + i) l)).1.toNat).flatten).flatten
        ∧ ∀ l ∈ s.active, ∀ i < MF.n f,
            t.core.elem (s.local (s.stackAddr (s.grp.ssp + i) l)) = s.elem (s.vAddr (f.data.reg + i) l))

/-- The updates of atomics (R482) on words of 32 or 64 bits: the new value that each sub-op makes of the old one and the operands, and
ATOML (R486, R487), which applies one active lane after another in ascending order and returns each lane the value it found. -/
def Obligations.AtomicUpdates : Prop :=
  (∀ (cls : AtomClass) (wide : Bool) (old a c : BitVec 64),
    let w := if wide then 64 else 32
    let u := uval w
    let new (op : AtomOp) (x : BitVec 64) : Prop := atomNew op cls wide old a c = (x, 0)
    let less (x y : BitVec 64) : Bool := if cls = .signed then decide (sval w x < sval w y) else decide (u x < u y)
    new .add (BitVec.ofNat 64 ((u old + u a) % 2 ^ w))
      ∧ new .and (low w (old &&& a)) ∧ new .or (low w (old ||| a)) ∧ new .xor (low w (old ^^^ a)) ∧ new .xchg (low w a)
      ∧ new .cas (if u old = u c then low w a else low w old)
      ∧ new .inc (if u a ≤ u old then 0 else BitVec.ofNat 64 (u old + 1))
      ∧ new .dec (if u old = 0 ∨ u a < u old then low w a else BitVec.ofNat 64 (u old - 1))
      ∧ new .min (if less a old then low w a else low w old) ∧ new .max (if less old a then low w a else low w old)
      ∧ atomNew .fadd cls wide old a c = fpAdd (if wide then .f64 else .f32) .rne old a
      ∧ atomNew .faddo cls wide old a c = fpAdd (if wide then .f64 else .f32) .rne old a)
  ∧ ∀ (f : MF) (s : State) (as : Nat → Nat),
    let t := (MF.atomTy f).getD .b32
    let us := f.idx :: MF.atomUses f t
    let val (l k : Nat) : BitVec 64 := ((s.sources us l).getD k (0, false)).1
    s.ok → s.mayAccess (.atoml f) → (∀ l ∈ s.active, (s.localLane f true 1 (t.width / 8) us l).at' = .ok [as l]) →
    s.ownRows (s.active.map as) (t.width / 8) = [] → s.released? (MF.rel f) →
    let out := s.active.foldl (fun (p : (Nat → Src) × FpFlags × State) l =>
      let r := p.2.2.atomStep f t (as l) (val l 1) (val l 2)
      (fun k => if k = l then r.1 else p.1 k, p.2.1 ||| r.2.1, r.2.2)) (fun _ => (0, false), 0, s.useRelease (MF.rel f))
    let s' := out.2.2.raise out.2.1
    lanesTake (if MF.acq f then s'.acquire (MF.sc f) else s') s (.atoml f) fun l =>
      if MF.ret f then markedWords f.data.reg t (out.1 l) else []

/-- Global accesses (R264, R312, R338, R481 to R485, R555, R556, R605) whose lanes pass every check issue with their places, the
whole issue set moves on, and nothing waits: LD and LDU while fewer than 63 loads are outstanding, ST and ATOM while their counter
is below 63 and STORES has room for the HOLDs of the store beside it.
What the spec leaves open here is as the model chooses it (log entries 18 and 81). -/
def Obligations.GlobalAccessesIssue : Prop :=
  ∀ (f : MF) (s : State) (vas : Nat → List (Option Nat)) (ps : Nat → List Place),
    let load := s.gacc f (MF.w f) false false
    let store := s.gacc f (MF.w f) true false
    let t := (MF.atomTy f).getD .b32
    let atom := { s.gacc f (t.width / 8) true (atomOp f.sub.toNat == .faddo) with n := 1 }
    let data := f.idx :: MF.dataUses f (MF.lty f) (MF.n f)
    let both := f.idx :: MF.atomUses f t
    (s.mayAccess (.ld f) → (s.kind = .vector → s.grp.loads < 63) → s.reaches load f.offset [f.idx] vas ps →
      exec (.ld f) s = .next ((s.issuing vas).issueLoad f load false (passing s [f.idx] vas ps) (s.dstRows (.ld f))).next)
    ∧ (s.mayAccess (.st f) → s.grp.stores < 63 → s.reaches store f.offset data vas ps → s.storeRoom f (passing s data vas ps) = true →
      exec (.st f) s = .next ((s.issuing vas).issueStore f store (passing s data vas ps)).next)
    ∧ (s.mayAccess (.atom f) → (if MF.ret f then s.grp.loads else s.grp.stores) < 63 → s.reaches atom f.offset both vas ps →
      (atomOp f.sub.toNat = .faddo → ∀ l ∈ s.active, s.inSet (s.grp.num * 32 + l) = true) →
      exec (.atom f) s = .next ((s.issuing vas).issueAtom f (passing s both vas ps)
        (if MF.ret f then s.dstRows (.atom f) else [])).next)
    ∧ (∀ l, s.active.head? = some l →
      let us : List Use := [{ o := f.index, kinds := kSN, ty := .n32 }]
      let x : LaneAcc := ⟨l, s.sources us l, .ok (vas l)⟩
      s.mayAccess (.ldu f) → (s.kind = .vector → s.grp.loads < 63) → s.preCheck load f.offset l (s.sources us l) = x →
      s.missing ((vas l).filterMap id) = [] → s.postCheck load x = .ok (ps l) → s.lineBusy [(x, ps l)] = false →
      exec (.ldu f) s = .next
        (((s.dropHeld ((vas l).filterMap id)).issueLoad f load true [(x, ps l)] (s.dstRows (.ldu f))).next))

/-- A relaxed load that hits (R277, R281, R555): where every line that the lanes touch has a copy whose bytes or lease serve it, LD
completes at once, and each element is the copy's bytes with their poison, POR's included, or zero where it is clamped or in a sparse
hole (R243, R258). `%horizon` may rise; everything else stays. A relaxed store to lines of which the core keeps copies (R245, R283, R285): each copy takes the bytes that the store writes and
marks them, nothing is sent, no register and no byte of memory or of the core store changes, and the group is no longer
idempotent (R548).
What the spec leaves open here is as the model chooses it (log entries 18 and 19). -/
def Obligations.LoadsAndStoresHit : Prop :=
  (∀ (f : MF) (s : State) (vas : Nat → List (Option Nat)) (ps : Nat → List Place),
    let g := s.gacc f (MF.w f) false false
    let got (p : Place) : BitVec 64 × Bool :=
      match p with
      | .at pa leaf =>
        match s.copyOf (pa / 128) with
        | some c => (BitVec.ofNat 64 (lineNat c.bytes (pa % 128) (MF.w f)), leaf.por || touchesWords c.poison (pa % 128) (MF.w f))
        | none => (0, false)
      | _ => (0, false)
    s.ok → s.mayAccess (.ld f) → f.order = 0 → MF.promoted f = false → (s.kind = .vector → s.grp.loads < 63) →
    s.reaches g f.offset [f.idx] vas ps →
    (∀ l ∈ s.active, ∀ p ∈ ps l, ∀ pa leaf, p = .at pa leaf → ∃ c, s.copyOf (pa / 128) = some c
      ∧ (c.mask = BitVec.allOnes 128 ∨ (s.noAlloc g.brec = false ∧ c.st ≠ .p ∧ s.leased c = true))) →
    (∀ o ∈ s.grp.ops, o.finished = false ∧ o.id ≤ s.fresh) → (∀ p ∈ s.grp.pend, p.who ≠ .op (s.fresh + 1)) →
    ∃ h : Stamp, lanesTake (({ s.issuing vas with fresh := s.fresh + 1 } : State).onGrp fun x => { x with horizon := h }) s (.ld f) fun l =>
      ((ps l).mapIdx fun k p => markedWords (s.elemReg f.data (MF.lty f) k) (MF.lty f) (got p)).flatten)
  ∧ (∀ (f : MF) (s : State) (vas : Nat → List (Option Nat)) (ps : Nat → List Place),
    let g := s.gacc f (MF.w f) true false
    let us := f.idx :: MF.dataUses f (MF.lty f) (MF.n f)
    let ws := (s.active.map fun l => ((ps l).mapIdx fun k p => match p with
      | .at pa _ => some (pa, MF.w f, ((s.sources us l).getD (k + 1) (0, false)).1)
      | _ => none).filterMap id).flatten
    let parts := storeParts ws false (recCpol g.brec == 1)
    s.ok → s.mayAccess (.st f) → f.order = 0 → s.grp.stores < 63 → s.noAlloc g.brec = false → s.reaches g f.offset us vas ps →
    (∀ p ∈ parts, ∃ c, s.copyOf p.line = some c) →
    (∀ o ∈ s.grp.ops, o.finished = false ∧ o.id ≤ s.fresh) → (∀ p ∈ s.grp.pend, p.who ≠ .op (s.fresh + 1)) →
    ∃ t, exec (.st f) s = .next t
      ∧ (∀ line, t.copyOf line =
          match parts.find? (·.line == line) with
          | some p => (s.copyOf line).map (·.store p)
          | none => s.copyOf line)
      ∧ registersStay ((({ s.issuing vas with fresh := s.fresh + 1 } : State).onCore fun c => { c with copies := t.core.copies }).onGrp
          Group.effect) t)

/-- Peer accesses (R312, R486, R488, R557, R606): LDP, STP and ATOMP whose lanes pass every check, and whose bytes no earlier peer access of
the group has yet to write behind its release, issue one request for each lane, and the whole issue set moves on.
What the spec leaves open here is as the model chooses it (log entries 18 and 29). -/
def Obligations.PeerAccessesIssue : Prop :=
  ∀ (f : MF) (s : State) (as : Nat → Nat),
    let t := MF.lty f
    let ta := (MF.atomTy f).getD .b32
    let go (i : Instr) (load : Bool) (n w : Nat) (us : List Use) (rows : List Nat) (elems : Nat → List Elem) (ty : Ty)
        (kind : LanePeer → PeerKind) : Prop :=
      s.mayAccess i → (if load then s.grp.loads else s.grp.stores) < 63 →
      (∀ l ∈ s.active, s.peerLane f n w us l = ⟨l, s.sources us l, .ok (as l)⟩ ∧ s.peerBusy (s.routeDst f.route.toNat) (as l) (n * w) = false) →
      exec i s = .next ((s.issuePeer f load (s.active.map fun l => (⟨l, s.sources us l, .ok (as l)⟩, as l)) rows elems ty kind).next)
    go (.ldp f) true (MF.n f) (MF.w f) [f.idx] (s.dstRows (.ldp f))
      (fun l => (List.range (MF.n f)).map fun k => { lane := l, reg := s.elemReg f.data t k, line := 0, off := 0, w := MF.w f }) t
      (fun _ => .load (MF.w f) (MF.n f))
    ∧ go (.stp f) false (MF.n f) (MF.w f) (f.idx :: MF.dataUses f t (MF.n f)) [] (fun _ => []) t
      (fun x => .store (MF.w f) ((x.srcs.drop 1).map (·.1)))
    ∧ go (.atomp f) (MF.ret f) 1 (ta.width / 8) (f.idx :: MF.atomUses f ta) (s.dstRows (.atomp f))
      (fun l => if MF.ret f then [{ lane := l, reg := f.data.reg, line := 0, off := 0, w := ta.width / 8 }] else []) ta
      (fun x => .atom (atomOp f.sub.toNat) (atomClass ta) ta.wide (x.srcs.getD 1 (0, false)).1 (x.srcs.getD 2 (0, false)).1)

/-- PREF, RENEW, EXPIRE and FLUSH (R265, R525 to R527, R575, R589) with no poisoned index: the operation acts on each line of the line
set, ascending, and the issue set moves on. RENEW expires a line and then asks for it again. -/
def Obligations.LineOperations : Prop :=
  ∀ (f : MF) (s : State),
    let g := s.gacc f 0 false false
    let vas (l : Nat) : List (Option Nat) := g.quietAddresses ((uval 32 (s.fetchUse f.idx l).1 : Int) + f.offset.toInt)
    let us := (s.active.map fun l => (vas l).filterMap id).flatten
    let lines := s.lineSet g (s.active.map fun l => ⟨l, s.sources [f.idx] l, .ok (vas l)⟩)
    let go (i : Instr) (s' : State) : Prop := exec i s = .next s'.next
    (∀ l ∈ s.active, (s.lane l).replay = false ∧ (s.fetchUse f.idx l).2 = false) → g.poison = false → s.missing us true = [] →
    (s.mayAccess (.pref f) → go (.pref f) (lines.foldl (fun s a => s.prefLine a) (s.dropHeld us)))
    ∧ (s.mayAccess (.expire f) → go (.expire f) (lines.foldl (fun s a => s.expireLine a.line) (s.dropHeld us)))
    ∧ (s.mayAccess (.renew f) → go (.renew f) (lines.foldl (fun s a => (s.expireLine a.line).prefLine a) (s.dropHeld us)))
    ∧ (s.mayAccess (.flush f) → s.grp.stores < 63 →
      let r := lines.foldl (fun (p : List Nat × State) a => (p.1 ++ (p.2.copyBack a.line).1, (p.2.copyBack a.line).2))
        ([], { s.dropHeld us with fresh := s.fresh + 1 })
      go (.flush f) ((r.2.addOp { id := s.fresh + 1, load := false, waits := r.1 }).finishOps))

/-! ### Waiting, time and special registers -/

/-- WAITCNT (R340, R613), CLKADV (R513, R514), SPINHINT (R279, R603), SLEEP (R601) and WAITT (R88, R614): what they compare or add, and
that they wait otherwise. Where `%now` would pass 0xFF_FFFF CLKADV and SPINHINT wait for the rebase that they ask for (R301). FENCE (R317,
R537, R538) completes at issue, and its release or acquire stands for what must come first. With nothing outstanding, and with `%now` below its
largest value where it is to rise (R279, R287): a release at DIE scope or wider steps `%now` by one, an acquire at such a scope raises it to
`%horizon`, and at GROUP or CORE scope neither does anything.
What the spec leaves open here is as the model chooses it (log entries 10 and 18). -/
def Obligations.CountersClocksFence : Prop :=
  (∀ (f : SF) (s : State), s.active ≠ [] →
    let v : BitVec 64 := nth (s.uniformOperands [{ o := f.a, kinds := kSN, ty := .n32 }]) 0
    let n := s.nowTick
    let one (i : Instr) : Prop := s.mayActOnce i [{ o := f.a, kinds := kSN, ty := .n32 }]
    let d := CoreId.die s.core.id
    let rises (i : Instr) (m : Nat) : Prop :=
      (m ≤ 0xFFFFFF → exec i s = .next (s.setNow m).next)
      ∧ (0xFFFFFF < m → exec i s = .next ((s.requestRebase d).waitBefore (.epoch (s.die d).rebases.toNat)))
    (s.clear (.waitcnt f) →
      let met := s.grp.loads ≤ f.a.reg ∧ s.grp.stores ≤ f.b.reg ∧ s.grp.copies ≤ f.code.toNat % 256 ∧ s.grp.tiles ≤ f.code.toNat / 256 % 16
      (met → exec (.waitcnt f) s = .next (s.next true))
      ∧ (¬ met → exec (.waitcnt f) s = .next (s.waitFor (.counters f.a.reg f.b.reg (f.code.toNat % 256) (f.code.toNat / 256 % 16)))))
    ∧ (one (.clkadv f) → f.sub = 0 → rises (.clkadv f) (n + min (uval 32 v) 4096))
    ∧ (one (.clkadv f) → f.sub = 1 →
      let t : Stamp := ⟨(v.extractLsb' 24 2), (uval 32 v) % 2 ^ 24⟩
      rises (.clkadv f) (if (s.ep - t.ep).toNat ≤ 1 then max n (t.read s.ep) else n))
    ∧ (s.clear (.spinhint f) → rises (.spinhint f) (n + match s.grp.lastAcq with | some l => l / 8 | none => 1))
    ∧ (one (.sleep f) →
      (uval 32 v = 0 → exec (.sleep f) s = .next (s.next true))
      ∧ (uval 32 v ≠ 0 → exec (.sleep f) s = .next (s.waitFor (.sleep (uval 32 v)))))
    ∧ (s.mayActOnce (.waitt f) [uS2 f.a] →
      let d : BitVec 64 := nth (s.uniformOperands [uS2 f.a]) 0
      (d.toNat ≤ s.gtcOf s.core.id → exec (.waitt f) s = .next (s.next true))
      ∧ (s.gtcOf s.core.id < d.toNat → exec (.waitt f) s = .next (s.waitFor (.deadline d)))))
  ∧ (∀ (f : SF) (s : State), s.mayAccess (.fence f) →
    let sc := Scope.ofCode f.scope.toNat
    let acquires := f.order ≠ 2
    let releases := f.order ≠ 1
    exec (.fence f) s = .next (s.release sc (decide releases) (if releases then s.earlier else (s.grp.ops.filter (·.load)).map (·.id))
      (.fence (decide acquires))).next
    ∧ (s.quiet → s.alone → (sc.wide = true → releases → s.nowTick < 0xFFFFFF) →
      let s1 := if sc.wide = true ∧ releases then s.setNow (s.nowTick + 1) else s
      let s2 := if sc.wide = true ∧ acquires then (if s1.nowTick < s1.horizonTick then s1.setNow s1.horizonTick else s1) else s1
      exec (.fence f) s = .next s2.next))

/-- SEMSIG and SEMWAIT (R416, R596) at a semaphore whose place is known: SEMSIG adds its operand by an atomic behind a release at PANEL
scope and goes on; SEMWAIT waits, and its read registers it at the home and is answered with the value, at once where the home can take it
or the page is sparse, and otherwise when it can.
What the spec leaves open here is as the model chooses it (log entry 28). -/
def Obligations.Semaphores : Prop :=
  ∀ (f : SF) (s : State) (va pa : Nat) (leaf : Leaf),
    let ok (i : Instr) (us : List Use) (writes : Bool) (p : Place) : Prop :=
      s.mayActOnce i us ∧ s.orderBlocked i = false ∧ semAddress (nth (s.uniformOperands us) 0) = .ok va ∧ s.missing [va] = []
        ∧ s.places (semAcc writes) [some va] = .ok [p] ∧ s.watchTrap (semAcc writes) [some va] = none
    let s1 := s.dropHeld [va]
    (ok (.semsig f) [uS2 f.a, semB f] true (.at pa leaf) → (s.kind = .vector → s.grp.stores < 63) →
      let m : AtomMsg :=
        { addr := pa, wide := true, op := .add, cls := .bits, a := nth (s.uniformOperands [uS2 f.a, semB f]) 1, c := 0, who := .core s.core.id
          now := s.core.now, holds := false, promote := none, ref := s.fresh + 2, lane := 0 }
      let o : MemOp := { id := s.fresh + 1, load := false, counted := s.kind == .vector, started := false, waits := [s.fresh + 2], lines := [pa / 128] }
      let s2 := (({ s1 with fresh := s.fresh + 2 } : State).onGrp Group.effect).addOp o
      exec (.semsig f) s = .next ((s2.release .panel true s.earlier (.atoms o.id [m] [])).finishOps).next)
    ∧ (let us := [uS2 f.a, semB f] ++ (if f.code.getLsbD 0 then [s.semLimit f] else [])
       let v := s.uniformOperands us
       let limit : Option (BitVec 64) := if f.code.getLsbD 0 then some (nth v 2) else none
       let wait (ref : Nat) : Wait :=
        ⟨.sem pa (nth v 1) limit false ref (limit.any fun d => decide (d.toNat ≤ s.gtcOf s.core.id)), s.pc, s.issueSet⟩
      (ok (.semwait f) us false (.at pa leaf) → pa ≠ holeAddr → s1.lineWaits s.core.now (pa / 128) 0 = false →
        let s2 := ({ s1 with fresh := s.fresh + 1, semWaiters := ⟨pa, nth v 1, s.core.id, s.gid, s.fresh + 1, none⟩ :: s.semWaiters } : State).onGrp
          fun g => { g with wait := some (wait 0) }
        let s3 := (s2.useLines [pa / 128]).onGrp fun g => { g with wait := some (wait (s.fresh + 1)) }
        exec (.semwait f) s = .next
          ((s3.send (.semwaitReadReply ⟨s.core.id, s.gid, s.fresh + 1, none, s3.semValue pa, s3.homeWts (pa / 128)⟩)).retire s.pc true))
      ∧ (ok (.semwait f) us false (.at pa leaf) → pa ≠ holeAddr → s1.lineWaits s.core.now (pa / 128) 0 = true →
        exec (.semwait f) s = .next ((((s1.onGrp fun g => { g with wait := some (wait 0) }).askWay (pa / 128)).onGrp fun g =>
          { g with wait := some (wait 0) }).retire s.pc true))
      ∧ (ok (.semwait f) us false .hole → pa = holeAddr →
        let s2 : State := { s1 with fresh := s.fresh + 1, semWaiters := ⟨pa, nth v 1, s.core.id, s.gid, s.fresh + 1, none⟩ :: s.semWaiters }
        let s3 := s2.onGrp fun g => { g with wait := some (wait (s.fresh + 1)) }
        exec (.semwait f) s = .next
          ((s3.send (.semwaitReadReply ⟨s.core.id, s.gid, s.fresh + 1, none, s3.semValue pa, s3.homeWts (pa / 128)⟩)).retire s.pc true)))

/-- MOVSP (R565 to R567): each active lane takes its own value of the special register, or the uniform destination takes lane 0's; a
read of `%mapgen` orders like an acquire load at PANEL scope (R49): it waits for the acquires, .AR accesses and fences before it (R312, R317),
and where `%now` cannot rise (R301). SETSP (R598, R599): `%nest` of each active lane, or the group's register.
What the spec leaves open here is as the model chooses it (log entry 72). -/
def Obligations.SpecialRegisters : Prop :=
  ∀ (f : SF) (s : State), s.ok → s.active ≠ [] →
    let n := f.code.toNat
    let t : Ty := if specialWide n then .b64 else .b32
    let base := if n = 0x1A then s.mapgenOrder else s
    let home := s.lineWaits s.core.now (mapgenLine (CoreId.die s.core.id)) 0
    (s.clear (.movsp f) → n = 0x1A →
      (s.orderHeld = true → exec (.movsp f) s = .next (s.waitBefore (.order false)))
      ∧ (s.orderHeld = false → home = false → 0xFFFFFF ≤ s.nowTick → exec (.movsp f) s = .next s.waitRebase))
    ∧ (s.clear (.movsp f) → (n = 0x1A → s.orderHeld = false ∧ home = false ∧ s.nowTick < 0xFFFFFF) →
      (f.dst.isV = true → lanesTake base s (.movsp f) fun l => markedWords f.dst.reg t (BitVec.ofNat 64 (s.special n l), false))
      ∧ (f.dst.isV = false → ∃ t', exec (.movsp f) s = .next t'
          ∧ t'.readS f.dst.reg t.wide
              = ((if s.kind = .vector ∧ t.wide = false then low 32 (BitVec.ofNat 64 (s.special n 0)) else BitVec.ofNat 64 (s.special n 0)), false)
          ∧ onlyUniform base t' f.dst.reg t.wide))
    ∧ (s.clear (.setsp f) →
      let u : Use := { o := f.a, ty := .n32 }
      (f.code = 7 → s.clean [u] → lanesGo s s (.setsp f) false fun k x =>
        if s.active.contains k then { x.after with nest := BitVec.ofNat 6 (only (s.sources [u] k)).1.toNat }
        else if s.issueSet.contains k then x.after else x)
      ∧ (f.code ≠ 7 → (s.fetchUse u 0).2 = false →
        let v : Word := (s.fetchUse u 0).1.setWidth 32
        let go (h : Group → Group) : Prop := exec (.setsp f) s = .next (s.onGrp h).next
        (f.code = 0x20 → go fun g => { g with fpstat := v.extractLsb' 0 5 })
        ∧ (f.code = 0x21 → go fun g => g.setFpctl v)
        ∧ (f.code = 0x13 → go fun g => { g with late := v.getLsbD 2 })
        ∧ (f.code = 0x22 → go fun g => { g with scc := v.getLsbD 0 })))

/-- SYSCALL in a handler (R434): the group is no longer idempotent, the control node is asked, and the group waits for its reply. IDEM and
IDEM.END (R548), which open and close the idempotent span unless an effect has gone before; PROGRESS (R442, R576) sets the team's
estimate or withdraws it. -/
def Obligations.SystemCallsAndHints : Prop :=
  ∀ (f : SF) (s : State), s.active ≠ [] →
    (s.clear (.syscall f) → s.grp.inHandler = true →
      exec (.syscall f) s = .next
        (({ s.onGrp (fun g => { g with fx := true, inn := false }) with up := s.up ++ [s.syscallMessage f.code.toNat] } : State).waitFor
          (.reply f.dst.reg)))
    ∧ (s.clear (.idem f) →
      exec (.idem f) s = .next (s.onGrp fun g => { g with inn := if f.sub = 0 then g.inn || !g.fx else false }).next)
    ∧ (s.mayActOnce (.progress f) [uSN f.a] →
      let n := uval 32 (nth (s.uniformOperands [uSN f.a]) 0)
      exec (.progress f) s = .next ({ s with team := { s.team with progress := if n = 0xFFFFFFFF then none else some n } } : State).next)

/-! ### Tiles, barriers and engines -/

/-- The Shelf (R110, R146 to R149, R609 to R611): TILEDEF stores the entry with DEF set and STATE EMPTY, TILEREL empties a READY tile that
no engine reads, leaves an EMPTY one and waits for the others, and TILEQ reads a defined entry, or zero. -/
def Obligations.ShelfInstructions : Prop :=
  ∀ (f : XF) (s : State),
    let n := f.tile.toNat
    (s.mayActOnce (.tiledef f) [uS2 f.a] →
      let e : BitVec 64 := nth (s.uniformOperands [uS2 f.a]) 0
      s.tiledefTrap n e = none →
      exec (.tiledef f) s = .next (s.putTile n ((e &&& 0x1FFFFFFFFFFFFFFF) ||| 0x2000000000000000)).next)
    ∧ (∀ e, s.mayActOnce (.tilerel f) [] → s.team.defTile n = some e →
      (tileState e = 0 → exec (.tilerel f) s = .next s.next)
      ∧ (tileState e = 2 → s.tileHeld n = false → exec (.tilerel f) s = .next (s.moveTile n 0).next)
      ∧ (tileState e = 1 ∨ tileState e = 3 ∨ s.tileHeld n = true ∧ tileState e = 2 → exec (.tilerel f) s = .next (s.waitBefore (.tile n none))))
    ∧ (s.mayActOnce (.tileq f) [] →
      let team := if s.kind = .control then s.firstTeam s.team.id.grid (s.quadCore (f.b.reg / 4) (f.b.reg % 4)) else some s.team
      exec (.tileq f) s = .next (s.writeS f.a.reg true ((team.bind fun t => t.defTile n).getD 0)).next)

/-- The step on a barrier object (R353): when the arrivals reach EXPECT with no bytes outstanding the phase changes, the arrivals and
deferred leaves are taken up, and the object breaks when fewer are live than it expects, as far as nobody waits for it. An object with a
second level takes FWD instead, and its completion leaves on its route (R356). An object is 16 bytes of the core store, field by field (R351): the two directions agree. -/
def Obligations.BarrierObjects : Prop :=
  (∀ (s : State) (a : Nat) (f : BarObj → BarObj), s.ok → s.noWaiters a →
    let o := f (s.bar a)
    (o.count && o.upen) = false →
    (s.stepBar a f).bar a =
      (if o.broken then o
      else if o.arrived = o.expect ∧ o.tx = 0 then
        let live := o.live - o.defl
        { o with live := live, defl := 0, arrived := 0, amask := 0, fwd := false, phase := !o.phase, broken := decide (live < o.expect) }
      else if o.live < o.expect then { o with broken := true } else o))
  ∧ (∀ (s : State) (a : Nat) (f : BarObj → BarObj), s.ok →
    let o := f (s.bar a)
    let n := o.uproute.toNat
    (o.count && o.upen) = true → o.broken = false → o.fwd = false → o.arrived = o.expect → o.tx = 0 → o.expect ≠ 0 → s.routeTrap n = none →
    s.stepBar a f = ((s.putBar a o).putBar a { o with fwd := true }).sendRoute n
      (.arrive { src := s.core.id, group := ⟨s.team.id, 0⟩, srcObj := a, dst := s.routeDst n, addr := o.upaddr.toNat, kind := .forward
                 lanes := 0, route := n }))
  ∧ ((∀ o : BarObj, BarObj.unpack o.pack = o)
    ∧ ∀ x : BitVec 128, x.extractLsb' 64 8 = 0 → (BarObj.unpack x).pack = x)

/-- Barrier instructions (R490 to R497) that no check stops: BARINIT makes the object, BARARV arrives at it after its release, BARTX adds
to its bytes, BARTEST compares the phase into scc, and BARWAIT goes on when the phase differs and waits otherwise, a control core as a waiter
that the object notes; with REMOTE the request travels on the route.
What the spec leaves open here is as the model chooses it (log entries 41 and 42). -/
def Obligations.BarrierInstructions : Prop :=
  ∀ (f : XF) (s : State),
    let a := f.bar.toNat
    let v (i : Instr) (k : Nat) : BitVec 64 := nth (s.uniformOperands (s.barUses i)) k
    (let i : Instr := .barinit f
     let e := uval 32 (v i 0); let b := uval 32 (v i 1); let c := uval 32 (v i 2)
     s.mayUseBarrier i f → XF.remote f = false → s.barinitBad f e b c = false →
      exec i s = .next (({ s with team := { s.team with arrivals := s.team.arrivals.filter (·.addr != a) } } : State).stepBar a fun _ =>
        if f.flags.getLsbD 1 then
          { count := true, expect := BitVec.ofNat 10 e, live := BitVec.ofNat 10 b, upen := f.flags.getLsbD 2
            upaddr := BitVec.ofNat 17 c, uproute := BitVec.ofNat 6 (c / 2 ^ 17 % 64) }
        else { expect := BitVec.ofNat 10 e, live := BitVec.ofNat 10 (popcount 8 (BitVec.ofNat 64 b)), pmask := BitVec.ofNat 8 b }).next)
    ∧ (∀ (o : BarObj) (s1 : State),
      let g := if s.kind = .control then none else some s.grp.num
      s.mayUseBarrier (.bararv f) f → XF.remote f = false → s.namedBar f = some o → o.refuses g = 0 → s.grp.relDone = some s.pc →
      (s.useRelease true).atObject f (fun u => u.arriveBar a g (f.sub == 1) ⟨a, s.team.id, none⟩ none) = some (0, s1) →
      exec (.bararv f) s = .next (if o.count then
        s1.noteObject (if s1.kind = .control then s1.quadCore (f.b.reg / 4) (f.b.reg % 4) else s1.core.id) localRoute a (f.sub == 1) else s1).next)
    ∧ (s.mayUseBarrier (.bararv f) f → XF.remote f = true → s.routeTrap f.route.toNat = none → s.grp.relDone = some s.pc →
      let n := f.route.toNat
      let m : ArriveMsg := { src := s.core.id, group := s.gid, srcObj := s.fresh + 1, dst := s.routeDst n, addr := a
                             kind := if f.sub = 1 then .drop else .arrive, lanes := BitVec.ofNat 32 (maskOf s.active), route := n }
      let s1 := ({ s with fresh := s.fresh + 1 } : State).onGrp fun g =>
        { g with fx := true, inn := false, relDone := none, arrs := (s.fresh + 1, s.pc, a) :: g.arrs }
      exec (.bararv f) s = .next ((s1.noteObject m.dst n a (f.sub == 1)).sendRoute n (.arrive m)).next)
    ∧ (s.mayUseBarrier (.bartx f) f → XF.remote f = false →
      exec (.bartx f) s = .next (s.stepBar a fun o => { o with tx := o.tx + (v (.bartx f) 0).setWidth 32 }).next)
    ∧ (∀ o, s.mayUseBarrier (.bartest f) f → XF.remote f = false → s.namedBar f = some o → o.broken = false →
      let differs := o.phase != (v (.bartest f) 0).getLsbD 0
      exec (.bartest f) s = .next ((if differs then s.acquire o.scope else s).onGrp fun g => { g with scc := differs }).next)
    ∧ (∀ o, s.mayUseBarrier (.barwait f) f → XF.remote f = false → s.namedBar f = some o → o.broken = false →
      let p := (v (.barwait f) 0).getLsbD 0
      (o.phase ≠ p → exec (.barwait f) s = .next ((s.acquire o.scope).next true))
      ∧ (o.phase = p → s.kind ≠ .control → exec (.barwait f) s = .next (s.waitFor (.barrier a p none)))
      ∧ (o.phase = p → s.kind = .control → ∀ s1 : State,
        s.atObject f (fun u => ((), { u with team := { u.team with barWaiters := u.team.barWaiters ++ [⟨s.core.id, s.gid, a, p⟩] } })) = some ((), s1) →
        exec (.barwait f) s = .next (s1.waitFor (.barrier a p (some 64)))))
    ∧ (s.mayUseBarrier (.barwait f) f → XF.remote f = true → s.routeTrap f.route.toNat = none →
      let p := (v (.barwait f) 0).getLsbD 0
      let n := f.route.toNat
      exec (.barwait f) s = .next
        ((s.sendRoute n (.arrive { src := s.core.id, group := s.gid, srcObj := 0, dst := s.routeDst n, addr := a, kind := .wait p
                                   lanes := BitVec.ofNat 32 (maskOf s.active), route := n })).waitFor (.barrier a p (some n))))

/-- Engine commands (R338, R347, R349, R617 to R619) that pass their checks and need not wait for counters, a tile, translations (R262), the
engine or the Hutch: the operation joins the engine with its ranges registered, COPIES rises, its tile is bound, and the issue set moves on. On a dispatch core a copy command reads its record
later.
What the spec leaves open here is as the model chooses it (log entries 34 and 35). -/
def Obligations.EngineCommands : Prop :=
  ∀ (f : XF) (s : State),
    let v (i : Instr) (k : Nat) : BitVec 64 := nth (s.uniformOperands (s.barUses i)) k
    let ready (i : Instr) : Prop := s.mayAccess i ∧ s.uniformClean (s.barUses i)
    let room (o : EngOp) : Prop := s.commandWaits o = false ∧ s.core.engine.length < 256
    let joined (o : EngOp) (locks hutch : List RangeLock) (remote : Bool) : State :=
      (s.handOver o locks hutch remote).giveHeld o.addresses s.me (.engine (s.fresh + 1))
    let join (i : Instr) (o : EngOp) (list : Option LocalRange) (remote : Bool) : Prop := ∀ locks hutch,
      room o → s.tileWaits o = none → s.missing o.addresses = [] → registerAll s.core.hutch (o.ranges list) = some (locks, hutch) →
      exec i s = .next ((joined o locks hutch remote).wakeEng (s.fresh + 1)).next
    (∀ x ∈ [(Instr.xcpy f, EngKind.cpy), (.xgather f, .gather), (.xscatter f, .scatter), (.xreduce f, .reduce), (.xfill f, .fill)],
      let i := x.1; let k := x.2
      ready i →
      (s.kind ≠ .dispatch → ∀ o, s.planCopy f k (uval 32 (v i 0)) (uval 32 (v i 1)) (uval 32 (v i 2)) = .ok o →
        join i o (if k == .gather || k == .scatter then some ⟨uval 32 (v i 2), 4 * o.shape.boxN 1⟩ else none)
          (o.writes || o.shape2.isSome || o.kind == .peer || o.kind == .send))
      ∧ (s.kind = .dispatch →
        let o : EngOp := { id := 0, gid := some s.gid, team := s.team.id, kind := k, fmt := (numTy f.ty.toNat).getD .b32
                           la := (v i 0).toNat, now := s.core.now }
        room o → exec i s = .next ((s.handOver o [] s.core.hutch true).wakeEng (s.fresh + 1)).next))
    ∧ (let i : Instr := .xpeer f
       let a := uval 32 (v i 0); let n := uval 32 (v i 2)
       ready i → s.planRoute f a n (decide (4 ≤ n) && decide (n ≤ 65536) && n % 4 == 0) = .ok () →
       join i { id := 0, gid := some s.gid, team := s.team.id, kind := .peer, la := a, dstAddr := uval 32 (v i 1), count := n, bytes := n
                route := f.route.toNat, dst := s.routeDst f.route.toNat, bar := some f.bar.toNat, now := s.core.now } none true)
    ∧ (let i : Instr := .psend f
       let a := uval 32 (v i 0); let n := uval 32 (v i 1)
       let o : EngOp :=
        { id := 0, gid := some s.gid, team := s.team.id, kind := .send, la := a, count := (v i 2).toNat % 2 ^ 16, bytes := 16 + n
          payload := (List.range n).map fun k => (Memory.read Memory.zeros s.core.store (s.local (a + k)), s.core.poisoned (s.local (a + k)) 1)
          started := false, route := f.route.toNat, dst := s.routeDst f.route.toNat, bar := some f.bar.toNat, now := s.core.now }
       ready i → s.planRoute f a n (decide (4 ≤ n) && decide (n ≤ 240) && n % 4 == 0) = .ok () → room o → s.missing o.addresses = [] →
       ∀ locks hutch, registerAll s.core.hutch (o.ranges none) = some (locks, hutch) →
       let s1 := joined o locks hutch true
       exec i s = .next (if s1.core.engine.any (fun x => x.kind == .send && x.route == f.route.toNat && x.started) then s1
         else s1.nextPacket f.route.toNat).next)
    ∧ (let go (p : EngOp → Bool) : State := (s.core.engine.filter p).foldl (fun s o =>
        (s.onEng o.id fun o => { o with cancelled := true }).wakeEng o.id) s
       s.mayActOnce (.xcancel f) [] →
      (s.kind = .dispatch → exec (.xcancel f) s = .next (go fun o => o.gid == some s.gid).next)
      ∧ (s.kind ≠ .dispatch → XF.binds f = true → (s.team.defTile f.tile.toNat).isSome = true →
        exec (.xcancel f) s = .next (go fun o => o.team == s.team.id && o.tile.any (·.1 == f.tile.toNat)).next)
      ∧ (s.kind ≠ .dispatch → XF.binds f = false → s.team.lrec.isObject f.bar.toNat = true →
        exec (.xcancel f) s = .next (go fun o => o.gid == some s.gid && o.bar == some f.bar.toNat).next))
    ∧ (let a := uval 32 (nth (s.uniformOperands [uSN f.a]) 0)
       s.mayAccess (.precv f) → s.uniformClean [uSN f.a] → a % 4 = 0 → s.rangeProt ⟨a, 256⟩ = .ok () →
      (s.team.inbox ≠ [] → s.team.precvs = [] → exec (.precv f) s = .next ((s.takePacket a).next true))
      ∧ (s.team.inbox = [] ∨ s.team.precvs ≠ [] →
        exec (.precv f) s = .next (({ s with team := { s.team with precvs := s.team.precvs ++ [s.grp.num] } } : State).waitFor (.precv a))))

/-! ### Matrix engines -/

/-- Matrix instructions (R359 to R365, R471 to R478, R560 to R563) that no check stops: MMA, ACCLOAD and ACCZERO queue their macro-op at
the engine that serves the quad, ACCDRAIN hands its drain to the drain core's engine once its global lines are translated there, and MMAWAIT waits while something it
names is pending, traps for the earliest drain that failed, and goes on otherwise. MMAB publishes its quarter while fewer than 15 tiles are bound and fewer than two quarters wait. The arithmetic of an MMA (R234, R360): integer accumulators take the sum of products and, without OVR, the old element, modulo
2^32; floating ones add the products in ascending k to −0, each addition exact, then the old element, and round once to nearest even.
What the spec leaves open here is as the model chooses it (log entries 37, 38, 39 and 44). -/
def Obligations.MatrixInstructions : Prop :=
  (∀ (f : MXF) (s : State), s.active ≠ [] →
    let d := CoreId.die s.core.id
    let quad := s.clusterQuad f.a.reg
    let n := s.serving d quad
    let q := s.quad d n
    let far := redirSet (s.redirect d quad)
    let served (i : Instr) : Prop := s.clear i ∧ redirNone (s.redirect d quad) = false
    let queues (i : Instr) (kind : MacroKind) (core : CoreId) (team : TeamId) : Prop :=
      (if far then q.redir else q.queue).length < 16 →
      let m : MacroOp := { kind := kind, ctl := s.core.id, quad := quad, core := core, team := team, tile := f.tile.toNat, acc := f.acc.toNat }
      exec i s = .next ((s.putQuad (if far then { q with redir := q.redir ++ [m] } else { q with queue := q.queue ++ [m] })).kick d n).next
    let tiled (i : Instr) (kind : MacroKind) (fits : DWord → Prop) : Prop := ∀ t e,
      let c := s.quadCore f.a.reg f.qcore.toNat
      served i → s.firstTeam s.team.id.grid c = some t → t.defTile f.tile.toNat = some e → fits e → tileState e = 2 → queues i kind c t.id
    (served (.acczero f) → queues (.acczero f) .zero s.core.id s.team.id)
    ∧ (∀ ta tb k, numTy f.ta.toNat = some ta → numTy f.tb.toNat = some tb → mmaK ta tb = some k →
      tiled (.mma f) (.mma ta tb (f.sub == 1)) fun e => tileFmt e = f.ta.toNat ∧ tileErows e = 63 ∧ tileEcols e + 1 = k)
    ∧ (tiled (.accload f) .load fun e => tileErows e = 63 ∧ tileEcols e = 63
        ∧ (numTy (tileFmt e) = some .f32 ∨ numTy (tileFmt e) = some .i32 ∨ numTy (tileFmt e) = some .f64 ∧ f.acc.getLsbD 0 = false))
    ∧ (let names (x : Nat) (a : Nat) : Bool := f.flags.getLsbD 0 || x == quad && s.sameAcc d quad a f.acc.toNat
       let due := s.macroPending (fun m => names m.quad m.acc) || s.core.drains.any fun x => names x.quad x.acc && x.status.isNone
       s.clear (.mmawait f) → (f.flags.getLsbD 0 = false → redirNone (s.redirect d quad) = false) →
       (due = true → exec (.mmawait f) s = .next
        (s.waitFor (.drained (if f.flags.getLsbD 0 then none else some (quad, f.acc.toNat)))))
       ∧ (due = false → (∀ x ∈ s.core.drains, names x.quad x.acc = true → x.status = some .ok) → exec (.mmawait f) s = .next
        ((s.onCore fun c => { c with drains := c.drains.filter fun x => !names x.quad x.acc }).next true))
       ∧ (due = false → ∀ x, s.core.drains.find? (fun x => names x.quad x.acc && x.status != some .ok) = some x → exec (.mmawait f) s = .next
        ((s.onCore fun c => { c with drains := c.drains.filter (·.op != x.op) }).trapActive (drainTrap (x.status.getD .ok)) [])))
    ∧ (∀ t o locks hutch,
      let c := s.quadCore f.a.reg f.qcore.toNat
      let u := (s.focusCore c).focusTeam t
      let cv := uval 32 (s.fetchUse (uSN f.c) 0).1
      s.clear (.accdrain f) → s.macroPending (fun m => m.quad == quad && s.sameAcc d quad m.acc f.acc.toNat) = false →
      (∀ v ∈ s.barUses (.accdrain f), (s.fetchUse v 0).2 = false) →
      (s.firstTeam s.team.id.grid c).map (·.id) = some t →
      u.planDrain f.sub.toNat f.acc.toNat (s.acc d quad f.acc.toNat) (uval 32 (s.fetchUse (uSN f.b) 0).1) cv (cv % 256)
        (redirNone (s.redirect d quad)) = .ok o → u.missing o.addresses (who := s.me) = [] →
      u.core.engine.length < 256 → registerAll u.core.hutch (o.ranges none) = some (locks, hutch) →
      let x := ((({ u with fresh := u.fresh + 1 } : State).onCore fun k => { k with
        hutch := hutch, engine := k.engine ++ [{ o with id := u.fresh + 1, locks := locks, ctl := some s.core.id }] }).giveHeld o.addresses s.me
          (.engine (u.fresh + 1))).wakeEng (u.fresh + 1)
      let back := (x.focusCore s.core.id).focusGroup s.gid
      exec (.accdrain f) s = .next
        ((back.onCore fun k => { k with drains := k.drains ++ [⟨u.fresh + 1, quad, f.acc.toNat, none⟩] }).onGrp Group.effect).next)
    ∧ ∀ g : V3, s.clear (.mmab g) → s.grp.tiles < 15 → s.core.quarters.length < 2 →
      let p := (s.onCore fun c => { c with quarters := c.quarters ++ [s.quarterOf g ((numTy g.ty.toNat).getD .f16)] }).onGrp fun g =>
        { g with tiles := g.tiles + 1 }
      exec (.mmab g) s = .next (p.kick d (p.serving d (p.quadOf p.core.id))).next)
  ∧ (∀ (ta tb : Ty) (ovr : Bool) (kn : Nat) (a : TileData) (qs : List Quarter) (old : BitVec 64) (i j : Nat),
    let q := qs.getD (j / 16) ⟨tb, [], [], true, ⟨⟨⟨0, 0⟩, 0⟩, 0⟩⟩
    let x (k : Nat) := packedElem ta a.bytes (i * kn + k)
    let y (k : Nat) := packedElem tb q.bytes (k * 16 + j % 16)
    (mmaTag ta = .i32 →
      mmaElem ta tb ovr kn a qs old i j
        = wrap 32 ((if ovr then 0 else sval 32 old) + ((List.range kn).map fun k => ta.int (x k) * tb.int (y k)).sum))
    ∧ (mmaTag ta ≠ .i32 → ta.mx = false → tb.mx = false →
      let t : Ty := if ta = .f64 then .f64 else .f32
      let sum := (List.range kn).foldl (fun v k => (addVal .rne v (mulVal (ta.val (x k)) (tb.val (y k))).1).1) (.num true 0 0 false)
      mmaElem ta tb ovr kn a qs old i j = (roundTo t .rne false (if ovr then sum else (addVal .rne (t.val old) sum).1)).1))

/-! ### Graphics, regrouping and launches -/

/-- The per-lane instructions of the graphics units (R366, R367, R582, R583) issue one operation for the active lanes, whose rows stay
pending until it ends: TRAV and TRAVNEXT with a hit-record area, TEX and TEXQ without. TRAV, TEX and TEXQ issue with their descriptor, once
it is read.
What the spec leaves open here is as the model chooses it (log entries 65, 66 and 67). -/
def Obligations.UnitInstructions : Prop :=
  ∀ (f : GF) (s : State), s.active ≠ [] →
    let r := s.record f.brec.toNat
    let base := uval 32 (s.fetchUse (uS f.b) 0).1
    let pos (k : Nat) : Use := uV (.v (BitVec.ofNat 8 (f.a.reg + k)))
    let op (us : List Use) (kind : UnitKind) (area : Nat) : UnitOp :=
      { id := 0, gid := s.gid, kind := kind, dst := f.dst.reg, area := area, todo := s.active.map fun l => (l, (s.sources us l).map (·.1)) }
    let may (i : Instr) (us : List Use) : Prop :=
      s.clear i ∧ (∀ l ∈ s.active, (s.sources us l).any (·.2) = false) ∧ r.2 = false ∧ descOk r.1 = true
    let reads (i : Instr) (us : List Use) (kind : UnitKind) (area : Nat) : Prop :=
      may i us → ∀ bs x, s.descRead (recBase r.1) = .got bs x →
      let t : State := { (s.dropHeld [recBase r.1, recBase r.1 + 127]).useLines x.lines with fresh := s.fresh + 2 ^ 17 }
      exec i s = .next (t.issueUnit { op us kind area with bytes := some bs, top := x.top } (s.dstRows i)).next
    ((s.fetchUse (uS f.b) 0).2 = false → base % 32 = 0 → base + 1024 ≤ s.team.lrec.areaRow * 128 →
      reads (.trav f) ((List.range 13).map pos) (.trav (f.flags.getLsbD 0) (f.flags.getLsbD 1)) base
      ∧ (may (.travnext f) [uV f.a] →
        exec (.travnext f) s = .next (s.issueUnit (op [uV f.a] (.travnext (f.sub == 0)) base) (s.dstRows (.travnext f))).next))
    ∧ reads (.tex f) [uV f.a, pos 1, uV f.b] (.tex f.sub.toNat) 0
    ∧ reads (.texq f) [uV f.a, pos 1, uV f.b] .texq 0

/-- RAST, BINPUT and BINGET (R370 to R384, R502 to R504, R582) once a pass descriptor that R370 accepts, and the bin map, are read:
RAST hands the triangle to the walker, BINPUT sends its lanes' packets or closes a draw behind a release, and BINGET asks its die's binner.
What the spec leaves open here is as the model chooses it (log entries 62, 63 and 64). -/
def Obligations.PassInstructions : Prop :=
  ∀ (f : GF) (s : State) (bs cs : List Byte) (x y : Seen) (r : PassRead) (p : PassDesc) (m : List Nat), s.active ≠ [] →
    let after (vas : List Nat) (z : Seen) : State := { (s.dropHeld vas).useLines z.lines with fresh := s.fresh + 2 ^ 17 }
    let u := after (s.passEnds ++ rangeLines p.binmap p.tileCount) (x.and y)
    let mapped : Prop := s.passRange 128 p.binmap p.tileCount = .got cs y ∧ s.binMap cs = some m
    s.passBytes = .got bs x → s.passRead (.got bs x) = r → r.desc = some p →
    (let ws : List Word := (s.uniformOperands (rastUses f)).map (BitVec.setWidth 32)
     s.clear (.rast f) → s.uniformClean (rastUses f) → tokenBad p (ws.getD (ws.length - 2) 0).toNat = false →
      exec (.rast f) s = .next ((after s.passEnds x).rastIssue f p r.top ws).next)
    ∧ (∀ nv msgs, s.mayAccess (.binput f) → f.flags.getLsbD 0 = false → mapped →
      (∀ l ∈ s.active, u.binLane (f.flags.getLsbD 1) (some (p, m)) (s.sources (binputUses f) l) = (none, nv l, msgs l)) →
      exec (.binput f) s = .next (u.sendPackets p m (s.active.map msgs).flatten (s.active.any nv)).next)
    ∧ (let draw := (s.fetchUse (uS f.b) 0).1.toNat % 2 ^ 16
       let dies := s.team.lrec.regionDies.filter fun d => !s.dieAbsent d
       s.mayAccess (.binput f) → f.flags.getLsbD 0 = true → (s.fetchUse (uS f.b) 0).2 = false → mapped →
       u.drawLate p draw true = false → (∀ d ∈ dies, u.binnerBusy d s.team.id.grid = false) →
       exec (.binput f) s = .next (u.sendClose p m draw).next)
    ∧ (let d := CoreId.die s.core.id
       let named := uval 32 (s.fetchUse (uSN f.a) 0).1
       s.mayAccess (.binget f) → (s.fetchUse (uSN f.a) 0).2 = false → mapped → (named = 0xFFFF ∨ m[named]? = some d) →
       u.binnerBusy d s.team.id.grid = false → exec (.binget f) s = .next (u.bingetIssue f r p m named).next)

/-- REGROUP and REPACK (R114, R588) with sound targets: every lane of the issue set stands at the rendezvous with its target and key,
and does not move on. LAUNCH (R405, R406): dst is pending, and the request leaves behind a release at PANEL scope.
What the spec leaves open here is as the model chooses it (log entries 32 and 50). -/
def Obligations.RegroupAndLaunch : Prop :=
  (∀ (f : GF) (s : State) (m : Nat → Meet),
    let stand (k : Nat) (x : Lane) : Lane := if s.issueSet.contains k then { x.completed with st := .rdv, meet := some (m k) } else x
    (s.clear (.regroup f) → s.missing (targetLines (s.arrivalTargets f)) = [] → (∀ l ∈ s.issueSet, s.arrival true f l = .inr (m l)) →
      lanesGo s s (.regroup f) true stand)
    ∧ (s.clear (.repack f) → (∀ l ∈ s.issueSet, s.arrival false f l = .inr (m l)) → lanesGo s s (.repack f) true stand))
  ∧ ∀ (f : SF) (s : State), s.mayActOnce (.launch f) [uS2 f.a] →
    let m : LaunchReq := ⟨s.core.id, s.gid, f.dst.reg, (nth (s.uniformOperands [uS2 f.a]) 0).toNat % 2 ^ 56, s.core.now, false, []⟩
    let o : MemOp := { id := s.fresh + 1, load := true, counted := false, uni := true
                       elems := [{ lane := 0, reg := f.dst.reg, line := 0, off := 0, w := 4, wait := some (s.fresh + 2) }] }
    let u := ({ s with fresh := s.fresh + 2 } : State).onGrp fun g =>
      { g with fx := true, inn := false, pend := ⟨.op (s.fresh + 2), s.dstRows (.launch f)⟩ :: g.pend, ops := g.ops ++ [o] }
    exec (.launch f) s = .next (u.release .panel true s.earlier (.send (.launchRequest (CoreId.die s.core.id) m))).next

/-! ### Poison and handlers -/

/-- Consuming poison (R111, R439): where every active lane of a per-lane instruction has a poisoned source, all of them park with POISON
and DETAIL 1, their sources logged and the destination rows pending; no register changes and the rest of the issue set moves on.
What the spec leaves open here is as the model chooses it (log entry 16). -/
def Obligations.PoisonParksLanes : Prop :=
  ∀ (f : V3) (s : State), s.grp.inHandler = false → s.active ≠ [] →
    let t := V3.ity f
    let go (i : Instr) (us : List Use) : Prop := s.clear i → (∀ l ∈ s.active, (s.sources us l).any (·.2) = true) →
      lanesPark s s i false (fun l => if s.active.contains l then some { kind := 8, detail := 1 } else none)
        (fun l => s.sources us l) (s.dstRows i)
    go (.iadd f) [f.useA t, f.useB t] ∧ go (.isub f) [f.useA t, f.useB t] ∧ go (.imul f) [f.useA t, f.useB t]
      ∧ go (.imad f) [f.useA t, f.useB t, f.useC t] ∧ go (.and f) [f.useA t, f.useB t] ∧ go (.xor f) [f.useA t, f.useB t]
      ∧ go (.shl f) [f.useA t, f.useB .b32] ∧ go (.sel f) [f.useA t, f.useB t, f.useC .b32] ∧ go (.mov f) [f.useA t]

/-- A trap inside the handler kills the grid (R432, R436): every lane of the group has exited, the grid's end is due, and the kind and
DETAIL that it ends with are those of the trap. -/
def Obligations.TrapInHandlerKillsGrid : Prop :=
  ∀ (i : Instr) (s : State) (d : BitVec 8) (h : Bool),
    (encode i).isSome → s.grp.inHandler = true → s.active ≠ [] → illDetail s.ctx i = some (d, h) →
    ∃ t, exec i s = .next t ∧ (∀ x ∈ t.grp.lanes, x.st = .exited) ∧ t.grp.gst = .ended
      ∧ Instr.gridEnd s.team.id.grid ∈ t.agenda ∧ (s.team.id.grid, 1, d) ∈ t.kills

/-! ### Clocks and time -/

/-- The forwarding tree: power-on and the start of boot (R54, R70); FWDCFG with GO refused or applied (R71, R82, R83); locking, its timeout and
the loss of a parent's clock (R71 to R73); the external reference (R84); and the steps of a re-rooting (R77, R80, R81). Rate, slew and step
(R62, R81): a write takes effect at the root alone, for both regions of every die; a region takes the new rate and the step at its point, and
the end of a slew puts the rest into the next clk. The servo (R85 to R87): the first master heard, the timestamps of the slave port, and the
master lost. PTP_MESSAGE_TRANSMIT (R85): on the ports that may send the kind.
What the spec leaves open here is as the model chooses it (log entries 22, 23, 30, 46, 48 and 80). -/
def Obligations.ClocksAndTime : Prop :=
  (∀ (s : State) (d : Nat) (v : Word),
    let x := (s.die d).fwd
    let onFwd (f : Forwarder → Forwarder) : State := s.onDie d fun y => { y with fwd := f y.fwd }
    (let r : State := { State.reset with dies := s.dies.map Die.physical, ptp := { State.reset.ptp with domain := s.ptp.domain } }
     (∀ y ∈ s.dies, (Die.physical y).fwd = { refOk := y.fwd.refOk })
      ∧ ((∀ k ∈ s.present, rootCapable k = true → (s.die k).fwd.refOk = false) → exec .powerOn s = .next r)
      ∧ ∀ root, s.present.find? (fun k => rootCapable k && (s.die k).fwd.refOk) = some root → ∃ t, exec .powerOn s = .next t
        ∧ (t.die root).fwd.st = .acquire ∧ (t.die root).fwd.parent = 4 ∧ (t.die root).fwd.lockBy = 25000
        ∧ ∀ k ∈ s.present, k ≠ root → (t.die k).fwd.st = .off)
    ∧ (s.dieAbsent d = false → (s.firmware.failed = false ∨ x.st ≠ .off) →
      (s.cfgRefused d v = true → exec (.fwdcfgGo d v) s = .next (onFwd fun y => { y with badCfg := true }))
      ∧ (s.cfgRefused d v = false → ∃ t, exec (.fwdcfgGo d v) s = .next t
        ∧ (let y : Forwarder := { x with parent := v.extractLsb' 4 3, child := v.extractLsb' 8 4, asked := none, hostMode := v.getLsbD 0, badCfg := false }
           (x.st = .off → (t.die d).fwd = { y with st := .acquire, lockW := false, lockE := false, lockBy := s.clk + 25000 }
            ∧ (s.clk + 25001, Instr.pllLockTimeout d) ∈ t.timers)
           ∧ (x.st ≠ .off → x.st ≠ .run → (t.die d).fwd = y)
           ∧ (x.st = .run → (x.parent ≠ y.parent ∨ x.child ≠ y.child) →
              (s.rerooting = true → (t.die d).held = true) ∧ (s.rerooting = false → t.clkgen = s.clkgen + 1)))
        ∧ (v.extractLsb' 4 3 = 4 → ∀ k ∈ t.present, t.isRoot k = true → k = d)))
    ∧ (s.hasReference d = true → s.clk ≤ x.lockBy → (x.st = .adopt ∨ x.st = .acquire) → ∃ t, exec (.pllLock d) s = .next t
      ∧ (t.die d).fwd = { x with st := if x.st = .adopt then .adopt else .run, lockW := true, lockE := true }
      ∧ t.clkgen = if x.st = .acquire ∧ s.pub = none ∧ t.booted = true then s.clkgen + 1 else s.clkgen)
    ∧ ((x.st = .acquire ∨ x.st = .adopt) → (x.lockW && x.lockE) = false → s.clk > x.lockBy →
      ∃ t, exec (.pllLockTimeout d) s = .next t ∧ (t.die d).fwd = { x with st := .orphan, lockW := false, lockE := false, assigned := false }
        ∧ (t.die d).held = true)
    ∧ (∀ cause : LossCause,
      let lost : State := if cause = .edge ∧ x.parent.toNat < 4 then onFwd fun y => { y with down := insertN y.down x.parent.toNat } else s
      ((x.st = .run ∨ x.st = .adopt ∧ cause = .parent) → exec (.parentClockLoss ⟨d, cause⟩) s = .next (lost.orphan d))
      ∧ (x.st = .adopt → cause ≠ .parent → ∃ t, exec (.parentClockLoss ⟨d, cause⟩) s = .next t
          ∧ (t.die d).fwd = { (lost.die d).fwd with lockW := false, lockE := false, lockBy := s.clk + 25000 })
      ∧ (x.st = .orphan → cause ≠ .pll → ∃ t, exec (.parentClockLoss ⟨d, cause⟩) s = .next t
          ∧ (t.die d).fwd = { (lost.die d).fwd with assigned := false }))
    ∧ (((s.orphan d).die d).fwd = { x with st := .orphan, lockW := false, lockE := false, assigned := false }
      ∧ ((s.orphan d).die d).held = true ∧ ((s.die d).held = false → ((s.orphan d).die d).acc = false)
      ∧ (s.orphan d).agenda = s.agenda ++ ((s.childrenOf d).map fun k => .parentClockLoss ⟨k, .parent⟩)
          ++ (if x.hostMode then [] else [.rerootParentAssign []]))
    ∧ (rootCapable d = true → (exec (.externalReferenceChange d false) s = .next
          (let u := onFwd fun y => { y with refOk := false }
           if x.parent = 4 then u.send (.parentClockLoss ⟨d, .parent⟩) else u))
      ∧ ∃ t, exec (.externalReferenceChange d true) s = .next t ∧ (t.die d).fwd.refOk = true
        ∧ ∀ k ∈ s.present, (s.die k).stranded = true → (s.die k).fwd.hostMode = false → Instr.rerootParentAssign [] ∈ t.agenda)
    ∧ (s.losing = false → ∃ t, exec (.rerootParentAssign []) s = .next t
      ∧ ∀ k ∈ s.present, (s.die k).fwd.st = .orphan → (s.die k).fwd.assigned = false →
        let up : Nat := match s.newRoot with
          | none => 7
          | some root => if k = root then 4 else
            match ((s.depths root).find? (·.1 == k)).bind fun y => s.parentEdge (s.depths root) k y.2 with
            | some y => y.1
            | none => 7
        (t.die k).fwd.parent = BitVec.ofNat 3 up ∧ (t.die k).stranded = (up == 7))
    ∧ (v.getLsbD 0 = true → x.hostMode = true → ∃ t, exec (.fwdcmdDone d v) s = .next t ∧ ∀ k ∈ s.present,
        let f := (s.die k).fwd
        f.st = .orphan → f.parent ≠ 7 → (f.parent = 4 ∨ s.liveEdge k f.parent.toNat = true) →
        (t.die k).stranded = false ∧ (t.die k).fwd.st = if s.hasReference k then .adopt else .orphan)
    ∧ (s.canResume = true → ∃ t, exec .rerootResume s = .next t ∧ t.clkgen = s.clkgen + 1
        ∧ ∀ k ∈ s.resuming, (t.die k).held = false ∧ (t.die k).fwd.st = .run))
  ∧ (∀ (s : State) (d : Nat) (v : DWord) (e : Bool) (f : PtpFrame) (port : Nat),
    let regions (p : Ptp) (h : Region → Region) : State :=
      { s with ptp := p, dies := s.dies.map fun x => { x with west := h x.west, east := h x.east } }
    let r := s.region d e
    let stamped (t : Int) : Prop := ∃ k : Int, -52428 ≤ k ∧ k ≤ 52428 ∧ t = (s.portTime port : Int) + k
    (s.isRoot d = true → s.dieAbsent d = false →
      exec (.gtcrateWrite d v) s = .next (regions { s.ptp with rateWord := v } fun r => { r with nextRate := some v })
      ∧ exec (.gtcslewWrite d v) s = .next (regions { s.ptp with slew := v.toInt * 2 ^ 32 } fun r => { r with adj := 0 })
      ∧ exec (.gtcstepWrite d v) s = .next (regions s.ptp fun r => { r with step := v }))
    ∧ (s.isRoot d = false → ∀ i ∈ [Instr.gtcrateWrite d v, .gtcslewWrite d v, .gtcstepWrite d v], exec i s = .next s)
    ∧ (r.acc.toNat / 2 ^ 48 % 2 ^ 20 = 0 →
      (∀ w, r.nextRate = some w → exec (.rateWordSwitch d e) s = .next (s.onRegion d e fun r => { r with rate := w, nextRate := none }))
      ∧ (let u := s.onRegion d e fun r => { r with acc := r.acc + BitVec.ofNat 96 (r.step.toNat * 2 ^ 32), step := 0 }
         exec (.gtcstepApply d e) s = .next (if u.stopped d then u
          else { u with agenda := u.agenda ++ u.dueAt fun c => CoreId.die c == d && CoreId.east c == e })))
    ∧ (s.ptp.slew ≤ slewStep → -slewStep ≤ s.ptp.slew → ∃ t, exec .slewComplete s = .next t ∧ t.ptp = { s.ptp with slew := 0 }
        ∧ t.dies = s.dies.map fun x => if x.stopped then x else
            { x with west := { x.west with adj := s.ptp.slew }, east := { x.east with adj := s.ptp.slew } })
    ∧ (f.oneStep = false → f.domain = s.ptp.domain →
      (f.kind = .announce → s.ptp.slave = none → exec (.ptpFrameReceive f) s = .next
        { s with ptp := { s.ptp with slave := some f.port, st := .acquiring, missed := 0, good := 0, heardAt := s.clk } })
      ∧ (s.ptp.slave = some f.port →
        (f.kind = .announce → exec (.ptpFrameReceive f) s = .next { s with ptp := { s.ptp with missed := 0, heardAt := s.clk } })
        ∧ (f.kind = .sync → port = f.port → ∃ t u, exec (.ptpFrameReceive f) s = .next t ∧ stamped u
          ∧ t.ptp = { s.ptp with t1 := none, t2 := some (u - s.offsetOf (portDie port) false) })
        ∧ (f.kind = .followUp → ∀ a delay, s.ptp.t2 = some a → s.ptp.delay = some delay →
          let offset := a - f.time - delay
          ∃ t, exec (.ptpFrameReceive f) s = .next t ∧ t.ptp.est = offset
            ∧ t.ptp.good = (if offset.natAbs ≤ 50 * 65536 then s.ptp.good + 1 else 0)
            ∧ t.ptp.st = (if 16 ≤ t.ptp.good then .locked else if 200 * 65536 < offset.natAbs ∨ s.ptp.st ≠ .locked then .acquiring else .locked))
        ∧ (f.kind = .delayResp → ∀ a b c, s.ptp.t1 = some a → s.ptp.t2 = some b → s.ptp.t3 = some c → exec (.ptpFrameReceive f) s = .next
          { s with ptp := { s.ptp with t4 := some f.time, delay := some (((b - a) + (f.time - c)) / 2) } })))
    ∧ (s.ptp.slave ≠ none → s.clk > s.ptp.heardAt + 3750000000 → exec .announceTimeout s = .next
        { s with ptp := { s.ptp with
                   st := .holdover, slave := none, good := 0, missed := 4, t1 := none, t2 := none, t3 := none, t4 := none, delay := none }
                 dies := s.dies.map fun x => if x.stopped then x else { x with acc := false } })
    ∧ (∀ kind : PtpKind, (kind = .delayReq ∧ s.ptp.slave = some port ∨ kind ∈ [PtpKind.sync, .followUp, .announce, .delayResp] ∧ s.ptp.slave ≠ some port) →
        ∃ t u, exec (.ptpMessageTransmit port kind) s = .next t ∧ stamped u ∧ t.ptp = { s.ptp with
          sent := s.ptp.sent ++ [(port, kind, u)]
          t3 := if kind = .delayReq then some (u - s.offsetOf (portDie port) false) else s.ptp.t3 }))

/-! ### Waits that end -/

/-- What ends a wait: SLEEP (R601), WAITT (R88), a start time (R89), a semaphore's value or deadline (R416, R596, R597), the answer to a
barrier wait on another core (R497) and to a system call (R608). A reply to LAUNCH (R406) binds its status. An idle span steps `%now`
(R279); a group with parked lanes enters its handler (R432); the winner of a run boundary takes the issue slot (R426); and a group joins its
rendezvous (R114). Events of a core: an idle span steps `%now` or asks for a rebase (R279, R301), a start time releases the groups of its grid (R89), and the
winner of a run boundary takes the issue slot (R426). SCREPLY (R608) hands SCVAL to the group it names, and a notice meets a wait of a queued
launch (R416).
What the spec leaves open here is as the model chooses it (log entries 28 and 49). -/
def Obligations.WaitsAndGrants : Prop :=
  (∀ (s : State) (c : CoreId) (g : GroupId), s.groupHere c g →
    let s1 := s.seen c g
    let wake (t : State) : State := t.wake
    (s1.grp.waiting?.map Wait.what = some (.sleep 0) → groupDoes s (.sleepDone c g) c g wake)
    ∧ (∀ t : BitVec 64, s1.grp.waiting?.map Wait.what = some (.deadline t) → t.toNat ≤ s1.gtcOf s1.core.id →
        groupDoes s (.waittDeadline g c) c g wake)
    ∧ (∀ a target limit done ref late, s1.grp.waiting?.map Wait.what = some (.sem a target limit done ref late) →
      let t (m : SemNotice) : Nat := m.wts.read s1.ep
      let past : Prop := ∃ d : BitVec 64, limit = some d ∧ d.toNat ≤ s1.gtcOf s1.core.id
      let expires (s : State) : State := (s.unregister ref).trapWaiters { kind := 0x0E }
      let value (i : SemNotice → Instr) : Prop := ∀ m : SemNotice, m.core = c → m.group = g → m.ref = ref → m.launch = none →
        s.early (CoreId.die c) m.wts = false →
        (target ≤ m.value → groupDoes s (i m) c g fun _ =>
          ((((s1.unregister ref).raiseNow (t m)).raiseHorizon (t m)).acquire .panel).wake)
        ∧ (m.value < target → past → groupDoes s (i m) c g expires)
        ∧ (m.value < target → ¬ past → groupDoes s (i m) c g fun s => s.onGrp fun g =>
            { g with wait := g.wait.map Wait.replied, held := g.held.map Wait.replied })
      value .semwaitReadReply ∧ value .semaphoreNotice
        ∧ (past → late = false → (a = holeAddr ∨ (s1.die (paDie a)).held = false) → groupDoes s (.semwaitTimeout c g) c g expires))
    ∧ (∀ m : ArriveAns, m.dst = c → m.group = g → s.followTeam g.team c (fun k => .barwaitReply { m with dst := k }) = none →
        (∃ p r, s1.grp.waiting?.map Wait.what = some (.barrier m.obj p (some r))) → m.detail = 0 →
        groupDoes s (.barwaitReply m) c g fun s => (s.acquire (if m.forward then .panel else .core)).wake)
    ∧ (∀ m : LaunchAns, m.dst = c → m.group = g →
        let mine (o : MemOp) (x : Elem) : Bool := !o.counted && o.uni && o.load && x.reg == m.dstReg && x.w == 4
        let come (o : MemOp) (x : Elem) : Elem := if mine o x then { x with wait := none, val := (m.status.setWidth 64, false) } else x
        exec (.launchReply m) s = .next (((s1.onGrp fun g => { g with
            ops := g.ops.map fun o => { o with elems := o.elems.map (come o) }
            pend := g.pend.filter fun p => !g.ops.any fun o => o.elems.any fun x => mine o x && x.wait.any fun r => p.who == .op r
          }).focusGroup (s.focusCore c).gid).pump))
    ∧ (s1.grp.gst ≠ .running → groupDoes s (.handlerEntry c g) c g State.settle)
    ∧ (s1.grp.gst = .waiting → s1.grp.wait.map Wait.what = some .rendezvous → s1.grp.loads = 0 → s1.grp.stores = 0 →
        groupDoes s (.regroupJoin c g) c g fun s => (s.onGrp fun g => { g with joined := true }).tryMeet s.grp.role))
  ∧ (∀ (s : State) (c : CoreId),
    let s1 := s.focusCore c
    (s1.nowTick < 0xFFFFFF → exec (.idleTick c) s = .next (s1.setNow (s1.nowTick + 1)))
    ∧ (0xFFFFFF ≤ s1.nowTick → exec (.idleTick c) s = .next (s1.requestRebase (CoreId.die s1.core.id)))
    ∧ (∀ grid, exec (.launchStartTime c grid) s = .next (s1.eachGroup fun t =>
        match t.grp.wait.map Wait.what with
        | some (.startAt n) => if t.team.id.grid = grid ∧ n ≤ s1.gtcOf c then (t.onGrp fun g => { g with wait := none }).settle else t
        | _ => t))
    ∧ (s.stopped (CoreId.die c) = false → s1.core.slot = none → s1.core.retained = false → ∀ r, s1.winner s1.readyGroups = some r →
        let s2 := s1.focusGroup r.id
        exec (.issueGrant c) s = .next { s2 with
          core := { s2.core with slot := some s2.gid }
          grp := { s2.grp with gst := .running, runLen := 0, woke := false
                               wonOver := (s1.readyGroups.filter fun x => x.id != r.id).map fun x => (x.id, x.grp.readyNo) } })
    ∧ (∀ (m : SemNotice) (g : GridId) (k : Nat), m.core = c → m.launch = some (g, k) → s.early (CoreId.die c) m.wts = false →
        exec (.semaphoreNotice m) s = .next
          ((({ s1.raiseNow (m.wts.read s1.ep) with semWaiters := s1.semWaiters.filter fun w => w.launch != some (g, k) } : State).onGrid g
            fun x => { x with met := insertN x.met k }).send (.queueDepart g.lead)))
    ∧ (∀ (d : Nat) (v : DWord) (x : CoreId × GroupId × Group),
        (s.allGroups.find? fun x => CoreId.die x.1 == d && x.2.1.team.grid.lid == v.toNat / 2 ^ 32 % 2 ^ 16 && x.2.1.team.rank == v.toNat % 2 ^ 32
          && x.2.1.num == v.toNat / 2 ^ 48 % 8 && x.2.2.wait.any (fun w => match w.what with | .reply _ => true | _ => false)) = some x →
        exec (.screplyWrite d v) s = .next ((s.focusCore x.1).atGroup x.2.1 (·.takeReply (s.die d).scval))))

/-! ### Homes -/

/-- READ and RENEWQ at a home (R280, R282): the lease granted raises RTS, and the answer is DATA, or EXTEND where the requester's WTS still
stands; a request of another die is answered by its remote-data cache while that holds the line (R284); and a promoted request recalls a
holder that must yield (R328). Writes at a home (R285, R288, R290, R334): CPBK, ATOMQ, COMMIT and a YIELD that carries words take a stamp above every lease, and the
answer carries it; ATOMQ also returns the old value. A merge writes the marked bytes of the line and nothing else. HOLD and UNHOLD (R325, R326), PREP (R334), ordered contributions (R236, R237, R335) buffered ahead of their turn or applied in it, RETRY
and the resending (R237, R336), the drop of replica lines (R303, R305), and the scrub of device memory (R438).
What the spec leaves open here is as the model chooses it (log entry 9). -/
def Obligations.HomeMessages : Prop :=
  (∀ (m : LineReq) (h : Home) (s : State), regLine m.line = none →
    let e := s.homeEp m.line
    let top := max (h.rts.read e) (m.now.read e + m.lease)
    let s0 := s.putHome h
    let h' : Home := { h with rts := ⟨e, top⟩, ynow := if m.promote.isSome then none else h.ynow }
    let granted := (s0.putHome h').noteTick (lineDie m.line) top
    let y := if m.promote.isSome then h.ynow else none
    let via := if m.fill.isSome then some m else none
    let own : Stamp := ⟨e, m.now.read e + m.lease⟩
    let data : Instr := .dataMsg { line := m.line, dst := m.src, bytes := s.lineBytes m.line, poison := s.linePoison m.line, wts := ⟨e, h.wts.read e⟩
                                   rts := own, ynow := y, repl := false, ref := m.ref, via := via }
    (s.throughRdc m = false → s.atHomeWith m.line m.now h → h.free → mustYield h m.src m.promote = false → m.page = none → top ≤ 0xFFFFFF →
      exec (.read m) s = .next (granted.send data)
      ∧ (m.wts.read e ≠ 0 → m.wts.read e = h.wts.read e →
          exec (.renewq m) s = .next (granted.send (.extend ⟨m.line, m.src, own, y, m.ref, via⟩)))
      ∧ (m.wts.read e ≠ h.wts.read e → exec (.renewq m) s = .next (granted.send data)))
    ∧ (s.throughRdc m = false → s.atHomeWith m.line m.now h → h.free → ∀ c sc, h.holder = some c → m.promote = some sc →
        mustYield h m.src m.promote = true → exec (.read m) s = .next
          ((s0.putHome { h with held := h.held ++ [.read m], recalling := true }).send (.recall ⟨m.line, c, sc⟩)))
    ∧ (s.throughRdc m = true → ∀ x, (s.die (CoreId.die m.src)).rdc.find? (·.line == m.line) = some x → x.repl = false →
        let d := (s.die (CoreId.die m.src)).epoch
        x.rts.lost d = false → m.now.read d ≤ x.rts.read d →
        exec (.read m) s = .next (s.requeue [.dataMsg { line := x.line, dst := m.src, bytes := x.bytes, poison := x.poison, wts := x.wts
                                                        rts := ⟨d, min (x.rts.read d) (m.now.read d + m.lease)⟩, ynow := none, repl := false
                                                        ref := m.ref, via := none }])))
  ∧ (∀ (s : State) (h : Home) (line : Nat),
    let e := s.homeEp line
    let at' (now : Stamp) : State → Prop := fun s => s.atHomeWith line now h
    let stamp (now : Stamp) : Nat := max (h.rts.read e + 1) (now.read e)
    (∀ m : CpbkMsg, m.line = line → at' m.now s → stamp m.now ≤ 0xFFFFFF →
      exec (.cpbk m) s = .next
        ((((((s.dropRdc m.who line).putHome h).mergeLine line m.mask m.bytes m.poison).stamp h (stamp m.now)).send
          (.cpbkack ⟨line, m.who, ⟨e, stamp m.now⟩, m.ref, m.mask⟩))))
    ∧ (∀ m : AtomMsg, m.addr / 128 = line → at' m.now s → h.free → m.holds = false → (∀ c, Who.core? m.who = some c → mustYield h c m.promote = false) →
      stamp m.now ≤ 0xFFFFFF →
        let n := if m.wide then 8 else 4
        let old := BitVec.ofNat 64 (s.readNat m.addr n)
        let new := (atomNew m.op m.cls m.wide old m.a m.c).1
        let s0 := (s.dropRdc m.who line).putHome h
        exec (.atomq m) s = .next
          ((({ s0 with mem := Memory.writeNat s.unlisted s.mem m.addr n new.toNat } : State).stamp
            { h with ynow := if m.promote.isSome then none else h.ynow } (stamp m.now)).send
            (.atoma ⟨m.who, old, has s.memPoison (m.addr / 32), ⟨e, stamp m.now⟩, if m.promote.isSome then h.ynow else none, m.ref, m.lane⟩)))
    ∧ (∀ m : CommitMsg, m.line = line → at' m.stamp s →
      let w := max (m.stamp.read e) (h.rts.read e + 1)
      w ≤ 0xFFFFFF → exec (.commit m) s = .next
        (((((s.putHome h).mergeLine line m.mask m.bytes m.poison).stamp { h with prep := none } w).send (.commitack ⟨line, m.core, m.op, ⟨e, w⟩⟩)).releaseHeld
          { h with prep := none, wts := ⟨e, w⟩, rts := ⟨e, w⟩ }))
    ∧ (∀ m : YieldMsg, m.line = line → at' m.ynow s →
      let h1 : Home := { h with holder := none, recalling := false, ynow := some m.ynow }
      (m.mask = 0 → exec (.yield m) s = .next ((s.putHome h).releaseHeld h1))
      ∧ (m.mask ≠ 0 → stamp m.ynow ≤ 0xFFFFFF → exec (.yield m) s = .next
          ((((s.putHome h).mergeLine line m.mask m.bytes m.poison).stamp h1 (stamp m.ynow)).releaseHeld
            { h1 with wts := ⟨e, stamp m.ynow⟩, rts := ⟨e, stamp m.ynow⟩ })))
    ∧ (∀ (mask : BitVec 128) (bytes : BitVec 1024) (poison : BitVec 32), s.ok → ∀ a,
        (s.mergeLine line mask bytes poison).byte a =
          if line * 128 ≤ a ∧ a < line * 128 + 128 ∧ mask.getLsbD (a - line * 128) = true then byteOf bytes.toNat (a - line * 128)
          else s.byte a))
  ∧ (∀ (s : State) (h : Home),
    (∀ m : HoldMsg,
      (s.atHomeWith m.line ⟨s.homeEp m.line, 0⟩ h → h.free →
        (h.holder = none ∨ h.holder = some m.core →
          exec (.hold m) s = .next (((s.putHome h).putHome { h with holder := some m.core }).send (.holdack m)))
        ∧ ∀ c, h.holder = some c → c ≠ m.core → exec (.hold m) s = .next
            (((s.putHome h).putHome { h with held := h.held ++ [.hold m], recalling := true }).send
              (.recall ⟨m.line, c, if CoreId.die c = CoreId.die m.core then .die else .panel⟩)))
      ∧ (s.homeOf m.line = some h → h.holder = some m.core → exec (.unhold m) s = .next ((s.putHome { h with holder := none }).wayFreed m.line)))
    ∧ (∀ m : UnitMsg, s.atHomeWith m.line m.stamp h → h.free →
        exec (.prep m) s = .next (((s.putHome h).putHome { h with prep := some (m.core, m.op) }).send (.prepack { m with stamp := h.rts })))
    ∧ (∀ (m : Contribution) (r : LaunchRecord),
      let line := m.addr / 128
      let s0 := (s.dropRdc m.who line).putHome h
      let b := (s.bench.find? fun b => b.addr == m.addr && b.grid == m.grid).getD { addr := m.addr, wide := m.wide, grid := m.grid }
      let w := max (h.rts.read (s.homeEp line) + 1) (m.now.read (s.homeEp line))
      let joins := if m.holds then Who.core? m.who else none
      let h1 : Home := if joins = none then h else { h with holder := joins }
      s.atHomeWith line m.now h → h.free → (joins = none ∨ h.holder = none ∨ h.holder = joins) →
      s.recordOf m.grid = some r → w + b.buf.length ≤ 0xFFFFFF →
      ((∀ c ∈ b.buf ++ [m], contribPos c r.benchl ≠ b.pos) → s.benchLoad line < 256 → exec (.benchContribution m) s = .next
          (((({ s0 with bench := { b with buf := b.buf ++ [m] } :: s.bench.filter fun x => !(x.addr == m.addr && x.grid == m.grid) } : State).send
            (.accept ⟨m.who, h.wts, m.ref⟩)).putHome { h1 with opn := true })))
      ∧ (b.buf = [] → contribPos m r.benchl = b.pos → ∃ t pre, exec (.benchContribution m) s = .next t
          ∧ (let n := if m.wide then 8 else 4
             t.mem = Memory.writeNat s.unlisted s.mem m.addr n
              (atomNew .faddo .floating m.wide (BitVec.ofNat 64 (s.readNat m.addr n)) m.value 0).1.toNat)
          ∧ t.agenda = pre ++ [.apply ⟨m.who, ⟨s.homeEp line, w⟩, m.ref⟩, .accept ⟨m.who, h.wts, m.ref⟩]))
    ∧ (∀ m : Resend, exec (.retry m) s = .next { s with timers := s.timers ++ [(s.clk + 64, .retryResend m)] }
        ∧ exec (.retryResend m) s = .next (s.send (Resend.msg m)))
    ∧ (∀ m : DropMsg, exec (.drop m) s = .next ((s.dropReplicas m.die m.frame m.size).send (.dropack m))
        ∧ ∃ f, exec (.dropack m) s = .next (s.onDie m.home f) ∧ ∀ d : Die,
            (f d).replDir = (d.replDir.map fun p => if p.frame = m.frame then { p with dies := eraseN p.dies m.die } else p)
            ∧ (f d).rplBusy = if d.rplBusy = some m.frame ∧ (f d).replDir.all (fun p => p.frame != m.frame || p.dies.isEmpty) = true then none
                else d.rplBusy)
    ∧ (∀ bad : List Nat, ∃ t, exec (.hbmScrub (bad.map fun k => ⟨k, false, none⟩)) s = .next t ∧ t.mem = s.mem
        ∧ ∀ k, has t.memPoison k = (has bad k || has s.memPoison k))
    ∧ (∀ k, exec (.hbmScrub [⟨k, true, none⟩]) s = .next (s.countFixed (lineDie (k / 4)))))

/-! ### Answers at a core -/

/-- Answers that reach a core: DATA and EXTEND fill the copy that the request left in P, keeping the bytes that the core has written, and the
loads that wait take their values (R277, R281); a reply for a remote-data cache goes on to its requester (R284). CPBKACK (R279, R285 to
R287), ATOMA (R278, R279, R288), HOLDACK (R325), ACCEPT (R336), APPLY (R335, R450) and RECALL (R328).
What the spec leaves open here is as the model chooses it (log entry 33). -/
def Obligations.AnswersAtCore : Prop :=
  ∀ (s : State) (c : Copy),
    let onTime (k : CoreId) (t : Stamp) : Prop := s.early (CoreId.die k) t = false
    let filled (k : CoreId) (line ref : Nat) (t : Stamp) (f : Copy → Copy) (y : Option Stamp) (i : Instr) : Prop :=
      let s1 := s.focusCore k
      onTime k t → s1.copyOf line = some c → c.st = .p → c.ref = ref →
        exec i s = .next (((s1.putCopy { f c with st := .v, ref := 0 }).bindAll line ref f y).pump)
    (∀ m : DataMsg, m.via = none →
      filled m.dst m.line m.ref m.rts (fun c => { c.fill m.bytes m.poison with wts := m.wts, rts := m.rts, repl := m.repl }) m.ynow (.dataMsg m))
    ∧ (∀ m : ExtendMsg, m.via = none → filled m.dst m.line m.ref m.rts (fun c => { c with rts := m.rts }) m.ynow (.extend m))
    ∧ (∀ (bytes : BitVec 1024) (poison : BitVec 4), ∀ k < 128,
        lineNat (c.fill bytes poison).bytes k 1 = if c.mask.getLsbD k = true then lineNat c.bytes k 1 else lineNat bytes k 1)
    ∧ (∀ (m : DataMsg) (r : LineReq) (own : Stamp), m.via = some r → r.fill = some own → onTime r.src m.rts →
        let x : RdcLine := ⟨m.line, m.wts, m.rts, m.bytes, m.poison, m.repl⟩
        exec (.dataMsg m) s = .next ((s.putRdc (CoreId.die r.src) x).requeue [answerFrom r own (s.die (CoreId.die r.src)).epoch x m.ynow]))
    ∧ (∀ (m : ExtendMsg) (r : LineReq) (own : Stamp), m.via = some r → r.fill = some own → onTime r.src m.rts →
        let d := CoreId.die r.src
        let same (x : RdcLine) : Bool := x.line == m.line && x.wts.read m.rts.ep == r.wts.read m.rts.ep
        (∀ x, (s.die d).rdc.find? same = some x → exec (.extend m) s = .next
          ((s.putRdc d { x with rts := m.rts }).requeue [answerFrom r own (s.die d).epoch { x with rts := m.rts } m.ynow]))
        ∧ ((s.die d).rdc.find? same = none → exec (.extend m) s = .next (s.send (.read { r with wts := ⟨m.rts.ep, 0⟩ }))))
    ∧ (∀ (m : AckMsg) (k : CoreId), Who.core? m.who = some k → onTime k m.wts →
        let s1 := s.focusCore k
        let w := m.wts.read s1.ep
        exec (.cpbkack m) s = .next ((((((s1.raiseNow w).onCore (·.acked m.ref w)).settleCopy m.line).forgetBytes m.line m.mask).clearAll m.ref).pump))
    ∧ (∀ (m : AtomAns) (k : CoreId), m.who = .core k → onTime k m.wts →
        let s1 := s.focusCore k
        let w := m.wts.read s1.ep
        exec (.atoma m) s = .next (((s1.raiseNow w).eachGroup fun t =>
          ((t.atomClocks m.ref w m.ynow).bindAtom m.ref (m.old, m.poison)).clearWait m.ref).pump))
    ∧ (∀ m : HoldMsg, exec (.holdack m) s = .next (((s.focusCore m.core).clearAll m.ref).pump))
    ∧ (∀ (m : BenchAns) (k : CoreId), Who.core? m.who = some k →
        exec (.accept m) s = .next ((s.focusCore k).onCore fun c => { c with accepts := eraseN c.accepts m.ref }))
    ∧ (∀ (m : BenchAns) (k : CoreId), m.who = .core k → onTime k m.wts →
        let s1 := s.focusCore k
        let w := m.wts.read s1.ep
        let saved := s1.contexts.any fun x => x.team.groups.any fun g => g.ops.any fun o => has o.waits m.ref
        (s1.awaited m.ref = true → exec (.apply m) s = .next (((s1.raiseNow w).clearAll m.ref).pump))
        ∧ (s1.awaited m.ref = false → saved = true → exec (.apply m) s = .next { s1 with keptApply := s1.keptApply ++ [m] })
        ∧ (s1.awaited m.ref = false → saved = false → exec (.apply m) s = .next (s1.raiseNow w)))
    ∧ (∀ (m : BenchAns) (k : CoreId) (op : Nat) (o : EngOp), m.who = .engine k op → onTime k m.wts →
        let s1 := s.focusCore k
        let w := m.wts.read s1.ep
        s1.core.engine.find? (·.id == op) = some o →
        let o' := ({ o with waits := eraseN o.waits m.ref, top := max o.top w } : EngOp).settled
        let s2 := (s1.raiseNow w).onEng op fun _ => o'
        exec (.apply m) s = .next (if o'.waits.isEmpty then s2.wakeEng op else s2))
    ∧ (∀ m : RecallMsg,
        let s1 := s.focusCore m.holder
        let s2 := ((s1.core.copies.filter fun c => c.mask != 0 && c.line != m.line).map (·.line)).foldl (fun t l => (t.copyBack l).2) s1
        exec (.recall m) s = .next
          ((s2.onCore fun c => { c with rels := c.rels ++ [⟨none, m.scope, true, s2.core.acks, [], 0, .yield m.line, false⟩] }).pump))

/-- Unit writes and engines (R334, R346 to R350): the second PREPACK commits both lines with one stamp above both, COMMITACK ends the unit, and
COPY_COMPLETE finishes an operation that is performed, stops one that is cancelled, and goes on with another. Accesses and packets from other cores (R247, R316, R357, R488, R619), the
start and end of a macro-op (R362, R363), packets and closes at a binner (R374 to R378), and the next steps of a unit operation (R368).
What the spec leaves open here is as the model chooses it (log entries 34 and 36). -/
def Obligations.FarEffects : Prop :=
  ∀ (s : State),
    (∀ (m : UnitMsg) (o : EngOp) (u : UnitWrite) (us : List UnitWrite),
      let s1 := s.focusCore m.core
      s.early (CoreId.die m.core) m.stamp = false → s1.core.engine.find? (·.id == m.op) = some o → o.units = u :: us →
      let u' := { u with acks := u.acks ++ [m.stamp] }
      let s2 := s1.onEng o.id fun o => { o with units := u' :: us }
      (u.acks = [] → exec (.prepack m) s = .next (s2.send (.prep ⟨u.hi.line, s1.core.id, o.id, o.now⟩)))
      ∧ (∀ t : Stamp, u.acks = [t] →
        let w : Stamp := ⟨s1.ep, max (t.read s1.ep) (m.stamp.read s1.ep) + 1⟩
        exec (.prepack m) s = .next
          ((s2.send (.commit ⟨u.lo.line, s1.core.id, o.id, w, u.lo.mask, u.lo.bytes, u.lo.poison⟩)).send
            (.commit ⟨u.hi.line, s1.core.id, o.id, w, u.hi.mask, u.hi.bytes, u.hi.poison⟩)))
      ∧ (let s2 := s1.focusOp o
         let o' := { o with top := max o.top (m.stamp.read s2.ep) }
         (1 < u.due → exec (.commitack m) s = .next (s2.onEng o.id fun _ => { o' with units := { u with due := u.due - 1 } :: us }))
         ∧ (u.due ≤ 1 → (o.cancelled = false ∨ us = []) → exec (.commitack m) s = .next (s2.nextUnit { o' with units := us }))
         ∧ (u.due ≤ 1 → o.cancelled = true → us ≠ [] →
            exec (.commitack m) s = .next (s2.stepEng { o' with units := [], status := .cancel, left := some [] }))))
    ∧ (∀ (core : CoreId) (op : Nat) (o : EngOp),
      let s1 := s.focusCore core
      s1.core.engine.find? (·.id == op) = some o → o.kept = false →
      let s2 := s1.focusOp o
      let saves := o.cancels && s2.team.pre.any (·.quiesced)
      (o.phase = .performed → exec (.copyComplete core op) s = .next (s2.finishEng o))
      ∧ (o.phase ≠ .performed → o.cancelled = true → (o.kind = .send → o.started = false) →
          exec (.copyComplete core op) s = .next (s2.stepEng { o with status := .cancel, left := some [], units := o.units.take 1 }))
      ∧ (o.phase = .fresh → o.cancelled = false → o.kind ≠ .send →
          (saves = false → exec (.copyComplete core op) s = .next (s2.beginEng o))
          ∧ (saves = true → o.due = false → exec (.copyComplete core op) s = .next (s2.onEng op fun o => { o with kept := true }))))
    ∧ (∀ (m : PeerReq) (t : TeamId),
      let s1 := s.focusCore m.dst
      s1.peerEnd m.group.team.grid = .team t → (∀ c, m.carry = some c → s.early (CoreId.die m.dst) c = false) →
      let r := (s1.focusTeam t).peerPerform m.addr m.kind
      let done : State := match m.carry with | some c => r.2.raiseNow (c.read r.2.ep) | none => r.2
      exec (.peerAccessArrive m) s = .next (done.send (.peerAccessReply ⟨m.src, m.group, m.op, m.lane, m.route, r.1, true⟩)))
    ∧ (∀ (m : PeerAns) (o : MemOp), s.groupHere m.src m.group → (s.seen m.src m.group).grp.ops.find? (·.id == m.op) = some o → m.delivered = true →
        exec (.peerAccessReply m) s = .next
          ((((s.seen m.src m.group).onOp m.op fun o => o.bindLane m.lane m.values).focusGroup (s.focusCore m.src).gid).pump))
    ∧ (∀ (m : XpeerMsg) (t : TeamId),
      let s1 := s.focusCore m.dst
      let runs := (s1.coreOf m.src).engine.any fun o => o.id == m.op && !o.cancelled
      s.early (CoreId.die m.dst) m.now = false →
      (s1.peerEnd m.grid = .team t → exec (.xpeerWriteArrive m) s = .next (if runs then
        (((s1.focusTeam t).localWrite m.addr 4 (m.value.setWidth 64) m.poison).raiseNow (m.now.read s1.ep)).farWord m.src m.op .ok
        else s1.farWord m.src m.op .cancel))
      ∧ (s1.peerEnd m.grid = .nobody → exec (.xpeerWriteArrive m) s = .next (s1.farWord m.src m.op .route)))
    ∧ (∀ (m : PacketMsg) (t : TeamId),
      let s1 := s.focusCore m.dst
      s1.peerEnd m.grid = .team t → s.early (CoreId.die m.dst) m.packet.now = false →
      let s2 := s1.focusTeam t
      s2.team.inbox.length < 8 → exec (.packetArrive m) s = .next
        ((({ s2 with team := { s2.team with inbox := s2.team.inbox ++ [m.packet] } } : State).serveInbox (s2.team.precvs.length + 1)).farDone
          m.src m.op .ok))
    ∧ (∀ (die quad : Nat) (m : MacroOp) (ta tb : Ty) (v : Bool),
      let q := s.quad die quad
      q.running = none → q.head = some m → m.kind = .mma ta tb v → s.quartersReady die m.quad = true →
      let r := (s.quadCores die m.quad).foldl (fun (a : List Quarter × State) c => ((a.1 ++ (a.2.takeQuarter c).1, (a.2.takeQuarter c).2)))
        ([], s.putQuad { q.pop with running := some m })
      exec (.mmaStart die quad) s = .next
        ((r.2.putQuad { r.2.quad die quad with running := some { m with quarters := r.1 } }).after (r.2.macroClk die m) (.macroOpComplete die quad)))
    ∧ (∀ (die quad : Nat) (m : MacroOp), (s.quad die quad).running = some m →
      let s1 := s.macroEffect die m
      let s2 := (s1.putQuad { s1.quad die quad with running := none }).kick die quad
      exec (.macroOpComplete die quad) s = .next
        ((s2.atCore m.core fun t => t.eachGroup State.poll).atCore m.ctl fun t => t.eachGroup State.poll))
    ∧ (∀ m : BinMsg, s.early m.die m.packet.now = false → exec (.binnerPacketArrive m) s = .next (s.onPass m.die m.grid fun p =>
        if p.live then ({ p with waiting := p.waiting ++ [.binnerPacketArrive m] } : Pass).takeWaiting.relieve else p))
    ∧ (∀ m : CloseMsg, exec (.binnerCloseArrive m) s = .next (s.onPass m.die m.grid fun p =>
        if p.live then ({ p with waiting := p.waiting ++ [.binnerCloseArrive m] } : Pass).takeWaiting.relieve else p))
    ∧ (∀ (core : CoreId) (op : Nat) (o : UnitOp), (s.focusCore core).core.units.find? (·.id == op) = some o → s.groupHere core o.gid →
        exec (.unitResultWrite core op) s = .next
          (((s.seen core o.gid).unitRun 4096 { o with asleep := false }).focusGroup (s.focusCore core).gid))

/-- Messages between barrier objects (R354, R356, R493, R497): a remote arrival or drop is judged and answered, a wait is answered at once when
the phase differs and registered otherwise, a forwarded completion that its second level accepts completes the first-level object, and a LEAVE
takes one from LIVE, or defers it for a team that has arrived.
What the spec leaves open here is as the model chooses it (log entries 40, 43 and 58). -/
def Obligations.BarrierMessages : Prop :=
  ∀ (s : State),
    (∀ (m : ArriveMsg) (t : TeamId),
      let s1 := (s.focusCore m.dst).focusTeam t
      (s.focusCore m.dst).peerEnd m.group.team.grid = .team t → s1.team.lrec.isObject m.addr = true →
      (m.kind = .arrive ∨ m.kind = .drop →
        let r := s1.arriveBar m.addr none (m.kind == .drop) ⟨m.addr, m.group.team, none⟩ none
        exec (.arrive m) s = .next (r.2.send (.arriveReply ⟨m.src, m.group, m.srcObj, false, r.1, m.lanes,
          if m.kind == .drop && r.1 != 0 then some ⟨m.src, m.route, m.dst, m.group.team, m.addr, none⟩ else none⟩)))
      ∧ (∀ par, m.kind = .wait par → (s1.bar m.addr).broken = false →
        ((s1.bar m.addr).phase ≠ par →
          exec (.arrive m) s = .next (s1.send (.barwaitReply ⟨m.src, m.group, m.addr, (s1.bar m.addr).count, 0, m.lanes, none⟩)))
        ∧ ((s1.bar m.addr).phase = par → exec (.arrive m) s = .next
            { s1 with team := { s1.team with barWaiters := s1.team.barWaiters ++ [⟨m.src, m.group, m.addr, par⟩] } })))
    ∧ (∀ m : ArriveAns,
      let s1 := s.focusCore m.dst
      s1.followTeam m.group.team m.dst (fun c => .arriveReply { m with dst := c }) = none → m.detail = 0 → m.leave = none →
      (m.forward = true → (s1.focusTeam m.group.team).team.id = m.group.team → ((s1.focusTeam m.group.team).bar m.obj).fwd = true →
        exec (.arriveReply m) s = .next ((s1.focusTeam m.group.team).completeBar m.obj))
      ∧ (m.forward = false → s.groupHere m.dst m.group → (∃ r ∈ (s.seen m.dst m.group).grp.arrs, r.1 = m.obj) →
        groupDoes s (.arriveReply m) m.dst m.group fun t => t.onGrp fun g => { g with arrs := g.arrs.filter (·.1 != m.obj) }))
    ∧ (∀ (m : LeaveMsg) (t : TeamId),
      let s1 := (s.focusCore m.dst).focusTeam t
      (s.focusCore m.dst).peerEnd m.team.grid = .team t → s1.team.lrec.isObject m.addr = true → (s1.bar m.addr).count = true →
      let here := s1.team.arrivals.any fun r => r.addr == m.addr && r.obj == m.obj && (m.obj.isSome || r.team == m.team)
      exec (.leave m) s = .next (s1.stepBar m.addr fun o => if here then { o with defl := o.defl + 1 } else { o with live := o.live - 1 }))

/-! ### Translations, epochs and the maintenance of a core -/

/-- Walks (R260 to R263, R265): a walker reads one entry at a time and goes down, the other walkers of its die that read the line share what
comes, and the result is held for the next issue; one that meets a not-present entry asks the page service, or for a hint is unresolved; the
page service gives a demand-zeroed leaf a zeroed frame of the pool, and the walk goes on; and an answer of the control node sends the walks of its fault on or ends them. Invalidation of translations (R269, R270). The
rebase of a die (R297 to R301): at a start to its next epoch the die counts it, `%now` of its cores falls by 0x80_0000 but not below 1,
the sweep follows, and what waited at its cores for the start looks again; after the sweep every stored timestamp stands in the epoch. BRBCMD (R308), the commands on replicated pages (R305,
R309), retention (R302), parity (R438) and the scrub of a core store (R127, R438).
What the spec leaves open here is as the model chooses it (log entries 55, 86 and 90). -/
def Obligations.TranslationAndUpkeep : Prop :=
  (∀ (s : State),
    (∀ (m : WalkReq) (w : Walking),
      let d := CoreId.die m.core
      s.walker m = some w → s.tableHeld w = false →
      (let s1 := (if s.dieAbsent (paDie w.entry) then s else s.useLines [w.entry / 128]).shareRead w
       (∀ x ∈ (s.die d).walking, x.req ≠ m → x.entry / 128 = w.entry / 128 → .walkComplete x.req ∈ s.agenda → .walkComplete x.req ∈ s1.arrived)
       ∧ (∀ o, s1.readEntry w = .out o → exec (.walkComplete m) s = .next (s1.endWalk m o))
       ∧ (∀ l a e, s1.readEntry w = .absent l a e →
         (m.kind = 5 → exec (.walkComplete m) s = .next (s1.endWalk m .unresolved))
         ∧ (m.kind ≠ 5 → (s1.die d).dutySel.getLsbD 2 = false →
            exec (.walkComplete m) s = .next { s1 with agenda := s1.agenda ++ [.pageServiceResolve m] })
         ∧ (m.kind ≠ 5 → (s1.die d).dutySel.getLsbD 2 = true → ∃ t q, exec (.walkComplete m) s = .next t
            ∧ (t.die d).faultRecs = (s1.die d).faultRecs ++ [(q, m)]))
       ∧ (∀ e, s1.readEntry w = .down e → ∃ t, exec (.walkComplete m) s = .next t
         ∧ t.agenda = s1.agenda ++ [.walkComplete m] ∧ t.walker m = some ⟨m, w.level - 1, pteAddr e⟩
         ∧ ⟨m.asid, w.level, m.va / 2 ^ levelBit w.level * 2 ^ levelBit w.level, e⟩ ∈ (t.die d).walkCache))
      ∧ (∀ level a e, s.readEntry w = .absent level a e →
        let lazy := level ≤ 1 ∧ pteDz e = true ∧ pteAttr e = 0 ∧ pteLeaf e = true
        let r := (s.die d).takeFrame level
        let s1 := s.onDie d fun _ => r.2
        (∀ frame, lazy → r.1 = some frame → exec (.pageServiceResolve m) s = .next
          (((s1.zeroFrame frame (levelBit level)).firmwareWrite a 8 (resolvedPte e frame).toNat).send (.walkComplete m)))
        ∧ (lazy → r.1 = none → exec (.pageServiceResolve m) s = .next (s1.endWalk m .unresolved))
        ∧ (¬ lazy → exec (.pageServiceResolve m) s = .next (s.endWalk m .unresolved)))
      ∧ ((∀ level a e, s.readEntry w ≠ .absent level a e) → exec (.pageServiceResolve m) s = .next (s.send (.walkComplete m))))
    ∧ (∀ (frame size a : Nat), frame ≤ a → a < frame + 2 ^ size →
        (s.zeroFrame frame size).byte a = s.unlisted a ∧ (s.zeroFrame frame size).unlisted = s.unlisted)
    ∧ (∀ (k : Nat) (v : DWord),
      let mine := (s.die k).faultRecs.filter (·.1 == v.setWidth 32)
      let s2 := s.onDie k fun x => { x with faultRecs := x.faultRecs.filter (·.1 != v.setWidth 32) }
      exec (.pagereplyWrite k v) s = .next
        (if v.getLsbD 32 = true then { s2 with agenda := s2.agenda ++ mine.map fun r => .walkComplete r.2 }
        else mine.foldl (fun t r => t.endWalk r.2 .unresolved) s2))
    ∧ (∀ (k : Nat) (v : Word), s.dieAbsent k = false → (s.die k).tinv.busy = false → v.getLsbD 31 = true →
        exec (.tinvGo k v) s = .next
          ((s.onDie k fun x => { x with tinv := { x.tinv with cmd := v.extractLsb' 0 17, busy := true } }).send (.tinvDone k)))
    ∧ (∀ k : Nat, (s.die k).tinv.busy = true →
      let asid := (s.die k).tinv.cmd.toNat % 2 ^ 16
      ((s.die k).tinv.since = none → ∃ t, exec (.tinvDone k) s = .next t
        ∧ (let waits := (s.dropRange k).unsentAt k asid s.fresh
           (t.die k).tinv = { (s.die k).tinv with busy := waits, since := if waits then some s.fresh else none })
        ∧ (∀ c ∈ t.core :: t.cores, CoreId.die c.id = k → ∀ l ∈ c.ltc, (s.die k).tinv.covers l.asid l.va (2 ^ l.size) = false)
        ∧ (∀ c ∈ t.core :: t.cores, CoreId.die c.id = k → ∀ h ∈ c.walkOuts, (s.die k).tinv.covers h.asid (h.page * 2 ^ 16) (2 ^ 16) = false)
        ∧ (∀ c ∈ t.clusters, c.die = k → ∀ l ∈ c.tc, (s.die k).tinv.covers l.asid l.va (2 ^ l.size) = false)
        ∧ ((s.die k).tinv.cmd.getLsbD 16 = true → ∀ w ∈ (t.die k).walkCache, (s.die k).tinv.covers w.asid w.va (2 ^ levelBit w.level) = false))
      ∧ (∀ n, (s.die k).tinv.since = some n → s.unsentAt k asid n = false →
          exec (.tinvDone k) s = .next (s.onDie k fun x => { x with tinv := { x.tinv with busy := false, since := none } }))))
  ∧ (∀ (s : State) (d : Nat),
    (∀ ep, s.dieAbsent d = false → (s.die d).epoch + 1 = ep → ∃ t : State, exec (.rebaseStart d ep) s = .next (t.wakeDie d)
      ∧ (t.die d).epoch = ep ∧ (t.die d).rebases = (s.die d).rebases + 1 ∧ (t.die d).sweeping = true ∧ (t.die d).rebaseReq = false
      ∧ t.agenda = s.agenda ++ [.sweepDone d] ∧ t.arrived = (s.die d).stalled ++ s.arrived
      ∧ t.cores.length = s.cores.length
      ∧ ∀ k, k ∈ (s.core, t.core) :: s.cores.zip t.cores → k.2.now = if CoreId.die k.1.id = d ∧ k.1.retained = false
          then ⟨ep, max k.1.now.tick 0x800001 - 0x800000⟩ else k.1.now)
    ∧ (∃ t, exec (.sweepDone d) s = .next t ∧ (t.die d).sweeping = false
      ∧ (∀ h ∈ t.homes, lineDie h.line = d → h.wts.ep = (s.die d).epoch ∧ h.rts.ep = (s.die d).epoch)
      ∧ (∀ x ∈ t.slices, x.die = d → x.mts.ep = (s.die d).epoch)
      ∧ (∀ c ∈ t.core :: t.cores, CoreId.die c.id = d → c.retained = false → ∀ x ∈ c.copies, x.wts.ep = (s.die d).epoch ∧ x.rts.ep = (s.die d).epoch)
      ∧ (∀ x ∈ t.allGroups, CoreId.die x.1 = d → x.2.2.horizon.ep = (s.die d).epoch)
      ∧ ∀ x ∈ (t.die d).rdc, x.wts.ep = (s.die d).epoch ∧ x.rts.ep = (s.die d).epoch)
    ∧ (∀ v : Word, s.dieAbsent d = false → v.getLsbD 0 = true → (s.die d).rebaseReq = true → (s.die d).hostRb = true → (s.die d).rebaseGo = false →
      exec (.brbcmdStart d v) s = .next (if s.rebasing = true then s.onDie d fun x => { x with rebaseGo := true }
        else { s with agenda := s.agenda ++ s.present.map fun k => .rebaseStart k ((s.die d).epoch + 1) }))
    ∧ (∀ (v : Word) (p : ReplPage), s.dieAbsent d = false → (s.die d).rplBusy = none → v.getLsbD 31 = true → v.extractLsb' 0 2 ≠ 3 →
      let frame := (s.die d).rplAddr.toNat / 2 ^ 16 % 2 ^ 36 * 2 ^ 16
      frame % 2 ^ rplSize v = 0 → (s.die d).replDir.find? (·.frame == frame) = some p →
      let s1 := s.onDie d fun x => { x with rplCmd := v.extractLsb' 0 3, rplNoent := false }
      let down (b : Bool) : State := s1.onDie d fun x => { x with replDir := x.replDir.map fun q => if q.frame = p.frame then { q with down := b } else q }
      exec (.rplcmdClearDown d v) s = .next (down false)
      ∧ (p.dies = [] → exec (.rplcmdTeardown d v) s = .next (down true))
      ∧ (p.dies ≠ [] → exec (.rplcmdTeardown d v) s = .next
          (p.dies.foldl (fun t k => t.send (.drop ⟨d, k, p.frame, p.size⟩)) ((down true).onDie d fun x => { x with rplBusy := some p.frame }))))
    ∧ (∀ c : CoreId,
      let s1 := (s.focusCore c).stowTeam
      (s1.core.teams = [] → s1.core.retained = false → s1.dieAbsent (CoreId.die c) = false → exec (.coreRetentionEntry c) s = .next
        (s1.onCore fun k => { k with retained := true, retainedAt := (s1.die (CoreId.die c)).rebases }))
      ∧ ∃ t, exec (.coreRetentionWake c) s = .next t ∧ t.core.retained = false
        ∧ ((s.focusCore c).core.retained = true →
          let e := (s.focusCore c).ep
          let k := (s.focusCore c).core
          let missed := ((s.die (CoreId.die c)).rebases - k.retainedAt).toNat
          t.core.now = ⟨e, if missed = 0 then k.now.tick else if missed = 1 then max k.now.tick 0x800001 - 0x800000 else 1⟩
          ∧ (∀ x ∈ t.core.copies, x.wts.ep = e ∧ x.rts.ep = e)
          ∧ (2 ≤ missed → ∀ x ∈ t.core.copies, x.st = .p ∨ x.st = .w)))
    ∧ (∀ (c : CoreId) (g : GridId) (x : Team), (s.focusCore c).coreTeams.find? (·.id.grid == g) = some x →
        exec (.parityError c (.grid g)) s = .next (((s.focusCore c).focusTeam x.id).killGrid 8 8))
    ∧ (∀ (c : CoreId) (quad n row : Nat), let s1 := s.focusCore c
       let a := s1.acc (CoreId.die c) quad n
       (s1.acc (CoreId.die c) quad (pairOf n)).tag ≠ .f64 → a.tag ≠ .z →
        exec (.parityError c (.row quad n row)) s = .next
          (s1.putAcc (CoreId.die c) quad n { a with bad := a.bad ||| BitVec.ofNat 64 (2 ^ row) }))
    ∧ (∀ (c : CoreId) (k : Nat), k < 16384 → exec (.coreStoreScrub c [⟨k, true⟩]) s = .next ((s.focusCore c).countFixed (CoreId.die c)))
    ∧ (∀ (c : CoreId) (k : Nat), k / 16 < 1024 - (s.focusCore c).core.partRows → k < 16384 → ∃ t, exec (.coreStoreScrub c [⟨k, false⟩]) s = .next t
        ∧ t.core.store = (s.focusCore c).core.store
        ∧ ∀ e, has t.core.storePoison e = (decide (e / 2 = k) || has (s.focusCore c).core.storePoison e)))

/-! ### Launches and teams -/

/-- A launch (R406 to R408, R413, R414, R416, R636): the request is checked and forwarded, its record is judged and joins its queue under the next
number, the head whose waits are met departs, and its dies take the ranks that fall on them; a request that would raise `%now` past its largest value waits for a
rebase (R301). Placement (R418 to R424) and start messages
(R412, R423, R424).
What the spec leaves open here is as the model chooses it (log entries 50, 51, 52 and 72). -/
def Obligations.LaunchPath : Prop :=
  ∀ (s : State) (d : Nat),
    (∀ m : LaunchReq, s.early d m.now = false → s.requestStalls d m = true →
      exec (.launchRequest d m) s = .next (s.stall d (.launchRequest d m)) ∧ exec (.launchLeadRequest d m) s = .next (s.stall d (.launchLeadRequest d m)))
    ∧ (∀ m : LaunchReq, s.early d m.now = false → s.requestStalls d m = false →
      let s1 := s.takeRequest d m
      let r := s1.readRecord m [(m.record + 0x22, 2)]
      let rs := s1.readRecord m ((List.range 8).map fun k => (m.record + 128 * k, 128))
      (m.record % 128 ≠ 0 → exec (.launchRequest d m) s = .next (s1.answerLaunch m 5 d 0))
      ∧ (m.record % 128 = 0 → r.1.1 = .wait →
        exec (.launchRequest d m) s = .next (r.2.later 1 (.launchRequest d r.1.2)))
      ∧ (m.record % 128 = 0 → r.1.1 = .bad → exec (.launchRequest d m) s = .next (r.2.answerLaunch m 5 d 0))
      ∧ (∀ bs, m.record % 128 = 0 → r.1.1 = .data bs →
        let x := recField bs 0 1
        let y := recField bs 1 1
        exec (.launchRequest d m) s = .next (if 7 < x ∨ 4 < y then r.2.answerLaunch m 1 d 0
          else r.2.send (.launchLeadRequest (y * 8 + x) { m with begun := false, got := [] })))
      ∧ (rs.1.1 = .wait → exec (.launchLeadRequest d m) s = .next (rs.2.later 1 (.launchLeadRequest d rs.1.2)))
      ∧ (rs.1.1 = .bad → exec (.launchLeadRequest d m) s = .next (rs.2.answerLaunch m 5 d 0))
      ∧ (∀ bs, rs.1.1 = .data bs →
        let st := rs.2.launchStatus d bs
        let lid := (rs.2.die d).nextLid
        let s2 := rs.2.onDie d fun x => { x with nextLid := if lid = 65535 then 1 else lid + 1 }
        (st ≠ 0 → exec (.launchLeadRequest d m) s = .next (rs.2.answerLaunch m st d 0))
        ∧ (st = 0 → exec (.launchLeadRequest d m) s = .next
          ((({ s2 with grids := s2.grids ++ [{ id := ⟨d, lid⟩, lrec := LaunchRecord.parse bs }] } : State).answerLaunch m 0 d lid).send (.queueDepart d)))))
    ∧ (let s1 := (s.focusCore (.disp d)).judgeWaits d
       (∀ g, s1.leaving d = some g → g.lrec.regionDies.filter s1.jumpPasses = [] →
          exec (.queueDepart d) s = .next ((s1.depart g).send (.queueDepart d)))
       ∧ (∀ g, s1.leaving d = some g → g.lrec.regionDies.filter s1.jumpPasses ≠ [] → exec (.queueDepart d) s = .next
          (((g.lrec.regionDies.filter s1.jumpPasses).foldl State.requestRebase s1).later 1 (.queueDepart d)))
       ∧ (s1.leaving d = none → s1.waitsOpen d = true → exec (.queueDepart d) s = .next (s1.later 1 (.queueDepart d)))
       ∧ (s1.leaving d = none → s1.waitsOpen d = false → exec (.queueDepart d) s = .next s1))
    ∧ (∀ grid, exec (.launchDistribute d grid) s = .next
        ({ s with grids := s.grids.map fun (x : Grid) => if x.id = grid then (if has x.dies d then x
            else { x with dies := d :: x.dies, pending := x.pending ++ x.lrec.ranksOn d }) else x }.send (.teamPlacement d)))
    ∧ (s.stopped d = false →
      let r := s.stowTeam.placeRound d (4 * 65536) []
      exec (.teamPlacement d) s = .next ((r.2.stowTeam).sendStarts r.1))
    ∧ (∀ (c : CoreId) (grid : GridId) (t : Team) (ts : List Team),
      let s1 := (s.focusCore c).stowTeam
      (s1.core.teams.filter fun t => t.id.grid == grid && t.unstarted) = t :: ts →
      let late := (s1.grids.find? fun (g : Grid) => g.id == grid).any (·.late)
      let s2 := (t :: ts).foldl (fun s t => s.startTeam t late) (s1.wakeCore.startRoutes t.lrec.roles)
      exec (.startMessage c grid) s = .next (if t.lrec.starten && !late then s2.send (.launchStartTime c grid) else s2))

/-- The end of teams and grids (R97, R238, R294, R417, R436), dispatch code (R401 to R404), and mapping out a die (R46, R80).
What the spec leaves open here is as the model chooses it (log entries 24, 59, 60 and 72). -/
def Obligations.TeamsAndGrids : Prop :=
  ∀ (s : State) (d : Nat),
    (∀ (c : CoreId) (t : TeamId), (s.focusCore c).coreTeams.any (·.id == t) = true →
      let s1 := ((((s.focusCore c).focusTeam t).leaveObjects).eachGroup State.poll).wakeControl
      ∀ x, s1.coreTeams.find? (·.id == t) = some x →
        let s2 := (x.groups.filter fun g => g.wait.any fun w => w.what == .rendezvous).foldl (fun s g => s.send (.regroupJoin c ⟨t, g.num⟩)) s1
        exec (.teamEnd c t) s = .next (if x.over then s2.endTeam x else s2))
    ∧ (∀ x : Grid, (s.grids.find? fun (g : Grid) => g.id == x.id) = some x →
      (x.closing = some [] →
        (x.lrec.regionDies.filter s.jumpPasses = [] → exec (.gridEnd x.id) s = .next (s.finishGrid x))
        ∧ (x.lrec.regionDies.filter s.jumpPasses ≠ [] → exec (.gridEnd x.id) s = .next
            (((x.lrec.regionDies.filter s.jumpPasses).foldl State.requestRebase s).later 1 (.gridEnd x.id))))
      ∧ (x.closing = none → s.killOf x.id = none → x.over = true →
        let cs := s.regionCores x.lrec
        let s1 := s.onGrid x.id fun y => { y with closing := some cs }
        exec (.gridEnd x.id) s = .next (if cs.isEmpty then s1.send (.gridEnd x.id) else cs.foldl (fun s c => s.endRelease x.id c) s1))
      ∧ (∀ k, x.closing = none → s.killOf x.id = some k →
        let s0 := s.clearKilled x.id
        let cs := s0.regionCores x.lrec
        let s1 := s0.onGrid x.id fun y => { y with closing := some cs }
        exec (.gridEnd x.id) s = .next (if cs.isEmpty then s1.send (.gridEnd x.id) else cs.foldl (fun s c => s.endRelease x.id c) s1)))
    ∧ (∀ m : ControlMsg, s.dieAbsent d = false →
      let sound := 1 ≤ m.len ∧ m.len ≤ 1023 ∧ m.reservedSet = false
      (¬ sound → exec (.controlMessage d m) s = .next
        ((s.sendUp (upMessage 1 d [(8, 8, m.tag.toNat), (0x10, 4, m.seq.toNat), (0x14, 4, 2)])).send (.fragmentStart d)))
      ∧ (∀ p, sound → s.freePlace d = some p → exec (.controlMessage d m) s = .next ((s.placeMessage d p m s.portNow).send (.fragmentStart d))))
    ∧ (∀ (m : PlacedMsg) (ms : List PlacedMsg),
      let s1 := (s.focusCore (.disp d)).drainPort d
      s1.core.frag = none → (s1.die d).msgs = m :: ms →
      let s2 := (s1.onDie d fun x => { x with msgs := ms }).unseat (fragTeam d)
      let s3 := s2.onCore fun c => { c with
        frag := some ⟨m.msg.tag, m.msg.seq, m.place⟩, teams := fragmentTeam d m.place (s1.die d).dispCtx :: c.teams }
      exec (.fragmentStart d) s = .next (((s3.raiseNow (m.now.read s3.ep)).focusGroup ⟨fragTeam d, 0⟩).onGrp fun g => g.ready s3.clk))
    ∧ ((s.die d).spare = false →
      let s1 := (s.onDie d fun x => { x with spare := true }).focusCore (.disp d)
      exec (.dispatchFailover d) s = .next (if s1.core.frag.isSome then (s1.focusGroup ⟨fragTeam d, 0⟩).endFragment 1 {} else s1))
    ∧ (s.dieAbsent d = false → (s.die d).fwd.st = .orphan → (s.die d).held = true → ∃ t, exec (.dieMapOut d) s = .next t
        ∧ t.dieAbsent d = true ∧ (∀ x ∈ t.contexts, CoreId.die x.core ≠ d) ∧ ∀ g ∈ t.grids, ∀ r ∈ g.pending, g.lrec.dieOf r ≠ d)

/-- Pre-emption (R119, R441 to R452): the decision starts the mode chosen for the gang, a drain whose budget is spent becomes a save, the quiesce
deadline keeps what is incomplete for reissue, a settled gang releases and is captured, the transfer frees the rows, and a restore places the
context. The requests and answers of the control node (R465, R466). Saved contexts (R446 to R452, R465, R466): the end of a transfer, the restore of a context that is pending, the answer of the control node
about a mode, and a resume that lets kept teams join their grid again.
What the spec leaves open here is as the model chooses it (log entry 53). -/
def Obligations.PreemptionAndRestore : Prop :=
  (∀ (s : State) (t : TeamId) (c : CoreId) (x : Team), s.findTeam t = some (c, x) →
    let gang := s.gangTeams t
    let all (f : Team → Team) : State := (s.stowTeam).mapTeams (fun _ => true) (fun y => if (gang.map (·.2.id)).contains y.id then f y else y) fun _ g => g
    (s.gangHeld t = false → x.pre = none → (s.die (CoreId.die c)).dutySel.getLsbD 3 = false → ∀ mode,
      exec (.preemptDecision t mode) s = .next (s.beginPre (gang.map (·.2.id)) (s.preMode gang mode) false none))
    ∧ (∀ p, s.gangHeld t = false → x.pre = some p →
      (p.mode = 1 → exec (.preemptDecision t 1) s = .next (s.flushStep t))
      ∧ (p.mode = 0 → x.lrec.budget ≤ p.clk → exec (.drainBudgetExpiry t) s = .next
          (all fun y => { y with pre := y.pre.map fun q => if q.mode = 0 then { q with mode := 2, clk := 0 } else q }))
      ∧ (p.mode = 2 → x.lrec.budget / 2 ≤ p.clk →
        let s1 := (s.focusCore c).focusTeam t
        exec (.quiesceDeadline t) s = .next
          (({ s1 with team := { s1.team with pre := s1.team.pre.map fun p => { p with quiesced := true } } } : State).onCore fun k =>
            { k with engine := k.engine.map fun (o : EngOp) => if o.team = t ∧ o.cancels = true ∧ o.due = false then { o with kept := true } else o }))
      ∧ (p.mode = 2 → p.releasing = false → (∀ y ∈ gang, y.2.pre.any (·.mode == 2) = true ∧ settled (s.coreOf y.1) y.2 = true ∧ s.packetsTaken y.2.id = true) →
          exec (.saveCapture t) s = .next (gang.foldl (fun s y => s.releaseTeam y.1 y.2.id) s))
      ∧ (p.mode = 2 → p.releasing = true → (∀ y ∈ gang, y.2.gone = true) →
          exec (.saveCapture t) s = .next (gang.foldl (fun s y => s.capture y.1 y.2) s)))
    ∧ (∀ (d : Nat) (v : DWord), s.dieAbsent d = false → (s.die d).pm.busy = false → pmTeam v = t →
      let s1 := s.onDie d fun x => { x with pm := { x.pm with req := v &&& 0x20FFFFFFFFFFFFFF, busy := true, notFound := false } }
      let ts := s1.gangTeams t
      let mode := s1.preMode ts (v.toNat / 2 ^ 48 % 4)
      let s2 := s1.beginPre ((ts.map (·.2.id)).filter (· != t)) mode (v.getLsbD 61) none
      exec (.pmreqGo d v) s = .next (s2.beginPre [t] (s2.preMode ts (v.toNat / 2 ^ 48 % 4)) (v.getLsbD 61) (some d))))
  ∧ (∀ (s : State) (t : TeamId),
    (∀ x, s.contexts.find? (fun (y : Context) => y.team.id == t) = some x → exec (.contextTransferDone t) s = .next
      ({ s with contexts := s.contexts.map fun (y : Context) => if y.team.id = t then { y with moving := false } else y }.send (.teamPlacement (CoreId.die x.core))))
    ∧ (∀ x c base, s.contexts.find? (fun (y : Context) => y.team.id == t && (!y.moving && !y.keep)) = some x → s.fitBase c x.team.lrec = some base →
        exec (.restore t c) s = .next (s.restore x c base))
    ∧ (∀ (d : Nat) (v : DWord) (a : BitVec 32 × TeamId), s.dieAbsent d = false → v.toNat / 2 ^ 32 % 4 ≠ 3 →
        (s.die d).pm.asked.find? (·.1 == v.setWidth 32) = some a → exec (.pmreplyWrite d v) s = .next
          ((s.onDie d fun x => { x with pm := { x.pm with asked := x.pm.asked.filter (·.1 != v.setWidth 32) } }).send
            (.preemptDecision a.2 (v.toNat / 2 ^ 32 % 4))))
    ∧ (∀ (d : Nat) (v : DWord), s.dieAbsent d = false → (s.die d).pm.busy = false → pmTeam v = t → ∃ u, exec (.pmreqResume d v) s = .next u
        ∧ (∀ x ∈ u.contexts, x.team.id.grid = t.grid → has (s.keptRanks t) x.team.id.rank = true → x.keep = false)
        ∧ (∀ g ∈ u.grids, g.id = t.grid → ∀ r ∈ g.kept, has (s.keptRanks t) r = false)))

/-! ### Peer ports, the control port and management -/

/-- Peer ports (R457 to R461, R464): a posting is checked, sent or made to wait; acknowledgements and refusals end it, its frames leave again up to
8 times, and link-up restarts SEQ. A frame that arrives waits behind the earlier ones of its port; one that fails its check is discarded.
What the spec leaves open here is as the model chooses it (log entry 56). -/
def Obligations.PeerPorts : Prop :=
  ∀ (s : State) (port : Nat), port < 16 →
    let p := s.port port
    (∀ a,
      (64 ≤ p.posts.length ∨ p.waiting ≠ [] → exec (.pqpostWrite port a) s = .next (s.onPort port fun p => { p with waiting := p.waiting ++ [a] }))
      ∧ (p.posts.length < 64 → p.waiting = [] → ∀ ls, s.postLines a = ls → (∀ l ∈ ls, s.lineHeld p.now.ep p.now l (ls.length + 1) = false) →
        let s1 := ls.foldl (fun s l => s.portSaw port l ((s.homeWts l).read (s.homeEp l))) (s.useLines ls)
        (s.descBad a = true → exec (.pqpostWrite port a) s = .next (s1.onPort port fun p => { p with err := p.err + 1, postNo := p.postNo + 1 }))
        ∧ (s.descBad a = false → exec (.pqpostWrite port a) s = .next (s1.onPort port fun x =>
            let r := s.copyFrames port p.postNo a
            { x with postNo := x.postNo + 1, posts := x.posts ++ [{ num := x.postNo, frames := r.1, poisoned := r.2 : Post }] }.leaveAll s1.clk))))
    ∧ (∀ (f : PeerFrame) (x : Post), f.port = port → f.good = true → (p.posts.find? fun x => x.num == f.post && x.left) = some x →
      let q : BitVec 32 := f.value.setWidth 32
      let y : Post := { x with acked := if x.frames.any (fun g => g.2.seq == q) then q :: x.acked else x.acked }
      let s1 := s.onPort port fun p => { p with posts := p.posts.map fun z => if z.num = x.num then y else z }
      exec (.peerAcknowledgement f) s = .next (if y.complete then s1.endPost port x.num true else s1))
    ∧ (∀ f : PeerFrame, f.port = port → f.good = true → (p.posts.any fun x => x.num == f.post) = true →
        exec (.peerRefusal f) s = .next (s.endPost port f.post false))
    ∧ (∀ (num : BitVec 32) (x : Post), (p.posts.find? fun x => x.num == num && x.left) = some x →
      (8 ≤ x.tries → exec (.peerResendTimeout port num) s = .next (s.endPost port num false))
      ∧ (x.tries < 8 → exec (.peerResendTimeout port num) s = .next (s.onPort port fun p => { p with
          sent := p.sent ++ x.frames
          posts := p.posts.map fun y => if y.num = num then { y with tries := y.tries + 1, sentAt := s.clk } else y })))
    ∧ (exec (.peerPortLinkUp port) s = .next (s.onPort port fun p =>
        ({ p with up := true, seq := 0, seen := [], posts := p.posts.map fun (x : Post) => { x with left := false, acked := [] } } : Port).leaveAll s.clk))
    ∧ (exec (.peerFrameDiscard port) s = .next (s.onPort port fun p => { p with discarded := p.discarded + 1 }))
    ∧ (∀ f : PeerFrame, f.port = port → ∀ i, i ∈ [(1, Instr.peerCopyData f), (2, .peerCopyEnd f), (3, .peerSemaphoreAdd f)] →
      (f.good = false → exec i.2 s = .next (s.onPort port fun p => { p with discarded := p.discarded + 1 }))
      ∧ (f.good = true → p.inbox ≠ [] → exec i.2 s = .next (s.onPort port fun p => { p with inbox := p.inbox ++ [(i.1, f)] }))
      ∧ (f.good = true → p.inbox = [] → s.frameReady i.1 f = true → ∃ t : State, exec i.2 s = .next (t.performFrame i.1 f)
          ∧ t.mem = s.mem ∧ t.port port = p))

/-- The control port and management (R454 to R456, R462 to R467): a window request is performed when it can be and waits otherwise; lost lanes;
the answers of the management controller; and a firmware update that verifies extends every attestation record, or is discarded.
What the spec leaves open here is as the model chooses it (log entries 45, 57 and 61). -/
def Obligations.ControlAndManagement : Prop :=
  ∀ (s : State),
    (∀ (m : WindowReq), ∀ x ∈ [(WinKind.read, Instr.windowRead m), (.write, .windowWrite m), (.add, .windowAtomicAdd m)],
      exec x.2 s = .next (if s.windowReady s.windows (x.1, m) = true then s.performWindow x.1 m else { s with windows := s.windows ++ [(x.1, m)] }))
    ∧ (∀ m : UpAns, exec (.windowUpstreamReply m) s = .next (s.sysAnswer m))
    ∧ (∀ lane, exec (.controlLaneLoss lane) s = .next { s with lanesLost := insertN s.lanesLost lane })
    ∧ (let tells (i : Instr) (m : MgmtMsg) : Prop := exec i s = .next { s with mgmt := s.mgmt ++ [m] }
       tells .pldmBaseDiscovery .baseDiscovery
       ∧ (∀ k < 40, tells (.pldmSensorRead (81 + k)) (.sensor (81 + k) (BitVec.ofNat 64 (s.die k).corrected)))
       ∧ (∀ k < 40, tells (.pldmSensorRead (121 + k))
            (.sensor (121 + k) (if Panel.noPlace s.dies k = true then 0xFF else BitVec.ofNat 64 (skewClass (s.depthOf k)))))
       ∧ (∀ k ≥ 161, tells (.pldmSensorRead k) (.noSensor k))
       ∧ tells .getVersion .version ∧ tells .getCapabilities .capabilities
       ∧ (∀ a b, tells (.negotiateAlgorithms a b) (.algorithms (a == 384 && b == 384)))
       ∧ tells .getDigests (.digests (Config.sha384 Config.certificate)) ∧ tells .getCertificate (.certificate Config.certificate)
       ∧ (∀ n, tells (.challenge n) (.challenge (Config.ecdsaSign n)))
       ∧ tells (.getMeasurements 1) (.measurement 1 s.firmware.digest)
       ∧ (∀ k < 40, s.dieAbsent k = false → tells (.getMeasurements (2 + k)) (.measurement (2 + k) (s.die k).att))
       ∧ (∀ k ≥ 42, tells (.getMeasurements k) (.noMeasurement k)))
    ∧ (∀ image : List Byte,
      let dig := Config.sha384 (image.take (image.length - 96))
      let sound : Bool := decide (96 ≤ image.length) && Config.ecdsaVerify 0 dig (BitVec.ofNat 768 (leNat (image.drop (image.length - 96))))
      ∃ t, exec (.pldmFirmwareUpdate image) s = .next t ∧ t.mgmt = s.mgmt ++ [.firmware sound]
        ∧ t.firmware = (if sound then ⟨dig, false⟩ else { s.firmware with failed := true })
        ∧ { t with firmware := s.firmware, mgmt := s.mgmt, dies := s.dies } = s
        ∧ ∀ d, (t.die d).att = if sound = true ∧ s.dieAbsent d = false then Config.sha384 (leBytes 48 0 ++ leBytes 48 dig.toNat) else (s.die d).att)

/-- Register blocks (R464, R465): a write that the access tables refuse is counted and dropped, and one that they allow acts at its register; the
loader (R469); routes that firmware writes, that a failure withdraws and that a rebuild brings back (R27, R36 to R39); flit errors (R438); and the
cells that firmware writes into the panel map within the limits of its figures (R42, R46, R49, R60).
What the spec leaves open here is as the model chooses it (log entries 54, 57 and 61). -/
def Obligations.BlocksAndRoutes : Prop :=
  ∀ (s : State) (d : Nat),
    (∀ w : RegWrite, w.die = d → s.dieAbsent d = false → regSize w.offset = w.size → w.size ≠ 0 → (∀ o, w.offset < o → o < w.offset + w.size → regSize o = 0) →
      let v : DWord := BitVec.ofNat 64 (w.value.toNat % 256 ^ w.size)
      ∀ i ∈ [Instr.registerWrite w, .accessTableWrite w],
        (s.mayWrite d w.offset w.master = true → exec i s = .next (s.regStore w.master d w.offset v))
        ∧ (s.mayWrite d w.offset w.master = false → exec i s = .next (s.refuse d)))
    ∧ (∀ (master : Nat) (v : Word), s.dieAbsent d = false → (s.die d).loader.busy = false → v.getLsbD 31 = true →
      let cmd (f : Loader → Loader) : State := s.onDie d fun x => { x with loader := f { x.loader with cmd := v &&& 0x7FFFFFFF } }
      (((s.die d).rights 0 master).getLsbD 2 = true →
        exec (.loaderGo master d v) s = .next
          ((cmd fun l => { l with busy := true, master := master, status := 0, failed := 0 }).send (.loaderDone d)))
      ∧ (((s.die d).rights 0 master).getLsbD 2 = false →
        exec (.loaderGo master d v) s = .next ((cmd fun l => { l with status := 6, failed := 0 }).refuse d)))
    ∧ ((s.die d).loader.busy = true → exec (.loaderDone d) s = .next
        ((s.loadImage d).2.onDie d fun x => { x with loader := { x.loader with
          busy := false, status := (s.loadImage d).1.status, failed := (s.loadImage d).1.failed } }))
    ∧ (∀ (c : CoreId) (n : Nat) (e : BitVec 256), n < 64 → s.dieAbsent (CoreId.die c) = false →
        exec (.routeEntryWrite c n e) s = .next ((s.focusCore c).comeRoute n e))
    ∧ (∀ (c : CoreId) (n : Nat) (e : BitVec 256),
      let s1 := s.focusCore c
      (s1.routeSlot n).bind (·.coming) = some e →
      exec (.routeEntryTaken c n) s = .next (if (s1.agenda ++ s1.timers.map (·.2)).any (onRoute c n) then s1.later 1 (.routeEntryTaken c n)
        else (s1.writeRoute n e).drainRoute n))
    ∧ (∀ (c : CoreId) (n : Nat) (e : BitVec 256),
      let s1 := s.focusCore c
      (s1.routeSlot n).any (·.withdrawn) = true → routeRoleX (s1.route n) = routeRoleX e → routeRoleY (s1.route n) = routeRoleY e →
      exec (.routeRebuildDone c [(n, e)]) s = .next (s1.comeRoute n e))
    ∧ (∀ m : MeshFault, m.die = d → s.dieAbsent d = false →
      exec (.routerLinkFailure m) s = .next (s.failLink m)
      ∧ ∀ n, n = ((s.die d).crc.find? (·.1 == m)).elim 1 (·.2 + 1) →
        (16 ≤ n → exec (.meshFlitCrcError m) s = .next ((s.onDie d fun x => { x with crc := x.crc.filter (·.1 != m) }).failLink m))
        ∧ (n < 16 → exec (.meshFlitCrcError m) s = .next
            (s.onDie d fun x => { x with crc := (m, n) :: x.crc.filter (·.1 != m), corrected := x.corrected + 1 })))
    ∧ (∀ m : Resend, (∀ c, m ≠ .bench c) → s.agenda.contains (Resend.msg m) = true →
        let t : State := { s with agenda := s.agenda.erase (Resend.msg m) }
        (homeRequest m = none → exec (.undeliverableResponse m) s = .next (t.failRoute (Resend.msg m)))
        ∧ ∀ c ref, homeRequest m = some (c, ref) → s.lossWaits c ref = false → exec (.undeliverableResponse m) s = .next (t.failRequest c ref))
    ∧ (∀ cells, exec (.panelMapUpdate cells) s = .next (s.mapUpdate fun t => t.putMapCells cells))

/-! ### The machine as a whole -/

/-- The machine right after reset: every forwarder is OFF with no parent and no child (R70, R82, R84), `%clkgen` and every region counter are
zero at the nominal rate (R61, R62, R66), no step, slew or servo is under way (R67, R81), the access tables hold their reset rights (R464),
every logical clock stands at 0 of epoch 0 (R278, R297), and no grid, team, message, resident line or listed byte of memory exists. `%clk`, hold and memory have no reset entry in the spec.
What the spec leaves open here is as the model chooses it (log entries 3 and 4). -/
def Obligations.ResetState : Prop :=
  let s := State.reset
  (∀ d, (s.die d).fwd.st = .off ∧ (s.die d).fwd.parent = 7 ∧ (s.die d).fwd.child = 0 ∧ (s.die d).held = false ∧ (s.die d).acc = false
    ∧ (s.die d).epoch = 0 ∧ s.stopped d = true
    ∧ ∀ e, (s.region d e).gtc = 0 ∧ (s.region d e).clk = 0 ∧ (s.region d e).rate = 0x0000CCCCCCCCCCCD ∧ (s.region d e).step = 0)
  ∧ (∀ d, (s.die d).tables.getD 1 (0, 0) = (0x00000000000011BB, 0)
      ∧ ∀ m < 20, (s.die d).rights 0 m = (if m = 0 then 0b0111 else if m = 1 then 0b0011 else if m = 2 then 0b0001 else if m = 3 then 0 else 0b0011))
  ∧ s.clkgen = 0 ∧ s.ptp.st = .off ∧ s.ptp.slew = 0 ∧ s.core.now = ⟨0, 0⟩ ∧ s.grp.horizon = ⟨0, 0⟩
  ∧ s.grids = [] ∧ s.allTeams = [] ∧ s.contexts = [] ∧ s.homes = [] ∧ s.agenda = [] ∧ s.arrived = [] ∧ s.timers = [] ∧ s.pub = none ∧ s.mem = []

/-- The invariant holds at reset. -/
def Obligations.ResetInvariant : Prop :=
  State.reset.ok

/-- Every step keeps the invariant: memory and every core store in their canonical form, 32 c registers and 16 buffer records on every core,
and at most 32 lanes in every group, whether resident or saved (R91, R162, R206). -/
def Obligations.StepKeepsInvariant : Prop :=
  ∀ s t : State, s.ok → step s = .next t → t.ok

/-- Decoding and encoding agree (R168 to R179, R193, R200): the words of an instruction decode to it with every field at every value, and a
word that decodes to an instruction is that instruction's word, so no two words share a meaning; only opcode 0x00, which decodes to the ILL row
with detail 0x02 (R193), carries bits that no instruction holds. -/
def Obligations.DecodeEncode : Prop :=
  (∀ i p w, encode i = some (p, w) → decode p w = .ok i ∧ w < 2 ^ 96)
    ∧ (∀ i p w, w < 2 ^ 96 → decode p w = .ok i → (i = .ill 2 false ∧ p = false ∧ w / 2 ^ 88 = 0) ∨ encode i = some (p, w))

/-- A step runs the instruction in the slot at the issue PC (R98, R100, R155 to R158): nothing else is due, and the core of which a slot comes next
holds its issue slot for a group. That is the core that the schedule names; without a schedule, where no message can be delivered and a slot is due
before a clk, the running core that has stood back longest (log entry 5 says what the schedule is). Where the line at that group's issue PC can be
fetched without a trap and decodes there to an instruction, the step is that instruction's, with RUNEND of the slot noted. -/
def Obligations.StepRunsDecodedInstruction : Prop :=
  ∀ (s s' : State) (c : CoreId) (g : GroupId) (bs : List Byte) (i : Instr),
    let s0 := (s'.focusCore c).focusGroup g
    let line := lineOf s0.pc.toNat
    let slot := s0.pc.toNat % 8
    let s1 := s0.onGrp fun g => { g with entering := false }
    s.agenda.any (fun m => urgent m && s.canReach m) = false → s.arrived.any s.canReach = false → s.waitingInput = none →
    ((∃ r, s.sched = .issue c :: r ∧ s.clocked (CoreId.die c) = true ∧ s' = { s with sched := r })
      ∨ ∃ x : Core, s.sched = [] ∧ (∀ k < s.agenda.length, s.deliverable k = false) ∧ s.beat = false ∧ x.id = c ∧ canIssue x = true
          ∧ s.allCores.reverse.find? s.moves = some x
          ∧ s' = { s with beat := true }) →
    (s'.focusCore c).core.slot = some g →
    s0.missing [line] = [] → s0.entryTrap = none → s1.fetchLine line = .line bs → lineReserved bs = 0 →
    decode (linePair bs slot) (lineSlot bs slot) = .ok i →
      step s = exec i { s1.dropHeld [line] with fetched := ⟨lineRunEnd bs slot⟩ }

/-- Words written out from the encodings of R169 to R179, R193 and R200, field by field from the top, one of each format, and the instructions
that they stand for; an opcode and a half-op that the maps do not define are refused by name. -/
def Obligations.DecodeWords : Prop :=
  let op (n : BitVec 8) : BitVec 8 := n
  let o (n : BitVec 9) : BitVec 9 := n
  let p (n : BitVec 7) : BitVec 7 := n
  let reads (x : BitVec 96) (i : Instr) : Prop := decode false x.toNat = .ok i
  let pair (x y : BitVec 48) : Nat := (x ++ y).toNat
  -- V3: IADD 0x10, dst v5, srcA v6, srcB s7, srcC int 9
  reads (op 0x10 ++ 4#4 ++ 2#3 ++ o 0x005 ++ o 0x006 ++ p 0x11 ++ o 0x107 ++ p 0x22 ++ o 0x189 ++ p 0x33 ++ 9#6 ++ 10#6 ++ 11#4 ++ 12#8)
      (.iadd ⟨4, 2, .v 5, .v 6, 0x11, .s 7, 0x22, .int 9, 0x33, 9, 10, 11, 12⟩)
  -- VI: IADD 0x51, srcA constant 3, srcB reserved 1
  ∧ reads (op 0x51 ++ 3#4 ++ 1#3 ++ o 0x0FF ++ o 0x143 ++ p 0x12 ++ o 0x1C1 ++ p 0x23 ++ 4#4 ++ 5#4 ++ 0xDEADBEEF#32)
      (.iaddVi ⟨3, 1, .v 255, .const 3, 0x12, .resv 1, 0x23, 4, 5, 0xDEADBEEF⟩)
  -- U: SALU 0x70
  ∧ reads (op 0x70 ++ 4#4 ++ 17#6 ++ o 0x101 ++ o 0x102 ++ o 0x103 ++ o 0x13F ++ 1#1 ++ 5#9 ++ 0x89ABCDEF#32)
      (.salu ⟨4, 17, .s 1, .s 2, .s 3, .s 63, 1, 5, 0x89ABCDEF⟩)
  -- M: LD 0x80
  ∧ reads (op 0x80 ++ 5#4 ++ 3#4 ++ 2#2 ++ o 0x00A ++ o 0x00B ++ 12#4 ++ 33#6 ++ 1#2 ++ 0xFFFE#16 ++ o 0x1BF ++ 5#3 ++ 1#1 ++ 44#6 ++ 99#13)
      (.ld ⟨5, 3, 2, .v 10, .v 11, 12, 33, 1, 0xFFFE, .int 63, 5, 1, 44, 99⟩)
  -- X: XCPY 0x90
  ∧ reads (op 0x90 ++ 6#4 ++ 18#6 ++ o 0x104 ++ o 0x105 ++ o 0x182 ++ 61#6 ++ 1#1 ++ 0x1ABCD#17 ++ 63#6 ++ 21#5 ++ 0x1234#16)
      (.xcpy ⟨6, 18, .s 4, .s 5, .int 2, 61, 1, 0x1ABCD, 63, 21, 0x1234⟩)
  -- B: BRA 0x02, DELTA -2
  ∧ reads (op 0x02 ++ 7#4 ++ 3#3 ++ o 0x020 ++ o 0x040 ++ 0x1FFFFE#21 ++ 4#3 ++ 61#6 ++ 1#1 ++ 0xCAFEF00D#32)
      (.bra ⟨7, 3, .v 32, .v 64, 0x1FFFFE, 4, 61, 1, 0xCAFEF00D⟩)
  -- MX: MMA 0xB0
  ∧ reads (op 0xB0 ++ 2#4 ++ 3#4 ++ 5#3 ++ 62#6 ++ 2#2 ++ 19#6 ++ o 0x106 ++ o 0x107 ++ o 0x108 ++ 10#4 ++ 0x0BADF00D#32)
      (.mma ⟨2, 3, 5, 62, 2, 19, .s 6, .s 7, .s 8, 10, 0x0BADF00D⟩)
  -- G: RAST 0xC0
  ∧ reads (op 0xC0 ++ 1#4 ++ 20#6 ++ o 0x001 ++ o 0x002 ++ o 0x003 ++ o 0x004 ++ 13#4 ++ 200#8 ++ 42#6 ++ 0xABCDEF#24)
      (.rast ⟨1, 20, .v 1, .v 2, .v 3, .v 4, 13, 200, 42, 0xABCDEF⟩)
  -- S: MOVSP 0xA9 of special register 0x0021
  ∧ reads (op 0xA9 ++ 4#4 ++ 9#4 ++ 1#2 ++ o 0x010 ++ o 0x011 ++ o 0x012 ++ 0x0021#16 ++ 34#6 ++ 0x1ABCDEF0#29)
      (.movsp ⟨4, 9, 1, .v 16, .v 17, .v 18, 0x0021, 34, 0x1ABCDEF0⟩)
  -- a paired slot: FADD 0x08 and SHRA 0x18
  ∧ decode true (pair (8#6 ++ 9#4 ++ 1#8 ++ 2#8 ++ 3#7 ++ 4#8 ++ 5#7) (0x18#6 ++ 4#4 ++ 0xFF#8 ++ 0xFE#8 ++ 0x7F#7 ++ 0xFD#8 ++ 0x7E#7))
      = .ok (.pairedSlot ⟨.fadd, 9, 1, 2, 3, 4, 5⟩ ⟨.shra, 4, 0xFF, 0xFE, 0x7F, 0xFD, 0x7E⟩)
  -- opcode 0x0F, and half-ops 0x00 and 0x1F, are undefined
  ∧ decode false (0x0F * 2 ^ 88) = .undefinedOpcode 0x0F
  ∧ decode true (pair 0 0) = .undefinedHalfOp false 0
  ∧ decode true (pair (1#6 ++ 0#42) (0x1F#6 ++ 0#42)) = .undefinedHalfOp true 0x1F
end

