-- ==== Sys2Proof/Laws/Memory.lean ====
section
/-! SUPPORT. The laws of byte lists: what a read u after a write u gives, and that every operation keeps the canonical form. -/

namespace Sys2Proof.Machine.Memory

variable {u : Nat → Byte}

theorem wfFrom_mono {m : List Host.Cell} {n k : Nat} (h : wfFrom u n m = true) (hk : k ≤ n) : wfFrom u k m = true := by
  cases m with
  | nil => rfl
  | cons c m =>
    simp only [wfFrom, Bool.and_eq_true, decide_eq_true_eq] at h ⊢
    exact ⟨⟨by omega, h.1.2⟩, h.2⟩

theorem wfFrom_cons {m : List Host.Cell} {n a : Nat} {b : Byte} (h : wfFrom u (a + 1) m = true) (hn : n ≤ a) :
    wfFrom u n (cons u a b m) = true := by
  unfold cons
  split
  · exact wfFrom_mono h (by omega)
  · simp only [wfFrom, Bool.and_eq_true, decide_eq_true_eq]
    exact ⟨⟨hn, by assumption⟩, h⟩

theorem wfFrom_write {m : List Host.Cell} {n a : Nat} {b : Byte} (h : wfFrom u n m = true) (hn : n ≤ a) :
    wfFrom u n (write u m a b) = true := by
  induction m generalizing n with
  | nil => exact wfFrom_cons (by rfl) hn
  | cons c m ih =>
    have h' := h
    simp only [wfFrom, Bool.and_eq_true, decide_eq_true_eq] at h'
    unfold write
    split
    · next e => subst e; exact wfFrom_cons h'.2 hn
    · split
      · next lt =>
        refine wfFrom_cons ?_ hn
        simp only [wfFrom, Bool.and_eq_true, decide_eq_true_eq]
        exact ⟨⟨by omega, h'.1.2⟩, h'.2⟩
      · simp only [wfFrom, Bool.and_eq_true, decide_eq_true_eq]
        exact ⟨h'.1, ih h'.2 (by omega)⟩

/-- A byte write u keeps the canonical form. -/
theorem wf_write {m : List Host.Cell} (a : Nat) (b : Byte) (h : wf u m = true) : wf u (write u m a b) = true :=
  wfFrom_write h (by omega)

/-- A write u of several bytes keeps the canonical form. -/
theorem wf_writeBytes (bs : List Byte) {m : List Host.Cell} (a : Nat) (h : wf u m = true) :
    wf u (writeBytes u m a bs) = true := by
  induction bs generalizing m a with
  | nil => exact h
  | cons b bs ih => exact ih (a + 1) (wf_write a b h)

/-- A write u of a number keeps the canonical form. -/
theorem wf_writeNat {m : List Host.Cell} (a n x : Nat) (h : wf u m = true) : wf u (writeNat u m a n x) = true :=
  wf_writeBytes _ a h

theorem read_of_wfFrom {m : List Host.Cell} {n a : Nat} (h : wfFrom u n m = true) (ha : a < n) : read u m a = u a := by
  cases m with
  | nil => rfl
  | cons c m =>
    simp only [wfFrom, Bool.and_eq_true, decide_eq_true_eq] at h
    unfold read
    rw [if_neg (by omega), if_pos (by omega)]

theorem read_cons {m : List Host.Cell} {a : Nat} (b : Byte) (h : wfFrom u (a + 1) m = true) (x : Nat) :
    read u (cons u a b m) x = if x = a then b else read u m x := by
  unfold cons
  split
  · next e =>
    split
    · next e' => subst e'; rw [read_of_wfFrom h (by omega), e]
    · rfl
  · show (if a = x then b else if x < a then u x else read u m x) = _
    by_cases e : a = x
    · simp [e]
    · rw [if_neg e, if_neg (show ¬ x = a from fun e' => e (Eq.symm e'))]
      by_cases l : x < a
      · rw [if_pos l, read_of_wfFrom h (by omega)]
      · rw [if_neg l]

theorem read_write_from {m : List Host.Cell} {n : Nat} (a : Nat) (b : Byte) (h : wfFrom u n m = true) (x : Nat) :
    read u (write u m a b) x = if x = a then b else read u m x := by
  induction m generalizing n with
  | nil => exact read_cons b (by rfl) x
  | cons c m ih =>
    simp only [wfFrom, Bool.and_eq_true, decide_eq_true_eq] at h
    unfold write
    split
    · next e =>
      rw [read_cons b (e ▸ h.2)]
      by_cases e' : x = a
      · simp [e']
      · rw [if_neg e', if_neg e']
        show _ = if c.1 = x then c.2 else if x < c.1 then u x else read u m x
        rw [if_neg (by omega)]
        split
        · exact read_of_wfFrom h.2 (by omega)
        · rfl
    · split
      · next lt =>
        rw [read_cons]
        simp only [wfFrom, Bool.and_eq_true, decide_eq_true_eq]
        exact ⟨⟨by omega, h.1.2⟩, h.2⟩
      · show (if c.1 = x then c.2 else if x < c.1 then u x else read u (write u m a b) x) = if x = a then b else
          (if c.1 = x then c.2 else if x < c.1 then u x else read u m x)
        rw [ih h.2]
        by_cases e1 : c.1 = x
        · rw [if_pos e1, if_pos e1, if_neg (by omega)]
        · rw [if_neg e1, if_neg e1]
          by_cases e2 : x < c.1
          · rw [if_pos e2, if_pos e2, if_neg (by omega)]
          · rw [if_neg e2, if_neg e2]

/-- A read u after a byte write: the byte at its address, what stood there everywhere else. -/
theorem read_write {m : List Host.Cell} (a : Nat) (b : Byte) (h : wf u m = true) (x : Nat) :
    read u (write u m a b) x = if x = a then b else read u m x :=
  read_write_from a b h x

/-- A read u outside the bytes written gives what it gave before. -/
theorem read_writeBytes_other (bs : List Byte) {m : List Host.Cell} (a : Nat) (h : wf u m = true) {x : Nat}
    (hx : x < a ∨ a + bs.length ≤ x) : read u (writeBytes u m a bs) x = read u m x := by
  induction bs generalizing m a with
  | nil => rfl
  | cons b bs ih =>
    rw [List.length_cons] at hx
    show read u (writeBytes u (write u m a b) (a + 1) bs) x = _
    rw [ih (a + 1) (wf_write a b h) (by omega), read_write a b h, if_neg (by omega)]

/-- A read u of a byte written gives it. -/
theorem read_writeBytes_at (bs : List Byte) {m : List Host.Cell} (a : Nat) (h : wf u m = true) {k : Nat}
    (hk : k < bs.length) : read u (writeBytes u m a bs) (a + k) = bs[k] := by
  induction bs generalizing m a k with
  | nil => exact absurd hk (Nat.not_lt_zero k)
  | cons b bs ih =>
    show read u (writeBytes u (write u m a b) (a + 1) bs) (a + k) = _
    cases k with
    | zero => rw [read_writeBytes_other bs (a + 1) (wf_write a b h) (by omega), read_write a b h]; simp
    | succ k =>
      have := ih (a + 1) (wf_write a b h) (k := k) (by simpa using hk)
      simpa [Nat.add_assoc, Nat.add_comm 1 k] using this

theorem leBytes_length (n x : Nat) : (leBytes n x).length = n := by
  induction n generalizing x with
  | zero => rfl
  | succ n ih => simp [leBytes, ih]

theorem leNat_leBytes (n x : Nat) : leNat (leBytes n x) = x % 256 ^ n := by
  induction n generalizing x with
  | zero => simp [leBytes, leNat, Nat.mod_one]
  | succ n ih =>
    simp only [leBytes, leNat, ih, BitVec.toNat_ofNat]
    rw [show (256:Nat) ^ (n + 1) = 256 * 256 ^ n from by rw [Nat.pow_succ, Nat.mul_comm], Nat.mod_mul]

theorem readBytes_length (m : List Host.Cell) (a n : Nat) : (readBytes u m a n).length = n := by
  induction n generalizing a with
  | zero => rfl
  | succ n ih => simp [readBytes, ih]

theorem readBytes_congr {m m' : List Host.Cell} {a n : Nat} (h : ∀ x, a ≤ x → x < a + n → read u m x = read u m' x) :
    readBytes u m a n = readBytes u m' a n := by
  induction n generalizing a with
  | zero => rfl
  | succ n ih =>
    simp only [readBytes]
    rw [h a (by omega) (by omega), ih fun x h1 h2 => h x (by omega) (by omega)]

theorem readBytes_writeBytes (bs : List Byte) {m : List Host.Cell} (a : Nat) (h : wf u m = true) :
    readBytes u (writeBytes u m a bs) a bs.length = bs := by
  induction bs generalizing m a with
  | nil => rfl
  | cons b bs ih =>
    show readBytes u (writeBytes u (write u m a b) (a + 1) bs) a (bs.length + 1) = _
    simp only [readBytes]
    rw [ih (a + 1) (wf_write a b h), read_writeBytes_other bs (a + 1) (wf_write a b h) (by omega), read_write a b h]
    simp

/-- A number read u from where it was written. -/
theorem readNat_writeNat {m : List Host.Cell} (a n x : Nat) (h : wf u m = true) :
    readNat u (writeNat u m a n x) a n = x % 256 ^ n := by
  have := readBytes_writeBytes (leBytes n x) a h
  rw [leBytes_length] at this
  rw [readNat, writeNat, this, leNat_leBytes]

/-- A number read u clear of what was written. -/
theorem readNat_writeNat_other {m : List Host.Cell} (a n x b k : Nat) (h : wf u m = true) (hb : b + k ≤ a ∨ a + n ≤ b) :
    readNat u (writeNat u m a n x) b k = readNat u m b k := by
  unfold readNat writeNat
  rw [readBytes_congr fun y h1 h2 => read_writeBytes_other (leBytes n x) a h (by rw [leBytes_length]; omega)]

end Sys2Proof.Machine.Memory
end

