-- ==== Sys2Proof/Laws/Ops.lean ====
section
/-! SUPPORT. What the end of an instruction and of a run can change: nothing but places, scheduling state and events. -/

namespace Sys2Proof.Machine

/-! ### Lanes -/

theorem Group.mapLanes_trapRegs (g : Group) (f : Nat → Lane → Lane) (h : ∀ k x, (f k x).trapRegs = x.trapRegs) :
    (g.mapLanes f).lanes.map Lane.trapRegs = g.lanes.map Lane.trapRegs := by
  apply List.ext_getElem?
  intro k
  simp only [Group.mapLanes, List.getElem?_map, List.getElem?_mapIdx, Option.map_map]
  cases g.lanes[k]? with
  | none => rfl
  | some x => simp [h]

@[simp] theorem Group.mapLanes_regs (g : Group) (f : Nat → Lane → Lane) : (g.mapLanes f).regs = g.regs := rfl
@[simp] theorem Group.mapLanes_length (g : Group) (f : Nat → Lane → Lane) : (g.mapLanes f).lanes.length = g.lanes.length := by
  simp [Group.mapLanes]

/-- What is said of a group's end-of-instruction changes: registers and trap registers stay. -/
def Group.keeps (g h : Group) : Prop := h.regs = g.regs ∧ h.lanes.map Lane.trapRegs = g.lanes.map Lane.trapRegs

theorem Group.keeps.rfl' {g : Group} : g.keeps g := ⟨rfl, rfl⟩
theorem Group.keeps.trans {a b c : Group} (h : a.keeps b) (k : b.keeps c) : a.keeps c := ⟨k.1.trans h.1, k.2.trans h.2⟩

theorem Group.keeps_mapLanes (g : Group) (f : Nat → Lane → Lane) (h : ∀ k x, (f k x).trapRegs = x.trapRegs) :
    g.keeps (g.mapLanes f) := ⟨rfl, g.mapLanes_trapRegs f h⟩

theorem Group.keeps_step (g : Group) (ls : List Nat) : g.keeps (g.step ls) := by
  refine g.keeps_mapLanes _ fun k x => ?_
  split
  · unfold Lane.after Lane.completed
    split <;> split <;> rfl
  · rfl

theorem Group.keeps_judgeReconv (g : Group) : g.keeps g.judgeReconv := by
  unfold Group.judgeReconv
  split
  · exact .rfl'
  · split
    · exact .rfl'
    · refine g.keeps_mapLanes _ fun k x => ?_
      split <;> rfl

theorem Group.keeps_leaveHandler (g : Group) : g.keeps g.leaveHandler := by
  unfold Group.leaveHandler
  split
  · refine ⟨rfl, g.mapLanes_trapRegs _ fun k x => ?_⟩
    split <;> rfl
  · exact .rfl'

theorem Group.keeps_killed (g : Group) : g.keeps g.killed :=
  ⟨rfl, g.mapLanes_trapRegs _ fun _ _ => rfl⟩

theorem Group.keeps_ready (g : Group) (n : Nat) : g.keeps (g.ready n) := by
  unfold Group.ready
  split
  · exact .rfl'
  · exact ⟨rfl, rfl⟩

/-! ### The state -/

/-- Registers stay, and so do the trap registers of the group in focus. -/
def State.keeps (s t : State) : Prop := t.regs = s.regs ∧ s.grp.keeps t.grp

theorem State.keeps.rfl' {s : State} : s.keeps s := ⟨rfl, .rfl'⟩
theorem State.keeps.trans {a b c : State} (h : a.keeps b) (k : b.keeps c) : a.keeps c :=
  ⟨k.1.trans h.1, h.2.trans k.2⟩

theorem State.keeps_grp (s : State) (g : Group) (h : s.grp.keeps g) : s.keeps { s with grp := g } := by
  refine ⟨?_, h⟩
  simp only [State.regs, h.1]

theorem State.keeps_onGrp (s : State) (f : Group → Group) (h : s.grp.keeps (f s.grp)) : s.keeps (s.onGrp f) :=
  s.keeps_grp _ h

theorem Core.regs_kill (gr : GridId) (c : Core) : (c.kill gr).regs = c.regs := rfl

theorem State.keeps_killGrid (s : State) (k : BitVec 5) (d : BitVec 8) : s.keeps (s.killGrid k d) := by
  refine ⟨?_, s.grp.keeps_killed⟩
  simp only [State.regs, State.killGrid, List.map_map, Core.regs_kill, (s.grp.keeps_killed).1]
  congr 1

theorem State.keeps_endFragment (s : State) (n : Nat) (x : Lane) : s.keeps (s.endFragment n x) :=
  ⟨rfl, s.grp.keeps_killed⟩

theorem State.keeps_enterHandler (s : State) : s.keeps s.enterHandler := by
  unfold State.enterHandler
  split
  · exact .rfl'
  · split
    · exact s.keeps_endFragment _ _
    · dsimp only
      split
      · exact s.keeps_killGrid _ _
      · split
        · exact s.keeps_killGrid _ _
        · refine s.keeps_onGrp _ ?_
          refine Group.keeps.trans ?_ (Group.keeps_ready _ _)
          refine ⟨rfl, s.grp.mapLanes_trapRegs _ fun k x => ?_⟩
          split <;> rfl

theorem State.keeps_send (s : State) (m : Instr) : s.keeps (s.send m) := ⟨rfl, .rfl'⟩

theorem State.keeps_meet (s : State) : s.keeps s.meet := by
  unfold State.meet
  split
  · exact ⟨rfl, rfl, rfl⟩
  · exact .rfl'

theorem State.keeps_settle (s : State) : s.keeps s.settle := by
  have h0 : s.keeps { s with grp := s.grp.judgeReconv.leaveHandler } :=
    s.keeps_grp _ ((s.grp.keeps_judgeReconv).trans (Group.keeps_leaveHandler _))
  have h1 := h0.trans (State.keeps_meet _)
  unfold State.settle
  dsimp only
  generalize ({ s with grp := s.grp.judgeReconv.leaveHandler } : State).meet = t at *
  split
  · split
    · exact h1
    · split
      · exact h1.trans (t.keeps_endFragment _ _)
      · exact h1.trans ⟨rfl, rfl, rfl⟩
  · split
    · exact h1.trans t.keeps_enterHandler
    · split
      · exact h1.trans ⟨rfl, rfl, rfl⟩
      · exact h1.trans (t.keeps_onGrp _ (t.grp.keeps_ready _))

theorem State.keeps_endRun (s : State) : s.keeps s.endRun :=
  State.keeps.trans (b := { s with core := { s.core with slot := none }, grp := { s.grp with runLen := 0 }, team := { s.team with runs := s.team.runs + 1 } })
    ⟨rfl, rfl, rfl⟩ (State.keeps_settle _)

/-- What follows an instruction changes no register. -/
theorem State.keeps_retire (s : State) (p : BitVec 56) (w : Bool) : s.keeps (s.retire p w) := by
  have h0 : s.keeps { s with core := { s.core with idle := 0, busy := true }, grp := { s.grp with runLen := s.grp.runLen + 1 } } :=
    ⟨rfl, rfl, rfl⟩
  unfold State.retire
  dsimp only
  split
  · exact h0.trans (State.keeps_endRun _)
  · exact h0

theorem State.keeps_next (s : State) (w : Bool) : s.keeps (s.next w) :=
  (s.keeps_onGrp _ (s.grp.keeps_step _)).trans (State.keeps_retire _ _ _)

theorem State.keeps_waitBefore (s : State) (w : WaitFor) : s.keeps (s.waitBefore w) :=
  State.keeps.trans (b := { s with grp := { s.grp with wait := some ⟨w, s.pc, s.issueSet⟩ } }) ⟨rfl, rfl, rfl⟩
    (State.keeps_endRun _)

theorem State.keeps_waitFor (s : State) (w : WaitFor) : s.keeps (s.waitFor w) :=
  State.keeps.trans (b := { s with grp := { s.grp with wait := some ⟨w, s.pc, s.issueSet⟩ } }) ⟨rfl, rfl, rfl⟩
    (State.keeps_retire _ _ _)

/-! ### What follows from it -/

theorem State.keeps.core {s t : State} (h : s.keeps t) : t.core.regs = s.core.regs := congrArg (fun x => x.core) h.1
theorem State.keeps.mem {s t : State} (h : s.keeps t) : t.mem = s.mem := congrArg (fun x => x.mem) h.1
theorem State.keeps.store {s t : State} (h : s.keeps t) : t.core.store = s.core.store :=
  congrArg (fun x => x.core.store) h.1
theorem State.keeps.storePoison {s t : State} (h : s.keeps t) : t.core.storePoison = s.core.storePoison :=
  congrArg (fun x => x.core.storePoison) h.1
theorem State.keeps.base {s t : State} (h : s.keeps t) : t.team.base = s.team.base := congrArg (fun x => x.team.base) h.1
theorem State.keeps.grp {s t : State} (h : s.keeps t) : t.grp.regs = s.grp.regs := h.2.1
theorem State.keeps.rest {s t : State} (h : s.keeps t) : t.rest = s.rest := by unfold State.rest; rw [h.1]
theorem State.keeps.elem {s t : State} (h : s.keeps t) (a : Nat) : t.core.elem a = s.core.elem a := by
  unfold Core.elem; rw [h.store, h.storePoison]

end Sys2Proof.Machine
end

