-- ==== Sys2Proof/Laws/Store.lean ====
section
/-! SUPPORT. What element writes to the core store do: each read back, everything else as before. -/

namespace Sys2Proof.Machine

theorem has_iff (l : List Nat) (n : Nat) : has l n = true ↔ n ∈ l := by
  unfold has
  simp only [List.any_eq_true, beq_iff_eq]
  exact ⟨fun ⟨x, h, e⟩ => e ▸ h, fun h => ⟨n, h, rfl⟩⟩

theorem has_insertN (l : List Nat) (n k : Nat) : has (insertN l n) k = (k == n || has l k) := by
  rw [Bool.eq_iff_iff]
  simp only [has_iff, Bool.or_eq_true, beq_iff_eq]
  unfold insertN
  split
  · next h => rw [has_iff] at h; exact ⟨.inr, fun h' => h'.elim (fun e => e ▸ h) id⟩
  · exact List.mem_cons

theorem has_eraseN (l : List Nat) (n k : Nat) : has (eraseN l n) k = (k != n && has l k) := by
  rw [Bool.eq_iff_iff]
  simp only [has_iff, Bool.and_eq_true, bne_iff_ne]
  unfold eraseN
  simp only [List.mem_filter, bne_iff_ne]
  exact And.comm

/-! ### One element -/

theorem Core.elem_setElem (c : Core) (a : Nat) (w : Word) (p : Bool) (h : Memory.wf Memory.zeros c.store = true) :
    (c.setElem a w p).elem a = (w, p) := by
  unfold Core.elem Core.setElem
  dsimp only
  rw [Memory.readNat_writeNat a 4 _ h, Nat.mod_eq_of_lt (show w.toNat < 256 ^ 4 from w.isLt)]
  cases p <;> simp [has_insertN, has_eraseN]

theorem Core.elem_setElem_other (c : Core) (a b : Nat) (w : Word) (p : Bool) (h : Memory.wf Memory.zeros c.store = true)
    (ha : a % 4 = 0) (hb : b % 4 = 0) (hab : a ≠ b) : (c.setElem a w p).elem b = c.elem b := by
  unfold Core.elem Core.setElem
  dsimp only
  rw [Memory.readNat_writeNat_other a 4 _ b 4 h (by omega)]
  have hd : ¬ b / 4 = a / 4 := by omega
  cases p <;> simp [has_insertN, has_eraseN, hd]

theorem Core.read_setElem_other (c : Core) (a x : Nat) (w : Word) (p : Bool) (h : Memory.wf Memory.zeros c.store = true)
    (hx : x < a ∨ a + 4 ≤ x) : Memory.read Memory.zeros (c.setElem a w p).store x = Memory.read Memory.zeros c.store x :=
  Memory.read_writeBytes_other _ a h (by rw [Memory.leBytes_length]; exact hx)

theorem Core.wf_setElem (c : Core) (a : Nat) (w : Word) (p : Bool) (h : Memory.wf Memory.zeros c.store = true) :
    Memory.wf Memory.zeros (c.setElem a w p).store = true := Memory.wf_writeNat _ _ _ h

/-! ### Several elements -/

/-- Element writes in turn: address, word, poison. -/
def Core.setElems (c : Core) (ws : List (Nat × Word × Bool)) : Core := ws.foldl (fun c w => c.setElem w.1 w.2.1 w.2.2) c

theorem Core.wf_setElems (ws : List (Nat × Word × Bool)) (c : Core) (h : Memory.wf Memory.zeros c.store = true) :
    Memory.wf Memory.zeros (c.setElems ws).store = true := by
  induction ws generalizing c with
  | nil => exact h
  | cons w ws ih => exact ih _ (c.wf_setElem _ _ _ h)

theorem Core.read_setElems_other (ws : List (Nat × Word × Bool)) (c : Core) (x : Nat) (h : Memory.wf Memory.zeros c.store = true)
    (hx : ∀ w ∈ ws, x < w.1 ∨ w.1 + 4 ≤ x) : Memory.read Memory.zeros (c.setElems ws).store x = Memory.read Memory.zeros c.store x := by
  induction ws generalizing c with
  | nil => rfl
  | cons w ws ih =>
    show Memory.read Memory.zeros ((c.setElem w.1 w.2.1 w.2.2).setElems ws).store x = _
    rw [ih _ (c.wf_setElem _ _ _ h) fun y hy => hx y (.tail _ hy), Core.read_setElem_other _ _ _ _ _ h (hx w (.head _))]

theorem Core.elem_setElems_other (ws : List (Nat × Word × Bool)) (c : Core) (b : Nat) (h : Memory.wf Memory.zeros c.store = true)
    (ha : ∀ w ∈ ws, w.1 % 4 = 0) (hb : b % 4 = 0) (hx : ∀ w ∈ ws, w.1 ≠ b) : (c.setElems ws).elem b = c.elem b := by
  induction ws generalizing c with
  | nil => rfl
  | cons w ws ih =>
    show ((c.setElem w.1 w.2.1 w.2.2).setElems ws).elem b = _
    rw [ih _ (c.wf_setElem _ _ _ h) (fun y hy => ha y (.tail _ hy)) fun y hy => hx y (.tail _ hy),
      Core.elem_setElem_other _ _ _ _ _ h (ha w (.head _)) hb (hx w (.head _))]

theorem find?_congr_mem {α : Type} {l : List α} {p q : α → Bool} (h : ∀ x ∈ l, p x = q x) : l.find? p = l.find? q := by
  induction l with
  | nil => rfl
  | cons x l ih => rw [List.find?_cons, List.find?_cons, h x (.head _), ih fun y hy => h y (.tail _ hy)]

theorem findLast_append {α : Type} (a b : List α) (p : α → Bool) : findLast (a ++ b) p = (findLast b p).or (findLast a p) := by
  unfold findLast
  rw [List.reverse_append, List.find?_append]

theorem findLast_none {α : Type} {a : List α} {p : α → Bool} (h : ∀ x ∈ a, p x = false) : findLast a p = none := by
  unfold findLast
  rw [List.find?_eq_none]
  intro x hx
  rw [h x (List.mem_reverse.mp hx)]; simp

/-- Of several writes the last to an element reads back. -/
theorem Core.elem_setElems (ws : List (Nat × Word × Bool)) (c : Core) (b : Nat) (h : Memory.wf Memory.zeros c.store = true)
    (ha : ∀ w ∈ ws, w.1 % 4 = 0) (w : Nat × Word × Bool) (hw : findLast ws (·.1 == b) = some w) :
    (c.setElems ws).elem b = w.2 := by
  induction ws generalizing c with
  | nil => exact absurd hw (by simp [findLast])
  | cons y ws ih =>
    show ((c.setElem y.1 y.2.1 y.2.2).setElems ws).elem b = _
    have hwf := c.wf_setElem y.1 y.2.1 y.2.2 h
    rw [show y :: ws = [y] ++ ws from rfl, findLast_append] at hw
    cases e : findLast ws (·.1 == b) with
    | some x =>
      rw [e] at hw
      exact ih _ hwf (fun z hz => ha z (.tail _ hz)) (by rw [e]; exact hw)
    | none =>
      rw [e, Option.none_or] at hw
      have hb : y.1 = b ∧ y = w := by
        simp only [findLast, List.reverse_singleton, List.find?_singleton] at hw
        split at hw
        · next hp => exact ⟨by simpa using hp, Option.some.inj hw⟩
        · exact absurd hw (by simp)
      have hno : ∀ z ∈ ws, z.1 ≠ b := by
        intro z hz e'
        unfold findLast at e
        rw [List.find?_eq_none] at e
        exact e z (List.mem_reverse.mpr hz) (by simpa using e')
      rw [Core.elem_setElems_other ws _ b hwf (fun z hz => ha z (.tail _ hz)) (hb.1 ▸ ha y (.head _)) hno, ← hb.1,
        Core.elem_setElem _ _ _ _ h, ← hb.2]

/-! ### Registers of lanes -/

theorem State.vAddr_mod (s : State) (n l : Nat) : s.local (s.vAddr n l) % 4 = 0 := by
  unfold State.local State.vAddr; omega

theorem State.vAddr_inj (s : State) {n l n' l' : Nat} (h : l < 32) (h' : l' < 32)
    (e : s.local (s.vAddr n l) = s.local (s.vAddr n' l')) : n = n' ∧ l = l' := by
  unfold State.local State.vAddr at e; omega

/-- The element writes of lanes by address. -/
def State.laneAddrs (s : State) (ws : List LaneWrite) : List (Nat × Word × Bool) :=
  ws.map fun w => (s.local (s.vAddr w.reg w.lane), w.val, w.poison)

theorem State.writeLanes_fold (ws : List LaneWrite) (s : State) :
    ws.foldl (fun s w => s.setElem (s.vAddr w.reg w.lane) w.val w.poison) s = s.onCore (·.setElems (s.laneAddrs ws)) := by
  induction ws generalizing s with
  | nil => rfl
  | cons w ws ih => exact (ih _).trans rfl

/-- Everything that `writeLanes` can do. -/
theorem State.writeLanes_eq (s : State) (ws : List LaneWrite) :
    ∃ m, s.writeLanes ws = { s with core := { s.core.setElems (s.laneAddrs ws) with mixed := m } } := by
  unfold State.writeLanes
  rw [State.writeLanes_fold]
  exact ⟨_, rfl⟩

/-- The last write to a register of a lane that `writeLanes` makes reads back. -/
theorem State.elem_writeLanes (s : State) (ws : List LaneWrite) (h : Memory.wf Memory.zeros s.core.store = true)
    (h32 : ∀ w ∈ ws, w.lane < 32) (n l : Nat) (hl : l < 32) (w : LaneWrite)
    (hw : findLast ws (fun w => w.reg == n && w.lane == l) = some w) :
    (s.writeLanes ws).core.elem (s.local (s.vAddr n l)) = (w.val, w.poison) := by
  obtain ⟨m, e⟩ := s.writeLanes_eq ws
  rw [e]
  refine Core.elem_setElems (s.laneAddrs ws) s.core (s.local (s.vAddr n l)) h ?_ (s.local (s.vAddr w.reg w.lane), w.val, w.poison) ?_
  · intro x hx
    obtain ⟨v, _, rfl⟩ := List.mem_map.mp hx
    exact s.vAddr_mod _ _
  · unfold State.laneAddrs findLast
    rw [← List.map_reverse, List.find?_map]
    have e2 : ws.reverse.find? ((fun x : Nat × Word × Bool => x.1 == s.local (s.vAddr n l)) ∘
        fun w => (s.local (s.vAddr w.reg w.lane), w.val, w.poison)) = ws.reverse.find? (fun w => w.reg == n && w.lane == l) := by
      refine find?_congr_mem fun v hv => ?_
      rw [Bool.eq_iff_iff]
      simp only [Function.comp, beq_iff_eq, Bool.and_eq_true]
      exact ⟨fun e => s.vAddr_inj (h32 v (List.mem_reverse.mp hv)) hl e, fun e => by rw [e.1, e.2]⟩
    rw [e2]
    unfold findLast at hw
    rw [hw]
    rfl

/-- A byte of the core store outside the registers that `writeLanes` writes stays. -/
theorem State.read_writeLanes_other (s : State) (ws : List LaneWrite) (h : Memory.wf Memory.zeros s.core.store = true) (x : Nat)
    (hx : ∀ w ∈ ws, x < s.local (s.vAddr w.reg w.lane) ∨ s.local (s.vAddr w.reg w.lane) + 4 ≤ x) :
    Memory.read Memory.zeros (s.writeLanes ws).core.store x = Memory.read Memory.zeros s.core.store x := by
  obtain ⟨m, e⟩ := s.writeLanes_eq ws
  rw [e]
  refine Core.read_setElems_other (s.laneAddrs ws) s.core x h ?_
  intro y hy
  obtain ⟨v, hv, rfl⟩ := List.mem_map.mp hy
  exact hx v hv

theorem State.wf_writeLanes (s : State) (ws : List LaneWrite) (h : Memory.wf Memory.zeros s.core.store = true) :
    Memory.wf Memory.zeros (s.writeLanes ws).core.store = true := by
  obtain ⟨m, e⟩ := s.writeLanes_eq ws
  rw [e]
  exact Core.wf_setElems _ _ h

theorem Core.setElems_eq (ws : List (Nat × Word × Bool)) (c : Core) :
    ∃ a b, c.setElems ws = { c with store := a, storePoison := b } := by
  induction ws generalizing c with
  | nil => exact ⟨_, _, rfl⟩
  | cons w ws ih =>
    obtain ⟨a, b, e⟩ := ih (c.setElem w.1 w.2.1 w.2.2)
    exact ⟨a, b, e⟩

/-- `writeLanes` changes only the core store in focus. -/
theorem State.rest_writeLanes (s : State) (ws : List LaneWrite) : (s.writeLanes ws).rest = s.rest := by
  obtain ⟨m, e⟩ := s.writeLanes_eq ws
  obtain ⟨a, b, e'⟩ := Core.setElems_eq (s.laneAddrs ws) s.core
  rw [e, e']
  rfl

theorem State.grp_writeLanes (s : State) (ws : List LaneWrite) : (s.writeLanes ws).grp = s.grp := by
  obtain ⟨m, e⟩ := s.writeLanes_eq ws
  rw [e]

theorem State.team_writeLanes (s : State) (ws : List LaneWrite) : (s.writeLanes ws).team = s.team := by
  obtain ⟨m, e⟩ := s.writeLanes_eq ws
  rw [e]

end Sys2Proof.Machine
end

