-- ==== Sys2Proof/Laws/Lanes.lean ====
section
/-! SUPPORT. What an instruction that acts on each active lane does, said once. -/

namespace Sys2Proof.Machine

/-- The last write to a register of one lane among the writes of several lanes. -/
theorem findLast_lanes (ls : List Nat) (f : Nat → List (Nat × Word × Bool)) (hl : ls.Nodup) (l n : Nat) (h : l ∈ ls)
    (w : Nat × Word × Bool) (hw : findLast (f l) (·.1 == n) = some w) :
    findLast ((ls.map fun l => laneWrites l (f l)).flatten) (fun w => w.reg == n && w.lane == l)
      = some (LaneWrite.mk w.1 l w.2.1 w.2.2) := by
  have other (k : Nat) (hk : k ≠ l) : ∀ x ∈ laneWrites k (f k), (x.reg == n && x.lane == l) = false := by
    intro x hx
    obtain ⟨y, _, rfl⟩ := List.mem_map.mp hx
    simp [hk]
  induction ls with
  | nil => exact absurd h (by simp)
  | cons k ls ih =>
    rw [List.nodup_cons] at hl
    rw [List.map_cons, List.flatten_cons, findLast_append]
    by_cases e : k = l
    · subst e
      have hrest : findLast ((ls.map fun l => laneWrites l (f l)).flatten) (fun w => w.reg == n && w.lane == k) = none := by
        refine findLast_none fun x hx => ?_
        obtain ⟨bs, hbs, hb⟩ := List.mem_flatten.mp hx
        obtain ⟨j, hj, rfl⟩ := List.mem_map.mp hbs
        exact other j (fun e => hl.1 (e ▸ hj)) x hb
      rw [hrest, Option.none_or]
      unfold findLast laneWrites
      rw [← List.map_reverse, List.find?_map]
      have e2 : (f k).reverse.find? ((fun w : LaneWrite => w.reg == n && w.lane == k) ∘ fun x => LaneWrite.mk x.1 k x.2.1 x.2.2)
          = (f k).reverse.find? (·.1 == n) := find?_congr_mem fun v _ => by simp [Function.comp]
      rw [e2]
      unfold findLast at hw
      rw [hw]; rfl
    · have hm : l ∈ ls := by
        cases h with
        | head => exact absurd rfl e
        | tail _ h => exact h
      rw [ih hl.2 hm]; rfl

theorem lane_of_lanes (ls : List Nat) (f : Nat → List (Nat × Word × Bool)) (h : ∀ l ∈ ls, l < 32) :
    ∀ w ∈ (ls.map fun l => laneWrites l (f l)).flatten, w.lane < 32 := by
  intro w hw
  obtain ⟨bs, hbs, hb⟩ := List.mem_flatten.mp hw
  obtain ⟨k, hk, rfl⟩ := List.mem_map.mp hbs
  obtain ⟨y, _, rfl⟩ := List.mem_map.mp hb
  exact h k hk

theorem Group.active_nodup (g : Group) : g.active.Nodup := by
  unfold Group.active Group.issueSet
  refine List.Pairwise.filter _ ?_
  split
  · exact List.nodup_nil
  · refine List.Pairwise.filter _ ?_
    have hw (p : Lane → Bool) : (g.which p).Nodup := List.Pairwise.filter _ List.nodup_range
    unfold Group.runners
    split
    · exact hw _
    · dsimp only
      split <;> exact hw _

theorem Group.runners_lt (g : Group) {l : Nat} (h : l ∈ g.runners) : l < g.lanes.length := by
  have hw (p : Lane → Bool) (h : l ∈ g.which p) : l < g.lanes.length := by
    unfold Group.which at h
    exact List.mem_range.mp (List.mem_filter.mp h).1
  unfold Group.runners at h
  split at h
  · exact hw _ h
  · dsimp only at h
    split at h
    · exact hw _ h
    · exact hw _ h

theorem Group.issueSet_lt (g : Group) {l : Nat} (h : l ∈ g.issueSet) : l < g.lanes.length := by
  unfold Group.issueSet at h
  split at h
  · exact absurd h (by simp)
  · exact g.runners_lt (List.mem_filter.mp h).1

/-- Active lanes are lanes of the group. -/
theorem Group.active_lt (g : Group) {l : Nat} (h : l ∈ g.active) : l < g.lanes.length :=
  g.issueSet_lt (List.mem_filter.mp h).1

theorem State.active_lt (s : State) (h : s.ok) {l : Nat} (hl : l ∈ s.active) : l < 32 :=
  Nat.lt_of_lt_of_le (s.grp.active_lt hl) h.2.2.2.1

/-- The frame of an instruction that nothing holds back. -/
theorem State.frame_clear (s : State) (i : Instr) (k : State → State) (h : s.clear i) : s.frame i k = k s := by
  unfold State.frame
  rw [h.1, h.2]
  rfl

/-- The results of clean lanes. -/
theorem State.laneResults_done (s : State) (us : List Use) (body : Nat → List (BitVec 64) → LaneOut)
    (out : Nat → List (Nat × Word × Bool) × FpFlags) (hc : s.clean us)
    (hb : ∀ l ∈ s.active, body l (s.operands us l) = .done (out l).1 (out l).2) :
    s.laneResults us body = s.active.map fun l => (l, s.sources us l, LaneOut.done (out l).1 (out l).2) := by
  unfold State.laneResults
  refine List.map_congr_left fun l hl => ?_
  have e := hc l hl
  have b := hb l hl
  unfold State.operands at b
  dsimp only
  rw [e, b]
  rfl

/-- An element outside every write stays; in the words of `onlyLaneRegs`. -/
theorem State.outside_writes (s : State) (ls : List Nat) (f : Nat → List (Nat × Word × Bool)) (a : Nat)
    (h : ¬ s.inLaneRegs ls (fun l => (f l).map (·.1)) a) :
    ∀ w ∈ (ls.map fun l => laneWrites l (f l)).flatten,
      a < s.local (s.vAddr w.reg w.lane) ∨ s.local (s.vAddr w.reg w.lane) + 4 ≤ a := by
  intro w hw
  obtain ⟨bs, hbs, hb⟩ := List.mem_flatten.mp hw
  obtain ⟨k, hk, rfl⟩ := List.mem_map.mp hbs
  obtain ⟨y, hy, rfl⟩ := List.mem_map.mp hb
  by_cases h1 : a < s.local (s.vAddr y.1 k)
  · exact .inl h1
  · by_cases h2 : s.local (s.vAddr y.1 k) + 4 ≤ a
    · exact .inr h2
    · exact absurd ⟨k, hk, y.1, List.mem_map.mpr ⟨y, hy, rfl⟩, by omega, by omega⟩ h

/-- The results of lanes that all succeed, written, flagged and moved on. -/
def State.finishLanes (s : State) (ws : List LaneWrite) (fl : FpFlags) : State :=
  (((s.writeLanes ws).raise fl).onGrp (·.step s.issueSet)).retire s.pc false

theorem State.commit_done (s : State) (ls rows : List Nat) (g : Nat → List Src) (out : Nat → List (Nat × Word × Bool) × FpFlags) :
    s.commit (ls.map fun l => (l, g l, LaneOut.done (out l).1 (out l).2)) rows
      = s.finishLanes ((ls.map fun l => laneWrites l (out l).1).flatten) (orFlags (fun l => (out l).2) ls) := by
  have hnone : (ls.map fun l => (l, g l, LaneOut.done (out l).1 (out l).2)).filterMap
      (fun r => r.2.2.trapped.map fun t => (r.1, r.2.1, t)) = [] := by
    rw [List.filterMap_map]; exact List.filterMap_eq_nil_iff.mpr fun _ _ => rfl
  unfold State.commit State.finishLanes orFlags
  dsimp only
  rw [hnone, List.map_map, List.foldl_map]
  simp only [List.any_nil, Bool.not_false, List.foldl_nil, List.filter_eq_self.mpr (fun _ _ => rfl)]
  rfl

theorem State.raise_rest (s t : State) (fl : FpFlags) (h : t.rest = s.rest) : (t.raise fl).rest = (s.raise fl).rest := by
  have e (u : State) : (u.raise fl).rest = { u.rest with grp := { u.rest.grp with fpstat := u.rest.grp.fpstat ||| fl } } := rfl
  rw [e, e, h]

theorem State.keeps_finishLanes (s : State) (ws : List LaneWrite) (fl : FpFlags) :
    State.keeps ((s.writeLanes ws).raise fl) (s.finishLanes ws fl) :=
  (State.keeps_onGrp _ _ (Group.keeps_step _ _)).trans (State.keeps_retire _ _ _)

/-- Everything that `finishLanes` does: each write reads back, and nothing else changes but the flags raised. -/
theorem State.finishLanes_spec (s : State) (ws : List LaneWrite) (fl : FpFlags) (wf : Memory.wf Memory.zeros s.core.store = true)
    (h32 : ∀ w ∈ ws, w.lane < 32) :
    (∀ n l w, l < 32 → findLast ws (fun w => w.reg == n && w.lane == l) = some w →
        (s.finishLanes ws fl).core.elem (s.local (s.vAddr n l)) = (w.val, w.poison))
      ∧ (s.finishLanes ws fl).rest = (s.raise fl).rest
      ∧ (s.finishLanes ws fl).grp.lanes.map Lane.trapRegs = s.grp.lanes.map Lane.trapRegs
      ∧ ∀ a, (∀ w ∈ ws, a < s.local (s.vAddr w.reg w.lane) ∨ s.local (s.vAddr w.reg w.lane) + 4 ≤ a) →
        Memory.read Memory.zeros (s.finishLanes ws fl).core.store a = Memory.read Memory.zeros s.core.store a := by
  have k := s.keeps_finishLanes ws fl
  refine ⟨fun n l w hl hw => ?_, ?_, ?_, fun a ha => ?_⟩
  · rw [k.elem]; exact s.elem_writeLanes ws wf h32 n l hl w hw
  · rw [k.rest]; exact State.raise_rest _ _ fl (s.rest_writeLanes ws)
  · rw [k.2.2]
    show (s.writeLanes ws).grp.lanes.map Lane.trapRegs = _
    rw [State.grp_writeLanes]
  · rw [k.store]; exact s.read_writeLanes_other ws wf a ha

/-- Everything that a per-lane instruction does when nothing holds it back, no source is poisoned and no lane traps. -/
theorem State.perLane_done (s : State) (i : Instr) (us : List Use) (body : Nat → List (BitVec 64) → LaneOut)
    (out : Nat → List (Nat × Word × Bool) × FpFlags) (hok : s.ok) (hcl : s.clear i) (hc : s.clean us)
    (hb : ∀ l ∈ s.active, body l (s.operands us l) = .done (out l).1 (out l).2) :
    (∀ l ∈ s.active, ∀ n w, findLast (out l).1 (·.1 == n) = some w →
        (s.perLane i us body).core.elem (s.local (s.vAddr n l)) = w.2)
      ∧ onlyLaneRegs (s.raise (orFlags (fun l => (out l).2) s.active)) (s.perLane i us body) s.active
          fun l => (out l).1.map (·.1) := by
  have hws := lane_of_lanes s.active (fun l => (out l).1) (fun l hl => s.active_lt hok hl)
  have e : s.perLane i us body = s.finishLanes ((s.active.map fun l => laneWrites l (out l).1).flatten)
      (orFlags (fun l => (out l).2) s.active) := by
    unfold State.perLane
    rw [s.frame_clear i _ hcl, s.laneResults_done us body out hc hb, State.commit_done]
  have h := s.finishLanes_spec _ (orFlags (fun l => (out l).2) s.active) hok.2.1.1 hws
  rw [e]
  refine ⟨fun l hl n w hw => ?_, h.2.1, h.2.2.1, fun a ha => h.2.2.2 a ?_⟩
  · exact h.1 n l _ (s.active_lt hok hl) (findLast_lanes s.active (fun l => (out l).1) s.grp.active_nodup l n hl w hw)
  · exact s.outside_writes s.active (fun l => (out l).1) a ha

/-- A per-lane instruction whose meaning is `perLane` has the effect that its body computes. -/
theorem LaneEffect.of_perLane {i : Instr} {us : State → List Use}
    {f : State → List (BitVec 64) → List (Nat × Word) × FpFlags} (body : State → Nat → List (BitVec 64) → LaneOut)
    (he : ∀ s, s.clear i → exec i s = .next (s.perLane i (us s) (body s)))
    (hb : ∀ s l vs, s.clear i → body s l vs = .done ((f s vs).1.map fun w => (w.1, w.2, false)) (f s vs).2) :
    LaneEffect i us f := by
  intro s hok hcl hc
  have e (l : Nat) : ((f s (s.operands (us s) l)).1.map fun w => (w.1, w.2, false)).map (fun w : Nat × Word × Bool => w.1)
      = (f s (s.operands (us s) l)).1.map (·.1) := by rw [List.map_map]; rfl
  have h := s.perLane_done i (us s) (body s)
    (fun l => ((f s (s.operands (us s) l)).1.map fun w => (w.1, w.2, false), (f s (s.operands (us s) l)).2))
    hok hcl hc (fun l _ => hb s l _ hcl)
  simp only [e] at h
  refine ⟨_, he s hcl, fun l hl n w hw => ?_, h.2⟩
  refine h.1 l hl n (w.1, w.2, false) ?_
  unfold findLast at hw ⊢
  rw [← List.map_reverse, List.find?_map]
  show ((f s (s.operands (us s) l)).1.reverse.find? (·.1 == n)).map _ = _
  rw [hw]; rfl

theorem putVal_eq (n : Nat) (t : Ty) (x : BitVec 64) :
    putVal n t x = (valueWords n t x).map fun w => (w.1, w.2, false) := by
  unfold valueWords putVal
  split <;> rfl

end Sys2Proof.Machine
end

