-- ==== Sys2Proof/Laws/Access.lean ====
section
/-! SUPPORT. What an access to memory does when nothing holds it back: its checks, its release and acquire, and its writes. -/

namespace Sys2Proof.Machine

/-! ### The frame of an access -/

theorem State.active_isEmpty (s : State) (h : s.active ≠ []) : s.active.isEmpty = false := by
  cases e : s.active with
  | nil => exact absurd e h
  | cons => rfl

theorem State.access_may (s : State) (i : Instr) (k : State → State) (h : s.mayAccess i) : s.access i k = k s := by
  unfold State.access
  rw [s.frame_clear i _ h.1]
  simp [s.active_isEmpty h.2.1, h.2.2]

/-- With no lane that traps the whole issue set moves on. -/
theorem State.proceed_nil (s : State) (rows : List Nat) (w : Bool) : s.proceed [] rows w = s.next w := by
  unfold State.proceed State.next
  have h : (s.issueSet.filter fun l => !(List.any ([] : List (Nat × List Src × Trap)) (·.1 == l))) = s.issueSet :=
    List.filter_eq_self.mpr fun _ _ => rfl
  dsimp only
  rw [h]; rfl

theorem State.translated_ok (s : State) (vas : List Nat) (k : Nat) (f : State → State) (h : s.missing vas (k == 5) = []) :
    s.translated vas k f = f s := by
  unfold State.translated
  simp [h]

/-! ### Instructions that act once -/

theorem State.once_may (s : State) (i : Instr) (us : List Use) (body : State → List (BitVec 64) → State)
    (h : s.mayActOnce i us) : s.once i us body = body s (s.uniformOperands us) := by
  unfold State.once
  rw [s.frame_clear i _ h.1]
  have hp : ((us.map fun u => s.fetchUse u 0).any (·.2)) = false := by
    rw [List.any_map, List.any_eq_false]
    intro u hu
    simp [h.2.2 u hu]
  dsimp only
  rw [s.active_isEmpty h.2.1, hp, List.map_map]
  rfl

theorem State.barOp_may (s : State) (i : Instr) (f : XF) (body : State → List (BitVec 64) → State)
    (h : s.mayUseBarrier i f) : s.barOp i f body = body s (s.uniformOperands (s.barUses i)) := by
  unfold State.barOp
  rw [s.access_may i _ h.1]
  have hp : (((s.barUses i).map fun u => s.fetchUse u 0).any (·.2)) = false := by
    rw [List.any_map, List.any_eq_false]
    intro u hu
    simp [h.2.1 u hu]
  have ho : (!XF.remote f && !s.team.lrec.isObject f.bar.toNat) = false := by
    cases h.2.2 with
    | inl h => rw [h]; rfl
    | inr h => rw [h]; simp
  dsimp only
  rw [hp, ho, List.map_map]
  rfl

/-! ### Global accesses whose lanes all pass -/

theorem touched_passing (s : State) (us : List Use) (vas : Nat → List (Option Nat)) :
    touched (s.active.map fun l => ⟨l, s.sources us l, .ok (vas l)⟩) = (s.active.map fun l => (vas l).filterMap id).flatten := by
  unfold touched
  rw [List.map_map]; rfl

theorem passed_failed (s : State) (us : List Use) (vas : Nat → List (Option Nat)) (ps : Nat → List Place)
    (chk : LaneAcc → Except Trap (List Place)) (h : ∀ l ∈ s.active, chk ⟨l, s.sources us l, .ok (vas l)⟩ = .ok (ps l)) :
    passed ((s.active.map fun l => (⟨l, s.sources us l, .ok (vas l)⟩ : LaneAcc)).map fun x => (x, chk x)) = passing s us vas ps
      ∧ failed ((s.active.map fun l => (⟨l, s.sources us l, .ok (vas l)⟩ : LaneAcc)).map fun x => (x, chk x)) = [] := by
  have e : ((s.active.map fun l => (⟨l, s.sources us l, .ok (vas l)⟩ : LaneAcc)).map fun x => (x, chk x))
      = s.active.map fun l => ((⟨l, s.sources us l, .ok (vas l)⟩ : LaneAcc), .ok (ps l)) := by
    rw [List.map_map]
    exact List.map_congr_left fun l hl => by simp [Function.comp, h l hl]
  rw [e]
  constructor
  · unfold passed passing
    rw [List.filterMap_map, ← List.filterMap_eq_map]; rfl
  · unfold failed
    rw [List.filterMap_map]
    exact List.filterMap_eq_nil_iff.mpr fun _ _ => rfl

/-! ### Local accesses whose lanes all pass -/

theorem locOk_passing (ls : List Nat) (g : Nat → LaneLoc) (srcs : Nat → List Src) (as : Nat → List Nat)
    (h : ∀ l ∈ ls, g l = ⟨l, srcs l, .ok (as l)⟩) :
    locOk (ls.map g) = ls.map (fun l => (⟨l, srcs l, .ok (as l)⟩, as l)) ∧ locBad (ls.map g) = [] := by
  rw [List.map_congr_left h]
  constructor
  · unfold locOk
    rw [List.filterMap_map, ← List.filterMap_eq_map]; rfl
  · unfold locBad
    rw [List.filterMap_map]
    exact List.filterMap_eq_nil_iff.mpr fun _ _ => rfl

theorem State.localLane_eq (s : State) (f : MF) (w : Bool) (n k : Nat) (us : List Use) (l : Nat) (as : List Nat)
    (h : (s.localLane f w n k us l).at' = .ok as) : s.localLane f w n k us l = ⟨l, s.sources us l, .ok as⟩ := by
  rw [← h]; rfl

/-- A release that has been done lets its access go on. -/
theorem State.released_done (s : State) (rel : Bool) (sc : Scope) (k : State → State) (h : s.released? rel) :
    s.released rel sc k = k (s.useRelease rel) := by
  unfold State.released State.useRelease
  cases rel with
  | false => rfl
  | true => simp [h rfl]

/-! ### The core store -/

/-- The state with another core store, its poison and its uniform tags. -/
def State.withStore (s : State) (a : List Host.Cell) (b m : List Nat) : State :=
  { s with core := { s.core with store := a, storePoison := b, mixed := m } }

theorem State.writeLanes_store (s : State) (ws : List LaneWrite) :
    ∃ a b m, s.writeLanes ws = s.withStore a b m := by
  obtain ⟨m, e⟩ := s.writeLanes_eq ws
  obtain ⟨a, b, e'⟩ := Core.setElems_eq (s.laneAddrs ws) s.core
  rw [e, e']
  exact ⟨a, b, m, rfl⟩

theorem State.withStore_ite (p : Prop) [Decidable p] (x y : State) (a : List Host.Cell) (b m : List Nat) :
    (if p then x.withStore a b m else y.withStore a b m) = (if p then x else y).withStore a b m := by
  split <;> rfl

theorem State.requestRebase_withStore (s : State) (a : List Host.Cell) (b m : List Nat) (d : Nat) :
    (s.withStore a b m).requestRebase d = (s.requestRebase d).withStore a b m := by
  unfold State.requestRebase
  dsimp only
  rw [← State.withStore_ite, ← State.withStore_ite]
  rfl

theorem State.setNow_withStore (s : State) (a : List Host.Cell) (b m : List Nat) (n : Nat) :
    (s.withStore a b m).setNow n = (s.setNow n).withStore a b m := by
  unfold State.setNow State.noteTick
  rw [← State.withStore_ite, ← State.requestRebase_withStore]
  rfl

theorem State.acquire_withStore (s : State) (a : List Host.Cell) (b m : List Nat) (sc : Scope) :
    (s.withStore a b m).acquire sc = (s.acquire sc).withStore a b m := by
  unfold State.acquire State.raiseNow
  rw [← State.withStore_ite, ← State.withStore_ite, ← State.setNow_withStore]
  rfl

end Sys2Proof.Machine
end

