-- ==== Sys2Proof/Laws/State.lean ====
section
/-! SUPPORT. What each named update of the state leaves as it was and what it changes, field by field. -/

namespace Sys2Proof.Machine

/-! ### State.onCore -/

@[simp] theorem State.onCore_core (s : State) (f : Core → Core) : (s.onCore f).core = f s.core := rfl
@[simp] theorem State.onCore_team (s : State) (f : Core → Core) : (s.onCore f).team = s.team := rfl
@[simp] theorem State.onCore_grp (s : State) (f : Core → Core) : (s.onCore f).grp = s.grp := rfl
@[simp] theorem State.onCore_cores (s : State) (f : Core → Core) : (s.onCore f).cores = s.cores := rfl
@[simp] theorem State.onCore_clusters (s : State) (f : Core → Core) : (s.onCore f).clusters = s.clusters := rfl
@[simp] theorem State.onCore_dies (s : State) (f : Core → Core) : (s.onCore f).dies = s.dies := rfl
@[simp] theorem State.onCore_fetched (s : State) (f : Core → Core) : (s.onCore f).fetched = s.fetched := rfl
@[simp] theorem State.onCore_mem (s : State) (f : Core → Core) : (s.onCore f).mem = s.mem := rfl
@[simp] theorem State.onCore_pub (s : State) (f : Core → Core) : (s.onCore f).pub = s.pub := rfl
@[simp] theorem State.onCore_memPoison (s : State) (f : Core → Core) : (s.onCore f).memPoison = s.memPoison := rfl
@[simp] theorem State.onCore_homes (s : State) (f : Core → Core) : (s.onCore f).homes = s.homes := rfl
@[simp] theorem State.onCore_slices (s : State) (f : Core → Core) : (s.onCore f).slices = s.slices := rfl
@[simp] theorem State.onCore_bench (s : State) (f : Core → Core) : (s.onCore f).bench = s.bench := rfl
@[simp] theorem State.onCore_keptApply (s : State) (f : Core → Core) : (s.onCore f).keptApply = s.keptApply := rfl
@[simp] theorem State.onCore_semWaiters (s : State) (f : Core → Core) : (s.onCore f).semWaiters = s.semWaiters := rfl
@[simp] theorem State.onCore_quads (s : State) (f : Core → Core) : (s.onCore f).quads = s.quads := rfl
@[simp] theorem State.onCore_timers (s : State) (f : Core → Core) : (s.onCore f).timers = s.timers := rfl
@[simp] theorem State.onCore_agenda (s : State) (f : Core → Core) : (s.onCore f).agenda = s.agenda := rfl
@[simp] theorem State.onCore_arrived (s : State) (f : Core → Core) : (s.onCore f).arrived = s.arrived := rfl
@[simp] theorem State.onCore_sched (s : State) (f : Core → Core) : (s.onCore f).sched = s.sched := rfl
@[simp] theorem State.onCore_beat (s : State) (f : Core → Core) : (s.onCore f).beat = s.beat := rfl
@[simp] theorem State.onCore_fresh (s : State) (f : Core → Core) : (s.onCore f).fresh = s.fresh := rfl
@[simp] theorem State.onCore_clk (s : State) (f : Core → Core) : (s.onCore f).clk = s.clk := rfl
@[simp] theorem State.onCore_clkgen (s : State) (f : Core → Core) : (s.onCore f).clkgen = s.clkgen := rfl
@[simp] theorem State.onCore_ptp (s : State) (f : Core → Core) : (s.onCore f).ptp = s.ptp := rfl
@[simp] theorem State.onCore_up (s : State) (f : Core → Core) : (s.onCore f).up = s.up := rfl
@[simp] theorem State.onCore_kills (s : State) (f : Core → Core) : (s.onCore f).kills = s.kills := rfl
@[simp] theorem State.onCore_grids (s : State) (f : Core → Core) : (s.onCore f).grids = s.grids := rfl
@[simp] theorem State.onCore_departs (s : State) (f : Core → Core) : (s.onCore f).departs = s.departs := rfl
@[simp] theorem State.onCore_contexts (s : State) (f : Core → Core) : (s.onCore f).contexts = s.contexts := rfl
@[simp] theorem State.onCore_ports (s : State) (f : Core → Core) : (s.onCore f).ports = s.ports := rfl
@[simp] theorem State.onCore_regStores (s : State) (f : Core → Core) : (s.onCore f).regStores = s.regStores := rfl
@[simp] theorem State.onCore_portNow (s : State) (f : Core → Core) : (s.onCore f).portNow = s.portNow := rfl
@[simp] theorem State.onCore_windows (s : State) (f : Core → Core) : (s.onCore f).windows = s.windows := rfl
@[simp] theorem State.onCore_lanesLost (s : State) (f : Core → Core) : (s.onCore f).lanesLost = s.lanesLost := rfl
@[simp] theorem State.onCore_firmware (s : State) (f : Core → Core) : (s.onCore f).firmware = s.firmware := rfl
@[simp] theorem State.onCore_mgmt (s : State) (f : Core → Core) : (s.onCore f).mgmt = s.mgmt := rfl

/-! ### State.onGrp -/

@[simp] theorem State.onGrp_core (s : State) (f : Group → Group) : (s.onGrp f).core = s.core := rfl
@[simp] theorem State.onGrp_team (s : State) (f : Group → Group) : (s.onGrp f).team = s.team := rfl
@[simp] theorem State.onGrp_grp (s : State) (f : Group → Group) : (s.onGrp f).grp = f s.grp := rfl
@[simp] theorem State.onGrp_cores (s : State) (f : Group → Group) : (s.onGrp f).cores = s.cores := rfl
@[simp] theorem State.onGrp_clusters (s : State) (f : Group → Group) : (s.onGrp f).clusters = s.clusters := rfl
@[simp] theorem State.onGrp_dies (s : State) (f : Group → Group) : (s.onGrp f).dies = s.dies := rfl
@[simp] theorem State.onGrp_fetched (s : State) (f : Group → Group) : (s.onGrp f).fetched = s.fetched := rfl
@[simp] theorem State.onGrp_mem (s : State) (f : Group → Group) : (s.onGrp f).mem = s.mem := rfl
@[simp] theorem State.onGrp_pub (s : State) (f : Group → Group) : (s.onGrp f).pub = s.pub := rfl
@[simp] theorem State.onGrp_memPoison (s : State) (f : Group → Group) : (s.onGrp f).memPoison = s.memPoison := rfl
@[simp] theorem State.onGrp_homes (s : State) (f : Group → Group) : (s.onGrp f).homes = s.homes := rfl
@[simp] theorem State.onGrp_slices (s : State) (f : Group → Group) : (s.onGrp f).slices = s.slices := rfl
@[simp] theorem State.onGrp_bench (s : State) (f : Group → Group) : (s.onGrp f).bench = s.bench := rfl
@[simp] theorem State.onGrp_keptApply (s : State) (f : Group → Group) : (s.onGrp f).keptApply = s.keptApply := rfl
@[simp] theorem State.onGrp_semWaiters (s : State) (f : Group → Group) : (s.onGrp f).semWaiters = s.semWaiters := rfl
@[simp] theorem State.onGrp_quads (s : State) (f : Group → Group) : (s.onGrp f).quads = s.quads := rfl
@[simp] theorem State.onGrp_timers (s : State) (f : Group → Group) : (s.onGrp f).timers = s.timers := rfl
@[simp] theorem State.onGrp_agenda (s : State) (f : Group → Group) : (s.onGrp f).agenda = s.agenda := rfl
@[simp] theorem State.onGrp_arrived (s : State) (f : Group → Group) : (s.onGrp f).arrived = s.arrived := rfl
@[simp] theorem State.onGrp_sched (s : State) (f : Group → Group) : (s.onGrp f).sched = s.sched := rfl
@[simp] theorem State.onGrp_beat (s : State) (f : Group → Group) : (s.onGrp f).beat = s.beat := rfl
@[simp] theorem State.onGrp_fresh (s : State) (f : Group → Group) : (s.onGrp f).fresh = s.fresh := rfl
@[simp] theorem State.onGrp_clk (s : State) (f : Group → Group) : (s.onGrp f).clk = s.clk := rfl
@[simp] theorem State.onGrp_clkgen (s : State) (f : Group → Group) : (s.onGrp f).clkgen = s.clkgen := rfl
@[simp] theorem State.onGrp_ptp (s : State) (f : Group → Group) : (s.onGrp f).ptp = s.ptp := rfl
@[simp] theorem State.onGrp_up (s : State) (f : Group → Group) : (s.onGrp f).up = s.up := rfl
@[simp] theorem State.onGrp_kills (s : State) (f : Group → Group) : (s.onGrp f).kills = s.kills := rfl
@[simp] theorem State.onGrp_grids (s : State) (f : Group → Group) : (s.onGrp f).grids = s.grids := rfl
@[simp] theorem State.onGrp_departs (s : State) (f : Group → Group) : (s.onGrp f).departs = s.departs := rfl
@[simp] theorem State.onGrp_contexts (s : State) (f : Group → Group) : (s.onGrp f).contexts = s.contexts := rfl
@[simp] theorem State.onGrp_ports (s : State) (f : Group → Group) : (s.onGrp f).ports = s.ports := rfl
@[simp] theorem State.onGrp_regStores (s : State) (f : Group → Group) : (s.onGrp f).regStores = s.regStores := rfl
@[simp] theorem State.onGrp_portNow (s : State) (f : Group → Group) : (s.onGrp f).portNow = s.portNow := rfl
@[simp] theorem State.onGrp_windows (s : State) (f : Group → Group) : (s.onGrp f).windows = s.windows := rfl
@[simp] theorem State.onGrp_lanesLost (s : State) (f : Group → Group) : (s.onGrp f).lanesLost = s.lanesLost := rfl
@[simp] theorem State.onGrp_firmware (s : State) (f : Group → Group) : (s.onGrp f).firmware = s.firmware := rfl
@[simp] theorem State.onGrp_mgmt (s : State) (f : Group → Group) : (s.onGrp f).mgmt = s.mgmt := rfl

/-! ### State.mapCores -/

@[simp] theorem State.mapCores_core (s : State) (f : Core → Core) : (s.mapCores f).core = f s.core := rfl
@[simp] theorem State.mapCores_team (s : State) (f : Core → Core) : (s.mapCores f).team = s.team := rfl
@[simp] theorem State.mapCores_grp (s : State) (f : Core → Core) : (s.mapCores f).grp = s.grp := rfl
@[simp] theorem State.mapCores_cores (s : State) (f : Core → Core) : (s.mapCores f).cores = s.cores.map f := rfl
@[simp] theorem State.mapCores_clusters (s : State) (f : Core → Core) : (s.mapCores f).clusters = s.clusters := rfl
@[simp] theorem State.mapCores_dies (s : State) (f : Core → Core) : (s.mapCores f).dies = s.dies := rfl
@[simp] theorem State.mapCores_fetched (s : State) (f : Core → Core) : (s.mapCores f).fetched = s.fetched := rfl
@[simp] theorem State.mapCores_mem (s : State) (f : Core → Core) : (s.mapCores f).mem = s.mem := rfl
@[simp] theorem State.mapCores_pub (s : State) (f : Core → Core) : (s.mapCores f).pub = s.pub := rfl
@[simp] theorem State.mapCores_memPoison (s : State) (f : Core → Core) : (s.mapCores f).memPoison = s.memPoison := rfl
@[simp] theorem State.mapCores_homes (s : State) (f : Core → Core) : (s.mapCores f).homes = s.homes := rfl
@[simp] theorem State.mapCores_slices (s : State) (f : Core → Core) : (s.mapCores f).slices = s.slices := rfl
@[simp] theorem State.mapCores_bench (s : State) (f : Core → Core) : (s.mapCores f).bench = s.bench := rfl
@[simp] theorem State.mapCores_keptApply (s : State) (f : Core → Core) : (s.mapCores f).keptApply = s.keptApply := rfl
@[simp] theorem State.mapCores_semWaiters (s : State) (f : Core → Core) : (s.mapCores f).semWaiters = s.semWaiters := rfl
@[simp] theorem State.mapCores_quads (s : State) (f : Core → Core) : (s.mapCores f).quads = s.quads := rfl
@[simp] theorem State.mapCores_timers (s : State) (f : Core → Core) : (s.mapCores f).timers = s.timers := rfl
@[simp] theorem State.mapCores_agenda (s : State) (f : Core → Core) : (s.mapCores f).agenda = s.agenda := rfl
@[simp] theorem State.mapCores_arrived (s : State) (f : Core → Core) : (s.mapCores f).arrived = s.arrived := rfl
@[simp] theorem State.mapCores_sched (s : State) (f : Core → Core) : (s.mapCores f).sched = s.sched := rfl
@[simp] theorem State.mapCores_beat (s : State) (f : Core → Core) : (s.mapCores f).beat = s.beat := rfl
@[simp] theorem State.mapCores_fresh (s : State) (f : Core → Core) : (s.mapCores f).fresh = s.fresh := rfl
@[simp] theorem State.mapCores_clk (s : State) (f : Core → Core) : (s.mapCores f).clk = s.clk := rfl
@[simp] theorem State.mapCores_clkgen (s : State) (f : Core → Core) : (s.mapCores f).clkgen = s.clkgen := rfl
@[simp] theorem State.mapCores_ptp (s : State) (f : Core → Core) : (s.mapCores f).ptp = s.ptp := rfl
@[simp] theorem State.mapCores_up (s : State) (f : Core → Core) : (s.mapCores f).up = s.up := rfl
@[simp] theorem State.mapCores_kills (s : State) (f : Core → Core) : (s.mapCores f).kills = s.kills := rfl
@[simp] theorem State.mapCores_grids (s : State) (f : Core → Core) : (s.mapCores f).grids = s.grids := rfl
@[simp] theorem State.mapCores_departs (s : State) (f : Core → Core) : (s.mapCores f).departs = s.departs := rfl
@[simp] theorem State.mapCores_contexts (s : State) (f : Core → Core) : (s.mapCores f).contexts = s.contexts := rfl
@[simp] theorem State.mapCores_ports (s : State) (f : Core → Core) : (s.mapCores f).ports = s.ports := rfl
@[simp] theorem State.mapCores_regStores (s : State) (f : Core → Core) : (s.mapCores f).regStores = s.regStores := rfl
@[simp] theorem State.mapCores_portNow (s : State) (f : Core → Core) : (s.mapCores f).portNow = s.portNow := rfl
@[simp] theorem State.mapCores_windows (s : State) (f : Core → Core) : (s.mapCores f).windows = s.windows := rfl
@[simp] theorem State.mapCores_lanesLost (s : State) (f : Core → Core) : (s.mapCores f).lanesLost = s.lanesLost := rfl
@[simp] theorem State.mapCores_firmware (s : State) (f : Core → Core) : (s.mapCores f).firmware = s.firmware := rfl
@[simp] theorem State.mapCores_mgmt (s : State) (f : Core → Core) : (s.mapCores f).mgmt = s.mgmt := rfl

/-! ### State.send -/

@[simp] theorem State.send_core (s : State) (m : Instr) : (s.send m).core = s.core := rfl
@[simp] theorem State.send_team (s : State) (m : Instr) : (s.send m).team = s.team := rfl
@[simp] theorem State.send_grp (s : State) (m : Instr) : (s.send m).grp = s.grp := rfl
@[simp] theorem State.send_cores (s : State) (m : Instr) : (s.send m).cores = s.cores := rfl
@[simp] theorem State.send_clusters (s : State) (m : Instr) : (s.send m).clusters = s.clusters := rfl
@[simp] theorem State.send_dies (s : State) (m : Instr) : (s.send m).dies = s.dies := rfl
@[simp] theorem State.send_fetched (s : State) (m : Instr) : (s.send m).fetched = s.fetched := rfl
@[simp] theorem State.send_mem (s : State) (m : Instr) : (s.send m).mem = s.mem := rfl
@[simp] theorem State.send_pub (s : State) (m : Instr) : (s.send m).pub = s.pub := rfl
@[simp] theorem State.send_memPoison (s : State) (m : Instr) : (s.send m).memPoison = s.memPoison := rfl
@[simp] theorem State.send_homes (s : State) (m : Instr) : (s.send m).homes = s.homes := rfl
@[simp] theorem State.send_slices (s : State) (m : Instr) : (s.send m).slices = s.slices := rfl
@[simp] theorem State.send_bench (s : State) (m : Instr) : (s.send m).bench = s.bench := rfl
@[simp] theorem State.send_keptApply (s : State) (m : Instr) : (s.send m).keptApply = s.keptApply := rfl
@[simp] theorem State.send_semWaiters (s : State) (m : Instr) : (s.send m).semWaiters = s.semWaiters := rfl
@[simp] theorem State.send_quads (s : State) (m : Instr) : (s.send m).quads = s.quads := rfl
@[simp] theorem State.send_timers (s : State) (m : Instr) : (s.send m).timers = s.timers := rfl
@[simp] theorem State.send_agenda (s : State) (m : Instr) : (s.send m).agenda = s.agenda ++ [m] := rfl
@[simp] theorem State.send_arrived (s : State) (m : Instr) : (s.send m).arrived = s.arrived := rfl
@[simp] theorem State.send_sched (s : State) (m : Instr) : (s.send m).sched = s.sched := rfl
@[simp] theorem State.send_beat (s : State) (m : Instr) : (s.send m).beat = s.beat := rfl
@[simp] theorem State.send_fresh (s : State) (m : Instr) : (s.send m).fresh = s.fresh := rfl
@[simp] theorem State.send_clk (s : State) (m : Instr) : (s.send m).clk = s.clk := rfl
@[simp] theorem State.send_clkgen (s : State) (m : Instr) : (s.send m).clkgen = s.clkgen := rfl
@[simp] theorem State.send_ptp (s : State) (m : Instr) : (s.send m).ptp = s.ptp := rfl
@[simp] theorem State.send_up (s : State) (m : Instr) : (s.send m).up = s.up := rfl
@[simp] theorem State.send_kills (s : State) (m : Instr) : (s.send m).kills = s.kills := rfl
@[simp] theorem State.send_grids (s : State) (m : Instr) : (s.send m).grids = s.grids := rfl
@[simp] theorem State.send_departs (s : State) (m : Instr) : (s.send m).departs = s.departs := rfl
@[simp] theorem State.send_contexts (s : State) (m : Instr) : (s.send m).contexts = s.contexts := rfl
@[simp] theorem State.send_ports (s : State) (m : Instr) : (s.send m).ports = s.ports := rfl
@[simp] theorem State.send_regStores (s : State) (m : Instr) : (s.send m).regStores = s.regStores := rfl
@[simp] theorem State.send_portNow (s : State) (m : Instr) : (s.send m).portNow = s.portNow := rfl
@[simp] theorem State.send_windows (s : State) (m : Instr) : (s.send m).windows = s.windows := rfl
@[simp] theorem State.send_lanesLost (s : State) (m : Instr) : (s.send m).lanesLost = s.lanesLost := rfl
@[simp] theorem State.send_firmware (s : State) (m : Instr) : (s.send m).firmware = s.firmware := rfl
@[simp] theorem State.send_mgmt (s : State) (m : Instr) : (s.send m).mgmt = s.mgmt := rfl

/-! ### State.later -/

@[simp] theorem State.later_core (s : State) (n : Nat) (m : Instr) : (s.later n m).core = s.core := rfl
@[simp] theorem State.later_team (s : State) (n : Nat) (m : Instr) : (s.later n m).team = s.team := rfl
@[simp] theorem State.later_grp (s : State) (n : Nat) (m : Instr) : (s.later n m).grp = s.grp := rfl
@[simp] theorem State.later_cores (s : State) (n : Nat) (m : Instr) : (s.later n m).cores = s.cores := rfl
@[simp] theorem State.later_clusters (s : State) (n : Nat) (m : Instr) : (s.later n m).clusters = s.clusters := rfl
@[simp] theorem State.later_dies (s : State) (n : Nat) (m : Instr) : (s.later n m).dies = s.dies := rfl
@[simp] theorem State.later_fetched (s : State) (n : Nat) (m : Instr) : (s.later n m).fetched = s.fetched := rfl
@[simp] theorem State.later_mem (s : State) (n : Nat) (m : Instr) : (s.later n m).mem = s.mem := rfl
@[simp] theorem State.later_pub (s : State) (n : Nat) (m : Instr) : (s.later n m).pub = s.pub := rfl
@[simp] theorem State.later_memPoison (s : State) (n : Nat) (m : Instr) : (s.later n m).memPoison = s.memPoison := rfl
@[simp] theorem State.later_homes (s : State) (n : Nat) (m : Instr) : (s.later n m).homes = s.homes := rfl
@[simp] theorem State.later_slices (s : State) (n : Nat) (m : Instr) : (s.later n m).slices = s.slices := rfl
@[simp] theorem State.later_bench (s : State) (n : Nat) (m : Instr) : (s.later n m).bench = s.bench := rfl
@[simp] theorem State.later_keptApply (s : State) (n : Nat) (m : Instr) : (s.later n m).keptApply = s.keptApply := rfl
@[simp] theorem State.later_semWaiters (s : State) (n : Nat) (m : Instr) : (s.later n m).semWaiters = s.semWaiters := rfl
@[simp] theorem State.later_quads (s : State) (n : Nat) (m : Instr) : (s.later n m).quads = s.quads := rfl
@[simp] theorem State.later_timers (s : State) (n : Nat) (m : Instr) : (s.later n m).timers = s.timers ++ [(s.clk + n, m)] := rfl
@[simp] theorem State.later_agenda (s : State) (n : Nat) (m : Instr) : (s.later n m).agenda = s.agenda := rfl
@[simp] theorem State.later_arrived (s : State) (n : Nat) (m : Instr) : (s.later n m).arrived = s.arrived := rfl
@[simp] theorem State.later_sched (s : State) (n : Nat) (m : Instr) : (s.later n m).sched = s.sched := rfl
@[simp] theorem State.later_beat (s : State) (n : Nat) (m : Instr) : (s.later n m).beat = s.beat := rfl
@[simp] theorem State.later_fresh (s : State) (n : Nat) (m : Instr) : (s.later n m).fresh = s.fresh := rfl
@[simp] theorem State.later_clk (s : State) (n : Nat) (m : Instr) : (s.later n m).clk = s.clk := rfl
@[simp] theorem State.later_clkgen (s : State) (n : Nat) (m : Instr) : (s.later n m).clkgen = s.clkgen := rfl
@[simp] theorem State.later_ptp (s : State) (n : Nat) (m : Instr) : (s.later n m).ptp = s.ptp := rfl
@[simp] theorem State.later_up (s : State) (n : Nat) (m : Instr) : (s.later n m).up = s.up := rfl
@[simp] theorem State.later_kills (s : State) (n : Nat) (m : Instr) : (s.later n m).kills = s.kills := rfl
@[simp] theorem State.later_grids (s : State) (n : Nat) (m : Instr) : (s.later n m).grids = s.grids := rfl
@[simp] theorem State.later_departs (s : State) (n : Nat) (m : Instr) : (s.later n m).departs = s.departs := rfl
@[simp] theorem State.later_contexts (s : State) (n : Nat) (m : Instr) : (s.later n m).contexts = s.contexts := rfl
@[simp] theorem State.later_ports (s : State) (n : Nat) (m : Instr) : (s.later n m).ports = s.ports := rfl
@[simp] theorem State.later_regStores (s : State) (n : Nat) (m : Instr) : (s.later n m).regStores = s.regStores := rfl
@[simp] theorem State.later_portNow (s : State) (n : Nat) (m : Instr) : (s.later n m).portNow = s.portNow := rfl
@[simp] theorem State.later_windows (s : State) (n : Nat) (m : Instr) : (s.later n m).windows = s.windows := rfl
@[simp] theorem State.later_lanesLost (s : State) (n : Nat) (m : Instr) : (s.later n m).lanesLost = s.lanesLost := rfl
@[simp] theorem State.later_firmware (s : State) (n : Nat) (m : Instr) : (s.later n m).firmware = s.firmware := rfl
@[simp] theorem State.later_mgmt (s : State) (n : Nat) (m : Instr) : (s.later n m).mgmt = s.mgmt := rfl

/-! ### State.sendUp -/

@[simp] theorem State.sendUp_core (s : State) (m : List Byte) : (s.sendUp m).core = s.core := rfl
@[simp] theorem State.sendUp_team (s : State) (m : List Byte) : (s.sendUp m).team = s.team := rfl
@[simp] theorem State.sendUp_grp (s : State) (m : List Byte) : (s.sendUp m).grp = s.grp := rfl
@[simp] theorem State.sendUp_cores (s : State) (m : List Byte) : (s.sendUp m).cores = s.cores := rfl
@[simp] theorem State.sendUp_clusters (s : State) (m : List Byte) : (s.sendUp m).clusters = s.clusters := rfl
@[simp] theorem State.sendUp_dies (s : State) (m : List Byte) : (s.sendUp m).dies = s.dies := rfl
@[simp] theorem State.sendUp_fetched (s : State) (m : List Byte) : (s.sendUp m).fetched = s.fetched := rfl
@[simp] theorem State.sendUp_mem (s : State) (m : List Byte) : (s.sendUp m).mem = s.mem := rfl
@[simp] theorem State.sendUp_pub (s : State) (m : List Byte) : (s.sendUp m).pub = s.pub := rfl
@[simp] theorem State.sendUp_memPoison (s : State) (m : List Byte) : (s.sendUp m).memPoison = s.memPoison := rfl
@[simp] theorem State.sendUp_homes (s : State) (m : List Byte) : (s.sendUp m).homes = s.homes := rfl
@[simp] theorem State.sendUp_slices (s : State) (m : List Byte) : (s.sendUp m).slices = s.slices := rfl
@[simp] theorem State.sendUp_bench (s : State) (m : List Byte) : (s.sendUp m).bench = s.bench := rfl
@[simp] theorem State.sendUp_keptApply (s : State) (m : List Byte) : (s.sendUp m).keptApply = s.keptApply := rfl
@[simp] theorem State.sendUp_semWaiters (s : State) (m : List Byte) : (s.sendUp m).semWaiters = s.semWaiters := rfl
@[simp] theorem State.sendUp_quads (s : State) (m : List Byte) : (s.sendUp m).quads = s.quads := rfl
@[simp] theorem State.sendUp_timers (s : State) (m : List Byte) : (s.sendUp m).timers = s.timers := rfl
@[simp] theorem State.sendUp_agenda (s : State) (m : List Byte) : (s.sendUp m).agenda = s.agenda := rfl
@[simp] theorem State.sendUp_arrived (s : State) (m : List Byte) : (s.sendUp m).arrived = s.arrived := rfl
@[simp] theorem State.sendUp_sched (s : State) (m : List Byte) : (s.sendUp m).sched = s.sched := rfl
@[simp] theorem State.sendUp_beat (s : State) (m : List Byte) : (s.sendUp m).beat = s.beat := rfl
@[simp] theorem State.sendUp_fresh (s : State) (m : List Byte) : (s.sendUp m).fresh = s.fresh := rfl
@[simp] theorem State.sendUp_clk (s : State) (m : List Byte) : (s.sendUp m).clk = s.clk := rfl
@[simp] theorem State.sendUp_clkgen (s : State) (m : List Byte) : (s.sendUp m).clkgen = s.clkgen := rfl
@[simp] theorem State.sendUp_ptp (s : State) (m : List Byte) : (s.sendUp m).ptp = s.ptp := rfl
@[simp] theorem State.sendUp_up (s : State) (m : List Byte) : (s.sendUp m).up = s.up ++ [m] := rfl
@[simp] theorem State.sendUp_kills (s : State) (m : List Byte) : (s.sendUp m).kills = s.kills := rfl
@[simp] theorem State.sendUp_grids (s : State) (m : List Byte) : (s.sendUp m).grids = s.grids := rfl
@[simp] theorem State.sendUp_departs (s : State) (m : List Byte) : (s.sendUp m).departs = s.departs := rfl
@[simp] theorem State.sendUp_contexts (s : State) (m : List Byte) : (s.sendUp m).contexts = s.contexts := rfl
@[simp] theorem State.sendUp_ports (s : State) (m : List Byte) : (s.sendUp m).ports = s.ports := rfl
@[simp] theorem State.sendUp_regStores (s : State) (m : List Byte) : (s.sendUp m).regStores = s.regStores := rfl
@[simp] theorem State.sendUp_portNow (s : State) (m : List Byte) : (s.sendUp m).portNow = s.portNow := rfl
@[simp] theorem State.sendUp_windows (s : State) (m : List Byte) : (s.sendUp m).windows = s.windows := rfl
@[simp] theorem State.sendUp_lanesLost (s : State) (m : List Byte) : (s.sendUp m).lanesLost = s.lanesLost := rfl
@[simp] theorem State.sendUp_firmware (s : State) (m : List Byte) : (s.sendUp m).firmware = s.firmware := rfl
@[simp] theorem State.sendUp_mgmt (s : State) (m : List Byte) : (s.sendUp m).mgmt = s.mgmt := rfl

/-! ### State.onDie -/

@[simp] theorem State.onDie_core (s : State) (d : Nat) (f : Die → Die) : (s.onDie d f).core = s.core := rfl
@[simp] theorem State.onDie_team (s : State) (d : Nat) (f : Die → Die) : (s.onDie d f).team = s.team := rfl
@[simp] theorem State.onDie_grp (s : State) (d : Nat) (f : Die → Die) : (s.onDie d f).grp = s.grp := rfl
@[simp] theorem State.onDie_cores (s : State) (d : Nat) (f : Die → Die) : (s.onDie d f).cores = s.cores := rfl
@[simp] theorem State.onDie_clusters (s : State) (d : Nat) (f : Die → Die) : (s.onDie d f).clusters = s.clusters := rfl
@[simp] theorem State.onDie_dies (s : State) (d : Nat) (f : Die → Die) : (s.onDie d f).dies = f (s.die d) :: s.dies.filter (·.num != d) := rfl
@[simp] theorem State.onDie_fetched (s : State) (d : Nat) (f : Die → Die) : (s.onDie d f).fetched = s.fetched := rfl
@[simp] theorem State.onDie_mem (s : State) (d : Nat) (f : Die → Die) : (s.onDie d f).mem = s.mem := rfl
@[simp] theorem State.onDie_pub (s : State) (d : Nat) (f : Die → Die) : (s.onDie d f).pub = s.pub := rfl
@[simp] theorem State.onDie_memPoison (s : State) (d : Nat) (f : Die → Die) : (s.onDie d f).memPoison = s.memPoison := rfl
@[simp] theorem State.onDie_homes (s : State) (d : Nat) (f : Die → Die) : (s.onDie d f).homes = s.homes := rfl
@[simp] theorem State.onDie_slices (s : State) (d : Nat) (f : Die → Die) : (s.onDie d f).slices = s.slices := rfl
@[simp] theorem State.onDie_bench (s : State) (d : Nat) (f : Die → Die) : (s.onDie d f).bench = s.bench := rfl
@[simp] theorem State.onDie_keptApply (s : State) (d : Nat) (f : Die → Die) : (s.onDie d f).keptApply = s.keptApply := rfl
@[simp] theorem State.onDie_semWaiters (s : State) (d : Nat) (f : Die → Die) : (s.onDie d f).semWaiters = s.semWaiters := rfl
@[simp] theorem State.onDie_quads (s : State) (d : Nat) (f : Die → Die) : (s.onDie d f).quads = s.quads := rfl
@[simp] theorem State.onDie_timers (s : State) (d : Nat) (f : Die → Die) : (s.onDie d f).timers = s.timers := rfl
@[simp] theorem State.onDie_agenda (s : State) (d : Nat) (f : Die → Die) : (s.onDie d f).agenda = s.agenda := rfl
@[simp] theorem State.onDie_arrived (s : State) (d : Nat) (f : Die → Die) : (s.onDie d f).arrived = s.arrived := rfl
@[simp] theorem State.onDie_sched (s : State) (d : Nat) (f : Die → Die) : (s.onDie d f).sched = s.sched := rfl
@[simp] theorem State.onDie_beat (s : State) (d : Nat) (f : Die → Die) : (s.onDie d f).beat = s.beat := rfl
@[simp] theorem State.onDie_fresh (s : State) (d : Nat) (f : Die → Die) : (s.onDie d f).fresh = s.fresh := rfl
@[simp] theorem State.onDie_clk (s : State) (d : Nat) (f : Die → Die) : (s.onDie d f).clk = s.clk := rfl
@[simp] theorem State.onDie_clkgen (s : State) (d : Nat) (f : Die → Die) : (s.onDie d f).clkgen = s.clkgen := rfl
@[simp] theorem State.onDie_ptp (s : State) (d : Nat) (f : Die → Die) : (s.onDie d f).ptp = s.ptp := rfl
@[simp] theorem State.onDie_up (s : State) (d : Nat) (f : Die → Die) : (s.onDie d f).up = s.up := rfl
@[simp] theorem State.onDie_kills (s : State) (d : Nat) (f : Die → Die) : (s.onDie d f).kills = s.kills := rfl
@[simp] theorem State.onDie_grids (s : State) (d : Nat) (f : Die → Die) : (s.onDie d f).grids = s.grids := rfl
@[simp] theorem State.onDie_departs (s : State) (d : Nat) (f : Die → Die) : (s.onDie d f).departs = s.departs := rfl
@[simp] theorem State.onDie_contexts (s : State) (d : Nat) (f : Die → Die) : (s.onDie d f).contexts = s.contexts := rfl
@[simp] theorem State.onDie_ports (s : State) (d : Nat) (f : Die → Die) : (s.onDie d f).ports = s.ports := rfl
@[simp] theorem State.onDie_regStores (s : State) (d : Nat) (f : Die → Die) : (s.onDie d f).regStores = s.regStores := rfl
@[simp] theorem State.onDie_portNow (s : State) (d : Nat) (f : Die → Die) : (s.onDie d f).portNow = s.portNow := rfl
@[simp] theorem State.onDie_windows (s : State) (d : Nat) (f : Die → Die) : (s.onDie d f).windows = s.windows := rfl
@[simp] theorem State.onDie_lanesLost (s : State) (d : Nat) (f : Die → Die) : (s.onDie d f).lanesLost = s.lanesLost := rfl
@[simp] theorem State.onDie_firmware (s : State) (d : Nat) (f : Die → Die) : (s.onDie d f).firmware = s.firmware := rfl
@[simp] theorem State.onDie_mgmt (s : State) (d : Nat) (f : Die → Die) : (s.onDie d f).mgmt = s.mgmt := rfl

/-! ### State.onCluster -/

@[simp] theorem State.onCluster_core (s : State) (d n : Nat) (f : Cluster → Cluster) : (s.onCluster d n f).core = s.core := rfl
@[simp] theorem State.onCluster_team (s : State) (d n : Nat) (f : Cluster → Cluster) : (s.onCluster d n f).team = s.team := rfl
@[simp] theorem State.onCluster_grp (s : State) (d n : Nat) (f : Cluster → Cluster) : (s.onCluster d n f).grp = s.grp := rfl
@[simp] theorem State.onCluster_cores (s : State) (d n : Nat) (f : Cluster → Cluster) : (s.onCluster d n f).cores = s.cores := rfl
@[simp] theorem State.onCluster_clusters (s : State) (d n : Nat) (f : Cluster → Cluster) : (s.onCluster d n f).clusters = f (s.cluster d n) :: s.clusters.filter fun c => !(c.die == d && c.num == n) := rfl
@[simp] theorem State.onCluster_dies (s : State) (d n : Nat) (f : Cluster → Cluster) : (s.onCluster d n f).dies = s.dies := rfl
@[simp] theorem State.onCluster_fetched (s : State) (d n : Nat) (f : Cluster → Cluster) : (s.onCluster d n f).fetched = s.fetched := rfl
@[simp] theorem State.onCluster_mem (s : State) (d n : Nat) (f : Cluster → Cluster) : (s.onCluster d n f).mem = s.mem := rfl
@[simp] theorem State.onCluster_pub (s : State) (d n : Nat) (f : Cluster → Cluster) : (s.onCluster d n f).pub = s.pub := rfl
@[simp] theorem State.onCluster_memPoison (s : State) (d n : Nat) (f : Cluster → Cluster) : (s.onCluster d n f).memPoison = s.memPoison := rfl
@[simp] theorem State.onCluster_homes (s : State) (d n : Nat) (f : Cluster → Cluster) : (s.onCluster d n f).homes = s.homes := rfl
@[simp] theorem State.onCluster_slices (s : State) (d n : Nat) (f : Cluster → Cluster) : (s.onCluster d n f).slices = s.slices := rfl
@[simp] theorem State.onCluster_bench (s : State) (d n : Nat) (f : Cluster → Cluster) : (s.onCluster d n f).bench = s.bench := rfl
@[simp] theorem State.onCluster_keptApply (s : State) (d n : Nat) (f : Cluster → Cluster) : (s.onCluster d n f).keptApply = s.keptApply := rfl
@[simp] theorem State.onCluster_semWaiters (s : State) (d n : Nat) (f : Cluster → Cluster) : (s.onCluster d n f).semWaiters = s.semWaiters := rfl
@[simp] theorem State.onCluster_quads (s : State) (d n : Nat) (f : Cluster → Cluster) : (s.onCluster d n f).quads = s.quads := rfl
@[simp] theorem State.onCluster_timers (s : State) (d n : Nat) (f : Cluster → Cluster) : (s.onCluster d n f).timers = s.timers := rfl
@[simp] theorem State.onCluster_agenda (s : State) (d n : Nat) (f : Cluster → Cluster) : (s.onCluster d n f).agenda = s.agenda := rfl
@[simp] theorem State.onCluster_arrived (s : State) (d n : Nat) (f : Cluster → Cluster) : (s.onCluster d n f).arrived = s.arrived := rfl
@[simp] theorem State.onCluster_sched (s : State) (d n : Nat) (f : Cluster → Cluster) : (s.onCluster d n f).sched = s.sched := rfl
@[simp] theorem State.onCluster_beat (s : State) (d n : Nat) (f : Cluster → Cluster) : (s.onCluster d n f).beat = s.beat := rfl
@[simp] theorem State.onCluster_fresh (s : State) (d n : Nat) (f : Cluster → Cluster) : (s.onCluster d n f).fresh = s.fresh := rfl
@[simp] theorem State.onCluster_clk (s : State) (d n : Nat) (f : Cluster → Cluster) : (s.onCluster d n f).clk = s.clk := rfl
@[simp] theorem State.onCluster_clkgen (s : State) (d n : Nat) (f : Cluster → Cluster) : (s.onCluster d n f).clkgen = s.clkgen := rfl
@[simp] theorem State.onCluster_ptp (s : State) (d n : Nat) (f : Cluster → Cluster) : (s.onCluster d n f).ptp = s.ptp := rfl
@[simp] theorem State.onCluster_up (s : State) (d n : Nat) (f : Cluster → Cluster) : (s.onCluster d n f).up = s.up := rfl
@[simp] theorem State.onCluster_kills (s : State) (d n : Nat) (f : Cluster → Cluster) : (s.onCluster d n f).kills = s.kills := rfl
@[simp] theorem State.onCluster_grids (s : State) (d n : Nat) (f : Cluster → Cluster) : (s.onCluster d n f).grids = s.grids := rfl
@[simp] theorem State.onCluster_departs (s : State) (d n : Nat) (f : Cluster → Cluster) : (s.onCluster d n f).departs = s.departs := rfl
@[simp] theorem State.onCluster_contexts (s : State) (d n : Nat) (f : Cluster → Cluster) : (s.onCluster d n f).contexts = s.contexts := rfl
@[simp] theorem State.onCluster_ports (s : State) (d n : Nat) (f : Cluster → Cluster) : (s.onCluster d n f).ports = s.ports := rfl
@[simp] theorem State.onCluster_regStores (s : State) (d n : Nat) (f : Cluster → Cluster) : (s.onCluster d n f).regStores = s.regStores := rfl
@[simp] theorem State.onCluster_portNow (s : State) (d n : Nat) (f : Cluster → Cluster) : (s.onCluster d n f).portNow = s.portNow := rfl
@[simp] theorem State.onCluster_windows (s : State) (d n : Nat) (f : Cluster → Cluster) : (s.onCluster d n f).windows = s.windows := rfl
@[simp] theorem State.onCluster_lanesLost (s : State) (d n : Nat) (f : Cluster → Cluster) : (s.onCluster d n f).lanesLost = s.lanesLost := rfl
@[simp] theorem State.onCluster_firmware (s : State) (d n : Nat) (f : Cluster → Cluster) : (s.onCluster d n f).firmware = s.firmware := rfl
@[simp] theorem State.onCluster_mgmt (s : State) (d n : Nat) (f : Cluster → Cluster) : (s.onCluster d n f).mgmt = s.mgmt := rfl

/-! ### State.putHome -/

@[simp] theorem State.putHome_core (s : State) (h : Home) : (s.putHome h).core = s.core := rfl
@[simp] theorem State.putHome_team (s : State) (h : Home) : (s.putHome h).team = s.team := rfl
@[simp] theorem State.putHome_grp (s : State) (h : Home) : (s.putHome h).grp = s.grp := rfl
@[simp] theorem State.putHome_cores (s : State) (h : Home) : (s.putHome h).cores = s.cores := rfl
@[simp] theorem State.putHome_clusters (s : State) (h : Home) : (s.putHome h).clusters = s.clusters := rfl
@[simp] theorem State.putHome_dies (s : State) (h : Home) : (s.putHome h).dies = s.dies := rfl
@[simp] theorem State.putHome_fetched (s : State) (h : Home) : (s.putHome h).fetched = s.fetched := rfl
@[simp] theorem State.putHome_mem (s : State) (h : Home) : (s.putHome h).mem = s.mem := rfl
@[simp] theorem State.putHome_pub (s : State) (h : Home) : (s.putHome h).pub = s.pub := rfl
@[simp] theorem State.putHome_memPoison (s : State) (h : Home) : (s.putHome h).memPoison = s.memPoison := rfl
@[simp] theorem State.putHome_homes (s : State) (h : Home) : (s.putHome h).homes = h :: s.homes.filter (·.line != h.line) := rfl
@[simp] theorem State.putHome_slices (s : State) (h : Home) : (s.putHome h).slices = s.slices := rfl
@[simp] theorem State.putHome_bench (s : State) (h : Home) : (s.putHome h).bench = s.bench := rfl
@[simp] theorem State.putHome_keptApply (s : State) (h : Home) : (s.putHome h).keptApply = s.keptApply := rfl
@[simp] theorem State.putHome_semWaiters (s : State) (h : Home) : (s.putHome h).semWaiters = s.semWaiters := rfl
@[simp] theorem State.putHome_quads (s : State) (h : Home) : (s.putHome h).quads = s.quads := rfl
@[simp] theorem State.putHome_timers (s : State) (h : Home) : (s.putHome h).timers = s.timers := rfl
@[simp] theorem State.putHome_agenda (s : State) (h : Home) : (s.putHome h).agenda = s.agenda := rfl
@[simp] theorem State.putHome_arrived (s : State) (h : Home) : (s.putHome h).arrived = s.arrived := rfl
@[simp] theorem State.putHome_sched (s : State) (h : Home) : (s.putHome h).sched = s.sched := rfl
@[simp] theorem State.putHome_beat (s : State) (h : Home) : (s.putHome h).beat = s.beat := rfl
@[simp] theorem State.putHome_fresh (s : State) (h : Home) : (s.putHome h).fresh = s.fresh := rfl
@[simp] theorem State.putHome_clk (s : State) (h : Home) : (s.putHome h).clk = s.clk := rfl
@[simp] theorem State.putHome_clkgen (s : State) (h : Home) : (s.putHome h).clkgen = s.clkgen := rfl
@[simp] theorem State.putHome_ptp (s : State) (h : Home) : (s.putHome h).ptp = s.ptp := rfl
@[simp] theorem State.putHome_up (s : State) (h : Home) : (s.putHome h).up = s.up := rfl
@[simp] theorem State.putHome_kills (s : State) (h : Home) : (s.putHome h).kills = s.kills := rfl
@[simp] theorem State.putHome_grids (s : State) (h : Home) : (s.putHome h).grids = s.grids := rfl
@[simp] theorem State.putHome_departs (s : State) (h : Home) : (s.putHome h).departs = s.departs := rfl
@[simp] theorem State.putHome_contexts (s : State) (h : Home) : (s.putHome h).contexts = s.contexts := rfl
@[simp] theorem State.putHome_ports (s : State) (h : Home) : (s.putHome h).ports = s.ports := rfl
@[simp] theorem State.putHome_regStores (s : State) (h : Home) : (s.putHome h).regStores = s.regStores := rfl
@[simp] theorem State.putHome_portNow (s : State) (h : Home) : (s.putHome h).portNow = s.portNow := rfl
@[simp] theorem State.putHome_windows (s : State) (h : Home) : (s.putHome h).windows = s.windows := rfl
@[simp] theorem State.putHome_lanesLost (s : State) (h : Home) : (s.putHome h).lanesLost = s.lanesLost := rfl
@[simp] theorem State.putHome_firmware (s : State) (h : Home) : (s.putHome h).firmware = s.firmware := rfl
@[simp] theorem State.putHome_mgmt (s : State) (h : Home) : (s.putHome h).mgmt = s.mgmt := rfl

/-! ### State.onSlice -/

@[simp] theorem State.onSlice_core (s : State) (line : Nat) (f : Slice → Slice) : (s.onSlice line f).core = s.core := rfl
@[simp] theorem State.onSlice_team (s : State) (line : Nat) (f : Slice → Slice) : (s.onSlice line f).team = s.team := rfl
@[simp] theorem State.onSlice_grp (s : State) (line : Nat) (f : Slice → Slice) : (s.onSlice line f).grp = s.grp := rfl
@[simp] theorem State.onSlice_cores (s : State) (line : Nat) (f : Slice → Slice) : (s.onSlice line f).cores = s.cores := rfl
@[simp] theorem State.onSlice_clusters (s : State) (line : Nat) (f : Slice → Slice) : (s.onSlice line f).clusters = s.clusters := rfl
@[simp] theorem State.onSlice_dies (s : State) (line : Nat) (f : Slice → Slice) : (s.onSlice line f).dies = s.dies := rfl
@[simp] theorem State.onSlice_fetched (s : State) (line : Nat) (f : Slice → Slice) : (s.onSlice line f).fetched = s.fetched := rfl
@[simp] theorem State.onSlice_mem (s : State) (line : Nat) (f : Slice → Slice) : (s.onSlice line f).mem = s.mem := rfl
@[simp] theorem State.onSlice_pub (s : State) (line : Nat) (f : Slice → Slice) : (s.onSlice line f).pub = s.pub := rfl
@[simp] theorem State.onSlice_memPoison (s : State) (line : Nat) (f : Slice → Slice) : (s.onSlice line f).memPoison = s.memPoison := rfl
@[simp] theorem State.onSlice_homes (s : State) (line : Nat) (f : Slice → Slice) : (s.onSlice line f).homes = s.homes := rfl
@[simp] theorem State.onSlice_slices (s : State) (line : Nat) (f : Slice → Slice) : (s.onSlice line f).slices = f (s.slice line) :: s.slices.filter fun x => !(x.die == lineDie line && x.ch == lineChannel line) := rfl
@[simp] theorem State.onSlice_bench (s : State) (line : Nat) (f : Slice → Slice) : (s.onSlice line f).bench = s.bench := rfl
@[simp] theorem State.onSlice_keptApply (s : State) (line : Nat) (f : Slice → Slice) : (s.onSlice line f).keptApply = s.keptApply := rfl
@[simp] theorem State.onSlice_semWaiters (s : State) (line : Nat) (f : Slice → Slice) : (s.onSlice line f).semWaiters = s.semWaiters := rfl
@[simp] theorem State.onSlice_quads (s : State) (line : Nat) (f : Slice → Slice) : (s.onSlice line f).quads = s.quads := rfl
@[simp] theorem State.onSlice_timers (s : State) (line : Nat) (f : Slice → Slice) : (s.onSlice line f).timers = s.timers := rfl
@[simp] theorem State.onSlice_agenda (s : State) (line : Nat) (f : Slice → Slice) : (s.onSlice line f).agenda = s.agenda := rfl
@[simp] theorem State.onSlice_arrived (s : State) (line : Nat) (f : Slice → Slice) : (s.onSlice line f).arrived = s.arrived := rfl
@[simp] theorem State.onSlice_sched (s : State) (line : Nat) (f : Slice → Slice) : (s.onSlice line f).sched = s.sched := rfl
@[simp] theorem State.onSlice_beat (s : State) (line : Nat) (f : Slice → Slice) : (s.onSlice line f).beat = s.beat := rfl
@[simp] theorem State.onSlice_fresh (s : State) (line : Nat) (f : Slice → Slice) : (s.onSlice line f).fresh = s.fresh := rfl
@[simp] theorem State.onSlice_clk (s : State) (line : Nat) (f : Slice → Slice) : (s.onSlice line f).clk = s.clk := rfl
@[simp] theorem State.onSlice_clkgen (s : State) (line : Nat) (f : Slice → Slice) : (s.onSlice line f).clkgen = s.clkgen := rfl
@[simp] theorem State.onSlice_ptp (s : State) (line : Nat) (f : Slice → Slice) : (s.onSlice line f).ptp = s.ptp := rfl
@[simp] theorem State.onSlice_up (s : State) (line : Nat) (f : Slice → Slice) : (s.onSlice line f).up = s.up := rfl
@[simp] theorem State.onSlice_kills (s : State) (line : Nat) (f : Slice → Slice) : (s.onSlice line f).kills = s.kills := rfl
@[simp] theorem State.onSlice_grids (s : State) (line : Nat) (f : Slice → Slice) : (s.onSlice line f).grids = s.grids := rfl
@[simp] theorem State.onSlice_departs (s : State) (line : Nat) (f : Slice → Slice) : (s.onSlice line f).departs = s.departs := rfl
@[simp] theorem State.onSlice_contexts (s : State) (line : Nat) (f : Slice → Slice) : (s.onSlice line f).contexts = s.contexts := rfl
@[simp] theorem State.onSlice_ports (s : State) (line : Nat) (f : Slice → Slice) : (s.onSlice line f).ports = s.ports := rfl
@[simp] theorem State.onSlice_regStores (s : State) (line : Nat) (f : Slice → Slice) : (s.onSlice line f).regStores = s.regStores := rfl
@[simp] theorem State.onSlice_portNow (s : State) (line : Nat) (f : Slice → Slice) : (s.onSlice line f).portNow = s.portNow := rfl
@[simp] theorem State.onSlice_windows (s : State) (line : Nat) (f : Slice → Slice) : (s.onSlice line f).windows = s.windows := rfl
@[simp] theorem State.onSlice_lanesLost (s : State) (line : Nat) (f : Slice → Slice) : (s.onSlice line f).lanesLost = s.lanesLost := rfl
@[simp] theorem State.onSlice_firmware (s : State) (line : Nat) (f : Slice → Slice) : (s.onSlice line f).firmware = s.firmware := rfl
@[simp] theorem State.onSlice_mgmt (s : State) (line : Nat) (f : Slice → Slice) : (s.onSlice line f).mgmt = s.mgmt := rfl

/-! ### State.setSector -/

@[simp] theorem State.setSector_core (s : State) (sector : Nat) (p : Bool) : (s.setSector sector p).core = s.core := rfl
@[simp] theorem State.setSector_team (s : State) (sector : Nat) (p : Bool) : (s.setSector sector p).team = s.team := rfl
@[simp] theorem State.setSector_grp (s : State) (sector : Nat) (p : Bool) : (s.setSector sector p).grp = s.grp := rfl
@[simp] theorem State.setSector_cores (s : State) (sector : Nat) (p : Bool) : (s.setSector sector p).cores = s.cores := rfl
@[simp] theorem State.setSector_clusters (s : State) (sector : Nat) (p : Bool) : (s.setSector sector p).clusters = s.clusters := rfl
@[simp] theorem State.setSector_dies (s : State) (sector : Nat) (p : Bool) : (s.setSector sector p).dies = s.dies := rfl
@[simp] theorem State.setSector_fetched (s : State) (sector : Nat) (p : Bool) : (s.setSector sector p).fetched = s.fetched := rfl
@[simp] theorem State.setSector_mem (s : State) (sector : Nat) (p : Bool) : (s.setSector sector p).mem = s.mem := rfl
@[simp] theorem State.setSector_pub (s : State) (sector : Nat) (p : Bool) : (s.setSector sector p).pub = s.pub := rfl
@[simp] theorem State.setSector_memPoison (s : State) (sector : Nat) (p : Bool) : (s.setSector sector p).memPoison = if p then insertN s.memPoison sector else eraseN s.memPoison sector := rfl
@[simp] theorem State.setSector_homes (s : State) (sector : Nat) (p : Bool) : (s.setSector sector p).homes = s.homes := rfl
@[simp] theorem State.setSector_slices (s : State) (sector : Nat) (p : Bool) : (s.setSector sector p).slices = s.slices := rfl
@[simp] theorem State.setSector_bench (s : State) (sector : Nat) (p : Bool) : (s.setSector sector p).bench = s.bench := rfl
@[simp] theorem State.setSector_keptApply (s : State) (sector : Nat) (p : Bool) : (s.setSector sector p).keptApply = s.keptApply := rfl
@[simp] theorem State.setSector_semWaiters (s : State) (sector : Nat) (p : Bool) : (s.setSector sector p).semWaiters = s.semWaiters := rfl
@[simp] theorem State.setSector_quads (s : State) (sector : Nat) (p : Bool) : (s.setSector sector p).quads = s.quads := rfl
@[simp] theorem State.setSector_timers (s : State) (sector : Nat) (p : Bool) : (s.setSector sector p).timers = s.timers := rfl
@[simp] theorem State.setSector_agenda (s : State) (sector : Nat) (p : Bool) : (s.setSector sector p).agenda = s.agenda := rfl
@[simp] theorem State.setSector_arrived (s : State) (sector : Nat) (p : Bool) : (s.setSector sector p).arrived = s.arrived := rfl
@[simp] theorem State.setSector_sched (s : State) (sector : Nat) (p : Bool) : (s.setSector sector p).sched = s.sched := rfl
@[simp] theorem State.setSector_beat (s : State) (sector : Nat) (p : Bool) : (s.setSector sector p).beat = s.beat := rfl
@[simp] theorem State.setSector_fresh (s : State) (sector : Nat) (p : Bool) : (s.setSector sector p).fresh = s.fresh := rfl
@[simp] theorem State.setSector_clk (s : State) (sector : Nat) (p : Bool) : (s.setSector sector p).clk = s.clk := rfl
@[simp] theorem State.setSector_clkgen (s : State) (sector : Nat) (p : Bool) : (s.setSector sector p).clkgen = s.clkgen := rfl
@[simp] theorem State.setSector_ptp (s : State) (sector : Nat) (p : Bool) : (s.setSector sector p).ptp = s.ptp := rfl
@[simp] theorem State.setSector_up (s : State) (sector : Nat) (p : Bool) : (s.setSector sector p).up = s.up := rfl
@[simp] theorem State.setSector_kills (s : State) (sector : Nat) (p : Bool) : (s.setSector sector p).kills = s.kills := rfl
@[simp] theorem State.setSector_grids (s : State) (sector : Nat) (p : Bool) : (s.setSector sector p).grids = s.grids := rfl
@[simp] theorem State.setSector_departs (s : State) (sector : Nat) (p : Bool) : (s.setSector sector p).departs = s.departs := rfl
@[simp] theorem State.setSector_contexts (s : State) (sector : Nat) (p : Bool) : (s.setSector sector p).contexts = s.contexts := rfl
@[simp] theorem State.setSector_ports (s : State) (sector : Nat) (p : Bool) : (s.setSector sector p).ports = s.ports := rfl
@[simp] theorem State.setSector_regStores (s : State) (sector : Nat) (p : Bool) : (s.setSector sector p).regStores = s.regStores := rfl
@[simp] theorem State.setSector_portNow (s : State) (sector : Nat) (p : Bool) : (s.setSector sector p).portNow = s.portNow := rfl
@[simp] theorem State.setSector_windows (s : State) (sector : Nat) (p : Bool) : (s.setSector sector p).windows = s.windows := rfl
@[simp] theorem State.setSector_lanesLost (s : State) (sector : Nat) (p : Bool) : (s.setSector sector p).lanesLost = s.lanesLost := rfl
@[simp] theorem State.setSector_firmware (s : State) (sector : Nat) (p : Bool) : (s.setSector sector p).firmware = s.firmware := rfl
@[simp] theorem State.setSector_mgmt (s : State) (sector : Nat) (p : Bool) : (s.setSector sector p).mgmt = s.mgmt := rfl

/-! ### State.requeue -/

@[simp] theorem State.requeue_core (s : State) (ms : List Instr) : (s.requeue ms).core = s.core := rfl
@[simp] theorem State.requeue_team (s : State) (ms : List Instr) : (s.requeue ms).team = s.team := rfl
@[simp] theorem State.requeue_grp (s : State) (ms : List Instr) : (s.requeue ms).grp = s.grp := rfl
@[simp] theorem State.requeue_cores (s : State) (ms : List Instr) : (s.requeue ms).cores = s.cores := rfl
@[simp] theorem State.requeue_clusters (s : State) (ms : List Instr) : (s.requeue ms).clusters = s.clusters := rfl
@[simp] theorem State.requeue_dies (s : State) (ms : List Instr) : (s.requeue ms).dies = s.dies := rfl
@[simp] theorem State.requeue_fetched (s : State) (ms : List Instr) : (s.requeue ms).fetched = s.fetched := rfl
@[simp] theorem State.requeue_mem (s : State) (ms : List Instr) : (s.requeue ms).mem = s.mem := rfl
@[simp] theorem State.requeue_pub (s : State) (ms : List Instr) : (s.requeue ms).pub = s.pub := rfl
@[simp] theorem State.requeue_memPoison (s : State) (ms : List Instr) : (s.requeue ms).memPoison = s.memPoison := rfl
@[simp] theorem State.requeue_homes (s : State) (ms : List Instr) : (s.requeue ms).homes = s.homes := rfl
@[simp] theorem State.requeue_slices (s : State) (ms : List Instr) : (s.requeue ms).slices = s.slices := rfl
@[simp] theorem State.requeue_bench (s : State) (ms : List Instr) : (s.requeue ms).bench = s.bench := rfl
@[simp] theorem State.requeue_keptApply (s : State) (ms : List Instr) : (s.requeue ms).keptApply = s.keptApply := rfl
@[simp] theorem State.requeue_semWaiters (s : State) (ms : List Instr) : (s.requeue ms).semWaiters = s.semWaiters := rfl
@[simp] theorem State.requeue_quads (s : State) (ms : List Instr) : (s.requeue ms).quads = s.quads := rfl
@[simp] theorem State.requeue_timers (s : State) (ms : List Instr) : (s.requeue ms).timers = s.timers := rfl
@[simp] theorem State.requeue_agenda (s : State) (ms : List Instr) : (s.requeue ms).agenda = s.agenda := rfl
@[simp] theorem State.requeue_arrived (s : State) (ms : List Instr) : (s.requeue ms).arrived = ms ++ s.arrived := rfl
@[simp] theorem State.requeue_sched (s : State) (ms : List Instr) : (s.requeue ms).sched = s.sched := rfl
@[simp] theorem State.requeue_beat (s : State) (ms : List Instr) : (s.requeue ms).beat = s.beat := rfl
@[simp] theorem State.requeue_fresh (s : State) (ms : List Instr) : (s.requeue ms).fresh = s.fresh := rfl
@[simp] theorem State.requeue_clk (s : State) (ms : List Instr) : (s.requeue ms).clk = s.clk := rfl
@[simp] theorem State.requeue_clkgen (s : State) (ms : List Instr) : (s.requeue ms).clkgen = s.clkgen := rfl
@[simp] theorem State.requeue_ptp (s : State) (ms : List Instr) : (s.requeue ms).ptp = s.ptp := rfl
@[simp] theorem State.requeue_up (s : State) (ms : List Instr) : (s.requeue ms).up = s.up := rfl
@[simp] theorem State.requeue_kills (s : State) (ms : List Instr) : (s.requeue ms).kills = s.kills := rfl
@[simp] theorem State.requeue_grids (s : State) (ms : List Instr) : (s.requeue ms).grids = s.grids := rfl
@[simp] theorem State.requeue_departs (s : State) (ms : List Instr) : (s.requeue ms).departs = s.departs := rfl
@[simp] theorem State.requeue_contexts (s : State) (ms : List Instr) : (s.requeue ms).contexts = s.contexts := rfl
@[simp] theorem State.requeue_ports (s : State) (ms : List Instr) : (s.requeue ms).ports = s.ports := rfl
@[simp] theorem State.requeue_regStores (s : State) (ms : List Instr) : (s.requeue ms).regStores = s.regStores := rfl
@[simp] theorem State.requeue_portNow (s : State) (ms : List Instr) : (s.requeue ms).portNow = s.portNow := rfl
@[simp] theorem State.requeue_windows (s : State) (ms : List Instr) : (s.requeue ms).windows = s.windows := rfl
@[simp] theorem State.requeue_lanesLost (s : State) (ms : List Instr) : (s.requeue ms).lanesLost = s.lanesLost := rfl
@[simp] theorem State.requeue_firmware (s : State) (ms : List Instr) : (s.requeue ms).firmware = s.firmware := rfl
@[simp] theorem State.requeue_mgmt (s : State) (ms : List Instr) : (s.requeue ms).mgmt = s.mgmt := rfl

/-! ### State.onGrid -/

@[simp] theorem State.onGrid_core (s : State) (g : GridId) (f : Grid → Grid) : (s.onGrid g f).core = s.core := rfl
@[simp] theorem State.onGrid_team (s : State) (g : GridId) (f : Grid → Grid) : (s.onGrid g f).team = s.team := rfl
@[simp] theorem State.onGrid_grp (s : State) (g : GridId) (f : Grid → Grid) : (s.onGrid g f).grp = s.grp := rfl
@[simp] theorem State.onGrid_cores (s : State) (g : GridId) (f : Grid → Grid) : (s.onGrid g f).cores = s.cores := rfl
@[simp] theorem State.onGrid_clusters (s : State) (g : GridId) (f : Grid → Grid) : (s.onGrid g f).clusters = s.clusters := rfl
@[simp] theorem State.onGrid_dies (s : State) (g : GridId) (f : Grid → Grid) : (s.onGrid g f).dies = s.dies := rfl
@[simp] theorem State.onGrid_fetched (s : State) (g : GridId) (f : Grid → Grid) : (s.onGrid g f).fetched = s.fetched := rfl
@[simp] theorem State.onGrid_mem (s : State) (g : GridId) (f : Grid → Grid) : (s.onGrid g f).mem = s.mem := rfl
@[simp] theorem State.onGrid_pub (s : State) (g : GridId) (f : Grid → Grid) : (s.onGrid g f).pub = s.pub := rfl
@[simp] theorem State.onGrid_memPoison (s : State) (g : GridId) (f : Grid → Grid) : (s.onGrid g f).memPoison = s.memPoison := rfl
@[simp] theorem State.onGrid_homes (s : State) (g : GridId) (f : Grid → Grid) : (s.onGrid g f).homes = s.homes := rfl
@[simp] theorem State.onGrid_slices (s : State) (g : GridId) (f : Grid → Grid) : (s.onGrid g f).slices = s.slices := rfl
@[simp] theorem State.onGrid_bench (s : State) (g : GridId) (f : Grid → Grid) : (s.onGrid g f).bench = s.bench := rfl
@[simp] theorem State.onGrid_keptApply (s : State) (g : GridId) (f : Grid → Grid) : (s.onGrid g f).keptApply = s.keptApply := rfl
@[simp] theorem State.onGrid_semWaiters (s : State) (g : GridId) (f : Grid → Grid) : (s.onGrid g f).semWaiters = s.semWaiters := rfl
@[simp] theorem State.onGrid_quads (s : State) (g : GridId) (f : Grid → Grid) : (s.onGrid g f).quads = s.quads := rfl
@[simp] theorem State.onGrid_timers (s : State) (g : GridId) (f : Grid → Grid) : (s.onGrid g f).timers = s.timers := rfl
@[simp] theorem State.onGrid_agenda (s : State) (g : GridId) (f : Grid → Grid) : (s.onGrid g f).agenda = s.agenda := rfl
@[simp] theorem State.onGrid_arrived (s : State) (g : GridId) (f : Grid → Grid) : (s.onGrid g f).arrived = s.arrived := rfl
@[simp] theorem State.onGrid_sched (s : State) (g : GridId) (f : Grid → Grid) : (s.onGrid g f).sched = s.sched := rfl
@[simp] theorem State.onGrid_beat (s : State) (g : GridId) (f : Grid → Grid) : (s.onGrid g f).beat = s.beat := rfl
@[simp] theorem State.onGrid_fresh (s : State) (g : GridId) (f : Grid → Grid) : (s.onGrid g f).fresh = s.fresh := rfl
@[simp] theorem State.onGrid_clk (s : State) (g : GridId) (f : Grid → Grid) : (s.onGrid g f).clk = s.clk := rfl
@[simp] theorem State.onGrid_clkgen (s : State) (g : GridId) (f : Grid → Grid) : (s.onGrid g f).clkgen = s.clkgen := rfl
@[simp] theorem State.onGrid_ptp (s : State) (g : GridId) (f : Grid → Grid) : (s.onGrid g f).ptp = s.ptp := rfl
@[simp] theorem State.onGrid_up (s : State) (g : GridId) (f : Grid → Grid) : (s.onGrid g f).up = s.up := rfl
@[simp] theorem State.onGrid_kills (s : State) (g : GridId) (f : Grid → Grid) : (s.onGrid g f).kills = s.kills := rfl
@[simp] theorem State.onGrid_grids (s : State) (g : GridId) (f : Grid → Grid) : (s.onGrid g f).grids = s.grids.map fun (x : Grid) => if x.id = g then f x else x := rfl
@[simp] theorem State.onGrid_departs (s : State) (g : GridId) (f : Grid → Grid) : (s.onGrid g f).departs = s.departs := rfl
@[simp] theorem State.onGrid_contexts (s : State) (g : GridId) (f : Grid → Grid) : (s.onGrid g f).contexts = s.contexts := rfl
@[simp] theorem State.onGrid_ports (s : State) (g : GridId) (f : Grid → Grid) : (s.onGrid g f).ports = s.ports := rfl
@[simp] theorem State.onGrid_regStores (s : State) (g : GridId) (f : Grid → Grid) : (s.onGrid g f).regStores = s.regStores := rfl
@[simp] theorem State.onGrid_portNow (s : State) (g : GridId) (f : Grid → Grid) : (s.onGrid g f).portNow = s.portNow := rfl
@[simp] theorem State.onGrid_windows (s : State) (g : GridId) (f : Grid → Grid) : (s.onGrid g f).windows = s.windows := rfl
@[simp] theorem State.onGrid_lanesLost (s : State) (g : GridId) (f : Grid → Grid) : (s.onGrid g f).lanesLost = s.lanesLost := rfl
@[simp] theorem State.onGrid_firmware (s : State) (g : GridId) (f : Grid → Grid) : (s.onGrid g f).firmware = s.firmware := rfl
@[simp] theorem State.onGrid_mgmt (s : State) (g : GridId) (f : Grid → Grid) : (s.onGrid g f).mgmt = s.mgmt := rfl

/-! ### State.putQuad -/

@[simp] theorem State.putQuad_core (s : State) (q : Quad) : (s.putQuad q).core = s.core := rfl
@[simp] theorem State.putQuad_team (s : State) (q : Quad) : (s.putQuad q).team = s.team := rfl
@[simp] theorem State.putQuad_grp (s : State) (q : Quad) : (s.putQuad q).grp = s.grp := rfl
@[simp] theorem State.putQuad_cores (s : State) (q : Quad) : (s.putQuad q).cores = s.cores := rfl
@[simp] theorem State.putQuad_clusters (s : State) (q : Quad) : (s.putQuad q).clusters = s.clusters := rfl
@[simp] theorem State.putQuad_dies (s : State) (q : Quad) : (s.putQuad q).dies = s.dies := rfl
@[simp] theorem State.putQuad_fetched (s : State) (q : Quad) : (s.putQuad q).fetched = s.fetched := rfl
@[simp] theorem State.putQuad_mem (s : State) (q : Quad) : (s.putQuad q).mem = s.mem := rfl
@[simp] theorem State.putQuad_pub (s : State) (q : Quad) : (s.putQuad q).pub = s.pub := rfl
@[simp] theorem State.putQuad_memPoison (s : State) (q : Quad) : (s.putQuad q).memPoison = s.memPoison := rfl
@[simp] theorem State.putQuad_homes (s : State) (q : Quad) : (s.putQuad q).homes = s.homes := rfl
@[simp] theorem State.putQuad_slices (s : State) (q : Quad) : (s.putQuad q).slices = s.slices := rfl
@[simp] theorem State.putQuad_bench (s : State) (q : Quad) : (s.putQuad q).bench = s.bench := rfl
@[simp] theorem State.putQuad_keptApply (s : State) (q : Quad) : (s.putQuad q).keptApply = s.keptApply := rfl
@[simp] theorem State.putQuad_semWaiters (s : State) (q : Quad) : (s.putQuad q).semWaiters = s.semWaiters := rfl
@[simp] theorem State.putQuad_quads (s : State) (q : Quad) : (s.putQuad q).quads = q :: s.quads.filter fun x => !(x.die == q.die && x.num == q.num) := rfl
@[simp] theorem State.putQuad_timers (s : State) (q : Quad) : (s.putQuad q).timers = s.timers := rfl
@[simp] theorem State.putQuad_agenda (s : State) (q : Quad) : (s.putQuad q).agenda = s.agenda := rfl
@[simp] theorem State.putQuad_arrived (s : State) (q : Quad) : (s.putQuad q).arrived = s.arrived := rfl
@[simp] theorem State.putQuad_sched (s : State) (q : Quad) : (s.putQuad q).sched = s.sched := rfl
@[simp] theorem State.putQuad_beat (s : State) (q : Quad) : (s.putQuad q).beat = s.beat := rfl
@[simp] theorem State.putQuad_fresh (s : State) (q : Quad) : (s.putQuad q).fresh = s.fresh := rfl
@[simp] theorem State.putQuad_clk (s : State) (q : Quad) : (s.putQuad q).clk = s.clk := rfl
@[simp] theorem State.putQuad_clkgen (s : State) (q : Quad) : (s.putQuad q).clkgen = s.clkgen := rfl
@[simp] theorem State.putQuad_ptp (s : State) (q : Quad) : (s.putQuad q).ptp = s.ptp := rfl
@[simp] theorem State.putQuad_up (s : State) (q : Quad) : (s.putQuad q).up = s.up := rfl
@[simp] theorem State.putQuad_kills (s : State) (q : Quad) : (s.putQuad q).kills = s.kills := rfl
@[simp] theorem State.putQuad_grids (s : State) (q : Quad) : (s.putQuad q).grids = s.grids := rfl
@[simp] theorem State.putQuad_departs (s : State) (q : Quad) : (s.putQuad q).departs = s.departs := rfl
@[simp] theorem State.putQuad_contexts (s : State) (q : Quad) : (s.putQuad q).contexts = s.contexts := rfl
@[simp] theorem State.putQuad_ports (s : State) (q : Quad) : (s.putQuad q).ports = s.ports := rfl
@[simp] theorem State.putQuad_regStores (s : State) (q : Quad) : (s.putQuad q).regStores = s.regStores := rfl
@[simp] theorem State.putQuad_portNow (s : State) (q : Quad) : (s.putQuad q).portNow = s.portNow := rfl
@[simp] theorem State.putQuad_windows (s : State) (q : Quad) : (s.putQuad q).windows = s.windows := rfl
@[simp] theorem State.putQuad_lanesLost (s : State) (q : Quad) : (s.putQuad q).lanesLost = s.lanesLost := rfl
@[simp] theorem State.putQuad_firmware (s : State) (q : Quad) : (s.putQuad q).firmware = s.firmware := rfl
@[simp] theorem State.putQuad_mgmt (s : State) (q : Quad) : (s.putQuad q).mgmt = s.mgmt := rfl

/-! ### State.answer -/

@[simp] theorem State.answer_core (s : State) (m : MgmtMsg) : (s.answer m).core = s.core := rfl
@[simp] theorem State.answer_team (s : State) (m : MgmtMsg) : (s.answer m).team = s.team := rfl
@[simp] theorem State.answer_grp (s : State) (m : MgmtMsg) : (s.answer m).grp = s.grp := rfl
@[simp] theorem State.answer_cores (s : State) (m : MgmtMsg) : (s.answer m).cores = s.cores := rfl
@[simp] theorem State.answer_clusters (s : State) (m : MgmtMsg) : (s.answer m).clusters = s.clusters := rfl
@[simp] theorem State.answer_dies (s : State) (m : MgmtMsg) : (s.answer m).dies = s.dies := rfl
@[simp] theorem State.answer_fetched (s : State) (m : MgmtMsg) : (s.answer m).fetched = s.fetched := rfl
@[simp] theorem State.answer_mem (s : State) (m : MgmtMsg) : (s.answer m).mem = s.mem := rfl
@[simp] theorem State.answer_pub (s : State) (m : MgmtMsg) : (s.answer m).pub = s.pub := rfl
@[simp] theorem State.answer_memPoison (s : State) (m : MgmtMsg) : (s.answer m).memPoison = s.memPoison := rfl
@[simp] theorem State.answer_homes (s : State) (m : MgmtMsg) : (s.answer m).homes = s.homes := rfl
@[simp] theorem State.answer_slices (s : State) (m : MgmtMsg) : (s.answer m).slices = s.slices := rfl
@[simp] theorem State.answer_bench (s : State) (m : MgmtMsg) : (s.answer m).bench = s.bench := rfl
@[simp] theorem State.answer_keptApply (s : State) (m : MgmtMsg) : (s.answer m).keptApply = s.keptApply := rfl
@[simp] theorem State.answer_semWaiters (s : State) (m : MgmtMsg) : (s.answer m).semWaiters = s.semWaiters := rfl
@[simp] theorem State.answer_quads (s : State) (m : MgmtMsg) : (s.answer m).quads = s.quads := rfl
@[simp] theorem State.answer_timers (s : State) (m : MgmtMsg) : (s.answer m).timers = s.timers := rfl
@[simp] theorem State.answer_agenda (s : State) (m : MgmtMsg) : (s.answer m).agenda = s.agenda := rfl
@[simp] theorem State.answer_arrived (s : State) (m : MgmtMsg) : (s.answer m).arrived = s.arrived := rfl
@[simp] theorem State.answer_sched (s : State) (m : MgmtMsg) : (s.answer m).sched = s.sched := rfl
@[simp] theorem State.answer_beat (s : State) (m : MgmtMsg) : (s.answer m).beat = s.beat := rfl
@[simp] theorem State.answer_fresh (s : State) (m : MgmtMsg) : (s.answer m).fresh = s.fresh := rfl
@[simp] theorem State.answer_clk (s : State) (m : MgmtMsg) : (s.answer m).clk = s.clk := rfl
@[simp] theorem State.answer_clkgen (s : State) (m : MgmtMsg) : (s.answer m).clkgen = s.clkgen := rfl
@[simp] theorem State.answer_ptp (s : State) (m : MgmtMsg) : (s.answer m).ptp = s.ptp := rfl
@[simp] theorem State.answer_up (s : State) (m : MgmtMsg) : (s.answer m).up = s.up := rfl
@[simp] theorem State.answer_kills (s : State) (m : MgmtMsg) : (s.answer m).kills = s.kills := rfl
@[simp] theorem State.answer_grids (s : State) (m : MgmtMsg) : (s.answer m).grids = s.grids := rfl
@[simp] theorem State.answer_departs (s : State) (m : MgmtMsg) : (s.answer m).departs = s.departs := rfl
@[simp] theorem State.answer_contexts (s : State) (m : MgmtMsg) : (s.answer m).contexts = s.contexts := rfl
@[simp] theorem State.answer_ports (s : State) (m : MgmtMsg) : (s.answer m).ports = s.ports := rfl
@[simp] theorem State.answer_regStores (s : State) (m : MgmtMsg) : (s.answer m).regStores = s.regStores := rfl
@[simp] theorem State.answer_portNow (s : State) (m : MgmtMsg) : (s.answer m).portNow = s.portNow := rfl
@[simp] theorem State.answer_windows (s : State) (m : MgmtMsg) : (s.answer m).windows = s.windows := rfl
@[simp] theorem State.answer_lanesLost (s : State) (m : MgmtMsg) : (s.answer m).lanesLost = s.lanesLost := rfl
@[simp] theorem State.answer_firmware (s : State) (m : MgmtMsg) : (s.answer m).firmware = s.firmware := rfl
@[simp] theorem State.answer_mgmt (s : State) (m : MgmtMsg) : (s.answer m).mgmt = s.mgmt ++ [m] := rfl

/-! ### State.onPort -/

@[simp] theorem State.onPort_core (s : State) (p : Nat) (f : Port → Port) : (s.onPort p f).core = s.core := rfl
@[simp] theorem State.onPort_team (s : State) (p : Nat) (f : Port → Port) : (s.onPort p f).team = s.team := rfl
@[simp] theorem State.onPort_grp (s : State) (p : Nat) (f : Port → Port) : (s.onPort p f).grp = s.grp := rfl
@[simp] theorem State.onPort_cores (s : State) (p : Nat) (f : Port → Port) : (s.onPort p f).cores = s.cores := rfl
@[simp] theorem State.onPort_clusters (s : State) (p : Nat) (f : Port → Port) : (s.onPort p f).clusters = s.clusters := rfl
@[simp] theorem State.onPort_dies (s : State) (p : Nat) (f : Port → Port) : (s.onPort p f).dies = s.dies := rfl
@[simp] theorem State.onPort_fetched (s : State) (p : Nat) (f : Port → Port) : (s.onPort p f).fetched = s.fetched := rfl
@[simp] theorem State.onPort_mem (s : State) (p : Nat) (f : Port → Port) : (s.onPort p f).mem = s.mem := rfl
@[simp] theorem State.onPort_pub (s : State) (p : Nat) (f : Port → Port) : (s.onPort p f).pub = s.pub := rfl
@[simp] theorem State.onPort_memPoison (s : State) (p : Nat) (f : Port → Port) : (s.onPort p f).memPoison = s.memPoison := rfl
@[simp] theorem State.onPort_homes (s : State) (p : Nat) (f : Port → Port) : (s.onPort p f).homes = s.homes := rfl
@[simp] theorem State.onPort_slices (s : State) (p : Nat) (f : Port → Port) : (s.onPort p f).slices = s.slices := rfl
@[simp] theorem State.onPort_bench (s : State) (p : Nat) (f : Port → Port) : (s.onPort p f).bench = s.bench := rfl
@[simp] theorem State.onPort_keptApply (s : State) (p : Nat) (f : Port → Port) : (s.onPort p f).keptApply = s.keptApply := rfl
@[simp] theorem State.onPort_semWaiters (s : State) (p : Nat) (f : Port → Port) : (s.onPort p f).semWaiters = s.semWaiters := rfl
@[simp] theorem State.onPort_quads (s : State) (p : Nat) (f : Port → Port) : (s.onPort p f).quads = s.quads := rfl
@[simp] theorem State.onPort_timers (s : State) (p : Nat) (f : Port → Port) : (s.onPort p f).timers = s.timers := rfl
@[simp] theorem State.onPort_agenda (s : State) (p : Nat) (f : Port → Port) : (s.onPort p f).agenda = s.agenda := rfl
@[simp] theorem State.onPort_arrived (s : State) (p : Nat) (f : Port → Port) : (s.onPort p f).arrived = s.arrived := rfl
@[simp] theorem State.onPort_sched (s : State) (p : Nat) (f : Port → Port) : (s.onPort p f).sched = s.sched := rfl
@[simp] theorem State.onPort_beat (s : State) (p : Nat) (f : Port → Port) : (s.onPort p f).beat = s.beat := rfl
@[simp] theorem State.onPort_fresh (s : State) (p : Nat) (f : Port → Port) : (s.onPort p f).fresh = s.fresh := rfl
@[simp] theorem State.onPort_clk (s : State) (p : Nat) (f : Port → Port) : (s.onPort p f).clk = s.clk := rfl
@[simp] theorem State.onPort_clkgen (s : State) (p : Nat) (f : Port → Port) : (s.onPort p f).clkgen = s.clkgen := rfl
@[simp] theorem State.onPort_ptp (s : State) (p : Nat) (f : Port → Port) : (s.onPort p f).ptp = s.ptp := rfl
@[simp] theorem State.onPort_up (s : State) (p : Nat) (f : Port → Port) : (s.onPort p f).up = s.up := rfl
@[simp] theorem State.onPort_kills (s : State) (p : Nat) (f : Port → Port) : (s.onPort p f).kills = s.kills := rfl
@[simp] theorem State.onPort_grids (s : State) (p : Nat) (f : Port → Port) : (s.onPort p f).grids = s.grids := rfl
@[simp] theorem State.onPort_departs (s : State) (p : Nat) (f : Port → Port) : (s.onPort p f).departs = s.departs := rfl
@[simp] theorem State.onPort_contexts (s : State) (p : Nat) (f : Port → Port) : (s.onPort p f).contexts = s.contexts := rfl
@[simp] theorem State.onPort_ports (s : State) (p : Nat) (f : Port → Port) : (s.onPort p f).ports = f (s.port p) :: s.ports.filter (·.num != p) := rfl
@[simp] theorem State.onPort_regStores (s : State) (p : Nat) (f : Port → Port) : (s.onPort p f).regStores = s.regStores := rfl
@[simp] theorem State.onPort_portNow (s : State) (p : Nat) (f : Port → Port) : (s.onPort p f).portNow = s.portNow := rfl
@[simp] theorem State.onPort_windows (s : State) (p : Nat) (f : Port → Port) : (s.onPort p f).windows = s.windows := rfl
@[simp] theorem State.onPort_lanesLost (s : State) (p : Nat) (f : Port → Port) : (s.onPort p f).lanesLost = s.lanesLost := rfl
@[simp] theorem State.onPort_firmware (s : State) (p : Nat) (f : Port → Port) : (s.onPort p f).firmware = s.firmware := rfl
@[simp] theorem State.onPort_mgmt (s : State) (p : Nat) (f : Port → Port) : (s.onPort p f).mgmt = s.mgmt := rfl

/-! ### State.unregister -/

@[simp] theorem State.unregister_core (s : State) (ref : Nat) : (s.unregister ref).core = s.core := rfl
@[simp] theorem State.unregister_team (s : State) (ref : Nat) : (s.unregister ref).team = s.team := rfl
@[simp] theorem State.unregister_grp (s : State) (ref : Nat) : (s.unregister ref).grp = s.grp := rfl
@[simp] theorem State.unregister_cores (s : State) (ref : Nat) : (s.unregister ref).cores = s.cores := rfl
@[simp] theorem State.unregister_clusters (s : State) (ref : Nat) : (s.unregister ref).clusters = s.clusters := rfl
@[simp] theorem State.unregister_dies (s : State) (ref : Nat) : (s.unregister ref).dies = s.dies := rfl
@[simp] theorem State.unregister_fetched (s : State) (ref : Nat) : (s.unregister ref).fetched = s.fetched := rfl
@[simp] theorem State.unregister_mem (s : State) (ref : Nat) : (s.unregister ref).mem = s.mem := rfl
@[simp] theorem State.unregister_pub (s : State) (ref : Nat) : (s.unregister ref).pub = s.pub := rfl
@[simp] theorem State.unregister_memPoison (s : State) (ref : Nat) : (s.unregister ref).memPoison = s.memPoison := rfl
@[simp] theorem State.unregister_homes (s : State) (ref : Nat) : (s.unregister ref).homes = s.homes := rfl
@[simp] theorem State.unregister_slices (s : State) (ref : Nat) : (s.unregister ref).slices = s.slices := rfl
@[simp] theorem State.unregister_bench (s : State) (ref : Nat) : (s.unregister ref).bench = s.bench := rfl
@[simp] theorem State.unregister_keptApply (s : State) (ref : Nat) : (s.unregister ref).keptApply = s.keptApply := rfl
@[simp] theorem State.unregister_semWaiters (s : State) (ref : Nat) : (s.unregister ref).semWaiters = s.semWaiters.filter fun w => w.ref != ref || w.launch.isSome := rfl
@[simp] theorem State.unregister_quads (s : State) (ref : Nat) : (s.unregister ref).quads = s.quads := rfl
@[simp] theorem State.unregister_timers (s : State) (ref : Nat) : (s.unregister ref).timers = s.timers := rfl
@[simp] theorem State.unregister_agenda (s : State) (ref : Nat) : (s.unregister ref).agenda = s.agenda := rfl
@[simp] theorem State.unregister_arrived (s : State) (ref : Nat) : (s.unregister ref).arrived = s.arrived := rfl
@[simp] theorem State.unregister_sched (s : State) (ref : Nat) : (s.unregister ref).sched = s.sched := rfl
@[simp] theorem State.unregister_beat (s : State) (ref : Nat) : (s.unregister ref).beat = s.beat := rfl
@[simp] theorem State.unregister_fresh (s : State) (ref : Nat) : (s.unregister ref).fresh = s.fresh := rfl
@[simp] theorem State.unregister_clk (s : State) (ref : Nat) : (s.unregister ref).clk = s.clk := rfl
@[simp] theorem State.unregister_clkgen (s : State) (ref : Nat) : (s.unregister ref).clkgen = s.clkgen := rfl
@[simp] theorem State.unregister_ptp (s : State) (ref : Nat) : (s.unregister ref).ptp = s.ptp := rfl
@[simp] theorem State.unregister_up (s : State) (ref : Nat) : (s.unregister ref).up = s.up := rfl
@[simp] theorem State.unregister_kills (s : State) (ref : Nat) : (s.unregister ref).kills = s.kills := rfl
@[simp] theorem State.unregister_grids (s : State) (ref : Nat) : (s.unregister ref).grids = s.grids := rfl
@[simp] theorem State.unregister_departs (s : State) (ref : Nat) : (s.unregister ref).departs = s.departs := rfl
@[simp] theorem State.unregister_contexts (s : State) (ref : Nat) : (s.unregister ref).contexts = s.contexts := rfl
@[simp] theorem State.unregister_ports (s : State) (ref : Nat) : (s.unregister ref).ports = s.ports := rfl
@[simp] theorem State.unregister_regStores (s : State) (ref : Nat) : (s.unregister ref).regStores = s.regStores := rfl
@[simp] theorem State.unregister_portNow (s : State) (ref : Nat) : (s.unregister ref).portNow = s.portNow := rfl
@[simp] theorem State.unregister_windows (s : State) (ref : Nat) : (s.unregister ref).windows = s.windows := rfl
@[simp] theorem State.unregister_lanesLost (s : State) (ref : Nat) : (s.unregister ref).lanesLost = s.lanesLost := rfl
@[simp] theorem State.unregister_firmware (s : State) (ref : Nat) : (s.unregister ref).firmware = s.firmware := rfl
@[simp] theorem State.unregister_mgmt (s : State) (ref : Nat) : (s.unregister ref).mgmt = s.mgmt := rfl

/-! ### State.forget -/

@[simp] theorem State.forget_core (s : State) (g : GridId) : (s.forget g).core = s.core := rfl
@[simp] theorem State.forget_team (s : State) (g : GridId) : (s.forget g).team = s.team := rfl
@[simp] theorem State.forget_grp (s : State) (g : GridId) : (s.forget g).grp = s.grp := rfl
@[simp] theorem State.forget_cores (s : State) (g : GridId) : (s.forget g).cores = s.cores := rfl
@[simp] theorem State.forget_clusters (s : State) (g : GridId) : (s.forget g).clusters = s.clusters := rfl
@[simp] theorem State.forget_dies (s : State) (g : GridId) : (s.forget g).dies = s.dies := rfl
@[simp] theorem State.forget_fetched (s : State) (g : GridId) : (s.forget g).fetched = s.fetched := rfl
@[simp] theorem State.forget_mem (s : State) (g : GridId) : (s.forget g).mem = s.mem := rfl
@[simp] theorem State.forget_pub (s : State) (g : GridId) : (s.forget g).pub = s.pub := rfl
@[simp] theorem State.forget_memPoison (s : State) (g : GridId) : (s.forget g).memPoison = s.memPoison := rfl
@[simp] theorem State.forget_homes (s : State) (g : GridId) : (s.forget g).homes = s.homes := rfl
@[simp] theorem State.forget_slices (s : State) (g : GridId) : (s.forget g).slices = s.slices := rfl
@[simp] theorem State.forget_bench (s : State) (g : GridId) : (s.forget g).bench = s.bench := rfl
@[simp] theorem State.forget_keptApply (s : State) (g : GridId) : (s.forget g).keptApply = s.keptApply := rfl
@[simp] theorem State.forget_semWaiters (s : State) (g : GridId) : (s.forget g).semWaiters = s.semWaiters := rfl
@[simp] theorem State.forget_quads (s : State) (g : GridId) : (s.forget g).quads = s.quads := rfl
@[simp] theorem State.forget_timers (s : State) (g : GridId) : (s.forget g).timers = s.timers := rfl
@[simp] theorem State.forget_agenda (s : State) (g : GridId) : (s.forget g).agenda = s.agenda := rfl
@[simp] theorem State.forget_arrived (s : State) (g : GridId) : (s.forget g).arrived = s.arrived := rfl
@[simp] theorem State.forget_sched (s : State) (g : GridId) : (s.forget g).sched = s.sched := rfl
@[simp] theorem State.forget_beat (s : State) (g : GridId) : (s.forget g).beat = s.beat := rfl
@[simp] theorem State.forget_fresh (s : State) (g : GridId) : (s.forget g).fresh = s.fresh := rfl
@[simp] theorem State.forget_clk (s : State) (g : GridId) : (s.forget g).clk = s.clk := rfl
@[simp] theorem State.forget_clkgen (s : State) (g : GridId) : (s.forget g).clkgen = s.clkgen := rfl
@[simp] theorem State.forget_ptp (s : State) (g : GridId) : (s.forget g).ptp = s.ptp := rfl
@[simp] theorem State.forget_up (s : State) (g : GridId) : (s.forget g).up = s.up := rfl
@[simp] theorem State.forget_kills (s : State) (g : GridId) : (s.forget g).kills = s.kills.filter (·.1 != g) := rfl
@[simp] theorem State.forget_grids (s : State) (g : GridId) : (s.forget g).grids = s.grids.filter (fun (x : Grid) => x.id != g) := rfl
@[simp] theorem State.forget_departs (s : State) (g : GridId) : (s.forget g).departs = s.departs := rfl
@[simp] theorem State.forget_contexts (s : State) (g : GridId) : (s.forget g).contexts = s.contexts := rfl
@[simp] theorem State.forget_ports (s : State) (g : GridId) : (s.forget g).ports = s.ports := rfl
@[simp] theorem State.forget_regStores (s : State) (g : GridId) : (s.forget g).regStores = s.regStores := rfl
@[simp] theorem State.forget_portNow (s : State) (g : GridId) : (s.forget g).portNow = s.portNow := rfl
@[simp] theorem State.forget_windows (s : State) (g : GridId) : (s.forget g).windows = s.windows := rfl
@[simp] theorem State.forget_lanesLost (s : State) (g : GridId) : (s.forget g).lanesLost = s.lanesLost := rfl
@[simp] theorem State.forget_firmware (s : State) (g : GridId) : (s.forget g).firmware = s.firmware := rfl
@[simp] theorem State.forget_mgmt (s : State) (g : GridId) : (s.forget g).mgmt = s.mgmt := rfl

/-! ### State.putTile -/

@[simp] theorem State.putTile_core (s : State) (n : Nat) (e : DWord) : (s.putTile n e).core = s.core := rfl
@[simp] theorem State.putTile_team (s : State) (n : Nat) (e : DWord) : (s.putTile n e).team = { s.team with shelf := s.team.shelf.map fun t => if t.1 = n then (n, e) else t } := rfl
@[simp] theorem State.putTile_grp (s : State) (n : Nat) (e : DWord) : (s.putTile n e).grp = s.grp := rfl
@[simp] theorem State.putTile_cores (s : State) (n : Nat) (e : DWord) : (s.putTile n e).cores = s.cores := rfl
@[simp] theorem State.putTile_clusters (s : State) (n : Nat) (e : DWord) : (s.putTile n e).clusters = s.clusters := rfl
@[simp] theorem State.putTile_dies (s : State) (n : Nat) (e : DWord) : (s.putTile n e).dies = s.dies := rfl
@[simp] theorem State.putTile_fetched (s : State) (n : Nat) (e : DWord) : (s.putTile n e).fetched = s.fetched := rfl
@[simp] theorem State.putTile_mem (s : State) (n : Nat) (e : DWord) : (s.putTile n e).mem = s.mem := rfl
@[simp] theorem State.putTile_pub (s : State) (n : Nat) (e : DWord) : (s.putTile n e).pub = s.pub := rfl
@[simp] theorem State.putTile_memPoison (s : State) (n : Nat) (e : DWord) : (s.putTile n e).memPoison = s.memPoison := rfl
@[simp] theorem State.putTile_homes (s : State) (n : Nat) (e : DWord) : (s.putTile n e).homes = s.homes := rfl
@[simp] theorem State.putTile_slices (s : State) (n : Nat) (e : DWord) : (s.putTile n e).slices = s.slices := rfl
@[simp] theorem State.putTile_bench (s : State) (n : Nat) (e : DWord) : (s.putTile n e).bench = s.bench := rfl
@[simp] theorem State.putTile_keptApply (s : State) (n : Nat) (e : DWord) : (s.putTile n e).keptApply = s.keptApply := rfl
@[simp] theorem State.putTile_semWaiters (s : State) (n : Nat) (e : DWord) : (s.putTile n e).semWaiters = s.semWaiters := rfl
@[simp] theorem State.putTile_quads (s : State) (n : Nat) (e : DWord) : (s.putTile n e).quads = s.quads := rfl
@[simp] theorem State.putTile_timers (s : State) (n : Nat) (e : DWord) : (s.putTile n e).timers = s.timers := rfl
@[simp] theorem State.putTile_agenda (s : State) (n : Nat) (e : DWord) : (s.putTile n e).agenda = s.agenda := rfl
@[simp] theorem State.putTile_arrived (s : State) (n : Nat) (e : DWord) : (s.putTile n e).arrived = s.arrived := rfl
@[simp] theorem State.putTile_sched (s : State) (n : Nat) (e : DWord) : (s.putTile n e).sched = s.sched := rfl
@[simp] theorem State.putTile_beat (s : State) (n : Nat) (e : DWord) : (s.putTile n e).beat = s.beat := rfl
@[simp] theorem State.putTile_fresh (s : State) (n : Nat) (e : DWord) : (s.putTile n e).fresh = s.fresh := rfl
@[simp] theorem State.putTile_clk (s : State) (n : Nat) (e : DWord) : (s.putTile n e).clk = s.clk := rfl
@[simp] theorem State.putTile_clkgen (s : State) (n : Nat) (e : DWord) : (s.putTile n e).clkgen = s.clkgen := rfl
@[simp] theorem State.putTile_ptp (s : State) (n : Nat) (e : DWord) : (s.putTile n e).ptp = s.ptp := rfl
@[simp] theorem State.putTile_up (s : State) (n : Nat) (e : DWord) : (s.putTile n e).up = s.up := rfl
@[simp] theorem State.putTile_kills (s : State) (n : Nat) (e : DWord) : (s.putTile n e).kills = s.kills := rfl
@[simp] theorem State.putTile_grids (s : State) (n : Nat) (e : DWord) : (s.putTile n e).grids = s.grids := rfl
@[simp] theorem State.putTile_departs (s : State) (n : Nat) (e : DWord) : (s.putTile n e).departs = s.departs := rfl
@[simp] theorem State.putTile_contexts (s : State) (n : Nat) (e : DWord) : (s.putTile n e).contexts = s.contexts := rfl
@[simp] theorem State.putTile_ports (s : State) (n : Nat) (e : DWord) : (s.putTile n e).ports = s.ports := rfl
@[simp] theorem State.putTile_regStores (s : State) (n : Nat) (e : DWord) : (s.putTile n e).regStores = s.regStores := rfl
@[simp] theorem State.putTile_portNow (s : State) (n : Nat) (e : DWord) : (s.putTile n e).portNow = s.portNow := rfl
@[simp] theorem State.putTile_windows (s : State) (n : Nat) (e : DWord) : (s.putTile n e).windows = s.windows := rfl
@[simp] theorem State.putTile_lanesLost (s : State) (n : Nat) (e : DWord) : (s.putTile n e).lanesLost = s.lanesLost := rfl
@[simp] theorem State.putTile_firmware (s : State) (n : Nat) (e : DWord) : (s.putTile n e).firmware = s.firmware := rfl
@[simp] theorem State.putTile_mgmt (s : State) (n : Nat) (e : DWord) : (s.putTile n e).mgmt = s.mgmt := rfl

/-! ### State.putQuery -/

@[simp] theorem State.putQuery_core (s : State) (q : Query) : (s.putQuery q).core = s.core := rfl
@[simp] theorem State.putQuery_team (s : State) (q : Query) : (s.putQuery q).team = { s.team with queries := q :: s.team.queries.filter (·.qid != q.qid) } := rfl
@[simp] theorem State.putQuery_grp (s : State) (q : Query) : (s.putQuery q).grp = s.grp := rfl
@[simp] theorem State.putQuery_cores (s : State) (q : Query) : (s.putQuery q).cores = s.cores := rfl
@[simp] theorem State.putQuery_clusters (s : State) (q : Query) : (s.putQuery q).clusters = s.clusters := rfl
@[simp] theorem State.putQuery_dies (s : State) (q : Query) : (s.putQuery q).dies = s.dies := rfl
@[simp] theorem State.putQuery_fetched (s : State) (q : Query) : (s.putQuery q).fetched = s.fetched := rfl
@[simp] theorem State.putQuery_mem (s : State) (q : Query) : (s.putQuery q).mem = s.mem := rfl
@[simp] theorem State.putQuery_pub (s : State) (q : Query) : (s.putQuery q).pub = s.pub := rfl
@[simp] theorem State.putQuery_memPoison (s : State) (q : Query) : (s.putQuery q).memPoison = s.memPoison := rfl
@[simp] theorem State.putQuery_homes (s : State) (q : Query) : (s.putQuery q).homes = s.homes := rfl
@[simp] theorem State.putQuery_slices (s : State) (q : Query) : (s.putQuery q).slices = s.slices := rfl
@[simp] theorem State.putQuery_bench (s : State) (q : Query) : (s.putQuery q).bench = s.bench := rfl
@[simp] theorem State.putQuery_keptApply (s : State) (q : Query) : (s.putQuery q).keptApply = s.keptApply := rfl
@[simp] theorem State.putQuery_semWaiters (s : State) (q : Query) : (s.putQuery q).semWaiters = s.semWaiters := rfl
@[simp] theorem State.putQuery_quads (s : State) (q : Query) : (s.putQuery q).quads = s.quads := rfl
@[simp] theorem State.putQuery_timers (s : State) (q : Query) : (s.putQuery q).timers = s.timers := rfl
@[simp] theorem State.putQuery_agenda (s : State) (q : Query) : (s.putQuery q).agenda = s.agenda := rfl
@[simp] theorem State.putQuery_arrived (s : State) (q : Query) : (s.putQuery q).arrived = s.arrived := rfl
@[simp] theorem State.putQuery_sched (s : State) (q : Query) : (s.putQuery q).sched = s.sched := rfl
@[simp] theorem State.putQuery_beat (s : State) (q : Query) : (s.putQuery q).beat = s.beat := rfl
@[simp] theorem State.putQuery_fresh (s : State) (q : Query) : (s.putQuery q).fresh = s.fresh := rfl
@[simp] theorem State.putQuery_clk (s : State) (q : Query) : (s.putQuery q).clk = s.clk := rfl
@[simp] theorem State.putQuery_clkgen (s : State) (q : Query) : (s.putQuery q).clkgen = s.clkgen := rfl
@[simp] theorem State.putQuery_ptp (s : State) (q : Query) : (s.putQuery q).ptp = s.ptp := rfl
@[simp] theorem State.putQuery_up (s : State) (q : Query) : (s.putQuery q).up = s.up := rfl
@[simp] theorem State.putQuery_kills (s : State) (q : Query) : (s.putQuery q).kills = s.kills := rfl
@[simp] theorem State.putQuery_grids (s : State) (q : Query) : (s.putQuery q).grids = s.grids := rfl
@[simp] theorem State.putQuery_departs (s : State) (q : Query) : (s.putQuery q).departs = s.departs := rfl
@[simp] theorem State.putQuery_contexts (s : State) (q : Query) : (s.putQuery q).contexts = s.contexts := rfl
@[simp] theorem State.putQuery_ports (s : State) (q : Query) : (s.putQuery q).ports = s.ports := rfl
@[simp] theorem State.putQuery_regStores (s : State) (q : Query) : (s.putQuery q).regStores = s.regStores := rfl
@[simp] theorem State.putQuery_portNow (s : State) (q : Query) : (s.putQuery q).portNow = s.portNow := rfl
@[simp] theorem State.putQuery_windows (s : State) (q : Query) : (s.putQuery q).windows = s.windows := rfl
@[simp] theorem State.putQuery_lanesLost (s : State) (q : Query) : (s.putQuery q).lanesLost = s.lanesLost := rfl
@[simp] theorem State.putQuery_firmware (s : State) (q : Query) : (s.putQuery q).firmware = s.firmware := rfl
@[simp] theorem State.putQuery_mgmt (s : State) (q : Query) : (s.putQuery q).mgmt = s.mgmt := rfl

/-! ### State.toBlock -/

@[simp] theorem State.toBlock_core (s : State) (w : RegStore) : (s.toBlock w).core = s.core := rfl
@[simp] theorem State.toBlock_team (s : State) (w : RegStore) : (s.toBlock w).team = s.team := rfl
@[simp] theorem State.toBlock_grp (s : State) (w : RegStore) : (s.toBlock w).grp = s.grp := rfl
@[simp] theorem State.toBlock_cores (s : State) (w : RegStore) : (s.toBlock w).cores = s.cores := rfl
@[simp] theorem State.toBlock_clusters (s : State) (w : RegStore) : (s.toBlock w).clusters = s.clusters := rfl
@[simp] theorem State.toBlock_dies (s : State) (w : RegStore) : (s.toBlock w).dies = s.dies := rfl
@[simp] theorem State.toBlock_fetched (s : State) (w : RegStore) : (s.toBlock w).fetched = s.fetched := rfl
@[simp] theorem State.toBlock_mem (s : State) (w : RegStore) : (s.toBlock w).mem = s.mem := rfl
@[simp] theorem State.toBlock_pub (s : State) (w : RegStore) : (s.toBlock w).pub = s.pub := rfl
@[simp] theorem State.toBlock_memPoison (s : State) (w : RegStore) : (s.toBlock w).memPoison = s.memPoison := rfl
@[simp] theorem State.toBlock_homes (s : State) (w : RegStore) : (s.toBlock w).homes = s.homes := rfl
@[simp] theorem State.toBlock_slices (s : State) (w : RegStore) : (s.toBlock w).slices = s.slices := rfl
@[simp] theorem State.toBlock_bench (s : State) (w : RegStore) : (s.toBlock w).bench = s.bench := rfl
@[simp] theorem State.toBlock_keptApply (s : State) (w : RegStore) : (s.toBlock w).keptApply = s.keptApply := rfl
@[simp] theorem State.toBlock_semWaiters (s : State) (w : RegStore) : (s.toBlock w).semWaiters = s.semWaiters := rfl
@[simp] theorem State.toBlock_quads (s : State) (w : RegStore) : (s.toBlock w).quads = s.quads := rfl
@[simp] theorem State.toBlock_timers (s : State) (w : RegStore) : (s.toBlock w).timers = s.timers := rfl
@[simp] theorem State.toBlock_agenda (s : State) (w : RegStore) : (s.toBlock w).agenda = s.agenda := rfl
@[simp] theorem State.toBlock_arrived (s : State) (w : RegStore) : (s.toBlock w).arrived = s.arrived := rfl
@[simp] theorem State.toBlock_sched (s : State) (w : RegStore) : (s.toBlock w).sched = s.sched := rfl
@[simp] theorem State.toBlock_beat (s : State) (w : RegStore) : (s.toBlock w).beat = s.beat := rfl
@[simp] theorem State.toBlock_fresh (s : State) (w : RegStore) : (s.toBlock w).fresh = s.fresh := rfl
@[simp] theorem State.toBlock_clk (s : State) (w : RegStore) : (s.toBlock w).clk = s.clk := rfl
@[simp] theorem State.toBlock_clkgen (s : State) (w : RegStore) : (s.toBlock w).clkgen = s.clkgen := rfl
@[simp] theorem State.toBlock_ptp (s : State) (w : RegStore) : (s.toBlock w).ptp = s.ptp := rfl
@[simp] theorem State.toBlock_up (s : State) (w : RegStore) : (s.toBlock w).up = s.up := rfl
@[simp] theorem State.toBlock_kills (s : State) (w : RegStore) : (s.toBlock w).kills = s.kills := rfl
@[simp] theorem State.toBlock_grids (s : State) (w : RegStore) : (s.toBlock w).grids = s.grids := rfl
@[simp] theorem State.toBlock_departs (s : State) (w : RegStore) : (s.toBlock w).departs = s.departs := rfl
@[simp] theorem State.toBlock_contexts (s : State) (w : RegStore) : (s.toBlock w).contexts = s.contexts := rfl
@[simp] theorem State.toBlock_ports (s : State) (w : RegStore) : (s.toBlock w).ports = s.ports := rfl
@[simp] theorem State.toBlock_regStores (s : State) (w : RegStore) : (s.toBlock w).regStores = s.regStores ++ [w] := rfl
@[simp] theorem State.toBlock_portNow (s : State) (w : RegStore) : (s.toBlock w).portNow = s.portNow := rfl
@[simp] theorem State.toBlock_windows (s : State) (w : RegStore) : (s.toBlock w).windows = s.windows := rfl
@[simp] theorem State.toBlock_lanesLost (s : State) (w : RegStore) : (s.toBlock w).lanesLost = s.lanesLost := rfl
@[simp] theorem State.toBlock_firmware (s : State) (w : RegStore) : (s.toBlock w).firmware = s.firmware := rfl
@[simp] theorem State.toBlock_mgmt (s : State) (w : RegStore) : (s.toBlock w).mgmt = s.mgmt := rfl

end Sys2Proof.Machine
end

