-- ==== Sys2Proof/Laws/Event.lean ====
section
/-! SUPPORT. Laws of the accessors that events use: the record of a die, the core in focus, and the agenda. -/

namespace Sys2Proof.Machine

/-! ### The record of a die -/

theorem State.die_num (s : State) (d : Nat) : (s.die d).num = d := by
  unfold State.die Panel.die
  cases h : s.dies.find? (·.num == d) with
  | none => rfl
  | some x => simpa using List.find?_some h

/-- The changed record of a die reads as changed. -/
theorem State.die_onDie (s : State) (d : Nat) (f : Die → Die) (h : (f (s.die d)).num = d) :
    (s.onDie d f).die d = f (s.die d) := by
  show ((f (s.die d) :: s.dies.filter (·.num != d)).find? (·.num == d)).getD _ = _
  rw [List.find?_cons_of_pos (by simp [h])]
  rfl

/-- Another die's record stays. -/
theorem State.die_onDie_other (s : State) {d k : Nat} (f : Die → Die) (h : (f (s.die d)).num = d) (hk : k ≠ d) :
    (s.onDie d f).die k = s.die k := by
  show ((f (s.die d) :: s.dies.filter (·.num != d)).find? (·.num == k)).getD _ = _
  rw [List.find?_cons_of_neg (by simp [h, Ne.symm hk]), List.find?_filter]
  unfold State.die Panel.die
  congr 1
  induction s.dies with
  | nil => rfl
  | cons x l ih =>
    simp only [List.find?_cons, ih]
    by_cases hx : x.num = k
    · simp [hx, hk]
    · rw [beq_false_of_ne hx]
      simp

/-- Two changes of one die's record are one. -/
theorem State.onDie_onDie (s : State) (d : Nat) (f g : Die → Die) (h : (f (s.die d)).num = d) :
    (s.onDie d f).onDie d g = s.onDie d fun x => g (f x) := by
  have e := s.die_onDie d f h
  unfold State.onDie at *
  dsimp only at *
  rw [e, List.filter_cons_of_neg (by simp [h]), List.filter_filter]
  simp

/-! ### Focus and agenda -/

@[simp] theorem State.focusCore_self (s : State) : s.focusCore s.core.id = s := if_pos rfl

@[simp] theorem State.send_die (s : State) (m : Instr) (d : Nat) : (s.send m).die d = s.die d := rfl

/-- Sending a list of messages appends them. -/
theorem State.sendAll (ms : List Instr) (s : State) : ms.foldl State.send s = { s with agenda := s.agenda ++ ms } := by
  induction ms generalizing s with
  | nil => simp
  | cons m l ih => rw [List.foldl_cons, ih]; simp [State.send]

end Sys2Proof.Machine
end

