-- ==== Sys2Proof/Laws/PerInstr.lean ====
section
/-! SUPPORT. The family RoundTrip: of every constructor of Instr, that its words, where it has words, decode to it. -/

namespace Sys2Proof

/-! ### Fields and specifiers -/

theorem fld_eq {n : Nat} {w lo : Nat} {x : BitVec n} (h : w / 2 ^ lo % 2 ^ n = x.toNat) : fld w lo n = x :=
  BitVec.eq_of_toNat_eq (by rw [fld, BitVec.toNat_ofNat, h])

theorem Opnd.code_lt (o : Opnd) : o.code < 512 := by
  cases o <;> rename_i n <;> have := n.isLt <;> simp only [Opnd.code] <;> omega

theorem opnd_code (o : Opnd) : opnd o.code = o := by
  cases o with
  | v n => have h := n.isLt; show opnd n.toNat = _; unfold opnd; rw [if_pos (by omega)]; simp
  | s n => have h := n.isLt; show opnd (0x100 + n.toNat) = _; unfold opnd; rw [if_neg (by omega), if_pos (by omega)]; simp
  | const n =>
    have h := n.isLt; show opnd (0x140 + n.toNat) = _; unfold opnd; rw [if_neg (by omega), if_neg (by omega), if_pos (by omega)]; simp
  | int n =>
    have h := n.isLt; show opnd (0x180 + n.toNat) = _; unfold opnd
    rw [if_neg (by omega), if_neg (by omega), if_neg (by omega), if_pos (by omega)]; simp
  | resv n =>
    have h := n.isLt; show opnd (0x1C0 + n.toNat) = _; unfold opnd
    rw [if_neg (by omega), if_neg (by omega), if_neg (by omega), if_neg (by omega)]; simp

theorem opnd_eq {w lo : Nat} {o : Opnd} (h : w / 2 ^ lo % 512 = o.code) : opnd (w / 2 ^ lo % 512) = o := by rw [h, opnd_code]

theorem toNat_fld (w lo n : Nat) : (fld w lo n).toNat = w / 2 ^ lo % 2 ^ n := by rw [fld, BitVec.toNat_ofNat]

theorem joinBits (w a m b : Nat) (h : a * m = b) : w / a % m * a + w % a = w % b := by
  rw [← h, Nat.mod_mul, Nat.mul_comm, Nat.add_comm]

theorem code_opnd (x : Nat) : (opnd (x % 512)).code = x % 512 := by
  unfold opnd
  have h : x % 512 < 512 := Nat.mod_lt _ (by decide)
  split
  · simp only [Opnd.code, BitVec.toNat_ofNat]; omega
  split
  · simp only [Opnd.code, BitVec.toNat_ofNat]; omega
  split
  · simp only [Opnd.code, BitVec.toNat_ofNat]; omega
  split
  · simp only [Opnd.code, BitVec.toNat_ofNat]; omega
  · simp only [Opnd.code, BitVec.toNat_ofNat]; omega

/-! ### The V3 format -/

theorem putV3_getV3 {w : Nat} (h : w < 2 ^ 88) : putV3 (getV3 w) = w := by
  simp only [putV3, getV3, code_opnd, toNat_fld]
  simp only [Nat.add_assoc]
  rw [Nat.pow_zero, Nat.div_one, joinBits w (2 ^ 8) (2 ^ 4) (2 ^ 12) (by decide), joinBits w (2 ^ 12) (2 ^ 6) (2 ^ 18) (by decide),
    joinBits w (2 ^ 18) (2 ^ 6) (2 ^ 24) (by decide), joinBits w (2 ^ 24) (2 ^ 7) (2 ^ 31) (by decide),
    joinBits w (2 ^ 31) (512) (2 ^ 40) (by decide), joinBits w (2 ^ 40) (2 ^ 7) (2 ^ 47) (by decide),
    joinBits w (2 ^ 47) (512) (2 ^ 56) (by decide), joinBits w (2 ^ 56) (2 ^ 7) (2 ^ 63) (by decide),
    joinBits w (2 ^ 63) (512) (2 ^ 72) (by decide), joinBits w (2 ^ 72) (512) (2 ^ 81) (by decide),
    joinBits w (2 ^ 81) (2 ^ 3) (2 ^ 84) (by decide), joinBits w (2 ^ 84) (2 ^ 4) (2 ^ 88) (by decide), Nat.mod_eq_of_lt h]

theorem putV3_lt (f : V3) : putV3 f < 2 ^ 88 := by
  obtain ⟨x0, x1, x2, x3, x4, x5, x6, x7, x8, x9, x10, x11, x12⟩ := f
  have := x0.isLt; have := x1.isLt; have := x2.code_lt; have := x3.code_lt; have := x4.isLt; have := x5.code_lt; have := x6.isLt
  have := x7.code_lt; have := x8.isLt; have := x9.isLt; have := x10.isLt; have := x11.isLt; have := x12.isLt
  simp only [putV3]; omega

theorem getV3_putV3 (f : V3) : getV3 (putV3 f) = f := by
  obtain ⟨x0, x1, x2, x3, x4, x5, x6, x7, x8, x9, x10, x11, x12⟩ := f
  have := x0.isLt; have := x1.isLt; have := x2.code_lt; have := x3.code_lt; have := x4.isLt; have := x5.code_lt; have := x6.isLt
  have := x7.code_lt; have := x8.isLt; have := x9.isLt; have := x10.isLt; have := x11.isLt; have := x12.isLt
  simp only [getV3, V3.mk.injEq]
  refine ⟨fld_eq ?_, fld_eq ?_, opnd_eq ?_, opnd_eq ?_, fld_eq ?_, opnd_eq ?_, fld_eq ?_, opnd_eq ?_, fld_eq ?_, fld_eq ?_, fld_eq ?_, fld_eq ?_, fld_eq ?_⟩ <;>
    simp only [putV3] <;> omega

/-! ### The VI format -/

theorem putVI_getVI {w : Nat} (h : w < 2 ^ 88) : putVI (getVI w) = w := by
  simp only [putVI, getVI, code_opnd, toNat_fld]
  simp only [Nat.add_assoc]
  rw [Nat.pow_zero, Nat.div_one, joinBits w (2 ^ 32) (2 ^ 4) (2 ^ 36) (by decide), joinBits w (2 ^ 36) (2 ^ 4) (2 ^ 40) (by decide),
    joinBits w (2 ^ 40) (2 ^ 7) (2 ^ 47) (by decide), joinBits w (2 ^ 47) (512) (2 ^ 56) (by decide),
    joinBits w (2 ^ 56) (2 ^ 7) (2 ^ 63) (by decide), joinBits w (2 ^ 63) (512) (2 ^ 72) (by decide),
    joinBits w (2 ^ 72) (512) (2 ^ 81) (by decide), joinBits w (2 ^ 81) (2 ^ 3) (2 ^ 84) (by decide),
    joinBits w (2 ^ 84) (2 ^ 4) (2 ^ 88) (by decide), Nat.mod_eq_of_lt h]

theorem putVI_lt (f : VI) : putVI f < 2 ^ 88 := by
  obtain ⟨x0, x1, x2, x3, x4, x5, x6, x7, x8, x9⟩ := f
  have := x0.isLt; have := x1.isLt; have := x2.code_lt; have := x3.code_lt; have := x4.isLt; have := x5.code_lt; have := x6.isLt
  have := x7.isLt; have := x8.isLt; have := x9.isLt
  simp only [putVI]; omega

theorem getVI_putVI (f : VI) : getVI (putVI f) = f := by
  obtain ⟨x0, x1, x2, x3, x4, x5, x6, x7, x8, x9⟩ := f
  have := x0.isLt; have := x1.isLt; have := x2.code_lt; have := x3.code_lt; have := x4.isLt; have := x5.code_lt; have := x6.isLt
  have := x7.isLt; have := x8.isLt; have := x9.isLt
  simp only [getVI, VI.mk.injEq]
  refine ⟨fld_eq ?_, fld_eq ?_, opnd_eq ?_, opnd_eq ?_, fld_eq ?_, opnd_eq ?_, fld_eq ?_, fld_eq ?_, fld_eq ?_, fld_eq ?_⟩ <;>
    simp only [putVI] <;> omega

/-! ### The U format -/

theorem putU_getU {w : Nat} (h : w < 2 ^ 88) : putU (getU w) = w := by
  simp only [putU, getU, code_opnd, toNat_fld]
  simp only [Nat.add_assoc]
  rw [Nat.pow_zero, Nat.div_one, joinBits w (2 ^ 32) (2 ^ 9) (2 ^ 41) (by decide), joinBits w (2 ^ 41) (2 ^ 1) (2 ^ 42) (by decide),
    joinBits w (2 ^ 42) (512) (2 ^ 51) (by decide), joinBits w (2 ^ 51) (512) (2 ^ 60) (by decide),
    joinBits w (2 ^ 60) (512) (2 ^ 69) (by decide), joinBits w (2 ^ 69) (512) (2 ^ 78) (by decide),
    joinBits w (2 ^ 78) (2 ^ 6) (2 ^ 84) (by decide), joinBits w (2 ^ 84) (2 ^ 4) (2 ^ 88) (by decide), Nat.mod_eq_of_lt h]

theorem putU_lt (f : UF) : putU f < 2 ^ 88 := by
  obtain ⟨x0, x1, x2, x3, x4, x5, x6, x7, x8⟩ := f
  have := x0.isLt; have := x1.isLt; have := x2.code_lt; have := x3.code_lt; have := x4.code_lt; have := x5.code_lt; have := x6.isLt
  have := x7.isLt; have := x8.isLt
  simp only [putU]; omega

theorem getU_putU (f : UF) : getU (putU f) = f := by
  obtain ⟨x0, x1, x2, x3, x4, x5, x6, x7, x8⟩ := f
  have := x0.isLt; have := x1.isLt; have := x2.code_lt; have := x3.code_lt; have := x4.code_lt; have := x5.code_lt; have := x6.isLt
  have := x7.isLt; have := x8.isLt
  simp only [getU, UF.mk.injEq]
  refine ⟨fld_eq ?_, fld_eq ?_, opnd_eq ?_, opnd_eq ?_, opnd_eq ?_, opnd_eq ?_, fld_eq ?_, fld_eq ?_, fld_eq ?_⟩ <;>
    simp only [putU] <;> omega

/-! ### The M format -/

theorem putM_getM {w : Nat} (h : w < 2 ^ 88) : putM (getM w) = w := by
  simp only [putM, getM, code_opnd, toNat_fld]
  simp only [Nat.add_assoc]
  rw [Nat.pow_zero, Nat.div_one, joinBits w (2 ^ 13) (2 ^ 6) (2 ^ 19) (by decide), joinBits w (2 ^ 19) (2 ^ 1) (2 ^ 20) (by decide),
    joinBits w (2 ^ 20) (2 ^ 3) (2 ^ 23) (by decide), joinBits w (2 ^ 23) (512) (2 ^ 32) (by decide),
    joinBits w (2 ^ 32) (2 ^ 16) (2 ^ 48) (by decide), joinBits w (2 ^ 48) (2 ^ 2) (2 ^ 50) (by decide),
    joinBits w (2 ^ 50) (2 ^ 6) (2 ^ 56) (by decide), joinBits w (2 ^ 56) (2 ^ 4) (2 ^ 60) (by decide),
    joinBits w (2 ^ 60) (512) (2 ^ 69) (by decide), joinBits w (2 ^ 69) (512) (2 ^ 78) (by decide),
    joinBits w (2 ^ 78) (2 ^ 2) (2 ^ 80) (by decide), joinBits w (2 ^ 80) (2 ^ 4) (2 ^ 84) (by decide),
    joinBits w (2 ^ 84) (2 ^ 4) (2 ^ 88) (by decide), Nat.mod_eq_of_lt h]

theorem putM_lt (f : MF) : putM f < 2 ^ 88 := by
  obtain ⟨x0, x1, x2, x3, x4, x5, x6, x7, x8, x9, x10, x11, x12, x13⟩ := f
  have := x0.isLt; have := x1.isLt; have := x2.isLt; have := x3.code_lt; have := x4.code_lt; have := x5.isLt; have := x6.isLt
  have := x7.isLt; have := x8.isLt; have := x9.code_lt; have := x10.isLt; have := x11.isLt; have := x12.isLt; have := x13.isLt
  simp only [putM]; omega

theorem getM_putM (f : MF) : getM (putM f) = f := by
  obtain ⟨x0, x1, x2, x3, x4, x5, x6, x7, x8, x9, x10, x11, x12, x13⟩ := f
  have := x0.isLt; have := x1.isLt; have := x2.isLt; have := x3.code_lt; have := x4.code_lt; have := x5.isLt; have := x6.isLt
  have := x7.isLt; have := x8.isLt; have := x9.code_lt; have := x10.isLt; have := x11.isLt; have := x12.isLt; have := x13.isLt
  simp only [getM, MF.mk.injEq]
  refine ⟨fld_eq ?_, fld_eq ?_, fld_eq ?_, opnd_eq ?_, opnd_eq ?_, fld_eq ?_, fld_eq ?_, fld_eq ?_, fld_eq ?_, opnd_eq ?_, fld_eq ?_, fld_eq ?_, fld_eq ?_, fld_eq ?_⟩ <;>
    simp only [putM] <;> omega

/-! ### The X format -/

theorem putX_getX {w : Nat} (h : w < 2 ^ 88) : putX (getX w) = w := by
  simp only [putX, getX, code_opnd, toNat_fld]
  simp only [Nat.add_assoc]
  rw [Nat.pow_zero, Nat.div_one, joinBits w (2 ^ 16) (2 ^ 5) (2 ^ 21) (by decide), joinBits w (2 ^ 21) (2 ^ 6) (2 ^ 27) (by decide),
    joinBits w (2 ^ 27) (2 ^ 17) (2 ^ 44) (by decide), joinBits w (2 ^ 44) (2 ^ 1) (2 ^ 45) (by decide),
    joinBits w (2 ^ 45) (2 ^ 6) (2 ^ 51) (by decide), joinBits w (2 ^ 51) (512) (2 ^ 60) (by decide),
    joinBits w (2 ^ 60) (512) (2 ^ 69) (by decide), joinBits w (2 ^ 69) (512) (2 ^ 78) (by decide),
    joinBits w (2 ^ 78) (2 ^ 6) (2 ^ 84) (by decide), joinBits w (2 ^ 84) (2 ^ 4) (2 ^ 88) (by decide), Nat.mod_eq_of_lt h]

theorem putX_lt (f : XF) : putX f < 2 ^ 88 := by
  obtain ⟨x0, x1, x2, x3, x4, x5, x6, x7, x8, x9, x10⟩ := f
  have := x0.isLt; have := x1.isLt; have := x2.code_lt; have := x3.code_lt; have := x4.code_lt; have := x5.isLt; have := x6.isLt
  have := x7.isLt; have := x8.isLt; have := x9.isLt; have := x10.isLt
  simp only [putX]; omega

theorem getX_putX (f : XF) : getX (putX f) = f := by
  obtain ⟨x0, x1, x2, x3, x4, x5, x6, x7, x8, x9, x10⟩ := f
  have := x0.isLt; have := x1.isLt; have := x2.code_lt; have := x3.code_lt; have := x4.code_lt; have := x5.isLt; have := x6.isLt
  have := x7.isLt; have := x8.isLt; have := x9.isLt; have := x10.isLt
  simp only [getX, XF.mk.injEq]
  refine ⟨fld_eq ?_, fld_eq ?_, opnd_eq ?_, opnd_eq ?_, opnd_eq ?_, fld_eq ?_, fld_eq ?_, fld_eq ?_, fld_eq ?_, fld_eq ?_, fld_eq ?_⟩ <;>
    simp only [putX] <;> omega

/-! ### The B format -/

theorem putB_getB {w : Nat} (h : w < 2 ^ 88) : putB (getB w) = w := by
  simp only [putB, getB, code_opnd, toNat_fld]
  simp only [Nat.add_assoc]
  rw [Nat.pow_zero, Nat.div_one, joinBits w (2 ^ 32) (2 ^ 1) (2 ^ 33) (by decide), joinBits w (2 ^ 33) (2 ^ 6) (2 ^ 39) (by decide),
    joinBits w (2 ^ 39) (2 ^ 3) (2 ^ 42) (by decide), joinBits w (2 ^ 42) (2 ^ 21) (2 ^ 63) (by decide),
    joinBits w (2 ^ 63) (512) (2 ^ 72) (by decide), joinBits w (2 ^ 72) (512) (2 ^ 81) (by decide),
    joinBits w (2 ^ 81) (2 ^ 3) (2 ^ 84) (by decide), joinBits w (2 ^ 84) (2 ^ 4) (2 ^ 88) (by decide), Nat.mod_eq_of_lt h]

theorem putB_lt (f : BF) : putB f < 2 ^ 88 := by
  obtain ⟨x0, x1, x2, x3, x4, x5, x6, x7, x8⟩ := f
  have := x0.isLt; have := x1.isLt; have := x2.code_lt; have := x3.code_lt; have := x4.isLt; have := x5.isLt; have := x6.isLt
  have := x7.isLt; have := x8.isLt
  simp only [putB]; omega

theorem getB_putB (f : BF) : getB (putB f) = f := by
  obtain ⟨x0, x1, x2, x3, x4, x5, x6, x7, x8⟩ := f
  have := x0.isLt; have := x1.isLt; have := x2.code_lt; have := x3.code_lt; have := x4.isLt; have := x5.isLt; have := x6.isLt
  have := x7.isLt; have := x8.isLt
  simp only [getB, BF.mk.injEq]
  refine ⟨fld_eq ?_, fld_eq ?_, opnd_eq ?_, opnd_eq ?_, fld_eq ?_, fld_eq ?_, fld_eq ?_, fld_eq ?_, fld_eq ?_⟩ <;>
    simp only [putB] <;> omega

/-! ### The MX format -/

theorem putMX_getMX {w : Nat} (h : w < 2 ^ 88) : putMX (getMX w) = w := by
  simp only [putMX, getMX, code_opnd, toNat_fld]
  simp only [Nat.add_assoc]
  rw [Nat.pow_zero, Nat.div_one, joinBits w (2 ^ 32) (2 ^ 4) (2 ^ 36) (by decide), joinBits w (2 ^ 36) (512) (2 ^ 45) (by decide),
    joinBits w (2 ^ 45) (512) (2 ^ 54) (by decide), joinBits w (2 ^ 54) (512) (2 ^ 63) (by decide),
    joinBits w (2 ^ 63) (2 ^ 6) (2 ^ 69) (by decide), joinBits w (2 ^ 69) (2 ^ 2) (2 ^ 71) (by decide),
    joinBits w (2 ^ 71) (2 ^ 6) (2 ^ 77) (by decide), joinBits w (2 ^ 77) (2 ^ 3) (2 ^ 80) (by decide),
    joinBits w (2 ^ 80) (2 ^ 4) (2 ^ 84) (by decide), joinBits w (2 ^ 84) (2 ^ 4) (2 ^ 88) (by decide), Nat.mod_eq_of_lt h]

theorem putMX_lt (f : MXF) : putMX f < 2 ^ 88 := by
  obtain ⟨x0, x1, x2, x3, x4, x5, x6, x7, x8, x9, x10⟩ := f
  have := x0.isLt; have := x1.isLt; have := x2.isLt; have := x3.isLt; have := x4.isLt; have := x5.isLt; have := x6.code_lt
  have := x7.code_lt; have := x8.code_lt; have := x9.isLt; have := x10.isLt
  simp only [putMX]; omega

theorem getMX_putMX (f : MXF) : getMX (putMX f) = f := by
  obtain ⟨x0, x1, x2, x3, x4, x5, x6, x7, x8, x9, x10⟩ := f
  have := x0.isLt; have := x1.isLt; have := x2.isLt; have := x3.isLt; have := x4.isLt; have := x5.isLt; have := x6.code_lt
  have := x7.code_lt; have := x8.code_lt; have := x9.isLt; have := x10.isLt
  simp only [getMX, MXF.mk.injEq]
  refine ⟨fld_eq ?_, fld_eq ?_, fld_eq ?_, fld_eq ?_, fld_eq ?_, fld_eq ?_, opnd_eq ?_, opnd_eq ?_, opnd_eq ?_, fld_eq ?_, fld_eq ?_⟩ <;>
    simp only [putMX] <;> omega

/-! ### The G format -/

theorem putG_getG {w : Nat} (h : w < 2 ^ 88) : putG (getG w) = w := by
  simp only [putG, getG, code_opnd, toNat_fld]
  simp only [Nat.add_assoc]
  rw [Nat.pow_zero, Nat.div_one, joinBits w (2 ^ 24) (2 ^ 6) (2 ^ 30) (by decide), joinBits w (2 ^ 30) (2 ^ 8) (2 ^ 38) (by decide),
    joinBits w (2 ^ 38) (2 ^ 4) (2 ^ 42) (by decide), joinBits w (2 ^ 42) (512) (2 ^ 51) (by decide),
    joinBits w (2 ^ 51) (512) (2 ^ 60) (by decide), joinBits w (2 ^ 60) (512) (2 ^ 69) (by decide),
    joinBits w (2 ^ 69) (512) (2 ^ 78) (by decide), joinBits w (2 ^ 78) (2 ^ 6) (2 ^ 84) (by decide),
    joinBits w (2 ^ 84) (2 ^ 4) (2 ^ 88) (by decide), Nat.mod_eq_of_lt h]

theorem putG_lt (f : GF) : putG f < 2 ^ 88 := by
  obtain ⟨x0, x1, x2, x3, x4, x5, x6, x7, x8, x9⟩ := f
  have := x0.isLt; have := x1.isLt; have := x2.code_lt; have := x3.code_lt; have := x4.code_lt; have := x5.code_lt; have := x6.isLt
  have := x7.isLt; have := x8.isLt; have := x9.isLt
  simp only [putG]; omega

theorem getG_putG (f : GF) : getG (putG f) = f := by
  obtain ⟨x0, x1, x2, x3, x4, x5, x6, x7, x8, x9⟩ := f
  have := x0.isLt; have := x1.isLt; have := x2.code_lt; have := x3.code_lt; have := x4.code_lt; have := x5.code_lt; have := x6.isLt
  have := x7.isLt; have := x8.isLt; have := x9.isLt
  simp only [getG, GF.mk.injEq]
  refine ⟨fld_eq ?_, fld_eq ?_, opnd_eq ?_, opnd_eq ?_, opnd_eq ?_, opnd_eq ?_, fld_eq ?_, fld_eq ?_, fld_eq ?_, fld_eq ?_⟩ <;>
    simp only [putG] <;> omega

/-! ### The S format -/

theorem putS_getS {w : Nat} (h : w < 2 ^ 88) : putS (getS w) = w := by
  simp only [putS, getS, code_opnd, toNat_fld]
  simp only [Nat.add_assoc]
  rw [Nat.pow_zero, Nat.div_one, joinBits w (2 ^ 29) (2 ^ 6) (2 ^ 35) (by decide), joinBits w (2 ^ 35) (2 ^ 16) (2 ^ 51) (by decide),
    joinBits w (2 ^ 51) (512) (2 ^ 60) (by decide), joinBits w (2 ^ 60) (512) (2 ^ 69) (by decide),
    joinBits w (2 ^ 69) (512) (2 ^ 78) (by decide), joinBits w (2 ^ 78) (2 ^ 2) (2 ^ 80) (by decide),
    joinBits w (2 ^ 80) (2 ^ 4) (2 ^ 84) (by decide), joinBits w (2 ^ 84) (2 ^ 4) (2 ^ 88) (by decide), Nat.mod_eq_of_lt h]

theorem putS_lt (f : SF) : putS f < 2 ^ 88 := by
  obtain ⟨x0, x1, x2, x3, x4, x5, x6, x7, x8⟩ := f
  have := x0.isLt; have := x1.isLt; have := x2.isLt; have := x3.code_lt; have := x4.code_lt; have := x5.code_lt; have := x6.isLt
  have := x7.isLt; have := x8.isLt
  simp only [putS]; omega

theorem getS_putS (f : SF) : getS (putS f) = f := by
  obtain ⟨x0, x1, x2, x3, x4, x5, x6, x7, x8⟩ := f
  have := x0.isLt; have := x1.isLt; have := x2.isLt; have := x3.code_lt; have := x4.code_lt; have := x5.code_lt; have := x6.isLt
  have := x7.isLt; have := x8.isLt
  simp only [getS, SF.mk.injEq]
  refine ⟨fld_eq ?_, fld_eq ?_, fld_eq ?_, opnd_eq ?_, opnd_eq ?_, opnd_eq ?_, fld_eq ?_, fld_eq ?_, fld_eq ?_⟩ <;>
    simp only [putS] <;> omega

/-! ### Paired slots -/

theorem HalfOp.code_lt (x : HalfOp) : x.code < 64 := by cases x <;> decide

theorem halfOp_code (x : HalfOp) : halfOp x.code = some x := by cases x <;> rfl

theorem code_halfOp {n : Nat} {x : HalfOp} (h : halfOp n = some x) : x.code = n := by
  unfold halfOp at h
  split at h <;> cases h <;> rfl

theorem putHalf_lt (h : Half) : putHalf h < 2 ^ 48 := by
  obtain ⟨x0, x1, x2, x3, x4, x5, x6⟩ := h
  have := x0.code_lt; have := x1.isLt; have := x2.isLt; have := x3.isLt; have := x4.isLt; have := x5.isLt; have := x6.isLt
  simp only [putHalf]; omega

theorem getHalf_putHalf (h : Half) : getHalf (putHalf h) = some h := by
  obtain ⟨x0, x1, x2, x3, x4, x5, x6⟩ := h
  have := x0.code_lt; have := x1.isLt; have := x2.isLt; have := x3.isLt; have := x4.isLt; have := x5.isLt; have := x6.isLt
  have e : putHalf ⟨x0, x1, x2, x3, x4, x5, x6⟩ / 2 ^ 42 % 64 = x0.code := by simp only [putHalf]; omega
  simp only [getHalf, e, halfOp_code, Option.map_some, Option.some.injEq, Half.mk.injEq, true_and]
  refine ⟨fld_eq ?_, fld_eq ?_, fld_eq ?_, fld_eq ?_, fld_eq ?_, fld_eq ?_⟩ <;> simp only [putHalf] <;> omega

theorem putHalf_getHalf {h : Nat} {x : Half} (hh : h < 2 ^ 48) (e : getHalf h = some x) : putHalf x = h := by
  simp only [getHalf, Option.map_eq_some_iff] at e
  obtain ⟨op, e, rfl⟩ := e
  have := code_halfOp e
  simp only [putHalf, toNat_fld, this]; omega

/-! ### The family -/

/-- The words of an instruction decode to it, and are 96 bits (R168 to R179, R193, R200). -/
def Laws.RoundTrip.Statement (i : Instr) : Prop := ∀ p w, encode i = some (p, w) → decode p w = .ok i ∧ w < 2 ^ 96

theorem roundTrip_of {i : Instr} {op n : Nat} (_e : encodeOp i = some (op, n)) (hi : encode i = some (false, op * 2 ^ 88 + n)) (ho : op < 256)
    (hn : n < 2 ^ 88) (h : decodeOp op n = some i) : Laws.RoundTrip.Statement i := by
  intro p w hw
  rw [hi] at hw
  obtain ⟨rfl, rfl⟩ : false = p ∧ op * 2 ^ 88 + n = w := by simpa using hw
  refine ⟨?_, by omega⟩
  have a : (op * 2 ^ 88 + n) / 2 ^ 88 % 256 = op := by omega
  have b : (op * 2 ^ 88 + n) % 2 ^ 88 = n := by omega
  simp only [decode, a, b, h, Bool.false_eq_true, if_false]

theorem roundTrip_none {i : Instr} (e : encode i = none) : Laws.RoundTrip.Statement i := by
  intro p w hw; rw [e] at hw; cases hw

theorem Laws.RoundTrip.ill (detail : BitVec 8) (half : Bool) : Laws.RoundTrip.Statement (.ill detail half) := roundTrip_none rfl

theorem Laws.RoundTrip.nop (f : V3) : Laws.RoundTrip.Statement (.nop f) :=
  roundTrip_of rfl rfl (by decide) (putV3_lt f) (congrArg (fun g => some (Instr.nop g)) (getV3_putV3 f))

theorem Laws.RoundTrip.bra (f : BF) : Laws.RoundTrip.Statement (.bra f) :=
  roundTrip_of rfl rfl (by decide) (putB_lt f) (congrArg (fun g => some (Instr.bra g)) (getB_putB f))

theorem Laws.RoundTrip.brx (f : BF) : Laws.RoundTrip.Statement (.brx f) :=
  roundTrip_of rfl rfl (by decide) (putB_lt f) (congrArg (fun g => some (Instr.brx g)) (getB_putB f))

theorem Laws.RoundTrip.call (f : BF) : Laws.RoundTrip.Statement (.call f) :=
  roundTrip_of rfl rfl (by decide) (putB_lt f) (congrArg (fun g => some (Instr.call g)) (getB_putB f))

theorem Laws.RoundTrip.ret (f : BF) : Laws.RoundTrip.Statement (.ret f) :=
  roundTrip_of rfl rfl (by decide) (putB_lt f) (congrArg (fun g => some (Instr.ret g)) (getB_putB f))

theorem Laws.RoundTrip.ifc (f : BF) : Laws.RoundTrip.Statement (.ifc f) :=
  roundTrip_of rfl rfl (by decide) (putB_lt f) (congrArg (fun g => some (Instr.ifc g)) (getB_putB f))

theorem Laws.RoundTrip.elsec (f : BF) : Laws.RoundTrip.Statement (.elsec f) :=
  roundTrip_of rfl rfl (by decide) (putB_lt f) (congrArg (fun g => some (Instr.elsec g)) (getB_putB f))

theorem Laws.RoundTrip.endif (f : BF) : Laws.RoundTrip.Statement (.endif f) :=
  roundTrip_of rfl rfl (by decide) (putB_lt f) (congrArg (fun g => some (Instr.endif g)) (getB_putB f))

theorem Laws.RoundTrip.loop (f : BF) : Laws.RoundTrip.Statement (.loop f) :=
  roundTrip_of rfl rfl (by decide) (putB_lt f) (congrArg (fun g => some (Instr.loop g)) (getB_putB f))

theorem Laws.RoundTrip.breakif (f : BF) : Laws.RoundTrip.Statement (.breakif f) :=
  roundTrip_of rfl rfl (by decide) (putB_lt f) (congrArg (fun g => some (Instr.breakif g)) (getB_putB f))

theorem Laws.RoundTrip.contif (f : BF) : Laws.RoundTrip.Statement (.contif f) :=
  roundTrip_of rfl rfl (by decide) (putB_lt f) (congrArg (fun g => some (Instr.contif g)) (getB_putB f))

theorem Laws.RoundTrip.endloop (f : BF) : Laws.RoundTrip.Statement (.endloop f) :=
  roundTrip_of rfl rfl (by decide) (putB_lt f) (congrArg (fun g => some (Instr.endloop g)) (getB_putB f))

theorem Laws.RoundTrip.reconv (f : BF) : Laws.RoundTrip.Statement (.reconv f) :=
  roundTrip_of rfl rfl (by decide) (putB_lt f) (congrArg (fun g => some (Instr.reconv g)) (getB_putB f))

theorem Laws.RoundTrip.exit (f : BF) : Laws.RoundTrip.Statement (.exit f) :=
  roundTrip_of rfl rfl (by decide) (putB_lt f) (congrArg (fun g => some (Instr.exit g)) (getB_putB f))

theorem Laws.RoundTrip.iadd (f : V3) : Laws.RoundTrip.Statement (.iadd f) :=
  roundTrip_of rfl rfl (by decide) (putV3_lt f) (congrArg (fun g => some (Instr.iadd g)) (getV3_putV3 f))

theorem Laws.RoundTrip.iaddc (f : V3) : Laws.RoundTrip.Statement (.iaddc f) :=
  roundTrip_of rfl rfl (by decide) (putV3_lt f) (congrArg (fun g => some (Instr.iaddc g)) (getV3_putV3 f))

theorem Laws.RoundTrip.isub (f : V3) : Laws.RoundTrip.Statement (.isub f) :=
  roundTrip_of rfl rfl (by decide) (putV3_lt f) (congrArg (fun g => some (Instr.isub g)) (getV3_putV3 f))

theorem Laws.RoundTrip.ineg (f : V3) : Laws.RoundTrip.Statement (.ineg f) :=
  roundTrip_of rfl rfl (by decide) (putV3_lt f) (congrArg (fun g => some (Instr.ineg g)) (getV3_putV3 f))

theorem Laws.RoundTrip.iabs (f : V3) : Laws.RoundTrip.Statement (.iabs f) :=
  roundTrip_of rfl rfl (by decide) (putV3_lt f) (congrArg (fun g => some (Instr.iabs g)) (getV3_putV3 f))

theorem Laws.RoundTrip.imul (f : V3) : Laws.RoundTrip.Statement (.imul f) :=
  roundTrip_of rfl rfl (by decide) (putV3_lt f) (congrArg (fun g => some (Instr.imul g)) (getV3_putV3 f))

theorem Laws.RoundTrip.imulh (f : V3) : Laws.RoundTrip.Statement (.imulh f) :=
  roundTrip_of rfl rfl (by decide) (putV3_lt f) (congrArg (fun g => some (Instr.imulh g)) (getV3_putV3 f))

theorem Laws.RoundTrip.imad (f : V3) : Laws.RoundTrip.Statement (.imad f) :=
  roundTrip_of rfl rfl (by decide) (putV3_lt f) (congrArg (fun g => some (Instr.imad g)) (getV3_putV3 f))

theorem Laws.RoundTrip.imadw (f : V3) : Laws.RoundTrip.Statement (.imadw f) :=
  roundTrip_of rfl rfl (by decide) (putV3_lt f) (congrArg (fun g => some (Instr.imadw g)) (getV3_putV3 f))

theorem Laws.RoundTrip.imin (f : V3) : Laws.RoundTrip.Statement (.imin f) :=
  roundTrip_of rfl rfl (by decide) (putV3_lt f) (congrArg (fun g => some (Instr.imin g)) (getV3_putV3 f))

theorem Laws.RoundTrip.imax (f : V3) : Laws.RoundTrip.Statement (.imax f) :=
  roundTrip_of rfl rfl (by decide) (putV3_lt f) (congrArg (fun g => some (Instr.imax g)) (getV3_putV3 f))

theorem Laws.RoundTrip.icmp (f : V3) : Laws.RoundTrip.Statement (.icmp f) :=
  roundTrip_of rfl rfl (by decide) (putV3_lt f) (congrArg (fun g => some (Instr.icmp g)) (getV3_putV3 f))

theorem Laws.RoundTrip.idot4 (f : V3) : Laws.RoundTrip.Statement (.idot4 f) :=
  roundTrip_of rfl rfl (by decide) (putV3_lt f) (congrArg (fun g => some (Instr.idot4 g)) (getV3_putV3 f))

theorem Laws.RoundTrip.sel (f : V3) : Laws.RoundTrip.Statement (.sel f) :=
  roundTrip_of rfl rfl (by decide) (putV3_lt f) (congrArg (fun g => some (Instr.sel g)) (getV3_putV3 f))

theorem Laws.RoundTrip.lea (f : V3) : Laws.RoundTrip.Statement (.lea f) :=
  roundTrip_of rfl rfl (by decide) (putV3_lt f) (congrArg (fun g => some (Instr.lea g)) (getV3_putV3 f))

theorem Laws.RoundTrip.fadd (f : V3) : Laws.RoundTrip.Statement (.fadd f) :=
  roundTrip_of rfl rfl (by decide) (putV3_lt f) (congrArg (fun g => some (Instr.fadd g)) (getV3_putV3 f))

theorem Laws.RoundTrip.fmul (f : V3) : Laws.RoundTrip.Statement (.fmul f) :=
  roundTrip_of rfl rfl (by decide) (putV3_lt f) (congrArg (fun g => some (Instr.fmul g)) (getV3_putV3 f))

theorem Laws.RoundTrip.ffma (f : V3) : Laws.RoundTrip.Statement (.ffma f) :=
  roundTrip_of rfl rfl (by decide) (putV3_lt f) (congrArg (fun g => some (Instr.ffma g)) (getV3_putV3 f))

theorem Laws.RoundTrip.fmin (f : V3) : Laws.RoundTrip.Statement (.fmin f) :=
  roundTrip_of rfl rfl (by decide) (putV3_lt f) (congrArg (fun g => some (Instr.fmin g)) (getV3_putV3 f))

theorem Laws.RoundTrip.fmax (f : V3) : Laws.RoundTrip.Statement (.fmax f) :=
  roundTrip_of rfl rfl (by decide) (putV3_lt f) (congrArg (fun g => some (Instr.fmax g)) (getV3_putV3 f))

theorem Laws.RoundTrip.fcmp (f : V3) : Laws.RoundTrip.Statement (.fcmp f) :=
  roundTrip_of rfl rfl (by decide) (putV3_lt f) (congrArg (fun g => some (Instr.fcmp g)) (getV3_putV3 f))

theorem Laws.RoundTrip.fclass (f : V3) : Laws.RoundTrip.Statement (.fclass f) :=
  roundTrip_of rfl rfl (by decide) (putV3_lt f) (congrArg (fun g => some (Instr.fclass g)) (getV3_putV3 f))

theorem Laws.RoundTrip.frint (f : V3) : Laws.RoundTrip.Statement (.frint f) :=
  roundTrip_of rfl rfl (by decide) (putV3_lt f) (congrArg (fun g => some (Instr.frint g)) (getV3_putV3 f))

theorem Laws.RoundTrip.fldexp (f : V3) : Laws.RoundTrip.Statement (.fldexp f) :=
  roundTrip_of rfl rfl (by decide) (putV3_lt f) (congrArg (fun g => some (Instr.fldexp g)) (getV3_putV3 f))

theorem Laws.RoundTrip.fdot2 (f : V3) : Laws.RoundTrip.Statement (.fdot2 f) :=
  roundTrip_of rfl rfl (by decide) (putV3_lt f) (congrArg (fun g => some (Instr.fdot2 g)) (getV3_putV3 f))

theorem Laws.RoundTrip.fdivfix (f : V3) : Laws.RoundTrip.Statement (.fdivfix f) :=
  roundTrip_of rfl rfl (by decide) (putV3_lt f) (congrArg (fun g => some (Instr.fdivfix g)) (getV3_putV3 f))

theorem Laws.RoundTrip.cvt (f : V3) : Laws.RoundTrip.Statement (.cvt f) :=
  roundTrip_of rfl rfl (by decide) (putV3_lt f) (congrArg (fun g => some (Instr.cvt g)) (getV3_putV3 f))

theorem Laws.RoundTrip.cvtef (f : V3) : Laws.RoundTrip.Statement (.cvtef f) :=
  roundTrip_of rfl rfl (by decide) (putV3_lt f) (congrArg (fun g => some (Instr.cvtef g)) (getV3_putV3 f))

theorem Laws.RoundTrip.mxpack (f : V3) : Laws.RoundTrip.Statement (.mxpack f) :=
  roundTrip_of rfl rfl (by decide) (putV3_lt f) (congrArg (fun g => some (Instr.mxpack g)) (getV3_putV3 f))

theorem Laws.RoundTrip.mxunpack (f : V3) : Laws.RoundTrip.Statement (.mxunpack f) :=
  roundTrip_of rfl rfl (by decide) (putV3_lt f) (congrArg (fun g => some (Instr.mxunpack g)) (getV3_putV3 f))

theorem Laws.RoundTrip.frcp (f : V3) : Laws.RoundTrip.Statement (.frcp f) :=
  roundTrip_of rfl rfl (by decide) (putV3_lt f) (congrArg (fun g => some (Instr.frcp g)) (getV3_putV3 f))

theorem Laws.RoundTrip.frsq (f : V3) : Laws.RoundTrip.Statement (.frsq f) :=
  roundTrip_of rfl rfl (by decide) (putV3_lt f) (congrArg (fun g => some (Instr.frsq g)) (getV3_putV3 f))

theorem Laws.RoundTrip.fsqrt (f : V3) : Laws.RoundTrip.Statement (.fsqrt f) :=
  roundTrip_of rfl rfl (by decide) (putV3_lt f) (congrArg (fun g => some (Instr.fsqrt g)) (getV3_putV3 f))

theorem Laws.RoundTrip.fexp2 (f : V3) : Laws.RoundTrip.Statement (.fexp2 f) :=
  roundTrip_of rfl rfl (by decide) (putV3_lt f) (congrArg (fun g => some (Instr.fexp2 g)) (getV3_putV3 f))

theorem Laws.RoundTrip.flog2 (f : V3) : Laws.RoundTrip.Statement (.flog2 f) :=
  roundTrip_of rfl rfl (by decide) (putV3_lt f) (congrArg (fun g => some (Instr.flog2 g)) (getV3_putV3 f))

theorem Laws.RoundTrip.fsin (f : V3) : Laws.RoundTrip.Statement (.fsin f) :=
  roundTrip_of rfl rfl (by decide) (putV3_lt f) (congrArg (fun g => some (Instr.fsin g)) (getV3_putV3 f))

theorem Laws.RoundTrip.fcos (f : V3) : Laws.RoundTrip.Statement (.fcos f) :=
  roundTrip_of rfl rfl (by decide) (putV3_lt f) (congrArg (fun g => some (Instr.fcos g)) (getV3_putV3 f))

theorem Laws.RoundTrip.ftanh (f : V3) : Laws.RoundTrip.Statement (.ftanh f) :=
  roundTrip_of rfl rfl (by decide) (putV3_lt f) (congrArg (fun g => some (Instr.ftanh g)) (getV3_putV3 f))

theorem Laws.RoundTrip.and (f : V3) : Laws.RoundTrip.Statement (.and f) :=
  roundTrip_of rfl rfl (by decide) (putV3_lt f) (congrArg (fun g => some (Instr.and g)) (getV3_putV3 f))

theorem Laws.RoundTrip.andn (f : V3) : Laws.RoundTrip.Statement (.andn f) :=
  roundTrip_of rfl rfl (by decide) (putV3_lt f) (congrArg (fun g => some (Instr.andn g)) (getV3_putV3 f))

theorem Laws.RoundTrip.or (f : V3) : Laws.RoundTrip.Statement (.or f) :=
  roundTrip_of rfl rfl (by decide) (putV3_lt f) (congrArg (fun g => some (Instr.or g)) (getV3_putV3 f))

theorem Laws.RoundTrip.orn (f : V3) : Laws.RoundTrip.Statement (.orn f) :=
  roundTrip_of rfl rfl (by decide) (putV3_lt f) (congrArg (fun g => some (Instr.orn g)) (getV3_putV3 f))

theorem Laws.RoundTrip.xor (f : V3) : Laws.RoundTrip.Statement (.xor f) :=
  roundTrip_of rfl rfl (by decide) (putV3_lt f) (congrArg (fun g => some (Instr.xor g)) (getV3_putV3 f))

theorem Laws.RoundTrip.not (f : V3) : Laws.RoundTrip.Statement (.not f) :=
  roundTrip_of rfl rfl (by decide) (putV3_lt f) (congrArg (fun g => some (Instr.not g)) (getV3_putV3 f))

theorem Laws.RoundTrip.shl (f : V3) : Laws.RoundTrip.Statement (.shl f) :=
  roundTrip_of rfl rfl (by decide) (putV3_lt f) (congrArg (fun g => some (Instr.shl g)) (getV3_putV3 f))

theorem Laws.RoundTrip.shr (f : V3) : Laws.RoundTrip.Statement (.shr f) :=
  roundTrip_of rfl rfl (by decide) (putV3_lt f) (congrArg (fun g => some (Instr.shr g)) (getV3_putV3 f))

theorem Laws.RoundTrip.shra (f : V3) : Laws.RoundTrip.Statement (.shra f) :=
  roundTrip_of rfl rfl (by decide) (putV3_lt f) (congrArg (fun g => some (Instr.shra g)) (getV3_putV3 f))

theorem Laws.RoundTrip.rotl (f : V3) : Laws.RoundTrip.Statement (.rotl f) :=
  roundTrip_of rfl rfl (by decide) (putV3_lt f) (congrArg (fun g => some (Instr.rotl g)) (getV3_putV3 f))

theorem Laws.RoundTrip.bfe (f : V3) : Laws.RoundTrip.Statement (.bfe f) :=
  roundTrip_of rfl rfl (by decide) (putV3_lt f) (congrArg (fun g => some (Instr.bfe g)) (getV3_putV3 f))

theorem Laws.RoundTrip.bfi (f : V3) : Laws.RoundTrip.Statement (.bfi f) :=
  roundTrip_of rfl rfl (by decide) (putV3_lt f) (congrArg (fun g => some (Instr.bfi g)) (getV3_putV3 f))

theorem Laws.RoundTrip.brev (f : V3) : Laws.RoundTrip.Statement (.brev f) :=
  roundTrip_of rfl rfl (by decide) (putV3_lt f) (congrArg (fun g => some (Instr.brev g)) (getV3_putV3 f))

theorem Laws.RoundTrip.clz (f : V3) : Laws.RoundTrip.Statement (.clz f) :=
  roundTrip_of rfl rfl (by decide) (putV3_lt f) (congrArg (fun g => some (Instr.clz g)) (getV3_putV3 f))

theorem Laws.RoundTrip.ffs (f : V3) : Laws.RoundTrip.Statement (.ffs f) :=
  roundTrip_of rfl rfl (by decide) (putV3_lt f) (congrArg (fun g => some (Instr.ffs g)) (getV3_putV3 f))

theorem Laws.RoundTrip.popc (f : V3) : Laws.RoundTrip.Statement (.popc f) :=
  roundTrip_of rfl rfl (by decide) (putV3_lt f) (congrArg (fun g => some (Instr.popc g)) (getV3_putV3 f))

theorem Laws.RoundTrip.movi (f : VI) : Laws.RoundTrip.Statement (.movi f) :=
  roundTrip_of rfl rfl (by decide) (putVI_lt f) (congrArg (fun g => some (Instr.movi g)) (getVI_putVI f))

theorem Laws.RoundTrip.iaddVi (f : VI) : Laws.RoundTrip.Statement (.iaddVi f) :=
  roundTrip_of rfl rfl (by decide) (putVI_lt f) (congrArg (fun g => some (Instr.iaddVi g)) (getVI_putVI f))

theorem Laws.RoundTrip.isubVi (f : VI) : Laws.RoundTrip.Statement (.isubVi f) :=
  roundTrip_of rfl rfl (by decide) (putVI_lt f) (congrArg (fun g => some (Instr.isubVi g)) (getVI_putVI f))

theorem Laws.RoundTrip.imulVi (f : VI) : Laws.RoundTrip.Statement (.imulVi f) :=
  roundTrip_of rfl rfl (by decide) (putVI_lt f) (congrArg (fun g => some (Instr.imulVi g)) (getVI_putVI f))

theorem Laws.RoundTrip.imadVi (f : VI) : Laws.RoundTrip.Statement (.imadVi f) :=
  roundTrip_of rfl rfl (by decide) (putVI_lt f) (congrArg (fun g => some (Instr.imadVi g)) (getVI_putVI f))

theorem Laws.RoundTrip.iminVi (f : VI) : Laws.RoundTrip.Statement (.iminVi f) :=
  roundTrip_of rfl rfl (by decide) (putVI_lt f) (congrArg (fun g => some (Instr.iminVi g)) (getVI_putVI f))

theorem Laws.RoundTrip.imaxVi (f : VI) : Laws.RoundTrip.Statement (.imaxVi f) :=
  roundTrip_of rfl rfl (by decide) (putVI_lt f) (congrArg (fun g => some (Instr.imaxVi g)) (getVI_putVI f))

theorem Laws.RoundTrip.icmpVi (f : VI) : Laws.RoundTrip.Statement (.icmpVi f) :=
  roundTrip_of rfl rfl (by decide) (putVI_lt f) (congrArg (fun g => some (Instr.icmpVi g)) (getVI_putVI f))

theorem Laws.RoundTrip.andVi (f : VI) : Laws.RoundTrip.Statement (.andVi f) :=
  roundTrip_of rfl rfl (by decide) (putVI_lt f) (congrArg (fun g => some (Instr.andVi g)) (getVI_putVI f))

theorem Laws.RoundTrip.orVi (f : VI) : Laws.RoundTrip.Statement (.orVi f) :=
  roundTrip_of rfl rfl (by decide) (putVI_lt f) (congrArg (fun g => some (Instr.orVi g)) (getVI_putVI f))

theorem Laws.RoundTrip.xorVi (f : VI) : Laws.RoundTrip.Statement (.xorVi f) :=
  roundTrip_of rfl rfl (by decide) (putVI_lt f) (congrArg (fun g => some (Instr.xorVi g)) (getVI_putVI f))

theorem Laws.RoundTrip.faddVi (f : VI) : Laws.RoundTrip.Statement (.faddVi f) :=
  roundTrip_of rfl rfl (by decide) (putVI_lt f) (congrArg (fun g => some (Instr.faddVi g)) (getVI_putVI f))

theorem Laws.RoundTrip.fmulVi (f : VI) : Laws.RoundTrip.Statement (.fmulVi f) :=
  roundTrip_of rfl rfl (by decide) (putVI_lt f) (congrArg (fun g => some (Instr.fmulVi g)) (getVI_putVI f))

theorem Laws.RoundTrip.ffmaVi (f : VI) : Laws.RoundTrip.Statement (.ffmaVi f) :=
  roundTrip_of rfl rfl (by decide) (putVI_lt f) (congrArg (fun g => some (Instr.ffmaVi g)) (getVI_putVI f))

theorem Laws.RoundTrip.fcmpVi (f : VI) : Laws.RoundTrip.Statement (.fcmpVi f) :=
  roundTrip_of rfl rfl (by decide) (putVI_lt f) (congrArg (fun g => some (Instr.fcmpVi g)) (getVI_putVI f))

theorem Laws.RoundTrip.mov (f : V3) : Laws.RoundTrip.Statement (.mov f) :=
  roundTrip_of rfl rfl (by decide) (putV3_lt f) (congrArg (fun g => some (Instr.mov g)) (getV3_putV3 f))

theorem Laws.RoundTrip.shfl (f : V3) : Laws.RoundTrip.Statement (.shfl f) :=
  roundTrip_of rfl rfl (by decide) (putV3_lt f) (congrArg (fun g => some (Instr.shfl g)) (getV3_putV3 f))

theorem Laws.RoundTrip.vote (f : V3) : Laws.RoundTrip.Statement (.vote f) :=
  roundTrip_of rfl rfl (by decide) (putV3_lt f) (congrArg (fun g => some (Instr.vote g)) (getV3_putV3 f))

theorem Laws.RoundTrip.ballot (f : V3) : Laws.RoundTrip.Statement (.ballot f) :=
  roundTrip_of rfl rfl (by decide) (putV3_lt f) (congrArg (fun g => some (Instr.ballot g)) (getV3_putV3 f))

theorem Laws.RoundTrip.matchl (f : V3) : Laws.RoundTrip.Statement (.matchl f) :=
  roundTrip_of rfl rfl (by decide) (putV3_lt f) (congrArg (fun g => some (Instr.matchl g)) (getV3_putV3 f))

theorem Laws.RoundTrip.reduce (f : V3) : Laws.RoundTrip.Statement (.reduce f) :=
  roundTrip_of rfl rfl (by decide) (putV3_lt f) (congrArg (fun g => some (Instr.reduce g)) (getV3_putV3 f))

theorem Laws.RoundTrip.scan (f : V3) : Laws.RoundTrip.Statement (.scan f) :=
  roundTrip_of rfl rfl (by decide) (putV3_lt f) (congrArg (fun g => some (Instr.scan g)) (getV3_putV3 f))

theorem Laws.RoundTrip.lanerd (f : V3) : Laws.RoundTrip.Statement (.lanerd f) :=
  roundTrip_of rfl rfl (by decide) (putV3_lt f) (congrArg (fun g => some (Instr.lanerd g)) (getV3_putV3 f))

theorem Laws.RoundTrip.lanewr (f : V3) : Laws.RoundTrip.Statement (.lanewr f) :=
  roundTrip_of rfl rfl (by decide) (putV3_lt f) (congrArg (fun g => some (Instr.lanewr g)) (getV3_putV3 f))

theorem Laws.RoundTrip.rand (f : V3) : Laws.RoundTrip.Statement (.rand f) :=
  roundTrip_of rfl rfl (by decide) (putV3_lt f) (congrArg (fun g => some (Instr.rand g)) (getV3_putV3 f))

theorem Laws.RoundTrip.salu (f : UF) : Laws.RoundTrip.Statement (.salu f) :=
  roundTrip_of rfl rfl (by decide) (putU_lt f) (congrArg (fun g => some (Instr.salu g)) (getU_putU f))

theorem Laws.RoundTrip.scmp (f : UF) : Laws.RoundTrip.Statement (.scmp f) :=
  roundTrip_of rfl rfl (by decide) (putU_lt f) (congrArg (fun g => some (Instr.scmp g)) (getU_putU f))

theorem Laws.RoundTrip.ssel (f : UF) : Laws.RoundTrip.Statement (.ssel f) :=
  roundTrip_of rfl rfl (by decide) (putU_lt f) (congrArg (fun g => some (Instr.ssel g)) (getU_putU f))

theorem Laws.RoundTrip.smov (f : UF) : Laws.RoundTrip.Statement (.smov f) :=
  roundTrip_of rfl rfl (by decide) (putU_lt f) (congrArg (fun g => some (Instr.smov g)) (getU_putU f))

theorem Laws.RoundTrip.ld (f : MF) : Laws.RoundTrip.Statement (.ld f) :=
  roundTrip_of rfl rfl (by decide) (putM_lt f) (congrArg (fun g => some (Instr.ld g)) (getM_putM f))

theorem Laws.RoundTrip.st (f : MF) : Laws.RoundTrip.Statement (.st f) :=
  roundTrip_of rfl rfl (by decide) (putM_lt f) (congrArg (fun g => some (Instr.st g)) (getM_putM f))

theorem Laws.RoundTrip.ldu (f : MF) : Laws.RoundTrip.Statement (.ldu f) :=
  roundTrip_of rfl rfl (by decide) (putM_lt f) (congrArg (fun g => some (Instr.ldu g)) (getM_putM f))

theorem Laws.RoundTrip.ldl (f : MF) : Laws.RoundTrip.Statement (.ldl f) :=
  roundTrip_of rfl rfl (by decide) (putM_lt f) (congrArg (fun g => some (Instr.ldl g)) (getM_putM f))

theorem Laws.RoundTrip.stl (f : MF) : Laws.RoundTrip.Statement (.stl f) :=
  roundTrip_of rfl rfl (by decide) (putM_lt f) (congrArg (fun g => some (Instr.stl g)) (getM_putM f))

theorem Laws.RoundTrip.ldp (f : MF) : Laws.RoundTrip.Statement (.ldp f) :=
  roundTrip_of rfl rfl (by decide) (putM_lt f) (congrArg (fun g => some (Instr.ldp g)) (getM_putM f))

theorem Laws.RoundTrip.stp (f : MF) : Laws.RoundTrip.Statement (.stp f) :=
  roundTrip_of rfl rfl (by decide) (putM_lt f) (congrArg (fun g => some (Instr.stp g)) (getM_putM f))

theorem Laws.RoundTrip.atom (f : MF) : Laws.RoundTrip.Statement (.atom f) :=
  roundTrip_of rfl rfl (by decide) (putM_lt f) (congrArg (fun g => some (Instr.atom g)) (getM_putM f))

theorem Laws.RoundTrip.atoml (f : MF) : Laws.RoundTrip.Statement (.atoml f) :=
  roundTrip_of rfl rfl (by decide) (putM_lt f) (congrArg (fun g => some (Instr.atoml g)) (getM_putM f))

theorem Laws.RoundTrip.atomp (f : MF) : Laws.RoundTrip.Statement (.atomp f) :=
  roundTrip_of rfl rfl (by decide) (putM_lt f) (congrArg (fun g => some (Instr.atomp g)) (getM_putM f))

theorem Laws.RoundTrip.pref (f : MF) : Laws.RoundTrip.Statement (.pref f) :=
  roundTrip_of rfl rfl (by decide) (putM_lt f) (congrArg (fun g => some (Instr.pref g)) (getM_putM f))

theorem Laws.RoundTrip.renew (f : MF) : Laws.RoundTrip.Statement (.renew f) :=
  roundTrip_of rfl rfl (by decide) (putM_lt f) (congrArg (fun g => some (Instr.renew g)) (getM_putM f))

theorem Laws.RoundTrip.expire (f : MF) : Laws.RoundTrip.Statement (.expire f) :=
  roundTrip_of rfl rfl (by decide) (putM_lt f) (congrArg (fun g => some (Instr.expire g)) (getM_putM f))

theorem Laws.RoundTrip.flush (f : MF) : Laws.RoundTrip.Statement (.flush f) :=
  roundTrip_of rfl rfl (by decide) (putM_lt f) (congrArg (fun g => some (Instr.flush g)) (getM_putM f))

theorem Laws.RoundTrip.spill (f : MF) : Laws.RoundTrip.Statement (.spill f) :=
  roundTrip_of rfl rfl (by decide) (putM_lt f) (congrArg (fun g => some (Instr.spill g)) (getM_putM f))

theorem Laws.RoundTrip.fill (f : MF) : Laws.RoundTrip.Statement (.fill f) :=
  roundTrip_of rfl rfl (by decide) (putM_lt f) (congrArg (fun g => some (Instr.fill g)) (getM_putM f))

theorem Laws.RoundTrip.xcpy (f : XF) : Laws.RoundTrip.Statement (.xcpy f) :=
  roundTrip_of rfl rfl (by decide) (putX_lt f) (congrArg (fun g => some (Instr.xcpy g)) (getX_putX f))

theorem Laws.RoundTrip.xgather (f : XF) : Laws.RoundTrip.Statement (.xgather f) :=
  roundTrip_of rfl rfl (by decide) (putX_lt f) (congrArg (fun g => some (Instr.xgather g)) (getX_putX f))

theorem Laws.RoundTrip.xscatter (f : XF) : Laws.RoundTrip.Statement (.xscatter f) :=
  roundTrip_of rfl rfl (by decide) (putX_lt f) (congrArg (fun g => some (Instr.xscatter g)) (getX_putX f))

theorem Laws.RoundTrip.xreduce (f : XF) : Laws.RoundTrip.Statement (.xreduce f) :=
  roundTrip_of rfl rfl (by decide) (putX_lt f) (congrArg (fun g => some (Instr.xreduce g)) (getX_putX f))

theorem Laws.RoundTrip.xfill (f : XF) : Laws.RoundTrip.Statement (.xfill f) :=
  roundTrip_of rfl rfl (by decide) (putX_lt f) (congrArg (fun g => some (Instr.xfill g)) (getX_putX f))

theorem Laws.RoundTrip.xpeer (f : XF) : Laws.RoundTrip.Statement (.xpeer f) :=
  roundTrip_of rfl rfl (by decide) (putX_lt f) (congrArg (fun g => some (Instr.xpeer g)) (getX_putX f))

theorem Laws.RoundTrip.xcancel (f : XF) : Laws.RoundTrip.Statement (.xcancel f) :=
  roundTrip_of rfl rfl (by decide) (putX_lt f) (congrArg (fun g => some (Instr.xcancel g)) (getX_putX f))

theorem Laws.RoundTrip.tiledef (f : XF) : Laws.RoundTrip.Statement (.tiledef f) :=
  roundTrip_of rfl rfl (by decide) (putX_lt f) (congrArg (fun g => some (Instr.tiledef g)) (getX_putX f))

theorem Laws.RoundTrip.tilerel (f : XF) : Laws.RoundTrip.Statement (.tilerel f) :=
  roundTrip_of rfl rfl (by decide) (putX_lt f) (congrArg (fun g => some (Instr.tilerel g)) (getX_putX f))

theorem Laws.RoundTrip.tileq (f : XF) : Laws.RoundTrip.Statement (.tileq f) :=
  roundTrip_of rfl rfl (by decide) (putX_lt f) (congrArg (fun g => some (Instr.tileq g)) (getX_putX f))

theorem Laws.RoundTrip.psend (f : XF) : Laws.RoundTrip.Statement (.psend f) :=
  roundTrip_of rfl rfl (by decide) (putX_lt f) (congrArg (fun g => some (Instr.psend g)) (getX_putX f))

theorem Laws.RoundTrip.precv (f : XF) : Laws.RoundTrip.Statement (.precv f) :=
  roundTrip_of rfl rfl (by decide) (putX_lt f) (congrArg (fun g => some (Instr.precv g)) (getX_putX f))

theorem Laws.RoundTrip.barinit (f : XF) : Laws.RoundTrip.Statement (.barinit f) :=
  roundTrip_of rfl rfl (by decide) (putX_lt f) (congrArg (fun g => some (Instr.barinit g)) (getX_putX f))

theorem Laws.RoundTrip.bararv (f : XF) : Laws.RoundTrip.Statement (.bararv f) :=
  roundTrip_of rfl rfl (by decide) (putX_lt f) (congrArg (fun g => some (Instr.bararv g)) (getX_putX f))

theorem Laws.RoundTrip.barwait (f : XF) : Laws.RoundTrip.Statement (.barwait f) :=
  roundTrip_of rfl rfl (by decide) (putX_lt f) (congrArg (fun g => some (Instr.barwait g)) (getX_putX f))

theorem Laws.RoundTrip.bartest (f : XF) : Laws.RoundTrip.Statement (.bartest f) :=
  roundTrip_of rfl rfl (by decide) (putX_lt f) (congrArg (fun g => some (Instr.bartest g)) (getX_putX f))

theorem Laws.RoundTrip.bartx (f : XF) : Laws.RoundTrip.Statement (.bartx f) :=
  roundTrip_of rfl rfl (by decide) (putX_lt f) (congrArg (fun g => some (Instr.bartx g)) (getX_putX f))

theorem Laws.RoundTrip.waitcnt (f : SF) : Laws.RoundTrip.Statement (.waitcnt f) :=
  roundTrip_of rfl rfl (by decide) (putS_lt f) (congrArg (fun g => some (Instr.waitcnt g)) (getS_putS f))

theorem Laws.RoundTrip.fence (f : SF) : Laws.RoundTrip.Statement (.fence f) :=
  roundTrip_of rfl rfl (by decide) (putS_lt f) (congrArg (fun g => some (Instr.fence g)) (getS_putS f))

theorem Laws.RoundTrip.clkadv (f : SF) : Laws.RoundTrip.Statement (.clkadv f) :=
  roundTrip_of rfl rfl (by decide) (putS_lt f) (congrArg (fun g => some (Instr.clkadv g)) (getS_putS f))

theorem Laws.RoundTrip.spinhint (f : SF) : Laws.RoundTrip.Statement (.spinhint f) :=
  roundTrip_of rfl rfl (by decide) (putS_lt f) (congrArg (fun g => some (Instr.spinhint g)) (getS_putS f))

theorem Laws.RoundTrip.sleep (f : SF) : Laws.RoundTrip.Statement (.sleep f) :=
  roundTrip_of rfl rfl (by decide) (putS_lt f) (congrArg (fun g => some (Instr.sleep g)) (getS_putS f))

theorem Laws.RoundTrip.waitt (f : SF) : Laws.RoundTrip.Statement (.waitt f) :=
  roundTrip_of rfl rfl (by decide) (putS_lt f) (congrArg (fun g => some (Instr.waitt g)) (getS_putS f))

theorem Laws.RoundTrip.semsig (f : SF) : Laws.RoundTrip.Statement (.semsig f) :=
  roundTrip_of rfl rfl (by decide) (putS_lt f) (congrArg (fun g => some (Instr.semsig g)) (getS_putS f))

theorem Laws.RoundTrip.semwait (f : SF) : Laws.RoundTrip.Statement (.semwait f) :=
  roundTrip_of rfl rfl (by decide) (putS_lt f) (congrArg (fun g => some (Instr.semwait g)) (getS_putS f))

theorem Laws.RoundTrip.movsp (f : SF) : Laws.RoundTrip.Statement (.movsp f) :=
  roundTrip_of rfl rfl (by decide) (putS_lt f) (congrArg (fun g => some (Instr.movsp g)) (getS_putS f))

theorem Laws.RoundTrip.setsp (f : SF) : Laws.RoundTrip.Statement (.setsp f) :=
  roundTrip_of rfl rfl (by decide) (putS_lt f) (congrArg (fun g => some (Instr.setsp g)) (getS_putS f))

theorem Laws.RoundTrip.mma (f : MXF) : Laws.RoundTrip.Statement (.mma f) :=
  roundTrip_of rfl rfl (by decide) (putMX_lt f) (congrArg (fun g => some (Instr.mma g)) (getMX_putMX f))

theorem Laws.RoundTrip.acczero (f : MXF) : Laws.RoundTrip.Statement (.acczero f) :=
  roundTrip_of rfl rfl (by decide) (putMX_lt f) (congrArg (fun g => some (Instr.acczero g)) (getMX_putMX f))

theorem Laws.RoundTrip.accload (f : MXF) : Laws.RoundTrip.Statement (.accload f) :=
  roundTrip_of rfl rfl (by decide) (putMX_lt f) (congrArg (fun g => some (Instr.accload g)) (getMX_putMX f))

theorem Laws.RoundTrip.accdrain (f : MXF) : Laws.RoundTrip.Statement (.accdrain f) :=
  roundTrip_of rfl rfl (by decide) (putMX_lt f) (congrArg (fun g => some (Instr.accdrain g)) (getMX_putMX f))

theorem Laws.RoundTrip.mmawait (f : MXF) : Laws.RoundTrip.Statement (.mmawait f) :=
  roundTrip_of rfl rfl (by decide) (putMX_lt f) (congrArg (fun g => some (Instr.mmawait g)) (getMX_putMX f))

theorem Laws.RoundTrip.mmab (f : V3) : Laws.RoundTrip.Statement (.mmab f) :=
  roundTrip_of rfl rfl (by decide) (putV3_lt f) (congrArg (fun g => some (Instr.mmab g)) (getV3_putV3 f))

theorem Laws.RoundTrip.rast (f : GF) : Laws.RoundTrip.Statement (.rast f) :=
  roundTrip_of rfl rfl (by decide) (putG_lt f) (congrArg (fun g => some (Instr.rast g)) (getG_putG f))

theorem Laws.RoundTrip.binput (f : GF) : Laws.RoundTrip.Statement (.binput f) :=
  roundTrip_of rfl rfl (by decide) (putG_lt f) (congrArg (fun g => some (Instr.binput g)) (getG_putG f))

theorem Laws.RoundTrip.binget (f : GF) : Laws.RoundTrip.Statement (.binget f) :=
  roundTrip_of rfl rfl (by decide) (putG_lt f) (congrArg (fun g => some (Instr.binget g)) (getG_putG f))

theorem Laws.RoundTrip.trav (f : GF) : Laws.RoundTrip.Statement (.trav f) :=
  roundTrip_of rfl rfl (by decide) (putG_lt f) (congrArg (fun g => some (Instr.trav g)) (getG_putG f))

theorem Laws.RoundTrip.travnext (f : GF) : Laws.RoundTrip.Statement (.travnext f) :=
  roundTrip_of rfl rfl (by decide) (putG_lt f) (congrArg (fun g => some (Instr.travnext g)) (getG_putG f))

theorem Laws.RoundTrip.regroup (f : GF) : Laws.RoundTrip.Statement (.regroup f) :=
  roundTrip_of rfl rfl (by decide) (putG_lt f) (congrArg (fun g => some (Instr.regroup g)) (getG_putG f))

theorem Laws.RoundTrip.repack (f : GF) : Laws.RoundTrip.Statement (.repack f) :=
  roundTrip_of rfl rfl (by decide) (putG_lt f) (congrArg (fun g => some (Instr.repack g)) (getG_putG f))

theorem Laws.RoundTrip.tex (f : GF) : Laws.RoundTrip.Statement (.tex f) :=
  roundTrip_of rfl rfl (by decide) (putG_lt f) (congrArg (fun g => some (Instr.tex g)) (getG_putG f))

theorem Laws.RoundTrip.texq (f : GF) : Laws.RoundTrip.Statement (.texq f) :=
  roundTrip_of rfl rfl (by decide) (putG_lt f) (congrArg (fun g => some (Instr.texq g)) (getG_putG f))

theorem Laws.RoundTrip.launch (f : SF) : Laws.RoundTrip.Statement (.launch f) :=
  roundTrip_of rfl rfl (by decide) (putS_lt f) (congrArg (fun g => some (Instr.launch g)) (getS_putS f))

theorem Laws.RoundTrip.trap (f : SF) : Laws.RoundTrip.Statement (.trap f) :=
  roundTrip_of rfl rfl (by decide) (putS_lt f) (congrArg (fun g => some (Instr.trap g)) (getS_putS f))

theorem Laws.RoundTrip.syscall (f : SF) : Laws.RoundTrip.Statement (.syscall f) :=
  roundTrip_of rfl rfl (by decide) (putS_lt f) (congrArg (fun g => some (Instr.syscall g)) (getS_putS f))

theorem Laws.RoundTrip.bkpt (f : SF) : Laws.RoundTrip.Statement (.bkpt f) :=
  roundTrip_of rfl rfl (by decide) (putS_lt f) (congrArg (fun g => some (Instr.bkpt g)) (getS_putS f))

theorem Laws.RoundTrip.eret (f : SF) : Laws.RoundTrip.Statement (.eret f) :=
  roundTrip_of rfl rfl (by decide) (putS_lt f) (congrArg (fun g => some (Instr.eret g)) (getS_putS f))

theorem Laws.RoundTrip.idem (f : SF) : Laws.RoundTrip.Statement (.idem f) :=
  roundTrip_of rfl rfl (by decide) (putS_lt f) (congrArg (fun g => some (Instr.idem g)) (getS_putS f))

theorem Laws.RoundTrip.progress (f : SF) : Laws.RoundTrip.Statement (.progress f) :=
  roundTrip_of rfl rfl (by decide) (putS_lt f) (congrArg (fun g => some (Instr.progress g)) (getS_putS f))

theorem Laws.RoundTrip.pairedSlot (x y : Half) : Laws.RoundTrip.Statement (.pairedSlot x y) := by
  intro p w hw
  obtain ⟨rfl, rfl⟩ : true = p ∧ putHalf x * 2 ^ 48 + putHalf y = w := by simpa [encode] using hw
  have hx := putHalf_lt x
  have hy := putHalf_lt y
  refine ⟨?_, by omega⟩
  have a : (putHalf x * 2 ^ 48 + putHalf y) / 2 ^ 48 % 2 ^ 48 = putHalf x := by omega
  have b : (putHalf x * 2 ^ 48 + putHalf y) % 2 ^ 48 = putHalf y := by omega
  simp only [decode, a, b, getHalf_putHalf, if_true]

theorem Laws.RoundTrip.routeEntryTaken (core : CoreId) (n : Nat) : Laws.RoundTrip.Statement (.routeEntryTaken core n) := roundTrip_none rfl

theorem Laws.RoundTrip.parentClockLoss (m : ClockLoss) : Laws.RoundTrip.Statement (.parentClockLoss m) := roundTrip_none rfl

theorem Laws.RoundTrip.rerootParentAssign (orphans : List Nat) : Laws.RoundTrip.Statement (.rerootParentAssign orphans) := roundTrip_none rfl

theorem Laws.RoundTrip.rateWordSwitch (die : Nat) (east : Bool) : Laws.RoundTrip.Statement (.rateWordSwitch die east) := roundTrip_none rfl

theorem Laws.RoundTrip.gtcstepApply (die : Nat) (east : Bool) : Laws.RoundTrip.Statement (.gtcstepApply die east) := roundTrip_none rfl

theorem Laws.RoundTrip.waittDeadline (g : GroupId) (core : CoreId) : Laws.RoundTrip.Statement (.waittDeadline g core) := roundTrip_none rfl

theorem Laws.RoundTrip.launchStartTime (core : CoreId) (grid : GridId) : Laws.RoundTrip.Statement (.launchStartTime core grid) := roundTrip_none rfl

theorem Laws.RoundTrip.idleTick (core : CoreId) : Laws.RoundTrip.Statement (.idleTick core) := roundTrip_none rfl

theorem Laws.RoundTrip.issueGrant (core : CoreId) : Laws.RoundTrip.Statement (.issueGrant core) := roundTrip_none rfl

theorem Laws.RoundTrip.teamEnd (core : CoreId) (t : TeamId) : Laws.RoundTrip.Statement (.teamEnd core t) := roundTrip_none rfl

theorem Laws.RoundTrip.gridEnd (grid : GridId) : Laws.RoundTrip.Statement (.gridEnd grid) := roundTrip_none rfl

theorem Laws.RoundTrip.regroupJoin (core : CoreId) (g : GroupId) : Laws.RoundTrip.Statement (.regroupJoin core g) := roundTrip_none rfl

theorem Laws.RoundTrip.benchContribution (m : Contribution) : Laws.RoundTrip.Statement (.benchContribution m) := roundTrip_none rfl

theorem Laws.RoundTrip.retryResend (m : Resend) : Laws.RoundTrip.Statement (.retryResend m) := roundTrip_none rfl

theorem Laws.RoundTrip.walkComplete (m : WalkReq) : Laws.RoundTrip.Statement (.walkComplete m) := roundTrip_none rfl

theorem Laws.RoundTrip.pageServiceResolve (m : WalkReq) : Laws.RoundTrip.Statement (.pageServiceResolve m) := roundTrip_none rfl

theorem Laws.RoundTrip.tinvDone (die : Nat) : Laws.RoundTrip.Statement (.tinvDone die) := roundTrip_none rfl

theorem Laws.RoundTrip.read (m : LineReq) : Laws.RoundTrip.Statement (.read m) := roundTrip_none rfl

theorem Laws.RoundTrip.renewq (m : LineReq) : Laws.RoundTrip.Statement (.renewq m) := roundTrip_none rfl

theorem Laws.RoundTrip.dataMsg (m : DataMsg) : Laws.RoundTrip.Statement (.dataMsg m) := roundTrip_none rfl

theorem Laws.RoundTrip.extend (m : ExtendMsg) : Laws.RoundTrip.Statement (.extend m) := roundTrip_none rfl

theorem Laws.RoundTrip.cpbk (m : CpbkMsg) : Laws.RoundTrip.Statement (.cpbk m) := roundTrip_none rfl

theorem Laws.RoundTrip.cpbkack (m : AckMsg) : Laws.RoundTrip.Statement (.cpbkack m) := roundTrip_none rfl

theorem Laws.RoundTrip.atomq (m : AtomMsg) : Laws.RoundTrip.Statement (.atomq m) := roundTrip_none rfl

theorem Laws.RoundTrip.atoma (m : AtomAns) : Laws.RoundTrip.Statement (.atoma m) := roundTrip_none rfl

theorem Laws.RoundTrip.drop (m : DropMsg) : Laws.RoundTrip.Statement (.drop m) := roundTrip_none rfl

theorem Laws.RoundTrip.dropack (m : DropMsg) : Laws.RoundTrip.Statement (.dropack m) := roundTrip_none rfl

theorem Laws.RoundTrip.hold (m : HoldMsg) : Laws.RoundTrip.Statement (.hold m) := roundTrip_none rfl

theorem Laws.RoundTrip.holdack (m : HoldMsg) : Laws.RoundTrip.Statement (.holdack m) := roundTrip_none rfl

theorem Laws.RoundTrip.recall (m : RecallMsg) : Laws.RoundTrip.Statement (.recall m) := roundTrip_none rfl

theorem Laws.RoundTrip.yield (m : YieldMsg) : Laws.RoundTrip.Statement (.yield m) := roundTrip_none rfl

theorem Laws.RoundTrip.unhold (m : HoldMsg) : Laws.RoundTrip.Statement (.unhold m) := roundTrip_none rfl

theorem Laws.RoundTrip.prep (m : UnitMsg) : Laws.RoundTrip.Statement (.prep m) := roundTrip_none rfl

theorem Laws.RoundTrip.prepack (m : UnitMsg) : Laws.RoundTrip.Statement (.prepack m) := roundTrip_none rfl

theorem Laws.RoundTrip.commit (m : CommitMsg) : Laws.RoundTrip.Statement (.commit m) := roundTrip_none rfl

theorem Laws.RoundTrip.commitack (m : UnitMsg) : Laws.RoundTrip.Statement (.commitack m) := roundTrip_none rfl

theorem Laws.RoundTrip.accept (m : BenchAns) : Laws.RoundTrip.Statement (.accept m) := roundTrip_none rfl

theorem Laws.RoundTrip.apply (m : BenchAns) : Laws.RoundTrip.Statement (.apply m) := roundTrip_none rfl

theorem Laws.RoundTrip.retry (m : Resend) : Laws.RoundTrip.Statement (.retry m) := roundTrip_none rfl

theorem Laws.RoundTrip.rebaseStart (die : Nat) (ep : BitVec 2) : Laws.RoundTrip.Statement (.rebaseStart die ep) := roundTrip_none rfl

theorem Laws.RoundTrip.sweepDone (die : Nat) : Laws.RoundTrip.Statement (.sweepDone die) := roundTrip_none rfl

theorem Laws.RoundTrip.arrive (m : ArriveMsg) : Laws.RoundTrip.Statement (.arrive m) := roundTrip_none rfl

theorem Laws.RoundTrip.arriveReply (m : ArriveAns) : Laws.RoundTrip.Statement (.arriveReply m) := roundTrip_none rfl

theorem Laws.RoundTrip.barwaitReply (m : ArriveAns) : Laws.RoundTrip.Statement (.barwaitReply m) := roundTrip_none rfl

theorem Laws.RoundTrip.leave (m : LeaveMsg) : Laws.RoundTrip.Statement (.leave m) := roundTrip_none rfl

theorem Laws.RoundTrip.copyComplete (core : CoreId) (op : Nat) : Laws.RoundTrip.Statement (.copyComplete core op) := roundTrip_none rfl

theorem Laws.RoundTrip.packetArrive (m : PacketMsg) : Laws.RoundTrip.Statement (.packetArrive m) := roundTrip_none rfl

theorem Laws.RoundTrip.mmaStart (die quad : Nat) : Laws.RoundTrip.Statement (.mmaStart die quad) := roundTrip_none rfl

theorem Laws.RoundTrip.macroOpComplete (die quad : Nat) : Laws.RoundTrip.Statement (.macroOpComplete die quad) := roundTrip_none rfl

theorem Laws.RoundTrip.binnerPacketArrive (m : BinMsg) : Laws.RoundTrip.Statement (.binnerPacketArrive m) := roundTrip_none rfl

theorem Laws.RoundTrip.binnerCloseArrive (m : CloseMsg) : Laws.RoundTrip.Statement (.binnerCloseArrive m) := roundTrip_none rfl

theorem Laws.RoundTrip.unitResultWrite (core : CoreId) (op : Nat) : Laws.RoundTrip.Statement (.unitResultWrite core op) := roundTrip_none rfl

theorem Laws.RoundTrip.fragmentStart (die : Nat) : Laws.RoundTrip.Statement (.fragmentStart die) := roundTrip_none rfl

theorem Laws.RoundTrip.launchRequest (die : Nat) (m : LaunchReq) : Laws.RoundTrip.Statement (.launchRequest die m) := roundTrip_none rfl

theorem Laws.RoundTrip.launchLeadRequest (die : Nat) (m : LaunchReq) : Laws.RoundTrip.Statement (.launchLeadRequest die m) := roundTrip_none rfl

theorem Laws.RoundTrip.launchReply (m : LaunchAns) : Laws.RoundTrip.Statement (.launchReply m) := roundTrip_none rfl

theorem Laws.RoundTrip.queueDepart (die : Nat) : Laws.RoundTrip.Statement (.queueDepart die) := roundTrip_none rfl

theorem Laws.RoundTrip.launchDistribute (die : Nat) (grid : GridId) : Laws.RoundTrip.Statement (.launchDistribute die grid) := roundTrip_none rfl

theorem Laws.RoundTrip.semaphoreNotice (m : SemNotice) : Laws.RoundTrip.Statement (.semaphoreNotice m) := roundTrip_none rfl

theorem Laws.RoundTrip.teamPlacement (die : Nat) : Laws.RoundTrip.Statement (.teamPlacement die) := roundTrip_none rfl

theorem Laws.RoundTrip.startMessage (core : CoreId) (grid : GridId) : Laws.RoundTrip.Statement (.startMessage core grid) := roundTrip_none rfl

theorem Laws.RoundTrip.preemptDecision (t : TeamId) (mode : Nat) : Laws.RoundTrip.Statement (.preemptDecision t mode) := roundTrip_none rfl

theorem Laws.RoundTrip.drainBudgetExpiry (t : TeamId) : Laws.RoundTrip.Statement (.drainBudgetExpiry t) := roundTrip_none rfl

theorem Laws.RoundTrip.quiesceDeadline (t : TeamId) : Laws.RoundTrip.Statement (.quiesceDeadline t) := roundTrip_none rfl

theorem Laws.RoundTrip.saveCapture (t : TeamId) : Laws.RoundTrip.Statement (.saveCapture t) := roundTrip_none rfl

theorem Laws.RoundTrip.contextTransferDone (t : TeamId) : Laws.RoundTrip.Statement (.contextTransferDone t) := roundTrip_none rfl

theorem Laws.RoundTrip.restore (t : TeamId) (core : CoreId) : Laws.RoundTrip.Statement (.restore t core) := roundTrip_none rfl

theorem Laws.RoundTrip.peerAccessArrive (m : PeerReq) : Laws.RoundTrip.Statement (.peerAccessArrive m) := roundTrip_none rfl

theorem Laws.RoundTrip.peerAccessReply (m : PeerAns) : Laws.RoundTrip.Statement (.peerAccessReply m) := roundTrip_none rfl

theorem Laws.RoundTrip.xpeerWriteArrive (m : XpeerMsg) : Laws.RoundTrip.Statement (.xpeerWriteArrive m) := roundTrip_none rfl

theorem Laws.RoundTrip.semwaitReadReply (m : SemNotice) : Laws.RoundTrip.Statement (.semwaitReadReply m) := roundTrip_none rfl

theorem Laws.RoundTrip.semwaitTimeout (core : CoreId) (g : GroupId) : Laws.RoundTrip.Statement (.semwaitTimeout core g) := roundTrip_none rfl

theorem Laws.RoundTrip.sleepDone (core : CoreId) (g : GroupId) : Laws.RoundTrip.Statement (.sleepDone core g) := roundTrip_none rfl

theorem Laws.RoundTrip.loaderDone (die : Nat) : Laws.RoundTrip.Statement (.loaderDone die) := roundTrip_none rfl

theorem Laws.RoundTrip.pllLockTimeout (die : Nat) : Laws.RoundTrip.Statement (.pllLockTimeout die) := roundTrip_none rfl

theorem Laws.RoundTrip.routeEntryWrite (core : CoreId) (n : Nat) (entry : BitVec 256) : Laws.RoundTrip.Statement (.routeEntryWrite core n entry) := roundTrip_none rfl

theorem Laws.RoundTrip.routerLinkFailure (m : MeshFault) : Laws.RoundTrip.Statement (.routerLinkFailure m) := roundTrip_none rfl

theorem Laws.RoundTrip.routeRebuildDone (core : CoreId) (entries : List (Nat × BitVec 256)) : Laws.RoundTrip.Statement (.routeRebuildDone core entries) := roundTrip_none rfl

theorem Laws.RoundTrip.undeliverableResponse (m : Resend) : Laws.RoundTrip.Statement (.undeliverableResponse m) := roundTrip_none rfl

theorem Laws.RoundTrip.meshFlitCrcError (m : MeshFault) : Laws.RoundTrip.Statement (.meshFlitCrcError m) := roundTrip_none rfl

theorem Laws.RoundTrip.panelMapUpdate (cells : List (Nat × Byte)) : Laws.RoundTrip.Statement (.panelMapUpdate cells) := roundTrip_none rfl

theorem Laws.RoundTrip.powerOn : Laws.RoundTrip.Statement (.powerOn) := roundTrip_none rfl

theorem Laws.RoundTrip.fwdcfgGo (die : Nat) (value : Word) : Laws.RoundTrip.Statement (.fwdcfgGo die value) := roundTrip_none rfl

theorem Laws.RoundTrip.pllLock (die : Nat) : Laws.RoundTrip.Statement (.pllLock die) := roundTrip_none rfl

theorem Laws.RoundTrip.rerootResume : Laws.RoundTrip.Statement (.rerootResume) := roundTrip_none rfl

theorem Laws.RoundTrip.fwdcmdDone (die : Nat) (value : Word) : Laws.RoundTrip.Statement (.fwdcmdDone die value) := roundTrip_none rfl

theorem Laws.RoundTrip.gtcrateWrite (die : Nat) (value : DWord) : Laws.RoundTrip.Statement (.gtcrateWrite die value) := roundTrip_none rfl

theorem Laws.RoundTrip.gtcslewWrite (die : Nat) (value : DWord) : Laws.RoundTrip.Statement (.gtcslewWrite die value) := roundTrip_none rfl

theorem Laws.RoundTrip.slewComplete : Laws.RoundTrip.Statement (.slewComplete) := roundTrip_none rfl

theorem Laws.RoundTrip.gtcstepWrite (die : Nat) (value : DWord) : Laws.RoundTrip.Statement (.gtcstepWrite die value) := roundTrip_none rfl

theorem Laws.RoundTrip.ptpFrameReceive (f : PtpFrame) : Laws.RoundTrip.Statement (.ptpFrameReceive f) := roundTrip_none rfl

theorem Laws.RoundTrip.announceTimeout : Laws.RoundTrip.Statement (.announceTimeout) := roundTrip_none rfl

theorem Laws.RoundTrip.handlerEntry (core : CoreId) (g : GroupId) : Laws.RoundTrip.Statement (.handlerEntry core g) := roundTrip_none rfl

theorem Laws.RoundTrip.parityError (core : CoreId) (hit : ParityHit) : Laws.RoundTrip.Statement (.parityError core hit) := roundTrip_none rfl

theorem Laws.RoundTrip.coreStoreScrub (core : CoreId) (found : List WordError) : Laws.RoundTrip.Statement (.coreStoreScrub core found) := roundTrip_none rfl

theorem Laws.RoundTrip.hbmScrub (found : List SectorError) : Laws.RoundTrip.Statement (.hbmScrub found) := roundTrip_none rfl

theorem Laws.RoundTrip.pagereplyWrite (die : Nat) (value : DWord) : Laws.RoundTrip.Statement (.pagereplyWrite die value) := roundTrip_none rfl

theorem Laws.RoundTrip.tinvGo (die : Nat) (value : Word) : Laws.RoundTrip.Statement (.tinvGo die value) := roundTrip_none rfl

theorem Laws.RoundTrip.brbcmdStart (die : Nat) (value : Word) : Laws.RoundTrip.Statement (.brbcmdStart die value) := roundTrip_none rfl

theorem Laws.RoundTrip.coreRetentionWake (core : CoreId) : Laws.RoundTrip.Statement (.coreRetentionWake core) := roundTrip_none rfl

theorem Laws.RoundTrip.rplcmdTeardown (die : Nat) (value : Word) : Laws.RoundTrip.Statement (.rplcmdTeardown die value) := roundTrip_none rfl

theorem Laws.RoundTrip.rplcmdClearDown (die : Nat) (value : Word) : Laws.RoundTrip.Statement (.rplcmdClearDown die value) := roundTrip_none rfl

theorem Laws.RoundTrip.controlMessage (die : Nat) (m : ControlMsg) : Laws.RoundTrip.Statement (.controlMessage die m) := roundTrip_none rfl

theorem Laws.RoundTrip.dispatchFailover (die : Nat) : Laws.RoundTrip.Statement (.dispatchFailover die) := roundTrip_none rfl

theorem Laws.RoundTrip.pmreqGo (die : Nat) (value : DWord) : Laws.RoundTrip.Statement (.pmreqGo die value) := roundTrip_none rfl

theorem Laws.RoundTrip.pmreqResume (die : Nat) (value : DWord) : Laws.RoundTrip.Statement (.pmreqResume die value) := roundTrip_none rfl

theorem Laws.RoundTrip.pmreplyWrite (die : Nat) (value : DWord) : Laws.RoundTrip.Statement (.pmreplyWrite die value) := roundTrip_none rfl

theorem Laws.RoundTrip.screplyWrite (die : Nat) (value : DWord) : Laws.RoundTrip.Statement (.screplyWrite die value) := roundTrip_none rfl

theorem Laws.RoundTrip.windowRead (m : WindowReq) : Laws.RoundTrip.Statement (.windowRead m) := roundTrip_none rfl

theorem Laws.RoundTrip.windowWrite (m : WindowReq) : Laws.RoundTrip.Statement (.windowWrite m) := roundTrip_none rfl

theorem Laws.RoundTrip.windowAtomicAdd (m : WindowReq) : Laws.RoundTrip.Statement (.windowAtomicAdd m) := roundTrip_none rfl

theorem Laws.RoundTrip.windowUpstreamReply (m : UpAns) : Laws.RoundTrip.Statement (.windowUpstreamReply m) := roundTrip_none rfl

theorem Laws.RoundTrip.controlLaneLoss (lane : Nat) : Laws.RoundTrip.Statement (.controlLaneLoss lane) := roundTrip_none rfl

theorem Laws.RoundTrip.pqpostWrite (port : Nat) (addr : Nat) : Laws.RoundTrip.Statement (.pqpostWrite port addr) := roundTrip_none rfl

theorem Laws.RoundTrip.peerCopyData (f : PeerFrame) : Laws.RoundTrip.Statement (.peerCopyData f) := roundTrip_none rfl

theorem Laws.RoundTrip.peerCopyEnd (f : PeerFrame) : Laws.RoundTrip.Statement (.peerCopyEnd f) := roundTrip_none rfl

theorem Laws.RoundTrip.peerSemaphoreAdd (f : PeerFrame) : Laws.RoundTrip.Statement (.peerSemaphoreAdd f) := roundTrip_none rfl

theorem Laws.RoundTrip.peerAcknowledgement (f : PeerFrame) : Laws.RoundTrip.Statement (.peerAcknowledgement f) := roundTrip_none rfl

theorem Laws.RoundTrip.peerRefusal (f : PeerFrame) : Laws.RoundTrip.Statement (.peerRefusal f) := roundTrip_none rfl

theorem Laws.RoundTrip.peerResendTimeout (port : Nat) (post : BitVec 32) : Laws.RoundTrip.Statement (.peerResendTimeout port post) := roundTrip_none rfl

theorem Laws.RoundTrip.pldmBaseDiscovery : Laws.RoundTrip.Statement (.pldmBaseDiscovery) := roundTrip_none rfl

theorem Laws.RoundTrip.pldmSensorRead (sensor : Nat) : Laws.RoundTrip.Statement (.pldmSensorRead sensor) := roundTrip_none rfl

theorem Laws.RoundTrip.pldmFirmwareUpdate (image : List Byte) : Laws.RoundTrip.Statement (.pldmFirmwareUpdate image) := roundTrip_none rfl

theorem Laws.RoundTrip.getVersion : Laws.RoundTrip.Statement (.getVersion) := roundTrip_none rfl

theorem Laws.RoundTrip.getCapabilities : Laws.RoundTrip.Statement (.getCapabilities) := roundTrip_none rfl

theorem Laws.RoundTrip.negotiateAlgorithms (ecdsa sha : Nat) : Laws.RoundTrip.Statement (.negotiateAlgorithms ecdsa sha) := roundTrip_none rfl

theorem Laws.RoundTrip.getDigests : Laws.RoundTrip.Statement (.getDigests) := roundTrip_none rfl

theorem Laws.RoundTrip.getCertificate : Laws.RoundTrip.Statement (.getCertificate) := roundTrip_none rfl

theorem Laws.RoundTrip.challenge (nonce : List Byte) : Laws.RoundTrip.Statement (.challenge nonce) := roundTrip_none rfl

theorem Laws.RoundTrip.getMeasurements (index : Nat) : Laws.RoundTrip.Statement (.getMeasurements index) := roundTrip_none rfl

theorem Laws.RoundTrip.loaderGo (master die : Nat) (value : Word) : Laws.RoundTrip.Statement (.loaderGo master die value) := roundTrip_none rfl

theorem Laws.RoundTrip.accessTableWrite (w : RegWrite) : Laws.RoundTrip.Statement (.accessTableWrite w) := roundTrip_none rfl

theorem Laws.RoundTrip.registerWrite (w : RegWrite) : Laws.RoundTrip.Statement (.registerWrite w) := roundTrip_none rfl

theorem Laws.RoundTrip.externalReferenceChange (die : Nat) (valid : Bool) : Laws.RoundTrip.Statement (.externalReferenceChange die valid) := roundTrip_none rfl

theorem Laws.RoundTrip.ptpMessageTransmit (port : Nat) (kind : PtpKind) : Laws.RoundTrip.Statement (.ptpMessageTransmit port kind) := roundTrip_none rfl

theorem Laws.RoundTrip.peerPortLinkUp (port : Nat) : Laws.RoundTrip.Statement (.peerPortLinkUp port) := roundTrip_none rfl

theorem Laws.RoundTrip.peerFrameDiscard (port : Nat) : Laws.RoundTrip.Statement (.peerFrameDiscard port) := roundTrip_none rfl

theorem Laws.RoundTrip.dieMapOut (die : Nat) : Laws.RoundTrip.Statement (.dieMapOut die) := roundTrip_none rfl

theorem Laws.RoundTrip.coreRetentionEntry (core : CoreId) : Laws.RoundTrip.Statement (.coreRetentionEntry core) := roundTrip_none rfl

end Sys2Proof
end

