-- ==== Sys2Proof/Laws/Traps.lean ====
section
/-! SUPPORT. What parking lanes does (R111), and a step of lanes after it. -/

namespace Sys2Proof.Machine

theorem Group.lane_mapLanes (g : Group) (f : Nat → Lane → Lane) {k : Nat} (h : k < g.lanes.length) :
    (g.mapLanes f).lane k = f k (g.lane k) := by
  unfold Group.lane Group.mapLanes
  rw [List.getD_eq_getElem?_getD, List.getD_eq_getElem?_getD, List.getElem?_mapIdx, List.getElem?_eq_getElem h]
  rfl

theorem Group.setLane_eq (g : Group) (l : Nat) (f : Lane → Lane) :
    g.setLane l f = g.mapLanes fun k x => if k = l then f x else x := rfl

theorem has_eq_contains (l : List Nat) (n : Nat) : has l n = l.contains n := by
  rw [Bool.eq_iff_iff, has_iff, List.contains_iff_mem]

/-- What `trapLanes` does outside a handler, to lanes that have not exited. -/
theorem State.trapLanes_spec (ls : List Nat) (s : State) (t : Trap) (rows : List Nat) (hn : ls.Nodup)
    (hh : s.grp.inHandler = false) (hl : ∀ l ∈ ls, l < s.grp.lanes.length ∧ (s.lane l).st ≠ .exited) :
    ∃ g : Group, s.trapLanes ls t rows = { s with grp := g } ∧ g.regs = s.grp.regs ∧ g.inHandler = false
      ∧ g.lanes.length = s.grp.lanes.length
      ∧ ∀ k < s.grp.lanes.length, g.lane k = if ls.contains k then (s.lane k).parkedFor t [] rows else s.lane k := by
  induction ls generalizing s with
  | nil => exact ⟨s.grp, rfl, rfl, hh, rfl, fun k _ => by simp [State.lane]⟩
  | cons l ls ih =>
    rw [List.nodup_cons] at hn
    have hlt := (hl l (.head _)).1
    let g1 : Group := s.grp.park l t [] rows
    have h1 : s.trapLane l t [] rows = { s with grp := g1 } := by
      unfold State.trapLane
      rw [if_neg (hl l (.head _)).2, hh]; rfl
    have hlen : g1.lanes.length = s.grp.lanes.length := Group.mapLanes_length _ _
    have hlane (k : Nat) (hk : k < s.grp.lanes.length) :
        g1.lane k = if k = l then (s.lane k).parkedFor t [] rows else s.lane k :=
      Group.lane_mapLanes s.grp _ hk
    obtain ⟨g, e, er, eh, el, ek⟩ := ih { s with grp := g1 } hn.2 hh (fun k hk => by
      have hk' := hl k (.tail _ hk)
      refine ⟨by rw [hlen]; exact hk'.1, ?_⟩
      show (g1.lane k).st ≠ _
      have hne : k ≠ l := fun e => hn.1 (by rw [← e]; exact hk)
      rw [hlane k hk'.1, if_neg hne]
      exact hk'.2)
    refine ⟨g, ?_, er.trans rfl, eh, el.trans hlen, fun k hk => ?_⟩
    · show (s.trapLane l t [] rows).trapLanes ls t rows = _
      rw [h1, e]
    · rw [ek k (by rw [hlen]; exact hk)]
      show (if ls.contains k then (g1.lane k).parkedFor t [] rows else g1.lane k) = _
      rw [hlane k hk]
      by_cases e1 : k = l
      · subst e1
        have : ls.contains k = false := by
          rw [Bool.eq_false_iff, Ne, List.contains_iff_mem]; exact hn.1
        rw [this]
        simp
      · simp [e1]

theorem Group.runners_run (g : Group) (h : g.inHandler = false) {l : Nat} (hl : l ∈ g.runners) : (g.lane l).st = .run := by
  have hw (p : Lane → Bool) (hp : ∀ x, p x = true → x.st = .run) (hl : l ∈ g.which p) : (g.lane l).st = .run :=
    hp _ (List.mem_filter.mp hl).2
  unfold Group.runners at hl
  rw [h] at hl
  simp only [Bool.false_eq_true, if_false] at hl
  split at hl
  · exact hw _ (fun x hx => by simpa using hx) hl
  · exact hw _ (fun x hx => by simp only [Bool.and_eq_true, beq_iff_eq] at hx; exact hx.2) hl

theorem Group.issueSet_runners (g : Group) {l : Nat} (h : l ∈ g.issueSet) : l ∈ g.runners := by
  unfold Group.issueSet at h
  split at h
  · exact absurd h (by simp)
  · exact (List.mem_filter.mp h).1

theorem Group.active_issueSet (g : Group) {l : Nat} (h : l ∈ g.active) : l ∈ g.issueSet := (List.mem_filter.mp h).1

/-- Some lanes of the issue set park for one reason and the rest of it moves on. -/
theorem State.park_and_step (s : State) (ls : List Nat) (t : Trap) (rows : List Nat) (hh : s.grp.inHandler = false)
    (hn : ls.Nodup) (hi : ∀ l ∈ ls, l ∈ s.issueSet) :
    ∃ g : Group, ((s.trapLanes ls t rows).onGrp (·.step (s.issueSet.filter fun l => !has ls l))) = { s with grp := g }
      ∧ parksIn s g (fun k => if ls.contains k then some t else none) (fun _ => []) rows := by
  obtain ⟨g, e, er, _, el, ek⟩ := s.trapLanes_spec ls t rows hn hh fun l hl =>
    ⟨s.grp.issueSet_lt (hi l hl), by
      have := s.grp.runners_run hh (s.grp.issueSet_runners (hi l hl))
      show (s.grp.lane l).st ≠ _
      rw [this]; simp⟩
  refine ⟨g.step (s.issueSet.filter fun l => !has ls l), by rw [e]; rfl, ?_, ?_, fun k hk => ?_⟩
  · rw [(g.keeps_step _).1, er]
  · rw [← el]; exact Group.mapLanes_length _ _
  · unfold Group.step
    rw [Group.lane_mapLanes g _ (by rw [el]; exact hk), ek k hk]
    simp only [has_eq_contains]
    by_cases h : ls.contains k = true
    · have hf : (s.issueSet.filter fun l => !ls.contains l).contains k = false := by
        rw [Bool.eq_false_iff, Ne, List.contains_iff_mem, List.mem_filter]
        intro h'; rw [h] at h'; simp at h'
      rw [hf, h]; rfl
    · rw [Bool.not_eq_true] at h
      have hf : (s.issueSet.filter fun l => !ls.contains l).contains k = s.issueSet.contains k := by
        rw [Bool.eq_iff_iff, List.contains_iff_mem, List.contains_iff_mem, List.mem_filter]
        rw [h]; simp
      rw [hf, h]; rfl

/-- What a trap of every active lane does outside a handler (R111, R204). -/
theorem State.trapActive_spec (s : State) (t : Trap) (rows : List Nat) (hh : s.grp.inHandler = false) :
    ∃ g : Group, s.trapActive t rows = ({ s with grp := g } : State).retire s.pc false
      ∧ parksIn s g (fun k => if s.active.contains k then some t else none) (fun _ => []) rows := by
  obtain ⟨g, e, h⟩ := s.park_and_step s.active t rows hh s.grp.active_nodup fun l hl => s.grp.active_issueSet hl
  exact ⟨g, by unfold State.trapActive; dsimp only; rw [e], h⟩

end Sys2Proof.Machine
end

