-- ==== Sys2Proof/Tests/Slice0.lean ====
section
/-! SUPPORT. Tests: decoding, ill-formed encodings, witnesses of the statements' hypotheses, and one step of some instructions. -/

namespace Sys2Proof.Tests

set_option Elab.async false

open Sys2Proof Sys2Proof.Machine

/-- The result of a check that passes. -/
def okOf {E A : Type} : Except E A → Option A
  | .ok a => some a
  | .error _ => none

theorem okOf_eq {E A : Type} {x : Except E A} {a : A} (h : okOf x = some a) : x = .ok a := by
  cases x with
  | ok b => exact congrArg Except.ok (Option.some.inj h)
  | error e => cases h

/-- A check that passes at every place of a list. -/
theorem allOk {E A B : Type} {f : B → Except E A} {a : A} {l : List B} (h : (l.map fun x => okOf (f x)) = List.replicate l.length (some a)) :
    ∀ x ∈ l, f x = .ok a := fun _ hx =>
  okOf_eq (List.eq_of_mem_replicate (h ▸ List.mem_map_of_mem (f := fun x => okOf (f x)) hx))

/-! ### Decoding (R168 to R179, R193, R194, R200) -/

/-- The 88 bits of a slot below the opcode, with a fixed value in every field, and those fields. -/
def bitsV3 : BitVec 88 := 4#4 ++ 2#3 ++ 0x005#9 ++ 0x006#9 ++ 0x11#7 ++ 0x107#9 ++ 0x22#7 ++ 0x189#9 ++ 0x33#7 ++ 9#6 ++ 10#6 ++ 11#4 ++ 12#8
/-- The same as a record. -/
def recV3 : V3 := ⟨4, 2, .v 5, .v 6, 0x11, .s 7, 0x22, .int 9, 0x33, 9, 10, 11, 12⟩
/-- The same for the next format. -/
def bitsVI : BitVec 88 := 3#4 ++ 1#3 ++ 0x0FF#9 ++ 0x143#9 ++ 0x12#7 ++ 0x1C1#9 ++ 0x23#7 ++ 4#4 ++ 5#4 ++ 0xDEADBEEF#32
/-- The same as a record. -/
def recVI : VI := ⟨3, 1, .v 255, .const 3, 0x12, .resv 1, 0x23, 4, 5, 0xDEADBEEF⟩
/-- The same for the next format. -/
def bitsU : BitVec 88 := 4#4 ++ 17#6 ++ 0x101#9 ++ 0x102#9 ++ 0x103#9 ++ 0x13F#9 ++ 1#1 ++ 5#9 ++ 0x89ABCDEF#32
/-- The same as a record. -/
def recU : UF := ⟨4, 17, .s 1, .s 2, .s 3, .s 63, 1, 5, 0x89ABCDEF⟩
/-- The same for the next format. -/
def bitsM : BitVec 88 := 5#4 ++ 3#4 ++ 2#2 ++ 0x00A#9 ++ 0x00B#9 ++ 12#4 ++ 33#6 ++ 1#2 ++ 0xFFFE#16 ++ 0x1BF#9 ++ 5#3 ++ 1#1 ++ 44#6 ++ 99#13
/-- The same as a record. -/
def recM : MF := ⟨5, 3, 2, .v 10, .v 11, 12, 33, 1, 0xFFFE, .int 63, 5, 1, 44, 99⟩
/-- The same for the next format. -/
def bitsX : BitVec 88 := 6#4 ++ 18#6 ++ 0x104#9 ++ 0x105#9 ++ 0x182#9 ++ 61#6 ++ 1#1 ++ 0x1ABCD#17 ++ 63#6 ++ 21#5 ++ 0x1234#16
/-- The same as a record. -/
def recX : XF := ⟨6, 18, .s 4, .s 5, .int 2, 61, 1, 0x1ABCD, 63, 21, 0x1234⟩
/-- The same for the next format. -/
def bitsB : BitVec 88 := 7#4 ++ 3#3 ++ 0x020#9 ++ 0x040#9 ++ 0x1FFFFE#21 ++ 4#3 ++ 61#6 ++ 1#1 ++ 0xCAFEF00D#32
/-- The same as a record. -/
def recB : BF := ⟨7, 3, .v 32, .v 64, 0x1FFFFE, 4, 61, 1, 0xCAFEF00D⟩
/-- The same for the next format. -/
def bitsMX : BitVec 88 := 2#4 ++ 3#4 ++ 5#3 ++ 62#6 ++ 2#2 ++ 19#6 ++ 0x106#9 ++ 0x107#9 ++ 0x108#9 ++ 10#4 ++ 0x0BADF00D#32
/-- The same as a record. -/
def recMX : MXF := ⟨2, 3, 5, 62, 2, 19, .s 6, .s 7, .s 8, 10, 0x0BADF00D⟩
/-- The same for the next format. -/
def bitsG : BitVec 88 := 1#4 ++ 20#6 ++ 0x001#9 ++ 0x002#9 ++ 0x003#9 ++ 0x004#9 ++ 13#4 ++ 200#8 ++ 42#6 ++ 0xABCDEF#24
/-- The same as a record. -/
def recG : GF := ⟨1, 20, .v 1, .v 2, .v 3, .v 4, 13, 200, 42, 0xABCDEF⟩
/-- The same for the next format. -/
def bitsS : BitVec 88 := 4#4 ++ 9#4 ++ 1#2 ++ 0x010#9 ++ 0x011#9 ++ 0x012#9 ++ 0x0021#16 ++ 34#6 ++ 0x1ABCDEF0#29
/-- The same as a record. -/
def recS : SF := ⟨4, 9, 1, .v 16, .v 17, .v 18, 0x0021, 34, 0x1ABCDEF0⟩

/-- Each opcode of a list, put before the same 88 bits, decodes to its instruction with the same fields. -/
def reads {F : Type} (bits : BitVec 88) (f : F) (l : List (BitVec 8 × (F → Instr))) : Bool :=
  l.all fun x => decide (decode false (x.1 ++ bits).toNat = .ok (x.2 f))

/-- Opcodes 0x0_ of the V3 format. -/
theorem test_decode_0_V3 : reads bitsV3 recV3
    [(0x01, .nop)] = true := by decide +kernel

/-- Opcodes 0x0_ of the B format. -/
theorem test_decode_0_B : reads bitsB recB
    [(0x02, .bra), (0x03, .brx), (0x04, .call), (0x05, .ret), (0x06, .ifc), (0x07, .elsec), (0x08, .endif), (0x09, .loop), (0x0A,
    .breakif), (0x0B, .contif), (0x0C, .endloop), (0x0D, .reconv), (0x0E, .exit)] = true := by decide +kernel

/-- Opcodes 0x1_ of the V3 format. -/
theorem test_decode_1_V3 : reads bitsV3 recV3
    [(0x10, .iadd), (0x11, .iaddc), (0x12, .isub), (0x13, .ineg), (0x14, .iabs), (0x15, .imul), (0x16, .imulh), (0x17, .imad), (0x18,
    .imadw), (0x19, .imin), (0x1A, .imax), (0x1B, .icmp), (0x1C, .idot4), (0x1D, .sel), (0x1E, .lea)] = true := by decide +kernel

/-- Opcodes 0x2_ of the V3 format. -/
theorem test_decode_2_V3 : reads bitsV3 recV3
    [(0x20, .fadd), (0x21, .fmul), (0x22, .ffma), (0x23, .fmin), (0x24, .fmax), (0x25, .fcmp), (0x26, .fclass), (0x27, .frint), (0x28,
    .fldexp), (0x29, .fdot2), (0x2A, .fdivfix), (0x2B, .cvt), (0x2C, .cvtef), (0x2D, .mxpack), (0x2E, .mxunpack)] = true := by decide +kernel

/-- Opcodes 0x3_ of the V3 format. -/
theorem test_decode_3_V3 : reads bitsV3 recV3
    [(0x30, .frcp), (0x31, .frsq), (0x32, .fsqrt), (0x33, .fexp2), (0x34, .flog2), (0x35, .fsin), (0x36, .fcos), (0x37, .ftanh)] = true := by decide +kernel

/-- Opcodes 0x4_ of the V3 format. -/
theorem test_decode_4_V3 : reads bitsV3 recV3
    [(0x40, .and), (0x41, .andn), (0x42, .or), (0x43, .orn), (0x44, .xor), (0x45, .not), (0x46, .shl), (0x47, .shr), (0x48, .shra),
    (0x49, .rotl), (0x4A, .bfe), (0x4B, .bfi), (0x4C, .brev), (0x4D, .clz), (0x4E, .ffs), (0x4F, .popc)] = true := by decide +kernel

/-- Opcodes 0x5_ of the VI format. -/
theorem test_decode_5_VI : reads bitsVI recVI
    [(0x50, .movi), (0x51, .iaddVi), (0x52, .isubVi), (0x53, .imulVi), (0x54, .imadVi), (0x55, .iminVi), (0x56, .imaxVi), (0x57,
    .icmpVi), (0x58, .andVi), (0x59, .orVi), (0x5A, .xorVi), (0x5B, .faddVi), (0x5C, .fmulVi), (0x5D, .ffmaVi), (0x5E, .fcmpVi)] = true := by decide +kernel

/-- Opcodes 0x6_ of the V3 format. -/
theorem test_decode_6_V3 : reads bitsV3 recV3
    [(0x60, .mov), (0x61, .shfl), (0x62, .vote), (0x63, .ballot), (0x64, .matchl), (0x65, .reduce), (0x66, .scan), (0x67, .lanerd),
    (0x68, .lanewr), (0x69, .rand)] = true := by decide +kernel

/-- Opcodes 0x7_ of the U format. -/
theorem test_decode_7_U : reads bitsU recU
    [(0x70, .salu), (0x71, .scmp), (0x72, .ssel), (0x73, .smov)] = true := by decide +kernel

/-- Opcodes 0x8_ of the M format. -/
theorem test_decode_8_M : reads bitsM recM
    [(0x80, .ld), (0x81, .st), (0x82, .ldu), (0x83, .ldl), (0x84, .stl), (0x85, .ldp), (0x86, .stp), (0x87, .atom), (0x88, .atoml),
    (0x89, .atomp), (0x8A, .pref), (0x8B, .renew), (0x8C, .expire), (0x8D, .flush), (0x8E, .spill), (0x8F, .fill)] = true := by decide +kernel

/-- Opcodes 0x9_ of the X format. -/
theorem test_decode_9_X : reads bitsX recX
    [(0x90, .xcpy), (0x91, .xgather), (0x92, .xscatter), (0x93, .xreduce), (0x94, .xfill), (0x95, .xpeer), (0x96, .xcancel), (0x97,
    .tiledef), (0x98, .tilerel), (0x99, .tileq), (0x9A, .psend), (0x9B, .precv), (0x9C, .barinit), (0x9D, .bararv), (0x9E, .barwait),
    (0x9F, .bartest)] = true := by decide +kernel

/-- Opcodes 0xA_ of the X format. -/
theorem test_decode_A_X : reads bitsX recX
    [(0xA0, .bartx)] = true := by decide +kernel

/-- Opcodes 0xA_ of the S format. -/
theorem test_decode_A_S : reads bitsS recS
    [(0xA1, .waitcnt), (0xA2, .fence), (0xA3, .clkadv), (0xA4, .spinhint), (0xA5, .sleep), (0xA6, .waitt), (0xA7, .semsig), (0xA8,
    .semwait), (0xA9, .movsp), (0xAA, .setsp)] = true := by decide +kernel

/-- Opcodes 0xB_ of the MX format. -/
theorem test_decode_B_MX : reads bitsMX recMX
    [(0xB0, .mma), (0xB1, .acczero), (0xB2, .accload), (0xB3, .accdrain), (0xB4, .mmawait)] = true := by decide +kernel

/-- Opcodes 0xB_ of the V3 format. -/
theorem test_decode_B_V3 : reads bitsV3 recV3
    [(0xB5, .mmab)] = true := by decide +kernel

/-- Opcodes 0xC_ of the G format. -/
theorem test_decode_C_G : reads bitsG recG
    [(0xC0, .rast), (0xC1, .binput), (0xC2, .binget), (0xC3, .trav), (0xC4, .travnext), (0xC5, .regroup), (0xC6, .repack), (0xC7,
    .tex), (0xC8, .texq)] = true := by decide +kernel

/-- Opcodes 0xD_ of the S format. -/
theorem test_decode_D_S : reads bitsS recS
    [(0xD0, .launch), (0xD1, .trap), (0xD2, .syscall), (0xD3, .bkpt), (0xD4, .eret), (0xD5, .idem), (0xD6, .progress)] = true := by decide +kernel

/-- The entries of the opcode map marked undefined are refused by name. -/
theorem test_decode_undefined :
    ([0x0F, 0x1F, 0x2F, 0x38, 0x39, 0x3A, 0x3B, 0x3C, 0x3D, 0x3E, 0x3F, 0x5F, 0x6A, 0x6B, 0x6C, 0x6D, 0x6E, 0x6F, 0x74, 0x75,
      0x76, 0x77, 0x78, 0x79, 0x7A, 0x7B, 0x7C, 0x7D, 0x7E, 0x7F, 0xAB, 0xAC, 0xAD, 0xAE, 0xAF, 0xB6, 0xB7, 0xB8, 0xB9, 0xBA,
      0xBB, 0xBC, 0xBD, 0xBE, 0xBF, 0xC9, 0xCA, 0xCB, 0xCC, 0xCD, 0xCE, 0xCF, 0xD7, 0xD8, 0xD9, 0xDA, 0xDB, 0xDC, 0xDD, 0xDE,
      0xDF, 0xE0, 0xE1, 0xE2, 0xE3, 0xE4, 0xE5, 0xE6, 0xE7, 0xE8, 0xE9, 0xEA, 0xEB, 0xEC, 0xED, 0xEE, 0xEF, 0xF0, 0xF1, 0xF2,
      0xF3, 0xF4, 0xF5, 0xF6, 0xF7, 0xF8, 0xF9, 0xFA, 0xFB, 0xFC, 0xFD, 0xFE, 0xFF].all
      fun n => decide (decode false (n * 2 ^ 88 + bitsV3.toNat) = .undefinedOpcode n)) = true := by decide +kernel

/-- Opcode 0x00 is ILL with the detail of an undefined opcode (R193). -/
theorem test_decode_zero : decode false bitsV3.toNat = .ok (.ill 2 false) := by decide +kernel

/-- Every half-op of the half-op table, with a fixed value in every field of both halves (R179, R200). -/
theorem test_decode_halves :
    ([(0x01, .mov), (0x02, .iadd), (0x03, .isub), (0x04, .imul), (0x05, .imin), (0x06, .imax), (0x07, .ineg), (0x08, .fadd),
      (0x09, .fmul), (0x0A, .fmin), (0x0B, .fmax), (0x0C, .fldexp), (0x0D, .frint), (0x0E, .fclass), (0x0F, .iabs), (0x10,
      .and), (0x11, .andn), (0x12, .or), (0x13, .orn), (0x14, .xor), (0x15, .not), (0x16, .shl), (0x17, .shr), (0x18, .shra),
      (0x19, .rotl), (0x1A, .brev), (0x1B, .clz), (0x1C, .ffs), (0x1D, .popc), (0x1E, .imulh), (0x20, .frcp), (0x21, .frsq),
      (0x22, .fsqrt), (0x23, .fexp2), (0x24, .flog2), (0x25, .fsin), (0x26, .fcos), (0x27, .ftanh), (0x28, .cvtF32), (0x29,
      .cvtF16), (0x2A, .cvtBF16), (0x2B, .cvtI32), (0x2C, .cvtF64)].all
      fun x : BitVec 6 × HalfOp => decide (decode true ((x.1 ++ 9#4 ++ 1#8 ++ 2#8 ++ 3#7 ++ 4#8 ++ 5#7 ++ x.1 ++ 4#4 ++ 0xFF#8 ++ 0xFE#8 ++ 0x7F#7 ++ 0xFD#8 ++ 0x7E#7 : BitVec 96).toNat)
        = .ok (.pairedSlot ⟨x.2, 9, 1, 2, 3, 4, 5⟩ ⟨x.2, 4, 0xFF, 0xFE, 0x7F, 0xFD, 0x7E⟩))) = true := by decide +kernel

/-- The half-ops marked undefined are refused by name, in either half. -/
theorem test_decode_halves_undefined :
    ([0x00, 0x1F, 0x2D, 0x2E, 0x2F, 0x30, 0x31, 0x32, 0x33, 0x34, 0x35, 0x36, 0x37, 0x38, 0x39, 0x3A, 0x3B, 0x3C, 0x3D, 0x3E,
      0x3F].all fun n =>
      decide (decode true (n * 2 ^ 90) = .undefinedHalfOp false n) && decide (decode true (2 ^ 90 + n * 2 ^ 42) = .undefinedHalfOp true n)) = true := by
  decide +kernel

/-- The line (R155, R156): slot 2 of five stands at bytes 24 to 35, PAIR bit 2, RUNEND bit 12, and PARITY covers bytes 0 to 59. -/
def testLine : List Byte := makeLine [1, 2, 0x0102030405060708090A0B0C, 4, 5] (2 ^ 2 + 2 ^ 12)
theorem test_line :
    testLine.length = 64 ∧ lineSlot testLine 2 = 0x0102030405060708090A0B0C ∧ linePair testLine 2 = true ∧ linePair testLine 1 = false
      ∧ lineRunEnd testLine 2 = true ∧ lineTarget testLine 2 = false ∧ parityOk testLine = true ∧ testLine.getD 24 0 = 0x0C := by decide +kernel
/-! ### Ill-formed encodings (R203) -/

/-- A V3 instruction with dst v10 and srcA v6, srcB v7, srcC v8 as far as it has sources. -/
def v3 (ty : BitVec 4) (n : Nat) (sub : BitVec 6 := 0) (rnd : BitVec 3 := 0) (flags : BitVec 4 := 0) : V3 where
  ty := ty
  rnd := rnd
  dst := .v 10
  a := if 1 ≤ n then .v 6 else .v 0
  pa := 0
  b := if 2 ≤ n then .v 8 else .v 0
  pb := 0
  c := if 3 ≤ n then .v 14 else .v 0
  pc := 0
  nabs := 0
  sub := sub
  flags := flags
  z := 0

/-- A well-formed IADD .I32. -/
def good : V3 := v3 2 2

/-- The detail of the first check of R203 that an instruction fails on a vector core with a window of 64 registers. -/
def detail (i : Instr) : Option (BitVec 8 × Bool) := illDetail ⟨.vector, 64, false⟩ i

theorem test_wf_good : wellFormed (.iadd good) = true ∧ detail (.iadd good) = none := by decide +kernel
theorem test_wf_opcode : wellFormed (.ill 2 false) = false ∧ detail (.ill 2 false) = some (0x02, false) := by decide +kernel
theorem test_wf_kind : detail (.acczero ⟨0, 0, 0, 0, 0, 0, .int 0, .v 0, .v 0, 0, 0⟩) = some (0x03, false)
    ∧ illDetail ⟨.control, 64, false⟩ (.iadd good) = some (0x03, false) := by decide +kernel
theorem test_wf_subop : wellFormed (.iadd { good with sub := 1 }) = false ∧ detail (.iadd { good with sub := 1 }) = some (0x04, false) := by
  decide +kernel
theorem test_wf_type : wellFormed (.iadd { good with ty := 8 }) = false ∧ detail (.iadd { good with ty := 0xA }) = some (0x05, false) := by
  decide +kernel
theorem test_wf_round : wellFormed (.iadd { good with rnd := 1 }) = false ∧ detail (.fadd (v3 1 2 0 7)) = some (0x06, false) := by decide +kernel
theorem test_wf_scope : wellFormed (.ld ⟨2, 5, 0, .v 1, .v 2, 0, 0, 0, 0, .v 0, 0, 0, 0, 0⟩) = false
    ∧ detail (.ld ⟨2, 5, 0, .v 1, .v 2, 0, 0, 0, 0, .v 0, 0, 0, 0, 0⟩) = some (0x07, false) := by decide +kernel
theorem test_wf_reserved : wellFormed (.iadd { good with z := 1 }) = false ∧ detail (.iadd { good with c := .v 1 }) = some (0x08, false) := by
  decide +kernel
theorem test_wf_operand : wellFormed (.iadd { good with a := .resv 0 }) = false ∧ detail (.iadd { good with a := .v 64 }) = some (0x09, false)
    ∧ detail (.iadd { good with ty := 3, a := .v 7 }) = some (0x09, false) ∧ detail (.iadd { good with dst := .s 1 }) = some (0x09, false) := by
  decide +kernel
theorem test_wf_perm : wellFormed (.iadd { good with pa := 0x66 }) = false ∧ detail (.iadd { good with pa := 0x66 }) = some (0x0A, false) := by
  decide +kernel
theorem test_wf_sign : wellFormed (.iadd { good with nabs := 0x20 }) = false ∧ detail (.iadd { good with nabs := 0x20 }) = some (0x0B, false) := by
  decide +kernel
/-- A pair whose first half writes a register that the second reads (R181). -/
theorem test_wf_pair : wellFormed (.pairedSlot ⟨.iadd, 2, 1, 2, 0, 3, 0⟩ ⟨.iadd, 2, 4, 1, 0, 5, 0⟩) = false
    ∧ detail (.pairedSlot ⟨.iadd, 2, 1, 2, 0, 3, 0⟩ ⟨.iadd, 2, 4, 1, 0, 5, 0⟩) = some (0x0C, false)
    ∧ detail (.pairedSlot ⟨.iadd, 2, 1, 2, 0, 3, 0⟩ ⟨.iadd, 8, 4, 5, 0, 6, 0⟩) = some (0x05, true) := by decide +kernel
theorem test_wf_other : wellFormed (.ld ⟨2, 0, 2, .v 1, .v 2, 0, 0, 0, 0, .v 0, 0, 0, 0, 0⟩) = false
    ∧ detail (.ld ⟨2, 0, 2, .v 1, .v 2, 0, 0, 0, 0, .v 0, 0, 0, 0, 0⟩) = some (0x0D, false) := by decide +kernel
/-! ### Witnesses: states and operands that meet the hypotheses of the statements -/

/-- A vector core with one group of 32 lanes in RUN at the first slot of a code page. -/
def vec : State := State.reset.placeWord 0

theorem vec_ok : vec.ok := by simp only [State.ok, Core.ok, Team.ok, Group.ok]; decide +kernel

/-- Instructions with the sources that their statements name. -/
abbrev Sourced := List (Instr × List Use)

/-- The hypotheses of a statement about a per-lane instruction hold for each instruction of a list. -/
def readyIn (s : State) (l : Sourced) : Prop := s.ok ∧ ∀ x ∈ l, s.clear x.1 ∧ s.clean x.2

theorem readyIn.of {s : State} {l : Sourced} (h : s.ok)
    (k : ∀ x ∈ l, (illDetail s.ctx x.1 = none ∧ s.blocked x.1 = false) ∧ ∀ n ∈ s.active, (s.sources x.2 n).any (·.2) = false) : readyIn s l :=
  ⟨h, k⟩

/-- A VI twin with dst v10 and srcA v6, srcB v8 when it has two register sources. -/
def vi (ty : BitVec 4) (n : Nat) (sub : BitVec 4 := 0) (rnd : BitVec 3 := 0) : VI where
  ty := ty
  rnd := rnd
  dst := .v 10
  a := if 1 ≤ n then .v 6 else .v 0
  pa := 0
  b := if 2 ≤ n then .v 8 else .v 0
  pb := 0
  sub := sub
  nabs := 0
  imm := 0x80000001

theorem witness_IntegerArithmetic : readyIn vec (
    ([.iadd, .isub, .imul, .imulh, .imin, .imax] : List (V3 → Instr)).map (fun i => (i (v3 2 2), [(v3 2 2).useA .i32, (v3 2 2).useB .i32]))
    ++ ([.iaddVi, .isubVi, .imulVi, .iminVi, .imaxVi] : List (VI → Instr)).map (fun i => (i (vi 3 1), [(vi 3 1).useA .i64]))
    ++ [(.ineg (v3 2 1), [(v3 2 1).useA .i32]), (.iabs (v3 3 1), [(v3 3 1).useA .i64]),
      (.imad (v3 7 3), [(v3 7 3).useA .n64, (v3 7 3).useB .n64, (v3 7 3).useC .n64]), (.imadVi (vi 6 2), [(vi 6 2).useA .n32, (vi 6 2).useB .n32]),
      (.idot4 (v3 2 3 3), [(v3 2 3 3).useA .i32, (v3 2 3 3).useB .i32, (v3 2 3 3).useC .i32]),
      (.lea (v3 9 2 63), [(v3 9 2 63).useA .b64, (v3 9 2 63).useB .i32]),
      (.imadw (v3 2 3), [(v3 2 3).useA .i32, (v3 2 3).useB .i32, (v3 2 3).useC .i64])]) := readyIn.of vec_ok (by decide +kernel)
theorem witness_AddWithCarry : readyIn vec [(.iaddc (v3 7 3), [(v3 7 3).useA .n64, (v3 7 3).useB .n64, (v3 7 3).useC .n32])] :=
  readyIn.of vec_ok (by decide +kernel)
theorem witness_ComparesAndBits : readyIn vec (
    ([.and, .andn, .or, .orn, .xor] : List (V3 → Instr)).map (fun i => (i (v3 9 2), [(v3 9 2).useA .b64, (v3 9 2).useB .b64]))
    ++ ([.andVi, .orVi, .xorVi] : List (VI → Instr)).map (fun i => (i (vi 8 1), [(vi 8 1).useA .b32]))
    ++ [(.icmp (v3 2 2 5), [(v3 2 2 5).useA .i32, (v3 2 2 5).useB .i32]), (.icmpVi (vi 7 1 0), [(vi 7 1 0).useA .n64]),
      (.sel (v3 8 3), [(v3 8 3).useA .b32, (v3 8 3).useB .b32, (v3 8 3).useC .b32]), (.not (v3 8 1), [(v3 8 1).useA .b32])]) :=
  readyIn.of vec_ok (by decide +kernel)
theorem witness_ShiftsFieldsMoves : readyIn vec (
    ([.shl, .shr, .shra, .rotl] : List (V3 → Instr)).map (fun i => (i (v3 9 2), [(v3 9 2).useA .b64, (v3 9 2).useB .b32]))
    ++ ([.brev, .clz, .ffs, .popc, .mov] : List (V3 → Instr)).map (fun i => (i (v3 8 1), [(v3 8 1).useA .b32]))
    ++ [(.bfe (v3 3 2), [(v3 3 2).useA .i64, (v3 3 2).useB .b32]), (.bfi (v3 8 3), [(v3 8 3).useA .b32, (v3 8 3).useB .b32, (v3 8 3).useC .b32]),
      (.movi (vi 3 0), [])]) := readyIn.of vec_ok (by decide +kernel)
/-- The rounding code SR, whose extra sources are the rows of the RAND state (R165). -/
theorem witness_FloatArithmetic : readyIn vec (
    ([.fadd, .fmul] : List (V3 → Instr)).map (fun i => (i (v3 1 2 0 6), [(v3 1 2 0 6).useA .f32, (v3 1 2 0 6).useB .f32] ++ vec.randUses 6))
    ++ ([.ffma, .fdivfix] : List (V3 → Instr)).map (fun i =>
      (i (v3 0 3), [(v3 0 3).useA .f64, (v3 0 3).useB .f64, (v3 0 3).useC .f64] ++ vec.randUses 0))
    ++ ([.faddVi, .fmulVi] : List (VI → Instr)).map (fun i => (i (vi 1 1 0 6), [(vi 1 1 0 6).useA .f32] ++ vec.randUses 6))
    ++ [(.fldexp (v3 2 2), [(v3 2 2).useA .f16, (v3 2 2).useB .i32] ++ vec.randUses 0),
      (.ffmaVi (vi 1 2), [(vi 1 2).useA .f32, (vi 1 2).useB .f32] ++ vec.randUses 0)]) := readyIn.of vec_ok (by decide +kernel)
theorem witness_FloatCompareClass : readyIn vec (
    ([.fmin, .fmax, .fcmp] : List (V3 → Instr)).map (fun i => (i (v3 1 2), [(v3 1 2).useA .f32, (v3 1 2).useB .f32] ++ vec.randUses 0))
    ++ [(.fclass (v3 6 1), [(v3 6 1).useA .e2m1]), (.frint (v3 1 1 0 6), [(v3 1 1 0 6).useA .f32] ++ vec.randUses 6),
      (.fcmpVi (vi 0 1 7), [(vi 0 1 7).useA .f64])]) := readyIn.of vec_ok (by decide +kernel)
theorem witness_FloatConversions : readyIn vec [
      (.fdot2 (v3 2 3), [{ (v3 2 3).useA .f16 with nabs := 0 }, { (v3 2 3).useB .f16 with nabs := 0 }, (v3 2 3).useC .f32] ++ vec.randUses 0),
      (.cvt (v3 1 1 0x12), [(v3 1 1 0x12).useA .i32] ++ vec.randUses 0), (.cvtef (v3 3 1 1 6), [(v3 3 1 1 6).useA .f32] ++ vec.randUses 6),
      (.mxunpack (v3 7 1 1), [(v3 7 1 1).useA .mxe4m3] ++ vec.randUses 0)]
    ∧ cvtSrc 0x12 = some .i32 ∧ cvtDst 0x12 1 = some .f32 ∧ mxPlain 1 = some .f32 := ⟨readyIn.of vec_ok (by decide +kernel), by decide⟩
theorem witness_Transcendentals : readyIn vec (
    ([.fsqrt, .frcp, .frsq] : List (V3 → Instr)).map (fun i => (i (v3 0 1), [(v3 0 1).useA .f64] ++ vec.randUses 0))
    ++ ([.fexp2, .flog2, .fsin, .fcos, .ftanh] : List (V3 → Instr)).map (fun i => (i (v3 2 1), [(v3 2 1).useA .f16] ++ vec.randUses 0)))
    ∧ (Ty.f64 ∈ [Ty.f64, Ty.f32, Ty.f16] ∧ Ty.f16.val 0x8001 = .num true 1 (-24) false) ∧ Ty.f32.val 0x7F800001 = .nan true
    ∧ (∀ x ∈ [(0x40400000, 12582912, true), (0x40000000, 8388608, true), (0x7F7FFFFF, 16777215, false)],
        (∃ e, Ty.f32.val x.1 = .num false x.2.1 e false ∧ ((roundInt .rtz false x.2.1 e false).1 ≤ (Ty.f32.fmt.bias : Int)) = x.2.2)) :=
  ⟨readyIn.of vec_ok (by decide +kernel), by decide +kernel, by decide +kernel, by
    intro x hx
    simp only [List.mem_cons, List.not_mem_nil, or_false] at hx
    obtain rfl | rfl | rfl := hx
    · exact ⟨-22, by decide +kernel⟩
    · exact ⟨-22, by decide +kernel⟩
    · exact ⟨104, by decide +kernel⟩⟩
theorem witness_ShuffleReadsNamedLane : let f := v3 8 2 3 0 4
    vec.ok ∧ vec.clear (.shfl f) ∧ (∀ l ∈ vec.active, (vec.lane l).replay = false)
      ∧ ∀ l ∈ vec.active, (vec.fetchUse (f.useB .n32) l).2 = false ∧ (vec.fetchUse (f.useA .b32) (l / 16 * 16)).2 = false := by
  refine ⟨vec_ok, ?_⟩; unfold State.clear; decide +kernel
/-- VOTE with either kind of destination, BALLOT and MATCH. -/
theorem witness_VotesAndMasks : readyIn vec [(.vote (v3 0 1 1), [(v3 0 1 1).useA .b32]),
      (.vote { v3 0 1 with dst := .s 63 }, [(v3 0 1).useA .b32]), (.ballot { v3 0 1 with dst := .s 0 }, [(v3 0 1).useA .b32]),
      (.matchl (v3 9 1 1), [(v3 9 1 1).useA .b64])] ∧ vec.active ≠ [] := ⟨readyIn.of vec_ok (by decide +kernel), by decide +kernel⟩
theorem witness_ReduceAndScan : readyIn vec [(.reduce { v3 1 1 0 5 with dst := .s 4 }, [(v3 1 1).useA .f32]),
      (.reduce { v3 3 1 8 with dst := .s 4 }, [(v3 3 1).useA .i64]), (.scan (v3 8 1 0x1D), [(v3 8 1).useA .b32])] ∧ vec.active ≠ [] :=
  ⟨readyIn.of vec_ok (by decide +kernel), by decide +kernel⟩
/-- A lane operand at its largest value. -/
theorem witness_LaneAccessAndRand : vec.ok ∧ vec.active ≠ []
    ∧ (let f := { v3 8 1 with dst := .s 5, b := .int 31 }
       vec.clear (.lanerd f) ∧ (vec.fetchUse (f.useB .n32) 0) = (31, false) ∧ (vec.fetchUse (f.useA .b32) 31).2 = false)
    ∧ (let f := { v3 9 0 with a := .s 2, b := .int 31 }
       vec.clear (.lanewr f) ∧ vec.uniformClean [f.useA .b64, f.useB .n32])
    ∧ vec.clear (.rand (v3 0 1))
    ∧ vec.clean ((List.range 4).map fun j => { o := .v (BitVec.ofNat 8 ((v3 0 1).a.reg + j)), kinds := kV }) := by
  refine ⟨vec_ok, ?_⟩; unfold State.clear State.clean State.uniformClean; decide +kernel
theorem witness_PackSharesScale : mxPlain 3 = some .bf16
    ∧ readyIn vec [(.mxpack (v3 9 1 3 6), (v3 9 1 3 6).useA .bf16 :: vec.randUses 6)] := ⟨rfl, readyIn.of vec_ok (by decide +kernel)⟩
theorem witness_PairedHalvesReadFirst : let x : Half := ⟨.fadd, 1, 1, 2, 0, 3, 0⟩; let y : Half := ⟨.shra, 8, 4, 5, 0, 6, 0⟩
    readyIn vec [(.pairedSlot x y, Half.sourceUses x ++ Half.sourceUses y)] := readyIn.of vec_ok (by decide +kernel)

/-- A U-format instruction with registers alone. -/
def uf (ty : BitVec 4) (n : Nat) (sub : BitVec 6 := 0) (dst : Opnd := .s 8) : UF where
  ty := ty
  sub := sub
  dst := dst
  a := .s 2
  b := if 2 ≤ n then .s 4 else .v 0
  c := .v 0
  useImm := 0
  z := 0
  imm := 0
/-- The same with an immediate in place of srcB. -/
def ufImm (ty : BitVec 4) (sub : BitVec 6 := 0) (dst : Opnd := .s 8) (a : Opnd := .s 2) : UF :=
  { uf ty 1 sub dst with a := a, useImm := 1, imm := 0x80000001 }

theorem witness_UniformInstructions : vec.ok ∧ vec.active ≠ []
    ∧ (∀ x ∈ [(Instr.salu (uf 3 2), [uUse (.s 2) .i64, uUse (.s 4) .i64]), (.salu (uf 8 2 6), [uUse (.s 2) .b32, uUse (.s 4) .b32]),
        (.salu (ufImm 3 11), [uUse (.s 2) .i64]), (.ssel (uf 9 2), [uUse (.s 2) .b64, uUse (.s 4) .b64]), (.smov (uf 8 1), [uUse (.s 2) .b32]),
        (.smov (ufImm 8 0 (.s 8) (.v 0)), []), (.scmp (uf 3 2 5 (.v 0)), [uUse (.s 2) .i64, uUse (.s 4) .i64])],
      vec.clear x.1 ∧ vec.uniformClean x.2) := by
  refine ⟨vec_ok, ?_⟩; unfold State.clear State.uniformClean; decide +kernel
/-- A B-format instruction: its own line at slot 0 as target where it has one, and a condition. -/
def bf (kind : BitVec 3) (cond : Opnd := .v 0) (link : Opnd := .v 0) (depth : BitVec 6 := 0) (neg : BitVec 1 := 0) : BF where
  sub := 0
  kind := kind
  cond := cond
  link := link
  delta := 0
  slot := 0
  depth := depth
  neg := neg
  z := 0

/-- A group in HANDLER, with lane 0 alone in the handler. -/
def vecHandler : State := vec.onGrp fun g =>
  { g with inHandler := true, lanes := g.lanes.mapIdx fun k x => { x with st := .parked, handler := decide (k = 0) } }

/-- Every lane's nesting counter. -/
def nested (n : BitVec 6) : State := vec.onGrp fun g => { g with lanes := g.lanes.map fun x => { x with nest := n } }

/-- Every lane's pair v4:5 holds the address of the code page. -/
def linked : State := vec.writeVals 4 .b64 (vec.active.map fun l => (l, 0x10000))

/-- Every lane stands outside its nest, so that none is active. -/
theorem witness_NopReconvExitEret :
    ((nested 1).active = [] ∧ (nested 1).issueSet ≠ [] ∧ (encode (.iadd good)).isSome = true ∧ (nested 1).clear (.iadd good))
    ∧ vec.clear (.nop { v3 0 0 with dst := .v 0 }) ∧ vec.clear (.reconv (bf 0))
    ∧ (∀ f ∈ [bf 0, bf 1, bf 2 (.s 3) (.v 0) 0 1, bf 3 (.v 9)], vec.clear (.exit f) ∧ ∀ l ∈ vec.active, vec.laneCond f l ≠ none)
    ∧ vecHandler.clear (.eret ⟨0, 0, 0, .v 0, .v 0, .v 0, 0, 0, 0⟩) ∧ vecHandler.active = [0] := by
  unfold State.clear; and_intros <;> decide +kernel
/-- Counters at the ends of their ranges: IF and LOOP reach 63, ENDIF starts at 63, BREAKIF has the largest DEPTH. -/
theorem witness_StructuredControl :
    ((nested 62).clear (.ifc (bf 3 (.v 9))) ∧ (∀ l ∈ (nested 62).active, (nested 62).laneCond (bf 3 (.v 9)) l ≠ none)
      ∧ ∀ l ∈ (nested 62).issueSet, ((nested 62).lane l).nest.toNat + 1 ≤ 63)
    ∧ ((nested 1).clear (.elsec (bf 0)) ∧ ∀ l ∈ (nested 1).issueSet, ((nested 1).lane l).nest.toNat ≤ 63)
    ∧ ((nested 63).clear (.endif (bf 0)) ∧ ∀ l ∈ (nested 63).issueSet, ((nested 63).lane l).nest.toNat - 1 ≤ 63)
    ∧ ((nested 61).clear (.loop (bf 0)) ∧ ∀ l ∈ (nested 61).issueSet, ((nested 61).lane l).nest.toNat + 2 ≤ 63)
    ∧ (∀ i ∈ [Instr.breakif (bf 1 (.v 0) (.v 0) 61 1), .contif (bf 1 (.v 0) (.v 0) 61 1)], vec.clear i)
    ∧ (∀ l ∈ vec.active, vec.laneCond (bf 1 (.v 0) (.v 0) 61 1) l = some true)
    ∧ ((nested 1).clear (.endloop (bf 0)) ∧ (∀ l ∈ (nested 1).issueSet, ((nested 1).lane l).nest.toNat ≤ 1) ∧ (nested 1).issueSet ≠ []
      ∧ (nested 1).missing (targetLines [BF.target (bf 0) (nested 1).pc]) false = [] ∧ (nested 1).targetTrap (BF.target (bf 0) (nested 1).pc) = none)
    ∧ ((nested 2).clear (.endloop (bf 0)) ∧ ∀ l ∈ (nested 2).issueSet, 2 ≤ ((nested 2).lane l).nest.toNat) := by
  unfold State.clear; and_intros <;> decide +kernel
/-- BRA and CALL taken and not taken, a divergent BRA, BRX and RET. -/
theorem witness_Transfers :
    (∀ i ∈ [Instr.bra (bf 0), .bra (bf 1 (.v 0) (.v 0) 0 1), .bra (bf 2 (.s 3)), .call (bf 0 (.v 0) (.v 4)), .call (bf 2 (.s 3) (.v 4))], vec.clear i)
    ∧ (∀ f ∈ [bf 0, bf 1 (.v 0) (.v 0) 0 1], vec.condPoisoned f = false ∧ vec.uniformCond f = true) ∧ vec.active ≠ []
    ∧ vec.missing (targetLines [BF.target (bf 0) vec.pc]) false = [] ∧ vec.targetTrap (BF.target (bf 0) vec.pc) = none
    ∧ vec.condPoisoned (bf 2 (.s 3)) = false ∧ vec.uniformCond (bf 2 (.s 3)) = false
    ∧ vec.clear (.bra (bf 3 (.v 9))) ∧ (∀ l ∈ vec.active, vec.laneCond (bf 3 (.v 9)) l ≠ none)
    ∧ (∀ i ∈ [Instr.brx (bf 0 (.v 0) (.v 4)), .ret (bf 0 (.v 0) (.v 4))], linked.clear i)
    ∧ ∀ l ∈ linked.active, only (linked.sources [linkUse (.v 4)] l) = (0x10000, false)
        ∧ linked.missing (targetLines [0x10000]) false = [] ∧ linked.targetTrap 0x10000 = none := by
  unfold State.clear; and_intros <;> decide +kernel

/-- An S-format instruction. -/
def sf (code : BitVec 16 := 0) (dst : Opnd := .v 0) (a : Opnd := .v 0) (b : Opnd := .v 0) (sub : BitVec 6 := 0) (scope : BitVec 4 := 0)
    (order : BitVec 2 := 0) : SF where
  ty := 0
  scope := scope
  order := order
  dst := dst
  a := a
  b := b
  code := code
  sub := sub
  z := 0

theorem witness_TrappingInstructions : vec.grp.inHandler = false ∧ vec.clear (.trap (sf 0xFFFF)) ∧ vec.clear (.bkpt (sf)) ∧ vec.clear (.syscall (sf 0xFFFF (.s 9)))
    := by unfold State.clear; and_intros <;> decide +kernel
/-- An encoding that fails a check, and REGROUP with N at the group's window. -/
theorem witness_IllegalEncodingsTrap : vec.grp.inHandler = false ∧ vec.active ≠ []
    ∧ (encode (.iadd { good with ty := 8 })).isSome = true ∧ illDetail vec.ctx (.iadd { good with ty := 8 }) = some (0x05, false)
    ∧ (let f : GF := ⟨0, 0, .v 0, .v 2, .v 0, .v 0, 0, 255, 0, 0⟩
       let s := vec.onGrp fun g => { g with win := 255 }
       (encode (.regroup f)).isSome = true ∧ illDetail s.ctx (.regroup f) = some (0x0D, false) ∧ s.grp.win ≤ f.count.toNat) := by decide +kernel
/-! #### Memory -/

/-- An M-format instruction of .B32 with index v6 and data v10. -/
def mf (ty : BitVec 4 := 8) (sub : BitVec 6 := 0) (count : BitVec 2 := 0) (offset : BitVec 16 := 0) (c : Opnd := .v 0) (flags : BitVec 3 := 0)
    (order : BitVec 2 := 0) (data : Opnd := .v 10) (index : Opnd := .v 6) (route : BitVec 6 := 0) : MF where
  ty := ty
  scope := 0
  order := order
  data := data
  index := index
  brec := 0
  sub := sub
  count := count
  offset := offset
  c := c
  flags := flags
  z1 := 0
  route := route
  z := 0

/-- Four stack rows. -/
def stacked (n : Nat) : State := { vec with team := { vec.team with lrec := { vec.team.lrec with spill := 4 } }, grp := { vec.grp with ssp := n } }

theorem stacked_ok (n : Nat) : (stacked n).ok := vec_ok

/-- The last word of the segment before the group's private rows, and the stack full and empty. -/
theorem witness_LocalLoads :
    (vec.ok ∧ vec.mayAccess (.ldl (mf 8 0 0 8575)) ∧ (∀ l ∈ vec.active, (vec.localLane (mf 8 0 0 8575) false 1 4 [(mf).idx] l).at' = .ok [34300])
      ∧ vec.ownRows ((vec.active.map fun _ => [34300]).flatten) 4 = [] ∧ vec.released? false)
    ∧ ((stacked 4).ok ∧ (stacked 4).mayAccess (.fill (mf 0 0 2 0 (.v 0) 0 0 (.v 10) (.v 0))) ∧ 4 ≤ (stacked 4).grp.ssp) := by
  unfold State.mayAccess State.clear State.released?
  exact ⟨⟨vec_ok, by decide +kernel, allOk (by decide +kernel), by decide +kernel⟩, stacked_ok 4, by decide +kernel⟩
theorem witness_LocalStores :
    (vec.ok ∧ vec.mayAccess (.stl (mf 8 0 0 8575)) ∧ (∀ l ∈ vec.active, (vec.localLane (mf 8 0 0 8575) true 1 4
        ((mf).idx :: MF.dataUses (mf) .b32 1) l).at' = .ok [34300])
      ∧ vec.ownRows ((vec.active.map fun _ => [34300]).flatten) 4 = [] ∧ vec.released? false)
    ∧ ((stacked 0).ok ∧ (stacked 0).mayAccess (.spill (mf 0 0 2 0 (.v 0) 0 0 (.v 10) (.v 0))) ∧ (stacked 0).grp.ssp + 4 ≤ (stacked 0).team.lrec.spill) := by
  unfold State.mayAccess State.clear State.released?
  exact ⟨⟨vec_ok, by decide +kernel, allOk (by decide +kernel), by decide +kernel⟩, stacked_ok 0, by decide +kernel⟩
/-- ATOML CAS, with its second operand, returning the old value. -/
theorem witness_AtomicUpdates : let f := mf 8 9 0 8575 (.v 12) 1
    vec.ok ∧ vec.mayAccess (.atoml f) ∧ (∀ l ∈ vec.active, (vec.localLane f true 1 4 (f.idx :: MF.atomUses f .b32) l).at' = .ok [34300])
      ∧ vec.ownRows (vec.active.map fun _ => 34300) 4 = [] ∧ vec.released? false := by
  unfold State.mayAccess State.clear State.released?
  exact ⟨vec_ok, by decide +kernel, allOk (by decide +kernel), by decide +kernel⟩
/-- A core with the page at 0x20000 translated, writable, record b0 over its first 32 words, and a cache partition. -/
def data : State :=
  let leaf : Leaf := { placeLeaf with va := 0x20000, frame := 0x20000, w := true, x := false }
  let s := vec.onCore fun c => { c with ltc := leaf :: c.ltc, partRows := 64 }
  let r := 2 ^ 127 + 2 * 2 ^ 115 + 32 * 2 ^ 56 + 0x20000
  (List.range 4).foldl (fun t k => t.setElem (t.bAddr 0 + 4 * k) (BitVec.ofNat 32 (r / 2 ^ (32 * k))) false) s

/-- The same with a copy of the line at 0x20000. -/
def cached : State := data.onCore fun c => { c with copies := [{ line := 1024, st := .v, mask := BitVec.allOnes 128, bytes := 7 }] }

theorem data_ok : data.ok := by simp only [State.ok, Core.ok, Team.ok, Group.ok]; decide +kernel
theorem cached_ok : cached.ok := by simp only [State.ok, Core.ok, Team.ok, Group.ok]; decide +kernel

/-- The place of the last word of the record. -/
def dataLeaf : Leaf := { placeLeaf with va := 0x20000, frame := 0x20000, w := true, x := false }

theorem pre_eq {s : State} {g : GAcc} {off : BitVec 16} {us : List Use} {v : List (Option Nat)}
    (h : ∀ l ∈ s.active, (s.preCheck g off l (s.sources us l)).vas = .ok v) :
    ∀ l ∈ s.active, s.preCheck g off l (s.sources us l) = ⟨l, s.sources us l, .ok v⟩ := by
  intro l hl
  have e := h l hl
  unfold State.preCheck at e ⊢
  rw [← e]

/-- Every lane of LD, ST and ATOM passes at the last word of its record, in any state whose translation holds the page. -/
theorem reaches_last (s : State) (g : GAcc) (us : List Use)
    (h1 : (s.active.map fun l => okOf (s.preCheck g 31 l (s.sources us l)).vas) = List.replicate s.active.length (some [some 0x2007C]))
    (h2 : s.missing ((s.active.map fun _ => [0x2007C]).flatten) = [])
    (h3 : (s.active.map fun l => okOf (s.postCheck g ⟨l, s.sources us l, .ok [some 0x2007C]⟩))
      = List.replicate s.active.length (some [.at 0x2007C dataLeaf]))
    (h4 : s.lineBusy (passing s us (fun _ => [some 0x2007C]) fun _ => [.at 0x2007C dataLeaf]) = false) :
    s.reaches g 31 us (fun _ => [some 0x2007C]) fun _ => [.at 0x2007C dataLeaf] :=
  ⟨pre_eq (allOk h1), h2, allOk h3, h4⟩

/-- The same with OAE in the record, in a team whose contributors are the group's 32 lanes. -/
def benched : State :=
  let s := data.setElem (data.bAddr 0 + 12) (BitVec.ofNat 32 ((2 ^ 127 + 2 ^ 126 + 2 * 2 ^ 115 + 32 * 2 ^ 56) / 2 ^ 96)) false
  { s with team := { s.team with lrec := { s.team.lrec with benchl := 32 } } }

theorem witness_GlobalAccessesIssue :
    (let f := mf 8 0 0 31
     data.mayAccess (.ld f) ∧ data.grp.loads < 63 ∧ data.reaches (data.gacc f 4 false false) 31 [f.idx] (fun _ => [some 0x2007C]) fun _ => [.at 0x2007C dataLeaf])
    ∧ (let f := mf 8 0 0 31
       let s := data.onGrp fun g => { g with stores := 62 }
       s.mayAccess (.st f) ∧ s.grp.stores = 62
         ∧ s.reaches (s.gacc f 4 true false) 31 (f.idx :: MF.dataUses f .b32 1) (fun _ => [some 0x2007C]) (fun _ => [.at 0x2007C dataLeaf])
         ∧ s.storeRoom f (passing s (f.idx :: MF.dataUses f .b32 1) (fun _ => [some 0x2007C]) fun _ => [.at 0x2007C dataLeaf]) = true)
    ∧ (let f := mf 8 9 0 31 (.v 12) 1
       let s := data.onGrp fun g => { g with loads := 62 }
       s.mayAccess (.atom f) ∧ s.grp.loads = 62
         ∧ s.reaches { s.gacc f 4 true false with n := 1 } 31 (f.idx :: MF.atomUses f .b32) (fun _ => [some 0x2007C]) fun _ => [.at 0x2007C dataLeaf])
    ∧ (let f := mf 1 2 0 31
       let s := benched
       s.mayAccess (.atom f) ∧ s.grp.stores < 63 ∧ (∀ l ∈ s.active, s.inSet (s.grp.num * 32 + l) = true)
         ∧ s.reaches { s.gacc f 4 true true with n := 1 } 31 (f.idx :: MF.atomUses f .f32) (fun _ => [some 0x2007C]) fun _ => [.at 0x2007C dataLeaf])
    ∧ (let f := mf 8 0 0 31 (.v 0) 0 0 (.s 9) (.s 3)
       let us : List Use := [{ o := .s 3, kinds := kSN, ty := .n32 }]
       let x : LaneAcc := ⟨0, data.sources us 0, .ok [some 0x2007C]⟩
       data.active.head? = some 0 ∧ data.mayAccess (.ldu f) ∧ data.preCheck (data.gacc f 4 false false) 31 0 (data.sources us 0) = x
         ∧ data.missing [0x2007C] = [] ∧ data.postCheck (data.gacc f 4 false false) x = .ok [.at 0x2007C dataLeaf]
         ∧ data.lineBusy [(x, [.at 0x2007C dataLeaf])] = false) := by
  unfold State.mayAccess State.clear
  refine ⟨⟨by decide +kernel, by decide +kernel, reaches_last _ _ _ (by decide +kernel) (by decide +kernel) (by decide +kernel) (by decide +kernel)⟩,
    ⟨by decide +kernel, by decide +kernel, reaches_last _ _ _ (by decide +kernel) (by decide +kernel) (by decide +kernel) (by decide +kernel), by decide +kernel⟩,
    ⟨by decide +kernel, by decide +kernel, reaches_last _ _ _ (by decide +kernel) (by decide +kernel) (by decide +kernel) (by decide +kernel)⟩,
    ⟨by decide +kernel, by decide +kernel, by decide +kernel, reaches_last _ _ _ (by decide +kernel) (by decide +kernel) (by decide +kernel) (by decide +kernel)⟩,
    by decide +kernel, by decide +kernel, ?_, by decide +kernel, okOf_eq (by decide +kernel), by decide +kernel⟩
  have e := okOf_eq (x := (data.preCheck (data.gacc (mf 8 0 0 31 (.v 0) 0 0 (.s 9) (.s 3)) 4 false false) 31 0
    (data.sources [{ o := .s 3, kinds := kSN, ty := .n32 }] 0)).vas) (a := [some 0x2007C]) (by decide +kernel)
  unfold State.preCheck at e ⊢
  rw [← e]
/-- A load and a store that hit a copy of their line. -/
theorem witness_LoadsAndStoresHit : let f := mf 8 0 0 31
    (cached.ok ∧ cached.mayAccess (.ld f) ∧ cached.grp.loads < 63
      ∧ cached.reaches (cached.gacc f 4 false false) 31 [f.idx] (fun _ => [some 0x2007C]) (fun _ => [.at 0x2007C dataLeaf])
      ∧ (∃ c, cached.copyOf (0x2007C / 128) = some c ∧ c.mask = BitVec.allOnes 128) ∧ cached.grp.ops = [] ∧ cached.grp.pend = [])
    ∧ (cached.mayAccess (.st f) ∧ cached.grp.stores < 63 ∧ cached.noAlloc (cached.gacc f 4 true false).brec = false
      ∧ cached.reaches (cached.gacc f 4 true false) 31 (f.idx :: MF.dataUses f .b32 1) (fun _ => [some 0x2007C]) (fun _ => [.at 0x2007C dataLeaf])
      ∧ ∀ p ∈ storeParts [(0x2007C, 4, 0)] false false, ∃ c, cached.copyOf p.line = some c) := by
  unfold State.mayAccess State.clear
  refine ⟨⟨cached_ok, by decide +kernel, by decide +kernel, reaches_last _ _ _ (by decide +kernel) (by decide +kernel) (by decide +kernel) (by decide +kernel),
      ⟨_, rfl, rfl⟩, rfl, rfl⟩,
    by decide +kernel, by decide +kernel, by decide +kernel,
    reaches_last _ _ _ (by decide +kernel) (by decide +kernel) (by decide +kernel) (by decide +kernel), ?_⟩
  have e : ∀ p ∈ storeParts [(0x2007C, 4, 0)] false false, p.line = 1024 := by decide +kernel
  intro p hp
  rw [e p hp]
  exact ⟨_, rfl⟩
/-- Route 63 leads to the core itself. -/
def routed : State := vec.onCore fun c => c.putRoute ⟨63, 2 ^ 159, false, none⟩

theorem peer_eq {s : State} {f : MF} {n w a : Nat} {us : List Use} (h : ∀ l ∈ s.active, (s.peerLane f n w us l).at' = .ok a) :
    ∀ l ∈ s.active, s.peerLane f n w us l = ⟨l, s.sources us l, .ok a⟩ := by
  intro l hl
  have e := h l hl
  unfold State.peerLane at e ⊢
  rw [← e]

/-- The last word before the group areas of the target. -/
theorem witness_PeerAccessesIssue :
    (let f := mf 8 0 0 255 (.v 0) 0 0 (.v 10) (.v 6) 63
     routed.mayAccess (.ldp f) ∧ routed.grp.loads < 63 ∧ (∀ l ∈ routed.active, routed.peerLane f 1 4 [f.idx] l = ⟨l, routed.sources [f.idx] l, .ok 1020⟩)
        ∧ routed.peerBusy (routed.routeDst 63) 1020 4 = false)
    ∧ (let f := mf 8 0 0 255 (.v 0) 0 0 (.v 10) (.v 6) 63
       let us := f.idx :: MF.dataUses f .b32 1
       routed.mayAccess (.stp f) ∧ routed.grp.stores < 63 ∧ (∀ l ∈ routed.active, routed.peerLane f 1 4 us l = ⟨l, routed.sources us l, .ok 1020⟩)
        ∧ routed.peerBusy (routed.routeDst 63) 1020 4 = false)
    ∧ (let f := mf 8 9 0 255 (.v 12) 1 0 (.v 10) (.v 6) 63
       let us := f.idx :: MF.atomUses f .b32
       routed.mayAccess (.atomp f) ∧ routed.grp.loads < 63 ∧ (∀ l ∈ routed.active, routed.peerLane f 1 4 us l = ⟨l, routed.sources us l, .ok 1020⟩)
        ∧ routed.peerBusy (routed.routeDst 63) 1020 4 = false) := by
  unfold State.mayAccess State.clear
  exact ⟨⟨by decide +kernel, by decide +kernel, peer_eq (allOk (by decide +kernel)), by decide +kernel⟩,
    ⟨by decide +kernel, by decide +kernel, peer_eq (allOk (by decide +kernel)), by decide +kernel⟩,
    by decide +kernel, by decide +kernel, peer_eq (allOk (by decide +kernel)), by decide +kernel⟩

theorem witness_LineOperations : let f := mf 0 0 0 31 (.v 0) 0 0 (.v 0)
    (∀ l ∈ cached.active, (cached.lane l).replay = false ∧ (cached.fetchUse f.idx l).2 = false)
      ∧ (cached.gacc f 0 false false).poison = false
      ∧ cached.missing (cached.active.map fun _ => ((cached.gacc f 0 false false).quietAddresses 31).filterMap id).flatten true = []
      ∧ (∀ i ∈ [Instr.pref f, .expire f, .renew f, .flush f], cached.mayAccess i) ∧ cached.grp.stores < 63 := by
  unfold State.mayAccess State.clear; decide +kernel

/-- The time of the first clk. -/
def fenced : State := vec.onGrp fun g => { g with horizon := ⟨0, 5⟩ }

theorem witness_CountersClocksFence :
    vec.active ≠ []
    ∧ (vec.clear (.waitcnt (sf 0 (.v 0) (.int 0) (.int 0))) ∧ vec.grp.loads ≤ 0 ∧ vec.grp.stores ≤ 0 ∧ vec.grp.copies ≤ 0 ∧ vec.grp.tiles ≤ 0)
    ∧ (let s := vec.onGrp fun g => { g with stores := 1 }
       s.clear (.waitcnt (sf 0 (.v 0) (.int 0) (.int 0))) ∧ ¬ s.grp.stores ≤ 0)
    ∧ (let s := vec.onCore fun c => { c with now := ⟨0, 0xFFFFFF - 63⟩ }
       s.mayActOnce (.clkadv (sf 0 (.v 0) (.int 63))) [{ o := .int 63, kinds := kSN, ty := .n32 }] ∧ s.nowTick + min 63 4096 = 0xFFFFFF)
    ∧ (vec.mayActOnce (.clkadv (sf 0 (.v 0) (.s 3) (.v 0) 1)) [{ o := .s 3, kinds := kSN, ty := .n32 }] ∧ vec.nowTick ≤ 0xFFFFFF)
    ∧ (vec.clear (.spinhint sf) ∧ vec.nowTick + 1 ≤ 0xFFFFFF)
    ∧ (let s := vec.onCore fun c => { c with now := ⟨0, 0xFFFFFF⟩ }
       s.clear (.spinhint sf) ∧ 0xFFFFFF < s.nowTick + 1)
    ∧ (vec.mayActOnce (.sleep (sf 0 (.v 0) (.int 0))) [{ o := .int 0, kinds := kSN, ty := .n32 }]
      ∧ vec.mayActOnce (.sleep (sf 0 (.v 0) (.int 63))) [{ o := .int 63, kinds := kSN, ty := .n32 }])
    ∧ (vec.mayActOnce (.waitt (sf 0 (.v 0) (.s 2))) [uS2 (.s 2)] ∧ (0 : BitVec 64).toNat ≤ vec.gtcOf vec.core.id)
    ∧ (let s := vec.writeS 2 true 1
       s.mayActOnce (.waitt (sf 0 (.v 0) (.s 2))) [uS2 (.s 2)] ∧ s.uniformOperands [uS2 (.s 2)] = [1] ∧ s.gtcOf s.core.id = 0)
    ∧ (fenced.mayAccess (.fence (sf 0 (.v 0) (.v 0) (.v 0) 0 2 3)) ∧ fenced.quiet ∧ fenced.alone ∧ fenced.nowTick < 0xFFFFFF) := by
  unfold State.mayActOnce State.mayAccess State.clear State.uniformClean State.quiet State.alone; and_intros <;> decide +kernel

/-- The line of the semaphore, whose home awaits a YIELD. -/
def recalled : State := { data with homes := [{ line := 1024, wts := ⟨0, 3⟩, rts := ⟨0, 9⟩, recalling := true }] }

/-- A walk has found that the page at 0x90000 is sparse. -/
def holed : State :=
  data.onCore fun c => { c with walkOuts := [⟨data.me, data.team.lrec.asid, walkPage 0x90078, .sparse, false⟩] }

/-- SEMSIG, and SEMWAIT at a home that takes its read and at one that does not yet. -/
theorem witness_Semaphores :
    (let s := data.writeS 2 true 0x20078
     s.mayActOnce (.semsig (sf 0 (.v 0) (.s 2) (.s 4))) [uS2 (.s 2), semB (sf 0 (.v 0) (.s 2) (.s 4))]
      ∧ s.orderBlocked (.semsig (sf 0 (.v 0) (.s 2) (.s 4))) = false ∧ semAddress (0x20078 : BitVec 64) = .ok 0x20078 ∧ s.missing [0x20078] = []
      ∧ s.places (semAcc true) [some 0x20078] = .ok [.at 0x20078 dataLeaf] ∧ s.watchTrap (semAcc true) [some 0x20078] = none ∧ s.grp.stores < 63)
    ∧ (let f := sf 1 (.v 0) (.s 2) (.s 6)
       let us := [uS2 (.s 2), semB f] ++ [data.semLimit f]
       let s := data.writeS 2 true 0x20078
       s.mayActOnce (.semwait f) us ∧ s.orderBlocked (.semwait f) = false ∧ (s.uniformOperands us).head? = some 0x20078
      ∧ s.places (semAcc false) [some 0x20078] = .ok [.at 0x20078 dataLeaf] ∧ s.watchTrap (semAcc false) [some 0x20078] = none
      ∧ 0x20078 ≠ holeAddr ∧ (s.dropHeld [0x20078]).lineWaits s.core.now (0x20078 / 128) 0 = false)
    ∧ (let f := sf 0 (.v 0) (.s 2) (.s 6)
       let us := [uS2 (.s 2), semB f]
       let s := holed.writeS 2 true 0x90078
       s.mayActOnce (.semwait f) us ∧ s.orderBlocked (.semwait f) = false ∧ (s.uniformOperands us).head? = some 0x90078
      ∧ s.places (semAcc false) [some 0x90078] = .ok [.hole] ∧ s.watchTrap (semAcc false) [some 0x90078] = none ∧ s.missing [0x90078] = [])
    ∧ (let f := sf 0 (.v 0) (.s 2) (.s 6)
       let us := [uS2 (.s 2), semB f]
       let s := recalled.writeS 2 true 0x20078
       s.mayActOnce (.semwait f) us ∧ s.orderBlocked (.semwait f) = false ∧ (s.uniformOperands us).head? = some 0x20078
      ∧ s.places (semAcc false) [some 0x20078] = .ok [.at 0x20078 dataLeaf] ∧ s.watchTrap (semAcc false) [some 0x20078] = none
      ∧ (s.dropHeld [0x20078]).lineWaits s.core.now (0x20078 / 128) 0 = true ∧ 0x20078 ≠ holeAddr) := by
  unfold State.mayActOnce State.clear State.uniformClean
  exact ⟨⟨by decide +kernel, by decide +kernel, okOf_eq (by decide +kernel), by decide +kernel, okOf_eq (by decide +kernel), by decide +kernel,
    by decide +kernel⟩, ⟨by decide +kernel, by decide +kernel, by decide +kernel, okOf_eq (by decide +kernel), by decide +kernel, by decide +kernel, by decide +kernel⟩,
    ⟨by decide +kernel, by decide +kernel, by decide +kernel, okOf_eq (by decide +kernel), by decide +kernel, by decide +kernel⟩,
    by decide +kernel, by decide +kernel, by decide +kernel, okOf_eq (by decide +kernel), by decide +kernel, by decide +kernel⟩

/-- Narrow and wide special registers to either kind of destination, and each register that SETSP writes. -/
theorem witness_SpecialRegisters : vec.ok ∧ vec.active ≠ []
    ∧ (∀ f ∈ [sf 0x30 (.v 10), sf 0x1A (.v 10), sf 0x21 (.s 5), sf 0x11 (.s 62)], vec.clear (.movsp f))
    ∧ (let s := vec.onCore fun c => { c with now := ⟨0, 0xFFFFFF⟩ }
       s.clear (.movsp (sf 0x1A (.v 10))) ∧ 0xFFFFFF ≤ s.nowTick ∧ s.orderHeld = false ∧ s.lineWaits s.core.now (mapgenLine (CoreId.die s.core.id)) 0 = false)
    ∧ (let s := vec.onGrp fun g => { g with ops := [{ id := 3, load := true, blocks := true }] }
       s.clear (.movsp (sf 0x1A (.v 10))) ∧ s.orderHeld = true)
    ∧ (vec.orderHeld = false ∧ vec.lineWaits vec.core.now (mapgenLine (CoreId.die vec.core.id)) 0 = false ∧ vec.nowTick < 0xFFFFFF)
    ∧ (vec.clear (.setsp (sf 7 (.v 0) (.v 6))) ∧ vec.clean [{ o := .v 6, ty := .n32 }])
    ∧ vec.clear (.setsp (sf 0x20 (.v 0) (.s 3))) ∧ vec.clear (.setsp (sf 0x21 (.v 0) (.s 3))) ∧ vec.clear (.setsp (sf 0x13 (.v 0) (.s 3)))
    ∧ vec.clear (.setsp (sf 0x22 (.v 0) (.s 3))) ∧ (vec.fetchUse { o := .s 3, ty := .n32 } 0).2 = false := by
  refine ⟨vec_ok, ?_⟩; unfold State.clear State.clean; decide +kernel

theorem witness_SystemCallsAndHints : vecHandler.active ≠ [] ∧ vecHandler.grp.inHandler = true ∧ vecHandler.clear (.syscall (sf 0xFFFF (.s 9)))
    ∧ vec.clear (.idem (sf 0 (.v 0) (.v 0) (.v 0) 0)) ∧ vec.clear (.idem (sf 0 (.v 0) (.v 0) (.v 0) 1))
    ∧ vec.mayActOnce (.progress (sf 0 (.v 0) (.s 3))) [uSN (.s 3)] := by
  unfold State.mayActOnce State.clear State.uniformClean; and_intros <;> decide +kernel
/-! #### Tiles, barriers and engines -/

/-- An X-format instruction with one object at 0. -/
def xf (a : Opnd := .v 0) (b : Opnd := .v 0) (c : Opnd := .v 0) (ty : BitVec 4 := 0) (sub : BitVec 6 := 0) (tile : BitVec 6 := 0) (bind : BitVec 1 := 0)
    (flags : BitVec 5 := 0) (route : BitVec 6 := 0) (bar : BitVec 17 := 0) : XF where
  ty := ty
  sub := sub
  a := a
  b := b
  c := c
  tile := tile
  bind := bind
  bar := bar
  route := route
  flags := flags
  z := 0

/-- A Shelf entry in a state: FMT .I32, rows 8 to 15 of the segment, 16 by 16 elements, the object at 0. -/
def entry (st : Nat) : DWord :=
  BitVec.ofNat 64 (st * 2 ^ 62 + 2 ^ 61 + 13 * 2 ^ 56 + 8 * 2 ^ 46 + 8 * 2 ^ 35 + 15 * 2 ^ 27 + 15 * 2 ^ 19)

/-- A team with tile 63 in a state, two barrier objects, and route 63 to its own core; s2:3 hold an entry. -/
def shelved (st : Nat) : State :=
  let l : LaunchRecord := { placeRecord with nbar := 2, tiles := [(63, entry 0)] }
  let t : Team := { vec.team with lrec := l, rows := l.rows, shelf := [(63, if st < 4 then entry st else 0)] }
  let s : State := { vec with team := t, grp := { vec.grp with base := l.groupBase 0 } }
  (s.onCore fun c => c.putRoute ⟨63, 2 ^ 159, false, none⟩).writeS 2 true (entry 0)

theorem witness_ShelfInstructions :
    ((shelved 4).mayActOnce (.tiledef (xf (.s 2) (.v 0) (.v 0) 0 0 63)) [uS2 (.s 2)] ∧ (shelved 4).uniformOperands [uS2 (.s 2)] = [entry 0]
      ∧ (shelved 4).tiledefTrap 63 (entry 0) = none)
    ∧ (∀ st ∈ [0, 1, 2, 3], (shelved st).mayActOnce (.tilerel (xf (.v 0) (.v 0) (.v 0) 0 0 63)) [] ∧ (shelved st).team.defTile 63 = some (entry st)
      ∧ tileState (entry st) = st ∧ (shelved st).tileHeld 63 = false)
    ∧ (shelved 2).mayActOnce (.tileq (xf (.s 8) (.v 0) (.v 0) 0 0 63)) [] := by
  unfold State.mayActOnce State.clear State.uniformClean; and_intros <;> decide +kernel

/-- A shape record of one element at local row 1 with a direction, and at row 2 the same. -/
def shaped (dir : Nat) : State :=
  [(0, 8, 0x20000), (8, 8, dir * 2 ^ 27), (0x10, 4, 1), (0x14, 4, 1), (0x18, 4, 1), (0x1C, 4, 1), (0x20, 4, 1)].foldl
    (fun s (x : Nat × Nat × Nat) =>
      (s.localWrite (128 + x.1) x.2.1 (BitVec.ofNat 64 x.2.2) false).localWrite (256 + x.1) x.2.1 (BitVec.ofNat 64 x.2.2) false) (shelved 0)

theorem shelved_ok : (shelved 0).ok := by simp only [State.ok, Core.ok, Team.ok, Group.ok]; decide +kernel

/-- The object at 0 as given, and the release of an arrival done. -/
def barred (o : BarObj) : State := ((shelved 0).putBar 0 o).onGrp fun g => { g with relDone := some (shelved 0).pc }

/-- An object of one group. -/
def ownBar : BarObj := { expect := 1, live := 1, pmask := 1 }

/-- One input for each branch of the step: a broken object, a phase that completes, one that breaks, and one that stays. -/
theorem witness_BarrierObjects : (shelved 0).ok ∧ (shelved 0).noWaiters 16
    ∧ ∀ o ∈ [{ ownBar with broken := true }, { ownBar with arrived := 1 }, { ownBar with live := 0 }, ownBar, { ownBar with count := true, pmask := 0, tx := 1 }],
        (o.count && o.upen) = false := by
  refine ⟨shelved_ok, ?_⟩; unfold State.noWaiters; decide +kernel

theorem witness_BarrierInstructions :
    (let f := xf (.int 1) (.int 1)
     (shelved 0).mayUseBarrier (.barinit f) f ∧ XF.remote f = false ∧ (shelved 0).barinitBad f 1 1 0 = false)
    ∧ (let f := xf (.s 4) (.s 4) (.v 0) 0 0 0 0 2
       let s := (shelved 0).writeS 4 false 1023
       s.mayUseBarrier (.barinit f) f ∧ s.barinitBad f 1023 1023 0 = false)
    ∧ (let f := xf
       (barred ownBar).mayUseBarrier (.bararv f) f ∧ (barred ownBar).namedBar f = some ownBar ∧ ownBar.refuses (some 0) = 0
        ∧ (barred ownBar).grp.relDone = some (barred ownBar).pc
        ∧ (((barred ownBar).useRelease true).atObject f fun u => u.arriveBar 0 (some 0) false ⟨0, (barred ownBar).team.id, none⟩ none).map (·.1) = some 0)
    ∧ (let f := xf (.v 0) (.v 0) (.v 0) 0 1 0 0 1 63
       (barred ownBar).mayUseBarrier (.bararv f) f ∧ XF.remote f = true ∧ (barred ownBar).routeTrap 63 = none)
    ∧ (barred ownBar).mayUseBarrier (.bartx (xf (.s 4))) (xf (.s 4))
    ∧ ((barred ownBar).mayUseBarrier (.bartest (xf (.int 1))) (xf (.int 1)) ∧ ownBar.broken = false)
    ∧ (∀ p ∈ [Opnd.int 0, .int 1], (barred ownBar).mayUseBarrier (.barwait (xf p)) (xf p)) ∧ ownBar.phase = false ∧ (shelved 0).kind ≠ .control
    ∧ (let f := xf (.int 0) (.v 0) (.v 0) 0 0 0 0 1 63
       (barred ownBar).mayUseBarrier (.barwait f) f ∧ XF.remote f = true) := by
  unfold State.mayUseBarrier State.mayAccess State.clear State.uniformClean; and_intros <;> decide +kernel

/-- An operation that can join the engine at once. -/
def joins (s : State) (o : EngOp) (list : Option LocalRange) : Bool :=
  !s.commandWaits o && (s.tileWaits o).isNone && (registerAll s.core.hutch (o.ranges list)).isSome

/-- s4 holds the place of the record, s5 that of the box, s6 that of the list. -/
def commanded (dir : Nat) : State := (((shaped dir).writeS 4 false 128).writeS 5 false 1024).writeS 6 false 512

/-- The dispatch core with one lane. -/
def disp : State := { vec with core := { vec.core with id := .disp 0, c := List.replicate 32 0 }, grp := { vec.grp with lanes := vec.grp.lanes.take 1 } }

theorem witness_EngineCommands :
    (∀ x ∈ [(Instr.xcpy (xf (.s 4) (.s 5) (.v 0) 1), EngKind.cpy, 0), (.xcpy (xf (.s 4) (.s 5) (.v 0) 1), .cpy, 2),
        (.xgather (xf (.s 4) (.s 5) (.s 6) 1), .gather, 0), (.xscatter (xf (.s 4) (.s 5) (.s 6) 1), .scatter, 1),
        (.xreduce (xf (.s 4) (.s 5) (.v 0) 1), .reduce, 1), (.xfill (xf (.s 4) (.s 5) (.v 0) 1), .fill, 0)],
      let s := commanded x.2.2
      s.mayAccess x.1 ∧ s.uniformClean (s.barUses x.1)
        ∧ ((okOf (s.planCopy (xf (.s 4) (.s 5) (.s 6) 1) x.2.1 128 1024 512)).any fun o => joins s o none) = true)
    ∧ (∀ i ∈ [Instr.xcpy (xf (.s 4) (.v 0) (.v 0) 1), .xfill (xf (.s 4) (.v 0) (.v 0) 1)], disp.mayAccess i ∧ disp.uniformClean (disp.barUses i)) ∧ disp.kind = .dispatch
    ∧ (let f := xf (.s 5) (.s 5) (.int 4) 0 0 0 0 0 63
       (commanded 0).mayAccess (.xpeer f) ∧ (commanded 0).uniformClean ((commanded 0).barUses (.xpeer f))
        ∧ okOf ((commanded 0).planRoute f 1024 4 true) = some ())
    ∧ (let f := xf (.s 5) (.s 7) (.s 4) 0 0 0 0 0 63
       let s := (commanded 0).writeS 7 false 240
       s.mayAccess (.psend f) ∧ s.uniformClean (s.barUses (.psend f)) ∧ okOf (s.planRoute f 1024 240 true) = some ())
    ∧ disp.mayActOnce (.xcancel xf) []
    ∧ ((shelved 0).mayActOnce (.xcancel (xf (.v 0) (.v 0) (.v 0) 0 0 63 1)) [] ∧ ((shelved 0).team.defTile 63).isSome = true)
    ∧ ((shelved 0).mayActOnce (.xcancel (xf (.v 0) (.v 0) (.v 0) 0 0 0 0 0 0 16)) [] ∧ (shelved 0).team.lrec.isObject 16 = true)
    ∧ ((commanded 0).mayAccess (.precv (xf (.s 5))) ∧ (commanded 0).uniformClean [uSN (.s 5)] ∧ okOf ((commanded 0).rangeProt ⟨1024, 256⟩) = some ()
      ∧ (commanded 0).team.inbox = [])
    ∧ (let s := { commanded 0 with team := { (commanded 0).team with inbox := [⟨0, 0, ⟨0, 0⟩, []⟩] } }
       s.mayAccess (.precv (xf (.s 5))) ∧ s.team.inbox ≠ [] ∧ s.team.precvs = []) := by
  unfold State.mayActOnce State.mayAccess State.clear State.uniformClean; and_intros <;> decide +kernel
/-! #### Matrix engines, graphics, regrouping and launches -/

/-- A control core with one group of one lane. -/
def ctl : State := State.reset.placeWord (0xB1 * 2 ^ 88)

theorem ctl_ok : ctl.ok := by simp only [State.ok, Core.ok, Team.ok, Group.ok]; decide +kernel

/-- An MX-format instruction on quad 0 of the cluster. -/
def mx (ta tb : BitVec 4) (tile : BitVec 6 := 0) (sub : BitVec 6 := 0) (b : Opnd := .v 0) (c : Opnd := .v 0) (acc : BitVec 3 := 0) (flags : BitVec 4 := 0)
    (a : Opnd := .int 0) : MXF where
  ta := ta
  tb := tb
  acc := acc
  tile := tile
  qcore := 0
  sub := sub
  a := a
  b := b
  c := c
  flags := flags
  z := 0

/-- A READY entry of 64 rows and a number of columns. -/
def tileOf (fmt cols : Nat) : DWord := BitVec.ofNat 64 (2 * 2 ^ 62 + 2 ^ 61 + fmt * 2 ^ 56 + 8 * 2 ^ 46 + 63 * 2 ^ 27 + (cols - 1) * 2 ^ 19)

/-- The shape record of a drain at local row 1 of the quad core: a tensor of one element under the whole tile. -/
def drainRec : List (Nat × Nat × Nat) :=
  [(0, 8, 0x20000), (8, 8, 2 ^ 36 + 2 ^ 29 + 2 ^ 27), (0x10, 4, 1), (0x14, 4, 1), (0x18, 4, 1), (0x1C, 4, 1), (0x20, 4, 1), (0x28, 8, 256),
    (0x60, 2, 63), (0x62, 2, 63)]

/-- The team on the first core of quad 0. -/
def quadTeam : Team :=
  { id := ⟨⟨0, 1⟩, 1⟩, lrec := { placeRecord with nbar := 2 }, rows := placeRecord.rows, shelf := [(0, tileOf 4 32), (1, tileOf 1 64)] }

/-- The control core with that team resident. -/
def quaded : State :=
  let m := drainRec.foldl (fun m x => Memory.writeNat Memory.zeros m (128 + x.1) x.2.1 x.2.2) []
  { ctl with cores := [{ id := ctl.quadCore 0 0, teams := [quadTeam], store := m, ltc := [dataLeaf] }] }

theorem witness_MatrixInstructions :
    ctl.active ≠ [] ∧ (quaded.clear (.acczero (mx 0 0)) ∧ redirNone (quaded.redirect 0 (quaded.clusterQuad 0)) = false
      ∧ redirSet (quaded.redirect 0 (quaded.clusterQuad 0)) = false ∧ (quaded.quad 0 (quaded.serving 0 (quaded.clusterQuad 0))).queue.length < 16)
    ∧ (quaded.clear (.mma (mx 4 4 0 1)) ∧ quaded.firstTeam quaded.team.id.grid (quaded.quadCore 0 0) = some quadTeam
      ∧ quadTeam.defTile 0 = some (tileOf 4 32) ∧ numTy 4 = some .e4m3 ∧ mmaK .e4m3 .e4m3 = some 32 ∧ tileFmt (tileOf 4 32) = 4
      ∧ tileErows (tileOf 4 32) = 63 ∧ tileEcols (tileOf 4 32) + 1 = 32 ∧ tileState (tileOf 4 32) = 2)
    ∧ (quaded.clear (.accload (mx 0 0 1)) ∧ quadTeam.defTile 1 = some (tileOf 1 64) ∧ tileErows (tileOf 1 64) = 63 ∧ tileEcols (tileOf 1 64) = 63
      ∧ numTy (tileFmt (tileOf 1 64)) = some .f32)
    ∧ (quaded.clear (.mmawait (mx 0 0)) ∧ quaded.clear (.mmawait (mx 0 0 0 0 (.v 0) (.v 0) 0 1 (.v 0))) ∧ quaded.macroPending (fun _ => true) = false
      ∧ quaded.core.drains = [])
    ∧ (∀ x ∈ [none, some Status.cancel, some .ok], let f := mx 0 0 0 0 (.v 0) (.v 0) 0 1 (.v 0)
       let s := quaded.onCore fun c => { c with drains := [⟨3, 0, 0, x⟩] }
       s.clear (.mmawait f) ∧ (s.core.drains.any fun y => y.status.isNone) = x.isNone
        ∧ (s.core.drains.find? (fun y => y.status != some .ok)).isSome = (x != some .ok))
    ∧ (let s := quaded.onCore fun c => { c with c := 0 :: 128 :: c.c.drop 2 }
       let f := mx 0 0 0 0 (.s 1)
       let u := (s.focusCore (s.quadCore 0 0)).focusTeam quadTeam.id
       s.clear (.accdrain f) ∧ (∀ v ∈ s.barUses (.accdrain f), (s.fetchUse v 0).2 = false) ∧ s.macroPending (fun _ => true) = false ∧ (s.firstTeam s.team.id.grid (s.quadCore 0 0)).map (·.id) = some quadTeam.id
        ∧ uval 32 (s.fetchUse (uSN (.s 1)) 0).1 = 128 ∧ u.core.engine.length < 256
        ∧ ((okOf (u.planDrain 0 0 (s.acc 0 (s.clusterQuad 0) 0) 128 0 0 false)).any fun o =>
            u.missing o.addresses (who := s.me) == [] && (registerAll u.core.hutch (o.ranges none)).isSome) = true)
    ∧ (let s := vec.onGrp fun g => { g with tiles := 14 }
       s.clear (.mmab { v3 2 0 with a := .v 8, dst := .v 0 }) ∧ s.grp.tiles < 15 ∧ s.core.quarters.length < 2)
    ∧ mmaTag .i8 = .i32 ∧ mmaTag .f16 ≠ .i32 ∧ Ty.f16.mx = false := by
  unfold State.clear; and_intros <;> decide +kernel
/-- A G-format instruction with dst v32 and sources v0, s4. -/
def gf (ty : BitVec 4 := 0) (dst : Opnd := .v 32) (a : Opnd := .v 0) (b : Opnd := .s 4) (c : Opnd := .v 0) (flags : BitVec 6 := 0)
    (count : BitVec 8 := 0) : GF where
  ty := ty
  sub := 0
  dst := dst
  a := a
  b := b
  c := c
  brec := 0
  count := count
  flags := flags
  z := 0

/-- A record over one descriptor, and s4 at the last place of a hit-record area. -/
def described : State :=
  let r := 2 ^ 127 + 4 * 2 ^ 115 + 8 * 2 ^ 56 + 0x20000
  let s := (List.range 4).foldl (fun t k => t.setElem (t.bAddr 0 + 4 * k) (BitVec.ofNat 32 (r / 2 ^ (32 * k))) false) vec
  (s.onCore fun c => { c with ltc := { placeLeaf with va := 0x20000, frame := 0x20000, x := false } :: c.ltc }).writeS 4 false (BitVec.ofNat 64 (vec.team.lrec.areaRow * 128 - 1024))

theorem witness_UnitInstructions :
    (let base := uval 32 (described.fetchUse (uS (.s 4)) 0).1
     described.active ≠ [] ∧ (described.record 0).2 = false ∧ descOk (described.record 0).1 = true
      ∧ (described.fetchUse (uS (.s 4)) 0).2 = false ∧ base % 32 = 0 ∧ base + 1024 = described.team.lrec.areaRow * 128)
    ∧ (∀ i ∈ [Instr.trav (gf 0 (.v 32) (.v 0) (.s 4) (.v 0) 3), .travnext (gf 0 (.v 32) (.v 0) (.s 4)), .tex (gf 1 (.v 32) (.v 0) (.v 9)),
        .texq (gf 0 (.v 32) (.v 0) (.v 9))], described.clear i)
    ∧ (match described.descRead (recBase (described.record 0).1) with | .got bs _ => bs.length == 128 | _ => false) = true
    ∧ (∀ us ∈ [(List.range 13).map (fun k => uV (.v (BitVec.ofNat 8 k))), [uV (.v 0)], [uV (.v 0), uV (.v 1), uV (.v 9)]],
        ∀ l ∈ described.active, (described.sources us l).any (·.2) = false) := by
  unfold State.clear; and_intros <;> decide +kernel

/-- A team whose launch record names a pass descriptor at 0x20000, with one tile whose die stands in the byte after it. -/
def passing1 : State :=
  let l : LaunchRecord := { placeRecord with tmRows := 64, pass := 0x20000 }
  let leaf : Leaf := { placeLeaf with va := 0x20000, frame := 0x20000, x := false }
  { vec with
    team := { vec.team with lrec := l, rows := l.rows }
    grp := { vec.grp with base := l.groupBase 0 }
    core := { vec.core with ltc := leaf :: vec.core.ltc }
    mem := Memory.writeNat Memory.zeros (Memory.writeNat Memory.zeros vec.mem 0x20000 8 0x20080) 0x20008 8 0x0000000101000101 }

/-- What the descriptor reads as. -/
def passBits : List Byte := (List.range 128).map fun k => passing1.byte (0x20000 + k)
/-- The descriptor's line, and that of the bin map. -/
def passSeen : Seen := ⟨0, [1024]⟩
/-- The descriptor: one tile, one sample, one way, one geometry rank, spill and sample areas at 0. -/
def passOne : PassDesc := ⟨0x20080, 1, 1, 0, 1, 1, 0, 0⟩

theorem witness_PassInstructions :
    (let s := passing1
     let u : State := { (s.dropHeld (s.passEnds ++ rangeLines 0x20080 1)).useLines [1024, 1025] with fresh := s.fresh + 2 ^ 17 }
     s.active ≠ [] ∧ s.passBytes = .got passBits passSeen ∧ s.passRead (.got passBits passSeen) = ⟨passBits, 0, some passOne⟩
      ∧ (s.passRange 128 0x20080 1 = .got [0] ⟨0, [1025]⟩ ∧ s.binMap [0] = some [0])
      ∧ (∀ f ∈ [gf 0 (.v 32) (.s 8) (.s 4) (.s 5), gf 1 (.v 32) (.s 8) (.s 4) (.s 5)], s.clear (.rast f)
        ∧ (∀ x ∈ rastUses f, (s.fetchUse x 0).2 = false)
        ∧ let ws : List Word := (s.uniformOperands (rastUses f)).map (BitVec.setWidth 32)
          tokenBad passOne (ws.getD (ws.length - 2) 0).toNat = false)
      ∧ (∀ f ∈ [gf 0 (.v 0) (.v 0) (.v 20) (.v 24), gf 0 (.v 0) (.v 0) (.v 20) (.v 24) 2], s.mayAccess (.binput f)
        ∧ ∀ l ∈ s.active, (u.binLane (f.flags.getLsbD 1) (some (passOne, [0])) (s.sources (binputUses f) l)).1 = none)
      ∧ (let f := gf 0 (.v 0) (.v 0) (.s 4) (.v 0) 1
         s.mayAccess (.binput f) ∧ (s.fetchUse (uS f.b) 0).2 = false ∧ u.drawLate passOne 0 true = false ∧ u.binnerBusy 0 s.team.id.grid = false)
      ∧ (∀ f ∈ [gf 0 (.s 15) (.int 0) (.v 0) (.v 0) 0 16, gf 0 (.s 48) (.int 0) (.v 0) (.v 0) 0 16], s.mayAccess (.binget f) ∧ (s.fetchUse (uSN f.a) 0).2 = false ∧ CoreId.die s.core.id = 0)) := by
  unfold State.mayAccess State.clear; and_intros <;> decide +kernel

theorem witness_RegroupAndLaunch :
    (let f := gf 0 (.v 0) (.v 4) (.v 6) (.v 0) 0 63
     linked.clear (.regroup f) ∧ linked.missing (targetLines (linked.arrivalTargets f)) = []
      ∧ (∀ l ∈ linked.issueSet, linked.arrival true f l = .inr ⟨true, 63, 0x10000, 0⟩)
      ∧ (let g := gf 0 (.v 0) (.v 0) (.v 0) (.v 0) 0 63
         linked.clear (.repack g) ∧ ∀ l ∈ linked.issueSet, linked.arrival false g l = .inr ⟨false, 63, nextPc linked.pc, 0⟩))
    ∧ vec.mayActOnce (.launch (sf 0 (.s 9) (.s 2) (.v 0))) [uS2 (.s 2)] := by
  unfold State.mayActOnce State.clear State.uniformClean; and_intros <;> decide +kernel

/-- Every lane's v6 is poisoned. -/
def tainted : State := (vec.active.map fun l => (l, 6)).foldl (fun s x => s.setElem (s.vAddr x.2 x.1) 1 true) vec

theorem witness_PoisonParksLanes : tainted.grp.inHandler = false ∧ tainted.active ≠ []
    ∧ (∀ x ∈ [(Instr.iadd (v3 2 2), [(v3 2 2).useA .i32, (v3 2 2).useB .i32]), (.isub (v3 2 2), [(v3 2 2).useA .i32, (v3 2 2).useB .i32]),
        (.imul (v3 2 2), [(v3 2 2).useA .i32, (v3 2 2).useB .i32]), (.imad (v3 2 3), [(v3 2 3).useA .i32, (v3 2 3).useB .i32, (v3 2 3).useC .i32]),
        (.and (v3 8 2), [(v3 8 2).useA .b32, (v3 8 2).useB .b32]), (.xor (v3 8 2), [(v3 8 2).useA .b32, (v3 8 2).useB .b32]),
        (.shl (v3 8 2), [(v3 8 2).useA .b32, (v3 8 2).useB .b32]), (.sel (v3 8 3), [(v3 8 3).useA .b32, (v3 8 3).useB .b32, (v3 8 3).useC .b32]),
        (.mov (v3 8 1), [(v3 8 1).useA .b32])],
      tainted.clear x.1 ∧ ∀ l ∈ tainted.active, (tainted.sources x.2 l).any (·.2) = true) := by
  unfold State.clear; and_intros <;> decide +kernel

theorem witness_TrapInHandlerKillsGrid : (encode (.iadd { good with ty := 0xF })).isSome = true ∧ vecHandler.grp.inHandler = true
    ∧ vecHandler.active ≠ [] ∧ illDetail vecHandler.ctx (.iadd { good with ty := 0xF }) = some (0x05, false) := by decide +kernel
/-! #### The world around the cores -/

/-- The forwarders of dies 0 and 1: die 0 has its external reference, and die 1 takes die 0, to its west, as parent. -/
def forwarding (f g : Forwarder) : State :=
  (State.reset.onDie 0 fun x => { x with fwd := { f with parent := 4, child := 2, refOk := true } }).onDie 1 fun x => { x with fwd := { g with parent := 3 } }

/-- Power-on without and with a root; a configuration that is refused, one of each forwarder state that is not, and the end of it in PLL_LOCK. -/
theorem witness_ClocksAndTime_boot :
    (State.reset.present.all (fun k => !rootCapable k || !(State.reset.die k).fwd.refOk) = true)
    ∧ ((forwarding {} {}).present.find? (fun k => rootCapable k && ((forwarding {} {}).die k).fwd.refOk) = some 0)
    ∧ (∀ st ∈ [FwdSt.off, .acquire, .run], let s := forwarding { st := .run } { st := st }
       s.dieAbsent 1 = false ∧ s.firmware.failed = false ∧ s.cfgRefused 1 0x50 = true ∧ s.cfgRefused 1 0x30 = false ∧ s.cfgRefused 1 0x130 = false
        ∧ (s.die 1).fwd.st = st ∧ (0x130 : DWord).extractLsb' 8 4 ≠ (s.die 1).fwd.child)
    ∧ ((forwarding { st := .run } { st := .run }).rerooting = false
      ∧ ((forwarding { st := .run } { st := .run }).onDie 2 fun x => { x with fwd := { x.fwd with st := .orphan } }).rerooting = true)
    ∧ (let s := forwarding { st := .run } {}
       s.cfgRefused 0 0x40 = false ∧ (0x40 : DWord).extractLsb' 4 3 = 4)
    ∧ (∀ st ∈ [FwdSt.adopt, .acquire], let s := forwarding { st := .run } { st := st, lockBy := 0 }
       s.hasReference 1 = true ∧ s.clk ≤ (s.die 1).fwd.lockBy ∧ (s.die 1).fwd.st = st)
    ∧ (let s : State := { forwarding { st := .run } { st := .acquire, lockBy := 25000 } with clk := 25001 }
       ((s.die 1).fwd.lockW && (s.die 1).fwd.lockE) = false ∧ s.clk > (s.die 1).fwd.lockBy) := by
  and_intros <;> decide +kernel

/-- Losses in each state, the choice of parents, and the end of a re-rooting. -/
theorem witness_ClocksAndTime_rooting :
    (∀ st ∈ [FwdSt.run, .adopt, .orphan], ((forwarding { st := .run } { st := st }).die 1).fwd.st = st)
    ∧ (∀ d ∈ [0, 7, 32, 39], rootCapable d = true)
    ∧ (let s := (forwarding {} { st := .orphan }).onDie 1 fun x => { x with stranded := true }
       1 ∈ s.present ∧ (s.die 1).stranded = true ∧ (s.die 1).fwd.hostMode = false)
    ∧ (let s := forwarding { st := .run } { st := .orphan }
       s.losing = false ∧ 1 ∈ s.present ∧ (s.die 1).fwd.st = .orphan ∧ (s.die 1).fwd.assigned = false ∧ s.newRoot = some 0)
    ∧ (let s := forwarding { st := .run, hostMode := true } { st := .orphan }
       (1 : Word).getLsbD 0 = true ∧ (s.die 0).fwd.hostMode = true ∧ (s.die 1).fwd.st = .orphan ∧ (s.die 1).fwd.parent ≠ 7 ∧ s.liveEdge 1 3 = true
        ∧ s.hasReference 1 = true)
    ∧ (let s := (forwarding { st := .run } { st := .adopt, lockW := true, lockE := true }).onDie 1 fun x => { x with held := true }
       s.canResume = true ∧ s.resuming = [1]) := by
  and_intros <;> decide +kernel

theorem witness_ClocksAndTime :
    (let s := (forwarding { st := .run } {}).onRegion 0 true fun r => { r with nextRate := some 7 }
     s.isRoot 0 = true ∧ s.dieAbsent 0 = false ∧ s.isRoot 1 = false ∧ (s.region 0 true).acc.toNat / 2 ^ 48 % 2 ^ 20 = 0
      ∧ (s.region 0 true).nextRate = some 7)
    ∧ (∀ x ∈ [slewStep, -slewStep], x ≤ slewStep ∧ -slewStep ≤ x)
    ∧ (let p : Ptp := { slave := some 3, good := 15, t1 := some 0, t2 := some (52 * 65536), t3 := some 0, delay := some 65536 }
       (∀ k ∈ [PtpKind.announce, .sync, .followUp, .delayResp], let f : PtpFrame := ⟨3, k, 0, false, 65536⟩
          f.oneStep = false ∧ f.domain = p.domain ∧ f.kind = k ∧ p.slave = some f.port)
        ∧ State.reset.ptp.slave = none ∧ ((52 * 65536 : Int) - 65536 - 65536).natAbs = 50 * 65536
        ∧ (PtpKind.delayReq = .delayReq ∧ p.slave = some 3) ∧ (PtpKind.sync ∈ [PtpKind.sync, .followUp, .announce, .delayResp] ∧ p.slave ≠ some 4)
        ∧ p.slave ≠ none ∧ 3750000001 > p.heardAt + 3750000000) := by
  and_intros <;> decide +kernel
/-- A group that waits. -/
def waiting (w : WaitFor) : State := vec.onGrp fun g => { g with gst := .waiting, wait := some ⟨w, vec.pc, List.range 32⟩ }

theorem witness_WaitsAndGrants :
    (∀ w ∈ [WaitFor.sleep 0, .deadline 0, .sem 0x20000 7 (some 0) false 5 false, .barrier 16 false (some 0), .rendezvous],
      let s := waiting w
      let s1 := s.seen vec.core.id vec.gid
      ((s.focusCore vec.core.id).findGroup vec.gid).isSome = true ∧ s1.grp.waiting?.map Wait.what = some w ∧ s1.grp.gst = .waiting
        ∧ s1.grp.wait.map Wait.what = some w ∧ (0 : BitVec 64).toNat ≤ s1.gtcOf s1.core.id ∧ s1.grp.loads = 0 ∧ s1.grp.stores = 0
        ∧ (s.followTeam vec.gid.team vec.core.id (fun k => .barwaitReply ⟨k, vec.gid, 16, false, 0, 0, none⟩)).isNone = true)
    ∧ (let s := vec.onGrp fun g => { g with gst := .waiting }
       ((s.focusCore vec.core.id).findGroup vec.gid).isSome = true ∧ (s.seen vec.core.id vec.gid).grp.gst ≠ .running)
    ∧ ((7 : DWord) ≤ 7 ∧ (6 : DWord) < 7 ∧ vec.early (CoreId.die vec.core.id) ⟨0, 3⟩ = false
      ∧ ((vec.seen vec.core.id vec.gid).gtcOf vec.core.id < (1 : BitVec 64).toNat)
      ∧ ((vec.seen vec.core.id vec.gid).die (paDie 0x20000)).held = false)
    ∧ (let s := vec.onCore fun c => { c with now := ⟨0, 0xFFFFFE⟩ }
       (s.focusCore s.core.id).nowTick < 0xFFFFFF)
    ∧ (let s := vec.onCore fun c => { c with now := ⟨0, 0xFFFFFF⟩ }
       0xFFFFFF ≤ (s.focusCore s.core.id).nowTick)
    ∧ (let s := (vec.onCore fun c => { c with slot := none }).onGrp fun g => { g with gst := .ready }
       let s1 := s.focusCore s.core.id
       s.stopped (CoreId.die s.core.id) = false ∧ s1.core.slot = none ∧ s1.core.retained = false ∧ (s1.winner s1.readyGroups).isSome = true)
    ∧ (let s := waiting (.reply 9)
       let v : DWord := BitVec.ofNat 64 (s.gid.team.grid.lid * 2 ^ 32)
       (s.allGroups.find? fun x => CoreId.die x.1 == 0 && x.2.1.team.grid.lid == v.toNat / 2 ^ 32 % 2 ^ 16 && x.2.1.team.rank == v.toNat % 2 ^ 32
          && x.2.1.num == v.toNat / 2 ^ 48 % 8 && x.2.2.wait.any (fun w => match w.what with | .reply _ => true | _ => false)).isSome = true) := by
  and_intros <;> decide +kernel

/-- The line at 0x20000 resident at its home on die 0. -/
def homed (h : Home) : State := { vec with homes := [h] }
/-- Its record, with a lease that ends at a time. -/
def homeRec (rts : Nat) : Home := { line := 1024, wts := ⟨0, 3⟩, rts := ⟨0, rts⟩ }
/-- Another core of the same die. -/
def other : CoreId := .vec 0 0 5
/-- A read request of the core. -/
def lineReq : LineReq := ⟨1024, vec.core.id, ⟨0, 0xFFFFFF - 8⟩, ⟨0, 3⟩, 8, none, none, 1, none⟩

theorem witness_HomeMessages :
    (let h := homeRec 0xFFFFFF
     let s := homed h
     regLine 1024 = none ∧ s.throughRdc lineReq = false ∧ s.early (lineDie 1024) lineReq.now = false ∧ s.homeOf 1024 = some h ∧ h.recalling = false
      ∧ h.prep = none ∧ mustYield h lineReq.src none = false
      ∧ max (h.rts.read (s.homeEp 1024)) (lineReq.now.read (s.homeEp 1024) + lineReq.lease) ≤ 0xFFFFFF
      ∧ lineReq.wts.read (s.homeEp 1024) ≠ 0 ∧ lineReq.wts.read (s.homeEp 1024) = h.wts.read (s.homeEp 1024)
      ∧ ({ lineReq with wts := ⟨0, 0⟩ } : LineReq).wts.read (s.homeEp 1024) ≠ h.wts.read (s.homeEp 1024))
    ∧ (let h : Home := { homeRec 9 with holder := some other }
       (homed h).homeOf 1024 = some h ∧ h.holder = some other ∧ mustYield h lineReq.src (some .panel) = true
        ∧ (homed h).throughRdc { lineReq with promote := some .panel } = false)
    ∧ (let x : RdcLine := ⟨1024, ⟨0, 3⟩, ⟨0, 9⟩, 0, 0, false⟩
       let s := (homed (homeRec 9)).onDie 1 fun d => { d with rdcgib := 1, rdc := [x] }
       let m : LineReq := { lineReq with src := .vec 1 0 0, now := ⟨0, 9⟩ }
       s.throughRdc m = true ∧ (s.die 1).rdc.find? (·.line == 1024) = some x ∧ x.rts.lost (s.die 1).epoch = false
        ∧ m.now.read (s.die 1).epoch ≤ x.rts.read (s.die 1).epoch)
    ∧ (let h := homeRec 0xFFFFFE
       let s := homed h
       (∀ now ∈ [(⟨0, 0⟩ : Stamp), ⟨0, 0xFFFFFF⟩], s.early (lineDie 1024) now = false ∧ s.homeOf 1024 = some h
          ∧ max (h.rts.read (s.homeEp 1024) + 1) (now.read (s.homeEp 1024)) ≤ 0xFFFFFF)
        ∧ 0x2007C / 128 = 1024 ∧ mustYield h vec.core.id (some .panel) = false ∧ (0 : BitVec 128) = 0 ∧ (BitVec.allOnes 128 : BitVec 128) ≠ 0)
    ∧ (∀ h ∈ [homeRec 9, { homeRec 9 with holder := some vec.core.id }], (homed h).homeOf 1024 = some h ∧ h.recalling = false ∧ h.prep = none
        ∧ (h.holder = none ∨ h.holder = some vec.core.id))
    ∧ (let h : Home := { homeRec 9 with holder := some other }
       h.recalling = false ∧ h.prep = none ∧ h.holder = some other ∧ other ≠ vec.core.id)
    ∧ (let s := homed (homeRec 0xFFFFFE)
       let m (rank : Nat) : Contribution := ⟨0x2007C, false, 0, false, vec.gid.team.grid, rank, 0, .core vec.core.id, ⟨0, 0⟩, 1, decide (rank = 0)⟩
       (s.recordOf vec.gid.team.grid).isSome = true ∧ contribPos (m 1) 1 ≠ 0 ∧ s.benchLoad 1024 < 256 ∧ contribPos (m 0) 1 = 0
        ∧ max ((homeRec 0xFFFFFE).rts.read (s.homeEp 1024) + 1) ((m 0).now.read (s.homeEp 1024)) + 0 ≤ 0xFFFFFF)
    ∧ (let s := homed (homeRec 9)
       (s.die (lineDie 1024)).stalled.any (fun x => homeLine x == some 1024) = false
        ∧ (s.slice 1024).waiting.any (fun x => homeLine x == some 1024) = false) := by
  and_intros <;> decide +kernel

theorem witness_HomeMessages_merge : (homed (homeRec 0)).ok := ⟨vec_ok.1, vec_ok.2.1, vec_ok.2.2⟩

/-- The line at 0x20000 requested by the core: in state P under the number 1. -/
def requested : State := vec.onCore fun c => { c with copies := [{ line := 1024, st := .p, ref := 1 }] }

/-- An engine operation of the group. -/
def engOp (phase : EngPhase := .fresh) (cancelled : Bool := false) (due : Nat := 2) (acks : List Stamp := []) : EngOp :=
  let p : StorePart := ⟨1024, 0, 0, 0, false, false⟩
  { id := 5, gid := some vec.gid, team := vec.team.id, kind := .cpy, phase := phase, cancelled := cancelled
    units := [{ lo := p, hi := { p with line := 1025 }, acks := acks, due := due }] }

theorem witness_AnswersAtCore :
    (let s1 := requested.focusCore vec.core.id
     (s1.copyOf 1024).any (fun c => c.st == .p && c.ref == 1) = true)
    ∧ (∀ k ∈ [0, 127], k < 128)
    ∧ (Who.core? (.engine vec.core.id 3) = some vec.core.id ∧ vec.early (CoreId.die vec.core.id) ⟨0, 3⟩ = false)
    ∧ (∀ rdc ∈ [[], [(⟨1024, ⟨0, 3⟩, ⟨0, 9⟩, 0, 0, false⟩ : RdcLine)]], let s := vec.onDie 0 fun d => { d with rdc := rdc }
       let r : LineReq := { lineReq with fill := some ⟨0, 9⟩ }
       r.fill = some ⟨0, 9⟩
        ∧ ((s.die 0).rdc.find? (fun x => x.line == 1024 && x.wts.read (⟨0, 9⟩ : Stamp).ep == r.wts.read (⟨0, 9⟩ : Stamp).ep)).isSome = !rdc.isEmpty)
    ∧ (let o : EngOp := { engOp with kind := .reduce, waits := [1] }
       let s := vec.onCore fun c => { c with engine := [o] }
       (s.focusCore vec.core.id).core.engine.find? (·.id == 5) = some o)
    ∧ (let o : MemOp := { id := 3, load := true, counted := false, waits := [1] }
       let s := vec.onGrp fun g => { g with ops := [o] }
       (s.focusCore vec.core.id).awaited 1 = true)
    ∧ (let s1 := vec.focusCore vec.core.id
       s1.awaited 1 = false ∧ (s1.contexts.any fun x => x.team.groups.any fun g => g.ops.any fun o => has o.waits 1) = false)
    ∧ (let o : MemOp := { id := 3, load := true, counted := false, waits := [1] }
       let s : State := { vec with contexts := [{ team := { groups := [{ ops := [o] }] }, core := vec.core.id, now := ⟨0, 0⟩, rebases := 0 }] }
       let s1 := s.focusCore vec.core.id
       s1.awaited 1 = false ∧ (s1.contexts.any fun x => x.team.groups.any fun g => g.ops.any fun o => has o.waits 1) = true) := by
  and_intros <;> decide +kernel
/-- The core with that operation. -/
def enginey (o : EngOp) : State := vec.onCore fun c => { c with engine := [o] }

/-- A quad whose first macro-op is an MMA, with a published quarter at each of its cores. -/
def mmaReady : State :=
  let m : MacroOp := ⟨.mma .e4m3 .e4m3 false, ctl.core.id, 0, ctl.quadCore 0 0, quadTeam.id, 0, 0, []⟩
  { ctl with quads := [{ queue := [m] }]
             cores := (ctl.quadCores 0 0).map fun c => { id := c, quarters := [⟨.e4m3, [], [], false, ⟨quadTeam.id, 0⟩⟩] : Core } }

theorem witness_FarEffects :
    (∀ o ∈ [engOp, engOp .fresh false 2 [⟨0, 7⟩], engOp .waiting false 1, engOp .waiting false 2, engOp .performed, engOp .fresh true],
      ((enginey o).focusCore vec.core.id).core.engine.find? (·.id == 5) = some o ∧ o.units ≠ [] ∧ o.kept = false ∧ o.kind ≠ .send)
    ∧ ((engOp.units.map (·.acks)) = [[]] ∧ ((engOp .fresh false 2 [⟨0, 7⟩]).units.map (·.acks)) = [[⟨0, 7⟩]]
      ∧ (engOp .waiting false 1).units.map (·.due) = [1] ∧ (engOp .waiting false 1).cancelled = false ∧ (engOp .fresh true).cancelled = true)
    ∧ ((vec.focusCore vec.core.id).peerEnd vec.team.id.grid = .team vec.team.id
      ∧ (∀ n ∈ [0, 7], let s := { vec with team := { vec.team with inbox := List.replicate n ⟨0, 0, ⟨0, 0⟩, []⟩ } }
          (((s.focusCore vec.core.id).focusTeam vec.team.id).team.inbox.length < 8)))
    ∧ vec.early (CoreId.die vec.core.id) ⟨0, 3⟩ = false
    ∧ (let o : EngOp := { engOp with units := [] }
       let s := { enginey o with team := { vec.team with pre := some { mode := 2, quiesced := true } } }
       let s2 := (s.focusCore vec.core.id).focusOp o
       (o.cancels && s2.team.pre.any (·.quiesced)) = true ∧ o.due = false)
    ∧ (let s := vec.onGrp fun g => { g with ops := [{ id := 3, load := true }] }
       ((s.focusCore vec.core.id).findGroup vec.gid).isSome = true ∧ ((s.seen vec.core.id vec.gid).grp.ops.find? (·.id == 3)).isSome = true)
    ∧ ((mmaReady.quad 0 0).running = none ∧ ((mmaReady.quad 0 0).head).any (fun m => m.kind == .mma .e4m3 .e4m3 false) = true
      ∧ mmaReady.quartersReady 0 0 = true)
    ∧ (let m : MacroOp := ⟨.zero, ctl.core.id, 0, ctl.quadCore 0 0, quadTeam.id, 0, 0, []⟩
       let s : State := { ctl with quads := [{ running := some m }] }
       (s.quad 0 0).running = some m)
    ∧ (let o : UnitOp := { id := 3, gid := vec.gid, kind := .texq }
       let s := vec.onCore fun c => { c with units := [o] }
       (s.focusCore vec.core.id).core.units.find? (·.id == 3) = some o) := by
  and_intros <;> decide +kernel

/-- The answer to a remote arrival of the group. -/
def arriveAns (forward : Bool) : ArriveAns := ⟨vec.core.id, vec.gid, 0, forward, 0, 0, none⟩

theorem witness_BarrierMessages :
    (let s1 := ((barred ownBar).focusCore vec.core.id).focusTeam vec.team.id
     ((barred ownBar).focusCore vec.core.id).peerEnd vec.team.id.grid = .team vec.team.id
      ∧ s1.team.lrec.isObject 0 = true ∧ s1.team.lrec.isObject 16 = true
      ∧ (s1.bar 0).broken = false ∧ (s1.bar 0).phase ≠ true ∧ (s1.bar 0).phase = false)
    ∧ ((((shelved 0).focusCore vec.core.id).followTeam vec.team.id vec.core.id fun c => .arriveReply { arriveAns true with dst := c }).isNone = true)
    ∧ (let s := barred { ownBar with fwd := true }
       let s1 := s.focusCore vec.core.id
       (s1.focusTeam vec.team.id).team.id = vec.team.id ∧ ((s1.focusTeam vec.team.id).bar 0).fwd = true)
    ∧ (let s := vec.onGrp fun g => { g with arrs := [(0, vec.pc, 0)] }
       ((s.focusCore vec.core.id).findGroup vec.gid).isSome = true ∧ ∃ r ∈ (s.seen vec.core.id vec.gid).grp.arrs, r.1 = 0)
    ∧ (let s := barred { ownBar with count := true }
       let s1 := (s.focusCore vec.core.id).focusTeam vec.team.id
       (s1.bar 0).count = true ∧ s1.team.lrec.isObject 0 = true) := by
  and_intros <;> decide +kernel

/-- A table pointer, as an entry. -/
def ptr (a : Nat) : Nat := a / 256 * 4096 + 1
/-- Page tables under the root at 0x100000, with a last entry for the page at 0x20000, and a free frame of each size. -/
def tabled (last : Nat) : State :=
  let m := [(0x100000, ptr 0x101000), (0x101000, ptr 0x102000), (0x102000, ptr 0x103000), (0x103000, ptr 0x104000), (0x104010, last)].foldl
    (fun m (x : Nat × Nat) => Memory.writeNat Memory.zeros m x.1 8 x.2) vec.mem
  ({ vec with mem := m } : State).onDie 0 fun x => { x with freeFrames := [(0x40000, 16)] }
/-- The walk for that page, as a demand or as a hint. -/
def walkReq (kind : Nat) : WalkReq := ⟨.group vec.core.id vec.gid, vec.core.id, 0, 0x100000, 0, 0x20000, kind⟩
/-- A walker of die 0 before its entry of a level. -/
def walker (last kind level table : Nat) : State := (tabled last).onDie 0 fun d => { d with walking := [⟨walkReq kind, level, table⟩] }
/-- What a walker finds: 0 an end, 1 a not-present entry, 2 a pointer. -/
def found : WalkRead → Nat
  | .out _ => 0
  | .absent _ _ _ => 1
  | .down _ => 2

/-- A pointer, a present leaf, an entry with DZ that is not present, for a demand and for a hint, and one without DZ; the frame that stands in
the pool; and an empty pool, which the control node fills or not. -/
theorem witness_TranslationAndUpkeep_walks :
    (∀ x ∈ [(ptr 0x20000 + 6, 0, 4, 0x100000, 2), (ptr 0x20000 + 6, 0, 0, 0x104000, 0), (0x802, 0, 0, 0x104000, 1), (0x802, 5, 0, 0x104000, 1),
        (2, 0, 0, 0x104000, 1)],
      let s := walker x.1 x.2.1 x.2.2.1 x.2.2.2.1
      let w : Walking := ⟨walkReq x.2.1, x.2.2.1, x.2.2.2.1⟩
      s.walker (walkReq x.2.1) = some w ∧ s.tableHeld w = false ∧ found (s.readEntry w) = x.2.2.2.2 ∧ (s.die 0).dutySel.getLsbD 2 = false)
    ∧ (let s := (walker 0x802 0 0 0x104000).onDie 0 fun d => { d with dutySel := 4 }
       (s.die 0).dutySel.getLsbD 2 = true ∧ found (s.readEntry ⟨walkReq 0, 0, 0x104000⟩) = 1)
    ∧ ((walker 0x802 0 0 0x104000).readEntry ⟨walkReq 0, 0, 0x104000⟩ = .absent 0 0x104010 0x802 ∧ pteDz (0x802 : BitVec 64) = true
      ∧ pteAttr (0x802 : BitVec 64) = 0 ∧ pteLeaf (0x802 : BitVec 64) = true ∧ (((walker 0x802 0 0 0x104000).die 0).takeFrame 0).1 = some 0x40000)
    ∧ (∀ d : Die, d.freeFrames = [] → (d.takeFrame 0).1
        = (Config.poolFrame d.num 16 d.poolFills).map fun x => paOf d.num (x % ((127 - d.rdcgib) * 2 ^ 30 / 2 ^ 16) * 2 ^ 16))
    ∧ ((walker 2 0 0 0x104000).readEntry ⟨walkReq 0, 0, 0x104000⟩ = .absent 0 0x104010 2 ∧ pteDz (2 : BitVec 64) = false) := by
  refine ⟨by decide +kernel, by decide +kernel, by decide +kernel, fun d h => ?_, by decide +kernel⟩
  simp only [Die.takeFrame, h, List.find?_nil]
  rfl

/-- Two walkers that read one line: when the read of one comes back, the other goes on next (R261). -/
theorem witness_TranslationAndUpkeep_share :
    let a : Walking := ⟨walkReq 0, 4, 0x100000⟩
    let b : Walking := ⟨walkReq 5, 4, 0x100000⟩
    let s : State := { (tabled 0).onDie 0 fun d => { d with walking := [a, b] } with agenda := [.walkComplete b.req, .walkComplete a.req] }
    s.walker (walkReq 0) = some a ∧ s.tableHeld a = false ∧ b ∈ (s.die 0).walking ∧ b.req ≠ walkReq 0 ∧ b.entry / 128 = a.entry / 128
      ∧ Instr.walkComplete b.req ∈ s.agenda ∧ (s.shareRead a).arrived = [.walkComplete b.req]
      ∧ (s.shareRead a).agenda = [.walkComplete a.req] := by decide +kernel

theorem witness_TranslationAndUpkeep :
    (vec.dieAbsent 0 = false ∧ (vec.die 0).tinv.busy = false ∧ (0x80000000 : Word).getLsbD 31 = true ∧ (vec.die 0).epoch + 1 = 1)
    ∧ (let s := vec.onDie 0 fun x => { x with rebaseReq := true, hostRb := true }
       s.dieAbsent 0 = false ∧ (1 : Word).getLsbD 0 = true ∧ (s.die 0).rebaseReq = true ∧ (s.die 0).hostRb = true ∧ (s.die 0).rebaseGo = false
        ∧ s.rebasing = false ∧ (s.onDie 1 fun x => { x with sweeping := true }).rebasing = true)
    ∧ (∀ since ∈ [none, some 3], let s := vec.onDie 0 fun x => { x with tinv := { x.tinv with busy := true, cmd := 0x10000, since := since } }
       (s.die 0).tinv.busy = true ∧ (s.die 0).tinv.since = since ∧ s.unsentAt 0 0 3 = false)
    ∧ (∀ n ∈ [0, 1, 2], let s := (vec.onDie 0 fun x => { x with rebases := BitVec.ofNat 32 n }).onCore fun c => { c with retained := true }
       (s.focusCore vec.core.id).core.retained = true ∧ ((s.die 0).rebases - (s.focusCore vec.core.id).core.retainedAt).toNat = n)
    ∧ (∀ ds ∈ [[], [1, 2]], let p : ReplPage := ⟨0x20000, 16, ds, false⟩
       let s := vec.onDie 0 fun x => { x with rplAddr := 0x20000, replDir := [p] }
       s.dieAbsent 0 = false ∧ (s.die 0).rplBusy = none ∧ (0x80000000 : Word).extractLsb' 0 2 ≠ 3
        ∧ ((s.die 0).rplAddr.toNat / 2 ^ 16 % 2 ^ 36 * 2 ^ 16) % 2 ^ rplSize 0x80000000 = 0
        ∧ (s.die 0).replDir.find? (·.frame == 0x20000) = some p)
    ∧ (let s1 := (vec.focusCore other).stowTeam
       s1.core.teams = [] ∧ s1.core.retained = false ∧ s1.dieAbsent (CoreId.die other) = false)
    ∧ ((vec.focusCore vec.core.id).coreTeams.find? (·.id.grid == vec.team.id.grid)).isSome = true
    ∧ (let s1 := (vec.putAcc 0 0 7 { tag := .f32 }).focusCore vec.core.id
       (s1.acc 0 0 (pairOf 7)).tag ≠ .f64 ∧ (s1.acc 0 0 7).tag ≠ .z)
    ∧ (∀ k ∈ [0, 16383], k / 16 < 1024 - (vec.focusCore vec.core.id).core.partRows ∧ k < 16384) := by
  and_intros <;> decide +kernel
/-- A record at 0x20000 that R408 accepts: one team of one group on die 0. -/
def recorded : State :=
  let m := [(0, 8, 0x10000), (0x24, 1, 1), (0x25, 1, 1), (0x26, 2, 1), (0x28, 1, 1), (0x2A, 1, 2), (0x2E, 2, 1)].foldl
    (fun m (x : Nat × Nat × Nat) => Memory.writeNat Memory.zeros m (0x20000 + x.1) x.2.1 x.2.2) vec.mem
  let copy (k : Nat) : Copy := { line := k, st := .v, clean := true, rts := ⟨0, 8⟩, bytes := BitVec.ofNat 1024 (Memory.readNat Memory.zeros m (128 * k) 128) }
  let d : Core := { id := .disp 0, ltc := [{ placeLeaf with va := 0x20000, frame := 0x20000, x := false }], partRows := 32
                    copies := (List.range 10).map fun k => copy (0x400 + k) }
  { vec with mem := m, cores := d :: vec.cores }
/-- A request for the record at an address. -/
def launchReq (a : Nat) : LaunchReq := ⟨vec.core.id, vec.gid, 9, a, ⟨0, 0⟩, false, []⟩
/-- Whether a read of a record gives its bytes, and whether it fails. -/
def readsAs : RecLine → Bool × Bool
  | .data _ => (true, false)
  | .bad => (false, true)
  | .wait => (false, false)
/-- A grid of one team that has left its queue or not. -/
def aGrid (departed : Option Nat) (ended : Nat := 0) : Grid := { id := vec.team.id.grid, lrec := vec.team.lrec, departed := departed, ended := ended }
/-- The machine with that grid. -/
def gridded (g : Grid) : State := { vec with grids := [g] }

theorem witness_LaunchPath :
    (∀ a ∈ [0x20000, 0x20080 + 128 * 1, 2 ^ 56], let s1 := recorded.takeRequest 0 (launchReq a)
       let r := s1.readRecord (launchReq a) [(a + 0x22, 2)]
       let rs := s1.readRecord (launchReq a) ((List.range 8).map fun k => (a + 128 * k, 128))
       a % 128 = 0 ∧ readsAs r.1.1 = (if a = 2 ^ 56 then (false, true) else (true, false)) ∧ readsAs rs.1.1 = readsAs r.1.1)
    ∧ ((launchReq 0x20001).record % 128 ≠ 0)
    ∧ (let s1 := recorded.takeRequest 0 (launchReq 0x28000)
       readsAs (s1.readRecord (launchReq 0x28000) [(0x28022, 2)]).1.1 = (false, false))
    ∧ (let s1 := recorded.takeRequest 0 (launchReq 0x20180)
       let rs := s1.readRecord (launchReq 0x20180) ((List.range 8).map fun k => (0x20180 + 128 * k, 128))
       readsAs rs.1.1 = (false, false) ∧ rs.1.2.got.length = 7)
    ∧ (let s1 := recorded.takeRequest 0 (launchReq 0x20000)
       let rs := s1.readRecord (launchReq 0x20000) ((List.range 8).map fun k => (0x20000 + 128 * k, 128))
       match rs.1.1 with | .data bs => rs.2.launchStatus 0 bs = 0 ∧ rs.2.launchStatus 0 (bs.set 0x33 1) ≠ 0 | _ => False)
    ∧ (let s1 := ((gridded (aGrid none)).focusCore (.disp 0)).judgeWaits 0
       (s1.leaving 0).isSome = true ∧ ∀ g ∈ (s1.leaving 0).toList, g.lrec.regionDies.filter s1.jumpPasses = [])
    ∧ (let s1 := (vec.focusCore (.disp 0)).judgeWaits 0
       s1.leaving 0 = none ∧ s1.waitsOpen 0 = false)
    ∧ (let g := aGrid none
       let s1 := ((gridded { g with lrec := { g.lrec with waits := [⟨0x20000, 1⟩] } }).focusCore (.disp 0)).judgeWaits 0
       s1.leaving 0 = none ∧ s1.waitsOpen 0 = true)
    ∧ vec.stopped 0 = false
    ∧ (let s := waiting .start
       let s1 := (s.focusCore vec.core.id).stowTeam
       (s1.core.teams.filter fun t => t.id.grid == vec.team.id.grid && t.unstarted) ≠ []) := by
  and_intros <;> decide +kernel

/-- Requests before and at the largest `%now`, and a jump that would pass it. -/
theorem witness_LaunchPath_limits : recorded.requestStalls 0 { launchReq 0x20000 with now := ⟨0, 0xFFFFFE⟩ } = false
    ∧ recorded.requestStalls 0 { launchReq 0x20000 with now := ⟨0, 0xFFFFFF⟩ } = true
    ∧ (aGrid (some 0) 1).lrec.regionDies.filter vec.jumpPasses = []
    ∧ (let s := vec.onCore fun c => { c with now := ⟨0, 0xFFFFFF - 512⟩ }
       (aGrid (some 0) 1).lrec.regionDies.filter s.jumpPasses ≠ []) := by
  decide +kernel

/-- A control message of a length. -/
def ctlMsg (len : Int) (reservedSet : Bool) : ControlMsg := ⟨len, 0, 0, reservedSet, []⟩

theorem witness_TeamsAndGrids :
    ((vec.focusCore vec.core.id).coreTeams.any (·.id == vec.team.id) = true
      ∧ (let s1 := ((((vec.focusCore vec.core.id).focusTeam vec.team.id).leaveObjects).eachGroup State.poll).wakeControl
         (s1.coreTeams.find? (·.id == vec.team.id)).isSome = true))
    ∧ (∀ x ∈ [{ aGrid (some 0) 1 with closing := some [] }, aGrid (some 0) 1],
        (gridded x).grids.find? (fun (g : Grid) => g.id == x.id) = some x)
    ∧ ((aGrid (some 0) 1).closing = none ∧ (gridded (aGrid (some 0) 1)).killOf vec.team.id.grid = none ∧ (aGrid (some 0) 1).over = true)
    ∧ (let s := { gridded (aGrid (some 0)) with kills := [(vec.team.id.grid, 1, 2)] }
       (s.killOf vec.team.id.grid).isSome = true ∧ (aGrid (some 0)).closing = none)
    ∧ (vec.dieAbsent 0 = false ∧ vec.freePlace 0 = some 0 ∧ ∀ m ∈ [ctlMsg 1 false, ctlMsg 1023 false], 1 ≤ m.len ∧ m.len ≤ 1023 ∧ m.reservedSet = false)
    ∧ (∀ m ∈ [ctlMsg 0 false, ctlMsg 1024 false, ctlMsg 1 true], ¬ (1 ≤ m.len ∧ m.len ≤ 1023 ∧ m.reservedSet = false))
    ∧ (let m : PlacedMsg := ⟨0, ctlMsg 1 false, ⟨0, 0⟩⟩
       let s1 := ((vec.onDie 0 fun x => { x with msgs := [m] }).focusCore (.disp 0)).drainPort 0
       s1.core.frag = none ∧ (s1.die 0).msgs = [m])
    ∧ (vec.die 0).spare = false
    ∧ (let s := vec.onDie 1 fun x => { x with held := true, fwd := { x.fwd with st := .orphan } }
       s.dieAbsent 1 = false ∧ (s.die 1).fwd.st = .orphan ∧ (s.die 1).held = true) := by
  and_intros <;> decide +kernel

/-- The team with a pre-emption under way, off the issue slot. -/
def preempted (p : Option Preempt) : State :=
  { vec with team := { vec.team with pre := p }, grp := { vec.grp with gst := .ready }, core := { vec.core with slot := none } }
/-- The team saved. -/
def saved (moving keep : Bool) : State :=
  { (vec.focusCore other) with
    contexts := [{ team := { vec.team with groups := [vec.grp] }, core := vec.core.id, now := ⟨0, 0⟩, rebases := 0, moving := moving, keep := keep }] }

theorem witness_PreemptionAndRestore :
    (∀ p ∈ [none, some { mode := 1 : Preempt }, some { mode := 0, clk := 0 }, some { mode := 2, clk := 0 }],
      ((preempted p).findTeam vec.team.id).any (fun y => y.1 == vec.core.id && y.2.pre == p && y.2.lrec.budget == 0) = true)
    ∧ ((preempted none).die 0).dutySel.getLsbD 3 = false ∧ (preempted none).gangHeld vec.team.id = false
    ∧ (preempted (some { mode := 1 })).gangHeld vec.team.id = false
    ∧ (∀ y ∈ (preempted (some { mode := 2 })).gangTeams vec.team.id, y.2.pre.any (·.mode == 2) = true
        ∧ settled ((preempted (some { mode := 2 })).coreOf y.1) y.2 = true ∧ (preempted (some { mode := 2 })).packetsTaken y.2.id = true)
    ∧ (let s := preempted (some { mode := 2, releasing := true, released := true })
       (s.findTeam vec.team.id).any (fun y => y.2.pre.any (fun p => p.mode == 2 && p.releasing)) = true
        ∧ ∀ y ∈ s.gangTeams vec.team.id, y.2.gone = true)
    ∧ (vec.dieAbsent 0 = false ∧ (vec.die 0).pm.busy = false ∧ pmTeam (BitVec.ofNat 64 (vec.team.id.grid.lid * 2 ^ 32)) = vec.team.id)
    ∧ ((saved true false).contexts.find? (fun (y : Context) => y.team.id == vec.team.id)).isSome = true
    ∧ (((saved false false).contexts.find? (fun (y : Context) => y.team.id == vec.team.id && (!y.moving && !y.keep))).isSome = true
      ∧ ((saved false false).fitBase vec.core.id vec.team.lrec).isSome = true)
    ∧ (let s := vec.onDie 0 fun x => { x with pm := { x.pm with asked := [(7, vec.team.id)] } }
       (s.die 0).pm.asked.find? (·.1 == (7 : DWord).setWidth 32) = some (7, vec.team.id) ∧ (7 : DWord).toNat / 2 ^ 32 % 4 ≠ 3) := by
  and_intros <;> decide +kernel

/-- A frame of port 15. -/
def frame (good : Bool) : PeerFrame := ⟨15, 0, 0x20000, 0, 0, 0, [], good⟩
/-- Port 15 with posts. -/
def posting (ps : List Post) (inbox : List (Nat × PeerFrame) := []) : State := vec.onPort 15 fun p => { p with posts := ps, inbox := inbox }
/-- A posted copy that has left. -/
def post (tries : Nat) : Post := { num := 0, frames := [(2, frame true)], left := true, tries := tries }

theorem witness_PeerPorts :
    (64 ≤ ((posting (List.replicate 64 (post 0))).port 15).posts.length)
    ∧ ((((posting (List.replicate 63 (post 0))).port 15).posts.length = 63) ∧ ((posting []).port 15).waiting = []
      ∧ (posting []).descBad 0x20001 = true ∧ (posting []).descBad 0x20000 = false)
    ∧ (∀ a ∈ [0x20000, 0x20001], let s := posting []
      ∀ l ∈ s.postLines a, s.lineHeld (s.port 15).now.ep (s.port 15).now l ((s.postLines a).length + 1) = false)
    ∧ (∀ n ∈ [0, 7, 8], ((((posting [post n]).port 15).posts.find? fun x => x.num == 0 && x.left) = some (post n)))
    ∧ ((((posting [post 0]).port 15).posts.any fun x => x.num == 0) = true)
    ∧ (((posting [] [(1, frame true)]).port 15).inbox ≠ [] ∧ ((posting []).port 15).inbox = []
      ∧ ∀ t ∈ [1, 2, 3], (posting []).frameReady t (frame true) = true) := by
  and_intros <;> decide +kernel

/-- The ends of the sensor and measurement ranges, on present dies. -/
theorem witness_ControlAndManagement : (∀ k ∈ [0, 39], k < 40 ∧ vec.dieAbsent k = false) ∧ (161 ≥ 161) ∧ (42 ≥ 42) := by decide +kernel

/-- A write to a register block. -/
def regWrite (offset size : Nat) (master : Nat) : RegWrite where
  master := master
  die := 0
  offset := offset
  value := 0
  size := size

theorem witness_BlocksAndRoutes :
    (∀ w ∈ [regWrite 0 4 0, regWrite 0x6078 8 0], regSize w.offset = w.size ∧ w.size ≠ 0 ∧ ∀ k ∈ List.range w.size, k ≠ 0 → regSize (w.offset + k) = 0)
    ∧ (vec.dieAbsent 0 = false ∧ vec.mayWrite 0 0 3 = false ∧ vec.mayWrite 0 0 0 = true ∧ vec.mayWrite 0 0x6078 0 = false ∧ vec.mayWrite 0 0x6078 1 = true)
    ∧ ((vec.die 0).loader.busy = false ∧ (0x80000000 : Word).getLsbD 31 = true ∧ ((vec.die 0).rights 0 0).getLsbD 2 = true
      ∧ ((vec.die 0).rights 0 1).getLsbD 2 = false)
    ∧ ((vec.onDie 0 fun x => { x with loader := { x.loader with busy := true } }).die 0).loader.busy = true
    ∧ (63 < 64 ∧ vec.dieAbsent (CoreId.die vec.core.id) = false)
    ∧ (let s := vec.onCore fun c => { c with routes := [{ num := 63, entry := 0, withdrawn := true, coming := some 7 }] }
       let s1 := s.focusCore vec.core.id
       (s1.routeSlot 63).bind (·.coming) = some 7 ∧ (s1.routeSlot 63).any (·.withdrawn) = true ∧ routeRoleX (s1.route 63) = routeRoleX 0
        ∧ routeRoleY (s1.route 63) = routeRoleY 0)
    ∧ (let m : MeshFault := ⟨0, 0, 0, none⟩
       (vec.die m.die).crc.find? (·.1 == m) = none
        ∧ ((vec.onDie 0 fun x => { x with crc := [(m, 15)] }).die 0).crc.find? (·.1 == m) = some (m, 15))
    ∧ (∀ m ∈ [Resend.packet ⟨vec.core.id, 0, 63, other, vec.team.id.grid, ⟨0, 0, ⟨0, 0⟩, []⟩⟩, .line lineReq false],
       let s : State := { vec with agenda := [Resend.msg m] }
       s.agenda.contains (Resend.msg m) = true ∧ homeRequest m = (if m = .line lineReq false then some (vec.core.id, 1) else none)
        ∧ s.lossWaits vec.core.id 1 = false) := by
  and_intros <;> decide +kernel

/-- Whether an answer is a next state. -/
def goesOn : Out → Bool
  | .next _ => true
  | .fault _ => false
  | .refused _ => false

theorem goesOn_next {o : Out} (h : goesOn o = true) : ∃ t, o = .next t := by
  cases o with
  | next t => exact ⟨t, rfl⟩
  | fault _ => cases h
  | refused _ => cases h

/-- The word of IADD .I32 v10, v6, v8, in a placed line. -/
def addWord : Nat := (encode (.iadd good)).elim 0 (·.2)
/-- A core whose next instruction is that one. -/
def adding : State := State.reset.placeWord addWord

theorem witness_StepKeepsInvariant : adding.ok ∧ ∃ t, step adding = .next t :=
  ⟨by simp only [State.ok, Core.ok, Team.ok, Group.ok]; decide +kernel, goesOn_next (by decide +kernel)⟩

theorem witness_DecodeEncode : encode (.iadd good) = some (false, addWord) ∧ addWord < 2 ^ 96 ∧ encode (.pairedSlot ⟨.iadd, 2, 1, 2, 0, 3, 0⟩ ⟨.iadd, 2, 4, 5, 0, 6, 0⟩) ≠ none
    ∧ decode false 0 = .ok (.ill 2 false) := by decide +kernel

/-- What a fetch of a line brings, and what stands at a slot of it. -/
def fetches (g : FetchOut) (slot : Nat) : Option Instr :=
  match g with
  | .line bs => if lineReserved bs = 0 then (match decode (linePair bs slot) (lineSlot bs slot) with | .ok i => some i | _ => none) else none
  | _ => none

/-- The same core without a schedule. -/
def unscheduled : State := { adding with sched := [] }

/-- A schedule that names the core, and the schedule that the model has without one. -/
theorem witness_StepRunsDecodedInstruction :
    (∀ x ∈ [({ adding with sched := [.issue adding.core.id] }, unscheduled), (unscheduled, { unscheduled with beat := true })],
      let s := x.1
      let s0 := (x.2.focusCore adding.core.id).focusGroup adding.gid
      let line := lineOf s0.pc.toNat
      s.agenda.any (fun m => urgent m && s.canReach m) = false ∧ s.arrived.any s.canReach = false ∧ s.waitingInput = none ∧ (x.2.focusCore adding.core.id).core.slot = some adding.gid ∧ s0.missing [line] = []
        ∧ s0.entryTrap = none ∧ fetches ((s0.onGrp fun g => { g with entering := false }).fetchLine line) (s0.pc.toNat % 8) = some (.iadd good))
    ∧ adding.clocked (CoreId.die adding.core.id) = true
    ∧ (unscheduled.sched = [] ∧ unscheduled.agenda = [] ∧ unscheduled.beat = false
      ∧ (let x := unscheduled.allCores.reverse.find? unscheduled.moves
         x.any (fun x => x.id == adding.core.id && canIssue x) = true)) := by
  and_intros <;> decide +kernel
/-! ### Words that the spec writes out beside their written forms -/

/-- The instruction of a word outside a pair. -/
abbrev readsWord (w : Nat) (i : Instr) : Prop := decode false w = .ok i

/-- A V3 instruction with a destination and one source. -/
def w3 (ty : BitVec 4) (dst a : Opnd) (b : Opnd := .v 0) (sub : BitVec 6 := 0) (rnd : BitVec 3 := 0) (flags : BitVec 4 := 0) : V3 :=
  { v3 ty 0 sub rnd flags with dst := dst, a := a, b := b }

/-- R506, R509, R516, R522, R524, R549 and R584 to R586: BRA v7 to slot 3 two lines on, CALL v20:21 three lines back, CONTIF.NOT v7 with d 1,
ENDLOOP one line back at slot 2, EXIT v9, IF v7, IF.NOT scc, RET v20:21. -/
theorem test_words_control :
    readsWord 0x020607000000098000000000 (.bra { bf 3 (.v 7) with delta := 2, slot := 3 })
    ∧ readsWord 0x0400000A7FFFF40000000000 (.call { bf 0 (.v 0) (.v 20) with delta := 0x1FFFFD })
    ∧ readsWord 0x0B0607000000000300000000 (.contif (bf 3 (.v 7) (.v 0) 1 1))
    ∧ readsWord 0x0C0000007FFFFD0000000000 (.endloop { bf 0 with delta := 0x1FFFFF, slot := 2 })
    ∧ readsWord 0x0E0609000000000000000000 (.exit (bf 3 (.v 9))) ∧ readsWord 0x060607000000000000000000 (.ifc (bf 3 (.v 7)))
    ∧ readsWord 0x060200000000000100000000 (.ifc (bf 1 (.v 0) (.v 0) 0 1)) ∧ readsWord 0x0500000A0000000000000000 (.ret (bf 0 (.v 0) (.v 20)))
    ∧ readsWord 0x070000000000000000000000 (.elsec (bf 0)) ∧ readsWord 0x080000000000000000000000 (.endif (bf 0))
    ∧ readsWord 0x090000000000000000000000 (.loop (bf 0)) ∧ readsWord 0x0D0000000000000000000000 (.reconv (bf 0)) := by decide +kernel

/-- R519, R531, R532, R545, R562, R564, R568, R580 and R600: FFMA.F32.RNE v8, v2, v3, #0.1f; FCMP.LT.F32 v3, v1, v2; IMAD.I32 v9, v1, v2, #100;
MMAB.E4M3 v32; MOVI.B32 v3, #0x1234_5678; MXPACK.F32.MXE4M3.RNE v6, v2; RAND v8, v12; SHFL.IDX.B32.W8 v3, v1, v2;
REDUCE.FADD.F32.RNE s4, v7; CVT.I32.F32.RTZ v3, v2; and the slot of R203's example. -/
theorem test_words_lanes :
    readsWord 0x5D120801000180003DCCCCCD (.ffmaVi { vi 1 0 0 1 with dst := .v 8, a := .v 2, b := .v 3, imm := 0x3DCCCCCD })
    ∧ readsWord 0x251003008001000000002000 (.fcmp (w3 1 (.v 3) (.v 1) (.v 2) 2))
    ∧ readsWord 0x542009008001000000000064 (.imadVi { vi 2 0 with dst := .v 9, a := .v 1, b := .v 2, imm := 100 })
    ∧ readsWord 0xB54000100000000000000000 (.mmab (w3 4 (.v 0) (.v 32)))
    ∧ readsWord 0x508003000000000012345678 (.movi { vi 8 0 with dst := .v 3, imm := 0x12345678 })
    ∧ readsWord 0x2D7206010000000000001000 (.mxpack (w3 7 (.v 6) (.v 2) (.v 0) 1 1))
    ∧ readsWord 0x690008060000000000000000 (.rand (w3 0 (.v 8) (.v 12)))
    ∧ readsWord 0x618003008001000000000300 (.shfl (w3 8 (.v 3) (.v 1) (.v 2) 0 0 3))
    ∧ readsWord 0x651304038000000000000000 (.reduce (w3 1 (.s 4) (.v 7) (.v 0) 0 1))
    ∧ readsWord 0x2B2403010000000000021000 (.cvt (w3 2 (.v 3) (.v 2) (.v 0) 0x21 2))
    ∧ readsWord 0x20EE060685E2800000000000 (.fadd { w3 0xE (.v 6) (.v 13) (.resv 5) 0 7 with pa := 5 }) := by decide +kernel

/-- R483, R555, R604 and R605: LD.B32.ACQ.D v10, b2[v4 + #5]; ST.B32.REL.D b1[v4], v5; ST.B32.REL.C b1[v0 + #32], v3;
ATOM.CAS.B32.AR.D.RET v8, b2[v4 + #1], v9; FILL v10, #2. -/
theorem test_words_memory :
    readsWord 0x808241404200000500000000 (.ld { mf 8 0 0 5 (.v 0) 0 1 (.v 10) (.v 4) with scope := 2, brec := 2 })
    ∧ readsWord 0x818280A04100000000000000 (.st { mf 8 0 0 0 (.v 0) 0 2 (.v 5) (.v 4) with scope := 2, brec := 1 })
    ∧ readsWord 0x818180600100002000000000 (.st { mf 8 0 0 32 (.v 0) 0 2 (.v 3) (.v 0) with scope := 1, brec := 1 })
    ∧ readsWord 0x8782C1004224000104900000 (.atom { mf 8 9 0 1 (.v 9) 1 3 (.v 8) (.v 4) with scope := 2, brec := 2 })
    ∧ readsWord 0x8F0001400001000000000000 (.fill (mf 0 0 1 0 (.v 0) 0 0 (.v 10) (.v 0))) := by decide +kernel

/-- R317, R405, R513, R537, R565, R579, R596, R599, R610, R613 and R614: FENCE.ACQ.P, FENCE.AR.D, FENCE.REL.D; LAUNCH s4, s8:9; CLKADV.MAX s5;
MOVSP v4:5, %gtc; PROGRESS s7; SEMSIG s4:5, #1; SETSP %fpctl, s3; TRAP #0x0042; WAITCNT #0, #0, #3, #0; WAITT s4:5; BKPT; ERET; SPINHINT. -/
theorem test_words_system :
    readsWord 0xA20340000000000000000000 (.fence (sf 0 (.v 0) (.v 0) (.v 0) 0 3 1)) ∧ readsWord 0xA202C0000000000000000000 (.fence (sf 0 (.v 0) (.v 0) (.v 0) 0 2 3))
    ∧ readsWord 0xA20280000000000000000000 (.fence (sf 0 (.v 0) (.v 0) (.v 0) 0 2 2))
    ∧ readsWord 0xD00020908000000000000000 (.launch (sf 0 (.s 4) (.s 8)))
    ∧ readsWord 0xA30000105000000020000000 (.clkadv (sf 0 (.v 0) (.s 5) (.v 0) 1)) ∧ readsWord 0xA90000800000008800000000 (.movsp (sf 0x11 (.v 4)))
    ∧ readsWord 0xD60000107000000000000000 (.progress (sf 0 (.v 0) (.s 7))) ∧ readsWord 0xA70000104C08000000000000 (.semsig (sf 0 (.v 0) (.s 4) (.int 1)))
    ∧ readsWord 0xAA0000103000010800000000 (.setsp (sf 0x21 (.v 0) (.s 3))) ∧ readsWord 0xD10000000000021000000000 (.trap (sf 0x42))
    ∧ readsWord 0xA10000180C00001800000000 (.waitcnt (sf 3 (.v 0) (.int 0) (.int 0))) ∧ readsWord 0xA60000104000000000000000 (.waitt (sf 0 (.v 0) (.s 4)))
    ∧ readsWord 0xD30000000000000000000000 (.bkpt sf) ∧ readsWord 0xA40000000000000000000000 (.spinhint sf)
    ∧ readsWord 0xD50000000000000000000000 (.idem sf) := by decide +kernel

/-- R475, R560, R563, R492, R493, R575, R576, R581, R587, R595, R611, R615, R616 and R629: ACCDRAIN.ORD acc2, #3, #1, c6, c7;
MMA.E4M3.E5M2 acc3, #2, #1, #5; MMAWAIT acc3, #2; BARARV.DROP #0x0020; BARTX #0x0000, #32; PSEND s4, #32, s6, #0x0040, route(9); PRECV s6;
TILEREL tile(2); XCANCEL #0x0040; XCPY.E4M3 s4, s5, #0x0000, tile(2); XCPY.F64 c5; SALU.ADD.I32 s3, s3, #1; REGROUP v20:21, v22, #15;
REPACK #15; RAST.F32 v40, s8, s24, s25; TRAV.ANY v10, v16, s12, b4; TEX.BILIN.F32 v20, v2, v4, b5. -/
theorem test_words_units :
    readsWord 0xB300402160E0D07000000000 (.accdrain { mx 0 0 0 2 (.s 6) (.s 7) 2 0 (.int 3) with qcore := 1 })
    ∧ readsWord 0xB04562A06080000000000000 (.mma { mx 4 5 5 0 (.v 0) (.v 0) 3 0 (.int 2) with qcore := 1 })
    ∧ readsWord 0xB40060006080000000000000 (.mmawait (mx 0 0 0 0 (.v 0) (.v 0) 3 0 (.int 2)))
    ∧ readsWord 0x9D0040000000000100000000 (.bararv (xf (.v 0) (.v 0) (.v 0) 0 1 0 0 0 0 0x20))
    ∧ readsWord 0xA00034000000000000000000 (.bartx (xf (.int 32)))
    ∧ readsWord 0x9A00209A0830000201200000 (.psend (xf (.s 4) (.int 32) (.s 6) 0 0 0 0 0 9 0x40)) ∧ readsWord 0x9B0020C00000000000000000 (.precv (xf (.s 6)))
    ∧ readsWord 0x980000000000400000000000 (.tilerel (xf (.v 0) (.v 0) (.v 0) 0 0 2)) ∧ readsWord 0x960000000000000200000000 (.xcancel (xf (.v 0) (.v 0) (.v 0) 0 0 0 0 0 0 0x40))
    ∧ readsWord 0x904020905000500000000000 (.xcpy (xf (.s 4) (.s 5) (.v 0) 4 0 2 1)) ∧ readsWord 0x900020A00000000000000000 (.xcpy (xf (.s 5)))
    ∧ readsWord 0x702020703C08000000000000 (.salu ⟨2, 0, .s 3, .s 3, .int 1, .v 0, 0, 0, 0⟩)
    ∧ readsWord 0xC500000140B00003C0000000 (.regroup (gf 0 (.v 0) (.v 20) (.v 22) (.v 0) 0 15)) ∧ readsWord 0xC600000000000003C0000000 (.repack (gf 0 (.v 0) (.v 0) (.v 0) (.v 0) 0 15))
    ∧ readsWord 0xC010051088C4640000000000 (.rast (gf 1 (.v 40) (.s 8) (.s 24) (.s 25)))
    ∧ readsWord 0xC30001410860010001000000 (.trav { gf 0 (.v 10) (.v 16) (.s 12) (.v 0) 1 with brec := 4 })
    ∧ readsWord 0xC71042802020014000000000 (.tex { gf 1 (.v 20) (.v 2) (.v 4) with sub := 1, brec := 5 }) := by decide +kernel
/-! ### One step: results from the examples of the spec and by hand -/

/-- The vector core with the first lanes in RUN, their v6, v8 and v14 (pairs of words) given. -/
def lanesFed (a b c : List DWord) : State :=
  let s := vec.onGrp fun g => { g with lanes := g.lanes.mapIdx fun k x => if k < a.length then x else { x with st := .exited } }
  let put (s : State) (r : Nat) (vs : List DWord) : State := s.writeVals r .b64 (vs.zipIdx.map fun x => (x.2, x.1))
  put (put (put s 6 a) 8 b) 14 c

/-- The state after an instruction. -/
def after (i : Instr) (s : State) : State :=
  match exec i s with
  | .next t => t
  | .fault _ => s
  | .refused _ => s

/-- A register of a lane. -/
def regOf (t : State) (r l : Nat) : Word := (t.core.elem (t.local (t.vAddr r l))).1

/-- What lane 0 gets in v10 from v6, v8 and v14. -/
def gives (i : Instr) (a : DWord) (b : DWord := 0) (c : DWord := 0) : Word := regOf (after i (lanesFed [a] [b] [c])) 10 0
/-- The same as a pair. -/
def gives2 (i : Instr) (a : DWord) (b : DWord := 0) (c : DWord := 0) : Word × Word :=
  let t := after i (lanesFed [a] [b] [c])
  (regOf t 10 0, regOf t 11 0)
/-- The same with the flags raised. -/
def givesFl (i : Instr) (a : DWord) (b : DWord := 0) (c : DWord := 0) : Word × BitVec 5 :=
  let t := after i (lanesFed [a] [b] [c])
  (regOf t 10 0, t.grp.fpstat)

/-- By hand: wraps, sign changes, high halves, bytes of IDOT4. -/
theorem test_int : gives (.iadd (v3 2 2)) 0x7FFFFFFF 1 = 0x80000000 ∧ gives (.isub (v3 6 2)) 0 1 = 0xFFFFFFFF
    ∧ gives (.imul (v3 2 2)) 0x10001 0x10001 = 0x00020001 ∧ gives (.imulh (v3 6 2)) 0xFFFFFFFF 0xFFFFFFFF = 0xFFFFFFFE
    ∧ gives (.imulh (v3 2 2)) 0xFFFFFFFF 1 = 0xFFFFFFFF ∧ gives (.imin (v3 2 2)) 0xFFFFFFFF 1 = 0xFFFFFFFF
    ∧ gives (.imax (v3 2 2)) 0xFFFFFFFF 1 = 1 ∧ gives (.imax (v3 6 2)) 0xFFFFFFFF 1 = 0xFFFFFFFF
    ∧ gives (.ineg (v3 2 1)) 0x80000000 = 0x80000000 ∧ gives (.iabs (v3 2 1)) 0xFFFFFFF9 = 7 := by decide +kernel
theorem test_int_three : gives (.imad (v3 2 3)) 3 5 7 = 22 ∧ gives (.idot4 (v3 2 3)) 0x01FF01FF 0x01020304 10 = 8
    ∧ gives (.idot4 (v3 2 3 3)) 0x01FF01FF 0x01020304 10 = 1544 ∧ gives2 (.imadw (v3 2 3)) 0xFFFFFFFF 2 0 = (0xFFFFFFFE, 0xFFFFFFFF)
    ∧ gives2 (.imadw (v3 6 3)) 0xFFFFFFFF 2 1 = (0xFFFFFFFF, 1) ∧ gives (.lea (v3 8 2 2)) 0x1000 3 = 0x100C
    ∧ gives2 (.lea (v3 9 2 4)) 0x100000000 0xFFFFFFFF = (0xFFFFFFF0, 0) := by decide +kernel
/-- The two halves of the sum that R546 works out. -/
theorem test_iaddc : gives2 (.iaddc (v3 6 3)) 0xFFFFFFFF 1 0 = (0, 1) ∧ gives2 (.iaddc (v3 6 3)) 7 8 1 = (0x10, 0) := by decide +kernel
theorem test_int_immediate : gives (.iaddVi { vi 2 1 with imm := 5 }) 0xFFFFFFFF = 4 ∧ gives (.isubVi { vi 6 1 with imm := 1 }) 0 = 0xFFFFFFFF
    ∧ gives2 (.iaddVi { vi 3 1 with imm := 0xFFFFFFFF }) 1 = (0, 0) ∧ gives2 (.iaddVi { vi 7 1 with imm := 0xFFFFFFFF }) 1 = (0, 1)
    ∧ gives (.imulVi { vi 2 1 with imm := 3 }) 5 = 15 ∧ gives (.imadVi { vi 2 2 with imm := 100 }) 3 5 = 115
    ∧ gives (.iminVi { vi 2 1 with imm := 0xFFFFFFFE }) 1 = 0xFFFFFFFE ∧ gives (.imaxVi { vi 6 1 with imm := 0xFFFFFFFE }) 1 = 0xFFFFFFFE
    ∧ gives2 (.movi { vi 3 0 with imm := 0x80000001 }) 0 = (0x80000001, 0xFFFFFFFF) := by decide +kernel
theorem test_compare : gives (.icmp (v3 2 2 2)) 0xFFFFFFFF 1 = 1 ∧ gives (.icmp (v3 6 2 2)) 0xFFFFFFFF 1 = 0 ∧ gives (.icmp (v3 2 2 5)) 4 4 = 1
    ∧ gives (.icmpVi { vi 2 1 1 with imm := 4 }) 4 = 0 ∧ gives (.sel (v3 8 3)) 5 6 0 = 6 ∧ gives (.sel (v3 8 3)) 5 6 2 = 5 := by decide +kernel
theorem test_logic : gives (.and (v3 8 2)) 0xC 0xA = 8 ∧ gives (.andn (v3 8 2)) 0xC 0xA = 4 ∧ gives (.or (v3 8 2)) 0xC 0xA = 0xE
    ∧ gives (.orn (v3 8 2)) 0xC 0xA = 0xFFFFFFFD ∧ gives (.xor (v3 8 2)) 0xC 0xA = 6 ∧ gives (.not (v3 8 1)) 0xC = 0xFFFFFFF3
    ∧ gives (.andVi { vi 8 1 with imm := 0xA }) 0xC = 8 ∧ gives (.orVi { vi 8 1 with imm := 0xA }) 0xC = 0xE
    ∧ gives (.xorVi { vi 8 1 with imm := 0xFFFF0000 }) 0xC = 0xFFFF000C ∧ gives (.mov (v3 8 1)) 0xDEADBEEF = 0xDEADBEEF := by decide +kernel
/-- R591's SHRA, and the amount taken modulo the width. -/
theorem test_shift : gives (.shra (v3 8 2)) 0x800000F0 36 = 0xF800000F ∧ gives (.shl (v3 8 2)) 1 33 = 2 ∧ gives (.shr (v3 8 2)) 0x80000000 63 = 1
    ∧ gives (.rotl (v3 8 2)) 0x80000001 1 = 3 ∧ gives2 (.shl (v3 9 2)) 1 33 = (0, 2) := by decide +kernel
/-- The fields of R479's and R515's examples, CLZ, FFS and POPC. -/
theorem test_fields : gives (.bfe (v3 2 2)) 0xA50 0x0804 = 0xFFFFFFA5 ∧ gives (.bfe (v3 6 2)) 0xA50 0x0804 = 0xA5
    ∧ gives (.bfe (v3 2 2)) 0x80000000 0x081C = 0xFFFFFFF8 ∧ gives (.bfi (v3 8 3)) 0xFF 0x12345678 0x0818 = 0xFF345678
    ∧ gives (.bfi (v3 8 3)) 0xFF 0x12345678 0x0820 = 0x12345678 ∧ gives (.clz (v3 9 1)) 1 = 63 ∧ gives (.ffs (v3 8 1)) 0xA50 = 4
    ∧ gives (.popc (v3 9 1)) 0x8000000000000A50 = 5 ∧ gives (.brev (v3 8 1)) 0x80000002 = 0x40000001 := by decide +kernel
/-- The example of R529 on the single rounding of FFMA, and that of R542. -/
theorem test_float : givesFl (.fmul (v3 1 2 0 1)) 0x3F800800 0x3F800800 = (0x3F801000, 0x01) ∧ givesFl (.fadd (v3 1 2 0 1)) 0x3F801000 0xBF801000 = (0, 0)
    ∧ givesFl (.ffma (v3 1 3 0 1)) 0x3F800800 0x3F800800 0xBF801000 = (0x33800000, 0) ∧ gives (.fadd (v3 1 2 0 4)) 0x3F801000 0xBF801000 = 0x80000000
    ∧ givesFl (.fldexp (v3 1 2)) 0x3F800000 (BitVec.ofInt 64 (-149)) = (1, 0)
    ∧ givesFl (.fldexp (v3 1 2 0 1)) 0x3F800000 (BitVec.ofInt 64 (-150)) = (0, 0x03)
    ∧ gives (.faddVi { vi 1 1 0 1 with imm := 0x40000000 }) 0x3F800000 = 0x40400000 ∧ gives (.fmulVi { vi 1 1 0 1 with imm := 0x40400000 }) 0x40000000 = 0x40C00000
    ∧ gives (.ffmaVi { vi 1 2 0 1 with imm := 0x3F800000 }) 0x40000000 0x40400000 = 0x40E00000 := by decide +kernel
/-- R530 to R543: minima and maxima with signed zeros and NaN, comparisons, rounding to integers. -/
theorem test_float_compare : gives (.fmin (v3 1 2)) 0 0x80000000 = 0x80000000 ∧ gives (.fmax (v3 1 2)) 0x7FC00000 0x3F800000 = 0x3F800000
    ∧ givesFl (.fmin (v3 1 2)) 0x7F800001 0x3F800000 = (0x3F800000, 0x10) ∧ gives (.fcmp (v3 1 2 0)) 0 0x80000000 = 1
    ∧ givesFl (.fcmp (v3 1 2 2)) 0x7FC00000 0 = (0, 0x10) ∧ givesFl (.fcmpVi { vi 1 1 7 with imm := 0 }) 0x7FC00000 = (1, 0)
    ∧ gives (.frint (v3 1 1 0 1)) 0x40200000 = 0x40000000 ∧ gives (.frint (v3 1 1 0 1)) 0xBE99999A = 0x80000000
    ∧ gives (.frint (v3 1 1 0 5)) 0x40200000 = 0x40400000 ∧ gives (.fclass (v3 4 1)) 0x7F = 0x200
    ∧ gives (.fclass { v3 2 1 with nabs := 0x20 }) 0x0100 = 4 := by decide +kernel
/-- R519's and R227's examples. -/
theorem test_convert : givesFl (.cvt (v3 2 1 0x21 2)) 0x4F000000 = (0x7FFFFFFF, 0x10) ∧ givesFl (.cvt (v3 2 1 0x21 2)) 0xC0200000 = (0xFFFFFFFE, 0x01)
    ∧ givesFl (.cvt (v3 2 1 0x21 2)) 0x7FC00000 = (0, 0x10) ∧ givesFl (.cvt (v3 2 1 0x21 2)) 0xCF000000 = (0x80000000, 0)
    ∧ givesFl (.cvt (v3 2 1 0x21 5)) 0xC0200000 = (0xFFFFFFFD, 0x01) ∧ gives2 (.cvtef (v3 4 1 1 1)) 0x3E99999A = (0x2A, 0xBC4CCCC0) := by decide +kernel
/-- The exact results of R229 and R230. -/
theorem test_transcendental : givesFl (.frcp (v3 1 1)) 0x40800000 = (0x3E800000, 0) ∧ givesFl (.frsq (v3 1 1)) 0x40800000 = (0x3F000000, 0)
    ∧ givesFl (.fsqrt (v3 1 1)) 0xBF800000 = (0x7FC00000, 0x10) ∧ givesFl (.fsqrt (v3 1 1 0 1)) 0x40800000 = (0x40000000, 0)
    ∧ givesFl (.fexp2 (v3 1 1)) 0x40400000 = (0x41000000, 0) ∧ givesFl (.flog2 (v3 1 1)) 0x41000000 = (0x40400000, 0)
    ∧ givesFl (.flog2 (v3 1 1)) 0 = (0xFF800000, 0x08) ∧ givesFl (.fsin (v3 1 1)) 0x80000000 = (0x80000000, 0)
    ∧ givesFl (.fcos (v3 1 1)) 0 = (0x3F800000, 0) ∧ givesFl (.ftanh (v3 1 1)) 0xFF800000 = (0xBF800000, 0) := by decide +kernel
/-- R568's example: four lanes packed with one scale, and lane 2 unpacked. -/
theorem test_mxpack :
    (let t := after (.mxpack (v3 7 1 1 1)) (lanesFed [0x3F800000, 0x40400000, 0xC2C80000, 0x3E800000] [] [])
     [0, 1, 2, 3].map (regOf t 10) = [0x7D48, 0x7D54, 0x7DFC, 0x7D38] ∧ t.grp.fpstat = 0x01)
    ∧ gives (.mxunpack (v3 7 1 1)) 0x7DFC = 0xC2C00000 := by decide +kernel
/-- R231's example: the tree of REDUCE and SCAN. -/
theorem test_reduce_scan :
    (let s := lanesFed [0x4B800000, 0x3F800000, 0x3F800000, 0xCB800000] [] []
     (let t := after (.reduce { v3 1 1 0 1 with dst := .s 4 }) s
      t.readS 4 false = (0x3F800000, false) ∧ t.grp.fpstat = 0x01)
     ∧ (let t := after (.scan (v3 1 1 0 1)) s
        [0, 1, 2, 3].map (regOf t 10) = [0x4B800000, 0x4B800000, 0x4B800000, 0x3F800000] ∧ t.grp.fpstat = 0x01)) := by decide +kernel
/-- R220's example: the output and the four state words. -/
theorem test_rand :
    (let s := (lanesFed [0x1234567800000000] [0] []).writeVals 8 .b64 [(0, 0)]
     let t := after (.rand { v3 0 0 with a := .v 6 }) s
     regOf t 10 0 = 0x99998D95 ∧ [6, 7, 8, 9].map (fun r => regOf t r 0) = [0x12345678, 0x12345678, 0x68ACF000, 0xA2B3C091]) := by decide +kernel
/-- By hand: shuffles, votes, ranks, and values of one lane. -/
theorem test_lanes :
    (let s := lanesFed [10, 11, 12, 13] [3, 2, 1, 0] []
     [0, 1, 2, 3].map (regOf (after (.shfl (v3 8 2)) s) 10) = [13, 12, 11, 10]
      ∧ (after (.ballot { v3 0 1 with a := .v 8, dst := .s 4 }) s).readS 4 false = (7, false)
      ∧ (after (.vote { v3 0 1 with a := .v 8, dst := .s 4 }) s).readS 4 false = (0, false)
      ∧ (after (.vote { v3 0 1 1 with a := .v 8, dst := .s 4 }) s).readS 4 false = (1, false)
      ∧ [0, 1, 2, 3].map (regOf (after (.matchl { v3 8 1 with a := .v 9 }) s) 10) = [15, 15, 15, 15]
      ∧ (after (.lanerd { v3 8 2 with dst := .s 4, b := .int 2 }) s).readS 4 false = (12, false)) := by decide +kernel
/-- By hand: the uniform instructions. -/
theorem test_uniform :
    (let s := (vec.writeS 4 false 7).writeS 5 false 9
     (after (.salu ⟨2, 0, .s 3, .s 4, .s 5, .v 0, 0, 0, 0⟩) s).readS 3 false = (16, false)
      ∧ (after (.salu ⟨2, 1, .s 3, .s 4, .s 5, .v 0, 0, 0, 0⟩) s).readS 3 false = (0xFFFFFFFE, false)
      ∧ (after (.scmp ⟨6, 2, .v 0, .s 4, .s 5, .v 0, 0, 0, 0⟩) s).grp.scc = true
      ∧ (after (.ssel ⟨8, 0, .s 3, .s 4, .s 5, .v 0, 0, 0, 0⟩) s).readS 3 false = (9, false)
      ∧ (after (.smov ⟨8, 0, .s 3, .v 0, .v 0, .v 0, 1, 0, 0x80000000⟩) s).readS 3 false = (0x80000000, false)) := by decide +kernel
/-- R45, R47: a core record that firmware has not written holds LROW 0xFF and STATE 0b10, in the image of die 3 for core (2, 1) of
die 5. -/
theorem test_core_record : State.reset.readNat (paOf 3 (127 * 2 ^ 30) + 0x6000000 + (2 * 66 + 1) * 4) 4 = 0xFF02 := by
  decide +kernel

end Sys2Proof.Tests
end

section
/-! SUPPORT. What a write of a uniform register on a vector core does (R136), and an instruction whose effect it is. -/

namespace Sys2Proof.Machine

/-! ### Reading back what the end of an instruction keeps -/

theorem State.keeps.c {s t : State} (h : s.keeps t) : t.core.c = s.core.c := congrArg (fun x => x.core.c) h.1
theorem State.keeps.b {s t : State} (h : s.keeps t) : t.core.b = s.core.b := congrArg (fun x => x.core.b) h.1
theorem State.keeps.cBad {s t : State} (h : s.keeps t) : t.core.cBad = s.core.cBad := congrArg (fun x => x.core.cBad) h.1
theorem State.keeps.kind {s t : State} (h : s.keeps t) : t.kind = s.kind :=
  congrArg CoreId.kind (show t.core.id = s.core.id from congrArg (fun x => x.core.id) h.1)

theorem State.keeps.local {s t : State} (h : s.keeps t) (a : Nat) : t.local a = s.local a := by
  unfold State.local; rw [h.base]

theorem State.keeps.sAddr {s t : State} (h : s.keeps t) (k : Nat) : t.sAddr k = s.sAddr k := by
  have hbase : t.grp.base = s.grp.base := congrArg (fun g => g.base) h.grp
  have hwin : t.grp.win = s.grp.win := congrArg (fun g => g.win) h.grp
  unfold State.sAddr; rw [hbase, hwin]

theorem State.readS_vector {s : State} (h : s.kind = .vector) (k : Nat) (wide : Bool) :
    s.readS k wide =
      if wide then joinPair (s.core.elem (s.local (s.sAddr k))) (s.core.elem (s.local (s.sAddr (k + 1))))
      else ((s.core.elem (s.local (s.sAddr k))).1.setWidth 64, (s.core.elem (s.local (s.sAddr k))).2) := by
  unfold State.readS; rw [h]; rfl

theorem State.keeps.readS_vector {s t : State} (h : s.keeps t) (hv : s.kind = .vector) (k : Nat) (wide : Bool) :
    t.readS k wide = s.readS k wide := by
  rw [State.readS_vector (h.kind.trans hv), State.readS_vector hv]
  simp only [h.elem, h.local, h.sAddr]

theorem State.keeps.restScalar {s t : State} (h : s.keeps t) : t.restScalar = s.restScalar := by
  unfold State.restScalar; rw [h.rest]

/-! ### The elements of a uniform register -/

theorem State.sAddr_mod (s : State) (k : Nat) : s.local (s.sAddr k) % 4 = 0 := by
  unfold State.local State.sAddr; omega

theorem State.sAddr_succ (s : State) (k : Nat) : s.local (s.sAddr (k + 1)) = s.local (s.sAddr k) + 4 := by
  unfold State.local State.sAddr; omega

/-- The element writes, by address, of a clean value to sK, or to the pair from sK. -/
def State.uniformWrites (s : State) (k : Nat) (wide : Bool) (x : BitVec 64) : List (Nat × Word × Bool) :=
  (s.local (s.sAddr k), x.extractLsb' 0 32, false)
    :: if wide then [(s.local (s.sAddr (k + 1)), x.extractLsb' 32 32, false)] else []

theorem State.writeS_vector {s : State} (h : s.kind = .vector) (k : Nat) (wide : Bool) (x : BitVec 64) :
    s.writeS k wide x = s.onCore (·.setElems (s.uniformWrites k wide x)) := by
  unfold State.writeS; rw [h]
  cases wide <;> rfl

theorem State.uniformWrites_mod {s : State} {k : Nat} {wide : Bool} {x : BitVec 64} :
    ∀ w ∈ s.uniformWrites k wide x, w.1 % 4 = 0 := by
  intro w hw
  unfold State.uniformWrites at hw
  obtain rfl | hw := List.mem_cons.mp hw
  · exact s.sAddr_mod k
  · cases wide with
    | false => exact absurd hw List.not_mem_nil
    | true => obtain rfl := List.mem_singleton.mp hw; exact s.sAddr_mod (k + 1)

/-- The elements that a uniform write touches lie within the register, or the pair. -/
theorem State.uniformWrites_outside {s : State} {k a : Nat} {wide : Bool} {x : BitVec 64}
    (ha : ¬ (s.local (s.sAddr k) ≤ a ∧ a < s.local (s.sAddr k) + (if wide then 8 else 4))) :
    ∀ w ∈ s.uniformWrites k wide x, a < w.1 ∨ w.1 + 4 ≤ a := by
  intro w hw
  unfold State.uniformWrites at hw
  obtain rfl | hw := List.mem_cons.mp hw
  · cases wide with
    | false => simp only [Bool.false_eq_true, if_false] at ha; omega
    | true => simp only [if_true] at ha; omega
  · cases wide with
    | false => exact absurd hw List.not_mem_nil
    | true =>
      obtain rfl := List.mem_singleton.mp hw
      simp only [if_true] at ha
      simp only [State.sAddr_succ]
      omega

theorem State.elem_uniformWrites_low {s : State} (wf : Memory.wf Memory.zeros s.core.store = true) (k : Nat) (wide : Bool)
    (x : BitVec 64) :
    (s.core.setElems (s.uniformWrites k wide x)).elem (s.local (s.sAddr k)) = (x.extractLsb' 0 32, false) := by
  refine Core.elem_setElems _ _ _ wf s.uniformWrites_mod (s.local (s.sAddr k), x.extractLsb' 0 32, false) ?_
  cases wide <;> simp [State.uniformWrites, findLast, State.sAddr_succ]

theorem State.elem_uniformWrites_high {s : State} (wf : Memory.wf Memory.zeros s.core.store = true) (k : Nat) (x : BitVec 64) :
    (s.core.setElems (s.uniformWrites k true x)).elem (s.local (s.sAddr (k + 1))) = (x.extractLsb' 32 32, false) :=
  Core.elem_setElems _ _ _ wf s.uniformWrites_mod (s.local (s.sAddr (k + 1)), x.extractLsb' 32 32, false)
    (by simp [State.uniformWrites, findLast])

/-! ### The value that reads back -/

theorem joinPair_halves (x : BitVec 64) : joinPair (x.extractLsb' 0 32, false) (x.extractLsb' 32 32, false) = (x, false) := by
  have hx : (BitVec.ofNat 64 ((x.extractLsb' 0 32).toNat + (x.extractLsb' 32 32).toNat * 2 ^ 32)) = x := by
    apply BitVec.eq_of_toNat_eq
    have := x.isLt
    simp only [BitVec.toNat_ofNat, BitVec.extractLsb'_toNat, Nat.shiftRight_eq_div_pow]
    omega
  unfold joinPair; rw [hx]; rfl

theorem setWidth_extract_low {x : BitVec 64} (h : x.toNat < 2 ^ 32) : (x.extractLsb' 0 32).setWidth 64 = x := by
  apply BitVec.eq_of_toNat_eq
  simp only [BitVec.toNat_setWidth, BitVec.extractLsb'_toNat, Nat.shiftRight_zero]
  omega

theorem low_toNat_lt {w : Nat} (h : w ≤ 32) (x : BitVec 64) : (low w x).toNat < 2 ^ 32 := by
  have hlt : x.toNat % 2 ^ w < 2 ^ w := Nat.mod_lt _ (Nat.two_pow_pos w)
  have hle : 2 ^ w ≤ 2 ^ 32 := Nat.pow_le_pow_right (by decide) h
  unfold low uval
  rw [BitVec.toNat_ofNat]
  exact Nat.lt_of_le_of_lt (Nat.mod_le _ _) (Nat.lt_of_lt_of_le hlt hle)

theorem Ty.width_le_of_not_wide {t : Ty} (h : t.wide = false) : t.width ≤ 32 := by
  revert h; cases t <;> decide

/-- A value of a type that takes one register fills 32 bits (R212). -/
theorem Ty.fill_toNat_lt {t : Ty} (h : t.wide = false) (x : BitVec 64) : (t.fill x).toNat < 2 ^ 32 := by
  unfold Ty.fill
  rw [h]
  split
  · contradiction
  · split
    · exact low_toNat_lt (Nat.le_refl 32) _
    · exact low_toNat_lt (Ty.width_le_of_not_wide h) _

/-! ### The write -/

/-- A uniform write on a vector core changes the core store alone. -/
theorem State.writeS_withStore {s : State} (h : s.kind = .vector) (k : Nat) (wide : Bool) (x : BitVec 64) :
    ∃ a b, s.writeS k wide x = s.withStore a b s.core.mixed := by
  obtain ⟨a, b, e⟩ := Core.setElems_eq (s.uniformWrites k wide x) s.core
  exact ⟨a, b, by rw [State.writeS_vector h, State.onCore, e]; rfl⟩

theorem State.kind_writeS {s : State} (h : s.kind = .vector) (k : Nat) (wide : Bool) (x : BitVec 64) :
    (s.writeS k wide x).kind = .vector := by
  obtain ⟨a, b, e⟩ := State.writeS_withStore h k wide x
  rw [e]; exact h

/-- What a uniform write puts reads back, where a value for one register fits it. -/
theorem State.readS_writeS {s : State} (h : s.kind = .vector) (wf : Memory.wf Memory.zeros s.core.store = true) (k : Nat)
    (wide : Bool) (x : BitVec 64) (hx : wide = false → x.toNat < 2 ^ 32) : (s.writeS k wide x).readS k wide = (x, false) := by
  have hlow := State.elem_uniformWrites_low wf k wide x
  rw [State.readS_vector (State.kind_writeS h k wide x), State.writeS_vector h]
  cases wide with
  | false =>
    show (((s.core.setElems _).elem (s.local (s.sAddr k))).1.setWidth 64, ((s.core.setElems _).elem (s.local (s.sAddr k))).2) = _
    rw [hlow, setWidth_extract_low (hx rfl)]
  | true =>
    show joinPair ((s.core.setElems _).elem (s.local (s.sAddr k))) ((s.core.setElems _).elem (s.local (s.sAddr (k + 1)))) = _
    rw [hlow, State.elem_uniformWrites_high wf k x, joinPair_halves]

theorem State.read_writeS_other {s : State} (h : s.kind = .vector) (wf : Memory.wf Memory.zeros s.core.store = true) {k : Nat}
    {wide : Bool} {x : BitVec 64} {a : Nat}
    (ha : ¬ (s.local (s.sAddr k) ≤ a ∧ a < s.local (s.sAddr k) + (if wide then 8 else 4))) :
    Memory.read Memory.zeros (s.writeS k wide x).core.store a = Memory.read Memory.zeros s.core.store a := by
  rw [State.writeS_vector h]
  exact Core.read_setElems_other _ _ a wf (State.uniformWrites_outside ha)

/-- An instruction on a vector core that writes a uniform register, raises flags and then changes places only. -/
theorem uniformBecomes.of_writeS {s t : State} {i : Instr} {k : Nat} {wide : Bool} {x : BitVec 64} {fl : FpFlags}
    (hok : s.ok) (hv : s.kind = .vector) (hx : wide = false → x.toNat < 2 ^ 32) (he : exec i s = .next t)
    (hk : ((s.writeS k wide x).raise fl).keeps t) : uniformBecomes s i k wide x fl := by
  obtain ⟨-, ⟨wf, -⟩, -⟩ := hok
  obtain ⟨a, b, hstore⟩ := State.writeS_withStore hv k wide x
  have hread : t.readS k wide = (x, false) := (hk.readS_vector (State.kind_writeS hv k wide x) k wide).trans
    (State.readS_writeS hv wf k wide x hx)
  refine ⟨t, he, hread, ?_, ?_, fun _ => ⟨?_, ?_, ?_, fun y hy => ?_⟩, fun h => absurd hv h⟩
  · rw [hk.restScalar, hstore]; rfl
  · rw [hk.2.2, hstore]; rfl
  · rw [hk.c, hstore]; rfl
  · rw [hk.b, hstore]; rfl
  · rw [hk.cBad, hstore]; rfl
  · rw [hk.store]; exact State.read_writeS_other hv wf hy

end Sys2Proof.Machine
end

section
/-! SUPPORT. What an instruction that acts on each active lane does in one state. -/

namespace Sys2Proof.Machine

/-- Marking every word clean keeps which write to a register is the last. -/
theorem findLast_clean {ws : List (Nat × Word)} {n : Nat} {w : Nat × Word} (h : findLast ws (·.1 == n) = some w) :
    findLast (ws.map fun w => (w.1, w.2, false)) (·.1 == n) = some (w.1, w.2, false) := by
  unfold findLast at h ⊢
  rw [← List.map_reverse, List.find?_map]
  exact congrArg (Option.map _) h

/-- An instruction that acts in a state as a per-lane instruction does, with results that may depend on the lane. -/
theorem lanesBecome.of_perLane {s : State} {i : Instr} {us : List Use} {body : Nat → List (BitVec 64) → LaneOut}
    {f : Nat → List (Nat × Word) × FpFlags} (hok : s.ok) (hcl : s.clear i) (hc : s.clean us)
    (he : exec i s = .next (s.perLane i us body))
    (hb : ∀ l ∈ s.active, body l (s.operands us l) = .done ((f l).1.map fun w => (w.1, w.2, false)) (f l).2) :
    lanesBecome s i f := by
  obtain ⟨hval, honly⟩ := s.perLane_done i us body (fun l => ((f l).1.map fun w => (w.1, w.2, false), (f l).2)) hok hcl hc hb
  refine ⟨_, he, fun l hl n w hw => hval l hl n _ (findLast_clean hw), ?_⟩
  simpa only [List.map_map, Function.comp_def] using honly

end Sys2Proof.Machine
end

section
/-! SUPPORT. REDUCE and SCAN (R231, R232, R586): the frame that they share, and the values at the leaves of the tree. -/

namespace Sys2Proof.Machine

/-- The value of a lane's place in the tree (R231): an active lane's operand, and the identity for any other lane. -/
def State.leaf (s : State) (u : Use) (ident : BitVec 64) (l : Nat) : BitVec 64 :=
  if s.active.contains l then nth (s.operands [u] l) 0 else ident

/-- REDUCE is ill formed on a scalar core (R205). -/
theorem State.clear.kind_of_reduce {s : State} {f : V3} (h : s.clear (.reduce f)) : s.kind = .vector := by
  have hill := h.1
  cases hk : s.kind with
  | vector => rfl
  | control | dispatch => simp [illDetail, coreOk, State.ctx, hk] at hill

theorem only_clean {vs : List Src} (h : vs.any (·.2) = false) : (only vs).2 = false := by
  cases vs with
  | nil => rfl
  | cons v vs => exact (Bool.or_eq_false_iff.mp h).1

/-- With no poisoned source the frame of REDUCE and SCAN hands on the votes of the active lanes. -/
theorem State.gather_clean {s : State} {i : Instr} {u : Use} (hcl : s.clear i) (hc : s.clean [u])
    (k : State → List (Nat × List Src) → State) : s.gather i u k = k s (s.votes u) := by
  have hp : (s.votes u).any (fun x => (only x.2).2) = false := by
    unfold State.votes
    rw [List.any_map, List.any_eq_false]
    intro l hl
    simp [only_clean (hc l hl)]
  unfold State.gather
  rw [s.frame_clear i _ hcl]
  simp [hp]

theorem State.votes_isEmpty {s : State} (u : Use) (h : s.active ≠ []) : (s.votes u).isEmpty = false := by
  unfold State.votes
  rw [List.isEmpty_map]
  exact s.active_isEmpty h

/-- The vote of a lane is found under its number where the lane is active. -/
theorem State.find_votes (s : State) (u : Use) (l : Nat) :
    (s.votes u).find? (·.1 == l) = if s.active.contains l then some (l, s.sources [u] l) else none := by
  unfold State.votes
  rw [List.find?_map]
  show (s.active.find? (· == l)).map _ = _
  cases e : s.active.find? (· == l) with
  | none =>
    have hl : l ∉ s.active := fun h => List.find?_eq_none.mp e l h (beq_self_eq_true l)
    simp [hl]
  | some k =>
    have hk := List.find?_some e
    obtain rfl : k = l := eq_of_beq hk
    simp [List.mem_of_find?_eq_some e]

theorem State.laneValues_votes (s : State) (u : Use) (ident : BitVec 64) :
    laneValues [u] (s.votes u) ident = (List.range 32).map (s.leaf u ident) := by
  refine List.map_congr_left fun l _ => ?_
  rw [s.find_votes u l]
  unfold State.leaf
  by_cases h : s.active.contains l = true
  · rw [if_pos h, if_pos h]; rfl
  · rw [if_neg h, if_neg h]

/-- SCAN's result at a lane's place (R232): inclusive, or with bit 4 of the sub-op exclusive. -/
def scanAt (f : V3) (mode : Rm) (xs : List (BitVec 64)) (l : Nat) : BitVec 64 × FpFlags :=
  let op := f.sub.toNat % 16
  let up (n : Nat) := prefixUp (nodeOp op (V3.rty f) mode) xs n 6 0 none 0
  if f.sub.getLsbD 4 then (if l = 0 then (nodeId op (V3.rty f), 0) else up l) else up (l + 1)

/-- REDUCE with no poisoned source and an active lane writes the root of the tree and raises the flags of every node. -/
theorem exec_reduce_clean {f : V3} {s : State} (hcl : s.clear (.reduce f)) (hc : s.clean [f.useA (V3.rty f)])
    (ha : s.active ≠ []) :
    let t := V3.rty f
    let op := f.sub.toNat % 16
    let r := tree (nodeOp op t (Rm.ofCode f.rnd.toNat s.rmCode 0)) 5 ((List.range 32).map (s.leaf (f.useA t) (nodeId op t)))
    exec (.reduce f) s = .next (((s.writeS f.dst.reg t.wide (t.fill r.1)).raise r.2).next) := by
  show execReduce f s = _
  unfold execReduce
  dsimp only
  rw [State.gather_clean hcl hc, s.laneValues_votes, State.votes_isEmpty _ ha]
  rfl

/-- SCAN with no poisoned source acts on each active lane, from the leaves of all lanes. -/
theorem exec_scan_clean {f : V3} {s : State} (hcl : s.clear (.scan f)) (hc : s.clean [f.useA (V3.rty f)]) :
    let t := V3.rty f
    let xs := (List.range 32).map (s.leaf (f.useA t) (nodeId (f.sub.toNat % 16) t))
    exec (.scan f) s = .next (s.perLane (.scan f) [f.useA t] fun l _ =>
      let r := scanAt f (Rm.ofCode f.rnd.toNat s.rmCode 0) xs l
      .done (putVal f.dst.reg t r.1) r.2) := by
  intro t xs
  let r := scanAt f (Rm.ofCode f.rnd.toNat s.rmCode 0) xs
  have hres := s.laneResults_done [f.useA t] (fun l _ => .done (putVal f.dst.reg t (r l).1) (r l).2)
    (fun l => (putVal f.dst.reg t (r l).1, (r l).2)) hc fun _ _ => rfl
  show execScan f s = _
  unfold execScan
  dsimp only
  rw [State.gather_clean hcl hc, s.laneValues_votes, State.perLane, s.frame_clear _ _ hcl, hres, State.votes, List.map_map]
  rfl

end Sys2Proof.Machine
end

section
/-! PROOFS. The statement about REDUCE and SCAN. -/

namespace Sys2Proof.Machine

/-- Settles O11: REDUCE writes a uniform register once, and SCAN acts on each active lane, both from the leaves of the tree. -/
theorem reduceAndScan : Obligations.ReduceAndScan := by
  unfold Obligations.ReduceAndScan
  intro f s t op x xs up hok
  refine ⟨fun hcl hc ha => ?_, fun hcl hc => ?_⟩
  · exact uniformBecomes.of_writeS hok (State.clear.kind_of_reduce hcl) (fun h => Ty.fill_toNat_lt h _)
      (exec_reduce_clean hcl hc ha) (State.keeps_next _ _)
  · refine lanesBecome.of_perLane hok hcl hc (exec_scan_clean hcl hc) fun l _ => ?_
    exact congrArg (LaneOut.done · _) (putVal_eq _ _ _)

end Sys2Proof.Machine
end

section
/-! SUPPORT. What an instruction that acts on each active lane and rounds does (R165, R217 to R220). -/

namespace Sys2Proof.Machine

/-- The stepped RAND state is written back without poison (R220). -/
theorem State.rounding_clean (s : State) (rnd : BitVec 3) (vs : List (BitVec 64)) :
    ((s.rounding rnd vs).2.map fun w => (w.1, w.2.1)).map (fun w => (w.1, w.2, false)) = (s.rounding rnd vs).2 := by
  unfold State.rounding
  split <;> rfl

/-- An instruction whose meaning is `perLaneRounded` has the effect of its body, where that writes clean words. -/
theorem RoundedEffect.of_perLaneRounded {i : Instr} {rnd : BitVec 3} {us : List Use}
    {g : Rm → List (BitVec 64) → List (Nat × Word) × FpFlags} (body : Rm → List (BitVec 64) → List (Nat × Word × Bool) × FpFlags)
    (he : ∀ s, exec i s = .next (s.perLaneRounded i rnd us body))
    (hb : ∀ (s : State) m vs, s.clear i → body m vs = ((g m vs).1.map fun w => (w.1, w.2, false), (g m vs).2)) :
    RoundedEffect i rnd us g := by
  refine LaneEffect.of_perLane (fun s _ vs => let r := s.rounding rnd vs; let out := body r.1 vs; .done (out.1 ++ r.2) out.2)
    (fun s _ => he s) fun s _ vs hcl => ?_
  dsimp only
  rw [hb s _ vs hcl, List.map_append, s.rounding_clean]

/-- An instruction that rounds and writes one value of a type. -/
theorem RoundedEffect.of_outVal {i : Instr} {rnd : BitVec 3} {us : List Use} {n : Nat} {t : Ty}
    {g : Rm → List (BitVec 64) → List (Nat × Word) × FpFlags} (op : Rm → List (BitVec 64) → BitVec 64 × FpFlags)
    (he : ∀ s, exec i s = .next (s.perLaneRounded i rnd us fun m vs => outVal n t (op m vs)))
    (hg : ∀ (s : State) m vs, s.clear i → g m vs = (valueWords n t (op m vs).1, (op m vs).2)) : RoundedEffect i rnd us g := by
  refine RoundedEffect.of_perLaneRounded _ he fun s m vs hcl => ?_
  rw [hg s m vs hcl, outVal, putVal_eq]

end Sys2Proof.Machine
end

section
/-! PROOFS. The statement about floating-point arithmetic. -/

namespace Sys2Proof.Machine

/-- Settles O5: each instruction writes one value, which `rounded` makes of the exact result of its sources. Under SR the stepped RAND
state is written after it (log entry 71). -/
theorem floatArithmetic : Obligations.FloatArithmetic := by
  unfold Obligations.FloatArithmetic
  refine ⟨fun f => ⟨?fadd, ?fmul, ?ffma, ?fdivfix, ?fldexp⟩, fun f => ⟨?faddVi, ?fmulVi, ?ffmaVi⟩⟩
  case fadd => exact .of_outVal (fun m v => fpAdd (V3.nty f) m (nth v 0) (nth v 1)) (fun _ => rfl) fun _ _ _ _ => rfl
  case fmul => exact .of_outVal (fun m v => fpMul (V3.nty f) m (nth v 0) (nth v 1)) (fun _ => rfl) fun _ _ _ _ => rfl
  case ffma => exact .of_outVal (fun m v => fpFma (V3.nty f) m (nth v 0) (nth v 1) (nth v 2)) (fun _ => rfl) fun _ _ _ _ => rfl
  case fdivfix => exact .of_outVal (fun m v => fpDivfix (V3.nty f) m (nth v 0) (nth v 1)) (fun _ => rfl) fun _ _ _ _ => rfl
  case fldexp => exact .of_outVal (fun m v => fpLdexp (V3.nty f) m (nth v 0) (nth v 1)) (fun _ => rfl) fun _ _ _ _ => rfl
  case faddVi =>
    exact .of_outVal (fun m v => fpAdd (VI.nty f) m (nth v 0) (widenImm (VI.nty f) f.imm)) (fun _ => rfl) fun _ _ _ _ => rfl
  case fmulVi =>
    exact .of_outVal (fun m v => fpMul (VI.nty f) m (nth v 0) (widenImm (VI.nty f) f.imm)) (fun _ => rfl) fun _ _ _ _ => rfl
  case ffmaVi =>
    exact .of_outVal (fun m v => fpFma (VI.nty f) m (nth v 0) (nth v 1) (widenImm (VI.nty f) f.imm)) (fun _ => rfl)
      fun _ _ _ _ => rfl

end Sys2Proof.Machine
end

section
/-! SUPPORT. A floating format holds each value in one pattern (R207, R208), and the order of FMIN and FMAX on its values (R530). -/

namespace Sys2Proof.Machine

/-! ### The pattern of a value -/

/-- The fields of a format fill its width (R207). -/
def Fmt.full (f : Fmt) : Prop := f.width = f.fw + f.ew + 1 ∧ 0 < f.ew

theorem Ty.fmt_full (t : Ty) : t.fmt.full := by
  unfold Fmt.full
  cases t <;> decide

/-- The pattern of a value that a format holds (R208), where `decode` gives the value of a pattern. -/
def Fmt.encode (f : Fmt) : Val → Nat
  | .nan _ => f.nanBits
  | .inf s => f.sign s f.infBits
  | .num s m e _ => f.sign s (if m < 2 ^ f.fw then m else m - 2 ^ f.fw + ((e - f.qmin).toNat + 1) * 2 ^ f.fw)

/-- A pattern is its sign, exponent and fraction fields put together. -/
theorem Fmt.sign_fields {f : Fmt} (hf : f.full) {x : Nat} (hx : x < 2 ^ f.width) :
    f.sign (bit x (f.width - 1)) (x % 2 ^ f.fw + bits x (f.fw + f.ew - 1) f.fw * 2 ^ f.fw) = x := by
  obtain ⟨hw, he⟩ := hf
  have hmag : x % 2 ^ f.fw + bits x (f.fw + f.ew - 1) f.fw * 2 ^ f.fw = x % 2 ^ (f.width - 1) := by
    unfold bits
    rw [show f.fw + f.ew - 1 + 1 - f.fw = f.ew by omega, show f.width - 1 = f.fw + f.ew by omega, Nat.pow_add, Nat.mod_mul, Nat.mul_comm]
  have hsign : b2n (bit x (f.width - 1)) = x / 2 ^ (f.width - 1) := by
    have hlt : x / 2 ^ (f.width - 1) < 2 := by
      refine Nat.div_lt_of_lt_mul ?_
      rwa [← Nat.pow_succ, show (f.width - 1).succ = f.width by omega]
    unfold bit
    obtain h | h := Nat.le_one_iff_eq_zero_or_eq_one.mp (Nat.lt_succ_iff.mp hlt)
    all_goals rw [h]; rfl
  unfold Fmt.sign
  rw [hmag, hsign, Nat.mul_comm]
  exact Nat.mod_add_div x _

/-- What the value of a pattern is, by its exponent and fraction fields (R208, R209). -/
theorem Fmt.decode_cases (f : Fmt) (x : Nat) :
    let s := bit x (f.width - 1)
    let e := bits x (f.fw + f.ew - 1) f.fw
    (f.decode x).isNan = true
      ∨ (f.decode x = .inf s ∧ e = 2 ^ f.ew - 1 ∧ x % 2 ^ f.fw = 0)
      ∨ (f.decode x = .num s (x % 2 ^ f.fw) f.qmin false ∧ e = 0)
      ∨ f.decode x = .num s (2 ^ f.fw + x % 2 ^ f.fw) (f.qmin + (e : Int) - 1) false ∧ e ≠ 0 := by
  intro s e
  unfold Fmt.decode
  dsimp only
  split
  next hinf =>
    split
    next hzero => exact .inr (.inl ⟨rfl, eq_of_beq (Bool.and_eq_true_iff.mp hinf).2, eq_of_beq hzero⟩)
    next => exact .inl rfl
  next =>
    split
    next => exact .inl rfl
    next =>
      split
      next he => exact .inr (.inr (.inl ⟨rfl, eq_of_beq he⟩))
      next he => exact .inr (.inr (.inr ⟨rfl, by simpa using he⟩))

theorem Fmt.encode_subnormal (f : Fmt) (s : Bool) {m : Nat} (hm : m < 2 ^ f.fw) (e : Int) : f.encode (.num s m e false) = f.sign s m := by
  show f.sign s (if m < 2 ^ f.fw then _ else _) = _
  rw [if_pos hm]

theorem Fmt.encode_normal (f : Fmt) (s : Bool) (m : Nat) {e : Nat} (he : e ≠ 0) :
    f.encode (.num s (2 ^ f.fw + m) (f.qmin + (e : Int) - 1) false) = f.sign s (m + e * 2 ^ f.fw) := by
  show f.sign s (if _ < 2 ^ f.fw then _ else _) = _
  rw [if_neg (by omega), Nat.add_sub_cancel_left, show (f.qmin + (e : Int) - 1 - f.qmin).toNat + 1 = e by omega]

/-- Every pattern but those of NaN is that of its value. -/
theorem Fmt.encode_decode {f : Fmt} (hf : f.full) {x : Nat} (hx : x < 2 ^ f.width) (hn : (f.decode x).isNan = false) :
    f.encode (f.decode x) = x := by
  have hfields := Fmt.sign_fields hf hx
  obtain hnan | ⟨hd, he, hm⟩ | ⟨hd, he⟩ | ⟨hd, he⟩ := f.decode_cases x
  · rw [hn] at hnan; cases hnan
  · rw [he, hm, Nat.zero_add] at hfields
    rw [hd]; exact hfields
  · rw [he, Nat.zero_mul, Nat.add_zero] at hfields
    rw [hd, f.encode_subnormal _ (Nat.mod_lt _ (Nat.two_pow_pos _)), hfields]
  · rw [hd, f.encode_normal _ _ he, hfields]

/-! ### Values that a format holds -/

/-- A finite value as a format holds it: a significand of at most one bit more than the fraction, normal above the lowest exponent. -/
def Fmt.held (f : Fmt) : Val → Prop
  | .num _ m e st => st = false ∧ f.qmin ≤ e ∧ m < 2 ^ (f.fw + 1) ∧ (f.qmin < e → 2 ^ f.fw ≤ m)
  | _ => True

theorem Fmt.held_decode (f : Fmt) (x : Nat) : f.held (f.decode x) := by
  have hm : x % 2 ^ f.fw < 2 ^ f.fw := Nat.mod_lt _ (Nat.two_pow_pos _)
  have hp : 2 ^ (f.fw + 1) = 2 * 2 ^ f.fw := Nat.pow_succ'
  obtain hnan | ⟨hd, -⟩ | ⟨hd, -⟩ | ⟨hd, he⟩ := f.decode_cases x
  · cases hv : f.decode x with
    | nan s => trivial
    | inf s => trivial
    | num s m e st => rw [hv] at hnan; cases hnan
  · rw [hd]; trivial
  · rw [hd]; exact ⟨rfl, Int.le_refl _, by omega, fun h => absurd h (Int.lt_irrefl _)⟩
  · rw [hd]; exact ⟨rfl, by omega, by omega, fun _ => Nat.le_add_right _ _⟩

/-- Held numbers of one magnitude have one exponent: a higher one would make its normal significand too large. -/
theorem Fmt.held_exp_le {f : Fmt} {sa sb : Bool} {ma mb : Nat} {ea eb : Int} (ha : f.held (.num sa ma ea false))
    (hb : f.held (.num sb mb eb false)) (h : ma * 2 ^ (ea - min ea eb).toNat = mb * 2 ^ (eb - min ea eb).toNat) : ea ≤ eb := by
  obtain ⟨-, -, -, hnorm⟩ := ha
  obtain ⟨-, hqb, hltb, -⟩ := hb
  refine Int.not_lt.mp fun hlt => ?_
  have hea : (ea - min ea eb).toNat = (ea - eb - 1).toNat + 1 := by omega
  have heb : (eb - min ea eb).toNat = 0 := by omega
  rw [hea, heb, Nat.pow_zero, Nat.mul_one] at h
  have hge : 2 ^ f.fw * 2 ≤ ma * 2 ^ ((ea - eb - 1).toNat + 1) :=
    Nat.mul_le_mul (hnorm (by omega)) (by rw [Nat.pow_succ]; exact Nat.le_mul_of_pos_left 2 (Nat.two_pow_pos _))
  rw [Nat.pow_succ] at hltb
  omega

theorem natAbs_scaled (s : Bool) (m : Nat) (e0 e : Int) : (scaled s m e0 e).natAbs = m * 2 ^ (e0 - e).toNat := by
  unfold scaled
  cases s
  · exact Int.natAbs_natCast _
  · exact (Int.natAbs_neg _).trans (Int.natAbs_natCast _)

theorem scaled_zero (s : Bool) (e0 e : Int) : scaled s 0 e0 e = 0 := by
  rw [← Int.natAbs_eq_zero, natAbs_scaled, Nat.zero_mul]

theorem scaled_neg_iff {m : Nat} (hm : m ≠ 0) (s : Bool) (e0 e : Int) : scaled s m e0 e < 0 ↔ s = true := by
  have hpos : 0 < m * 2 ^ (e0 - e).toNat := Nat.mul_pos (Nat.pos_of_ne_zero hm) (Nat.two_pow_pos _)
  unfold scaled
  cases s <;> simp only [Bool.false_eq_true, if_false, if_true, iff_false, iff_true] <;> omega

/-! ### The order of FMIN and FMAX -/

/-- The order of FMIN and FMAX: that of the values, with −0 below +0 (R530). -/
def Val.below (x y : Val) : Bool := ltVal x y || (x.isZero && y.isZero && x.neg && !y.neg)

theorem Val.isZero_iff {x : Val} : x.isZero = true ↔ ∃ s e, x = .num s 0 e false := by
  refine ⟨fun h => ?_, ?_⟩
  · unfold Val.isZero at h
    split at h
    · exact ⟨_, _, rfl⟩
    · cases h
  · rintro ⟨s, e, rfl⟩; rfl

theorem ltVal_asymm {x y : Val} (h : ltVal x y = true) : ltVal y x = false := by
  cases x with
  | nan s => cases h
  | inf s =>
    cases y with
    | nan s' => cases h
    | inf s' => cases s <;> cases s' <;> trivial
    | num s' m e st => exact congrArg (!·) h
  | num s m e st =>
    cases y with
    | nan s' => cases h
    | inf s' => simpa [ltVal] using h
    | num s' m' e' st' =>
      simp only [ltVal, decide_eq_true_eq, decide_eq_false_iff_not, Int.min_comm e'] at h ⊢
      omega

theorem ltVal_of_isZero {x y : Val} (hx : x.isZero = true) (hy : y.isZero = true) : ltVal x y = false := by
  obtain ⟨s, e, rfl⟩ := Val.isZero_iff.mp hx
  obtain ⟨s', e', rfl⟩ := Val.isZero_iff.mp hy
  simp [ltVal, scaled_zero]

theorem Val.below_asymm {x y : Val} (h : x.below y = true) : y.below x = false := by
  unfold Val.below at h ⊢
  cases hlt : ltVal x y with
  | true =>
    rw [ltVal_asymm hlt, Bool.false_or]
    cases hx : x.isZero with
    | false => simp
    | true =>
      cases hy : y.isZero with
      | false => simp
      | true => rw [ltVal_of_isZero hx hy] at hlt; cases hlt
  | false =>
    rw [hlt, Bool.false_or] at h
    simp only [Bool.and_eq_true] at h
    obtain ⟨⟨⟨hx, hy⟩, hneg⟩, -⟩ := h
    rw [ltVal_of_isZero hy hx, hneg]; simp

/-- Held numbers that the order leaves level are the same. -/
theorem Fmt.eq_of_not_below {f : Fmt} {x y : Val} (hx : f.held x) (hy : f.held y) (nx : x.isNan = false) (ny : y.isNan = false)
    (hxy : x.below y = false) (hyx : y.below x = false) : x = y := by
  obtain ⟨hlt, hz⟩ := Bool.or_eq_false_iff.mp hxy
  obtain ⟨hgt, hz'⟩ := Bool.or_eq_false_iff.mp hyx
  cases x with
  | nan s => cases nx
  | inf s =>
    cases y with
    | nan s' => cases ny
    | inf s' => cases s <;> cases s' <;> trivial
    | num s' m e st => cases s <;> trivial
  | num s m e st =>
    cases y with
    | nan s' => cases ny
    | inf s' => cases s' <;> trivial
    | num s' m' e' st' =>
      obtain rfl : st = false := hx.1
      obtain rfl : st' = false := hy.1
      have heq : scaled s m e (min e e') = scaled s' m' e' (min e e') := by
        simp only [ltVal, decide_eq_false_iff_not, Int.min_comm e'] at hlt hgt
        omega
      have habs : m * 2 ^ (e - min e e').toNat = m' * 2 ^ (e' - min e e').toNat := by
        rw [← natAbs_scaled s, ← natAbs_scaled s', heq]
      obtain rfl : e = e' := Int.le_antisymm (Fmt.held_exp_le hx hy habs)
        (Fmt.held_exp_le hy hx (by rw [Int.min_comm]; exact habs.symm))
      obtain rfl : m = m' := Nat.eq_of_mul_eq_mul_right (Nat.two_pow_pos _) habs
      have hs : s = s' := by
        by_cases hm : m = 0
        · subst hm
          cases s <;> cases s' <;> trivial
        · rw [Bool.eq_iff_iff, ← scaled_neg_iff hm s e (min e e), heq, scaled_neg_iff hm]
      rw [hs]

/-! ### Sources bit for bit -/

theorem Ty.val_of_floating {t : Ty} (h : t.floating = true) (x : BitVec 64) : t.val x = t.fmt.decode (x.toNat % 2 ^ t.fmt.width) := by
  cases t <;> simp [Ty.floating] at h <;> rfl

theorem Ty.width_of_floating {t : Ty} (h : t.floating = true) : t.width = t.fmt.width := by
  cases t <;> simp [Ty.floating] at h <;> rfl

/-- Two sources of a floating type with one value, no NaN, have the same bits. -/
theorem Ty.low_eq_of_val_eq {t : Ty} (h : t.floating = true) {a b : BitVec 64} (hn : (t.val a).isNan = false) (he : t.val a = t.val b) :
    low t.width a = low t.width b := by
  have hb : (t.val b).isNan = false := he ▸ hn
  have hlt (x : BitVec 64) : x.toNat % 2 ^ t.fmt.width < 2 ^ t.fmt.width := Nat.mod_lt _ (Nat.two_pow_pos _)
  rw [Ty.val_of_floating h] at hn hb
  rw [Ty.val_of_floating h, Ty.val_of_floating h] at he
  have hbits : a.toNat % 2 ^ t.fmt.width = b.toNat % 2 ^ t.fmt.width := by
    rw [← Fmt.encode_decode t.fmt_full (hlt a) hn, he, Fmt.encode_decode t.fmt_full (hlt b) hb]
  unfold low uval
  rw [Ty.width_of_floating h, hbits]

/-- FMIN and FMAX of two numbers copy the first source where the order puts it first, and the other one otherwise (R530). -/
theorem fpMinMax_numbers {t : Ty} (h : t.floating = true) (greater : Bool) {a b : BitVec 64} (ha : (t.val a).isNan = false)
    (hb : (t.val b).isNan = false) :
    (fpMinMax greater t a b).1 =
      if (if greater then (t.val b).below (t.val a) else (t.val a).below (t.val b)) then low t.width a else low t.width b := by
  have hr : (fpMinMax greater t a b).1 =
      if (t.val a).below (t.val b) != greater then low t.width a
      else if (t.val b).below (t.val a) then low t.width (if greater then a else b) else low t.width (if greater then b else a) := by
    unfold fpMinMax Val.below
    simp only [ha, hb, Bool.false_and, Bool.false_eq_true, if_false, Bool.and_comm (t.val b).isZero]
  rw [hr]
  cases hab : (t.val a).below (t.val b) with
  | true => rw [Val.below_asymm hab]; cases greater <;> rfl
  | false =>
    cases hba : (t.val b).below (t.val a) with
    | true => cases greater <;> rfl
    | false =>
      have hbits : low t.width a = low t.width b := by
        refine Ty.low_eq_of_val_eq h ha (Fmt.eq_of_not_below (f := t.fmt) ?_ ?_ ha hb hab hba)
        · rw [Ty.val_of_floating h]; exact t.fmt.held_decode _
        · rw [Ty.val_of_floating h]; exact t.fmt.held_decode _
      cases greater <;> simp [hbits]

/-- FMIN and FMAX (R530) with the NaN cases: a number beside a NaN, and the canonical NaN for two. -/
theorem fpMinMax_eq {t : Ty} (h : t.floating = true) (greater : Bool) (a b : BitVec 64) :
    fpMinMax greater t a b =
      (if (t.val a).isNan ∧ (t.val b).isNan then t.nan
        else if (t.val a).isNan then low t.width b else if (t.val b).isNan then low t.width a
        else if (if greater then (t.val b).below (t.val a) else (t.val a).below (t.val b)) then low t.width a else low t.width b,
        if (t.val a).isSnan ∨ (t.val b).isSnan then fNV else 0) := by
  refine Prod.ext ?_ ?_
  · cases ha : (t.val a).isNan with
    | true => cases hb : (t.val b).isNan <;> simp [fpMinMax, ha, hb]
    | false =>
      cases hb : (t.val b).isNan with
      | true => simp [fpMinMax, ha, hb]
      | false => simpa [ha, hb] using fpMinMax_numbers h greater ha hb
  · cases ha : (t.val a).isSnan <;> cases hb : (t.val b).isSnan <;> simp [fpMinMax, snanFlag, flagIf, ha, hb]

end Sys2Proof.Machine
end

section
/-! SUPPORT. The types that FMIN and FMAX accept (R528), and what FCMP and its twin give (R532). -/

namespace Sys2Proof.Machine

/-! ### Types that pass the checks -/

theorem Enc.ty_of_failing {c : CheckCtx} {e : Enc} (h : e.failing c = none) : e.ty = true := by
  unfold Enc.failing at h
  cases hty : e.ty with
  | true => rfl
  | false => cases hs : e.sub <;> simp [hty, hs] at h

/-- An instruction other than a pair that no check of R203 stops has an encoding that fails none. -/
theorem failing_of_illDetail {c : CheckCtx} {i : Instr} (hp : ∀ x y, i ≠ .pairedSlot x y) (h : illDetail c i = none) :
    (encOf c i).failing c = none := by
  unfold illDetail at h
  split at h
  next => cases h
  next => exact absurd rfl (hp _ _)
  next =>
    split at h
    · cases h
    · exact Option.map_eq_none_iff.mp h

/-- A V3 type that the checks accept among floating types is one. -/
theorem V3.floating_of_types {f : V3} {tys : List Ty} (htys : ∀ t ∈ tys, t.floating = true)
    (h : (numTy f.ty.toNat).any (fun t => tys.contains t) = true) : (V3.nty f).floating = true := by
  unfold V3.nty
  cases ht : numTy f.ty.toNat with
  | none => rfl
  | some t =>
    rw [ht] at h
    exact htys t (List.contains_iff_mem.mp h)

theorem tysFp_floating : ∀ t ∈ tysFp, t.floating = true := by decide

/-- The checks let a two-source arithmetic instruction of R528 through with a floating type alone. -/
theorem State.clear.floating {s : State} {i : Instr} {f : V3} {rnd : Nat} (h : s.clear i) (hp : ∀ x y, i ≠ .pairedSlot x y)
    (he : encOf s.ctx i = encBin f (numTy f.ty.toNat) tysFp rnd) : (V3.nty f).floating = true := by
  have hty := Enc.ty_of_failing (failing_of_illDetail hp h.1)
  rw [he] at hty
  exact V3.floating_of_types tysFp_floating hty

/-! ### FCMP -/

/-- The predicate of a sub-op between two values (R532). -/
def fcmpHolds (sub : Nat) (x y : Val) : Bool :=
  match sub with
  | 0 => eqVal x y | 1 => !eqVal x y | 2 => ltVal x y | 3 => ltVal x y || eqVal x y
  | 4 => ltVal y x | 5 => ltVal y x || eqVal x y | 6 => !x.isNan && !y.isNan | _ => x.isNan || y.isNan

/-- NV of a comparison (R532): any NaN raises it in an ordered one, a signalling NaN in every other. -/
def fcmpNv (sub : Nat) (x y : Val) : FpFlags :=
  if 2 ≤ sub ∧ sub ≤ 5 then (if x.isNan ∨ y.isNan then fNV else 0) else if x.isSnan ∨ y.isSnan then fNV else 0

theorem fpCmp_eq (sub : Nat) (t : Ty) (a b : BitVec 64) :
    fpCmp sub t a b = (fcmpHolds sub (t.val a) (t.val b), fcmpNv sub (t.val a) (t.val b)) := by
  have hnan : flagIf ((t.val a).isNan || (t.val b).isNan) fNV = if (t.val a).isNan ∨ (t.val b).isNan then fNV else 0 := by
    simp [flagIf]
  have hsnan : snanFlag [t.val a, t.val b] = if (t.val a).isSnan ∨ (t.val b).isSnan then fNV else 0 := by
    simp [snanFlag, flagIf]
  unfold fpCmp fcmpHolds fcmpNv
  rw [← hnan, ← hsnan]
  match sub with
  | 0 | 1 | 2 | 3 | 4 | 5 => rfl
  | 6 => exact Prod.ext (Bool.not_or _ _) rfl
  | n + 7 => rw [if_neg (by omega)]; rfl

/-- What FCMP and its twin give a lane: one word for the predicate, and NV. -/
theorem done_fpCmp (n sub : Nat) (t : Ty) (a b : BitVec 64) :
    LaneOut.done (put32 n (b2n (fpCmp sub t a b).1)) (fpCmp sub t a b).2 =
      .done ([(n, if fcmpHolds sub (t.val a) (t.val b) then (1 : Word) else 0)].map fun w => (w.1, w.2, false))
        (fcmpNv sub (t.val a) (t.val b)) := by
  rw [fpCmp_eq]
  cases fcmpHolds sub (t.val a) (t.val b) <;> rfl

end Sys2Proof.Machine
end

section
/-! PROOFS. The statement about floating-point minimum, maximum, comparison, class and integral rounding. -/

namespace Sys2Proof.Machine

/-- Settles O6: FMIN and FMAX by the order of held values, FCMP by the predicate of its sub-op, FCLASS and FRINT by the
kinds of value. Under SR the stepped RAND state is written after the result of FRINT (log entry 71). -/
theorem floatCompareClass : Obligations.FloatCompareClass := by
  unfold Obligations.FloatCompareClass
  refine ⟨fun f => ⟨?fmin, ?fmax, ?fcmp, ?fclass, ?frint⟩, fun f => ?fcmpVi⟩
  case fmin =>
    refine .of_outVal (fun _ v => fpMinMax false (V3.nty f) (nth v 0) (nth v 1)) (fun _ => rfl) fun s _ v hcl => ?_
    rw [fpMinMax_eq (hcl.floating (by simp) rfl)]; rfl
  case fmax =>
    refine .of_outVal (fun _ v => fpMinMax true (V3.nty f) (nth v 0) (nth v 1)) (fun _ => rfl) fun s _ v hcl => ?_
    rw [fpMinMax_eq (hcl.floating (by simp) rfl)]; rfl
  case fcmp => exact .of_perLane _ (fun _ _ => rfl) fun _ _ _ _ => done_fpCmp _ _ _ _ _
  case fclass =>
    refine .of_perLane _ (fun _ _ => rfl) fun s _ v _ => ?_
    dsimp only
    unfold fpClass
    cases (V3.nty f).val (nth v 0) with
    | nan s => cases s <;> rfl
    | inf s => cases s <;> rfl
    | num s m e st =>
      by_cases hm : m = 0
      · simp only [if_pos hm]; cases s <;> rfl
      · by_cases hlt : m < 2 ^ (V3.nty f).fmt.fw
        · simp only [if_neg hm, if_pos hlt]; cases s <;> rfl
        · simp only [if_neg hm, if_neg hlt]; cases s <;> rfl
  case frint =>
    refine .of_outVal (fun m v => fpRint (V3.nty f) m (nth v 0)) (fun _ => rfl) fun s m v _ => ?_
    unfold fpRint
    cases (V3.nty f).val (nth v 0) with
    | nan s => cases s <;> rfl
    | inf s => rfl
    | num s m e st => rfl
  case fcmpVi => exact .of_perLane _ (fun _ _ => rfl) fun _ _ _ _ => done_fpCmp _ _ _ _ _

end Sys2Proof.Machine
end

section
/-! SUPPORT. The family RoundTrip as one statement, and what a word that decodes says of its instruction. -/

namespace Sys2Proof

/-- The family RoundTrip, constructor by constructor. -/
theorem Laws.roundTrip (i : Instr) : Laws.RoundTrip.Statement i :=
  match i with
  | .ill detail half => Laws.RoundTrip.ill detail half
  | .nop f => Laws.RoundTrip.nop f
  | .bra f => Laws.RoundTrip.bra f
  | .brx f => Laws.RoundTrip.brx f
  | .call f => Laws.RoundTrip.call f
  | .ret f => Laws.RoundTrip.ret f
  | .ifc f => Laws.RoundTrip.ifc f
  | .elsec f => Laws.RoundTrip.elsec f
  | .endif f => Laws.RoundTrip.endif f
  | .loop f => Laws.RoundTrip.loop f
  | .breakif f => Laws.RoundTrip.breakif f
  | .contif f => Laws.RoundTrip.contif f
  | .endloop f => Laws.RoundTrip.endloop f
  | .reconv f => Laws.RoundTrip.reconv f
  | .exit f => Laws.RoundTrip.exit f
  | .iadd f => Laws.RoundTrip.iadd f
  | .iaddc f => Laws.RoundTrip.iaddc f
  | .isub f => Laws.RoundTrip.isub f
  | .ineg f => Laws.RoundTrip.ineg f
  | .iabs f => Laws.RoundTrip.iabs f
  | .imul f => Laws.RoundTrip.imul f
  | .imulh f => Laws.RoundTrip.imulh f
  | .imad f => Laws.RoundTrip.imad f
  | .imadw f => Laws.RoundTrip.imadw f
  | .imin f => Laws.RoundTrip.imin f
  | .imax f => Laws.RoundTrip.imax f
  | .icmp f => Laws.RoundTrip.icmp f
  | .idot4 f => Laws.RoundTrip.idot4 f
  | .sel f => Laws.RoundTrip.sel f
  | .lea f => Laws.RoundTrip.lea f
  | .fadd f => Laws.RoundTrip.fadd f
  | .fmul f => Laws.RoundTrip.fmul f
  | .ffma f => Laws.RoundTrip.ffma f
  | .fmin f => Laws.RoundTrip.fmin f
  | .fmax f => Laws.RoundTrip.fmax f
  | .fcmp f => Laws.RoundTrip.fcmp f
  | .fclass f => Laws.RoundTrip.fclass f
  | .frint f => Laws.RoundTrip.frint f
  | .fldexp f => Laws.RoundTrip.fldexp f
  | .fdot2 f => Laws.RoundTrip.fdot2 f
  | .fdivfix f => Laws.RoundTrip.fdivfix f
  | .cvt f => Laws.RoundTrip.cvt f
  | .cvtef f => Laws.RoundTrip.cvtef f
  | .mxpack f => Laws.RoundTrip.mxpack f
  | .mxunpack f => Laws.RoundTrip.mxunpack f
  | .frcp f => Laws.RoundTrip.frcp f
  | .frsq f => Laws.RoundTrip.frsq f
  | .fsqrt f => Laws.RoundTrip.fsqrt f
  | .fexp2 f => Laws.RoundTrip.fexp2 f
  | .flog2 f => Laws.RoundTrip.flog2 f
  | .fsin f => Laws.RoundTrip.fsin f
  | .fcos f => Laws.RoundTrip.fcos f
  | .ftanh f => Laws.RoundTrip.ftanh f
  | .and f => Laws.RoundTrip.and f
  | .andn f => Laws.RoundTrip.andn f
  | .or f => Laws.RoundTrip.or f
  | .orn f => Laws.RoundTrip.orn f
  | .xor f => Laws.RoundTrip.xor f
  | .not f => Laws.RoundTrip.not f
  | .shl f => Laws.RoundTrip.shl f
  | .shr f => Laws.RoundTrip.shr f
  | .shra f => Laws.RoundTrip.shra f
  | .rotl f => Laws.RoundTrip.rotl f
  | .bfe f => Laws.RoundTrip.bfe f
  | .bfi f => Laws.RoundTrip.bfi f
  | .brev f => Laws.RoundTrip.brev f
  | .clz f => Laws.RoundTrip.clz f
  | .ffs f => Laws.RoundTrip.ffs f
  | .popc f => Laws.RoundTrip.popc f
  | .movi f => Laws.RoundTrip.movi f
  | .iaddVi f => Laws.RoundTrip.iaddVi f
  | .isubVi f => Laws.RoundTrip.isubVi f
  | .imulVi f => Laws.RoundTrip.imulVi f
  | .imadVi f => Laws.RoundTrip.imadVi f
  | .iminVi f => Laws.RoundTrip.iminVi f
  | .imaxVi f => Laws.RoundTrip.imaxVi f
  | .icmpVi f => Laws.RoundTrip.icmpVi f
  | .andVi f => Laws.RoundTrip.andVi f
  | .orVi f => Laws.RoundTrip.orVi f
  | .xorVi f => Laws.RoundTrip.xorVi f
  | .faddVi f => Laws.RoundTrip.faddVi f
  | .fmulVi f => Laws.RoundTrip.fmulVi f
  | .ffmaVi f => Laws.RoundTrip.ffmaVi f
  | .fcmpVi f => Laws.RoundTrip.fcmpVi f
  | .mov f => Laws.RoundTrip.mov f
  | .shfl f => Laws.RoundTrip.shfl f
  | .vote f => Laws.RoundTrip.vote f
  | .ballot f => Laws.RoundTrip.ballot f
  | .matchl f => Laws.RoundTrip.matchl f
  | .reduce f => Laws.RoundTrip.reduce f
  | .scan f => Laws.RoundTrip.scan f
  | .lanerd f => Laws.RoundTrip.lanerd f
  | .lanewr f => Laws.RoundTrip.lanewr f
  | .rand f => Laws.RoundTrip.rand f
  | .salu f => Laws.RoundTrip.salu f
  | .scmp f => Laws.RoundTrip.scmp f
  | .ssel f => Laws.RoundTrip.ssel f
  | .smov f => Laws.RoundTrip.smov f
  | .ld f => Laws.RoundTrip.ld f
  | .st f => Laws.RoundTrip.st f
  | .ldu f => Laws.RoundTrip.ldu f
  | .ldl f => Laws.RoundTrip.ldl f
  | .stl f => Laws.RoundTrip.stl f
  | .ldp f => Laws.RoundTrip.ldp f
  | .stp f => Laws.RoundTrip.stp f
  | .atom f => Laws.RoundTrip.atom f
  | .atoml f => Laws.RoundTrip.atoml f
  | .atomp f => Laws.RoundTrip.atomp f
  | .pref f => Laws.RoundTrip.pref f
  | .renew f => Laws.RoundTrip.renew f
  | .expire f => Laws.RoundTrip.expire f
  | .flush f => Laws.RoundTrip.flush f
  | .spill f => Laws.RoundTrip.spill f
  | .fill f => Laws.RoundTrip.fill f
  | .xcpy f => Laws.RoundTrip.xcpy f
  | .xgather f => Laws.RoundTrip.xgather f
  | .xscatter f => Laws.RoundTrip.xscatter f
  | .xreduce f => Laws.RoundTrip.xreduce f
  | .xfill f => Laws.RoundTrip.xfill f
  | .xpeer f => Laws.RoundTrip.xpeer f
  | .xcancel f => Laws.RoundTrip.xcancel f
  | .tiledef f => Laws.RoundTrip.tiledef f
  | .tilerel f => Laws.RoundTrip.tilerel f
  | .tileq f => Laws.RoundTrip.tileq f
  | .psend f => Laws.RoundTrip.psend f
  | .precv f => Laws.RoundTrip.precv f
  | .barinit f => Laws.RoundTrip.barinit f
  | .bararv f => Laws.RoundTrip.bararv f
  | .barwait f => Laws.RoundTrip.barwait f
  | .bartest f => Laws.RoundTrip.bartest f
  | .bartx f => Laws.RoundTrip.bartx f
  | .waitcnt f => Laws.RoundTrip.waitcnt f
  | .fence f => Laws.RoundTrip.fence f
  | .clkadv f => Laws.RoundTrip.clkadv f
  | .spinhint f => Laws.RoundTrip.spinhint f
  | .sleep f => Laws.RoundTrip.sleep f
  | .waitt f => Laws.RoundTrip.waitt f
  | .semsig f => Laws.RoundTrip.semsig f
  | .semwait f => Laws.RoundTrip.semwait f
  | .movsp f => Laws.RoundTrip.movsp f
  | .setsp f => Laws.RoundTrip.setsp f
  | .mma f => Laws.RoundTrip.mma f
  | .acczero f => Laws.RoundTrip.acczero f
  | .accload f => Laws.RoundTrip.accload f
  | .accdrain f => Laws.RoundTrip.accdrain f
  | .mmawait f => Laws.RoundTrip.mmawait f
  | .mmab f => Laws.RoundTrip.mmab f
  | .rast f => Laws.RoundTrip.rast f
  | .binput f => Laws.RoundTrip.binput f
  | .binget f => Laws.RoundTrip.binget f
  | .trav f => Laws.RoundTrip.trav f
  | .travnext f => Laws.RoundTrip.travnext f
  | .regroup f => Laws.RoundTrip.regroup f
  | .repack f => Laws.RoundTrip.repack f
  | .tex f => Laws.RoundTrip.tex f
  | .texq f => Laws.RoundTrip.texq f
  | .launch f => Laws.RoundTrip.launch f
  | .trap f => Laws.RoundTrip.trap f
  | .syscall f => Laws.RoundTrip.syscall f
  | .bkpt f => Laws.RoundTrip.bkpt f
  | .eret f => Laws.RoundTrip.eret f
  | .idem f => Laws.RoundTrip.idem f
  | .progress f => Laws.RoundTrip.progress f
  | .pairedSlot x y => Laws.RoundTrip.pairedSlot x y
  | .routeEntryTaken core n => Laws.RoundTrip.routeEntryTaken core n
  | .parentClockLoss m => Laws.RoundTrip.parentClockLoss m
  | .rerootParentAssign orphans => Laws.RoundTrip.rerootParentAssign orphans
  | .rateWordSwitch die east => Laws.RoundTrip.rateWordSwitch die east
  | .gtcstepApply die east => Laws.RoundTrip.gtcstepApply die east
  | .waittDeadline g core => Laws.RoundTrip.waittDeadline g core
  | .launchStartTime core grid => Laws.RoundTrip.launchStartTime core grid
  | .idleTick core => Laws.RoundTrip.idleTick core
  | .issueGrant core => Laws.RoundTrip.issueGrant core
  | .teamEnd core t => Laws.RoundTrip.teamEnd core t
  | .gridEnd grid => Laws.RoundTrip.gridEnd grid
  | .regroupJoin core g => Laws.RoundTrip.regroupJoin core g
  | .benchContribution m => Laws.RoundTrip.benchContribution m
  | .retryResend m => Laws.RoundTrip.retryResend m
  | .walkComplete m => Laws.RoundTrip.walkComplete m
  | .pageServiceResolve m => Laws.RoundTrip.pageServiceResolve m
  | .tinvDone die => Laws.RoundTrip.tinvDone die
  | .read m => Laws.RoundTrip.read m
  | .renewq m => Laws.RoundTrip.renewq m
  | .dataMsg m => Laws.RoundTrip.dataMsg m
  | .extend m => Laws.RoundTrip.extend m
  | .cpbk m => Laws.RoundTrip.cpbk m
  | .cpbkack m => Laws.RoundTrip.cpbkack m
  | .atomq m => Laws.RoundTrip.atomq m
  | .atoma m => Laws.RoundTrip.atoma m
  | .drop m => Laws.RoundTrip.drop m
  | .dropack m => Laws.RoundTrip.dropack m
  | .hold m => Laws.RoundTrip.hold m
  | .holdack m => Laws.RoundTrip.holdack m
  | .recall m => Laws.RoundTrip.recall m
  | .yield m => Laws.RoundTrip.yield m
  | .unhold m => Laws.RoundTrip.unhold m
  | .prep m => Laws.RoundTrip.prep m
  | .prepack m => Laws.RoundTrip.prepack m
  | .commit m => Laws.RoundTrip.commit m
  | .commitack m => Laws.RoundTrip.commitack m
  | .accept m => Laws.RoundTrip.accept m
  | .apply m => Laws.RoundTrip.apply m
  | .retry m => Laws.RoundTrip.retry m
  | .rebaseStart die ep => Laws.RoundTrip.rebaseStart die ep
  | .sweepDone die => Laws.RoundTrip.sweepDone die
  | .arrive m => Laws.RoundTrip.arrive m
  | .arriveReply m => Laws.RoundTrip.arriveReply m
  | .barwaitReply m => Laws.RoundTrip.barwaitReply m
  | .leave m => Laws.RoundTrip.leave m
  | .copyComplete core op => Laws.RoundTrip.copyComplete core op
  | .packetArrive m => Laws.RoundTrip.packetArrive m
  | .mmaStart die quad => Laws.RoundTrip.mmaStart die quad
  | .macroOpComplete die quad => Laws.RoundTrip.macroOpComplete die quad
  | .binnerPacketArrive m => Laws.RoundTrip.binnerPacketArrive m
  | .binnerCloseArrive m => Laws.RoundTrip.binnerCloseArrive m
  | .unitResultWrite core op => Laws.RoundTrip.unitResultWrite core op
  | .fragmentStart die => Laws.RoundTrip.fragmentStart die
  | .launchRequest die m => Laws.RoundTrip.launchRequest die m
  | .launchLeadRequest die m => Laws.RoundTrip.launchLeadRequest die m
  | .launchReply m => Laws.RoundTrip.launchReply m
  | .queueDepart die => Laws.RoundTrip.queueDepart die
  | .launchDistribute die grid => Laws.RoundTrip.launchDistribute die grid
  | .semaphoreNotice m => Laws.RoundTrip.semaphoreNotice m
  | .teamPlacement die => Laws.RoundTrip.teamPlacement die
  | .startMessage core grid => Laws.RoundTrip.startMessage core grid
  | .preemptDecision t mode => Laws.RoundTrip.preemptDecision t mode
  | .drainBudgetExpiry t => Laws.RoundTrip.drainBudgetExpiry t
  | .quiesceDeadline t => Laws.RoundTrip.quiesceDeadline t
  | .saveCapture t => Laws.RoundTrip.saveCapture t
  | .contextTransferDone t => Laws.RoundTrip.contextTransferDone t
  | .restore t core => Laws.RoundTrip.restore t core
  | .peerAccessArrive m => Laws.RoundTrip.peerAccessArrive m
  | .peerAccessReply m => Laws.RoundTrip.peerAccessReply m
  | .xpeerWriteArrive m => Laws.RoundTrip.xpeerWriteArrive m
  | .semwaitReadReply m => Laws.RoundTrip.semwaitReadReply m
  | .semwaitTimeout core g => Laws.RoundTrip.semwaitTimeout core g
  | .sleepDone core g => Laws.RoundTrip.sleepDone core g
  | .loaderDone die => Laws.RoundTrip.loaderDone die
  | .pllLockTimeout die => Laws.RoundTrip.pllLockTimeout die
  | .routeEntryWrite core n entry => Laws.RoundTrip.routeEntryWrite core n entry
  | .routerLinkFailure m => Laws.RoundTrip.routerLinkFailure m
  | .routeRebuildDone core entries => Laws.RoundTrip.routeRebuildDone core entries
  | .undeliverableResponse m => Laws.RoundTrip.undeliverableResponse m
  | .meshFlitCrcError m => Laws.RoundTrip.meshFlitCrcError m
  | .panelMapUpdate cells => Laws.RoundTrip.panelMapUpdate cells
  | .powerOn => Laws.RoundTrip.powerOn
  | .fwdcfgGo die value => Laws.RoundTrip.fwdcfgGo die value
  | .pllLock die => Laws.RoundTrip.pllLock die
  | .rerootResume => Laws.RoundTrip.rerootResume
  | .fwdcmdDone die value => Laws.RoundTrip.fwdcmdDone die value
  | .gtcrateWrite die value => Laws.RoundTrip.gtcrateWrite die value
  | .gtcslewWrite die value => Laws.RoundTrip.gtcslewWrite die value
  | .slewComplete => Laws.RoundTrip.slewComplete
  | .gtcstepWrite die value => Laws.RoundTrip.gtcstepWrite die value
  | .ptpFrameReceive f => Laws.RoundTrip.ptpFrameReceive f
  | .announceTimeout => Laws.RoundTrip.announceTimeout
  | .handlerEntry core g => Laws.RoundTrip.handlerEntry core g
  | .parityError core hit => Laws.RoundTrip.parityError core hit
  | .coreStoreScrub core found => Laws.RoundTrip.coreStoreScrub core found
  | .hbmScrub found => Laws.RoundTrip.hbmScrub found
  | .pagereplyWrite die value => Laws.RoundTrip.pagereplyWrite die value
  | .tinvGo die value => Laws.RoundTrip.tinvGo die value
  | .brbcmdStart die value => Laws.RoundTrip.brbcmdStart die value
  | .coreRetentionWake core => Laws.RoundTrip.coreRetentionWake core
  | .rplcmdTeardown die value => Laws.RoundTrip.rplcmdTeardown die value
  | .rplcmdClearDown die value => Laws.RoundTrip.rplcmdClearDown die value
  | .controlMessage die m => Laws.RoundTrip.controlMessage die m
  | .dispatchFailover die => Laws.RoundTrip.dispatchFailover die
  | .pmreqGo die value => Laws.RoundTrip.pmreqGo die value
  | .pmreqResume die value => Laws.RoundTrip.pmreqResume die value
  | .pmreplyWrite die value => Laws.RoundTrip.pmreplyWrite die value
  | .screplyWrite die value => Laws.RoundTrip.screplyWrite die value
  | .windowRead m => Laws.RoundTrip.windowRead m
  | .windowWrite m => Laws.RoundTrip.windowWrite m
  | .windowAtomicAdd m => Laws.RoundTrip.windowAtomicAdd m
  | .windowUpstreamReply m => Laws.RoundTrip.windowUpstreamReply m
  | .controlLaneLoss lane => Laws.RoundTrip.controlLaneLoss lane
  | .pqpostWrite port addr => Laws.RoundTrip.pqpostWrite port addr
  | .peerCopyData f => Laws.RoundTrip.peerCopyData f
  | .peerCopyEnd f => Laws.RoundTrip.peerCopyEnd f
  | .peerSemaphoreAdd f => Laws.RoundTrip.peerSemaphoreAdd f
  | .peerAcknowledgement f => Laws.RoundTrip.peerAcknowledgement f
  | .peerRefusal f => Laws.RoundTrip.peerRefusal f
  | .peerResendTimeout port post => Laws.RoundTrip.peerResendTimeout port post
  | .pldmBaseDiscovery => Laws.RoundTrip.pldmBaseDiscovery
  | .pldmSensorRead sensor => Laws.RoundTrip.pldmSensorRead sensor
  | .pldmFirmwareUpdate image => Laws.RoundTrip.pldmFirmwareUpdate image
  | .getVersion => Laws.RoundTrip.getVersion
  | .getCapabilities => Laws.RoundTrip.getCapabilities
  | .negotiateAlgorithms ecdsa sha => Laws.RoundTrip.negotiateAlgorithms ecdsa sha
  | .getDigests => Laws.RoundTrip.getDigests
  | .getCertificate => Laws.RoundTrip.getCertificate
  | .challenge nonce => Laws.RoundTrip.challenge nonce
  | .getMeasurements index => Laws.RoundTrip.getMeasurements index
  | .loaderGo master die value => Laws.RoundTrip.loaderGo master die value
  | .accessTableWrite w => Laws.RoundTrip.accessTableWrite w
  | .registerWrite w => Laws.RoundTrip.registerWrite w
  | .externalReferenceChange die valid => Laws.RoundTrip.externalReferenceChange die valid
  | .ptpMessageTransmit port kind => Laws.RoundTrip.ptpMessageTransmit port kind
  | .peerPortLinkUp port => Laws.RoundTrip.peerPortLinkUp port
  | .peerFrameDiscard port => Laws.RoundTrip.peerFrameDiscard port
  | .dieMapOut die => Laws.RoundTrip.dieMapOut die
  | .coreRetentionEntry core => Laws.RoundTrip.coreRetentionEntry core

/-- The opcode and the bits below it of a word of one slot are those of its instruction, but for opcode 0x00 (R193). -/
theorem encodeOp_of_decodeOp {op w : Nat} {i : Instr} (hw : w < 2 ^ 88) (h : decodeOp op w = some i) :
    i = .ill 2 false ∧ op = 0 ∨ encodeOp i = some (op, w) := by
  simp only [decodeOp, decodeRow0, decodeRow1, decodeRow2, decodeRow3, decodeRow4, decodeRow5, decodeRow6, decodeRow7, decodeRow8,
    decodeRow9, decodeRowA, decodeRowB, decodeRowC, decodeRowD] at h
  split at h <;> try cases h
  all_goals
    split at h <;> cases h
  all_goals
    simp only [encodeOp, putV3_getV3 hw, putVI_getVI hw, putU_getU hw, putM_getM hw, putX_getX hw, putB_getB hw, putMX_getMX hw, putG_getG hw,
      putS_getS hw, Option.some.injEq, Prod.mk.injEq, and_true, true_and, reduceCtorEq, or_false]
    omega

theorem encode_of_encodeOp {i : Instr} {op n : Nat} (h : encodeOp i = some (op, n)) : encode i = some (false, op * 2 ^ 88 + n) := by
  unfold encode
  split
  · cases h
  · rw [h]; rfl

/-- A paired slot that decodes is the word of its pair (R179, R200). -/
theorem encode_of_decode_pair {w : Nat} {i : Instr} (hw : w < 2 ^ 96) (h : decode true w = .ok i) : encode i = some (true, w) := by
  simp only [decode, if_true] at h
  split at h
  next x y hx hy =>
    cases h
    rw [encode, putHalf_getHalf (Nat.mod_lt _ (by decide)) hx, putHalf_getHalf (Nat.mod_lt _ (by decide)) hy]
    congr 2
    omega
  next => cases h
  next => cases h

/-- A slot of its own that decodes is the word of its instruction, but for opcode 0x00 (R193). -/
theorem encode_of_decode_single {w : Nat} {i : Instr} (hw : w < 2 ^ 96) (h : decode false w = .ok i) :
    i = .ill 2 false ∧ w / 2 ^ 88 = 0 ∨ encode i = some (false, w) := by
  simp only [decode, Bool.false_eq_true, if_false] at h
  split at h
  next hi =>
    cases h
    obtain ⟨rfl, hop⟩ | he := encodeOp_of_decodeOp (Nat.mod_lt _ (by decide)) hi
    · exact .inl ⟨rfl, by omega⟩
    · refine .inr ((encode_of_encodeOp he).trans ?_)
      congr 2
      omega
  next => cases h

end Sys2Proof
end

section
/-! PROOFS. The statement about decoding and encoding. -/

namespace Sys2Proof

/-- Settles O58: forward by the family RoundTrip, backward by the opcode of the word or by its two halves. -/
theorem decodeEncode : Obligations.DecodeEncode := by
  unfold Obligations.DecodeEncode
  refine ⟨fun i => Laws.roundTrip i, fun i p w hw h => ?_⟩
  cases p with
  | true => exact .inr (encode_of_decode_pair hw h)
  | false =>
    obtain ⟨hi, hz⟩ | he := encode_of_decode_single hw h
    · exact .inl ⟨hi, rfl, hz⟩
    · exact .inr he

end Sys2Proof
end

section
/-! PROOFS. The tier 1 statements: the machine after reset, its invariant, words of the encodings, and the step of a decoded slot. -/

namespace Sys2Proof.Machine

/-- Every die has its reset values at reset. -/
theorem State.reset_die (d : Nat) : State.reset.die d = { num := d } := rfl

theorem State.reset_region (d : Nat) (e : Bool) : State.reset.region d e = {} := by
  unfold State.region
  cases e <;> rfl

/-- The reset rights to the first target, master by master (R464). -/
theorem Die.rights_reset : ∀ m < 20, Die.rights {} 0 m =
    (if m = 0 then 0b0111 else if m = 1 then 0b0011 else if m = 2 then 0b0001 else if m = 3 then 0 else 0b0011) := by decide

/-- Settles O55: each die and region is the record of reset values. -/
theorem resetState : Obligations.ResetState := by
  unfold Obligations.ResetState
  refine ⟨fun d => ⟨rfl, rfl, rfl, rfl, rfl, rfl, ?_, fun e => ?_⟩, fun d => ⟨rfl, fun m hm => ?_⟩, ?_⟩
  · show (State.reset.dieAbsent d || true) = true
    exact Bool.or_true _
  · rw [State.reset_region]; decide
  · exact Die.rights_reset m hm
  · decide

/-- Settles O56: at reset nothing is listed, and the core in focus holds its reset registers. -/
theorem resetInvariant : Obligations.ResetInvariant := by
  unfold Obligations.ResetInvariant State.ok Core.ok Team.ok Group.ok
  decide

/-- Settles O60: each word is one closed number, which decodes by evaluation. -/
theorem decodeWords : Obligations.DecodeWords := by
  unfold Obligations.DecodeWords
  decide

/-! ### The step of a decoded slot -/

/-- Where the line at the issue PC can be fetched without a trap, the fetch gives the instruction that its slot decodes to (R157 to R160). -/
theorem State.fetch_line {s : State} {bs : List Byte} {i : Instr} (hm : s.missing [lineOf s.pc.toNat] = []) (ht : s.entryTrap = none)
    (hf : (s.onGrp fun g => { g with entering := false }).fetchLine (lineOf s.pc.toNat) = .line bs) (hr : lineReserved bs = 0)
    (hd : decode (linePair bs (s.pc.toNat % 8)) (lineSlot bs (s.pc.toNat % 8)) = .ok i) :
    s.fetch = (some i, { (s.onGrp fun g => { g with entering := false }).dropHeld [lineOf s.pc.toNat] with
      fetched := ⟨lineRunEnd bs (s.pc.toNat % 8)⟩ }) := by
  have hi : slotInstr bs (s.pc.toNat % 8) = i := by
    unfold slotInstr
    rw [if_neg (by simp [hr]), hd]
  unfold State.fetch
  simp only [hm, ht, hf, hi, List.isEmpty_nil, Bool.not_true, Bool.false_eq_true, if_false]

/-- The slot of a core whose issue slot a group holds is that group's. -/
theorem State.issue_slot {s : State} {c : CoreId} {g : GroupId} (h : (s.focusCore c).core.slot = some g) :
    s.issue c = ((s.focusCore c).focusGroup g).fetch := by
  unfold State.issue
  dsimp only
  rw [h]

/-- Where no event, arrival or input comes first, the schedule says what moves. -/
theorem State.pick_scheduled {s : State} (ha : s.agenda.any (fun m => urgent m && s.canReach m) = false)
    (hr : s.arrived.any s.canReach = false) (hw : s.waitingInput = none) : s.pick = s.scheduled := by
  unfold State.pick
  rw [List.findIdx?_eq_none_iff.mpr (by simpa using ha), List.findIdx?_eq_none_iff.mpr (by simpa using hr), hw]

/-- A slot that the schedule names. -/
theorem State.scheduled_issue {s : State} {c : CoreId} {r : List Turn} (h : s.sched = .issue c :: r)
    (hc : s.clocked (CoreId.die c) = true) : s.scheduled = ({ s with sched := r } : State).issue c := by
  unfold State.scheduled
  rw [h]
  exact if_pos hc

/-- Without a schedule, and where no message can be delivered, a slot of the core that has stood back longest is next. -/
theorem State.scheduled_default {s : State} {x : Core} (h : s.sched = []) (hn : ∀ k < s.agenda.length, s.deliverable k = false)
    (hb : s.beat = false) (hi : canIssue x = true) (hx : s.allCores.reverse.find? s.moves = some x) :
    s.scheduled = ({ s with beat := true } : State).issue x.id := by
  have hnone : (List.range s.agenda.length).find? s.deliverable = none := by
    rw [List.find?_eq_none]
    intro k hk
    simp [hn k (List.mem_range.mp hk)]
  unfold State.scheduled State.default
  rw [h, hnone, hb, hx]
  exact if_pos hi

/-- Settles O59: the schedule, or its default, gives the core its slot, and the fetch gives the decoded instruction. -/
theorem stepRunsDecodedInstruction : Obligations.StepRunsDecodedInstruction := by
  unfold Obligations.StepRunsDecodedInstruction
  intro s s' c g bs i s0 line slot s1 ha hr hw hs hslot hm ht hf hres hd
  have hissue : s.scheduled = s'.issue c := by
    obtain ⟨r, hsched, hc, rfl⟩ | ⟨x, hsched, hn, hb, rfl, hi, hx, rfl⟩ := hs
    · exact State.scheduled_issue hsched hc
    · exact State.scheduled_default hsched hn hb hi hx
  unfold step
  rw [State.pick_scheduled ha hr hw, hissue, State.issue_slot hslot, State.fetch_line hm ht hf hres hd]

end Sys2Proof.Machine
end

section
/-! SUPPORT. Integers of a width as bit vectors, and the bits of the numbers that the integer and bit operations give (R211, R545, R591). -/

namespace Sys2Proof.Machine

theorem Ty.width_le (t : Ty) : t.width ≤ 64 := by cases t <;> decide
theorem Ty.width_pos (t : Ty) : 0 < t.width := by cases t <;> decide

theorem uval_eq (w : Nat) (x : BitVec 64) : uval w x = (x.setWidth w).toNat := (BitVec.toNat_setWidth _ _).symm

theorem sval_eq (w : Nat) (x : BitVec 64) : sval w x = (x.setWidth w).toInt := by
  unfold sval
  rw [uval_eq, BitVec.toInt_eq_toNat_cond]
  push_cast
  rfl

/-- The wrapped integer is a bit vector of the width. -/
theorem wrap_eq {w : Nat} (h : w ≤ 64) (n : Int) : wrap w n = (BitVec.ofInt w n).setWidth 64 := by
  apply BitVec.eq_of_toNat_eq
  have hlt : (BitVec.ofInt w n).toNat < 2 ^ w := (BitVec.ofInt w n).isLt
  have hle : 2 ^ w ≤ 2 ^ 64 := Nat.pow_le_pow_right (by decide) h
  unfold wrap
  rw [BitVec.toNat_setWidth, BitVec.toNat_ofInt, BitVec.toNat_ofNat]
  push_cast
  rfl

theorem low_eq {w : Nat} (x : BitVec 64) : low w x = (x.setWidth w).setWidth 64 := by
  apply BitVec.eq_of_toNat_eq
  unfold low
  rw [uval_eq, BitVec.toNat_ofNat, ← BitVec.toNat_setWidth]

/-- The integer of a type, wrapped, is the bits that it came from. -/
theorem wrap_int (t : Ty) (x : BitVec 64) : wrap t.width (t.int x) = low t.width x := by
  rw [wrap_eq t.width_le, low_eq]
  congr 1
  unfold Ty.int
  split
  · rw [sval_eq, BitVec.ofInt_toInt]
  · rw [uval_eq, BitVec.ofInt_natCast, BitVec.ofNat_toNat, BitVec.setWidth_eq]

theorem getLsbD_low (w : Nat) (x : BitVec 64) (k : Nat) : (low w x).getLsbD k = (decide (k < w) && x.getLsbD k) := by
  rw [low_eq, BitVec.getLsbD_setWidth, BitVec.getLsbD_setWidth]
  by_cases hk : k < 64
  · simp [hk]
  · simp [hk, BitVec.getLsbD_of_ge x k (by omega)]

theorem getLsbD_ofNat_lt {n k : Nat} (h : k < 64) : (BitVec.ofNat 64 n).getLsbD k = n.testBit k := by
  rw [BitVec.getLsbD_ofNat]; simp [h]

theorem testBit_uval (w : Nat) (x : BitVec 64) (k : Nat) : (uval w x).testBit k = (decide (k < w) && x.getLsbD k) := by
  rw [uval, Nat.testBit_mod_two_pow]; rfl

/-! ### Numbers given bit by bit -/

/-- A branch whose condition is stated another way. -/
theorem ite_of_iff {p q : Prop} [Decidable p] [Decidable q] (h : p ↔ q) {α : Type} (a b : α) : (if p then a else b) = if q then a else b :=
  ite_congr (propext h) (fun _ => rfl) fun _ => rfl

theorem twice_add_mul_two_pow (b c w : Nat) : b * 2 ^ (w + 1) + c * 2 ^ w = (2 * b + c) * 2 ^ w := by
  rw [Nat.pow_succ, Nat.add_mul, Nat.mul_comm 2 b, Nat.mul_assoc, Nat.mul_comm 2]

theorem testBit_foldr_bits (p : Nat → Bool) (w k : Nat) (b : Nat) :
    ((List.range w).foldr (fun k n => n + b2n (p k) * 2 ^ k) (b * 2 ^ w)).testBit k = if k < w then p k else b.testBit (k - w) := by
  induction w generalizing b with
  | zero => simp
  | succ w ih =>
    rw [List.range_succ, List.foldr_append, List.foldr_cons, List.foldr_nil]
    rw [twice_add_mul_two_pow, ih]
    by_cases h : k < w
    · simp [h, Nat.lt_succ_of_lt h]
    · by_cases e : k = w
      · subst e
        cases p k <;> simp [b2n]
      · have h1 : ¬ k < w + 1 := by omega
        rw [if_neg h, if_neg h1, show k - w = (k - (w + 1)) + 1 by omega, Nat.testBit_succ]
        congr 1
        cases p w <;> simp [b2n]; omega

/-- The bits of a number given bit by bit. -/
theorem getLsbD_bitsOf {w : Nat} (h : w ≤ 64) (p : Nat → Bool) (k : Nat) : (bitsOf w p).getLsbD k = (decide (k < w) && p k) := by
  have e := testBit_foldr_bits p w k 0
  rw [Nat.zero_mul] at e
  unfold bitsOf
  rw [BitVec.getLsbD_ofNat, e]
  by_cases hk : k < w
  · simp [hk, Nat.lt_of_lt_of_le hk h]
  · simp [hk]

/-- A 64-bit number with no bit from `w` on is the number of its bits. -/
theorem eq_bitsOf {w : Nat} (h : w ≤ 64) {x : BitVec 64} {p : Nat → Bool} (hp : ∀ k < 64, x.getLsbD k = (decide (k < w) && p k)) :
    x = bitsOf w p :=
  BitVec.eq_of_getLsbD_eq fun k hk => by rw [getLsbD_bitsOf h, hp k hk]

theorem low_eq_bitsOf {w : Nat} (h : w ≤ 64) (x : BitVec 64) : low w x = bitsOf w fun k => x.getLsbD k :=
  eq_bitsOf h fun k _ => getLsbD_low w x k

/-! ### Shifts, rotation and bit fields (R591, R499 to R501) -/

theorem bitShl_eq (t : Ty) (a b : BitVec 64) :
    bitShl t a b = bitsOf t.width fun k => decide (uval 32 b % t.width ≤ k) && a.getLsbD (k - uval 32 b % t.width) := by
  refine eq_bitsOf t.width_le fun k hk => ?_
  unfold bitShl shiftBy
  generalize uval 32 b % t.width = n
  rw [getLsbD_low, getLsbD_ofNat_lt hk, Nat.testBit_mul_two_pow, testBit_uval]
  by_cases hw : k < t.width
  · simp [hw, show k - n < t.width by omega]
  · simp [hw]

theorem bitShr_eq (t : Ty) (a b : BitVec 64) :
    bitShr t a b = bitsOf t.width fun k => decide (k + uval 32 b % t.width < t.width) && a.getLsbD (k + uval 32 b % t.width) := by
  refine eq_bitsOf t.width_le fun k hk => ?_
  unfold bitShr shiftBy
  generalize uval 32 b % t.width = n
  rw [getLsbD_ofNat_lt hk, Nat.testBit_div_two_pow, testBit_uval]
  by_cases hw : k + n < t.width
  · simp [hw, show k < t.width by omega]
  · simp [hw]

theorem bitShra_eq (t : Ty) (a b : BitVec 64) :
    bitShra t a b = bitsOf t.width fun k => a.getLsbD (min (k + uval 32 b % t.width) (t.width - 1)) := by
  refine eq_bitsOf t.width_le fun k hk => ?_
  unfold bitShra shiftBy
  generalize uval 32 b % t.width = n
  have hpos := t.width_pos
  have hle := t.width_le
  have hdiv : sval t.width a / (2 : Int) ^ n = (a.setWidth t.width).toInt >>> n := by
    rw [sval_eq, Int.shiftRight_eq_div_pow]; push_cast; rfl
  rw [hdiv, wrap_eq hle, ← BitVec.toInt_sshiftRight, BitVec.ofInt_toInt, BitVec.getLsbD_setWidth,
    BitVec.getLsbD_sshiftRight, BitVec.msb_eq_getLsbD_last, BitVec.getLsbD_setWidth, BitVec.getLsbD_setWidth]
  by_cases hw : k < t.width
  · by_cases hn : n + k < t.width
    · simp [hk, hw, Nat.add_comm n k ▸ hn, Nat.add_comm n k, show min (k + n) (t.width - 1) = k + n by omega]
    · simp [hk, hw, hn, show t.width - 1 < t.width by omega, show min (k + n) (t.width - 1) = t.width - 1 by omega]
  · simp [hw]

theorem bitRotl_eq (t : Ty) (a b : BitVec 64) :
    bitRotl t a b = bitsOf t.width fun k => a.getLsbD ((k + t.width - uval 32 b % t.width) % t.width) := by
  refine eq_bitsOf t.width_le fun k hk => ?_
  have hpos := t.width_pos
  have hle := t.width_le
  have hn : uval 32 b % t.width < t.width := Nat.mod_lt _ hpos
  unfold bitRotl shiftBy rotateLeft
  dsimp only
  rw [Nat.mod_mod]
  generalize uval 32 b % t.width = n at *
  generalize t.width = w at *
  have hu : uval w a < 2 ^ w := Nat.mod_lt _ (Nat.two_pow_pos w)
  have hlow : uval w a / 2 ^ (w - n) < 2 ^ n := by
    rw [Nat.div_lt_iff_lt_mul (Nat.two_pow_pos _), ← Nat.pow_add, show n + (w - n) = w by omega]; exact hu
  have hhigh : uval w a * 2 ^ n % 2 ^ w = uval (w - n) a * 2 ^ n := by
    rw [show 2 ^ w = 2 ^ (w - n) * 2 ^ n by rw [← Nat.pow_add, show w - n + n = w by omega], Nat.mul_mod_mul_right]
    unfold uval
    rw [Nat.mod_mod_of_dvd _ (Nat.pow_dvd_pow 2 (by omega))]
  rw [hhigh, Nat.mul_comm (uval (w - n) a), Nat.two_pow_add_eq_or_of_lt hlow, getLsbD_ofNat_lt hk, Nat.testBit_or, Nat.testBit_two_pow_mul,
    Nat.testBit_div_two_pow, testBit_uval, testBit_uval]
  by_cases hw : k < w
  · by_cases hkn : n ≤ k
    · have e : (k + w - n) % w = k - n := by rw [show k + w - n = k - n + w by omega, Nat.add_mod_right, Nat.mod_eq_of_lt (by omega)]
      rw [e, decide_eq_true hw, decide_eq_true hkn, decide_eq_true (show k - n < w - n by omega), decide_eq_false (show ¬ k + (w - n) < w by omega)]
      simp
    · have e : (k + w - n) % w = k + (w - n) := by rw [Nat.mod_eq_of_lt (by omega)]; omega
      rw [e, decide_eq_true hw, decide_eq_false hkn, decide_eq_true (show k + (w - n) < w by omega)]
      simp
  · rw [decide_eq_false hw, decide_eq_false (show ¬ k + (w - n) < w by omega), decide_eq_false (show ¬ k - n < w - n by omega)]
    simp

/-- The reversal of the first `m` bits, shifted to the top of `w`. -/
theorem foldl_reversed (x : BitVec 64) (w m : Nat) (h : m ≤ w) :
    ∃ n, (List.range m).foldl (fun n k => n + b2n (x.getLsbD k) * 2 ^ (w - 1 - k)) 0 = n * 2 ^ (w - m)
      ∧ ∀ j, n.testBit j = (decide (j < m) && x.getLsbD (m - 1 - j)) := by
  induction m with
  | zero => exact ⟨0, by simp, fun j => by simp⟩
  | succ m ih =>
    obtain ⟨n, hn, hbits⟩ := ih (by omega)
    refine ⟨2 * n + b2n (x.getLsbD m), ?_, fun j => ?_⟩
    · rw [List.range_succ, List.foldl_append, hn, List.foldl_cons, List.foldl_nil, show w - m = w - (m + 1) + 1 by omega,
        show w - 1 - m = w - (m + 1) by omega]
      exact twice_add_mul_two_pow n _ _
    · cases j with
      | zero => cases h : x.getLsbD m <;> simp [b2n, h]
      | succ j =>
        have hhalf : (2 * n + b2n (x.getLsbD m)) / 2 = n := by cases x.getLsbD m <;> simp [b2n]; omega
        rw [Nat.testBit_succ, hhalf, hbits, show m + 1 - 1 - (j + 1) = m - 1 - j by omega]
        simp

theorem reverseBits_eq (t : Ty) (a : BitVec 64) : reverseBits t.width a = bitsOf t.width fun k => a.getLsbD (t.width - 1 - k) := by
  refine eq_bitsOf t.width_le fun k hk => ?_
  obtain ⟨n, hn, hbits⟩ := foldl_reversed a t.width t.width (Nat.le_refl _)
  unfold reverseBits
  rw [getLsbD_ofNat_lt hk, hn, Nat.sub_self, Nat.pow_zero, Nat.mul_one, hbits]

/-- Bit `j` of the source of a field, which goes on without end (R499). -/
def fieldBit (t : Ty) (a : BitVec 64) (j : Nat) : Bool := if j < t.width then a.getLsbD j else t.signed && a.getLsbD (t.width - 1)

/-- The source of a field in as many bits as an offset and a width can name. -/
def fieldSource (t : Ty) (a : BitVec 64) : BitVec 320 :=
  if t.signed then (a.setWidth t.width).signExtend 320 else (a.setWidth t.width).setWidth 320

theorem getLsbD_fieldSource (t : Ty) (a : BitVec 64) {j : Nat} (h : j < 320) : (fieldSource t a).getLsbD j = fieldBit t a j := by
  have hpos := t.width_pos
  unfold fieldSource fieldBit
  cases t.signed
  · simp [h]
  · by_cases hj : j < t.width
    · simp only [if_true, BitVec.getLsbD_signExtend, BitVec.getLsbD_setWidth, decide_eq_true h, decide_eq_true hj, if_pos hj, Bool.true_and]
    · simp only [if_true, BitVec.getLsbD_signExtend, BitVec.msb_eq_getLsbD_last, BitVec.getLsbD_setWidth, decide_eq_true h, if_neg hj,
        decide_eq_true (show t.width - 1 < t.width by omega), Bool.true_and]

theorem int_two_pow_ne_zero (n : Nat) : (2 : Int) ^ n ≠ 0 := Int.ne_of_gt (Int.pow_pos (by decide))

theorem toInt_emod {n : Nat} (x : BitVec n) : x.toInt.emod ((2 : Int) ^ n) = (x.toNat : Int) := by
  have h := congrArg BitVec.toNat (BitVec.ofInt_toInt (x := x))
  rw [BitVec.toNat_ofInt, Int.natCast_pow] at h
  rw [← h]
  exact (Int.toNat_of_nonneg (Int.emod_nonneg _ (int_two_pow_ne_zero n))).symm

theorem int_emod_fieldSource (t : Ty) (a : BitVec 64) : (t.int a).emod ((2 : Int) ^ 320) = ((fieldSource t a).toNat : Int) := by
  have hle : t.width ≤ 320 := Nat.le_trans t.width_le (by decide)
  unfold Ty.int fieldSource
  cases t.signed
  · have hlt : (a.setWidth t.width).toNat < 2 ^ 320 := Nat.lt_of_lt_of_le (a.setWidth t.width).isLt (Nat.pow_le_pow_right (by decide) hle)
    simp only [Bool.false_eq_true, if_false]
    rw [uval_eq, BitVec.toNat_setWidth_of_le hle]
    exact Int.emod_eq_of_lt (Int.natCast_nonneg _) (by exact_mod_cast hlt)
  · simp only [if_true]
    rw [sval_eq, ← BitVec.toInt_signExtend_of_le hle, toInt_emod]

/-- A field of an integer is that of its residue, where the modulus covers the field. -/
theorem ediv_emod_of_emod {z : Int} {x m o n : Nat} (h : z.emod ((2 : Int) ^ m) = (x : Int)) (hle : o + n ≤ m) :
    (z / (2 : Int) ^ o).emod ((2 : Int) ^ n) = ((x / 2 ^ o % 2 ^ n : Nat) : Int) := by
  have hz : z = x + 2 ^ o * (2 ^ n * (2 ^ (m - o - n) * (z / 2 ^ m))) := by
    rw [← h, ← Int.mul_assoc ((2 : Int) ^ n), ← Int.pow_add, ← Int.mul_assoc, ← Int.pow_add, show o + (n + (m - o - n)) = m by omega]
    exact (Int.emod_add_mul_ediv z _).symm
  rw [hz, Int.add_mul_ediv_left _ _ (int_two_pow_ne_zero o), Int.natCast_emod, Int.natCast_ediv, Int.natCast_pow, Int.natCast_pow]
  exact Int.add_mul_emod_self_left _ _ _

/-- The field that BFE takes, before its sign is judged. -/
def fieldNat (t : Ty) (a : BitVec 64) (o n : Nat) : Nat := (fieldSource t a).toNat / 2 ^ o % 2 ^ n

theorem testBit_fieldNat (t : Ty) (a : BitVec 64) {o n : Nat} (h : o + n ≤ 320) (k : Nat) :
    (fieldNat t a o n).testBit k = (decide (k < n) && fieldBit t a (o + k)) := by
  unfold fieldNat
  rw [Nat.testBit_mod_two_pow, Nat.testBit_div_two_pow]
  by_cases hk : k < n
  · rw [decide_eq_true hk, Bool.true_and, Bool.true_and, ← getLsbD_fieldSource t a (show o + k < 320 by omega)]
    rw [Nat.add_comm k o]; rfl
  · rw [decide_eq_false hk]; rfl

theorem getLsbD_wrap_natCast {w : Nat} (h : w ≤ 64) (m k : Nat) (hk : k < 64) :
    (wrap w (m : Int)).getLsbD k = (decide (k < w) && m.testBit k) := by
  rw [wrap_eq h, BitVec.ofInt_natCast, BitVec.getLsbD_setWidth, BitVec.getLsbD_ofNat]
  simp [hk]

theorem wrap_add_pow (w : Nat) (z : Int) : wrap w (z + (2 : Int) ^ w) = wrap w z := by
  unfold wrap
  rw [show (z + (2 : Int) ^ w).emod ((2 : Int) ^ w) = z.emod ((2 : Int) ^ w) from Int.add_emod_right z _]

/-- A negative field of `n` bits fills the bits above it. -/
theorem getLsbD_wrap_sub_pow {w n f : Nat} (h : w ≤ 64) (hn : n ≤ w) (hf : f < 2 ^ n) (k : Nat) (hk : k < 64) :
    (wrap w ((f : Int) - (2 : Int) ^ n)).getLsbD k = (decide (k < w) && if k < n then f.testBit k else true) := by
  have hp : 2 ^ n * (2 ^ (w - n) - 1) = 2 ^ w - 2 ^ n := by
    rw [Nat.mul_sub, ← Nat.pow_add, show n + (w - n) = w by omega, Nat.mul_one]
  have hle : 2 ^ n ≤ 2 ^ w := Nat.pow_le_pow_right (by decide) hn
  have hz : (f : Int) - (2 : Int) ^ n + (2 : Int) ^ w = ((2 ^ n * (2 ^ (w - n) - 1) + f : Nat) : Int) := by
    rw [hp, Int.natCast_add, Int.ofNat_sub hle]
    push_cast
    omega
  rw [← wrap_add_pow, hz, getLsbD_wrap_natCast h _ _ hk, Nat.two_pow_add_eq_or_of_lt hf, Nat.testBit_or, Nat.testBit_two_pow_mul,
    Nat.testBit_two_pow_sub_one]
  by_cases hkw : k < w
  · by_cases hkn : k < n
    · simp [hkn, Nat.not_le.mpr hkn]
    · rw [Nat.testBit_lt_two_pow (Nat.lt_of_lt_of_le hf (Nat.pow_le_pow_right (by decide) (Nat.not_lt.mp hkn)))]
      simp [hkn, Nat.not_lt.mp hkn, show k - n < w - n by omega]
  · simp [hkw]

theorem testBit_top {f n : Nat} (hn : n ≠ 0) (hf : f < 2 ^ n) : f.testBit (n - 1) = decide ((2 : Int) ^ n ≤ 2 * (f : Int)) := by
  have hp : 2 ^ n = 2 * 2 ^ (n - 1) := by rw [← Nat.pow_succ', Nat.succ_eq_add_one, Nat.sub_add_cancel (Nat.pos_of_ne_zero hn)]
  have hcast : (2 : Int) ^ n ≤ 2 * (f : Int) ↔ 2 ^ n ≤ 2 * f := by exact_mod_cast Iff.rfl
  rw [decide_eq_decide.mpr hcast]
  by_cases h : 2 ^ (n - 1) ≤ f
  · rw [decide_eq_true (by omega)]
    exact Nat.testBit_of_two_pow_le_and_two_pow_add_one_gt h (by rwa [Nat.sub_add_cancel (Nat.pos_of_ne_zero hn)])
  · rw [decide_eq_false (by omega)]
    exact Nat.testBit_lt_two_pow (Nat.not_le.mp h)

/-- BFE extends a field of `n` bits by its top bit in a signed type, and by zero otherwise (R499). -/
theorem bitBfe_eq (t : Ty) (a b : BitVec 64) :
    let o := b.toNat % 256
    let n := min (b.toNat / 256 % 256) t.width
    bitBfe t a b = if n = 0 then 0 else bitsOf t.width fun k =>
      if k < n then fieldBit t a (o + k) else t.signed && fieldBit t a (o + n - 1) := by
  intro o n
  have hle := t.width_le
  have ho : o < 256 := Nat.mod_lt _ (by decide)
  have hn : n ≤ t.width := Nat.min_le_right _ _
  have hfield := ediv_emod_of_emod (int_emod_fieldSource t a) (show o + n ≤ 320 by omega)
  have hdef : bitBfe t a b = if n = 0 then 0 else
      let f := (t.int a / (2 : Int) ^ o).emod ((2 : Int) ^ n)
      wrap t.width (if (t.signed && decide ((2 : Int) ^ n ≤ 2 * f)) = true then f - (2 : Int) ^ n else f) := rfl
  rw [hdef]
  by_cases hz : n = 0
  · rw [if_pos hz, if_pos hz]
  have hlt : fieldNat t a o n < 2 ^ n := Nat.mod_lt _ (Nat.two_pow_pos n)
  have hbit (k : Nat) := testBit_fieldNat t a (show o + n ≤ 320 by omega) k
  have htop : decide ((2 : Int) ^ n ≤ 2 * (fieldNat t a o n : Int)) = fieldBit t a (o + n - 1) := by
    rw [← testBit_top hz hlt, hbit, decide_eq_true (show n - 1 < n by omega), Bool.true_and, show o + (n - 1) = o + n - 1 by omega]
  rw [if_neg hz, if_neg hz]
  refine eq_bitsOf hle fun k hk => ?_
  dsimp only
  rw [hfield, ← fieldNat, htop]
  by_cases hs : (t.signed && fieldBit t a (o + n - 1)) = true
  · rw [if_pos hs, getLsbD_wrap_sub_pow hle hn hlt k hk, hbit, hs]
    by_cases hkn : k < n <;> simp [hkn]
  · rw [if_neg hs, getLsbD_wrap_natCast hle _ k hk, hbit]
    by_cases hkn : k < n <;> simp [hkn, hs]

/-- BFI puts the low bits of one source at an offset of the other (R500). -/
theorem bitBfi_eq (t : Ty) (a b c : BitVec 64) :
    let o := c.toNat % 256
    let n := min (c.toNat / 256 % 256) t.width
    bitBfi t a b c = bitsOf t.width fun k => if o ≤ k ∧ k < o + n then a.getLsbD (k - o) else b.getLsbD k := by
  intro o n
  have hn : n ≤ t.width := Nat.min_le_right _ _
  refine eq_bitsOf t.width_le fun k hk => ?_
  change (low t.width ((b &&& ~~~ BitVec.ofNat 64 ((2 ^ n - 1) * 2 ^ o % 2 ^ t.width))
    ||| (BitVec.ofNat 64 (uval t.width a * 2 ^ o % 2 ^ t.width) &&& BitVec.ofNat 64 ((2 ^ n - 1) * 2 ^ o % 2 ^ t.width)))).getLsbD k = _
  rw [getLsbD_low, BitVec.getLsbD_or, BitVec.getLsbD_and, BitVec.getLsbD_and, BitVec.getLsbD_not, getLsbD_ofNat_lt hk, getLsbD_ofNat_lt hk,
    Nat.testBit_mod_two_pow, Nat.testBit_mod_two_pow, Nat.testBit_mul_two_pow, Nat.testBit_mul_two_pow, Nat.testBit_two_pow_sub_one,
    testBit_uval]
  by_cases hw : k < t.width
  · by_cases ho : o ≤ k
    · by_cases hf : k < o + n
      · simp [hw, ho, hf, show k - o < n by omega, show k - o < t.width by omega]
      · simp [hk, hw, ho, hf, show ¬ k - o < n by omega]
    · simp [hk, hw, ho]
  · simp [hw]

/-! ### Counts (R515, R573) -/

/-- The count of zeros above the highest set bit is the one number with that meaning. -/
theorem leadingZeros_eq {w g : Nat} {x : BitVec 64} (hle : g ≤ w) (hz : ∀ k, w - g ≤ k → k < w → x.getLsbD k = false)
    (ho : g < w → x.getLsbD (w - 1 - g) = true) : leadingZeros w x = g := by
  unfold leadingZeros
  cases h : (List.range w).find? fun k => x.getLsbD (w - 1 - k) with
  | none =>
    refine (Nat.le_antisymm hle (Nat.not_lt.mp fun hlt => ?_)).symm
    exact List.find?_eq_none.mp h g (List.mem_range.mpr hlt) (ho hlt)
  | some k =>
    obtain ⟨hk, hlt, hfirst⟩ := List.find?_range_eq_some.mp h
    rw [List.mem_range] at hlt
    obtain h' | h' | h' := Nat.lt_trichotomy k g
    · rw [hz (w - 1 - k) (by omega) (by omega)] at hk; cases hk
    · exact h'
    · have := hfirst g h'
      rw [ho (by omega)] at this; cases this

/-- The lowest set bit, or all ones, is the one number with that meaning. -/
theorem ffsOf_eq {w g : Nat} {x : BitVec 64} (hz : (∀ k < w, x.getLsbD k = false) → g = 0xFFFFFFFF)
    (ho : ∀ k < w, x.getLsbD k = true → (∀ j < k, x.getLsbD j = false) → g = k) : ffsOf w x = g := by
  unfold ffsOf lowestSet
  cases h : (List.range w).find? fun k => x.getLsbD k with
  | none => exact (hz fun k hk => by simpa using List.find?_eq_none.mp h k (List.mem_range.mpr hk)).symm
  | some k =>
    obtain ⟨hk, hlt, hfirst⟩ := List.find?_range_eq_some.mp h
    exact (ho k (List.mem_range.mp hlt) hk fun j hj => by simpa using hfirst j hj).symm

theorem foldl_count (p : Nat → Bool) (l : List Nat) (n : Nat) : l.foldl (fun n k => n + b2n (p k)) n = n + l.countP p := by
  induction l generalizing n with
  | nil => rfl
  | cons k l ih => rw [List.foldl_cons, ih, List.countP_cons]; cases p k <;> simp [b2n]; omega

theorem popcount_eq (w : Nat) (x : BitVec 64) : popcount w x = (List.range w).countP fun k => x.getLsbD k := by
  unfold popcount
  rw [foldl_count, Nat.zero_add]

/-! ### Integer results (R545, R546) -/

theorem intMin_eq (t : Ty) (a b : BitVec 64) : intMin t a b = wrap t.width (min (t.int a) (t.int b)) := by
  unfold intMin
  split
  · next h => rw [Int.min_eq_left h, wrap_int]
  · next h => rw [Int.min_eq_right (by omega), wrap_int]

theorem intMax_eq (t : Ty) (a b : BitVec 64) : intMax t a b = wrap t.width (max (t.int a) (t.int b)) := by
  unfold intMax
  split
  · next h => rw [Int.max_eq_left h, wrap_int]
  · next h => rw [Int.max_eq_right (by omega), wrap_int]

/-- The dot product sums its byte products in any order. -/
theorem intDot4_eq (sub : Nat) (a b c : BitVec 64) :
    let p (k : Nat) : Int := dotByte (sub < 2) a k * dotByte (sub % 2 = 0) b k
    intDot4 sub a b c = wrap 32 (p 0 + p 1 + p 2 + p 3 + sval 32 c) := by
  intro p
  change wrap 32 (sval 32 c + p 0 + p 1 + p 2 + p 3) = _
  congr 1
  omega

theorem intRel_eq (sub : Nat) (a b : Int) :
    intRel sub a b = if sub = 0 then decide (a = b) else if sub = 1 then decide (a ≠ b) else if sub = 2 then decide (a < b)
      else if sub = 3 then decide (a ≤ b) else if sub = 4 then decide (a > b) else decide (a ≥ b) := by
  match sub with
  | 0 => exact (Bool.beq_eq_decide_eq a b)
  | 1 => simp [intRel, bne, Bool.beq_eq_decide_eq]
  | 2 | 3 | 4 => rfl
  | n + 5 => simp [intRel]

end Sys2Proof.Machine
end

section
/-! SUPPORT. Instructions whose effect on each active lane is one value, or one word. -/

namespace Sys2Proof.Machine

/-- An instruction that acts on each active lane and writes one value of a type. -/
theorem LaneEffect.of_val {i : Instr} {us : List Use} {n : Nat} {t : Ty} {g : List (BitVec 64) → BitVec 64}
    (op : List (BitVec 64) → BitVec 64) (he : ∀ s, exec i s = .next (s.perLane i us fun _ vs => .done (putVal n t (op vs)) 0))
    (hg : ∀ vs, op vs = g vs) : LaneEffect i (fun _ => us) fun _ v => (valueWords n t (g v), 0) :=
  LaneEffect.of_perLane _ (fun s _ => he s) fun _ _ vs _ => by rw [putVal_eq, hg]

/-- An instruction that acts on each active lane and writes one 32-bit word. -/
theorem LaneEffect.of_word {i : Instr} {us : List Use} {n : Nat} {g : List (BitVec 64) → Word}
    (op : List (BitVec 64) → Nat) (he : ∀ s, exec i s = .next (s.perLane i us fun _ vs => .done (put32 n (op vs)) 0))
    (hg : ∀ vs, BitVec.ofNat 32 (op vs) = g vs) : LaneEffect i (fun _ => us) fun _ v => ([(n, g v)], 0) :=
  LaneEffect.of_perLane _ (fun s _ => he s) fun _ _ vs _ => by rw [← hg]; rfl

end Sys2Proof.Machine
end

section
/-! PROOFS. The statements about integer arithmetic, comparison, bits, shifts, fields, counts and moves. -/

namespace Sys2Proof.Machine

/-- Settles O1: each instruction writes one value, the exact integer wrapped to the width. -/
theorem integerArithmetic : Obligations.IntegerArithmetic := by
  unfold Obligations.IntegerArithmetic
  refine ⟨⟨?iadd, ?isub, ?imul, ?imulh, ?imin, ?imax, ?iaddVi, ?isubVi, ?imulVi, ?iminVi, ?imaxVi⟩,
    fun f => ⟨?ineg, ?iabs, ?imad, ?imadVi, ?idot4, ?lea, ?imadw⟩⟩
  case iadd => exact fun f => .of_val (fun v => intAdd (V3.ity f) (nth v 0) (nth v 1)) (fun _ => rfl) fun _ => rfl
  case isub => exact fun f => .of_val (fun v => intSub (V3.ity f) (nth v 0) (nth v 1)) (fun _ => rfl) fun _ => rfl
  case imul => exact fun f => .of_val (fun v => intMul (V3.ity f) (nth v 0) (nth v 1)) (fun _ => rfl) fun _ => rfl
  case imulh => exact fun f => .of_val (fun v => intMulh (V3.ity f) (nth v 0) (nth v 1)) (fun _ => rfl) fun _ => rfl
  case imin => exact fun f => .of_val (fun v => intMin (V3.ity f) (nth v 0) (nth v 1)) (fun _ => rfl) fun _ => intMin_eq _ _ _
  case imax => exact fun f => .of_val (fun v => intMax (V3.ity f) (nth v 0) (nth v 1)) (fun _ => rfl) fun _ => intMax_eq _ _ _
  case iaddVi => exact fun f => .of_val (fun v => intAdd (VI.ity f) (nth v 0) (widenImm (VI.ity f) f.imm)) (fun _ => rfl) fun _ => rfl
  case isubVi => exact fun f => .of_val (fun v => intSub (VI.ity f) (nth v 0) (widenImm (VI.ity f) f.imm)) (fun _ => rfl) fun _ => rfl
  case imulVi => exact fun f => .of_val (fun v => intMul (VI.ity f) (nth v 0) (widenImm (VI.ity f) f.imm)) (fun _ => rfl) fun _ => rfl
  case iminVi =>
    exact fun f => .of_val (fun v => intMin (VI.ity f) (nth v 0) (widenImm (VI.ity f) f.imm)) (fun _ => rfl) fun _ => intMin_eq _ _ _
  case imaxVi =>
    exact fun f => .of_val (fun v => intMax (VI.ity f) (nth v 0) (widenImm (VI.ity f) f.imm)) (fun _ => rfl) fun _ => intMax_eq _ _ _
  case ineg => exact .of_val (fun v => intNeg (V3.ity f) (nth v 0)) (fun _ => rfl) fun _ => rfl
  case iabs => exact .of_val (fun v => intAbs (V3.ity f) (nth v 0)) (fun _ => rfl) fun _ => rfl
  case imad => exact .of_val (fun v => intMad (V3.ity f) (nth v 0) (nth v 1) (nth v 2)) (fun _ => rfl) fun _ => rfl
  case imadVi =>
    exact fun g => .of_val (fun v => intMad (VI.ity g) (nth v 0) (nth v 1) (widenImm (VI.ity g) g.imm)) (fun _ => rfl) fun _ => rfl
  case idot4 =>
    exact .of_val (fun v => intDot4 f.sub.toNat (nth v 0) (nth v 1) (nth v 2)) (fun _ => rfl) fun _ => (intDot4_eq _ _ _ _).trans rfl
  case lea => exact .of_val (fun v => intLea (V3.ity f) f.sub.toNat (nth v 0) (nth v 1)) (fun _ => rfl) fun _ => rfl
  case imadw => exact .of_val _ (fun _ => rfl) fun _ => rfl

/-- A lane writes 1 or 0 by a condition. -/
theorem word_of_bit (p : Prop) [Decidable p] : BitVec.ofNat 32 (if p then 1 else 0) = if p then (1 : Word) else 0 := by
  split <;> rfl

/-- Settles O2: the sum modulo the width, and in the next register whether it reached the width. -/
theorem addWithCarry : Obligations.AddWithCarry := by
  unfold Obligations.AddWithCarry
  intro f t
  refine .of_perLane _ (fun _ _ => rfl) fun s l v _ => ?_
  have hcarry : b2n ((nth v 2).getLsbD 0) = (nth v 2).toNat % 2 := by
    rw [show (nth v 2).getLsbD 0 = (nth v 2).toNat.testBit 0 from rfl, Nat.testBit_zero]
    obtain h | h := Nat.mod_two_eq_zero_or_one (nth v 2).toNat <;> simp [h, b2n]
  have hregs : (V3.ity f).regs = if t.wide then 2 else 1 := rfl
  dsimp only
  rw [hcarry, hregs, putVal_eq, List.map_append]
  congr 2
  simp only [put32, b2n, decide_eq_true_eq, List.map_cons, List.map_nil, word_of_bit]
  rfl

/-- Settles O3: comparison by the relation of the sub-op, and each bit operation by the bits of its result. -/
theorem comparesAndBits : Obligations.ComparesAndBits := by
  unfold Obligations.ComparesAndBits
  have hrel (sub : Nat) (a b : Int) : BitVec.ofNat 32 (b2n (intRel sub a b)) = if intRel sub a b = true then (1 : Word) else 0 :=
    word_of_bit _
  have hbits (t : Ty) (op : BitVec 64 → BitVec 64 → BitVec 64) (g : Bool → Bool → Bool) (a b : BitVec 64)
      (hop : ∀ k < 64, (op a b).getLsbD k = g (a.getLsbD k) (b.getLsbD k)) :
      low t.width (op a b) = bitsOf t.width fun k => g (a.getLsbD k) (b.getLsbD k) :=
    eq_bitsOf t.width_le fun k hk => by rw [getLsbD_low, hop k hk]
  have hand (t : Ty) (a b : BitVec 64) := hbits t (· &&& ·) (· && ·) a b fun k _ => BitVec.getLsbD_and ..
  have hor (t : Ty) (a b : BitVec 64) := hbits t (· ||| ·) (· || ·) a b fun k _ => BitVec.getLsbD_or ..
  have hxor (t : Ty) (a b : BitVec 64) := hbits t (· ^^^ ·) (· != ·) a b fun k _ => BitVec.getLsbD_xor ..
  have handn (t : Ty) (a b : BitVec 64) := hbits t (fun a b => a &&& ~~~b) (fun a b => a && !b) a b fun k hk => by
    simp only [BitVec.getLsbD_and, BitVec.getLsbD_not, decide_eq_true hk, Bool.true_and]
  have horn (t : Ty) (a b : BitVec 64) := hbits t (fun a b => a ||| ~~~b) (fun a b => a || !b) a b fun k hk => by
    simp only [BitVec.getLsbD_or, BitVec.getLsbD_not, decide_eq_true hk, Bool.true_and]
  have hnot (t : Ty) (a : BitVec 64) := hbits t (fun a _ => ~~~a) (fun a _ => !a) a 0 fun k hk => by
    simp only [BitVec.getLsbD_not, decide_eq_true hk, Bool.true_and]
  refine ⟨⟨fun f => ?icmp, fun f => ?icmpVi, fun f => ?sel⟩, fun f => ?and, fun f => ?andn, fun f => ?or, fun f => ?orn, fun f => ?xor,
    fun f => ?andVi, fun f => ?orVi, fun f => ?xorVi, fun f => ?not⟩
  case icmp =>
    refine .of_word (fun v => b2n (intRel f.sub.toNat ((V3.ity f).int (nth v 0)) ((V3.ity f).int (nth v 1)))) (fun _ => rfl) fun v => ?_
    rw [hrel, intRel_eq]
  case icmpVi =>
    refine .of_word (fun v => b2n (intRel f.sub.toNat ((VI.ity f).int (nth v 0)) ((VI.ity f).int (widenImm (VI.ity f) f.imm))))
      (fun _ => rfl) fun v => ?_
    rw [hrel, intRel_eq]
  case sel => exact .of_val (fun v => if uval 32 (nth v 2) ≠ 0 then nth v 0 else nth v 1) (fun _ => rfl) fun _ => rfl
  case and => exact .of_val (fun v => bitAnd (V3.ity f) (nth v 0) (nth v 1)) (fun _ => rfl) fun _ => hand _ _ _
  case andn => exact .of_val (fun v => bitAndn (V3.ity f) (nth v 0) (nth v 1)) (fun _ => rfl) fun _ => handn _ _ _
  case or => exact .of_val (fun v => bitOr (V3.ity f) (nth v 0) (nth v 1)) (fun _ => rfl) fun _ => hor _ _ _
  case orn => exact .of_val (fun v => bitOrn (V3.ity f) (nth v 0) (nth v 1)) (fun _ => rfl) fun _ => horn _ _ _
  case xor => exact .of_val (fun v => bitXor (V3.ity f) (nth v 0) (nth v 1)) (fun _ => rfl) fun _ => hxor _ _ _
  case andVi => exact .of_val (fun v => bitAnd (VI.ity f) (nth v 0) (widenImm (VI.ity f) f.imm)) (fun _ => rfl) fun _ => hand _ _ _
  case orVi => exact .of_val (fun v => bitOr (VI.ity f) (nth v 0) (widenImm (VI.ity f) f.imm)) (fun _ => rfl) fun _ => hor _ _ _
  case xorVi => exact .of_val (fun v => bitXor (VI.ity f) (nth v 0) (widenImm (VI.ity f) f.imm)) (fun _ => rfl) fun _ => hxor _ _ _
  case not => exact .of_val (fun v => bitNot (V3.ity f) (nth v 0)) (fun _ => rfl) fun _ => hnot _ _

/-- Settles O4: each shift, field and count by the bits of its result. -/
theorem shiftsFieldsMoves : Obligations.ShiftsFieldsMoves := by
  unfold Obligations.ShiftsFieldsMoves
  refine ⟨⟨fun f => ?shl, fun f => ?shr, fun f => ?shra, fun f => ?rotl⟩,
    fun f => ⟨?brev, ?bfe, ?bfi, fun g hg => ?clz, fun g hg => ?ffs, ?popc, ?mov, fun g => ?movi⟩⟩
  case shl => exact .of_val (fun v => bitShl (V3.ity f) (nth v 0) (nth v 1)) (fun _ => rfl) fun _ => bitShl_eq _ _ _
  case shr => exact .of_val (fun v => bitShr (V3.ity f) (nth v 0) (nth v 1)) (fun _ => rfl) fun _ => bitShr_eq _ _ _
  case shra => exact .of_val (fun v => bitShra (V3.ity f) (nth v 0) (nth v 1)) (fun _ => rfl) fun _ => bitShra_eq _ _ _
  case rotl => exact .of_val (fun v => bitRotl (V3.ity f) (nth v 0) (nth v 1)) (fun _ => rfl) fun _ => bitRotl_eq _ _ _
  case brev => exact .of_val (fun v => reverseBits (V3.ity f).width (nth v 0)) (fun _ => rfl) fun _ => reverseBits_eq _ _
  case bfe => exact .of_val (fun v => bitBfe (V3.ity f) (nth v 0) (nth v 1)) (fun _ => rfl) fun _ => bitBfe_eq _ _ _
  case bfi => exact .of_val (fun v => bitBfi (V3.ity f) (nth v 0) (nth v 1) (nth v 2)) (fun _ => rfl) fun _ => bitBfi_eq _ _ _ _
  case clz =>
    refine .of_word (fun v => leadingZeros (V3.ity f).width (nth v 0)) (fun _ => rfl) fun v => ?_
    obtain ⟨hle, hzeros, hone⟩ := hg v
    rw [leadingZeros_eq hle hzeros hone]
  case ffs =>
    refine .of_word (fun v => ffsOf (V3.ity f).width (nth v 0)) (fun _ => rfl) fun v => ?_
    obtain ⟨hzero, hone⟩ := hg v
    rw [ffsOf_eq hzero hone]
  case popc =>
    refine .of_word (fun v => popcount (V3.ity f).width (nth v 0)) (fun _ => rfl) fun v => ?_
    rw [popcount_eq]
  case mov => exact .of_val (fun v => nth v 0) (fun _ => rfl) fun _ => rfl
  case movi => exact .of_val (fun _ => widenImm (VI.ity g) g.imm) (fun _ => rfl) fun _ => rfl

end Sys2Proof.Machine
end

section
/-! PROOFS. The statements about the dot product, conversions, MX blocks and approximations. -/

namespace Sys2Proof.Machine

/-- Settles O7: the dot product and the conversions write what they round, CVTEF its two results in one list. Under SR the stepped RAND
state is written after them (log entry 71). -/
theorem floatConversions : Obligations.FloatConversions := by
  unfold Obligations.FloatConversions
  refine fun f => ⟨?fdot2, fun src dst hsrc hdst => ?cvt, ?cvtef, fun dst hdst => ?mxunpack⟩
  case fdot2 =>
    exact .of_outVal (fun m v => fpDot2 (V3.nty f) m f.na f.nb (nth v 0) (nth v 1) (nth v 2)) (fun _ => rfl) fun _ _ _ _ => rfl
  case cvt =>
    have hexec (s : State) : exec (.cvt f) s = .next (s.perLaneRounded (.cvt f) f.rnd [f.useA src] fun m vs =>
        outVal f.dst.reg dst (convert src dst m f.nosat (nth vs 0))) := by
      change execCvt f s = _
      unfold execCvt
      rw [hsrc, hdst]; rfl
    exact .of_outVal _ hexec fun _ _ _ _ => rfl
  case cvtef =>
    refine .of_perLaneRounded _ (fun _ => rfl) fun s m v _ => ?_
    dsimp only
    rw [List.map_append, putVal_eq, putVal_eq]
  case mxunpack =>
    have hexec (s : State) : exec (.mxunpack f) s = .next (s.perLaneRounded (.mxunpack f) f.rnd [f.useA (V3.nty f)] fun m vs =>
        outVal f.dst.reg dst (mxUnpack (V3.nty f) dst m (nth vs 0))) := by
      change execMxunpack f s = _
      unfold execMxunpack
      rw [hdst]; rfl
    refine .of_outVal _ hexec fun _ m v _ => ?_
    have hflags (x : Val) : rounded dst m (x, 0) = roundTo dst m false x := Prod.ext rfl (BitVec.zero_or ..)
    have hscale : bits (nth v 0).toNat 15 8 = (nth v 0).toNat / 256 % 256 := rfl
    unfold mxUnpack
    rw [hflags, hscale]

end Sys2Proof.Machine
end

section
/-! SUPPORT. What an instruction that commits clean results for the active lanes does in one state. -/

namespace Sys2Proof.Machine

/-- The writes of a lane, each marked clean. -/
def cleanWrites (ws : List (Nat × Word)) : List (Nat × Word × Bool) := ws.map fun w => (w.1, w.2, false)

theorem cleanWrites_regs (ws : List (Nat × Word)) : (cleanWrites ws).map (·.1) = ws.map (·.1) := by
  rw [cleanWrites, List.map_map]; rfl

/-- The results of the active lanes, where every one of them succeeds. -/
def State.cleanResults (s : State) (g : Nat → List Src) (f : Nat → List (Nat × Word) × FpFlags) : List (Nat × List Src × LaneOut) :=
  s.active.map fun l => (l, g l, LaneOut.done (cleanWrites (f l).1) (f l).2)

/-- An instruction that commits clean results for the active lanes. -/
theorem lanesBecome.of_commit {s : State} {i : Instr} {rows : List Nat} {g : Nat → List Src} {f : Nat → List (Nat × Word) × FpFlags}
    (hok : s.ok) (he : exec i s = .next (s.commit (s.cleanResults g f) rows)) : lanesBecome s i f := by
  have hstore := hok.2.1.1
  have h32 := lane_of_lanes s.active (fun l => cleanWrites (f l).1) fun l hl => s.active_lt hok hl
  rw [State.cleanResults, State.commit_done s s.active rows g fun l => (cleanWrites (f l).1, (f l).2)] at he
  obtain ⟨hval, hrest, htrap, hstay⟩ := s.finishLanes_spec _ (orFlags (fun l => (f l).2) s.active) hstore h32
  refine ⟨_, he, fun l hl n w hw => ?_, hrest, htrap, fun a ha => hstay a ?_⟩
  · exact hval n l _ (s.active_lt hok hl) (findLast_lanes s.active (fun l => cleanWrites (f l).1) s.grp.active_nodup l n hl _ (findLast_clean hw))
  · exact s.outside_writes s.active (fun l => cleanWrites (f l).1) a (by simp only [cleanWrites_regs]; exact ha)

end Sys2Proof.Machine
end

section
/-! PROOFS. The statement about MXPACK. -/

namespace Sys2Proof.Machine

/-- Settles O13: with no poisoned source the lanes share the scale of all their values. Under SR the stepped RAND state is written after
the element (log entry 71). -/
theorem packSharesScale : Obligations.PackSharesScale := by
  unfold Obligations.PackSharesScale
  intro f s src hsrc us hok hcl hc val x
  refine lanesBecome.of_commit (g := s.sources us) (rows := s.dstRows (.mxpack f)) hok ?_
  have hclean : (s.active.map fun l => (l, s.sources us l)).any (fun y => y.2.any (·.2)) = false := by
    rw [List.any_map, List.any_eq_false]
    intro l hl
    simpa using hc l hl
  have hscale : mxScale (V3.nty f) ((s.active.map fun l => (l, s.sources (f.useA src :: s.randUses f.rnd) l)).map fun y =>
      src.val (nth (modified (f.useA src :: s.randUses f.rnd) y.2) 0)) = x := by rw [List.map_map]; rfl
  change execMxpack f s = _
  unfold execMxpack
  dsimp only
  rw [hsrc, s.frame_clear _ _ hcl]
  refine congrArg _ ?_
  refine (if_neg (ne_true_of_eq_false hclean)).trans ?_
  rw [List.map_map, State.cleanResults]
  refine congrArg (s.commit · _) (List.map_congr_left fun l _ => ?_)
  simp only [Function.comp, Option.getD_some]
  rw [hscale, cleanWrites, List.map_cons, s.rounding_clean]
  rfl

end Sys2Proof.Machine
end

section
/-! SUPPORT. What an instruction's operands satisfy where no check of R203 fails. -/

namespace Sys2Proof.Machine

theorem none_of_ite_some {p : Prop} [Decidable p] {α : Type} {n : α} {x : Option α} : (if p then some n else x) = none ↔ ¬ p ∧ x = none := by
  by_cases h : p
  · simp [h]
  · simp [h]

/-- An encoding that fails no check has operands of kinds that their positions take, and neg/abs on floating operands only. -/
theorem Enc.uses_of_failing {c : CheckCtx} {e : Enc} (h : e.failing c = none) {u : Use} (hu : u ∈ e.uses) :
    u.specOk c = true ∧ u.nabsOk = true := by
  have hall : e.uses.all (Use.specOk c) = true ∧ e.uses.all Use.nabsOk = true := by
    unfold Enc.failing at h
    simp only [none_of_ite_some, Bool.not_eq_true, Bool.not_eq_false'] at h
    obtain ⟨-, -, -, -, -, hspec, -, hnabs, -⟩ := h
    exact ⟨hspec, hnabs⟩
  exact ⟨List.all_eq_true.mp hall.1 u hu, List.all_eq_true.mp hall.2 u hu⟩

theorem State.clear.use {s : State} {i : Instr} (hcl : s.clear i) (hp : ∀ x y, i ≠ .pairedSlot x y) {u : Use} (hu : u ∈ (encOf s.ctx i).uses) :
    u.specOk s.ctx = true ∧ u.nabsOk = true :=
  Enc.uses_of_failing (failing_of_illDetail hp hcl.1) hu

theorem State.clear.coreOk {s : State} {i : Instr} (hcl : s.clear i) (hp : ∀ x y, i ≠ .pairedSlot x y) : coreOk s.kind i = true := by
  have hill := hcl.1
  cases h : Sys2Proof.coreOk s.kind i with
  | true => rfl
  | false =>
    unfold illDetail at hill
    split at hill
    next => cases hill
    next => exact absurd rfl (hp _ _)
    next =>
      rw [show s.ctx.kind = s.kind from rfl, h] at hill
      cases hill

/-- An instruction of vector cores alone (R205). -/
theorem State.clear.vector {s : State} {i : Instr} (hcl : s.clear i) (hp : ∀ x y, i ≠ .pairedSlot x y)
    (h : ∀ k, Sys2Proof.coreOk k i = (k == .vector)) : s.kind = .vector :=
  eq_of_beq ((h s.kind).symm.trans (hcl.coreOk hp))

theorem V3.ity_not_floating (f : V3) : (V3.ity f).floating = false := by
  have h : ∀ n < 16, ((intTy n).getD .b32).floating = false := by decide
  exact h _ f.ty.isLt

theorem State.raise_zero (s : State) : s.raise 0 = s :=
  congrArg (fun x => s.onGrp fun g => { g with fpstat := x }) (BitVec.or_zero (x := s.grp.fpstat))

/-- The value of an operand without neg/abs is that of its source. -/
theorem nth_operands_single (s : State) (u : Use) (l : Nat) (h : u.nabs = 0) : nth (s.operands [u] l) 0 = (only (s.sources [u] l)).1 := by
  unfold State.operands
  generalize hvs : s.sources [u] l = vs
  cases vs with
  | nil => rfl
  | cons v vs =>
    change applyNabs u.nabs u.ty v.1 = v.1
    rw [h]; rfl

theorem Use.nabs_eq_zero {u : Use} (h : u.nabsOk = true) (ht : u.ty.floating = false) : u.nabs = 0 := by
  unfold Use.nabsOk at h
  rw [ht, Bool.or_false] at h
  exact eq_of_beq h

end Sys2Proof.Machine
end

section
/-! SUPPORT. Masks of lanes (R489, R559). -/

namespace Sys2Proof.Machine

theorem testBit_foldl_mask (ls : List Nat) (m k : Nat) : (ls.foldl (fun m l => m ||| 2 ^ l) m).testBit k = (m.testBit k || ls.contains k) := by
  induction ls generalizing m with
  | nil => simp
  | cons l ls ih =>
    rw [List.foldl_cons, ih, Nat.testBit_or, Nat.testBit_two_pow, List.contains_cons, Bool.or_assoc]
    congr 2
    rw [Bool.beq_eq_decide_eq, decide_eq_decide]
    exact eq_comm

/-- The mask of lanes has the bit of each of them. -/
theorem maskOf_eq {ls : List Nat} {p : Nat → Bool} (h : ∀ k < 64, ls.contains k = (decide (k < 32) && p k)) :
    BitVec.ofNat 64 (maskOf ls) = bitsOf 32 p := by
  refine eq_bitsOf (by decide) fun k hk => ?_
  rw [getLsbD_ofNat_lt hk, maskOf, testBit_foldl_mask, Nat.zero_testBit, Bool.false_or, h k hk]

theorem maskWord_eq {ls : List Nat} {p : Nat → Bool} (h : ∀ k < 64, ls.contains k = (decide (k < 32) && p k)) :
    BitVec.ofNat 32 (maskOf ls) = (bitsOf 32 p).setWidth 32 := by
  rw [← maskOf_eq h]
  exact (BitVec.setWidth_ofNat_of_le (by decide) _).symm

end Sys2Proof.Machine
end

section
/-! PROOFS. The statements about SHFL, VOTE, BALLOT, MATCH, LANERD, LANEWR and RAND. -/

namespace Sys2Proof.Machine

/-- The lane that SHFL reads, by where its operand points within the segment (R600). -/
theorem shflLane_eq (sub l b : Nat) {w : Nat} (hw : 0 < w) :
    let i := l % w
    let j : Int := match sub with
      | 0 => b | 1 => (i : Int) - b | 2 => i + b | _ => ((i ^^^ b : Nat) : Int)
    (shflLane sub w l b).getD l = if j < 0 ∨ (w : Int) ≤ j then l else l - i + j.toNat := by
  intro i
  have hi : i < w := Nat.mod_lt _ hw
  have hpick (p : Prop) [Decidable p] (k : Nat) (j : Int) (hp : p ↔ ¬ (j < 0 ∨ (w : Int) ≤ j)) (hk : k = j.toNat) :
      (if p then some (l - i + k) else none).getD l = if j < 0 ∨ (w : Int) ≤ j then l else l - i + j.toNat := by
    by_cases h : p
    · rw [if_pos h, if_neg (hp.mp h), Option.getD_some, hk]
    · rw [if_neg h, if_pos (Decidable.not_not.mp (mt hp.mpr h)), Option.getD_none]
  unfold shflLane
  match sub with
  | 0 => exact hpick (b < w) b b (by omega) rfl
  | 1 => exact hpick (b ≤ i) (i - b) ((i : Int) - b) (by omega) (by omega)
  | 2 => exact hpick (i + b < w) (i + b) ((i : Int) + b) (by omega) rfl
  | n + 3 => exact hpick (i ^^^ b < w) (i ^^^ b) ((i ^^^ b : Nat) : Int) (by omega) rfl

theorem shflWidth_pos (k : Nat) : 0 < shflWidth k := by
  unfold shflWidth
  split
  · decide
  · exact Nat.two_pow_pos k

/-- The sources of a lane that does not replay come from its registers. -/
theorem State.sources_fresh {s : State} {l : Nat} (h : (s.lane l).replay = false) (us : List Use) :
    s.sources us l = us.map fun u => s.fetchUse u l := by
  unfold State.sources
  dsimp only
  rw [h]

/-- Settles O9: a lane that does not replay takes the element of the lane that `shflLane` names. -/
theorem shuffleReadsNamedLane : Obligations.ShuffleReadsNamedLane := by
  unfold Obligations.ShuffleReadsNamedLane
  intro f s t w named hok hcl hreplay hclean
  refine lanesBecome.of_commit (g := fun l => [s.fetchUse (f.useA t) (named l), s.fetchUse (f.useB .n32) l])
    (rows := s.dstRows (.shfl f)) hok ?_
  change execShfl f s = _
  unfold execShfl
  dsimp only
  rw [s.frame_clear _ _ hcl]
  refine congrArg _ (congrArg (s.commit · _) (List.map_congr_left fun l hl => ?_))
  obtain ⟨hb, hv⟩ := hclean l hl
  have hsrc : (s.sources [f.useA (V3.ity f), f.useB .n32] l).getD 1 (0, false) = s.fetchUse (f.useB .n32) l := by
    rw [State.sources_fresh (hreplay l hl)]; rfl
  have hlane : (shflLane f.sub.toNat (shflWidth (f.flags.toNat % 8)) l (uval 32 (s.fetchUse (f.useB .n32) l).1)).getD l = named l :=
    shflLane_eq _ _ _ (shflWidth_pos _)
  rw [hsrc, hreplay l hl, hlane]
  change (l, [s.fetchUse (f.useA t) (named l), _], if ((s.fetchUse (f.useA t) (named l)).2 || (s.fetchUse (f.useB .n32) l).2) = true then _ else _) = _
  rw [hv, hb, putVal_eq]
  rfl

/-! ### Votes (R489, R559, R612) -/

theorem State.only_votes {s : State} {u : Use} (hc : s.clean [u]) {l : Nat} (hl : l ∈ s.active) : (only (s.sources [u] l)).2 = false :=
  only_clean (hc l hl)

/-- With no poisoned source no vote is dropped. -/
theorem State.clean_votes {s : State} {u : Use} (hc : s.clean [u]) : Machine.clean (s.votes u) = s.votes u := by
  refine List.filter_eq_self.mpr fun x hx => ?_
  obtain ⟨l, hl, rfl⟩ := List.mem_map.mp hx
  rw [State.only_votes hc hl]; rfl

/-- With no poisoned source every lane that votes succeeds. -/
theorem State.polled_votes {s : State} {u : Use} (hc : s.clean [u]) (d : BitVec 8) {out : Nat → BitVec 64 → List (Nat × Word × Bool)}
    {ws : Nat → List (Nat × Word)} (hout : ∀ l, out l (only (s.sources [u] l)).1 = cleanWrites (ws l)) :
    polled (s.votes u) d out = s.cleanResults (s.sources [u]) fun l => (ws l, 0) := by
  unfold polled State.votes State.cleanResults
  rw [List.map_map]
  refine List.map_congr_left fun l hl => ?_
  simp only [Function.comp, State.only_votes hc hl, hout]
  rfl

/-- An instruction that writes registers of the lanes that vote. -/
theorem lanesBecome.of_votes {s : State} {i : Instr} {u : Use} {rows : List Nat} {out : Nat → BitVec 64 → List (Nat × Word × Bool)}
    {ws : Nat → List (Nat × Word)} (hok : s.ok) (hc : s.clean [u]) (hout : ∀ l, out l (only (s.sources [u] l)).1 = cleanWrites (ws l))
    (he : exec i s = .next (s.commit (polled (s.votes u) 1 out) rows)) : lanesBecome s i fun l => (ws l, 0) := by
  rw [State.polled_votes hc 1 hout] at he
  exact lanesBecome.of_commit hok he

/-- An instruction on a vector core that writes a uniform register while its lanes vote. -/
theorem uniformBecomes.of_votes {s : State} {i : Instr} {u : Use} {k : Nat} {x : BitVec 64} {rows : List Nat} (hok : s.ok)
    (hv : s.kind = .vector) (hc : s.clean [u]) (hx : x.toNat < 2 ^ 32)
    (he : exec i s = .next ((s.writeS k false x).commit (polled (s.votes u) 1 fun _ _ => []) rows)) : uniformBecomes s i k false x 0 := by
  have hdone := State.commit_done (s.writeS k false x) s.active rows (s.sources [u]) fun _ => ([], 0)
  rw [State.polled_votes hc 1 (ws := fun _ => []) fun _ => rfl, State.cleanResults] at he
  replace he := he.trans (congrArg _ hdone)
  have hflags : orFlags (fun _ => (0 : FpFlags)) s.active = 0 := by
    unfold orFlags
    induction s.active with
    | nil => rfl
    | cons l ls ih => rw [List.foldl_cons]; exact (congrArg (List.foldl _ · ls) (BitVec.or_zero (x := (0 : FpFlags)))).trans ih
  have hwrites : (s.active.map fun l => laneWrites l []).flatten = [] := by
    induction s.active with
    | nil => rfl
    | cons l ls ih => exact ih
  rw [hflags, hwrites] at he
  exact uniformBecomes.of_writeS hok hv (fun _ => hx) he (State.keeps_finishLanes _ _ _)

theorem bitsOf_lt (p : Nat → Bool) : (bitsOf 32 p).toNat < 2 ^ 32 := by
  refine Nat.lt_pow_two_of_testBit _ fun k hk => ?_
  have h := getLsbD_bitsOf (w := 32) (by decide) p k
  rw [decide_eq_false (by omega), Bool.false_and] at h
  exact h

/-- The lanes of a list below 32 that satisfy a condition. -/
theorem contains_filter_lanes {ls : List Nat} (h : ∀ l ∈ ls, l < 32) (p : Nat → Bool) (k : Nat) :
    (ls.filter p).contains k = (decide (k < 32) && (ls.contains k && p k)) := by
  rw [Bool.eq_iff_iff]
  simp only [List.contains_iff_mem, List.mem_filter, Bool.and_eq_true, decide_eq_true_eq]
  exact ⟨fun ⟨hk, hp⟩ => ⟨h k hk, hk, hp⟩, fun ⟨_, hk, hp⟩ => ⟨hk, hp⟩⟩

theorem State.active_lanes {s : State} (hok : s.ok) : ∀ l ∈ s.active, l < 32 := fun _ hl => s.active_lt hok hl

/-- The neg/abs field of a source read as bits is zero. -/
theorem State.clear.nabs_b32 {s : State} {i : Instr} {f : V3} (hcl : s.clear i) (hp : ∀ x y, i ≠ .pairedSlot x y)
    (hu : f.useA .b32 ∈ (encOf s.ctx i).uses) : (f.useA .b32).nabs = 0 :=
  Use.nabs_eq_zero (hcl.use hp hu).2 rfl

/-- The vote of the active lanes of VOTE. -/
def State.voteOf (s : State) (f : V3) : Nat :=
  let yes (x : Nat × List Src) : Bool := decide (uval 32 (only x.2).1 ≠ 0)
  b2n (if f.sub = 0 then (s.votes (f.useA .b32)).all yes else (s.votes (f.useA .b32)).any yes)

theorem exec_vote_lanes {f : V3} {s : State} (hcl : s.clear (.vote f)) (hc : s.clean [f.useA .b32]) (hd : f.dst.isV = true) :
    exec (.vote f) s = .next (s.commit (polled (s.votes (f.useA .b32)) 1 fun _ _ => put32 f.dst.reg (s.voteOf f)) (s.dstRows (.vote f))) := by
  change execVote f s = _
  unfold execVote
  rw [s.frame_clear _ _ hcl]
  dsimp only
  rw [State.clean_votes hc, if_pos hd]
  rfl

theorem exec_vote_uniform {f : V3} {s : State} (hcl : s.clear (.vote f)) (hc : s.clean [f.useA .b32]) (hd : f.dst.isV = false)
    (ha : s.active ≠ []) :
    exec (.vote f) s = .next ((s.writeS f.dst.reg false (BitVec.ofNat 64 (s.voteOf f))).commit
      (polled (s.votes (f.useA .b32)) 1 fun _ _ => []) (s.dstRows (.vote f))) := by
  change execVote f s = _
  unfold execVote
  rw [s.frame_clear _ _ hcl]
  dsimp only
  rw [State.clean_votes hc, State.votes_isEmpty _ ha, hd]
  rfl

theorem exec_ballot_clean {f : V3} {s : State} (hcl : s.clear (.ballot f)) (hc : s.clean [f.useA .b32]) (ha : s.active ≠ []) :
    exec (.ballot f) s = .next ((s.writeS f.dst.reg false (BitVec.ofNat 64 (maskOf (s.active.filter fun l =>
      decide (uval 32 (only (s.sources [f.useA .b32] l)).1 ≠ 0))))).commit (polled (s.votes (f.useA .b32)) 1 fun _ _ => [])
      (s.dstRows (.ballot f))) := by
  have hmask : ((s.votes (f.useA .b32)).filterMap fun x => if uval 32 (only x.2).1 ≠ 0 then some x.1 else none)
      = s.active.filter fun l => decide (uval 32 (only (s.sources [f.useA .b32] l)).1 ≠ 0) := by
    unfold State.votes
    rw [List.filterMap_map, ← List.filterMap_eq_filter]
    refine congrArg (List.filterMap · _) (funext fun l => ?_)
    simp [Function.comp, Option.guard]
  change execBallot f s = _
  unfold execBallot
  rw [s.frame_clear _ _ hcl]
  dsimp only
  rw [State.clean_votes hc, State.votes_isEmpty _ ha, hmask]
  rfl

/-- The result of MATCH for a value. -/
def State.matchOf (s : State) (f : V3) (v : Nat) : Nat :=
  let t := V3.ity f
  let val (l : Nat) : Nat := uval t.width (only (s.sources [f.useA t] l)).1
  if f.sub = 0 then maskOf (s.active.filter fun j => val j == v)
  else if s.active.all fun j => val j == v then maskOf s.active else 0

theorem exec_matchl_clean {f : V3} {s : State} (hcl : s.clear (.matchl f)) (hc : s.clean [f.useA (V3.ity f)]) :
    exec (.matchl f) s = .next (s.commit (polled (s.votes (f.useA (V3.ity f))) 1 fun _ x =>
      put32 f.dst.reg (s.matchOf f (uval (V3.ity f).width x))) (s.dstRows (.matchl f))) := by
  let val (l : Nat) : Nat := uval (V3.ity f).width (only (s.sources [f.useA (V3.ity f)] l)).1
  have hvals : (s.votes (f.useA (V3.ity f))).map (fun x => (x.1, uval (V3.ity f).width (only x.2).1)) = s.active.map fun l => (l, val l) := by
    rw [State.votes, List.map_map]; rfl
  have hsame (v : Nat) : ((s.active.map fun l => (l, val l)).filter fun y => y.2 == v).map (·.1) = s.active.filter fun l => val l == v := by
    rw [List.filter_map, List.map_map]
    exact List.map_id _
  have hlanes : (s.active.map fun l => (l, val l)).map (·.1) = s.active := by
    rw [List.map_map]
    exact List.map_id _
  have hall (v : Nat) : (s.active.filter fun l => val l == v).length = (s.active.map fun l => (l, val l)).length
      ↔ (s.active.all fun l => val l == v) = true := by
    rw [List.length_map, List.length_filter_eq_length_iff, List.all_eq_true]
  change execMatchl f s = _
  unfold execMatchl
  dsimp only
  rw [s.frame_clear _ _ hcl]
  simp only [State.clean_votes hc, hvals, hsame, hlanes, hall]
  rfl

/-- Settles O10: with no poisoned source every active lane votes, and the masks are those of the votes. -/
theorem votesAndMasks : Obligations.VotesAndMasks := by
  unfold Obligations.VotesAndMasks
  intro f s hok yes
  refine ⟨fun hcl hc => ?vote, fun hcl hc ha => ?ballot, fun hcl hc => ?matchl⟩
  case vote =>
    intro r
    have hn : (f.useA .b32).nabs = 0 := hcl.nabs_b32 (by simp) (by simp [encOf, v3None])
    have hyes : (fun l => decide (uval 32 (only (s.sources [f.useA .b32] l)).1 ≠ 0)) = yes :=
      funext fun l => by rw [← nth_operands_single _ _ _ hn]
    have hr : s.voteOf f = r := by
      have hcomp : ((fun x : Nat × List Src => decide (uval 32 (only x.2).1 ≠ 0)) ∘ fun l => (l, s.sources [f.useA .b32] l)) = yes := hyes
      unfold State.voteOf State.votes
      dsimp only
      rw [List.all_map, List.any_map, hcomp]
      rfl
    refine ⟨fun hd => ?_, fun hd ha => ?_⟩
    · exact hr ▸ lanesBecome.of_votes hok hc (fun _ => rfl) (exec_vote_lanes hcl hc hd)
    · have hv : s.kind = .vector := hcl.vector (by simp) fun _ => rfl
      have hlt : (BitVec.ofNat 64 r).toNat < 2 ^ 32 := by
        rw [← hr]
        exact (show ∀ b : Bool, (BitVec.ofNat 64 (b2n b)).toNat < 2 ^ 32 by decide) _
      exact uniformBecomes.of_votes hok hv hc hlt (hr ▸ exec_vote_uniform hcl hc hd ha)
  case ballot =>
    have hn : (f.useA .b32).nabs = 0 := hcl.nabs_b32 (by simp) (by simp [encOf, v3None])
    have hv : s.kind = .vector := hcl.vector (by simp) fun _ => rfl
    have hmask : BitVec.ofNat 64 (maskOf (s.active.filter fun l => decide (uval 32 (only (s.sources [f.useA .b32] l)).1 ≠ 0)))
        = bitsOf 32 fun l => s.active.contains l && yes l := by
      refine maskOf_eq fun k _ => (contains_filter_lanes (s.active_lanes hok) _ k).trans ?_
      rw [← nth_operands_single _ _ _ hn]
    exact hmask ▸ uniformBecomes.of_votes hok hv hc (hmask ▸ bitsOf_lt _) (exec_ballot_clean hcl hc ha)
  case matchl =>
    have hn : (f.useA (V3.ity f)).nabs = 0 :=
      Use.nabs_eq_zero (hcl.use (by simp) (by simp [encOf, v3Enc, V3.ity])).2 (V3.ity_not_floating f)
    have hlanes := s.active_lanes hok
    have hactive : BitVec.ofNat 32 (maskOf s.active) = (bitsOf 32 fun j => s.active.contains j).setWidth 32 := by
      refine maskWord_eq fun k _ => ?_
      have h := contains_filter_lanes hlanes (fun _ => true) k
      rwa [List.filter_eq_self.mpr fun _ _ => rfl, Bool.and_true] at h
    refine lanesBecome.of_votes hok hc (fun l => ?_) (exec_matchl_clean hcl hc)
    rw [← nth_operands_single _ _ _ hn]
    unfold State.matchOf
    simp only [← nth_operands_single _ _ _ hn]
    split
    next => exact congrArg (fun w => [(f.dst.reg, w, false)]) (maskWord_eq fun k _ => contains_filter_lanes hlanes _ k)
    next =>
      split
      next => exact congrArg (fun w => [(f.dst.reg, w, false)]) hactive
      next => rfl

end Sys2Proof.Machine
end

section
/-! PROOFS. The statements about LANERD, LANEWR, RAND and paired slots. -/

namespace Sys2Proof.Machine

/-- A word of a lane reads as a number of 32 bits. -/
theorem State.readV_lt (s : State) (n l : Nat) : (s.readV n l false).1.toNat < 2 ^ 32 := by
  change ((s.elem (s.vAddr n l)).1.setWidth 64).toNat < 2 ^ 32
  rw [BitVec.toNat_setWidth]
  exact Nat.lt_of_le_of_lt (Nat.mod_le _ _) (s.elem (s.vAddr n l)).1.isLt

/-- The source of LANERD is a per-lane register (R551), which holds no more than a register. -/
theorem State.clear.lanerd_lt {s : State} {f : V3} (hcl : s.clear (.lanerd f)) (q : Nat) (hw : (V3.ity f).wide = false) :
    (s.fetchUse (f.useA (V3.ity f)) q).1.toNat < 2 ^ 32 := by
  have hspec := (hcl.use (by simp) (u := { f.useA (V3.ity f) with kinds := kV }) (by simp [encOf, v3Enc, V3.ity])).1
  have hk : s.ctx.kind = .vector := hcl.vector (by simp) fun _ => rfl
  have hv : ∃ n, f.a = .v n := by
    unfold Use.specOk V3.useA kV at hspec
    dsimp only at hspec
    cases ha : f.a with
    | v n => exact ⟨n, rfl⟩
    | s n => rw [ha, hk] at hspec; cases hspec
    | const n | int n | resv n => rw [ha] at hspec; simp at hspec
  obtain ⟨n, hn⟩ := hv
  unfold State.fetchUse V3.useA
  rw [hn]
  dsimp only
  rw [hw]
  exact s.readV_lt _ _

/-- Each word of a value is the only one for its register. -/
theorem findLast_putVal {n : Nat} {t : Ty} {x : BitVec 64} {w : Nat × Word} (hw : w ∈ valueWords n t x) :
    findLast (putVal n t x) (·.1 == w.1) = some (w.1, w.2, false) := by
  rw [putVal_eq]
  refine findLast_clean ?_
  unfold valueWords putVal at hw ⊢
  unfold findLast
  cases h : t.wide with
  | false =>
    rw [h] at hw
    obtain rfl := List.mem_singleton.mp hw
    simp
  | true =>
    rw [h] at hw
    obtain rfl | hw := List.mem_cons.mp hw
    · simp
    · obtain rfl := List.mem_singleton.mp hw
      simp

theorem findLast_laneWrites {q n : Nat} {ws : List (Nat × Word × Bool)} {w : Nat × Word × Bool} (h : findLast ws (·.1 == n) = some w) :
    findLast (laneWrites q ws) (fun w => w.reg == n && w.lane == q) = some ⟨w.1, q, w.2.1, w.2.2⟩ := by
  have h' := findLast_lanes [q] (fun _ => ws) (List.pairwise_singleton _ q) q n (List.mem_singleton_self q) w h
  rwa [List.map_singleton, List.flatten_singleton] at h'

/-- The registers of a value are those of its type. -/
theorem putVal_regs (n : Nat) (t : Ty) (x y : BitVec 64) : (valueWords n t x).map (·.1) = (putVal n t y).map (·.1) := by
  unfold valueWords putVal
  cases t.wide <;> rfl

/-- Settles O12: LANERD writes a uniform register once, LANEWR one lane's element once, and RAND steps each active lane's state. No check
lets the destination of RAND lie within its state (R580). -/
theorem laneAccessAndRand : Obligations.LaneAccessAndRand := by
  unfold Obligations.LaneAccessAndRand
  intro f s t hok ha
  refine ⟨?lanerd, ?lanewr, ?rand⟩
  case lanerd =>
    intro q hcl hb hv
    have hk : s.kind = .vector := hcl.vector (by simp) fun _ => rfl
    have hexec : exec (.lanerd f) s = .next ((s.writeS f.dst.reg t.wide (s.fetchUse (f.useA t) q).1).next) := by
      change execLanerd f s = _
      unfold execLanerd
      dsimp only
      rw [s.once_may _ _ _ ⟨hcl, ha, by simpa [State.uniformClean] using hb⟩]
      refine congrArg _ (if_neg ?_)
      exact ne_true_of_eq_false hv
    exact uniformBecomes.of_writeS hok hk (hcl.lanerd_lt q) hexec (by rw [State.raise_zero]; exact State.keeps_next _ _)
  case lanewr =>
    intro q hcl hc
    have hq : q < 32 := Nat.mod_lt _ (by decide)
    let v := (s.fetchUse (f.useA t) 0).1
    let ws : List LaneWrite := laneWrites q (putVal f.dst.reg t v)
    have hexec : exec (.lanewr f) s = .next ((s.writeLanes ws).next) := by
      change execLanewr f s = _
      unfold execLanewr
      dsimp only
      rw [s.once_may _ _ _ ⟨hcl, ha, hc⟩]
      rfl
    have hk := (s.writeLanes ws).keeps_next false
    have hlane : ∀ w ∈ ws, w.lane < 32 := fun w hw => by
      obtain ⟨_, _, rfl⟩ := List.mem_map.mp hw
      exact hq
    refine ⟨_, hexec, fun w hw => ?_, ?_, ?_, fun a hout => ?_⟩
    · rw [hk.elem]
      exact s.elem_writeLanes ws hok.2.1.1 hlane w.1 q hq ⟨w.1, q, w.2, false⟩ (findLast_laneWrites (findLast_putVal hw))
    · rw [hk.rest, State.rest_writeLanes]
    · rw [hk.2.2, State.grp_writeLanes]
    · rw [hk.store]
      refine s.read_writeLanes_other ws hok.2.1.1 a fun w hw => ?_
      refine s.outside_writes [q] (fun _ => putVal f.dst.reg t v) a ?_ w (by simpa using hw)
      rwa [putVal_regs _ t 0 v] at hout
  case rand =>
    refine .of_perLane _ (fun _ _ => rfl) fun s' l v _ => ?_
    have hword (k : Nat) : (v.map (BitVec.setWidth 32)).getD k 0 = (nth v k).setWidth 32 := by
      rw [nth, List.getD_eq_getElem?_getD, List.getElem?_map, List.getD_eq_getElem?_getD]
      cases v[k]? <;> rfl
    dsimp only
    rw [hword, hword, hword, hword, put32, BitVec.ofNat_toNat, BitVec.setWidth_eq]
    rfl

/-! ### Paired slots (R182) -/

theorem putVal_clean (n : Nat) (t : Ty) (x : BitVec 64) : ∀ w ∈ putVal n t x, w.2.2 = false := by
  rw [putVal_eq]
  intro w hw
  obtain ⟨_, _, rfl⟩ := List.mem_map.mp hw
  rfl

theorem halfOut_clean (h : Half) (m : Rm) (vs : List (BitVec 64)) : ∀ w ∈ (halfOut h m vs).1, w.2.2 = false := by
  unfold halfOut outVal
  cases h.op
  case fclass | clz | ffs | popc => simp [put32]
  all_goals exact putVal_clean _ _ _

theorem cleanWrites_of_clean {ws : List (Nat × Word × Bool)} (h : ∀ w ∈ ws, w.2.2 = false) : cleanWrites (ws.map fun w => (w.1, w.2.1)) = ws := by
  rw [cleanWrites, List.map_map]
  refine (List.map_congr_left fun w hw => ?_).trans (List.map_id ws)
  exact Prod.ext rfl (Prod.ext rfl (h w hw).symm)

/-- Settles O14: the sources of both halves are read before either result is written. -/
theorem pairedHalvesReadFirst : Obligations.PairedHalvesReadFirst := by
  unfold Obligations.PairedHalvesReadFirst
  intro x y s us hok hcl hc m vals first second
  refine lanesBecome.of_commit (g := s.sources us) (rows := x.writes ++ y.writes) hok ?_
  change execPairedSlot x y s = _
  unfold execPairedSlot
  dsimp only
  rw [s.frame_clear _ _ hcl]
  refine congrArg _ (congrArg (s.commit · _) (List.map_congr_left fun l hl => ?_))
  have hclean : (s.sources us l).any (·.2) = false := hc l hl
  have hparts := hclean
  rw [← List.take_append_drop (Half.sourceUses x).length (s.sources us l), List.any_append, Bool.or_eq_false_iff] at hparts
  rw [if_neg (by rw [hparts.1, hparts.2]; decide)]
  have hfirst := cleanWrites_of_clean (halfOut_clean x m ((vals l).take (Half.sourceUses x).length))
  have hsecond := cleanWrites_of_clean (halfOut_clean y m ((vals l).drop (Half.sourceUses x).length))
  have hboth : cleanWrites ((first l).1.map (fun w => (w.1, w.2.1)) ++ (second l).1.map (fun w => (w.1, w.2.1)))
      = (first l).1 ++ (second l).1 := by
    rw [cleanWrites, List.map_append]
    exact congr (congrArg _ hfirst) hsecond
  rw [hboth, List.map_take, List.map_drop]

end Sys2Proof.Machine
end

section
/-! SUPPORT. A write to a register of a scalar core (R162, R206). -/

namespace Sys2Proof.Machine

/-- Half of a buffer record, by the parity of the register that names it (R206). -/
def halfOf (r : BitVec 128) (k : Nat) : BitVec 64 := if k % 2 = 0 then r.extractLsb' 0 64 else r.extractLsb' 64 64

/-- A buffer record with one half replaced. -/
def withHalf (r : BitVec 128) (k : Nat) (x : BitVec 64) : BitVec 128 :=
  if k % 2 = 0 then r.extractLsb' 64 64 ++ x else x ++ r.extractLsb' 0 64

theorem extract_append_low (a b : BitVec 64) : (a ++ b).extractLsb' 0 64 = b := by
  have h := BitVec.extractLsb'_append_eq_ite (xhi := a) (xlo := b) (start := 0) (len := 64)
  rw [dif_pos (by decide), dif_pos (by decide)] at h
  exact h.trans BitVec.extractLsb'_eq_self

theorem extract_append_high (a b : BitVec 64) : (a ++ b).extractLsb' 64 64 = a := by
  have h := BitVec.extractLsb'_append_eq_ite (xhi := a) (xlo := b) (start := 64) (len := 64)
  rw [dif_neg (by decide)] at h
  exact h.trans BitVec.extractLsb'_eq_self

theorem halfOf_withHalf (r : BitVec 128) (k j : Nat) (x : BitVec 64) :
    halfOf (withHalf r k x) j = if j % 2 = k % 2 then x else halfOf r j := by
  unfold halfOf withHalf
  obtain hk | hk := Nat.mod_two_eq_zero_or_one k <;> obtain hj | hj := Nat.mod_two_eq_zero_or_one j <;>
    simp [hk, hj, extract_append_low, extract_append_high]

/-- The register file of a scalar core after a write to cK or to half of a buffer record. -/
def Core.setScalar (c : Core) (k : Nat) (x : BitVec 64) : Core :=
  let c := { c with cBad := c.cBad &&& ~~~(1#64 <<< k) }
  if k < 32 then { c with c := c.c.set k x }
  else { c with b := c.b.set ((k - 32) / 2) (withHalf (c.b.getD ((k - 32) / 2) 0) k x) }

/-- What a scalar core reads in cK or in half of a buffer record. -/
def Core.readScalar (c : Core) (k : Nat) : Src :=
  (if k < 32 then c.c.getD k 0 else halfOf (c.b.getD ((k - 32) / 2) 0) k, c.cBad.getLsbD k)

theorem State.readS_scalar {s : State} (h : s.kind ≠ .vector) (k : Nat) (wide : Bool) : s.readS k wide = s.core.readScalar k := by
  unfold State.readS Core.readScalar
  split
  next hk => exact absurd hk h
  next => split <;> rfl

theorem State.writeS_scalar {s : State} (h : s.kind ≠ .vector) (k : Nat) (wide : Bool) (x : BitVec 64) :
    s.writeS k wide x = s.onCore (·.setScalar k x) := by
  unfold State.writeS Core.setScalar
  split
  next hk => exact absurd hk h
  next =>
    by_cases hk : k < 32
    · simp only [if_pos hk]; rfl
    · simp only [if_neg hk]; rfl

theorem getLsbD_clear_bit (x : BitVec 64) {k j : Nat} (hj : j < 64) :
    (x &&& ~~~(1#64 <<< k)).getLsbD j = if j = k then false else x.getLsbD j := by
  rw [BitVec.getLsbD_and, BitVec.getLsbD_not, BitVec.getLsbD_shiftLeft, BitVec.getLsbD_one]
  by_cases h : j = k
  · subst h; simp [hj]
  · by_cases hlt : j < k
    · simp [h, hj, hlt]
    · simp [h, hj, hlt, show ¬ j - k = 0 by omega]

theorem getD_set {α : Type} (l : List α) (d x : α) {n : Nat} (m : Nat) (hn : n < l.length) :
    (l.set n x).getD m d = if m = n then x else l.getD m d := by
  rw [List.getD_eq_getElem?_getD, List.getElem?_set, List.getD_eq_getElem?_getD]
  by_cases h : n = m
  · subst h; simp [hn]
  · simp [h, Ne.symm h]

theorem Core.cBad_setScalar (c : Core) (k : Nat) (x : BitVec 64) : (c.setScalar k x).cBad = c.cBad &&& ~~~(1#64 <<< k) := by
  unfold Core.setScalar
  split <;> rfl

/-- What a scalar register is written reads back clean, and every other register reads as it did. -/
theorem Core.readScalar_setScalar {c : Core} (hc : c.c.length = 32) (hb : c.b.length = 16) {k j : Nat} (hk : k < 64) (hj : j < 64)
    (x : BitVec 64) : (c.setScalar k x).readScalar j = if j = k then (x, false) else c.readScalar j := by
  have hbad : (c.setScalar k x).cBad.getLsbD j = if j = k then false else c.cBad.getLsbD j := by
    rw [Core.cBad_setScalar, getLsbD_clear_bit _ hj]
  have hval : ((c.setScalar k x).readScalar j).1 = if j = k then x else (c.readScalar j).1 := by
    unfold Core.readScalar Core.setScalar
    by_cases hk' : k < 32 <;> by_cases hj' : j < 32
    · simp only [if_pos hk', if_pos hj', getD_set c.c 0 x j (hc.symm ▸ hk')]
    · simp only [if_pos hk', if_neg hj', if_neg (show ¬ j = k by omega)]
    · simp only [if_neg hk', if_pos hj', if_neg (show ¬ j = k by omega)]
    · simp only [if_neg hk', if_neg hj']
      rw [getD_set c.b 0 _ _ (show (k - 32) / 2 < c.b.length by omega)]
      by_cases hrec : (j - 32) / 2 = (k - 32) / 2
      · simp only [hrec, if_true, halfOf_withHalf, show (j % 2 = k % 2 ↔ j = k) by omega]
      · rw [if_neg hrec, if_neg (show ¬ j = k by omega)]
  have hpair : (c.setScalar k x).readScalar j = (if j = k then x else (c.readScalar j).1, if j = k then false else c.cBad.getLsbD j) :=
    Prod.ext hval hbad
  rw [hpair]
  split <;> rfl

theorem Core.setScalar_rest (c : Core) (k : Nat) (x : BitVec 64) :
    ∃ r b m, c.setScalar k x = { c with c := r, b := b, cBad := m } := by
  unfold Core.setScalar
  split
  · exact ⟨_, _, _, rfl⟩
  · exact ⟨_, _, _, rfl⟩

theorem State.keeps.readScalar {s t : State} (h : s.keeps t) (k : Nat) : t.core.readScalar k = s.core.readScalar k := by
  unfold Core.readScalar
  rw [h.c, h.b, h.cBad]

/-- An instruction on a scalar core that writes a register, and then changes places only. -/
theorem uniformBecomes.of_writeS_scalar {s t : State} {i : Instr} {k : Nat} {wide : Bool} {x : BitVec 64}
    (hok : s.ok) (hs : s.kind ≠ .vector) (hk64 : k < 64) (he : exec i s = .next t) (hk : (s.writeS k wide x).keeps t) :
    uniformBecomes s i k wide x 0 := by
  obtain ⟨-, ⟨-, hc, hb, -⟩, -⟩ := hok
  rw [State.writeS_scalar hs] at hk
  obtain ⟨r, b, m, hcore⟩ := s.core.setScalar_rest k x
  have hread (j : Nat) (hj : j < 64) (w : Bool) : t.readS j w = if j = k then (x, false) else s.core.readScalar j := by
    have hkind : t.kind ≠ .vector := by
      rw [hk.kind, State.onCore, hcore]; exact hs
    rw [State.readS_scalar hkind, hk.readScalar]
    exact Core.readScalar_setScalar hc hb hk64 hj x
  refine ⟨t, he, ?_, ?_, ?_, fun hv => absurd hv hs, fun _ => ⟨?_, ?_, fun j hj hne => ?_⟩⟩
  · rw [hread k hk64, if_pos rfl]
  · rw [hk.restScalar, State.onCore, hcore, State.raise_zero]; rfl
  · rw [hk.2.2, State.raise_zero, State.onCore]
  · rw [hk.store, State.onCore, hcore]; rfl
  · rw [show t.core.storePoison = _ from congrArg (fun y => y.core.storePoison) hk.1, State.onCore, hcore]; rfl
  · rw [hread j hj, if_neg hne, State.raise_zero, State.readS_scalar hs]

end Sys2Proof.Machine
end

section
/-! PROOFS. The statement about the uniform instructions. -/

namespace Sys2Proof.Machine

/-- The destination of a uniform instruction on a scalar core is a register (R206). -/
theorem Use.reg_lt {u : Use} {c : CheckCtx} (hc : c.kind ≠ .vector) (h : u.specOk c = true) : u.o.reg < 64 := by
  unfold Use.specOk at h
  cases ho : u.o with
  | v n => rw [ho] at h; simp [hc] at h
  | s n | const n | int n | resv n => exact n.isLt

/-- What `writeU` writes: a value extended to the register of the core's kind (R593). -/
def State.extended (s : State) (t : Ty) (x : BitVec 64) : BitVec 64 :=
  match s.kind with
  | .vector => t.fill x
  | _ => scalarFill t x

theorem State.writeU_eq (s : State) (o : Opnd) (t : Ty) (x : BitVec 64) : s.writeU o t x = s.writeS o.reg t.wide (s.extended t x) := by
  unfold State.writeU State.extended
  cases s.kind <;> rfl

/-- An instruction that acts once and writes a uniform result. -/
theorem UniformEffect.of_writeU {f : UF} {i : Instr} {us : List Use} {t : Ty} {val : State → List (BitVec 64) → BitVec 64}
    (hp : ∀ x y, i ≠ .pairedSlot x y) (hdst : ∀ c, ∃ u ∈ (encOf c i).uses, u.o = f.dst)
    (he : ∀ s, exec i s = .next (s.once i us fun s vs => (s.writeU f.dst t (val s vs)).next)) :
    UniformEffect i us f.dst.reg t.wide fun s v => s.extended t (val s v) := by
  intro s hok hcl ha hc
  have hexec : exec i s = .next ((s.writeS f.dst.reg t.wide (s.extended t (val s (s.uniformOperands us)))).next) := by
    rw [he, s.once_may i us _ ⟨hcl, ha, hc⟩, State.writeU_eq]
  by_cases hk : s.kind = .vector
  · have hfill (x : BitVec 64) : s.extended t x = t.fill x := by unfold State.extended; rw [hk]
    have hkeeps := State.keeps_next (s.writeS f.dst.reg t.wide (s.extended t (val s (s.uniformOperands us)))) false
    refine uniformBecomes.of_writeS hok hk (fun hw => ?_) hexec (by rwa [State.raise_zero])
    exact Nat.lt_of_le_of_lt (Nat.le_of_eq (congrArg BitVec.toNat (hfill _))) (Ty.fill_toNat_lt hw _)
  · obtain ⟨u, hu, ho⟩ := hdst s.ctx
    have hlt := Use.reg_lt (c := s.ctx) hk (hcl.use hp hu).1
    rw [ho] at hlt
    exact uniformBecomes.of_writeS_scalar hok hk hlt hexec (State.keeps_next _ _)

/-- Settles O15: the result of the sub-op, extended as `writeU` does, and the relation of SCMP in scc alone. -/
theorem uniformInstructions : Obligations.UniformInstructions := by
  unfold Obligations.UniformInstructions
  intro f t n tb uses second ext
  refine ⟨?salu, ?ssel, ?smov, ?scmp⟩
  case salu =>
    exact .of_writeU (val := fun _ v => saluOp n t (nth v 0) (second tb v)) (by simp) (fun c => ⟨_, List.mem_cons_self, rfl⟩) fun _ => rfl
  case ssel => exact .of_writeU (by simp) (fun c => ⟨_, List.mem_cons_self, rfl⟩) (fun _ => rfl)
  case smov => exact .of_writeU (by simp) (fun c => ⟨_, List.mem_cons_self, rfl⟩) (fun _ => rfl)
  case scmp =>
    intro s hok hcl ha hc
    let scc := intRel n (t.int (nth (s.uniformOperands (uses t)) 0)) (t.int (second t (s.uniformOperands (uses t))))
    let s' := s.onGrp fun g => { g with scc := scc }
    have hexec : exec (.scmp f) s = .next s'.next := congrArg _ (s.once_may _ (uses t) _ ⟨hcl, ha, hc⟩)
    have hk := s'.keeps_next false
    have hscc : s'.next.grp.scc = scc := congrArg (fun g => g.scc) hk.grp
    refine ⟨_, hexec, hscc, ?_⟩
    rw [hscc]
    exact ⟨hk.1, hk.2.2⟩

end Sys2Proof.Machine
end

section
/-! PROOFS. The statement about square roots and approximations. -/

namespace Sys2Proof.Machine

/-- An instruction that writes one result that does not depend on the mode. -/
theorem RoundedEffect.of_approx {i : Instr} {f : V3} (g : BitVec 64 → BitVec 64 × FpFlags)
    (he : ∀ s, exec i s = .next (s.perLaneRounded i f.rnd [f.useA (V3.nty f)] fun _ v => outVal f.dst.reg (V3.nty f) (g (nth v 0)))) :
    RoundedEffect i f.rnd [f.useA (V3.nty f)] fun _ v => (valueWords f.dst.reg (V3.nty f) (g (nth v 0)).1, (g (nth v 0)).2) :=
  .of_outVal (fun _ v => g (nth v 0)) he fun _ _ _ _ => rfl

/-- The results of R229 for negative numbers. -/
theorem negative_results {t : Ty} {a : BitVec 64} {m : Nat} {e : Int} {st : Bool} (ht : t ∈ [Ty.f64, .f32, .f16])
    (hv : t.val a = .num true m e st) (hm : m ≠ 0) : fpSqrt t .rne a = (t.nan, fNV) ∧ fpRsq t a = (t.nan, fNV) ∧ fpLog2 t a = (t.nan, fNV) := by
  have hnan : ∀ t ∈ [Ty.f64, .f32, .f16], rounded t .rne (.nan false, fNV) = (t.nan, fNV) := by decide
  unfold fpSqrt fpRsq fpLog2 sqrtVal
  rw [hv]
  simp only [if_neg hm, if_true, and_true]
  exact hnan t ht

/-- The results for a NaN (R229). -/
theorem nan_results {t : Ty} {a : BitVec 64} {s : Bool} (hv : t.val a = .nan s) :
    ∀ g ∈ [fpRcp t, fpRsq t, fpExp2 t, fpLog2 t, fpSinCos false t, fpSinCos true t, fpTanh t], g a = (t.nan, if s = true then fNV else 0) := by
  have hflag : (t.nan, flagIf s fNV) = (t.nan, if s = true then fNV else 0) := by cases s <;> rfl
  simp only [List.forall_mem_cons, fpRcp, fpRsq, fpExp2, fpLog2, fpSinCos, fpTanh, hv, hflag]
  simp

/-! ### Inexact results (R228) -/

/-- A result is one of the neighbours of an exact value. -/
theorem nearby_mode (op : Nat) (t : Ty) (a : BitVec 64) (v : Val) : ∃ mode, nearby op t a v = roundTo t mode false v := by
  unfold nearby
  generalize (if v.neg then Rm.rdn else Rm.rup) = away
  dsimp only
  split
  · exact ⟨.rtz, rfl⟩
  · split
    · exact ⟨.rne, rfl⟩
    · split
      · exact ⟨away, rfl⟩
      · exact ⟨.rtz, rfl⟩

theorem ix_of_or (x : FpFlags) : (fIX ||| x) &&& fIX = fIX := by
  unfold fIX
  revert x
  decide

/-- A result lies within the bound of an exact value, with IX, or is that value rounded. -/
theorem freeResult_lies (op : Nat) (t : Ty) (a : BitVec 64) (v : Val) (bound : Int) :
    let r := freeResult op t a v bound
    (t.val r.1).near v bound = true ∧ r.2 &&& fIX = fIX ∨ r = roundTo t .rne false v := by
  unfold freeResult
  dsimp only
  split
  next hnear =>
    refine .inl ?_
    split
    · exact ⟨hnear, ix_of_or _⟩
    · exact ⟨hnear, BitVec.and_self⟩
  next => exact .inr rfl

section
variable {t : Ty} {a : BitVec 64} {s : Bool} {m : Nat} {e : Int} {st : Bool} (hv : t.val a = .num s m e st) (hm : m ≠ 0)
include hv hm

theorem fpRcp_num :
    let v := (divVal (.num false 1 0 false) (.num s m e false)).1
    fpRcp t a = if (pow2 m || t == .f16) = true then roundTo t .rne false v else nearby 0 t (low t.width a) v := by
  unfold fpRcp
  rw [hv]
  exact if_neg hm

theorem fpRsq_num (hs : s = false) :
    let v := exactRsq m e
    fpRsq t a = if v.exact = true then roundTo t .rne false v
      else if t = .f32 then freeResult 1 t a v (2 * ulpOf t v) else nearby 1 t (low t.width a) v := by
  subst hs
  unfold fpRsq
  rw [hv]
  exact (if_neg hm).trans (if_neg Bool.false_ne_true)

theorem fpLog2_num (hs : s = false) :
    let v := exactLog2 m e
    fpLog2 t a = if pow2 m = true then roundTo t .rne false (Val.ofInt (e + (Nat.log2 m : Int)))
      else freeResult 4 t a v (if (t == .f32 && decide (-(1 : Int) ≤ e + (Nat.log2 m : Int)) && decide (e + (Nat.log2 m : Int) < 1)) = true
        then absBound t else ulpBound t v) := by
  subst hs
  unfold fpLog2
  rw [hv]
  exact (if_neg hm).trans (if_neg Bool.false_ne_true)

theorem fpSinCos_num (cos : Bool) :
    fpSinCos cos t a = freeResult (if cos then 6 else 5) t a (exactSinCos cos (.num s m e st)) (absBound t) := by
  unfold fpSinCos
  rw [hv]
  exact if_neg hm

theorem fpTanh_num : fpTanh t a = freeResult 7 t a (exactTanh (.num s m e st)) (ulpBound t (exactTanh (.num s m e st))) := by
  unfold fpTanh
  rw [hv]
  exact if_neg hm

end

theorem fpExp2_num {t : Ty} {a : BitVec 64} {s : Bool} {m : Nat} {e : Int} {st : Bool} (hv : t.val a = .num s m e st) :
    let n := roundInt .rtz s m e st
    let v := exactExp2 (.num s m e st)
    fpExp2 t a = if (t.fmt.bias : Int) < n.1 then roundTo t .rne false (.num false 1 (t.fmt.bias + 1) false)
      else if n.2 = false ∧ t.fmt.qmin ≤ n.1 then roundTo t .rne false (.num false 1 n.1 false)
      else freeResult 3 t a v (ulpBound t v) := by
  unfold fpExp2
  rw [hv]
  simp

/-- Settles O8: each approximation is one function of its operand, whose inexact results `nearby` and `freeResult` give (log entry 7).
Under SR the stepped RAND state is written after the root of FSQRT (log entry 71). -/
theorem transcendentals : Obligations.Transcendentals := by
  unfold Obligations.Transcendentals
  refine ⟨fun f => ⟨?fsqrt, ?frcp, ?frsq, ?fexp2, ?flog2, ?fsin, ?fcos, ?ftanh⟩, fun t ht => ?special,
    fun t a => ⟨fun s hv => nan_results hv, fun s m e st hv hm => ⟨?rcp, fun hs => ?rsq, fun hn => ?exp2, fun hn => ?large, fun hs => ?log2,
      fun cos => ?sincos, ?tanh⟩⟩⟩
  case fsqrt => exact .of_outVal (fun m v => fpSqrt (V3.nty f) m (nth v 0)) (fun _ => rfl) fun _ _ _ _ => rfl
  case frcp => exact .of_approx _ fun _ => rfl
  case frsq => exact .of_approx _ fun _ => rfl
  case fexp2 => exact .of_approx _ fun _ => rfl
  case flog2 => exact .of_approx _ fun _ => rfl
  case fsin => exact .of_approx _ fun _ => rfl
  case fcos => exact .of_approx _ fun _ => rfl
  case ftanh => exact .of_approx _ fun _ => rfl
  case special =>
    have hnegative {a m e st} (hv : t.val a = .num true m e st) (hm : m ≠ 0) := negative_results ht hv hm
    obtain rfl | rfl | rfl : t = .f64 ∨ t = .f32 ∨ t = .f16 := by simpa using ht
    all_goals
      iterate 30 (refine ⟨by decide +kernel, ?_⟩)
      exact fun _ _ _ _ => hnegative
  case rcp =>
    rw [fpRcp_num hv hm]
    by_cases h : pow2 m = true ∨ t = .f16
    · rw [if_pos h, if_pos (by simpa using h)]
    · rw [if_neg h, if_neg (by simpa using h)]
      exact nearby_mode _ _ _ _
  case rsq =>
    rw [fpRsq_num hv hm hs]
    split
    · rfl
    · split
      · exact freeResult_lies _ _ _ _ _
      · exact nearby_mode _ _ _ _
  case exp2 =>
    rw [fpExp2_num hv, if_neg (Int.not_lt.mpr hn)]
    split
    · rfl
    · exact freeResult_lies _ _ _ _ _
  case large => rw [fpExp2_num hv, if_pos hn]
  case log2 =>
    rw [fpLog2_num hv hm hs]
    split
    · rfl
    · simp only [Bool.and_eq_true, beq_iff_eq, decide_eq_true_eq, and_assoc]
      exact freeResult_lies _ _ _ _ _
  case sincos => exact fpSinCos_num hv hm cos ▸ freeResult_lies _ _ _ _ _
  case tanh => exact fpTanh_num hv hm ▸ freeResult_lies _ _ _ _ _

end Sys2Proof.Machine
end

section
/-! SUPPORT. The frame that every instruction of an encoding acts in: the checks of R203, and an empty active set (R101). -/

namespace Sys2Proof.Machine

/-- What the frame of an instruction does before the instruction itself: where a check of R203 fails, the active lanes trap (R204), and with
no active lane the issue set moves on (R101). -/
structure HasFrame (i : Instr) (s : State) : Prop where
  traps : ∀ d h, illDetail s.ctx i = some (d, h) → exec i s = .next (s.trapActive { kind := 1, detail := d, half := h } [])
  idle : s.clear i → s.active = [] → ∃ ends, exec i s = .next (s.next ends)

theorem State.frame_ill {s : State} {i : Instr} {d : BitVec 8} {h : Bool} (hi : illDetail s.ctx i = some (d, h)) (k : State → State) :
    s.frame i k = s.trapActive { kind := 1, detail := d, half := h } [] := by
  unfold State.frame
  rw [hi]

theorem HasFrame.of_frame {i : Instr} {s : State} {k : State → State} (he : exec i s = .next (s.frame i k))
    (hk : s.active = [] → ∃ ends, k s = s.next ends) : HasFrame i s where
  traps d h hi := by rw [he, State.frame_ill hi]
  idle hcl ha := by
    obtain ⟨ends, hends⟩ := hk ha
    exact ⟨ends, by rw [he, s.frame_clear i k hcl, hends]⟩

/-- The results of no lanes. -/
theorem State.commit_nil (s : State) (rows : List Nat) : s.commit [] rows = s.next := by
  have hmoved : s.issueSet.filter (fun l => !(List.any ([] : List (Nat × List Src × Trap)) (·.1 == l))) = s.issueSet :=
    List.filter_eq_self.mpr fun _ _ => rfl
  change (((s.raise 0).onGrp (·.step (s.issueSet.filter fun l => !(List.any ([] : List (Nat × List Src × Trap)) (·.1 == l))))).retire s.pc false) = _
  rw [hmoved, State.raise_zero]
  rfl

theorem HasFrame.of_perLane {i : Instr} {s : State} {us : List Use} {body : Nat → List (BitVec 64) → LaneOut}
    (he : exec i s = .next (s.perLane i us body)) : HasFrame i s :=
  .of_frame he fun ha => ⟨false, by
    have hnone : s.laneResults us body = [] := by unfold State.laneResults; rw [ha]; rfl
    rw [hnone, State.commit_nil]⟩

/-- An instruction that first of all looks for an active lane. -/
theorem HasFrame.of_guard {i : Instr} {s : State} {k : State → State}
    (he : exec i s = .next (s.frame i fun s => if s.active.isEmpty then s.next (canWait i) else k s)) : HasFrame i s :=
  .of_frame he fun ha => ⟨canWait i, if_pos (by rw [ha]; rfl)⟩

theorem HasFrame.of_once {i : Instr} {s : State} {us : List Use} {body : State → List (BitVec 64) → State}
    (he : exec i s = .next (s.once i us body)) : HasFrame i s := .of_guard he

theorem HasFrame.of_matrix {i : Instr} {s : State} {f : MXF} {k : State → Nat → State} (he : exec i s = .next (s.matrixOp i f k)) :
    HasFrame i s := .of_guard he

theorem HasFrame.of_access {i : Instr} {s : State} {k : State → State} (he : exec i s = .next (s.access i k)) : HasFrame i s := .of_guard he

/-- An instruction that waits first, which only one that no check stops does for an active lane. -/
theorem HasFrame.of_held {i : Instr} {s t u : State} {p : Prop} [Decidable p] (he : exec i s = .next (if p then t else u))
    (hp : p → s.active ≠ [] ∧ illDetail s.ctx i = none) (h : exec i s = .next u → HasFrame i s) : HasFrame i s := by
  by_cases hheld : p
  · obtain ⟨ha, hi⟩ := hp hheld
    exact ⟨fun d half hill => (by rw [hi] at hill; cases hill), fun _ hnone => absurd hnone ha⟩
  · exact h (by rw [he, if_neg hheld])

/-- The results of the active lanes, where no lane is active. -/
theorem HasFrame.of_results {i : Instr} {s : State} {res : State → Nat → Nat × List Src × LaneOut} {rows : State → List Nat}
    (he : exec i s = .next (s.frame i fun s => s.commit (s.active.map (res s)) (rows s))) : HasFrame i s :=
  .of_frame he fun ha => ⟨false, by rw [ha, List.map_nil, State.commit_nil]⟩

theorem Group.mapLanes_id (g : Group) {f : Nat → Lane → Lane} (h : ∀ k x, f k x = x) : g.mapLanes f = g := by
  have hlanes : g.lanes.mapIdx f = g.lanes := by
    rw [show f = fun _ x => x from funext fun k => funext (h k)]
    exact List.mapIdx_eq_iff.mpr (by simp)
  unfold Group.mapLanes
  rw [hlanes]

/-- A transfer of no lanes moves the issue set on. -/
theorem State.scatter_nil (s : State) : s.scatter [] = s.next := by
  have hothers : s.issueSet.filter (fun l => !(List.any ([] : List (Nat × List Src × LaneGo)) (·.1 == l))) = s.issueSet :=
    List.filter_eq_self.mpr fun _ _ => rfl
  have hexit (g : Group) : g.exit [] = g := g.mapLanes_id fun _ _ => rfl
  change ((s.onGrp fun g => (g.step (s.issueSet.filter (fun l => !(List.any ([] : List (Nat × List Src × LaneGo)) (·.1 == l))) ++ [])).exit
    []).retire s.pc false) = _
  rw [hothers, List.append_nil]
  simp only [hexit]
  rfl

theorem State.issueSet_rest (s : State) : s.issueSet.filter (fun l => !has [] l) = s.issueSet := List.filter_eq_self.mpr fun _ _ => rfl

theorem State.trapUnlessReplay_none {s : State} (ha : s.active = []) (t : Trap) : s.trapUnlessReplay t = s.next := by
  unfold State.trapUnlessReplay
  rw [ha]
  exact congrArg (fun ls => (s.onGrp (·.step ls)).retire s.pc false) s.issueSet_rest

/-- The instructions that act on the issue set, or on none of its lanes (R101). -/
def onIssueSet : Instr → Bool
  | .ifc _ | .elsec _ | .endif _ | .loop _ | .breakif _ | .contif _ | .endloop _ | .reconv _ | .regroup _ | .repack _ => true
  | _ => false

theorem hasFrame (i : Instr) (s : State) (h : (encode i).isSome) (hi : onIssueSet i = false) : HasFrame i s := by
  cases i
  case and | andVi | andn | bfe | bfi | brev | clz | cvt | cvtef | fadd | faddVi | fclass | fcmp | fcmpVi | fcos | fdivfix | fdot2 | fexp2
     | ffma | ffmaVi | ffs | fldexp | flog2 | fmax | fmin | fmul | fmulVi | frcp | frint | frsq | fsin | fsqrt | ftanh | iabs | iadd
     | iaddVi | iaddc | icmp | icmpVi | idot4 | imad | imadVi | imadw | imax | imaxVi | imin | iminVi | imul | imulVi | imulh | ineg | isub
     | isubVi | lea | mov | movi | mxunpack | not | or | orVi | orn | popc | rand | rotl | sel | shl | shr | shra | xor | xorVi => exact .of_perLane rfl
  case clkadv | lanerd | lanewr | launch | progress | salu | scmp | semwait | sleep | smov | spinhint | ssel | tiledef | tileq | tilerel
     | waitt | xcancel => exact .of_once rfl
  case atom | atoml | atomp | bararv | barinit | bartest | bartx | barwait | binget | binput | expire | fence | fill | ld | ldl | ldp | ldu
     | precv | pref | psend | renew | spill | st | stl | stp | xcpy | xfill | xgather | xpeer | xreduce | xscatter => exact .of_access rfl
  case mma | accload | acczero => exact .of_matrix rfl
  case accdrain | call | mmab | movsp | rast | setsp | tex | texq | trav | travnext | waitcnt => exact .of_guard rfl
  case shfl | pairedSlot => exact .of_results rfl
  case mxpack => exact .of_frame rfl fun ha => ⟨false, by simp [ha, State.commit_nil]⟩
  case vote => exact .of_frame rfl fun ha => ⟨false, by simp [State.votes, Machine.clean, polled, ha, State.commit_nil]⟩
  case ballot => exact .of_frame rfl fun ha => ⟨false, by simp [State.votes, polled, ha, State.commit_nil]⟩
  case matchl => exact .of_frame rfl fun ha => ⟨false, by simp [State.votes, polled, ha, State.commit_nil]⟩
  case reduce => exact .of_frame rfl fun ha => ⟨false, by simp [State.votes, ha]⟩
  case scan => exact .of_frame rfl fun ha => ⟨false, by simp [State.votes, ha, State.commit_nil]⟩
  case nop => exact .of_frame rfl fun _ => ⟨false, rfl⟩
  case idem => exact .of_frame rfl fun ha => ⟨false, by simp [ha]⟩
  case bra f =>
    refine .of_frame rfl fun ha => ⟨false, ?_⟩
    dsimp only
    split
    · simp [ha, going, State.scatter_nil]
    · simp [State.uniformTransfer, ha]
  case brx f | ret f =>
    refine .of_frame rfl fun ha => ⟨false, ?_⟩
    simp [ha, State.scatter_nil, State.translated, State.missing, targetLines, pageFirsts]
  case exit f => exact .of_frame rfl fun ha => ⟨false, by simp [ha, State.scatter_nil]⟩
  case trap f | bkpt f => exact .of_frame rfl fun ha => ⟨false, State.trapUnlessReplay_none ha _⟩
  case syscall f =>
    refine .of_frame rfl fun ha => ⟨false, ?_⟩
    simp [ha, State.trapUnlessReplay_none]
  case eret f =>
    refine .of_frame rfl fun ha => ⟨true, ?_⟩
    dsimp only
    rw [ha, s.issueSet_rest]
    have heret (g : Group) : g.eret [] = g := g.mapLanes_id fun _ _ => rfl
    simp only [heret]
    rfl
  case flush f =>
    refine .of_held rfl (fun ⟨_, ha, hi⟩ => ⟨by simpa using ha, by simpa using hi⟩) fun he => .of_access he
  case semsig f =>
    refine .of_held rfl (fun ⟨_, _, ha, hi⟩ => ⟨by simpa using ha, by simpa using hi⟩) fun he => .of_once he
  case mmawait f =>
    by_cases hall : f.flags.getLsbD 0 = true
    · exact .of_guard (congrArg _ (if_pos hall))
    · exact .of_matrix (congrArg _ (if_neg hall))
  case ifc f | elsec f | endif f | loop f | breakif f | contif f | endloop f | reconv f | regroup f | repack f => cases hi
  all_goals cases h

/-- Where a check of R203 fails, every instruction of an encoding parks the active lanes (R204). -/
theorem exec_ill {i : Instr} {s : State} {d : BitVec 8} {half : Bool} (h : (encode i).isSome) (hill : illDetail s.ctx i = some (d, half)) :
    exec i s = .next (s.trapActive { kind := 1, detail := d, half := half } []) := by
  cases hi : onIssueSet i with
  | false => exact (hasFrame i s h hi).traps d half hill
  | true =>
    have hframe : ∃ k, exec i s = .next (s.frame i k) := by
      cases i
      case ifc f | elsec f | endif f | loop f | breakif f | contif f | endloop f | reconv f => exact ⟨_, rfl⟩
      case regroup f | repack f => exact ⟨_, congrArg _ rfl⟩
      all_goals cases hi
    obtain ⟨k, hk⟩ := hframe
    rw [hk, State.frame_ill hill]

end Sys2Proof.Machine
end

section
/-! PROOFS. The statements about traps, and about NOP, RECONV, EXIT and ERET. -/

namespace Sys2Proof.Machine

/-- An instruction that traps every active lane parks them. -/
theorem lanesPark.of_trapActive {s : State} {i : Instr} {t : Trap} {rows : List Nat} (hh : s.grp.inHandler = false)
    (he : exec i s = .next (s.trapActive t rows)) :
    lanesPark s s i false (fun l => if s.active.contains l then some t else none) (fun _ => []) rows := by
  obtain ⟨g, hg, hparks⟩ := s.trapActive_spec t rows hh
  exact ⟨g, by rw [he, hg], hparks⟩

/-- An instruction that traps the active lanes that do not replay parks those. -/
theorem lanesPark.of_trapUnlessReplay {s' s : State} {i : Instr} {t : Trap} (hh : s'.grp.inHandler = false) (hpc : s'.pc = s.pc)
    (he : exec i s = .next (s'.trapUnlessReplay t)) :
    lanesPark s' s i false (fun l => if s'.active.contains l && !(s'.lane l).replay then some t else none) (fun _ => []) [] := by
  have hset : ∀ l ∈ s'.active.filter fun l => !(s'.lane l).replay, l ∈ s'.issueSet :=
    fun l hl => s'.grp.active_issueSet (List.mem_filter.mp hl).1
  obtain ⟨g, hg, hregs, hlen, hlanes⟩ := s'.park_and_step (s'.active.filter fun l => !(s'.lane l).replay) t [] hh
    (s'.grp.active_nodup.filter _) hset
  refine ⟨g, by rw [he, ← hg, ← hpc]; rfl, hregs, hlen, fun k hk => ?_⟩
  have hmem : (s'.active.filter fun l => !(s'.lane l).replay).contains k = (s'.active.contains k && !(s'.lane k).replay) := by
    rw [Bool.eq_iff_iff]
    simp only [List.contains_iff_mem, List.mem_filter, Bool.and_eq_true]
  rw [hlanes k hk]
  dsimp only
  rw [hmem]

/-- Settles O20: every instruction of an encoding stands in the frame of R203. -/
theorem illegalEncodingsTrap : Obligations.IllegalEncodingsTrap := by
  unfold Obligations.IllegalEncodingsTrap
  exact fun i s d h hi hh hill => lanesPark.of_trapActive hh (exec_ill hi hill)

/-- Settles O19: each of them parks the lanes that it traps, and the rest of the issue set moves on. -/
theorem trappingInstructions : Obligations.TrappingInstructions := by
  unfold Obligations.TrappingInstructions
  intro s hh act new
  refine ⟨fun d h => ?ill, fun f hcl => ?trap, fun f hcl => ?bkpt, fun f hcl => ?syscall⟩
  case ill => exact lanesPark.of_trapActive hh rfl
  case trap => exact lanesPark.of_trapUnlessReplay hh rfl (congrArg _ (s.frame_clear _ _ hcl))
  case bkpt => exact lanesPark.of_trapUnlessReplay hh rfl (congrArg _ (s.frame_clear _ _ hcl))
  case syscall =>
    have hexec : exec (.syscall f) s
        = .next ((if s.active = [] then s else s.onGrp Group.effect).trapUnlessReplay { kind := 0x10, code := f.code }) := by
      refine congrArg _ ((s.frame_clear _ _ hcl).trans ?_)
      rw [hh]
      simp
    by_cases ha : s.active = []
    · rw [if_pos ha] at hexec ⊢
      exact lanesPark.of_trapUnlessReplay hh rfl hexec
    · rw [if_neg ha] at hexec ⊢
      exact lanesPark.of_trapUnlessReplay hh rfl hexec

/-! ### Moving lanes (R102) -/

theorem Group.mapLanes_mapLanes (g : Group) (f h : Nat → Lane → Lane) : (g.mapLanes f).mapLanes h = g.mapLanes fun k x => h k (f k x) := by
  unfold Group.mapLanes
  exact congrArg (fun ls => { g with lanes := ls }) List.mapIdx_mapIdx

theorem Group.step_eq (g : Group) (ls : List Nat) : g.step ls = g.mapLanes fun k x => if ls.contains k then x.after else x := by
  unfold Group.step
  simp only [has_eq_contains]

theorem State.next_eq (s : State) (ends : Bool) :
    s.next ends = (s.onGrp (·.mapLanes fun k x => if s.issueSet.contains k then x.after else x)).retire s.pc ends := by
  unfold State.next
  simp only [Group.step_eq]

/-- A lane that goes a certain way. -/
def LaneGo.moves (g : LaneGo) (x : Lane) : Lane :=
  match g with
  | .on => x.after
  | .goto t => x.goto t
  | .leave => { x with st := .exited, handler := false, replay := false, log := none }
  | .trap _ => x

/-- A way that ends in no trap. -/
def LaneGo.sound (g : LaneGo) (s : State) : Prop :=
  match g with
  | .goto t => s.targetTrap t = none
  | .trap _ => False
  | _ => True

/-- Whether a way is a taken transfer. -/
def LaneGo.taken (g : LaneGo) : Bool := match g with | .goto _ => true | _ => false

/-- A way of `scatter`, whose taken transfer is checked under R159. -/
def State.checkedGo (s : State) (g : Nat × List Src × LaneGo) : Nat × List Src × LaneGo :=
  match g.2.2 with
  | .goto t => (g.1, g.2.1, match s.targetTrap t with | some x => LaneGo.trap x | none => .goto t)
  | _ => g

/-- The transfer or the trap of a lane in `scatter`. -/
def State.goLane (s : State) (g : Nat × List Src × LaneGo) : State :=
  match g.2.2 with
  | .goto t => s.onGrp (·.mapLanes fun k x => if k = g.1 then { x.completed with pc := BitVec.ofNat 56 t } else x)
  | .trap t => s.trapLane g.1 t g.2.1 []
  | _ => s

/-- The lanes that move on in `scatter`: those of the issue set that are not active, and the active ones that go on. -/
def State.onward (s : State) (gs : List (Nat × List Src × LaneGo)) : List Nat :=
  (s.issueSet.filter fun l => !(gs.any (·.1 == l))) ++ going gs (fun g => g == .on)

theorem State.scatter_eq (s : State) (gs : List (Nat × List Src × LaneGo)) : s.scatter gs =
    let gs := gs.map s.checkedGo
    (gs.foldl State.goLane (s.onGrp fun g => (g.step (s.onward gs)).exit (going gs (fun g => g == .leave)))).retire s.pc
      (gs.any fun g => g.2.2.taken) := rfl

theorem checkedGo_sound {s : State} {l : Nat} {vs : List Src} {g : LaneGo} (h : g.sound s) : s.checkedGo (l, vs, g) = (l, vs, g) := by
  unfold State.checkedGo
  cases g with
  | goto t =>
    have htarget : s.targetTrap t = none := h
    dsimp only
    rw [htarget]
  | on | leave | trap t => rfl

theorem foldl_goLane (go : Nat → LaneGo) (vals : Nat → List Src) {ls : List Nat} (hls : ls.Nodup) (s u : State)
    (hgo : ∀ l ∈ ls, (go l).sound u) :
    (ls.map fun l => (l, vals l, go l)).foldl State.goLane s
      = s.onGrp (·.mapLanes fun k x => if ls.contains k && (go k).taken then (go k).moves x else x) := by
  induction ls generalizing s with
  | nil =>
    have hid (g : Group) := g.mapLanes_id (f := fun k x => if ([] : List Nat).contains k && (go k).taken then (go k).moves x else x) fun _ _ => rfl
    simp only [hid]
    rfl
  | cons l ls ih =>
    obtain ⟨hl, hls⟩ := List.nodup_cons.mp hls
    have hsound := hgo l List.mem_cons_self
    have hne (k : Nat) (hk : ls.contains k = true) : k ≠ l := fun e => hl (by rw [← e]; exact List.contains_iff_mem.mp hk)
    rw [List.map_cons, List.foldl_cons, ih hls _ fun k hk => hgo k (List.mem_cons_of_mem l hk)]
    unfold State.goLane
    cases hway : go l with
    | goto t =>
      refine congrArg (fun g => { s with grp := g }) ((Group.mapLanes_mapLanes _ _ _).trans ?_)
      refine congrArg s.grp.mapLanes (funext fun k => funext fun x => ?_)
      by_cases hk : k = l
      · subst hk
        simp [hl, hway, LaneGo.taken, LaneGo.moves, Lane.goto]
      · simp [hk]
    | trap t => rw [hway] at hsound; exact hsound.elim
    | on | leave =>
      refine congrArg (fun g => { s with grp := g }) (congrArg s.grp.mapLanes (funext fun k => funext fun x => ?_))
      by_cases hk : k = l
      · subst hk
        simp [hway, LaneGo.taken]
      · simp [hk]

/-- The active lanes that go a certain way. -/
theorem contains_going (ls : List Nat) (vals : Nat → List Src) (go : Nat → LaneGo) (p : LaneGo → Bool) (k : Nat) :
    (going (ls.map fun l => (l, vals l, go l)) p).contains k = (ls.contains k && p (go k)) := by
  unfold going
  rw [List.filterMap_map, Bool.eq_iff_iff]
  simp only [Function.comp_apply, List.contains_iff_mem, List.mem_filterMap, Bool.and_eq_true]
  constructor
  · rintro ⟨l, hl, hp⟩
    split at hp
    next h => cases hp; exact ⟨hl, h⟩
    next => cases hp
  · rintro ⟨hk, hp⟩
    exact ⟨k, hk, if_pos hp⟩

theorem State.issueSet_of_active {s : State} {k : Nat} (h : s.active.contains k = true) : s.issueSet.contains k = true :=
  List.contains_iff_mem.mpr (s.grp.active_issueSet (List.contains_iff_mem.mp h))

/-- Where no lane traps, each active lane goes its way and the rest of the issue set moves on. -/
theorem State.scatter_sound (s : State) (vals : Nat → List Src) (go : Nat → LaneGo) (h : ∀ l ∈ s.active, (go l).sound s) :
    s.scatter (s.active.map fun l => (l, vals l, go l))
      = (s.onGrp (·.mapLanes fun k x => if s.active.contains k then (go k).moves x else if s.issueSet.contains k then x.after else x)).retire
          s.pc (s.active.any fun l => (go l).taken) := by
  have hchecked : (s.active.map fun l => (l, vals l, go l)).map s.checkedGo = s.active.map fun l => (l, vals l, go l) := by
    rw [List.map_map]
    exact List.map_congr_left fun l hl => checkedGo_sound (h l hl)
  have honward (k : Nat) : (s.onward (s.active.map fun l => (l, vals l, go l))).contains k
      = ((s.issueSet.contains k && !s.active.contains k) || (s.active.contains k && go k == .on)) := by
    have hothers : (s.issueSet.filter fun l => !((s.active.map fun l => (l, vals l, go l)).any (·.1 == l))).contains k
        = (s.issueSet.contains k && !s.active.contains k) := by
      have hany : (s.active.map fun l => (l, vals l, go l)).any (·.1 == k) = s.active.contains k := by
        rw [List.any_map, Bool.eq_iff_iff]
        simp
      rw [Bool.eq_iff_iff, List.contains_iff_mem, List.mem_filter, hany, Bool.and_eq_true, List.contains_iff_mem]
    have happ (a b : List Nat) : (a ++ b).contains k = (a.contains k || b.contains k) := by
      rw [Bool.eq_iff_iff]; simp
    rw [State.onward, happ, hothers, contains_going]
  rw [State.scatter_eq]
  dsimp only
  rw [hchecked, foldl_goLane go vals (show s.active.Nodup from s.grp.active_nodup) _ s h, List.any_map]
  refine congrArg (fun g => State.retire { s with grp := g } s.pc _) ?_
  change (((s.grp.step _).exit _).mapLanes _) = _
  unfold Group.exit
  rw [Group.step_eq, Group.mapLanes_mapLanes, Group.mapLanes_mapLanes]
  refine congrArg s.grp.mapLanes (funext fun k => funext fun x => ?_)
  simp only [has_eq_contains, honward, contains_going]
  cases hk : s.active.contains k with
  | false => simp
  | true =>
    rw [State.issueSet_of_active hk]
    cases hway : go k with
    | on | leave | goto t => simp [LaneGo.moves, LaneGo.taken]
    | trap t =>
      have hsound := h k (List.contains_iff_mem.mp hk)
      rw [hway] at hsound
      exact hsound.elim

/-- Settles O16: the frame moves the issue set on where no lane is active, and each of the four changes its lanes in one pass. -/
theorem nopReconvExitEret : Obligations.NopReconvExitEret := by
  unfold Obligations.NopReconvExitEret
  intro s
  refine ⟨fun ha i hi hcl => ?idle, fun f hcl => ?nop, fun f hcl => ?reconv, fun f hcl hc => ?exit, fun f hcl => ?eret⟩
  case idle =>
    have hidle (hset : onIssueSet i = false) := (hasFrame i s hi hset).idle hcl ha
    cases i
    case ifc f | elsec f | endif f | loop f | breakif f | contif f | endloop f | reconv f | regroup f | repack f => trivial
    all_goals exact hidle rfl
  case nop => exact congrArg _ ((s.frame_clear _ _ hcl).trans (s.next_eq false))
  case reconv =>
    refine congrArg _ ((s.frame_clear _ _ hcl).trans ?_)
    simp only [has_eq_contains]
  case exit =>
    let go (l : Nat) : LaneGo := match s.laneCond f l with | none => .trap (poisonTrap 4) | some true => .leave | some false => .on
    have hsound : ∀ l ∈ s.active, (go l).sound s := fun l hl => by
      have hknown := hc l hl
      dsimp only [go]
      cases hcond : s.laneCond f l with
      | none => exact hknown hcond
      | some c => cases c <;> trivial
    have hstay : (s.active.any fun l => (go l).taken) = false := by
      rw [List.any_eq_false]
      intro l _
      dsimp only [go]
      cases s.laneCond f l with
      | none => simp [LaneGo.taken]
      | some c => cases c <;> simp [LaneGo.taken]
    refine congrArg _ ((s.frame_clear _ _ hcl).trans ((s.scatter_sound (s.condSources f) go hsound).trans ?_))
    rw [hstay]
    refine congrArg (fun g => State.retire { s with grp := g } s.pc false) (congrArg s.grp.mapLanes (funext fun k => funext fun x => ?_))
    cases hk : s.active.contains k with
    | false => rfl
    | true =>
      have hknown := hc k (List.contains_iff_mem.mp hk)
      rw [State.issueSet_of_active hk]
      dsimp only [go]
      cases hcond : s.laneCond f k with
      | none => exact absurd hcond hknown
      | some c => cases c <;> rfl
  case eret =>
    refine congrArg _ ((s.frame_clear _ _ hcl).trans ?_)
    have hlanes (g : Group) : (g.step (s.issueSet.filter fun l => !has s.active l)).eret s.active = g.mapLanes fun k x =>
        if s.active.contains k then { x with handler := false, replay := true }
        else if s.issueSet.contains k then x.after else x := by
      unfold Group.eret
      rw [Group.step_eq, Group.mapLanes_mapLanes]
      refine congrArg g.mapLanes (funext fun k => funext fun x => ?_)
      have hrest : (s.issueSet.filter fun l => !s.active.contains l).contains k = (s.issueSet.contains k && !s.active.contains k) := by
        rw [Bool.eq_iff_iff]; simp [List.mem_filter]
      simp only [has_eq_contains, hrest]
      cases s.active.contains k <;> simp
    simp only [hlanes]

end Sys2Proof.Machine
end

section
/-! SUPPORT. Nesting counters (R103 to R105) and transfers of the whole issue set (R102). -/

namespace Sys2Proof.Machine

theorem Group.lane_of_lt {g : Group} {k : Nat} (hk : k < g.lanes.length) : g.lane k = g.lanes[k] := by
  unfold Group.lane
  rw [List.getD_eq_getElem?_getD, List.getElem?_eq_getElem hk]
  rfl

/-- Two changes of lanes that agree on the lanes of a group. -/
theorem Group.mapLanes_congr {g : Group} {f h : Nat → Lane → Lane} (hfh : ∀ k < g.lanes.length, f k (g.lane k) = h k (g.lane k)) :
    g.mapLanes f = g.mapLanes h := by
  have hlanes : g.lanes.mapIdx f = g.lanes.mapIdx h := List.mapIdx_eq_mapIdx_iff.mpr fun k hk => by
    rw [← Group.lane_of_lt hk]
    exact hfh k hk
  exact congrArg (fun ls => { g with lanes := ls }) hlanes

/-- An instruction that changes every lane of a group in one pass. -/
theorem lanesGo.of_mapLanes {s' s : State} {i : Instr} {ends : Bool} {f h : Nat → Lane → Lane}
    (he : exec i s = .next ((s'.onGrp (·.mapLanes f)).retire s.pc ends)) (hfh : ∀ k < s'.grp.lanes.length, f k (s'.lane k) = h k (s'.lane k)) :
    lanesGo s' s i ends h := by
  unfold lanesGo
  rw [he]
  exact congrArg (fun g => Host.Outcome.next (State.retire { s' with grp := g } s.pc ends)) (Group.mapLanes_congr hfh)

/-- The outcome of a lane's counter that does not pass 63 (R105). -/
def State.nestOut (s : State) (f : Nat → Nat → NestOut) (l : Nat) : NestOut :=
  match f l (s.lane l).nest.toNat with
  | .to n => if n ≤ 63 then NestOut.to n else .trap { kind := 3 }
  | t => t

/-- A lane that takes its new counter. -/
def nestLane (outs : List (Nat × NestOut)) (k : Nat) (x : Lane) : Lane :=
  match (outs.find? (·.1 == k)).map (·.2) with
  | some (NestOut.to n) => { x with nest := BitVec.ofNat 6 n }
  | _ => x

/-- The trap of a lane whose counter would pass 63, or whose condition is poisoned. -/
def State.trapNest (vals : Nat → List Src) (s : State) (o : Nat × NestOut) : State :=
  match o.2 with
  | .trap t => s.trapLane o.1 t (vals o.1) []
  | .to _ => s

theorem State.nesting_eq (s : State) (vals : Nat → List Src) (f : Nat → Nat → NestOut) :
    s.nesting vals f =
      let outs := s.issueSet.map fun l => (l, s.nestOut f l)
      ((outs.foldl (State.trapNest vals) (s.onGrp (·.mapLanes (nestLane outs)))).onGrp (·.step (outs.filterMap fun o =>
        match o.2 with | .to _ => some o.1 | .trap _ => none))).retire s.pc false := rfl

/-- Where no counter passes 63 and no condition is poisoned, each lane of the issue set takes its new counter and moves on. -/
theorem State.nesting_sound (s : State) (vals : Nat → List Src) (f : Nat → Nat → NestOut) (n : Nat → Nat)
    (h : ∀ l ∈ s.issueSet, f l (s.lane l).nest.toNat = .to (n l) ∧ n l ≤ 63) :
    s.nesting vals f = (s.onGrp (·.mapLanes fun k x =>
      if s.issueSet.contains k then ({ x with nest := BitVec.ofNat 6 (n k) } : Lane).after else x)).retire s.pc false := by
  have houts : (s.issueSet.map fun l => (l, s.nestOut f l)) = s.issueSet.map fun l => (l, NestOut.to (n l)) := by
    refine List.map_congr_left fun l hl => ?_
    obtain ⟨hf, hn⟩ := h l hl
    unfold State.nestOut
    rw [hf]
    exact congrArg _ (if_pos hn)
  have hok : ((s.issueSet.map fun l => (l, NestOut.to (n l))).filterMap fun o => match o.2 with | .to _ => some o.1 | .trap _ => none)
      = s.issueSet := by
    rw [List.filterMap_map]
    exact List.filterMap_some
  have hfold (ls : List Nat) (s : State) : (ls.map fun l => (l, NestOut.to (n l))).foldl (State.trapNest vals) s = s := by
    induction ls with
    | nil => rfl
    | cons l ls ih => exact ih
  have hlane (k : Nat) (x : Lane) : nestLane (s.issueSet.map fun l => (l, NestOut.to (n l))) k x
      = if s.issueSet.contains k then { x with nest := BitVec.ofNat 6 (n k) } else x := by
    unfold nestLane
    rw [List.find?_map]
    by_cases hk : s.issueSet.contains k = true
    · have hfind : s.issueSet.find? ((·.1 == k) ∘ fun l => (l, NestOut.to (n l))) = some k := by
        obtain hsome | ⟨j, hj⟩ := (Option.eq_none_or_eq_some (s.issueSet.find? ((·.1 == k) ∘ fun l => (l, NestOut.to (n l)))))
        · exact absurd (List.find?_eq_none.mp hsome k (List.contains_iff_mem.mp hk)) (by simp)
        · have hjk : (j == k) = true :=
            List.find?_some (p := (fun o : Nat × NestOut => o.1 == k) ∘ fun l => (l, NestOut.to (n l))) hj
          rw [hj, beq_iff_eq.mp hjk]
      rw [hfind, if_pos hk]
      rfl
    · have hfind : s.issueSet.find? ((·.1 == k) ∘ fun l => (l, NestOut.to (n l))) = none := by
        refine List.find?_eq_none.mpr fun l hl hlk => hk (List.contains_iff_mem.mpr ?_)
        rwa [← beq_iff_eq.mp hlk]
      rw [hfind, if_neg hk]
      rfl
  rw [State.nesting_eq, houts]
  dsimp only
  rw [hok, hfold]
  refine congrArg (fun g => State.retire { s with grp := g } s.pc false) ?_
  change ((s.grp.mapLanes _).step _) = _
  rw [Group.step_eq, Group.mapLanes_mapLanes]
  refine congrArg s.grp.mapLanes (funext fun k => funext fun x => ?_)
  rw [hlane]
  split <;> rfl

/-- A transfer of the whole issue set to a target that passes R159. -/
theorem State.jump_sound {s : State} {target : Nat} (hm : s.missing (targetLines [target]) false = []) (ht : s.targetTrap target = none)
    (rows : List Nat) (before : State → State) :
    s.jump target rows before = ((before s).onGrp (·.mapLanes fun k x => if s.issueSet.contains k then x.goto target else x)).retire s.pc true := by
  unfold State.jump
  rw [s.translated_ok _ _ _ hm]
  dsimp only
  rw [ht]
  simp only [has_eq_contains]
  rfl

theorem mem_pageFirsts {vas : List Nat} {va : Nat} (h : va ∈ pageFirsts vas) : va ∈ vas := by
  have hfold (us acc : List Nat) (h : va ∈ us.foldl (fun l va => if l.any fun x => walkPage x == walkPage va then l else l ++ [va]) acc) :
      va ∈ acc ∨ va ∈ us := by
    induction us generalizing acc with
    | nil => exact .inl h
    | cons v us ih =>
      obtain hacc | hvas := ih _ h
      · dsimp only at hacc
        split at hacc
        · exact .inl hacc
        · obtain hacc | hv := List.mem_append.mp hacc
          · exact .inl hacc
          · exact .inr (List.mem_cons.mpr (.inl (List.mem_singleton.mp hv)))
      · exact .inr (List.mem_cons_of_mem v hvas)
  exact (hfold vas [] h).resolve_left List.not_mem_nil

/-- Targets that need no walk one by one need none together. -/
theorem State.missing_targets {s : State} {ts : List Nat} (h : ∀ t ∈ ts, s.missing (targetLines [t]) false = []) :
    s.missing (targetLines ts) false = [] := by
  refine List.map_eq_nil_iff.mpr (List.filter_eq_nil_iff.mpr fun va hva => ?_)
  obtain ⟨t, ht, rfl⟩ := List.mem_map.mp (mem_pageFirsts hva)
  obtain ⟨ht, hwf⟩ := List.mem_filter.mp ht
  have hone : pageFirsts (targetLines [t]) = [lineOf t] := by
    have hfilter : [t].filter (fun x => !targetMalformed x) = [t] := List.filter_cons_of_pos hwf
    unfold targetLines
    rw [hfilter]
    rfl
  have hheld := h t ht
  unfold State.missing at hheld
  rw [hone, List.map_eq_nil_iff, List.filter_eq_nil_iff] at hheld
  exact hheld _ (List.mem_singleton_self _)

end Sys2Proof.Machine
end

section
/-! PROOFS. The statements about structured control and transfers. -/

namespace Sys2Proof.Machine

/-- An instruction that changes nesting counters: each lane of the issue set takes the counter that its own gives. -/
theorem lanesGo.of_nesting {s : State} {i : Instr} {vals : Nat → List Src} {f : Nat → Nat → NestOut} {n : Nat → Nat → Nat}
    (he : exec i s = .next (s.nesting vals f)) (hf : ∀ l ∈ s.issueSet, f l (s.lane l).nest.toNat = .to (n l (s.lane l).nest.toNat))
    (hn : ∀ l ∈ s.issueSet, n l (s.lane l).nest.toNat ≤ 63) :
    lanesGo s s i false fun k x =>
      if s.issueSet.contains k then ({ x with nest := BitVec.ofNat 6 (n k x.nest.toNat) } : Lane).after else x :=
  lanesGo.of_mapLanes (he.trans (congrArg _ (s.nesting_sound vals f (fun l => n l (s.lane l).nest.toNat) fun l hl => ⟨hf l hl, hn l hl⟩)))
    fun _ _ => rfl

/-- A lane of the issue set with counter 0 is active (R100). -/
theorem State.active_of_nest {s : State} {l : Nat} (hl : l ∈ s.issueSet) (h : ¬ 0 < (s.lane l).nest.toNat) : l ∈ s.active :=
  List.mem_filter.mpr ⟨hl, beq_iff_eq.mpr (BitVec.eq_of_toNat_eq (Nat.eq_zero_of_not_pos h))⟩

/-- BREAKIF and CONTIF of lanes whose condition is known. -/
theorem lanesGo.of_loopLeave {s : State} {i : Instr} {f : BF} {d : Nat} (he : exec i s = .next (s.loopLeave f d))
    (hk : ∀ l ∈ s.active, s.laneCond f l ≠ none)
    (hn : ∀ l ∈ s.issueSet, (if (s.lane l).nest.toNat = 0 ∧ (s.laneCond f l == some true) = true then d else (s.lane l).nest.toNat) ≤ 63) :
    lanesGo s s i false fun k x =>
      if s.issueSet.contains k then
        ({ x with nest := BitVec.ofNat 6 (if x.nest.toNat = 0 ∧ (s.laneCond f k == some true) = true then d else x.nest.toNat) } : Lane).after
      else x := by
  refine lanesGo.of_nesting (n := fun l n => if n = 0 ∧ (s.laneCond f l == some true) = true then d else n) he (fun l hl => ?_) hn
  by_cases h0 : 0 < (s.lane l).nest.toNat
  · rw [if_pos h0, if_neg fun h => Nat.ne_of_gt h0 h.1]
  · have hknown := hk l (State.active_of_nest hl h0)
    rw [if_neg h0]
    cases hc : s.laneCond f l with
    | none => exact absurd hc hknown
    | some c => cases c <;> simp [Nat.eq_zero_of_not_pos h0]

/-- Settles O17: no counter passes 63, so every lane of the issue set takes its new counter. -/
theorem structuredControl : Obligations.StructuredControl := by
  unfold Obligations.StructuredControl
  refine ⟨fun s f => ?_, fun s f hcl => ?_⟩
  · intro holds known go
    have hframe {i : Instr} {k : State → State} (he : exec i s = .next (s.frame i k)) (hcl : s.clear i) : exec i s = .next (k s) :=
      he.trans (congrArg _ (s.frame_clear _ _ hcl))
    refine ⟨fun hcl hk hn => ?ifc, fun hcl => ?elsec, fun hcl => ?endif, fun hcl => ?loop,
      fun hcl hk => lanesGo.of_loopLeave (hframe rfl hcl) hk, fun hcl hk => lanesGo.of_loopLeave (hframe rfl hcl) hk⟩
    case ifc =>
      refine lanesGo.of_nesting (n := fun l n => if 0 < n then n + 1 else if holds l then 0 else 1) (hframe rfl hcl) (fun l hl => ?_) hn
      by_cases h0 : 0 < (s.lane l).nest.toNat
      · rw [if_pos h0, if_pos h0]
      · obtain ⟨c, hlc⟩ := Option.ne_none_iff_exists'.mp (hk l (State.active_of_nest hl h0))
        have hholds : holds l = c := by
          dsimp only [holds]
          rw [hlc]
          cases c <;> rfl
        rw [if_neg h0, if_neg h0, hholds, hlc]
    case elsec => exact lanesGo.of_nesting (n := fun _ n => if n = 0 then 1 else if n = 1 then 0 else n) (hframe rfl hcl) fun _ _ => rfl
    case endif =>
      refine lanesGo.of_nesting (n := fun _ n => if 0 < n then n - 1 else n) (hframe rfl hcl) fun l _ => ?_
      split <;> congr 1
      omega
    case loop =>
      refine lanesGo.of_nesting (n := fun _ n => if 0 < n then n + 2 else n) (hframe rfl hcl) fun l _ => ?_
      split <;> congr 1
      omega
  · intro target
    have hexec : exec (.endloop f) s = .next (if s.issueSet.any (fun l => (s.lane l).nest.toNat ≤ 1) then
        s.jump target [] fun u => u.onGrp (·.mapLanes fun k x => if has s.issueSet k && x.nest == 1 then { x with nest := 0 } else x)
        else s.nesting (fun _ => []) fun _ n => .to (n - 2)) := congrArg _ (s.frame_clear _ _ hcl)
    refine ⟨fun hlow hm ht => ?back, fun hhigh => ?leave⟩
    case back =>
      obtain ⟨l, hl, hlow⟩ := hlow
      rw [if_pos (List.any_eq_true.mpr ⟨l, hl, decide_eq_true hlow⟩), State.jump_sound hm ht] at hexec
      refine hexec.trans (congrArg (fun g => Host.Outcome.next (State.retire { s with grp := g } s.pc true)) ?_)
      refine (Group.mapLanes_mapLanes _ _ _).trans (congrArg s.grp.mapLanes (funext fun k => funext fun x => ?_))
      simp only [has_eq_contains]
      cases s.issueSet.contains k with
      | false => rfl
      | true => simp
    case leave =>
      have hnone : ¬ s.issueSet.any (fun l => (s.lane l).nest.toNat ≤ 1) = true := by
        rw [List.any_eq_true]
        rintro ⟨l, hl, hle⟩
        have := hhigh l hl
        have := of_decide_eq_true hle
        omega
      rw [if_neg hnone] at hexec
      refine lanesGo.of_nesting (n := fun _ n => n - 2) hexec (fun _ _ => rfl) fun l _ => ?_
      have := (s.lane l).nest.isLt
      omega

/-- BRA and CALL that are taken together, or not at all. -/
theorem lanesGo.of_uniformTransfer {s : State} {i : Instr} {f : BF} {rows : List Nat} {before : State → State}
    (he : exec i s = .next (s.uniformTransfer f rows before)) (hp : s.condPoisoned f = false) :
    (s.active ≠ [] → s.uniformCond f = true →
      s.missing (targetLines [BF.target f s.pc]) false = [] ∧ s.targetTrap (BF.target f s.pc) = none →
      lanesGo (before s) s i true fun k x => if s.issueSet.contains k then x.goto (BF.target f s.pc) else x)
    ∧ ((s.active = [] ∨ s.uniformCond f = false) → lanesGo s s i false fun k x => if s.issueSet.contains k then x.after else x) := by
  unfold State.uniformTransfer at he
  rw [hp] at he
  refine ⟨fun ha hc ht => ?_, fun h => ?_⟩
  · obtain ⟨hm, ht⟩ := ht
    rw [if_neg (by simpa using ha), if_neg Bool.false_ne_true, if_pos hc, State.jump_sound hm ht] at he
    exact he
  · refine he.trans (congrArg _ (Eq.trans ?_ (s.next_eq false)))
    obtain ha | hc := h
    · rw [if_pos (List.isEmpty_iff.mpr ha)]
    · rw [hc, if_neg Bool.false_ne_true, if_neg Bool.false_ne_true, ite_self]

/-- Where each active lane goes after a divergent BRA whose condition it knows (R507). -/
def State.braGo (s : State) (f : BF) (l : Nat) : LaneGo :=
  match s.laneCond f l with
  | none => .trap (poisonTrap 4)
  | some true => .goto (BF.target f s.pc)
  | some false => .on

theorem State.braGo_of_cond {s : State} {f : BF} {l : Nat} {c : Bool} (h : s.laneCond f l = some c) :
    s.braGo f l = if c then .goto (BF.target f s.pc) else .on := by
  unfold State.braGo
  rw [h]
  cases c <;> rfl

/-- Settles O18, by what a jump of the whole issue set and a scattering of the active lanes do at sound targets. -/
theorem transfers : Obligations.Transfers := by
  unfold Obligations.Transfers
  intro s f target sound step allGo uniform
  have hframe {i : Instr} {k : State → State} (he : exec i s = .next (s.frame i k)) (hcl : s.clear i) : exec i s = .next (k s) :=
    he.trans (congrArg _ (s.frame_clear _ _ hcl))
  refine ⟨fun hcl hk hp => ?bra, fun hcl hk hp => ?call, fun hcl hk hc ht => ?each, fun i hi hcl => ?link⟩
  case bra =>
    have he := hframe (i := .bra f) rfl hcl
    rw [if_neg hk] at he
    exact lanesGo.of_uniformTransfer he hp
  case call => exact lanesGo.of_uniformTransfer (hframe (i := .call f) rfl hcl) hp
  case each =>
    have he := hframe (i := .bra f) rfl hcl
    have htrans (k : State → State) : s.translated (targetLines [BF.target f s.pc]) 3 k = k s := s.translated_ok _ _ _ ht.1
    dsimp only at he
    rw [if_pos hk, htrans, ite_self] at he
    refine he.trans (congrArg _ ((s.scatter_sound (s.condSources f) (s.braGo f) fun l hl => ?_).trans ?_))
    · obtain ⟨c, hlc⟩ := Option.ne_none_iff_exists'.mp (hc l hl)
      rw [State.braGo_of_cond hlc]
      cases c
      · trivial
      · exact ht.2
    · have htaken : (s.active.any fun l => (s.braGo f l).taken) = s.active.any fun l => s.laneCond f l == some true := by
        refine List.any_congr rfl fun l => ?_
        unfold State.braGo
        obtain h | h | h : s.laneCond f l = none ∨ s.laneCond f l = some false ∨ s.laneCond f l = some true := by
          rcases s.laneCond f l with _ | _ | _ <;> simp
        all_goals rw [h]; rfl
      rw [htaken]
      refine congrArg (fun g => State.retire { s with grp := g } s.pc _) (congrArg s.grp.mapLanes (funext fun k => funext fun x => ?_))
      cases hk : s.active.contains k with
      | false => rfl
      | true =>
        obtain ⟨c, hlc⟩ := Option.ne_none_iff_exists'.mp (hc k (List.contains_iff_mem.mp hk))
        rw [State.braGo_of_cond hlc, hlc]
        cases c
        · simp only [step, State.issueSet_of_active hk]; rfl
        · rfl
  case link =>
    intro dest hd
    have he : exec i s = .next (s.goLink i f) := by
      obtain rfl | hi := List.mem_cons.mp hi
      · rfl
      · rw [List.mem_singleton.mp hi]; rfl
    have hgo : s.goLink i f = s.scatter (s.active.map fun l => (l, s.sources [linkUse f.link] l, LaneGo.goto (dest l).1.toNat)) := by
      have hm : s.missing (targetLines (s.active.filterMap fun l => if (dest l).2 then none else some (dest l).1.toNat)) false = [] := by
        refine State.missing_targets fun t ht => ?_
        obtain ⟨l, hl, hlt⟩ := List.mem_filterMap.mp ht
        obtain ⟨hclean, hsound, _⟩ := hd l hl
        rw [hclean] at hlt
        cases hlt
        exact hsound
      refine (s.frame_clear _ _ hcl).trans ((s.translated_ok _ _ _ hm).trans (congrArg s.scatter (List.map_congr_left fun l hl => ?_)))
      obtain ⟨hclean, _⟩ := hd l hl
      change (l, s.sources [linkUse f.link] l, if (dest l).2 = true then LaneGo.trap (poisonTrap 1) else LaneGo.goto (dest l).1.toNat) = _
      rw [hclean]
      rfl
    rw [hgo] at he
    refine he.trans (congrArg _ ((s.scatter_sound _ (fun l => LaneGo.goto (dest l).1.toNat) fun l hl => (hd l hl).2.2).trans ?_))
    have htaken : (s.active.any fun l => (LaneGo.goto (dest l).1.toNat).taken) = !s.active.isEmpty := by
      cases s.active <;> rfl
    rw [htaken]
    rfl

end Sys2Proof.Machine
end

section
/-! SUPPORT. Bytes and elements of the core store that an access writes, and what an acquire leaves (R127, R287, R486). -/

namespace Sys2Proof.Machine

/-! ### Bytes written to the core store -/

theorem bytesAt_succ (a n x : Nat) : bytesAt a (n + 1) x = (a, BitVec.ofNat 8 x) :: bytesAt (a + 1) n (x / 256) := by
  unfold bytesAt
  rw [List.range_succ_eq_map, List.map_cons, List.map_map]
  refine congr (congrArg List.cons (by simp)) (List.map_congr_left fun j _ => ?_)
  dsimp only [Function.comp]
  rw [Nat.div_div_eq_div_mul, Nat.pow_succ', Nat.add_assoc, Nat.add_comm 1 j]

/-- The byte at an address after bytes that are written in turn: the last one written there, or what stood there. -/
def byteAfter (m : List Host.Cell) (ws : List (Nat × Byte)) (y : Nat) : Byte :=
  match findLast ws (·.1 == y) with
  | some w => w.2
  | none => Memory.read Memory.zeros m y

theorem byteAfter_append {m m' : List Host.Cell} {us ws : List (Nat × Byte)} {y : Nat} (h : Memory.read Memory.zeros m' y = byteAfter m us y) :
    byteAfter m' ws y = byteAfter m (us ++ ws) y := by
  unfold byteAfter
  rw [findLast_append, h, byteAfter]
  cases findLast ws (·.1 == y) <;> rfl

theorem read_writeNat {m : List Host.Cell} (h : Memory.wf Memory.zeros m = true) (a n x y : Nat) :
    Memory.read Memory.zeros (Memory.writeNat Memory.zeros m a n x) y = byteAfter m (bytesAt a n x) y := by
  induction n generalizing m a x with
  | zero => rfl
  | succ n ih =>
    rw [bytesAt_succ]
    refine (ih (Memory.wf_write a _ h) (a + 1) (x / 256)).trans
      ((byteAfter_append (us := [(a, BitVec.ofNat 8 x)]) ?_).trans rfl)
    rw [Memory.read_write a _ h]
    unfold byteAfter findLast
    by_cases hy : y = a
    · simp [hy]
    · simp [hy, Ne.symm hy]

/-- Byte writes of a fixed width in turn: address, number, poison. -/
def Core.setAll (w : Nat) (c : Core) (ws : List (Nat × Nat × Bool)) : Core := ws.foldl (fun c e => c.setBytes e.1 w e.2.1 e.2.2) c

theorem Core.wf_setAll {w : Nat} {c : Core} (h : Memory.wf Memory.zeros c.store = true) (ws : List (Nat × Nat × Bool)) :
    Memory.wf Memory.zeros (c.setAll w ws).store = true := by
  induction ws generalizing c with
  | nil => exact h
  | cons e ws ih => exact ih (Memory.wf_writeNat _ _ _ h)

theorem Core.read_setAll {w : Nat} {c : Core} (h : Memory.wf Memory.zeros c.store = true) (ws : List (Nat × Nat × Bool)) (y : Nat) :
    Memory.read Memory.zeros (c.setAll w ws).store y = byteAfter c.store (ws.map fun e => bytesAt e.1 w e.2.1).flatten y := by
  induction ws generalizing c with
  | nil => rfl
  | cons e ws ih => exact (ih (c := c.setBytes e.1 w e.2.1 e.2.2) (Memory.wf_writeNat _ _ _ h)).trans (byteAfter_append (read_writeNat h _ _ _ _))

theorem State.onCore_setAll (s : State) (w : Nat) (ws : List (Nat × Nat × Bool)) :
    ∃ a b m, s.onCore (·.setAll w ws) = s.withStore a b m := by
  induction ws generalizing s with
  | nil => exact ⟨_, _, _, rfl⟩
  | cons e ws ih =>
    obtain ⟨a, b, m, h⟩ := ih (s.onCore (·.setBytes e.1 w e.2.1 e.2.2))
    exact ⟨a, b, m, h⟩

/-! ### What an acquire leaves -/

/-- Two states with the same core store, and the same team and group in focus. -/
def State.sameStore (s t : State) : Prop :=
  t.core.store = s.core.store ∧ t.core.storePoison = s.core.storePoison ∧ t.team = s.team ∧ t.grp = s.grp

theorem State.sameStore_requestRebase (s : State) (d : Nat) : s.sameStore (s.requestRebase d) := by
  unfold State.requestRebase
  dsimp only
  split
  · exact ⟨rfl, rfl, rfl, rfl⟩
  · split <;> exact ⟨rfl, rfl, rfl, rfl⟩

theorem State.sameStore_acquire (s : State) (sc : Scope) : s.sameStore (s.acquire sc) := by
  unfold State.acquire State.raiseNow State.setNow State.noteTick
  split
  · split
    · split
      · exact State.sameStore_requestRebase _ _
      · exact ⟨rfl, rfl, rfl, rfl⟩
    · exact ⟨rfl, rfl, rfl, rfl⟩
  · exact ⟨rfl, rfl, rfl, rfl⟩

/-- The end of an access that carries its acquire. -/
def State.acquired (s : State) (f : MF) : State := if MF.acq f then s.acquire (MF.sc f) else s

theorem State.sameStore_acquired (s : State) (f : MF) : s.sameStore (s.acquired f) := by
  unfold State.acquired
  split
  · exact s.sameStore_acquire _
  · exact ⟨rfl, rfl, rfl, rfl⟩

theorem State.acquired_withStore (s : State) (a : List Host.Cell) (b m : List Nat) (f : MF) :
    (s.withStore a b m).acquired f = (s.acquired f).withStore a b m := by
  unfold State.acquired
  split
  · exact s.acquire_withStore a b m _
  · rfl

theorem State.localEnd_nil (s : State) (f : MF) (rows : List Nat) : s.localEnd f [] rows = (s.acquired f).next :=
  State.proceed_nil _ _ _

/-! ### Registers of lanes that an access writes -/

theorem laneWrites_markedWords (l n : Nat) (t : Ty) (x : BitVec 64 × Bool) :
    laneWrites l (markedWords n t x) = (putVal n t x.1).map fun e => LaneWrite.mk e.1 l e.2.1 x.2 := by
  unfold laneWrites markedWords valueWords
  rw [List.map_map, List.map_map]
  rfl

theorem laneWrites_flatten (l : Nat) (wss : List (List (Nat × Word × Bool))) :
    laneWrites l wss.flatten = (wss.map (laneWrites l)).flatten := List.map_flatten

/-- The writes of lanes that take words. -/
def takeWrites (ls : List Nat) (f : Nat → List (Nat × Word × Bool)) : List LaneWrite := (ls.map fun l => laneWrites l (f l)).flatten

/-- An instruction that writes lanes' registers, while the rest of the state becomes that of `v`, and then only moves on. -/
theorem lanesTake.of_writeLanes {s u v t : State} {i : Instr} {f : Nat → List (Nat × Word × Bool)} {a : List Host.Cell} {b m : List Nat}
    (h32 : ∀ l ∈ s.active, l < 32) (hwf : Memory.wf Memory.zeros u.core.store = true)
    (hu : ∀ n l, u.local (u.vAddr n l) = s.local (s.vAddr n l)) (hv : ∀ n l, v.local (v.vAddr n l) = s.local (s.vAddr n l))
    (hstore : v.core.store = u.core.store) (hw : u.writeLanes (takeWrites s.active f) = u.withStore a b m)
    (he : exec i s = .next t) (hk : (v.withStore a b m).keeps t) : lanesTake v s i f := by
  refine ⟨t, he, fun l hl n w hlast => ?_, hk.rest, hk.2.2, fun x hx => ?_⟩
  · have hread := u.elem_writeLanes _ hwf (lane_of_lanes s.active f h32) n l (h32 l hl) _
      (findLast_lanes s.active f s.grp.active_nodup l n hl w hlast)
    change (u.writeLanes (takeWrites s.active f)).core.elem _ = _ at hread
    rw [hw] at hread
    rw [hk.elem, ← hu]
    exact hread
  · have hout : ∀ w ∈ takeWrites s.active f, x < u.local (u.vAddr w.reg w.lane) ∨ u.local (u.vAddr w.reg w.lane) + 4 ≤ x := by
      refine u.outside_writes s.active f x fun ⟨l, hl, n, hn, h1, h2⟩ => hx ⟨l, hl, n, hn, ?_, ?_⟩
      · rw [hv, ← hu]; exact h1
      · rw [hv, ← hu]; exact h2
    have hread := u.read_writeLanes_other _ hwf x hout
    rw [hw] at hread
    rw [hk.store, hstore]
    exact hread

theorem State.useRelease_local (s : State) (rel : Bool) :
    (s.useRelease rel).core = s.core ∧ ∀ a, (s.useRelease rel).local a = s.local a := by
  cases rel <;> exact ⟨rfl, fun _ => rfl⟩

theorem State.useRelease_vAddr (s : State) (rel : Bool) (n l : Nat) : (s.useRelease rel).vAddr n l = s.vAddr n l := by
  cases rel <;> rfl

theorem State.sameStore.vAddr {s t : State} (h : s.sameStore t) (n l : Nat) : t.local (t.vAddr n l) = s.local (s.vAddr n l) := by
  obtain ⟨-, -, hteam, hgrp⟩ := h
  unfold State.local State.vAddr
  rw [hteam, hgrp]

/-- An access that loads: it writes its lanes' registers, performs its acquire and moves on. -/
theorem lanesTake.of_localEnd {s u : State} {i : Instr} {f : MF} {g : Nat → List (Nat × Word × Bool)} {rows : List Nat} (hok : s.ok)
    (hwf : Memory.wf Memory.zeros u.core.store = true) (hu : ∀ n l, u.local (u.vAddr n l) = s.local (s.vAddr n l))
    (he : exec i s = .next ((u.writeLanes (takeWrites s.active g)).localEnd f [] rows)) : lanesTake (u.acquired f) s i g := by
  obtain ⟨a, b, m, hw⟩ := u.writeLanes_store (takeWrites s.active g)
  have hsame := u.sameStore_acquired f
  rw [State.localEnd_nil, hw, State.acquired_withStore] at he
  exact lanesTake.of_writeLanes (fun l hl => s.active_lt hok hl) hwf hu (fun n l => (hsame.vAddr n l).trans (hu n l)) hsame.1 hw he
    (State.keeps_next _ _)

/-- A local access whose lanes all pass goes on once its release is done. -/
theorem State.localAccess_may {s : State} {i : Instr} {f : MF} {writes : Bool} {n w : Nat} {us : List Use} {as : Nat → List Nat}
    (hm : s.mayAccess i) (has : ∀ l ∈ s.active, (s.localLane f writes n w us l).at' = .ok (as l))
    (hrows : s.ownRows (s.active.map as).flatten w = []) (hrel : s.released? (MF.rel f))
    (k : State → State → List (LaneLoc × List Nat) → List (Nat × List Src × Trap) → State) :
    (s.access i fun s =>
      let ls := s.active.map fun l => s.localLane f writes n w us l
      s.ownReady i ((locOk ls).map (·.2)).flatten w fun s =>
        s.released (MF.rel f && !(locOk ls).isEmpty) (MF.sc f) fun u => k s u (locOk ls) (locBad ls))
    = k s (s.useRelease (MF.rel f)) (s.active.map fun l => (⟨l, s.sources us l, .ok (as l)⟩, as l)) [] := by
  obtain ⟨hok, hbad⟩ := locOk_passing s.active (fun l => s.localLane f writes n w us l) (s.sources us) as fun l hl =>
    s.localLane_eq f writes n w us l (as l) (has l hl)
  have hsome : (!(s.active.map fun l => ((⟨l, s.sources us l, .ok (as l)⟩ : LaneLoc), as l)).isEmpty) = true := by
    rw [List.isEmpty_map, s.active_isEmpty hm.2.1]
    rfl
  rw [s.access_may i _ hm]
  dsimp only
  rw [hok, hbad, List.map_map, hsome, Bool.and_true]
  unfold State.ownReady
  rw [show s.ownRows ((s.active.map ((·.2) ∘ fun l => ((⟨l, s.sources us l, .ok (as l)⟩ : LaneLoc), as l))).flatten) w = [] from hrows]
  exact s.released_done _ _ _ hrel

theorem map_mapIdx {α β γ : Type} (l : List α) (f : Nat → α → β) (g : β → γ) : (l.mapIdx f).map g = l.mapIdx fun k x => g (f k x) := by
  rw [List.mapIdx_eq_zipIdx_map, List.mapIdx_eq_zipIdx_map, List.map_map]
  rfl

/-! ### Whole elements written as bytes (R127, R540) -/

theorem Core.setBytes_elem (c : Core) {a : Nat} (ha : a % 4 = 0) (w : Word) (p : Bool) :
    c.setBytes a 4 w.toNat p = { c.setElem a w p with mixed := insertN c.mixed (a / 4 / 32) } := by
  have hone : (a + 4 + 3) / 4 - a / 4 = 1 := by omega
  have hwhole : (decide (a ≤ 4 * (a / 4)) && decide (4 * (a / 4) + 4 ≤ a + 4)) = true := by
    rw [Bool.and_eq_true]
    exact ⟨decide_eq_true (by omega), decide_eq_true (by omega)⟩
  unfold Core.setBytes Core.setElem
  rw [hone, show List.range 1 = [0] from rfl]
  dsimp only [List.map, List.foldl, Nat.add_zero]
  rw [if_pos hwhole]

/-- Element writes as byte writes. -/
def elemBytes (ws : List (Nat × Word × Bool)) : List (Nat × Nat × Bool) := ws.map fun w => (w.1, w.2.1.toNat, w.2.2)

theorem Core.setAll_elems (ws : List (Nat × Word × Bool)) (h : ∀ w ∈ ws, w.1 % 4 = 0) (c : Core) :
    ∃ m, c.setAll 4 (elemBytes ws) = { c.setElems ws with mixed := m } := by
  have hmixed (c : Core) (ws : List (Nat × Word × Bool)) (m : List Nat) :
      ({ c with mixed := m } : Core).setElems ws = { c.setElems ws with mixed := m } := by
    induction ws generalizing c with
    | nil => rfl
    | cons w ws ih => exact ih (c.setElem w.1 w.2.1 w.2.2)
  induction ws generalizing c with
  | nil => exact ⟨_, rfl⟩
  | cons w ws ih =>
    obtain ⟨m, hm⟩ := ih (fun x hx => h x (.tail _ hx)) (c.setBytes w.1 4 w.2.1.toNat w.2.2)
    refine ⟨m, hm.trans ?_⟩
    rw [c.setBytes_elem (h w (.head _)), hmixed]
    rfl

theorem Core.elem_setAll {ws : List (Nat × Word × Bool)} (h : ∀ w ∈ ws, w.1 % 4 = 0) {c : Core}
    (hwf : Memory.wf Memory.zeros c.store = true) {w : Nat × Word × Bool} {b : Nat} (hw : findLast ws (·.1 == b) = some w) :
    (c.setAll 4 (elemBytes ws)).elem b = w.2 := by
  obtain ⟨m, hm⟩ := Core.setAll_elems ws h c
  rw [hm]
  exact Core.elem_setElems ws c b hwf h w hw

/-- The element writes of a SPILL: lane and register in turn. -/
def State.spillWrite (s : State) (reg top : Nat) (p : Nat × Nat) : Nat × Word × Bool :=
  (s.local (s.stackAddr (top + p.2) p.1), s.elem (s.vAddr (reg + p.2) p.1))

/-- Writing the elements in turn is writing what they held before, where no stack row is a register read. -/
theorem State.spill_fold (reg top : Nat) (ps : List (Nat × Nat)) (s : State) (hwf : Memory.wf Memory.zeros s.core.store = true)
    (hne : ∀ p ∈ ps, ∀ q ∈ ps, s.stackAddr (top + q.2) q.1 ≠ s.vAddr (reg + p.2) p.1) :
    ps.foldl (fun s p => s.onCore (·.setBytes (s.local (s.stackAddr (top + p.2) p.1)) 4
        (s.elem (s.vAddr (reg + p.2) p.1)).1.toNat (s.elem (s.vAddr (reg + p.2) p.1)).2)) s
      = s.onCore (·.setAll 4 (elemBytes (ps.map (s.spillWrite reg top)))) := by
  induction ps generalizing s with
  | nil => rfl
  | cons q ps ih =>
    have hmod : s.local (s.stackAddr (top + q.2) q.1) % 4 = 0 := by unfold State.local State.stackAddr; omega
    have hu (p : Nat × Nat) (hp : p ∈ ps) :
        (s.onCore (·.setBytes (s.local (s.stackAddr (top + q.2) q.1)) 4 (s.elem (s.vAddr (reg + q.2) q.1)).1.toNat
          (s.elem (s.vAddr (reg + q.2) q.1)).2)).spillWrite reg top p = s.spillWrite reg top p := by
      refine congrArg (Prod.mk _) ?_
      change (s.core.setBytes _ 4 _ _).elem (s.local (s.vAddr (reg + p.2) p.1)) = s.core.elem _
      rw [s.core.setBytes_elem hmod]
      have hneq := hne p (.tail _ hp) q (.head _)
      refine s.core.elem_setElem_other _ _ _ _ hwf hmod (s.vAddr_mod _ _) fun h => hneq ?_
      unfold State.local at h
      omega
    refine (ih (s.onCore (·.setBytes (s.local (s.stackAddr (top + q.2) q.1)) 4 (s.elem (s.vAddr (reg + q.2) q.1)).1.toNat
      (s.elem (s.vAddr (reg + q.2) q.1)).2)) (Memory.wf_writeNat _ _ _ hwf) fun p hp r hr => hne p (.tail _ hp) r (.tail _ hr)).trans ?_
    rw [List.map_congr_left hu]
    rfl

theorem State.localWrites_fold (w : Nat) (ws : List (Nat × BitVec 64)) (s : State) :
    ws.foldl (fun s e => s.localWrite e.1 w e.2 false) s = s.onCore (·.setAll w (ws.map fun e => (s.local e.1, e.2.toNat, false))) := by
  induction ws generalizing s with
  | nil => rfl
  | cons e ws ih => exact ih _

/-- An access that writes bytes of the core store, while the rest of the state becomes that of `v`, and then only moves on. -/
theorem onlyBytes.of_setAll {u v t : State} {w : Nat} {ws : List (Nat × Nat × Bool)} {a : List Host.Cell} {b m : List Nat}
    (hwf : Memory.wf Memory.zeros u.core.store = true) (hstore : v.core.store = u.core.store)
    (hw : u.onCore (·.setAll w ws) = u.withStore a b m) (hk : (v.withStore a b m).keeps t) :
    onlyBytes v t (ws.map fun e => bytesAt e.1 w e.2.1).flatten := by
  refine ⟨hk.rest, hk.2.2, fun y => ?_⟩
  have hread : Memory.read Memory.zeros a y = byteAfter u.core.store (ws.map fun e => bytesAt e.1 w e.2.1).flatten y := by
    rw [← Core.read_setAll hwf ws y]
    exact congrArg (fun x : State => Memory.read Memory.zeros x.core.store y) hw.symm
  rw [hk.store, hstore]
  exact hread

theorem findLast_unique {α : Type} {ws : List α} {p : α → Bool} {x : α} (hx : x ∈ ws) (hp : p x = true) (h : ∀ y ∈ ws, p y = true → y = x) :
    findLast ws p = some x := by
  unfold findLast
  obtain hnone | ⟨y, hy⟩ := Option.eq_none_or_eq_some (ws.reverse.find? p)
  · exact absurd hp (List.find?_eq_none.mp hnone x (List.mem_reverse.mpr hx))
  · rw [hy, h y (List.mem_reverse.mp (List.mem_of_find?_eq_some hy)) (List.find?_some hy)]

/-- The registers that a SPILL names lie below the window. -/
theorem State.clear.spill_window {s : State} {f : MF} (hcl : s.clear (.spill f)) : f.data.reg + MF.n f ≤ s.grp.win := by
  have hv : s.kind = .vector := hcl.vector (fun _ _ h => nomatch h) fun k => by cases k <;> rfl
  obtain ⟨hspec, -⟩ := hcl.use (u := dstV f.data (MF.n f) false) (fun _ _ h => nomatch h) (.head _)
  unfold Use.specOk at hspec
  rw [show s.ctx.kind = .vector from hv] at hspec
  cases hd : f.data with
  | v n =>
    simp only [dstV, hd, Bool.and_eq_true, decide_eq_true_eq] at hspec
    exact hspec.2
  | s n => simp [dstV, hd, kV] at hspec
  | const n => simp [dstV, hd, kV] at hspec
  | int n => simp [dstV, hd, kV] at hspec
  | resv n => simp [dstV, hd] at hspec

/-- The lanes and registers that a SPILL writes, in their order. -/
def spillPairs (ls : List Nat) (n : Nat) : List (Nat × Nat) := ls.flatMap fun l => (List.range n).map fun i => (l, i)

theorem mem_spillPairs {ls : List Nat} {n : Nat} {p : Nat × Nat} : p ∈ spillPairs ls n ↔ p.1 ∈ ls ∧ p.2 < n := by
  unfold spillPairs
  simp only [List.mem_flatMap, List.mem_map, List.mem_range]
  exact ⟨fun ⟨l, hl, i, hi, e⟩ => e ▸ ⟨hl, hi⟩, fun ⟨hl, hi⟩ => ⟨p.1, hl, p.2, hi, rfl⟩⟩

theorem foldl_spillPairs {α : Type} (ls : List Nat) (n : Nat) (g : α → Nat × Nat → α) (x : α) :
    ls.foldl (fun x l => (List.range n).foldl (fun x i => g x (l, i)) x) x = (spillPairs ls n).foldl g x := by
  unfold spillPairs
  rw [List.foldl_flatMap]
  simp only [List.foldl_map]

end Sys2Proof.Machine
end

section
/-! SUPPORT. The updates of atomics (R482) and their fold over the lanes (R487). -/

namespace Sys2Proof.Machine

/-- The integer type under which an atomic adds and compares. -/
def atomIntTy (cls : AtomClass) (wide : Bool) : Ty :=
  match cls, wide with
  | .signed, true => .i64
  | .signed, false => .i32
  | _, true => .n64
  | _, false => .n32

theorem atomIntTy_width (cls : AtomClass) (wide : Bool) : (atomIntTy cls wide).width = if wide then 64 else 32 := by
  cases cls <;> cases wide <;> rfl

theorem atomIntTy_int (cls : AtomClass) (wide : Bool) (x : BitVec 64) :
    (atomIntTy cls wide).int x = if cls = .signed then sval (if wide then 64 else 32) x else uval (if wide then 64 else 32) x := by
  cases cls <;> cases wide <;> rfl

theorem low_toNat {w : Nat} (hw : w = 64 ∨ w = 32) (x : BitVec 64) : (low w x).toNat = uval w x := by
  unfold low uval
  rw [BitVec.toNat_ofNat]
  obtain rfl | rfl := hw <;> omega

/-- A sum of signed or unsigned values modulo 2^W is the sum of the unsigned ones. -/
theorem wrap_sum (w : Nat) (x y : BitVec 64) :
    wrap w (sval w x + sval w y) = BitVec.ofNat 64 ((uval w x + uval w y) % 2 ^ w)
      ∧ wrap w ((uval w x : Int) + uval w y) = BitVec.ofNat 64 ((uval w x + uval w y) % 2 ^ w) := by
  have hnat : wrap w ((uval w x : Int) + uval w y) = BitVec.ofNat 64 ((uval w x + uval w y) % 2 ^ w) := by
    unfold wrap
    congr 1
  have hmod (z : BitVec 64) : (sval w z).emod ((2 : Int) ^ w) = (uval w z : Int).emod ((2 : Int) ^ w) := by
    unfold sval
    dsimp only
    split
    · rfl
    · exact Int.sub_emod_right _ _
  refine ⟨?_, hnat⟩
  rw [← hnat]
  unfold wrap
  refine congrArg (fun n : Int => BitVec.ofNat 64 n.toNat) ?_
  exact (Int.add_emod _ _ _).trans ((congr (congrArg (fun m n => (m + n) % (2 : Int) ^ w) (hmod x)) (hmod y)).trans (Int.add_emod _ _ _).symm)

/-- One lane of ATOML, as the statement collects its value. -/
def State.atomFind (f : MF) (t : Ty) (as : Nat → Nat) (val : Nat → Nat → BitVec 64) (p : (Nat → Src) × FpFlags × State) (l : Nat) :
    (Nat → Src) × FpFlags × State :=
  let r := p.2.2.atomStep f t (as l) (val l 1) (val l 2)
  (fun k => if k = l then r.1 else p.1 k, p.2.1 ||| r.2.1, r.2.2)

/-- One lane of ATOML, as the model collects its writes. -/
def State.atomWrite (f : MF) (t : Ty) (as : Nat → Nat) (val : Nat → Nat → BitVec 64) (p : List LaneWrite × FpFlags × State) (l : Nat) :
    List LaneWrite × FpFlags × State :=
  let r := p.2.2.atomStep f t (as l) (val l 1) (val l 2)
  (p.1 ++ (putVal f.data.reg t r.1.1).map (fun e => LaneWrite.mk e.1 l e.2.1 r.1.2), p.2.1 ||| r.2.1, r.2.2)

theorem State.atomFind_other (f : MF) (t : Ty) (as : Nat → Nat) (val : Nat → Nat → BitVec 64) {k : Nat} {ls : List Nat} (hk : k ∉ ls)
    (p : (Nat → Src) × FpFlags × State) : (ls.foldl (State.atomFind f t as val) p).1 k = p.1 k := by
  induction ls generalizing p with
  | nil => rfl
  | cons l ls ih =>
    rw [List.mem_cons, not_or] at hk
    exact (ih hk.2 _).trans (if_neg hk.1)

/-- The end of an ATOML: its flags, its lanes' old values where it returns them, and its acquire. -/
def State.atomEnd (f : MF) (bad : List (Nat × List Src × Trap)) (rows : List Nat) (out : List LaneWrite × FpFlags × State) : State :=
  (if MF.ret f then (out.2.2.raise out.2.1).writeLanes out.1 else out.2.2.raise out.2.1).localEnd f bad rows

theorem State.atomEnd_eq (f : MF) (bad : List (Nat × List Src × Trap)) (rows ls : List Nat) (g : Nat → List (Nat × Word × Bool))
    (p : FpFlags × State) : State.atomEnd f bad rows (takeWrites ls g, p) =
      ((p.2.raise p.1).writeLanes (takeWrites ls fun l => if MF.ret f then g l else [])).localEnd f bad rows := by
  unfold State.atomEnd
  cases MF.ret f with
  | true => rfl
  | false =>
    have hnil : (takeWrites ls fun l => if false = true then g l else []) = [] := by
      unfold takeWrites
      rw [List.flatten_eq_nil_iff]
      intro ws hws
      obtain ⟨l, -, rfl⟩ := List.mem_map.mp hws
      rfl
    rw [hnil]
    rfl

/-- The two ways to collect agree. -/
theorem State.atomWrite_fold (f : MF) (t : Ty) (as : Nat → Nat) (val : Nat → Nat → BitVec 64) {ls : List Nat} (hls : ls.Nodup)
    (ws : List LaneWrite) (p : (Nat → Src) × FpFlags × State) :
    ls.foldl (State.atomWrite f t as val) (ws, p.2) =
      (ws ++ takeWrites ls (fun l => markedWords f.data.reg t ((ls.foldl (State.atomFind f t as val) p).1 l)),
        (ls.foldl (State.atomFind f t as val) p).2) := by
  induction ls generalizing ws p with
  | nil => exact Prod.ext (List.append_nil ws).symm rfl
  | cons l ls ih =>
    obtain ⟨hl, hls⟩ := List.nodup_cons.mp hls
    have hval : ((l :: ls).foldl (State.atomFind f t as val) p).1 l = (p.2.2.atomStep f t (as l) (val l 1) (val l 2)).1 :=
      (State.atomFind_other f t as val hl _).trans (if_pos rfl)
    refine (ih hls _ (State.atomFind f t as val p l)).trans (Prod.ext ?_ rfl)
    unfold takeWrites
    dsimp only
    rw [List.map_cons, List.flatten_cons, hval, laneWrites_markedWords, ← List.append_assoc]
    rfl

/-- Updates in turn change the core store alone, and keep its form. -/
theorem State.atomFind_store (f : MF) (t : Ty) (as : Nat → Nat) (val : Nat → Nat → BitVec 64) (ls : List Nat) (p : (Nat → Src) × FpFlags × State)
    (hwf : Memory.wf Memory.zeros p.2.2.core.store = true) :
    ∃ a b m, (ls.foldl (State.atomFind f t as val) p).2.2 = p.2.2.withStore a b m ∧ Memory.wf Memory.zeros a = true := by
  induction ls generalizing p with
  | nil => exact ⟨_, _, _, rfl, hwf⟩
  | cons l ls ih =>
    obtain ⟨a, b, m, h, hwf⟩ := ih (State.atomFind f t as val p l) (Memory.wf_writeNat _ _ _ hwf)
    exact ⟨a, b, m, h, hwf⟩

end Sys2Proof.Machine
end

section
/-! PROOFS. The statements about local loads, local stores and atomics. -/

namespace Sys2Proof.Machine

/-- Settles O21: the lanes' elements are read in the state that has used the release, and written before the acquire. -/
theorem localLoads : Obligations.LocalLoads := by
  unfold Obligations.LocalLoads
  refine fun f s hok => ⟨fun as hm has hrows hrel => ?ldl, fun hm hn => ?fill⟩
  case ldl =>
    obtain ⟨hcore, hlocal⟩ := s.useRelease_local (MF.rel f)
    have hexec := State.localAccess_may hm has hrows hrel fun s u ok bad =>
      (u.writeLanes ((ok.map fun x => (x.2.mapIdx fun k a =>
        (putVal (u.elemReg f.data (MF.lty f) k) (MF.lty f) (u.localRead a (MF.w f)).1).map fun e =>
          LaneWrite.mk e.1 x.1.lane e.2.1 (u.localRead a (MF.w f)).2).flatten).flatten)).localEnd f bad (s.dstRows (.ldl f))
    have hreg (k : Nat) : (s.useRelease (MF.rel f)).elemReg f.data (MF.lty f) k = s.elemReg f.data (MF.lty f) k := by
      cases MF.rel f <;> rfl
    have hread (a : Nat) : (s.useRelease (MF.rel f)).localRead a (MF.w f) = s.localRead a (MF.w f) := by
      cases MF.rel f <;> rfl
    refine lanesTake.of_localEnd (u := s.useRelease (MF.rel f)) (rows := s.dstRows (.ldl f)) hok ?_ ?_
      ((congrArg Host.Outcome.next hexec).trans ?_)
    · rw [hcore]; exact hok.2.1.1
    · intro n l; rw [hlocal, s.useRelease_vAddr]
    · unfold takeWrites
      rw [List.map_map]
      refine congrArg (fun ws => Host.Outcome.next ((State.writeLanes _ ws).localEnd f [] _))
        (congrArg List.flatten (List.map_congr_left fun l _ => ?_))
      rw [laneWrites_flatten, map_mapIdx]
      refine congrArg List.flatten (congrArg (fun h => List.mapIdx h (as l)) (funext fun k => funext fun a => ?_))
      rw [laneWrites_markedWords, hreg, hread]
  case fill =>
    have hexec : exec (.fill f) s = .next (((s.writeLanes (takeWrites s.active fun l => (List.range (MF.n f)).map fun i =>
        (f.data.reg + i, s.elem (s.stackAddr (s.grp.ssp - MF.n f + i) l)))).onGrp fun g => { g with ssp := s.grp.ssp - MF.n f }).next) := by
      refine congrArg Host.Outcome.next ((s.access_may _ _ hm).trans ((if_neg (by omega)).trans ?_))
      unfold takeWrites laneWrites
      simp only [List.map_map]
      rfl
    obtain ⟨a, b, m, hw⟩ := s.writeLanes_store (takeWrites s.active fun l => (List.range (MF.n f)).map fun i =>
        (f.data.reg + i, s.elem (s.stackAddr (s.grp.ssp - MF.n f + i) l)))
    rw [hw] at hexec
    exact lanesTake.of_writeLanes (u := s) (fun l hl => s.active_lt hok hl) hok.2.1.1 (fun _ _ => rfl) (fun _ _ => rfl) rfl hw hexec
      (State.keeps_next _ _)

/-- Settles O22: the bytes of the lanes follow one another into the core store. -/
theorem localStores : Obligations.LocalStores := by
  unfold Obligations.LocalStores
  refine fun f s hok => ⟨fun as hm has hrows hrel => ?stl, fun hm hn => ?spill⟩
  case stl =>
    obtain ⟨hcore, hlocal⟩ := s.useRelease_local (MF.rel f)
    have hexec := State.localAccess_may hm has hrows hrel fun s u ok bad =>
      ((ok.map fun x => x.2.mapIdx fun k a => (a, (x.1.srcs.getD (k + 1) (0, false)).1)).flatten.foldl
        (fun s e => s.localWrite e.1 (MF.w f) e.2 false) u).localEnd f bad []
    rw [State.localWrites_fold, State.localEnd_nil] at hexec
    obtain ⟨a, b, m, hw⟩ := State.onCore_setAll (s.useRelease (MF.rel f)) (MF.w f) (List.map
      (fun e => ((s.useRelease (MF.rel f)).local e.1, BitVec.toNat e.2, false))
      (List.map (fun x : LaneLoc × List Nat => x.2.mapIdx fun k a => (a, (x.1.srcs.getD (k + 1) (0, false)).1))
        (s.active.map fun l => (⟨l, s.sources (f.idx :: MF.dataUses f (MF.lty f) (MF.n f)) l, .ok (as l)⟩, as l))).flatten)
    rw [hw, State.acquired_withStore] at hexec
    refine ⟨_, congrArg Host.Outcome.next hexec, ?_⟩
    have hwf : Memory.wf Memory.zeros (s.useRelease (MF.rel f)).core.store = true := by rw [hcore]; exact hok.2.1.1
    have honly := onlyBytes.of_setAll hwf (State.sameStore_acquired _ f).1 hw (State.keeps_next _ false)
    refine Eq.mp (congrArg (onlyBytes _ _) ?_) honly
    rw [List.map_map, List.map_map, List.map_flatten, List.map_map, List.flatten_flatten, List.map_map]
    refine congrArg List.flatten (List.map_congr_left fun l _ => congrArg List.flatten ?_)
    refine (map_mapIdx _ _ _).trans (congrArg (fun h => List.mapIdx h (as l)) (funext fun k => funext fun a => ?_))
    dsimp only [Function.comp]
    rw [hlocal]
  case spill =>
    have hwin := hm.1.spill_window
    have h32 (l : Nat) (hl : l ∈ s.active) : l < 32 := s.active_lt hok hl
    have hne : ∀ p ∈ spillPairs s.active (MF.n f), ∀ q ∈ spillPairs s.active (MF.n f),
        s.stackAddr (s.grp.ssp + q.2) q.1 ≠ s.vAddr (f.data.reg + p.2) p.1 := by
      intro p hp q hq
      obtain ⟨hp1, hp2⟩ := mem_spillPairs.mp hp
      have := h32 p.1 hp1
      have := h32 q.1 (mem_spillPairs.mp hq).1
      unfold State.stackAddr State.vAddr
      omega
    have hfold := State.spill_fold f.data.reg s.grp.ssp (spillPairs s.active (MF.n f)) s hok.2.1.1 hne
    obtain ⟨a, b, m, hw⟩ := s.onCore_setAll 4 (elemBytes ((spillPairs s.active (MF.n f)).map (s.spillWrite f.data.reg s.grp.ssp)))
    have hexec : exec (.spill f) s = .next (((s.withStore a b m).onGrp fun g => { g with ssp := s.grp.ssp + MF.n f }).next) := by
      refine congrArg Host.Outcome.next ((s.access_may _ _ hm).trans ((if_neg (by omega)).trans ?_))
      rw [← hw, ← hfold, ← foldl_spillPairs]
    have hk := State.keeps_next ((s.withStore a b m).onGrp fun g => { g with ssp := s.grp.ssp + MF.n f }) false
    refine ⟨_, hexec, ?_, fun l hl i hi => ?_⟩
    · have honly := onlyBytes.of_setAll (v := s.onGrp fun g => { g with ssp := s.grp.ssp + MF.n f }) hok.2.1.1 rfl hw hk
      refine Eq.mp (congrArg (onlyBytes _ _) ?_) honly
      unfold elemBytes spillPairs
      rw [List.map_map, List.map_map, List.flatMap_def, List.map_flatten, List.flatten_flatten, List.map_map, List.map_map]
      refine congrArg List.flatten (List.map_congr_left fun l _ => congrArg List.flatten ?_)
      exact List.map_map
    · have hmem : s.spillWrite f.data.reg s.grp.ssp (l, i) ∈ (spillPairs s.active (MF.n f)).map (s.spillWrite f.data.reg s.grp.ssp) :=
        List.mem_map_of_mem (mem_spillPairs.mpr ⟨hl, hi⟩)
      have hread := Core.elem_setAll (c := s.core) (b := s.local (s.stackAddr (s.grp.ssp + i) l)) (fun w hw => ?_) hok.2.1.1
        (findLast_unique hmem (beq_iff_eq.mpr rfl) fun w hw hwb => ?_)
      · rw [hk.elem]
        exact (congrArg (fun x : State => x.core.elem _) hw).symm.trans hread
      · obtain ⟨p, -, rfl⟩ := List.mem_map.mp hw
        unfold State.spillWrite State.local State.stackAddr
        omega
      · obtain ⟨p, hp, rfl⟩ := List.mem_map.mp hw
        obtain ⟨hp1, hp2⟩ := mem_spillPairs.mp hp
        have := h32 p.1 hp1
        have := h32 l hl
        have heq : s.local (s.stackAddr (s.grp.ssp + p.2) p.1) = s.local (s.stackAddr (s.grp.ssp + i) l) := beq_iff_eq.mp hwb
        have hpl : p.1 = l ∧ p.2 = i := by
          unfold State.local State.stackAddr at heq
          omega
        rw [← hpl.1, ← hpl.2]

/-- Settles O23: each sub-op by its arithmetic; the fold over the lanes writes their old values at the end. -/
theorem atomicUpdates : Obligations.AtomicUpdates := by
  unfold Obligations.AtomicUpdates
  refine ⟨fun cls wide old a c => ?_, fun f s as => ?_⟩
  · intro w u new less
    have hw : (atomIntTy cls wide).width = w := atomIntTy_width cls wide
    have hw64 : w = 64 ∨ w = 32 := by dsimp only [w]; cases wide <;> simp
    have hlt (x : BitVec 64) : u x < 2 ^ w := Nat.mod_lt _ (Nat.two_pow_pos w)
    have hless (x y : BitVec 64) : less x y = true ↔ (atomIntTy cls wide).int x < (atomIntTy cls wide).int y := by
      rw [atomIntTy_int, atomIntTy_int]
      dsimp only [less]
      split <;> simp [u, w]
    refine ⟨?add, rfl, rfl, rfl, rfl, ?cas, ?inc, ?dec, ?min, ?max, rfl, rfl⟩
    case add =>
      refine congrArg (·, 0) ?_
      change wrap (atomIntTy cls wide).width ((atomIntTy cls wide).int old + (atomIntTy cls wide).int a) = _
      obtain ⟨hs, hu⟩ := wrap_sum w old a
      rw [hw, atomIntTy_int, atomIntTy_int]
      split
      · exact hs
      · exact hu
    case cas =>
      have hiff : low w old = low w c ↔ u old = u c := by
        refine ⟨fun h => ?_, fun h => congrArg (BitVec.ofNat 64) h⟩
        have hnat : (low w old).toNat = (low w c).toNat := congrArg BitVec.toNat h
        rwa [low_toNat hw64, low_toNat hw64] at hnat
      exact congrArg (·, 0) (ite_of_iff hiff _ _)
    case inc =>
      refine congrArg (·, 0) ?_
      change (if u a ≤ u old then 0 else low w (old + 1)) = _
      split
      next => rfl
      next h =>
        refine congrArg (BitVec.ofNat 64) ?_
        have ha : a.toNat % 2 ^ w < 2 ^ w := hlt a
        change (old + 1).toNat % 2 ^ w = old.toNat % 2 ^ w + 1
        simp only [u, uval] at h ha
        rw [BitVec.toNat_add]
        obtain hw | hw := hw64 <;> rw [hw] at h ha ⊢ <;> simp only [BitVec.ofNat_eq_ofNat, BitVec.toNat_ofNat] <;> omega
    case dec =>
      refine congrArg (·, 0) ?_
      change (if u old = 0 ∨ u a < u old then low w a else low w (old - 1)) = _
      split
      next => rfl
      next h =>
        refine congrArg (BitVec.ofNat 64) ?_
        have hold := old.isLt
        change (old - 1).toNat % 2 ^ w = old.toNat % 2 ^ w - 1
        simp only [u, uval] at h
        rw [BitVec.toNat_sub]
        obtain hw | hw := hw64 <;> rw [hw] at h ⊢ <;> simp only [BitVec.ofNat_eq_ofNat, BitVec.toNat_ofNat] <;> omega
    case min =>
      refine congrArg (·, 0) ?_
      change (if (atomIntTy cls wide).int old ≤ (atomIntTy cls wide).int a then low (atomIntTy cls wide).width old else low (atomIntTy cls wide).width a) = _
      rw [hw]
      by_cases h : less a old = true
      · rw [if_pos h, if_neg (Int.not_le.mpr ((hless a old).mp h))]
      · rw [if_neg h, if_pos (Int.not_lt.mp fun hlt => h ((hless a old).mpr hlt))]
    case max =>
      refine congrArg (·, 0) ?_
      change (if (atomIntTy cls wide).int a ≤ (atomIntTy cls wide).int old then low (atomIntTy cls wide).width old else low (atomIntTy cls wide).width a) = _
      rw [hw]
      by_cases h : less old a = true
      · rw [if_pos h, if_neg (Int.not_le.mpr ((hless old a).mp h))]
      · rw [if_neg h, if_pos (Int.not_lt.mp fun hlt => h ((hless old a).mpr hlt))]
  · intro t us val hok hm has hrows hrel
    obtain ⟨hcore, hlocal⟩ := s.useRelease_local (MF.rel f)
    have hrows' : s.ownRows (s.active.map fun l => [as l]).flatten (t.width / 8) = [] := by
      rw [← List.flatMap_def, ← List.map_eq_flatMap]
      exact hrows
    have hexec := State.localAccess_may hm has hrows' hrel fun s u ok bad =>
      State.atomEnd f bad (if MF.ret f then s.dstRows (.atoml f) else []) (ok.foldl
        (fun p x => State.atomWrite f t (fun _ => x.2.headD 0) (fun _ k => (x.1.srcs.getD k (0, false)).1) p x.1.lane) ([], 0, u))
    have hval : (s.active.map fun l => ((⟨l, s.sources us l, .ok [as l]⟩ : LaneLoc), [as l])).foldl
        (fun p x => State.atomWrite f t (fun _ => x.2.headD 0) (fun _ k => (x.1.srcs.getD k (0, false)).1) p x.1.lane)
        ([], 0, s.useRelease (MF.rel f)) = s.active.foldl (State.atomWrite f t as val) ([], 0, s.useRelease (MF.rel f)) := List.foldl_map
    have hfold : s.active.foldl (State.atomWrite f t as val) ([], 0, s.useRelease (MF.rel f)) = _ :=
      State.atomWrite_fold f t as val s.grp.active_nodup [] (fun _ => (0, false), 0, s.useRelease (MF.rel f))
    rw [hval, hfold, List.nil_append, State.atomEnd_eq] at hexec
    obtain ⟨a, b, m, hout, hwf⟩ := State.atomFind_store f t as val s.active (fun _ => (0, false), 0, s.useRelease (MF.rel f))
      (by rw [hcore]; exact hok.2.1.1)
    refine lanesTake.of_localEnd (f := f) hok ?_ ?_ (congrArg Host.Outcome.next hexec)
    · change Memory.wf Memory.zeros (s.active.foldl (State.atomFind f t as val) (fun _ => (0, false), 0, s.useRelease (MF.rel f))).2.2.core.store = true
      rw [hout]
      exact hwf
    · intro n l
      change (s.active.foldl (State.atomFind f t as val) (fun _ => (0, false), 0, s.useRelease (MF.rel f))).2.2.local
        ((s.active.foldl (State.atomFind f t as val) (fun _ => (0, false), 0, s.useRelease (MF.rel f))).2.2.vAddr n l) = _
      rw [hout, ← hlocal, ← s.useRelease_vAddr (MF.rel f)]
      rfl

end Sys2Proof.Machine
end

section
/-! SUPPORT. Global accesses whose lanes pass the checks of R264. -/

namespace Sys2Proof.Machine

/-- The lanes of an access that reaches memory, as checks 1 to 4 leave them. -/
def State.checkedLanes (s : State) (us : List Use) (vas : Nat → List (Option Nat)) : List LaneAcc :=
  s.active.map fun l => ⟨l, s.sources us l, .ok (vas l)⟩

/-- What an access of every active lane does when it reaches memory: its lanes pass checks 1 to 4, its translations are held, and `chk`
passes them with their places. -/
theorem State.reaches.go {s : State} {g : GAcc} {off : BitVec 16} {us : List Use} {vas : Nat → List (Option Nat)} {ps : Nat → List Place}
    (h : s.reaches g off us vas ps) {kind : Nat} (hk : kind ≠ 5) (chk : State → LaneAcc → Except Trap (List Place))
    (hchk : ∀ l ∈ s.active, chk s ⟨l, s.sources us l, .ok (vas l)⟩ = .ok (ps l))
    (k : State → List Nat → List (LaneAcc × List Place) → List (Nat × List Src × Trap) → State) :
    (let ls := s.active.map fun l => s.preCheck g off l (s.sources us l)
     s.translated (touched ls) kind fun s =>
      let rs := ls.map fun x => (x, chk s x)
      k s (touched ls) (passed rs) (failed rs))
    = k s (s.active.map fun l => (vas l).filterMap id).flatten (passing s us vas ps) [] := by
  obtain ⟨hpre, hmiss, -, -⟩ := h
  obtain ⟨hpass, hfail⟩ := passed_failed s us vas ps (chk s) hchk
  have hls : (s.active.map fun l => s.preCheck g off l (s.sources us l)) = s.checkedLanes us vas := List.map_congr_left hpre
  have htouched : touched (s.checkedLanes us vas) = (s.active.map fun l => (vas l).filterMap id).flatten := touched_passing s us vas
  have hkind : (kind == 5) = false := beq_false_of_ne hk
  dsimp only
  rw [hls, htouched, s.translated_ok _ _ _ (by rw [hkind]; exact hmiss)]
  unfold State.checkedLanes
  rw [hpass, hfail]

/-- A load has room while fewer than 63 are outstanding (R338). -/
theorem State.loadRoom {s : State} (h : s.kind = .vector → s.grp.loads < 63) : (s.kind == .vector && decide (63 ≤ s.grp.loads)) = false := by
  cases hv : s.kind == .vector with
  | false => rfl
  | true => exact decide_eq_false (Nat.not_le.mpr (h (eq_of_beq hv)))

/-- Accesses that check one lane alone. -/
theorem State.translated_one {s : State} {x : LaneAcc} {vas : List (Option Nat)} (hx : x.vas = .ok vas) (hm : s.missing (vas.filterMap id) = [])
    (k : State → State) : s.translated (touched [x]) 0 k = k s := by
  have htouched : touched [x] = vas.filterMap id := by
    unfold touched
    rw [List.map_singleton, List.flatten_singleton, hx]
  rw [htouched]
  exact s.translated_ok _ _ _ hm

/-- Peer accesses whose lanes pass every check. -/
theorem peersOk_passing (ls : List Nat) (g : Nat → LanePeer) (srcs : Nat → List Src) (as : Nat → Nat)
    (h : ∀ l ∈ ls, g l = ⟨l, srcs l, .ok (as l)⟩) :
    peersOk (ls.map g) = ls.map (fun l => (⟨l, srcs l, .ok (as l)⟩, as l)) ∧ peersBad (ls.map g) = [] := by
  rw [List.map_congr_left h]
  constructor
  · unfold peersOk
    rw [List.filterMap_map, ← List.filterMap_eq_map]
    rfl
  · unfold peersBad
    rw [List.filterMap_map]
    exact List.filterMap_eq_nil_iff.mpr fun _ _ => rfl

/-! ### Line operations (R265) -/

/-- One lane of a line operation: only poison stops it. -/
def GAcc.quietLane (g : GAcc) (off : BitVec 16) (l : Nat) (srcs : List Src) : LaneAcc :=
  ⟨l, srcs, match g.poisonTrap (srcs.getD 0 (0, false)) [] with
    | some t => .error t
    | none => .ok (g.quietAddresses ((uval 32 (srcs.getD 0 (0, false)).1 : Int) + off.toInt))⟩

/-- The lanes of a line operation that park. -/
def lineBad (ls : List LaneAcc) : List (Nat × List Src × Trap) :=
  ls.filterMap fun x => match x.vas with | .error t => some (x.lane, x.srcs, t) | .ok _ => none

theorem State.lineOp_eq (s : State) (i : Instr) (f : MF) (k : State → List LineAcc → State) :
    s.lineOp i f k = s.access i fun s =>
      let g := s.gacc f 0 false false
      let ls := s.active.map fun l => g.quietLane f.offset l (s.sources [f.idx] l)
      s.translated (touched ls) 5 fun s => (k (s.dropHeld (touched ls)) (s.lineSet g ls)).proceed (lineBad ls) [] := rfl

theorem GAcc.quietLane_clean {g : GAcc} {off : BitVec 16} {l : Nat} {x : Src} (hg : g.poison = false) (hx : x.2 = false) :
    g.quietLane off l [x] = ⟨l, [x], .ok (g.quietAddresses ((uval 32 x.1 : Int) + off.toInt))⟩ := by
  have hclean : g.poisonTrap x [] = none := by
    unfold GAcc.poisonTrap
    rw [hx, hg]
    rfl
  unfold GAcc.quietLane
  rw [show [x].getD 0 (0, false) = x from rfl, hclean]

end Sys2Proof.Machine
end

section
/-! PROOFS. The statements about global accesses, peer accesses and line operations. -/

namespace Sys2Proof.Machine

/-- Settles O24: every lane passes the checks, so nothing waits and no lane parks. -/
theorem globalAccessesIssue : Obligations.GlobalAccessesIssue := by
  unfold Obligations.GlobalAccessesIssue
  intro f s vas ps load store t atom data both
  refine ⟨fun hm hcnt hr => ?ld, fun hm hcnt hr hroom => ?st, fun hm hcnt hr hset => ?atom, fun l hl => ?ldu⟩
  case ld =>
    have ⟨_, _, hpost, hbusy⟩ := hr
    have hgo := hr.go (kind := 0) (by decide) (fun s => s.postCheck load) hpost fun s us ok bad =>
      if s.lineBusy ok then s.waitBefore (.starts (lanesLines ok))
      else ((s.dropHeld us).issueLoad f load false ok (s.dstRows (.ld f))).proceed bad (s.dstRows (.ld f))
    rw [if_neg (by rw [hbusy]; exact Bool.false_ne_true), State.proceed_nil] at hgo
    exact congrArg Host.Outcome.next ((s.access_may _ _ hm).trans ((if_neg (by rw [State.loadRoom hcnt]; exact Bool.false_ne_true)).trans hgo))
  case st =>
    have ⟨_, _, hpost, hbusy⟩ := hr
    have hgo := hr.go (kind := 1) (by decide) (fun s => s.postCheck store) hpost fun s us ok bad =>
      if s.lineBusy ok then s.waitBefore (.starts (lanesLines ok))
      else if !s.storeRoom f ok then s.waitBefore (.stores (s.storeHolds f ok))
      else ((s.dropHeld us).issueStore f store ok).proceed bad []
    rw [if_neg (by rw [hbusy]; exact Bool.false_ne_true), if_neg (by rw [hroom]; exact Bool.false_ne_true), State.proceed_nil] at hgo
    exact congrArg Host.Outcome.next ((s.access_may _ _ hm).trans ((if_neg (Nat.not_le.mpr hcnt)).trans hgo))
  case atom =>
    have ⟨_, _, hpost, hbusy⟩ := hr
    have hgo := hr.go (kind := 2) (by decide) (fun s => s.atomCheck f atom) (fun l hl => ?_) fun s us ok bad =>
      if s.lineBusy ok then s.waitBefore (.starts (lanesLines ok))
      else ((s.dropHeld us).issueAtom f ok (if MF.ret f then s.dstRows (.atom f) else [])).proceed bad
        (if MF.ret f then s.dstRows (.atom f) else [])
    · rw [if_neg (by rw [hbusy]; exact Bool.false_ne_true), State.proceed_nil] at hgo
      refine congrArg Host.Outcome.next ((s.access_may _ _ hm).trans ((if_neg ?_).trans hgo))
      split
      next hret => rw [if_pos hret] at hcnt; exact Nat.not_le.mpr hcnt
      next hret => rw [if_neg hret] at hcnt; exact Nat.not_le.mpr hcnt
    · unfold State.atomCheck
      rw [hpost l hl]
      dsimp only
      refine if_neg fun h => ?_
      obtain ⟨hop, hout⟩ := Bool.and_eq_true_iff.mp h
      rw [hset (eq_of_beq hop) l hl] at hout
      exact Bool.false_ne_true hout
  case ldu =>
    intro us x hm hcnt hpre hmiss hpost hbusy
    have htake : s.active.take 1 = [l] := by
      cases ha : s.active with
      | nil => rw [ha] at hl; cases hl
      | cons k ks => rw [ha] at hl; cases hl; rfl
    have hls : ((s.active.take 1).map fun l => s.preCheck load f.offset l (s.sources us l)) = [x] := by
      rw [htake]
      exact congrArg (· :: []) hpre
    have hpass : passed ([x].map fun x => (x, s.postCheck load x)) = [(x, ps l)] := by
      unfold passed
      rw [List.map_singleton, List.filterMap_cons, hpost]
      rfl
    have hfail : failed ([x].map fun x => (x, s.postCheck load x)) = [] := by
      unfold failed
      rw [List.map_singleton, List.filterMap_cons, hpost]
      rfl
    have htouched : touched [x] = (vas l).filterMap id := List.append_nil _
    let ls := (s.active.take 1).map fun l => s.preCheck load f.offset l (s.sources us l)
    have hbody : exec (.ldu f) s = .next (s.access (.ldu f) fun _ =>
        if s.kind == .vector && decide (63 ≤ s.grp.loads) then s.waitBefore .loads
        else s.translated (touched ls) 0 fun u =>
          let rs := ls.map fun x => (x, u.postCheck load x)
          if u.lineBusy (passed rs) then u.waitBefore (.starts (lanesLines (passed rs)))
          else
            let v := (u.dropHeld (touched ls)).issueLoad f load true (passed rs) (u.dstRows (.ldu f))
            v.proceed ((failed rs).map fun x => v.active.map fun l => (l, x.2.1, x.2.2)).flatten (u.dstRows (.ldu f))) := by
      refine congrArg Host.Outcome.next (((s.access_may _ _ hm).trans ?_).trans (s.access_may _ _ hm).symm)
      rfl
    rw [hbody, s.access_may _ _ hm, State.loadRoom hcnt, if_neg Bool.false_ne_true]
    dsimp only [ls]
    rw [hls, State.translated_one rfl hmiss, hpass, hfail, htouched, hbusy, if_neg Bool.false_ne_true]
    exact congrArg Host.Outcome.next (State.proceed_nil _ _ _)

/-- Settles O26: every lane passes, and no lane's bytes are busy, so the three issue their requests. -/
theorem peerAccessesIssue : Obligations.PeerAccessesIssue := by
  unfold Obligations.PeerAccessesIssue
  intro f s as t ta go
  have hgo (i : Instr) (load : Bool) (n w : Nat) (us : List Use) (rows : List Nat) (elems : Nat → List Elem) (ty : Ty)
      (kind : LanePeer → PeerKind) (he : exec i s = .next (s.peerAccess i f load n w us rows elems ty kind)) :
      go i load n w us rows elems ty kind := by
    intro hm hcnt hl
    obtain ⟨hok, hbad⟩ := peersOk_passing s.active (fun l => s.peerLane f n w us l) (s.sources us) as fun l h => (hl l h).1
    refine he.trans (congrArg Host.Outcome.next ((s.access_may _ _ hm).trans ?_))
    have hroom : ¬ (if load = true then 63 ≤ s.grp.loads else 63 ≤ s.grp.stores) := by
      cases load <;> exact Nat.not_le.mpr hcnt
    have hfind : (s.active.map fun l => ((⟨l, s.sources us l, .ok (as l)⟩ : LanePeer), as l)).find?
        (fun x => s.peerBusy (s.routeDst f.route.toNat) x.2 (n * w)) = none := by
      refine List.find?_eq_none.mpr fun x hx => ?_
      obtain ⟨l, h, rfl⟩ := List.mem_map.mp hx
      rw [(hl l h).2]
      exact Bool.false_ne_true
    dsimp only
    rw [hok, hbad, if_neg hroom, hfind]
    exact State.proceed_nil _ _ _
  exact ⟨hgo _ _ _ _ _ _ _ _ _ rfl, hgo _ _ _ _ _ _ _ _ _ rfl, hgo _ _ _ _ _ _ _ _ _ rfl⟩

/-- Settles O27: no lane traps, so the operation acts on the line set and the issue set moves on. -/
theorem lineOperations : Obligations.LineOperations := by
  unfold Obligations.LineOperations
  intro f s g vas us lines go hl hg hmiss
  have hop {i : Instr} (hm : s.mayAccess i) (k : State → List LineAcc → State) : s.lineOp i f k = (k (s.dropHeld us) lines).next := by
    have hls : (s.active.map fun l => g.quietLane f.offset l (s.sources [f.idx] l)) = s.checkedLanes [f.idx] vas := by
      refine List.map_congr_left fun l h => ?_
      obtain ⟨hreplay, hidx⟩ := hl l h
      rw [State.sources_fresh hreplay]
      exact GAcc.quietLane_clean hg hidx
    have htouched : touched (s.checkedLanes [f.idx] vas) = us := touched_passing s [f.idx] vas
    have hbad : lineBad (s.checkedLanes [f.idx] vas) = [] := by
      unfold lineBad State.checkedLanes
      rw [List.filterMap_map]
      exact List.filterMap_eq_nil_iff.mpr fun _ _ => rfl
    rw [State.lineOp_eq, s.access_may _ _ hm]
    dsimp only
    rw [show (s.active.map fun l => (s.gacc f 0 false false).quietLane f.offset l (s.sources [f.idx] l)) = _ from hls, htouched,
      s.translated_ok _ _ _ hmiss, hbad]
    exact State.proceed_nil _ _ _
  refine ⟨fun hm => congrArg _ (hop hm _), fun hm => congrArg _ (hop hm _), fun hm => congrArg _ (hop hm _), fun hm hcnt => ?_⟩
  refine congrArg Host.Outcome.next ((if_neg fun h => absurd h.1 (Nat.not_le.mpr hcnt)).trans (hop hm _))

end Sys2Proof.Machine
end

section
/-! SUPPORT. A release with nothing outstanding (R287, R315), and changes of the state that leave the group in focus alone. -/

namespace Sys2Proof.Machine

/-! ### The teams beside the one in focus -/

/-- Two states with the same team and group in focus, on cores with the same other teams. -/
def State.sameTeams (s t : State) : Prop := t.team = s.team ∧ t.grp = s.grp ∧ t.core.teams = s.core.teams

theorem State.sameTeams_requestRebase (s : State) (d : Nat) : s.sameTeams (s.requestRebase d) := by
  unfold State.requestRebase
  dsimp only
  split
  · exact ⟨rfl, rfl, rfl⟩
  · split <;> exact ⟨rfl, rfl, rfl⟩

theorem State.sameTeams_setNow (s : State) (n : Nat) : s.sameTeams (s.setNow n) := by
  unfold State.setNow State.noteTick
  split
  · exact State.sameTeams_requestRebase _ _
  · exact ⟨rfl, rfl, rfl⟩

theorem State.sameTeams_acquire (s : State) (sc : Scope) : s.sameTeams (s.acquire sc) := by
  unfold State.acquire State.raiseNow
  split
  · split
    · exact s.sameTeams_setNow _
    · exact ⟨rfl, rfl, rfl⟩
  · exact ⟨rfl, rfl, rfl⟩

/-- No other team or group of a state with the same teams goes by the name of the one in focus. -/
theorem State.sameTeams.alone {s t : State} (h : s.sameTeams t) (ha : s.alone) : t.alone := by
  obtain ⟨hteam, hgrp, hteams⟩ := h
  unfold State.alone
  rw [hteam, hgrp, hteams]
  exact ha

/-- Bringing the group in focus into focus changes nothing. -/
theorem State.focusGroup_self {s : State} (ha : s.alone) : s.focusGroup s.gid = s := by
  obtain ⟨hteams, hgroups⟩ := ha
  have hteam : s.focusTeam s.team.id = s := by
    refine if_neg fun h => ?_
    obtain ⟨t, ht, hid⟩ := List.any_eq_true.mp h
    exact hteams t ht (eq_of_beq hid)
  unfold State.focusGroup
  rw [show s.gid.team = s.team.id from rfl, hteam]
  refine if_neg fun h => ?_
  obtain ⟨-, h⟩ := (Bool.and_eq_true _ _).mp h
  obtain ⟨g, hg, hnum⟩ := List.any_eq_true.mp h
  exact hgroups g hg (eq_of_beq hnum)

theorem State.findGroup_self {s : State} (h : s.grp.lanes ≠ []) : s.findGroup s.gid = some s.grp := by
  have hempty : s.grp.lanes.isEmpty = false := by
    cases hl : s.grp.lanes with
    | nil => exact absurd hl h
    | cons => rfl
  unfold State.findGroup State.coreTeams
  rw [hempty, Bool.and_false]
  simp [State.gid]

theorem State.lanes_ne_nil {s : State} (h : s.active ≠ []) : s.grp.lanes ≠ [] := by
  obtain ⟨l, hl⟩ := List.exists_mem_of_ne_nil _ h
  have hlt := s.grp.active_lt hl
  exact fun hnil => by rw [hnil] at hlt; exact Nat.not_lt_zero _ hlt

/-- An action at the group in focus that keeps the teams. -/
theorem State.atGroup_self {s : State} (ha : s.alone) (hl : s.grp.lanes ≠ []) {f : State → State} (hf : s.sameTeams (f s)) :
    s.atGroup s.gid f = f s := by
  obtain ⟨hteam, hgrp, -⟩ := id hf
  have hgid : (f s).gid = s.gid := by unfold State.gid; rw [hteam, hgrp]
  unfold State.atGroup
  rw [State.findGroup_self hl, if_pos (show (some s.grp).isSome = true from rfl), State.focusGroup_self ha, ← hgid]
  exact State.focusGroup_self (hf.alone ha)

/-! ### A fence with nothing outstanding -/

theorem State.copyBackAll_quiet {s : State} (h : ∀ c ∈ s.core.copies, c.mask = 0) : s.copyBackAll = s := by
  unfold State.copyBackAll
  rw [List.filter_eq_nil_iff.mpr fun c hc => by simp [h c hc]]
  rfl

/-- The release or condition of a FENCE of the group in focus. -/
def State.fenceRel (s : State) (sc : Scope) (release acq : Bool) : Rel :=
  { gid := some s.gid, scope := sc, release := release, acks := [], ops := [], most := 0, cont := .fence acq }

theorem State.relReady_fence {s : State} {sc : Scope} {release acq : Bool} (h : sc.wide = true → release = true → s.nowTick < 0xFFFFFF) :
    s.relReady (s.fenceRel sc release acq) = true := by
  have hops : s.relOps (s.fenceRel sc release acq) = true := by
    change (!(s.findGroup s.gid).any fun x => x.ops.any fun _ => false) = true
    cases s.findGroup s.gid with
    | none => rfl
    | some g => simp
  unfold State.relReady State.relCome
  rw [hops]
  simp only [State.fenceRel, State.relMore, State.relTicks, List.isEmpty_nil, Bool.and_true, Bool.or_false, Bool.not_false, Bool.true_and,
    Nat.add_zero, Nat.max_zero, tickMax]
  by_cases hw : (release && sc.wide) = true
  · obtain ⟨hr, hs⟩ := (Bool.and_eq_true _ _).mp hw
    have hlt := h hs hr
    simp only [hw, if_true, Bool.or_eq_true, decide_eq_true_eq]
    exact .inr (by omega)
  · simp [hw]

/-- A FENCE of a quiet group completes at once: its release steps `%now`, its acquire raises it to `%horizon` (R287). -/
theorem State.release_fence_quiet {s : State} {sc : Scope} {release acq : Bool} (hq : s.quiet) (ha : s.alone) (hl : s.grp.lanes ≠ [])
    (h : sc.wide = true → release = true → s.nowTick < 0xFFFFFF) {ops : List Nat} (hops : ops = []) :
    s.release sc release ops (.fence acq) =
      let s1 := if release && sc.wide then s.setNow (s.nowTick + 1) else s
      if acq then s1.acquire sc else s1 := by
  obtain ⟨hgops, hacks, hcopies⟩ := hq
  have hrel : s.release sc release ops (.fence acq) = s.fire (s.fenceRel sc release acq) := by
    have hready := State.relReady_fence (acq := acq) h
    unfold State.release
    dsimp only
    rw [s.copyBackAll_quiet hcopies, ite_self, hacks, ite_self, hops, hgops, List.any_nil, Bool.and_false]
    exact if_pos hready
  have hsame : s.sameTeams (if release && sc.wide then s.setNow (s.nowTick + 1) else s) := by
    split
    · exact s.sameTeams_setNow _
    · exact ⟨rfl, rfl, rfl⟩
  rw [hrel]
  unfold State.fire State.follow
  simp only [State.fenceRel, Nat.max_zero]
  generalize (if release && sc.wide then s.setNow (s.nowTick + 1) else s) = s1 at hsame
  cases acq with
  | false => rfl
  | true =>
    obtain ⟨hteam, hgrp, -⟩ := id hsame
    have hgid : s.gid = s1.gid := by unfold State.gid; rw [hteam, hgrp]
    rw [if_pos rfl, if_pos rfl, hgid]
    exact State.atGroup_self (hsame.alone ha) (by rw [hgrp]; exact hl) (s1.sameTeams_acquire sc)

end Sys2Proof.Machine
end

section
/-! PROOFS. The statement about counters, clocks and fences. -/

namespace Sys2Proof.Machine

/-- The stamp that CLKADV reads from its operand (R514). -/
theorem clkadv_stamp (v : BitVec 64) :
    (⟨BitVec.ofNat 2 (bits (uval 32 v) 25 24), bits (uval 32 v) 23 0⟩ : Stamp) = ⟨v.extractLsb' 24 2, uval 32 v % 2 ^ 24⟩ := by
  have hep : BitVec.ofNat 2 (bits (uval 32 v) 25 24) = v.extractLsb' 24 2 := by
    apply BitVec.eq_of_toNat_eq
    rw [BitVec.toNat_ofNat, BitVec.extractLsb'_toNat, Nat.shiftRight_eq_div_pow]
    unfold bits uval
    omega
  rw [hep]
  unfold bits
  simp

/-- An instruction that acts once acts on the values of its sources. -/
theorem exec_once {i : Instr} {us : List Use} {body : State → List (BitVec 64) → State} {s : State} (he : exec i s = .next (s.once i us body))
    (h : s.mayActOnce i us) : exec i s = .next (body s (s.uniformOperands us)) := he.trans (congrArg _ (s.once_may i us body h))

/-- Settles O28: each compares or adds as its rule says; a FENCE of a quiet group fires at once. -/
theorem countersClocksFence : Obligations.CountersClocksFence := by
  unfold Obligations.CountersClocksFence
  refine ⟨fun f s ha => ?_, fun f s hm => ?_⟩
  · intro v n one d rises
    have hadv {i : Instr} {m : Nat} (he : exec i s = .next (s.advanceTo m)) : rises i m := by
      refine ⟨fun h => he.trans (congrArg _ (if_neg (Nat.not_lt.mpr h))), fun h => he.trans (congrArg _ (if_pos h))⟩
    refine ⟨fun hcl => ?waitcnt, fun h hsub => ?add, fun h hsub => ?max, fun hcl => ?spin, fun h => ?sleep, fun h => ?waitt⟩
    case waitcnt =>
      intro met
      have hlow : bits f.code.toNat 7 0 = f.code.toNat % 256 := by unfold bits; omega
      have hhigh : bits f.code.toNat 11 8 = f.code.toNat / 256 % 16 := rfl
      have he : exec (.waitcnt f) s = .next (if met then s.next true
          else s.waitFor (.counters f.a.reg f.b.reg (f.code.toNat % 256) (f.code.toNat / 256 % 16))) := by
        refine congrArg Host.Outcome.next ((s.frame_clear _ _ hcl).trans ?_)
        dsimp only [met]
        rw [s.active_isEmpty ha, if_neg Bool.false_ne_true, hlow, hhigh]
      exact ⟨fun h => he.trans (congrArg _ (if_pos h)), fun h => he.trans (congrArg _ (if_neg h))⟩
    case add =>
      have he := exec_once (i := .clkadv f) rfl h
      rw [hsub] at he
      exact hadv he
    case max =>
      have he := exec_once (i := .clkadv f) rfl h
      rw [hsub] at he
      refine hadv (he.trans (congrArg (fun m => Host.Outcome.next (s.advanceTo m)) ?_))
      change (if (s.ep - Stamp.ep ⟨BitVec.ofNat 2 (bits (uval 32 v) 25 24), bits (uval 32 v) 23 0⟩).toNat ≤ 1 then
        max s.nowTick (Stamp.read ⟨BitVec.ofNat 2 (bits (uval 32 v) 25 24), bits (uval 32 v) 23 0⟩ s.ep) else s.nowTick) = _
      rw [clkadv_stamp]
    case spin => exact hadv (congrArg _ (s.once_may _ _ _ ⟨hcl, ha, fun u hu => absurd hu List.not_mem_nil⟩))
    case sleep =>
      have he := exec_once (i := .sleep f) rfl h
      exact ⟨fun h0 => he.trans (congrArg _ (if_pos h0)), fun h0 => he.trans (congrArg _ (if_neg h0))⟩
    case waitt =>
      have he := exec_once (i := .waitt f) rfl h
      exact ⟨fun h0 => he.trans (congrArg _ (if_pos h0)), fun h0 => he.trans (congrArg _ (if_neg (Nat.not_le.mpr h0)))⟩
  · intro sc acquires releases
    have hfence : exec (.fence f) s = .next (s.release sc (decide releases)
        (if releases then s.earlier else (s.grp.ops.filter (·.load)).map (·.id)) (.fence (decide acquires))).next := by
      refine congrArg Host.Outcome.next ((s.access_may _ _ hm).trans (congrArg State.next ?_))
      dsimp only [acquires, releases]
      obtain h | h | h | h : f.order = 0 ∨ f.order = 1 ∨ f.order = 2 ∨ f.order = 3 := by
        have : ∀ o : BitVec 2, o = 0 ∨ o = 1 ∨ o = 2 ∨ o = 3 := by decide
        exact this _
      all_goals rw [h]; rfl
    refine ⟨hfence, fun hq halone hnow => hfence.trans (congrArg (fun u => Host.Outcome.next (State.next u)) ?_)⟩
    obtain ⟨hcl, ha, -⟩ := hm
    obtain ⟨hops, -, -⟩ := id hq
    rw [State.release_fence_quiet hq halone (State.lanes_ne_nil ha) (fun hw hr => hnow hw (of_decide_eq_true hr))]
    · have hrel : (decide releases && sc.wide) = true ↔ sc.wide = true ∧ releases := by
        rw [Bool.and_eq_true, decide_eq_true_iff, and_comm]
      dsimp only
      rw [ite_of_iff hrel]
      generalize (if sc.wide = true ∧ releases then s.setNow (s.nowTick + 1) else s) = s1
      by_cases hacq : acquires
      · rw [if_pos (decide_eq_true hacq)]
        exact ite_of_iff (and_iff_left hacq).symm _ _
      · rw [if_neg (fun h => hacq (of_decide_eq_true h)), if_neg fun h => hacq h.2]
    · unfold State.earlier
      rw [hops, List.filter_nil, List.filter_nil, List.map_nil, ite_self]

end Sys2Proof.Machine
end

section
/-! SUPPORT. What a home's use of lines leaves of the core in focus (R274), and semaphore instructions whose place is known. -/

namespace Sys2Proof.Machine

/-- Filling a home changes the homes, the slices and the messages alone. -/
theorem State.fillHome_eq (s : State) (line : Nat) :
    ∃ h sl ag, (s.fillHome line).2 = { s with homes := h, slices := sl, agenda := ag } := by
  unfold State.fillHome
  split
  · exact ⟨_, _, _, rfl⟩
  · dsimp only
    split
    · exact ⟨_, _, _, rfl⟩
    · split
      · exact ⟨_, _, _, rfl⟩
      · split
        · next v _ =>
          unfold State.recall
          split <;> exact ⟨_, _, _, rfl⟩
        · exact ⟨_, _, _, rfl⟩

theorem State.useLines_eq (s : State) (lines : List Nat) :
    ∃ h sl ag, s.useLines lines = { s with homes := h, slices := sl, agenda := ag } := by
  induction lines generalizing s with
  | nil => exact ⟨_, _, _, rfl⟩
  | cons l ls ih =>
    obtain ⟨h, sl, ag, e⟩ := s.fillHome_eq l
    obtain ⟨h', sl', ag', e'⟩ := ih (s.fillHome l).2
    refine ⟨h', sl', ag', e'.trans ?_⟩
    rw [e]

theorem State.askWay_eq (s : State) (line : Nat) :
    ∃ h sl ag, s.askWay line = { s with homes := h, slices := sl, agenda := ag } := by
  unfold State.askWay
  split
  · exact s.fillHome_eq line
  · exact ⟨_, _, _, rfl⟩

/-- Checks of a semaphore's doubleword after its translation. -/
def State.semJudged (s : State) (writes : Bool) (va : Nat) : Except Trap (Option Place) := do
  let ps ← s.places (semAcc writes) [some va]
  match s.watchTrap (semAcc writes) [some va] with
  | some t => .error t
  | none => pure ps.head?

theorem State.semJudged_ok {s : State} {writes : Bool} {va : Nat} {p : Place} (hp : s.places (semAcc writes) [some va] = .ok [p])
    (hw : s.watchTrap (semAcc writes) [some va] = none) : s.semJudged writes va = .ok (some p) := by
  unfold State.semJudged
  rw [hp, hw]
  rfl

/-- What a semaphore instruction does once its doubleword is judged. -/
def State.semGo (s : State) (vs : List (BitVec 64)) (k : State → Nat → List (BitVec 64) → State) (r : Except Trap (Option Place)) : State :=
  match r with
  | .error t => s.trapActive t []
  | .ok (some (.at pa _)) => k s pa vs
  | .ok _ => k s holeAddr vs

/-- What a semaphore instruction does with its address. -/
def State.semFrom (s : State) (i : Instr) (writes : Bool) (kind : Nat) (k : State → Nat → List (BitVec 64) → State) (vs : List (BitVec 64))
    (a : Except Trap Nat) : State :=
  match a with
  | .error t => s.trapActive t []
  | .ok va =>
    if s.orderBlocked i then s.waitBefore (.order (isStoring i))
    else s.translated [va] kind fun s => (s.dropHeld [va]).semGo vs k (s.semJudged writes va)

theorem State.semaphore_eq (s : State) (i : Instr) (us : List Use) (writes : Bool) (kind : Nat) (k : State → Nat → List (BitVec 64) → State) :
    s.semaphore i us writes kind k = s.once i us fun s vs => s.semFrom i writes kind k vs (semAddress (nth vs 0)) := rfl

/-- A semaphore instruction whose doubleword passes its checks acts at its place. -/
theorem exec_semaphore {s : State} {i : Instr} {us : List Use} {writes : Bool} {kind : Nat} {k : State → Nat → List (BitVec 64) → State}
    {va : Nat} {p : Place} (he : exec i s = .next (s.semaphore i us writes kind k)) (hk : kind ≠ 5)
    (hok : s.mayActOnce i us ∧ s.orderBlocked i = false ∧ semAddress (nth (s.uniformOperands us) 0) = .ok va ∧ s.missing [va] = []
      ∧ s.places (semAcc writes) [some va] = .ok [p] ∧ s.watchTrap (semAcc writes) [some va] = none) :
    exec i s = .next ((s.dropHeld [va]).semGo (s.uniformOperands us) k (.ok (some p))) := by
  obtain ⟨hm, ho, hva, hmiss, hp, hw⟩ := hok
  have hkind : (kind == 5) = false := beq_false_of_ne hk
  refine he.trans (congrArg Host.Outcome.next ((s.semaphore_eq i us writes kind k).trans ((s.once_may _ _ _ hm).trans ?_)))
  rw [hva, State.semFrom, ho, if_neg Bool.false_ne_true, s.translated_ok _ _ _ (by rw [hkind]; exact hmiss), State.semJudged_ok hp hw]

/-- A wait that the group in focus takes, in its handler or not. -/
def State.putWait (s : State) (w : Wait) : State :=
  s.onGrp fun g => if g.wait.isSome then { g with wait := some w } else { g with held := some w }

theorem State.putWait_eq {s : State} (h : s.grp.wait.isSome = true) (w : Wait) : s.putWait w = s.onGrp fun g => { g with wait := some w } :=
  congrArg (fun g => ({ s with grp := g } : State)) (if_pos h)

/-- The wait of a SEMWAIT with the number of its read. -/
def semWaitAs (pa : Nat) (target : BitVec 64) (limit : Option (BitVec 64)) (late : Bool) (pc : BitVec 56) (lanes : List Nat) (ref : Nat) : Wait :=
  ⟨.sem pa target limit false ref late, pc, lanes⟩

/-- A SEMWAIT registers with its home. -/
def State.semRegister (s : State) (pa : Nat) (target : BitVec 64) : State :=
  { s with fresh := s.fresh + 1, semWaiters := ⟨pa, target, s.core.id, s.gid, s.fresh + 1, none⟩ :: s.semWaiters }

/-- The answer of a semaphore's home to the group that waits. -/
def State.semAnswer (s : State) (pa ref : Nat) : Instr :=
  .semwaitReadReply ⟨s.core.id, s.gid, ref, none, s.semValue pa, s.homeWts (pa / 128)⟩

/-- Once registered, a SEMWAIT's read uses the line of its place, but for a sparse hole. -/
def State.semUse (s : State) (pa : Nat) : State := if pa = holeAddr then s else s.useLines [pa / 128]

section
variable {s : State} {pa : Nat} {target : BitVec 64} {limit : Option (BitVec 64)} {late : Bool} {pc : BitVec 56} {lanes : List Nat}

theorem State.semRead_eq : s.semRead (semWaitAs pa target limit late pc lanes 0) =
    if s.semReach pa then
      let u := (s.semRegister pa target).semUse pa
      (u.putWait (semWaitAs pa target limit late pc lanes (s.fresh + 1))).send (u.semAnswer pa (s.fresh + 1))
    else (if pa = holeAddr then s else s.askWay (pa / 128)).putWait (semWaitAs pa target limit late pc lanes 0) := rfl

/-- A SEMWAIT's read that its home takes (R416, R596). -/
theorem State.semRead_taken (hw : s.grp.wait.isSome = true) (hreach : s.semReach pa = true) :
    s.semRead (semWaitAs pa target limit late pc lanes 0) =
      let u := ((s.semRegister pa target).semUse pa).onGrp fun g => { g with wait := some (semWaitAs pa target limit late pc lanes (s.fresh + 1)) }
      u.send (.semwaitReadReply ⟨s.core.id, s.gid, s.fresh + 1, none, u.semValue pa, u.homeWts (pa / 128)⟩) := by
  have huse : ∃ h sl ag, (s.semRegister pa target).semUse pa = { s.semRegister pa target with homes := h, slices := sl, agenda := ag } := by
    unfold State.semUse
    split
    · exact ⟨_, _, _, rfl⟩
    · exact State.useLines_eq _ _
  obtain ⟨h, sl, ag, huse⟩ := huse
  rw [State.semRead_eq, if_pos hreach]
  dsimp only
  rw [State.putWait_eq (by rw [huse]; exact hw), huse]
  rfl

theorem State.semRead_waits (hw : s.grp.wait.isSome = true) (hne : pa ≠ holeAddr) (hwait : s.lineWaits s.core.now (pa / 128) 0 = true) :
    s.semRead (semWaitAs pa target limit late pc lanes 0) =
      (s.askWay (pa / 128)).onGrp fun g => { g with wait := some (semWaitAs pa target limit late pc lanes 0) } := by
  have hreach : ¬ s.semReach pa = true := by
    unfold State.semReach
    rw [hwait, Bool.not_true, Bool.or_false]
    exact fun h => hne (eq_of_beq h)
  obtain ⟨h, sl, ag, hask⟩ := s.askWay_eq (pa / 128)
  rw [State.semRead_eq, if_neg hreach, if_neg hne, State.putWait_eq (by rw [hask]; exact hw)]

theorem State.semReach_of_free (h : s.lineWaits s.core.now (pa / 128) 0 = false) : s.semReach pa = true := by
  unfold State.semReach
  rw [h, Bool.not_false, Bool.or_true]

end

end Sys2Proof.Machine
end

section
/-! PROOFS. The statement about semaphores. -/

namespace Sys2Proof.Machine

/-- Settles O29: once the place is known, SEMSIG issues its atomic, and SEMWAIT's read is taken or waits. -/
theorem semaphores : Obligations.Semaphores := by
  unfold Obligations.Semaphores
  intro f s va pa leaf ok s1
  refine ⟨fun h hcnt => ?semsig, fun h hne hline => ?read, fun h hne hline => ?later, fun h hpa => ?hole⟩
  case semsig =>
    have hroom : ¬ (s.kind == .vector ∧ 63 ≤ s.grp.stores ∧ !s.active.isEmpty ∧ (illDetail s.ctx (.semsig f)).isNone) := fun hc =>
      Nat.not_le.mpr (hcnt (eq_of_beq hc.1)) hc.2.1
    have he : exec (.semsig f) s = _ := congrArg Host.Outcome.next (if_neg hroom)
    exact exec_semaphore he (by decide) h
  case read =>
    have he := exec_semaphore (i := .semwait f) rfl (by decide) h
    refine he.trans (congrArg (fun u => Host.Outcome.next (State.retire u s.pc true)) ?_)
    refine Eq.trans (State.semRead_taken ?_ (State.semReach_of_free ?_)) ?_
    · rfl
    · exact hline
    · unfold State.semUse
      rw [if_neg hne]
      rfl
  case later =>
    have he := exec_semaphore (i := .semwait f) rfl (by decide) h
    refine he.trans (congrArg (fun u => Host.Outcome.next (State.retire u s.pc true)) ?_)
    exact State.semRead_waits rfl hne hline
  case hole =>
    have he := exec_semaphore (i := .semwait f) rfl (by decide) h
    refine he.trans (congrArg (fun u => Host.Outcome.next (State.retire u s.pc true)) ?_)
    rw [hpa]
    refine Eq.trans (State.semRead_taken (pa := holeAddr) ?_ ?_) ?_
    all_goals rfl

end Sys2Proof.Machine
end

section
/-! SUPPORT. The registers of a core beside its clock and the homes: a read of `%mapgen` changes the one and leaves the other (R49, R567). -/

namespace Sys2Proof.Machine

/-- The state whose core in focus has the register store of another core. -/
def State.withRegs (s : State) (r : Core) : State :=
  { s with core := { s.core with store := r.store, storePoison := r.storePoison, mixed := r.mixed, c := r.c, b := r.b, cBad := r.cBad } }

theorem State.withRegs_ite (p : Prop) [Decidable p] (x y : State) (r : Core) :
    (if p then x.withRegs r else y.withRegs r) = (if p then x else y).withRegs r := by
  split <;> rfl

theorem State.requestRebase_withRegs (s : State) (r : Core) (d : Nat) : (s.withRegs r).requestRebase d = (s.requestRebase d).withRegs r := by
  unfold State.requestRebase
  dsimp only
  rw [← State.withRegs_ite, ← State.withRegs_ite]
  rfl

theorem State.setNow_withRegs (s : State) (r : Core) (n : Nat) : (s.withRegs r).setNow n = (s.setNow n).withRegs r := by
  unfold State.setNow State.noteTick
  rw [← State.withRegs_ite, ← State.requestRebase_withRegs]
  rfl

theorem State.raiseNow_withRegs (s : State) (r : Core) (n : Nat) : (s.withRegs r).raiseNow n = (s.raiseNow n).withRegs r := by
  unfold State.raiseNow
  rw [← State.withRegs_ite, ← State.setNow_withRegs]
  rfl

theorem State.raiseHorizon_withRegs (s : State) (r : Core) (n : Nat) : (s.withRegs r).raiseHorizon n = (s.raiseHorizon n).withRegs r := by
  unfold State.raiseHorizon
  rw [← State.withRegs_ite]
  rfl

theorem State.acquire_withRegs (s : State) (r : Core) (sc : Scope) : (s.withRegs r).acquire sc = (s.acquire sc).withRegs r := by
  unfold State.acquire
  rw [← State.withRegs_ite, ← State.raiseNow_withRegs]
  rfl

theorem State.fillHome_withRegs (s : State) (r : Core) (line : Nat) :
    ((s.withRegs r).fillHome line).2 = (s.fillHome line).2.withRegs r := by
  unfold State.fillHome
  have hhome : (s.withRegs r).homeOf line = s.homeOf line := rfl
  have hset : (s.withRegs r).setOf line = s.setOf line := rfl
  have hspare : (s.withRegs r).spareWay line = s.spareWay line := rfl
  rw [hhome]
  cases s.homeOf line with
  | some h => rfl
  | none =>
    dsimp only
    rw [hspare, hset]
    cases s.spareWay line with
    | true => rfl
    | false =>
      simp only [Bool.false_eq_true, if_false]
      cases ((s.setOf line).filter Home.evictable).getLast? with
      | some v => rfl
      | none =>
        dsimp only
        cases ((s.setOf line).filter fun h => h.holder.isSome && !h.recalling && h.prep.isNone).getLast? with
        | none => rfl
        | some v =>
          unfold State.recall
          dsimp only
          cases v.holder <;> rfl

/-- What a read of `%mapgen` does to the clocks, once its home has taken note of it. -/
def State.mapgenClock (s : State) (w : Nat) : State := (((s.setNow (s.nowTick + 1)).raiseHorizon w).raiseNow w).acquire .panel

theorem State.mapgenClock_withRegs (s : State) (r : Core) (w : Nat) : (s.withRegs r).mapgenClock w = (s.mapgenClock w).withRegs r := by
  unfold State.mapgenClock
  rw [State.setNow_withRegs, State.raiseHorizon_withRegs, State.raiseNow_withRegs, State.acquire_withRegs]
  rfl

theorem State.mapgenOrder_eq (s : State) : s.mapgenOrder =
    (s.useLines [mapgenLine (CoreId.die s.core.id)]).mapgenClock ((s.homeWts (mapgenLine (CoreId.die s.core.id))).read s.ep) := rfl

theorem State.mapgenOrder_withRegs (s : State) (r : Core) : (s.withRegs r).mapgenOrder = s.mapgenOrder.withRegs r := by
  have huse (line : Nat) : (s.withRegs r).useLines [line] = (s.useLines [line]).withRegs r := s.fillHome_withRegs r line
  rw [State.mapgenOrder_eq, State.mapgenOrder_eq, ← State.mapgenClock_withRegs, ← huse]
  rfl

/-- Two states whose core, team and group in focus differ in nothing but clocks, copies and messages: the same registers at the same
places. -/
structure State.sameRegs (s t : State) : Prop where
  core : t.core.store = s.core.store ∧ t.core.storePoison = s.core.storePoison ∧ t.core.c = s.core.c ∧ t.core.b = s.core.b
    ∧ t.core.cBad = s.core.cBad
  id : t.core.id = s.core.id
  team : t.team = s.team
  base : t.grp.base = s.grp.base
  win : t.grp.win = s.grp.win

theorem State.sameRegs.trans {s t u : State} (h : s.sameRegs t) (k : t.sameRegs u) : s.sameRegs u := by
  obtain ⟨⟨h1, h2, h3, h4, h5⟩, hid, hteam, hbase, hwin⟩ := h
  obtain ⟨⟨k1, k2, k3, k4, k5⟩, kid, kteam, kbase, kwin⟩ := k
  exact ⟨⟨k1.trans h1, k2.trans h2, k3.trans h3, k4.trans h4, k5.trans h5⟩, kid.trans hid, kteam.trans hteam, kbase.trans hbase, kwin.trans hwin⟩

theorem State.sameRegs.rfl' {s : State} : s.sameRegs s := ⟨⟨rfl, rfl, rfl, rfl, rfl⟩, rfl, rfl, rfl, rfl⟩

theorem State.sameRegs_requestRebase (s : State) (d : Nat) : s.sameRegs (s.requestRebase d) := by
  unfold State.requestRebase
  dsimp only
  split
  · exact .rfl'
  · split <;> exact ⟨⟨rfl, rfl, rfl, rfl, rfl⟩, rfl, rfl, rfl, rfl⟩

theorem State.sameRegs_setNow (s : State) (n : Nat) : s.sameRegs (s.setNow n) := by
  unfold State.setNow State.noteTick
  split
  · refine State.sameRegs.trans ?_ (State.sameRegs_requestRebase _ _)
    exact ⟨⟨rfl, rfl, rfl, rfl, rfl⟩, rfl, rfl, rfl, rfl⟩
  · exact ⟨⟨rfl, rfl, rfl, rfl, rfl⟩, rfl, rfl, rfl, rfl⟩

theorem State.sameRegs_raiseNow (s : State) (n : Nat) : s.sameRegs (s.raiseNow n) := by
  unfold State.raiseNow
  split
  · exact s.sameRegs_setNow _
  · exact .rfl'

theorem State.sameRegs_raiseHorizon (s : State) (n : Nat) : s.sameRegs (s.raiseHorizon n) := by
  unfold State.raiseHorizon
  split <;> exact ⟨⟨rfl, rfl, rfl, rfl, rfl⟩, rfl, rfl, rfl, rfl⟩

theorem State.sameRegs_useLines (s : State) (lines : List Nat) : s.sameRegs (s.useLines lines) := by
  obtain ⟨h, sl, ag, e⟩ := s.useLines_eq lines
  rw [e]
  exact ⟨⟨rfl, rfl, rfl, rfl, rfl⟩, rfl, rfl, rfl, rfl⟩

theorem State.sameRegs_mapgenOrder (s : State) : s.sameRegs s.mapgenOrder := by
  have hacq (u : State) : u.sameRegs (u.acquire .panel) := u.sameRegs_raiseNow _
  exact (s.sameRegs_useLines _).trans ((State.sameRegs_setNow _ _).trans ((State.sameRegs_raiseHorizon _ _).trans
    ((State.sameRegs_raiseNow _ _).trans (hacq _))))

theorem State.sameRegs.vAddr {s t : State} (h : s.sameRegs t) (n l : Nat) : t.local (t.vAddr n l) = s.local (s.vAddr n l) := by
  obtain ⟨-, -, hteam, hbase, -⟩ := h
  unfold State.local State.vAddr
  rw [hteam, hbase]

theorem State.sameRegs.sAddr {s t : State} (h : s.sameRegs t) (k : Nat) : t.local (t.sAddr k) = s.local (s.sAddr k) := by
  obtain ⟨-, -, hteam, hbase, hwin⟩ := h
  unfold State.local State.sAddr
  rw [hteam, hbase, hwin]

/-! ### A uniform register written while the rest of the state changes -/

/-- A state with the registers of another one into which a uniform register has been written. -/
theorem onlyUniform.of_writeS_vector {s v t : State} {k : Nat} {wide : Bool} {x : BitVec 64} (hv : s.kind = .vector)
    (wf : Memory.wf Memory.zeros s.core.store = true) (hsame : s.sameRegs v) (hk : (v.withRegs (s.writeS k wide x).core).keeps t) :
    t.readS k wide = (s.writeS k wide x).readS k wide ∧ onlyUniform v t k wide := by
  have hvv : v.kind = .vector := (congrArg CoreId.kind hsame.id).trans hv
  obtain ⟨⟨hstore, -, hc, hb, hbad⟩, -, -, -, -⟩ := id hsame
  obtain ⟨a, b, hw⟩ := State.writeS_withStore hv k wide x
  have helem (y : Nat) : t.core.elem y = (s.writeS k wide x).core.elem y := hk.elem y
  have hsaddr (j : Nat) : t.local (t.sAddr j) = s.local (s.sAddr j) :=
    (show t.local (t.sAddr j) = v.local (v.sAddr j) by rw [hk.local, hk.sAddr]; rfl).trans (hsame.sAddr j)
  have hwaddr (j : Nat) : (s.writeS k wide x).local ((s.writeS k wide x).sAddr j) = s.local (s.sAddr j) := by rw [hw]; rfl
  refine ⟨?_, ?_, hk.2.2, fun _ => ⟨?_, ?_, ?_, fun y hy => ?_⟩, fun h => absurd hvv h⟩
  · have hkind : t.kind = .vector := hk.kind.trans hvv
    rw [State.readS_vector hkind, State.readS_vector (State.kind_writeS hv k wide x)]
    simp only [helem, hsaddr, hwaddr]
  · rw [hk.restScalar]; rfl
  · rw [hk.c]; exact (congrArg (fun u : State => u.core.c) hw).trans hc.symm
  · rw [hk.b]; exact (congrArg (fun u : State => u.core.b) hw).trans hb.symm
  · rw [hk.cBad]; exact (congrArg (fun u : State => u.core.cBad) hw).trans hbad.symm
  · rw [hk.store, hstore]
    rw [hsame.sAddr] at hy
    exact State.read_writeS_other hv wf hy

theorem onlyUniform.of_writeS_scalar {s v t : State} {k : Nat} {wide : Bool} {x : BitVec 64} (hs : s.kind ≠ .vector)
    (hok : s.core.ok) (hk64 : k < 64) (hsame : s.sameRegs v) (hk : (v.withRegs (s.writeS k wide x).core).keeps t) :
    t.readS k wide = (x, false) ∧ onlyUniform v t k wide := by
  obtain ⟨-, hlc, hlb, -⟩ := hok
  have hvs : v.kind ≠ .vector := fun h => hs ((congrArg CoreId.kind hsame.id).symm.trans h)
  obtain ⟨⟨hstore, hpoison, hc, hb, hbad⟩, -, -, -, -⟩ := id hsame
  rw [State.writeS_scalar hs] at hk
  obtain ⟨r, b, m, hcore⟩ := s.core.setScalar_rest k x
  have hread (j : Nat) (hj : j < 64) (w : Bool) : t.readS j w = if j = k then (x, false) else s.core.readScalar j := by
    have hkind : t.kind ≠ .vector := by rw [hk.kind]; exact hvs
    rw [State.readS_scalar hkind, hk.readScalar]
    exact Core.readScalar_setScalar hlc hlb hk64 hj x
  have hvread (j : Nat) (w : Bool) : v.readS j w = s.core.readScalar j := by
    rw [State.readS_scalar hvs]
    unfold Core.readScalar
    rw [hc, hb, hbad]
  refine ⟨?_, ?_, ?_, fun h => absurd h hvs, fun _ => ⟨?_, ?_, fun j hj hne => ?_⟩⟩
  · rw [hread k hk64, if_pos rfl]
  · rw [hk.restScalar]; rfl
  · rw [hk.2.2]; rfl
  · rw [hk.store, hstore]; change (s.core.setScalar k x).store = _; rw [hcore]
  · rw [hk.storePoison, hpoison]; change (s.core.setScalar k x).storePoison = _; rw [hcore]
  · rw [hread j hj, if_neg hne, hvread]

/-- A narrow uniform write takes the low 32 bits alone. -/
theorem State.writeS_low {s : State} (hv : s.kind = .vector) (k : Nat) (x : BitVec 64) : s.writeS k false x = s.writeS k false (low 32 x) := by
  have hlow : (low 32 x).extractLsb' 0 32 = x.extractLsb' 0 32 := by
    rw [low_eq]
    ext i hi
    simp [hi]
    omega
  rw [State.writeS_vector hv, State.writeS_vector hv]
  unfold State.uniformWrites
  rw [hlow]
  rfl

end Sys2Proof.Machine
end

section
/-! PROOFS. The statements about special registers, system calls and hints. -/

namespace Sys2Proof.Machine

/-- What a MOVSP does besides its write: a read of `%mapgen` orders like an acquire load (R49). -/
def State.movspOrder (s : State) (n : Nat) : State := if n = 0x1A then s.mapgenOrder else s

theorem State.movspOrder_withRegs (s : State) (r : Core) (n : Nat) : (s.withRegs r).movspOrder n = (s.movspOrder n).withRegs r := by
  unfold State.movspOrder
  rw [State.mapgenOrder_withRegs, State.withRegs_ite]

theorem State.sameRegs_movspOrder (s : State) (n : Nat) : s.sameRegs (s.movspOrder n) := by
  unfold State.movspOrder
  split
  · exact s.sameRegs_mapgenOrder
  · exact .rfl'

/-- The write of a MOVSP. -/
def State.movspWrite (s : State) (o : Opnd) (t : Ty) (val : Nat → BitVec 64) : State :=
  match o with
  | .v r => s.writeVals r.toNat t (s.active.map fun l => (l, val l))
  | o => s.writeS o.reg t.wide (val 0)

theorem State.movspWrite_uniform {s : State} {o : Opnd} (h : o.isV = false) (t : Ty) (val : Nat → BitVec 64) :
    s.movspWrite o t val = s.writeS o.reg t.wide (val 0) := by
  cases o with
  | v r => cases h
  | s _ | const _ | int _ | resv _ => rfl

theorem State.movspWrite_lanes {s : State} {o : Opnd} (h : o.isV = true) (t : Ty) (val : Nat → BitVec 64) :
    s.movspWrite o t val = s.writeLanes (takeWrites s.active fun l => markedWords o.reg t (val l, false)) := by
  cases o with
  | s _ | const _ | int _ | resv _ => cases h
  | v r =>
    refine congrArg (fun ws => s.writeLanes (List.flatten ws)) (List.map_map.trans (List.map_congr_left fun l _ => ?_))
    rw [laneWrites_markedWords, putVal_eq, Function.comp_apply, List.map_map, putVal_eq, List.map_map]
    rfl

/-- A uniform write goes into the registers of the core alone. -/
theorem State.writeS_withRegs (s : State) (k : Nat) (wide : Bool) (x : BitVec 64) : s.writeS k wide x = s.withRegs (s.writeS k wide x).core := by
  by_cases hv : s.kind = .vector
  · obtain ⟨a, b, h⟩ := State.writeS_withStore hv k wide x
    rw [h]
    rfl
  · obtain ⟨r, b, m, h⟩ := s.core.setScalar_rest k x
    have hcore : s.onCore (·.setScalar k x) = s.onCore fun y => { y with c := r, b := b, cBad := m } :=
      congrArg (fun y => ({ s with core := y } : State)) h
    rw [State.writeS_scalar hv, hcore]
    rfl

/-- The uniform destination of a MOVSP on a scalar core is a register. -/
theorem State.clear.movsp_reg {s : State} {f : SF} (hcl : s.clear (.movsp f)) (hs : s.kind ≠ .vector) : f.dst.reg < 64 := by
  obtain ⟨hspec, -⟩ := hcl.use (u := { o := f.dst, kinds := kVS, span := if specialWide f.code.toNat then (if s.kind == .vector then 2 else 1) else 1 })
    (fun _ _ h => nomatch h) (.head _)
  exact Use.reg_lt hs hspec

/-- A lane that takes its new nesting counter from SETSP. -/
def nestTo (vs : List (Nat × List Src)) (k : Nat) (x : Lane) : Lane :=
  match vs.find? (·.1 == k) with
  | some y => if (only y.2).2 then x else { x with nest := BitVec.ofNat 6 (only y.2).1.toNat }
  | none => x

/-- A SETSP to `%nest` for the lanes' values. -/
def State.setNest (s : State) (vs : List (Nat × List Src)) : State :=
  let bad := vs.filterMap fun x => if (only x.2).2 then some (x.1, x.2, poisonTrap 1) else none
  let moved := s.issueSet.filter fun l => !(bad.any (·.1 == l))
  (bad.foldl (fun s x => s.trapLane x.1 x.2.2 x.2.1 []) (s.onGrp fun g => (g.step moved).mapLanes (nestTo vs))).retire s.pc false

theorem exec_setsp (f : SF) (s : State) : exec (.setsp f) s = .next (s.frame (.setsp f) fun s =>
    if s.active.isEmpty then s.next
    else if f.code = 7 then s.setNest (s.active.map fun l => (l, s.sources [{ o := f.a, ty := .n32 }] l))
    else if (s.fetchUse { o := f.a, ty := .n32 } 0).2 then s.trapActive (poisonTrap 1) []
    else (s.onGrp fun g => g.setSpecial f.code.toNat ((s.fetchUse { o := f.a, ty := .n32 } 0).1.setWidth 32)).next) := rfl

theorem nestTo_clean {ls : List Nat} {vals : Nat → List Src} (h : ∀ l ∈ ls, (only (vals l)).2 = false) (k : Nat) (x : Lane) :
    nestTo (ls.map fun l => (l, vals l)) k x = if ls.contains k then { x with nest := BitVec.ofNat 6 (only (vals k)).1.toNat } else x := by
  unfold nestTo
  rw [List.find?_map]
  by_cases hk : ls.contains k = true
  · have hfind : ls.find? ((fun y : Nat × List Src => y.1 == k) ∘ fun l => (l, vals l)) = some k := by
      obtain hnone | ⟨j, hj⟩ := Option.eq_none_or_eq_some (ls.find? ((fun y : Nat × List Src => y.1 == k) ∘ fun l => (l, vals l)))
      · exact absurd (List.find?_eq_none.mp hnone k (List.contains_iff_mem.mp hk)) (by simp)
      · have hjk : (j == k) = true := List.find?_some (p := (fun y : Nat × List Src => y.1 == k) ∘ fun l => (l, vals l)) hj
        rw [hj, beq_iff_eq.mp hjk]
    rw [hfind, if_pos hk]
    exact if_neg (by rw [show (only (k, vals k).2).2 = false from h k (List.contains_iff_mem.mp hk)]; exact Bool.false_ne_true)
  · have hfind : ls.find? ((fun y : Nat × List Src => y.1 == k) ∘ fun l => (l, vals l)) = none := by
      refine List.find?_eq_none.mpr fun l hl hlk => hk (List.contains_iff_mem.mpr ?_)
      rwa [← beq_iff_eq.mp hlk]
    rw [hfind, if_neg hk]
    rfl

/-- With no poisoned value every active lane takes its counter and the issue set moves on. -/
theorem State.setNest_clean {s : State} {vals : Nat → List Src} (h : ∀ l ∈ s.active, (only (vals l)).2 = false) :
    s.setNest (s.active.map fun l => (l, vals l)) = (s.onGrp (·.mapLanes fun k x =>
      if s.active.contains k then { x.after with nest := BitVec.ofNat 6 (only (vals k)).1.toNat }
      else if s.issueSet.contains k then x.after else x)).retire s.pc false := by
  have hbad : (s.active.map fun l => (l, vals l)).filterMap
      (fun x => if (only x.2).2 then some (x.1, x.2, poisonTrap 1) else none) = [] := by
    rw [List.filterMap_map, List.filterMap_eq_nil_iff]
    intro l hl
    exact if_neg (by rw [show (only (l, vals l).2).2 = false from h l hl]; exact Bool.false_ne_true)
  unfold State.setNest
  dsimp only
  rw [hbad, List.foldl_nil]
  refine congrArg (fun g => State.retire { s with grp := g } s.pc false) ?_
  dsimp only
  rw [show (s.issueSet.filter fun l => !(([] : List (Nat × List Src × Trap)).any (·.1 == l))) = s.issueSet from
    List.filter_eq_self.mpr fun _ _ => rfl, Group.step_eq, Group.mapLanes_mapLanes]
  refine congrArg s.grp.mapLanes (funext fun k => funext fun x => ?_)
  rw [nestTo_clean h]
  cases hk : s.active.contains k with
  | false => simp
  | true => simp only [if_true, State.issueSet_of_active hk]

/-- Settles O30: the write goes into the registers alone, which a read of `%mapgen` leaves as they are. -/
theorem specialRegisters : Obligations.SpecialRegisters := by
  unfold Obligations.SpecialRegisters
  intro f s hok ha n t base home
  have hframe (hcl : s.clear (.movsp f)) : exec (.movsp f) s = .next (
      if n = 0x1A ∧ s.orderHeld then s.waitBefore (.order false)
      else if n = 0x1A ∧ home then
        (s.askWay (mapgenLine (CoreId.die s.core.id))).waitBefore (.line (mapgenLine (CoreId.die s.core.id)))
      else if n = 0x1A ∧ tickMax ≤ s.nowTick then s.waitRebase
      else ((s.movspWrite f.dst t fun l => BitVec.ofNat 64 (s.special n l)).movspOrder n).next) :=
    congrArg Host.Outcome.next ((s.frame_clear _ _ hcl).trans
      (if_neg (by rw [s.active_isEmpty ha]; exact Bool.false_ne_true)))
  have hwrite (hcl : s.clear (.movsp f)) (hgo : n = 0x1A → s.orderHeld = false ∧ home = false ∧ s.nowTick < 0xFFFFFF) :
      exec (.movsp f) s = .next ((s.movspWrite f.dst t fun l => BitVec.ofNat 64 (s.special n l)).movspOrder n).next := by
    have h1 : ¬ (n = 0x1A ∧ s.orderHeld = true) := fun ⟨hn, hh⟩ => Bool.false_ne_true ((hgo hn).1.symm.trans hh)
    have h2 : ¬ (n = 0x1A ∧ home = true) := fun ⟨hn, hh⟩ => Bool.false_ne_true ((hgo hn).2.1.symm.trans hh)
    have h3 : ¬ (n = 0x1A ∧ tickMax ≤ s.nowTick) := fun ⟨hn, hh⟩ => Nat.not_le.mpr (hgo hn).2.2 hh
    rw [hframe hcl, if_neg h1, if_neg h2, if_neg h3]
  have hsame := s.sameRegs_movspOrder n
  refine ⟨fun hcl hn => ⟨fun hh => ?held, fun hh hhome hnow => ?rebase⟩, fun hcl hgo => ⟨fun hv => ?lanes, fun hv => ?uniform⟩, fun hcl => ?setsp⟩
  case held => rw [hframe hcl, if_pos ⟨hn, hh⟩]
  case rebase =>
    rw [hframe hcl, hh, hhome, if_neg (fun h => Bool.false_ne_true h.2), if_neg (fun h => Bool.false_ne_true h.2), if_pos ⟨hn, hnow⟩]
  case lanes =>
    have he := hwrite hcl hgo
    rw [State.movspWrite_lanes hv] at he
    obtain ⟨a, b, m, hw⟩ := s.writeLanes_store (takeWrites s.active fun l => markedWords f.dst.reg t (BitVec.ofNat 64 (s.special n l), false))
    have horder : (s.withStore a b m).movspOrder n = (s.movspOrder n).withStore a b m := by
      refine (s.movspOrder_withRegs { s.core with store := a, storePoison := b, mixed := m } n).trans ?_
      obtain ⟨⟨-, -, hc, hb, hbad⟩, -⟩ := id hsame
      unfold State.withRegs State.withStore
      dsimp only
      rw [← hc, ← hb, ← hbad]
    rw [hw, horder] at he
    exact lanesTake.of_writeLanes (fun l hl => s.active_lt hok hl) hok.2.1.1 (fun _ _ => rfl) hsame.vAddr hsame.core.1 hw he
      (State.keeps_next _ _)
  case uniform =>
    have he := hwrite hcl hgo
    rw [State.movspWrite_uniform hv, State.writeS_withRegs, State.movspOrder_withRegs] at he
    refine ⟨_, he, ?_⟩
    by_cases hvec : s.kind = .vector
    · obtain ⟨hread, honly⟩ := onlyUniform.of_writeS_vector (x := BitVec.ofNat 64 (s.special n 0)) (wide := t.wide) (k := f.dst.reg) hvec
        hok.2.1.1 hsame (State.keeps_next _ false)
      refine ⟨hread.trans ?_, honly⟩
      cases hwide : t.wide with
      | true => rw [State.readS_writeS hvec hok.2.1.1 _ true _ Bool.noConfusion, if_neg fun h => Bool.noConfusion h.2]
      | false =>
        rw [State.writeS_low hvec, State.readS_writeS hvec hok.2.1.1 _ _ _ fun _ => low_toNat_lt (Nat.le_refl 32) _, if_pos ⟨hvec, rfl⟩]
    · obtain ⟨hread, honly⟩ := onlyUniform.of_writeS_scalar (x := BitVec.ofNat 64 (s.special n 0)) (wide := t.wide) (k := f.dst.reg) hvec
        hok.2.1 (hcl.movsp_reg hvec) hsame (State.keeps_next _ false)
      exact ⟨by rw [hread, if_neg fun h => hvec h.1], honly⟩
  case setsp =>
    intro u
    have he := (exec_setsp f s).trans (congrArg Host.Outcome.next ((s.frame_clear _ _ hcl).trans
      (if_neg (by rw [s.active_isEmpty ha]; exact Bool.false_ne_true))))
    refine ⟨fun h7 hclean => ?_, fun h7 hclean => ?_⟩
    · rw [if_pos h7, State.setNest_clean fun l hl => ?_] at he
      · exact he
      · exact only_clean (hclean l hl)
    · rw [if_neg h7, if_neg (by rw [show (s.fetchUse { o := f.a, ty := .n32 } 0).2 = false from hclean]; exact Bool.false_ne_true)] at he
      refine ⟨fun h => ?_, fun h => ?_, fun h => ?_, fun h => ?_⟩
      all_goals rw [h] at he; exact he

/-- Settles O31: each acts once, as its rule says. -/
theorem systemCallsAndHints : Obligations.SystemCallsAndHints := by
  unfold Obligations.SystemCallsAndHints
  intro f s ha
  refine ⟨fun hcl hh => ?syscall, fun hcl => ?idem, fun h => exec_once (i := .progress f) rfl h⟩
  case syscall =>
    refine congrArg Host.Outcome.next ((s.frame_clear _ _ hcl).trans ?_)
    rw [hh, if_pos rfl, s.active_isEmpty ha, if_neg Bool.false_ne_true]
    rfl
  case idem =>
    refine congrArg Host.Outcome.next ((s.frame_clear _ _ hcl).trans ?_)
    rw [s.active_isEmpty ha, if_neg Bool.false_ne_true]
    refine congrArg (fun g => State.next { s with grp := g }) ?_
    dsimp only
    by_cases hsub : f.sub = 0
    · rw [if_pos hsub, if_pos hsub]
      by_cases hfx : s.grp.fx = true
      · have hinn : (s.grp.inn || !s.grp.fx) = s.grp.inn := by rw [hfx, Bool.not_true, Bool.or_false]
        rw [if_pos hfx, hinn]
      · have hinn : (s.grp.inn || !s.grp.fx) = true := by rw [Bool.eq_false_iff.mpr hfx, Bool.not_false, Bool.or_true]
        rw [if_neg hfx, hinn]
    · rw [if_neg hsub, if_neg hsub]

end Sys2Proof.Machine
end

section
/-! SUPPORT. A barrier object in the core store (R351), and the end of a step at one for which nobody waits (R353). -/

namespace Sys2Proof.Machine

/-! ### The layout -/

theorem extract_append_below {m n : Nat} (a : BitVec m) (b : BitVec n) {lo len : Nat} (h : lo + len ≤ n) :
    (a ++ b).extractLsb' lo len = b.extractLsb' lo len := by
  apply BitVec.eq_of_getLsbD_eq
  intro i hi
  rw [BitVec.getLsbD_extractLsb', BitVec.getLsbD_extractLsb', BitVec.getLsbD_append, if_pos (by omega)]

theorem extract_append_above {m n : Nat} (a : BitVec m) (b : BitVec n) {lo len : Nat} (h : n ≤ lo) :
    (a ++ b).extractLsb' lo len = a.extractLsb' (lo - n) len := by
  apply BitVec.eq_of_getLsbD_eq
  intro i hi
  rw [BitVec.getLsbD_extractLsb', BitVec.getLsbD_extractLsb', BitVec.getLsbD_append, if_neg (by omega), Nat.sub_add_comm h]

/-- Two neighbouring extracts are one. -/
theorem extract_append_extract {w : Nat} (x : BitVec w) {hi lo m n : Nat} (h : hi = lo + n) :
    x.extractLsb' hi m ++ x.extractLsb' lo n = x.extractLsb' lo (m + n) := by
  apply BitVec.eq_of_getLsbD_eq
  intro i hi
  rw [BitVec.getLsbD_append, BitVec.getLsbD_extractLsb', BitVec.getLsbD_extractLsb', BitVec.getLsbD_extractLsb']
  split
  · next hn => simp [hn, hi]
  · next hn => rw [h, show lo + n + (i - n) = lo + i by omega]; simp [hi, show i - n < m by omega]

/-- One bit as an extract of width 1. -/
theorem bit1_getLsbD {w : Nat} (x : BitVec w) (i : Nat) : bit1 (x.getLsbD i) = x.extractLsb' i 1 := by
  apply BitVec.eq_of_getLsbD_eq
  intro k hk
  obtain rfl : k = 0 := by omega
  simp [bit1]

theorem getLsbD_of_extract {w : Nat} (x : BitVec w) (i : Nat) : x.getLsbD i = (x.extractLsb' i 1).getLsbD 0 := by
  simp

theorem bit1_getLsbD_zero (b : Bool) : (bit1 b).getLsbD 0 = b := by
  simp [bit1]

/-- An object read from its own 16 bytes (R351). -/
theorem BarObj.unpack_pack (o : BarObj) : BarObj.unpack o.pack = o := by
  unfold BarObj.unpack BarObj.pack
  simp (disch := omega) only [getLsbD_of_extract _ 127, getLsbD_of_extract _ 126, getLsbD_of_extract _ 125, getLsbD_of_extract _ 124,
    getLsbD_of_extract _ 31, extract_append_above, extract_append_below, Nat.reduceSub,
    BitVec.extractLsb'_eq_self, bit1_getLsbD_zero]

/-- Sixteen bytes whose unused byte is zero are those of the object read from them (R351). -/
theorem BarObj.pack_unpack {x : BitVec 128} (h : x.extractLsb' 64 8 = 0) : (BarObj.unpack x).pack = x := by
  unfold BarObj.unpack BarObj.pack
  dsimp only
  rw [← h]
  simp (disch := rfl) only [bit1_getLsbD, extract_append_extract]
  exact BitVec.extractLsb'_eq_self

/-! ### Objects for which nobody waits -/

theorem State.bar_putBar {s : State} (h : Memory.wf Memory.zeros s.core.store = true) (a : Nat) (o : BarObj) :
    (s.putBar a o).bar a = o := by
  unfold State.bar State.putBar
  show BarObj.unpack (BitVec.ofNat 128 (Memory.readNat Memory.zeros
    (Memory.writeNat Memory.zeros s.core.store (s.local a) 16 o.pack.toNat) (s.local a) 16)) = o
  rw [Memory.readNat_writeNat _ 16 _ h, Nat.mod_eq_of_lt (show o.pack.toNat < 256 ^ 16 from o.pack.isLt), BitVec.ofNat_toNat,
    BitVec.setWidth_eq, BarObj.unpack_pack]

theorem State.eachOf_none {s : State} {p : Group → Bool} (f : State → State) (h : ∀ g ∈ s.teamGroups, p g = false) :
    s.eachOf p f = s := by
  unfold State.eachOf
  rw [List.filter_eq_nil_iff.mpr fun g hg => by simp [h g hg]]
  rfl

theorem State.noWaiters.away {s : State} {a : Nat} (h : s.noWaiters a) (p : BarWaiter → Bool) :
    s.team.barWaiters.filter (fun w => w.addr == a && p w) = [] :=
  List.filter_eq_nil_iff.mpr fun w hw => by simp [h.2.1 w hw]

theorem State.routeTrap_putBar (s : State) (a : Nat) (o : BarObj) (n : Nat) : (s.putBar a o).routeTrap n = s.routeTrap n := rfl

theorem State.routeDst_putBar (s : State) (a : Nat) (o : BarObj) (n : Nat) : (s.putBar a o).routeDst n = s.routeDst n := rfl

theorem State.team_putBar (s : State) (a : Nat) (o : BarObj) : (s.putBar a o).team = s.team := rfl

theorem State.coreId_putBar (s : State) (a : Nat) (o : BarObj) : (s.putBar a o).core.id = s.core.id := rfl

theorem State.noWaiters.putBar {s : State} {a : Nat} (h : s.noWaiters a) (o : BarObj) : (s.putBar a o).noWaiters a := by
  obtain ⟨hg, hw, hp⟩ := h
  exact ⟨hg, hw, hp⟩

theorem State.breakBar_alone {s : State} {a : Nat} (h : s.noWaiters a) : s.breakBar a = s := by
  obtain ⟨hg, hw, -⟩ := h
  unfold State.breakBar
  rw [List.filter_eq_nil_iff.mpr fun w hw' => by simp [hw w hw'], List.filter_eq_self.mpr fun w hw' => by simp [hw w hw']]
  exact s.eachOf_none _ fun g hg' => by rw [hg g hg']; rfl

theorem State.wakeBar_alone {s : State} {a : Nat} (h : s.noWaiters a) : s.wakeBar a = s := by
  have haway := h.away fun w => w.parity != (s.bar a).phase
  obtain ⟨hg, hw, -⟩ := h
  unfold State.wakeBar
  dsimp only
  rw [haway, List.filter_eq_self.mpr fun w hw' => by simp [hw w hw']]
  exact s.eachOf_none _ fun g hg' => by rw [hg g hg']; rfl

theorem State.leaveUp_single {s : State} {a : Nat} {was now : BarObj} (h : (now.count && now.upen) = false) :
    s.leaveUp a was now = s := by
  unfold State.leaveUp
  simp [h]

theorem State.leaveUp_expecting {s : State} {a : Nat} {was now : BarObj} (h : now.expect ≠ 0) :
    s.leaveUp a was now = s := by
  have h0 : (now.expect == 0) = false := beq_false_of_ne h
  unfold State.leaveUp
  simp only [h0, Bool.and_false, Bool.false_and, Bool.false_eq_true, if_false]

/-- What a completion makes of an object (R353). -/
def BarObj.complete (o : BarObj) : BarObj :=
  { o with live := o.live - o.defl, defl := 0, arrived := 0, amask := 0, fwd := false, phase := !o.phase
           broken := decide (o.live - o.defl < o.expect) }

/-- The phase of an object is over: it is stored, and its team forgets the phase's arrivals (R353, R356). -/
def State.phaseOver (s : State) (a : Nat) (o : BarObj) : State :=
  { s.putBar a o with team := { s.team with
      pendingUp := s.team.pendingUp.filter (·.addr != a)
      arrivals := s.team.arrivals.filter (·.addr != a) } }

theorem State.noWaiters.phaseOver {s : State} {a : Nat} (h : s.noWaiters a) (o : BarObj) : (s.phaseOver a o).noWaiters a := by
  obtain ⟨hg, hw, hp⟩ := h
  exact ⟨hg, hw, fun m hm => hp m ((List.mem_filter.mp hm).1)⟩

/-- A completion that owes no reply. -/
theorem State.completeBar_noReplies {s : State} {a : Nat} (h : s.noWaiters a) : s.completeBar a =
    (if (s.bar a).complete.broken then (s.phaseOver a (s.bar a).complete).breakBar a
      else (s.phaseOver a (s.bar a).complete).wakeBar a).leaveUp a (s.bar a) (s.bar a).complete := by
  have hreplies : s.team.pendingUp.filter (·.addr == a) = [] := List.filter_eq_nil_iff.mpr fun m hm => by simp [h.2.2 m hm]
  unfold State.completeBar
  simp only [hreplies, List.foldl_nil]
  rfl

/-- The completion of an object without a second level for which nobody waits (R353). -/
theorem State.bar_completeBar {s : State} {a : Nat} (hwf : Memory.wf Memory.zeros s.core.store = true) (h : s.noWaiters a)
    (hup : ((s.bar a).count && (s.bar a).upen) = false) : (s.completeBar a).bar a = (s.bar a).complete := by
  have hstored : (s.phaseOver a (s.bar a).complete).bar a = (s.bar a).complete := State.bar_putBar hwf a (s.bar a).complete
  rw [State.completeBar_noReplies h, State.leaveUp_single (now := (s.bar a).complete) hup,
    State.breakBar_alone (h.phaseOver (s.bar a).complete), State.wakeBar_alone (h.phaseOver (s.bar a).complete), ite_self, hstored]

/-- A completed first-level object takes FWD, and its completion leaves on its route (R356). -/
theorem State.stepBar_forwards {s : State} {a : Nat} {f : BarObj → BarObj} {o : BarObj} (ho : f (s.bar a) = o)
    (hbar : (s.putBar a o).bar a = o) (hup : (o.count && o.upen) = true) (hbroken : o.broken = false) (hfwd : o.fwd = false)
    (hfull : o.arrived = o.expect ∧ o.tx = 0) (hexp : o.expect ≠ 0) (hroute : s.routeTrap o.uproute.toNat = none) :
    s.stepBar a f = ((s.putBar a o).putBar a { o with fwd := true }).sendRoute o.uproute.toNat
      (.arrive { src := s.core.id, group := ⟨s.team.id, 0⟩, srcObj := a, dst := s.routeDst o.uproute.toNat, addr := o.upaddr.toNat
                 kind := .forward, lanes := 0, route := o.uproute.toNat }) := by
  unfold State.stepBar
  rw [ho, State.leaveUp_expecting hexp]
  unfold State.checkBar
  dsimp only
  rw [hbar, if_neg (by simp [hbroken]), if_pos hfull, if_pos hup, if_neg (by simp [hfwd]), State.routeTrap_putBar,
    State.routeTrap_putBar, hroute, State.routeDst_putBar, State.routeDst_putBar]
  simp only [Option.isSome_none, Bool.false_eq_true, if_false, State.team_putBar, State.coreId_putBar]

end Sys2Proof.Machine
end

section
/-! PROOFS. The Shelf, barrier objects and barrier instructions. -/

namespace Sys2Proof.Machine

/-- Settles O32: the Shelf's instructions act once, by the tile's STATE. -/
theorem shelfInstructions : Obligations.ShelfInstructions := by
  unfold Obligations.ShelfInstructions
  intro f s n
  refine ⟨fun hm => ?_, fun e hm hdef => ?_, fun hm => ?_⟩
  · intro e htrap
    have hexec : exec (.tiledef f) s = _ := exec_once rfl hm
    rw [hexec]
    dsimp only
    rw [show s.tiledefTrap f.tile.toNat (nth (s.uniformOperands [uS2 f.a]) 0) = none from htrap]
  · have hexec : exec (.tilerel f) s = _ := exec_once rfl hm
    rw [hexec]
    dsimp only
    rw [show s.team.defTile f.tile.toNat = some e from hdef]
    dsimp only
    refine ⟨fun h0 => by rw [h0]; rfl, fun h2 hfree => ?_, ?_⟩
    · rw [h2]
      exact congrArg Host.Outcome.next (if_neg (by simp [show s.tileHeld f.tile.toNat = false from hfree]))
    · rintro (h | h | ⟨hheld, h⟩)
      · rw [h]; rfl
      · rw [h]; rfl
      · rw [h]
        exact congrArg Host.Outcome.next (if_pos hheld)
  · exact exec_once rfl hm

/-- Settles O33: a step stores the object, and what the check then does is stored in it again. -/
theorem barrierObjects : Obligations.BarrierObjects := by
  unfold Obligations.BarrierObjects
  refine ⟨fun s a f hok hnone => ?_, fun s a f hok => ?_, BarObj.unpack_pack, fun x h => BarObj.pack_unpack h⟩
  · intro o hup
    have hwf : Memory.wf Memory.zeros s.core.store = true := hok.2.1.1
    have hwf' : Memory.wf Memory.zeros (s.putBar a o).core.store = true := Memory.wf_writeNat _ _ _ hwf
    have hbar : (s.putBar a o).bar a = o := State.bar_putBar hwf a o
    unfold State.stepBar
    rw [State.leaveUp_single hup]
    unfold State.checkBar
    dsimp only
    rw [show (s.putBar a (f (s.bar a))).bar a = o from hbar]
    simp only [hup, Bool.false_eq_true, if_false]
    by_cases hbroken : o.broken = true
    · rw [if_pos hbroken, if_pos hbroken]
      exact hbar
    rw [if_neg hbroken, if_neg hbroken]
    by_cases hfull : o.arrived = o.expect ∧ o.tx = 0
    · rw [if_pos hfull, if_pos hfull, State.bar_completeBar hwf' (hnone.putBar o) (by rw [hbar]; exact hup), hbar]
      rfl
    rw [if_neg hfull, if_neg hfull]
    by_cases hlive : o.live < o.expect
    · rw [if_pos hlive, if_pos hlive, State.breakBar_alone ((hnone.putBar o).putBar _)]
      exact State.bar_putBar hwf' a _
    · rw [if_neg hlive, if_neg hlive]
      exact hbar
  · intro o n hup hbroken hfwd harr htx hexp hroute
    exact State.stepBar_forwards rfl (State.bar_putBar hok.2.1.1 a o) hup hbroken hfwd ⟨harr, htx⟩ hexp hroute

/-- A barrier instruction that no check stops runs its body on its operands (R491). -/
theorem exec_barOp {i : Instr} {f : XF} {s : State} {body : State → List (BitVec 64) → State} (he : exec i s = .next (s.barOp i f body))
    (h : s.mayUseBarrier i f) : exec i s = .next (body s (s.uniformOperands (s.barUses i))) :=
  he.trans (congrArg _ (s.barOp_may i f body h))

/-- Settles O34: past the shared checks each instruction is the step of its rule on the object that BAR names. -/
theorem barrierInstructions : Obligations.BarrierInstructions := by
  unfold Obligations.BarrierInstructions
  intro f s a v
  refine ⟨fun hm hlocal hbad => ?_, ?_, fun hm hremote hroute hdone => ?_, fun hm hlocal => ?_, fun o hm hlocal hnamed hsound => ?_,
    fun o hm hlocal hnamed hsound => ?_, fun hm hremote hroute => ?_⟩
  · refine (exec_barOp rfl hm).trans (congrArg Host.Outcome.next ?_)
    exact if_neg (by rw [show s.barinitBad _ _ _ _ = false from hbad]; decide)
  · intro o s1 g hm hlocal hnamed hok hdone hat
    have hgrp : (if (s.kind == .control) = true then none else some s.grp.num) = g := by simp [g, beq_iff_eq]
    refine (exec_barOp rfl hm).trans (congrArg Host.Outcome.next ?_)
    rw [if_neg (by simp [hlocal])]
    unfold State.bararvHere
    dsimp only
    rw [hnamed]
    dsimp only
    rw [hgrp, hok]
    dsimp only
    rw [State.released_done _ _ _ _ (fun _ => hdone), hat]
    dsimp only
    simp only [beq_iff_eq]
    rfl
  · refine (exec_barOp rfl hm).trans (congrArg Host.Outcome.next ?_)
    dsimp only
    rw [if_pos hremote]
    unfold State.bararvRemote
    dsimp only
    rw [show s.routeTrap f.route.toNat = none from hroute]
    dsimp only
    rw [State.released_done _ _ _ _ (fun _ => hdone)]
    rfl
  · exact exec_barOp rfl hm
  · refine (exec_barOp rfl hm).trans (congrArg Host.Outcome.next ?_)
    dsimp only
    rw [hnamed]
    dsimp only
    rw [if_neg (by simp [hsound])]
  · have hbody : exec (.barwait f) s = _ := exec_barOp rfl hm
    rw [hbody]
    dsimp only
    rw [if_neg (by simp [hlocal]), hnamed]
    dsimp only
    rw [if_neg (by simp [hsound])]
    refine ⟨fun hp => ?_, fun hp hkind => ?_, fun hp hkind s1 hat => ?_⟩
    · rw [if_pos (by simpa using hp)]
    · rw [if_neg (by simpa using hp), if_neg (by simpa using hkind)]
    · rw [if_neg (by simpa using hp), if_pos (by simpa using hkind), hat]
  · refine (exec_barOp rfl hm).trans (congrArg Host.Outcome.next ?_)
    dsimp only
    rw [if_pos hremote, show s.routeTrap f.route.toNat = none from hroute]

end Sys2Proof.Machine
end

section
/-! SUPPORT. Per-lane instructions of the graphics units whose lanes all pass their checks (R367, R582). -/

namespace Sys2Proof.Machine

/-- The trap that the record and the hit-record area of a unit instruction give every lane, if one does (R582). -/
def State.unitBad (s : State) (f : GF) (area : Option Use) : Option Trap :=
  let r := s.record f.brec.toNat
  let a := (area.map fun u => s.fetchUse u 0).getD (0, false)
  let base := uval 32 a.1
  if a.2 then some (poisonTrap 1)
  else if r.2 then some (poisonTrap 6)
  else if !descOk r.1 then some { kind := 5 }
  else if area.isSome && (base % 32 != 0 || decide (s.team.lrec.areaRow * 128 < base + 1024)) then some (trapLocal 7 5 base)
  else none

theorem State.unitBad_noArea {s : State} {f : GF} (hrec : (s.record f.brec.toNat).2 = false)
    (hdesc : descOk (s.record f.brec.toNat).1 = true) : s.unitBad f none = none := by
  unfold State.unitBad
  simp [hrec, hdesc]

theorem State.unitBad_area {s : State} {f : GF} {u : Use} (hrec : (s.record f.brec.toNat).2 = false)
    (hdesc : descOk (s.record f.brec.toNat).1 = true) (hclean : (s.fetchUse u 0).2 = false) (halign : uval 32 (s.fetchUse u 0).1 % 32 = 0)
    (hfits : uval 32 (s.fetchUse u 0).1 + 1024 ≤ s.team.lrec.areaRow * 128) : s.unitBad f (some u) = none := by
  unfold State.unitBad
  simp [hrec, hdesc, hclean, halign, hfits]

/-- A unit instruction whose lanes all pass issues one operation for them. -/
theorem State.unitLanes_passing {s : State} {i : Instr} {f : GF} {us : List Use} {area : Option Use} {op : UnitOp} {reads : Bool}
    (hclear : s.clear i) (hactive : s.active ≠ []) (hclean : ∀ l ∈ s.active, (s.sources us l).any (·.2) = false)
    (hbad : s.unitBad f area = none) :
    let o := { op with area := uval 32 ((area.map fun u => s.fetchUse u 0).getD (0, false)).1
                       todo := s.active.map fun l => (l, (s.sources us l).map (·.1)) }
    s.unitLanes i f us area op reads =
      if reads then s.issueDesc (recBase (s.record f.brec.toNat).1) o (s.dstRows i) fun s' => s'.next
      else (s.issueUnit o (s.dstRows i)).next := by
  intro o
  have hpass : ∀ x ∈ s.active.map fun l => (l, s.sources us l),
      (if x.2.any (·.2) then some (poisonTrap 1) else s.unitBad f area) = none := by
    intro x hx
    obtain ⟨l, hl, rfl⟩ := List.mem_map.mp hx
    simp only [hclean l hl, hbad, Bool.false_eq_true, if_false]
  have hok : ((s.active.map fun l => (l, s.sources us l)).filter fun x =>
      (if x.2.any (·.2) then some (poisonTrap 1) else s.unitBad f area).isNone) = s.active.map fun l => (l, s.sources us l) :=
    List.filter_eq_self.mpr fun x hx => by rw [hpass x hx]; rfl
  have htrapped : ((s.active.map fun l => (l, s.sources us l)).filterMap fun x =>
      (if x.2.any (·.2) then some (poisonTrap 1) else s.unitBad f area).map fun t => (x.1, x.2, t)) = [] :=
    List.filterMap_eq_nil_iff.mpr fun x hx => by rw [hpass x hx]; rfl
  have hne : ((s.active.map fun l => (l, s.sources us l)).isEmpty) = false := by simpa using hactive
  unfold State.unitLanes
  rw [s.frame_clear i _ hclear, if_neg (by simpa using hactive)]
  unfold State.unitBad at hok htrapped
  dsimp only at hok htrapped ⊢
  rw [hok, htrapped, hne, List.map_map]
  simp only [State.proceed_nil]
  rfl

/-- A descriptor that is read at once: the operation issues with it. -/
theorem State.issueDesc_got {s : State} {desc : Nat} {bs : List Byte} {x : Seen} (h : s.descRead desc = .got bs x) (o : UnitOp)
    (rows : List Nat) (k : State → State) : s.issueDesc desc o rows k =
      k (({ (s.dropHeld [desc, desc + 127]).useLines x.lines with fresh := s.fresh + 2 ^ 17 } : State).issueUnit
        { o with bytes := some bs, top := x.top } rows) := by
  unfold State.issueDesc
  rw [h]
  rfl

/-! ### Instructions that read the pass descriptor -/

/-- The state in which an instruction goes on once the lines that it reads at issue are there (R289). -/
def State.afterRead (s : State) (vas : List Nat) (z : Seen) : State := { (s.dropHeld vas).useLines z.lines with fresh := s.fresh + 2 ^ 17 }

theorem State.afterRead_team (s : State) (vas : List Nat) (z : Seen) : (s.afterRead vas z).team = s.team := by
  obtain ⟨h, sl, ag, e⟩ := (s.dropHeld vas).useLines_eq z.lines
  unfold State.afterRead
  rw [e]
  rfl

theorem State.afterRead_dies (s : State) (vas : List Nat) (z : Seen) : (s.afterRead vas z).dies = s.dies := by
  obtain ⟨h, sl, ag, e⟩ := (s.dropHeld vas).useLines_eq z.lines
  unfold State.afterRead
  rw [e]
  rfl

theorem State.withPass_got {s : State} {bs : List Byte} {x : Seen} (h : s.passBytes = .got bs x) (k : State → PassRead → State) :
    s.withPass k = k (s.afterRead s.passEnds x) (s.passRead (.got bs x)) := by
  unfold State.withPass
  rw [h]
  rfl

theorem State.withMap_got {s : State} {bs cs : List Byte} {x y : Seen} {p : PassDesc} {m : List Nat} (h : s.passBytes = .got bs x)
    (hp : (s.passRead (.got bs x)).desc = some p) (hmap : s.passRange 128 p.binmap p.tileCount = .got cs y) (hm : s.binMap cs = some m)
    (k : State → PassRead → Option (PassDesc × List Nat) → State) : s.withMap k =
      k (s.afterRead (s.passEnds ++ rangeLines p.binmap p.tileCount) (x.and y)) (s.passRead (.got bs x)) (some (p, m)) := by
  unfold State.withMap
  dsimp only
  rw [h, hp]
  dsimp only
  rw [hmap]
  dsimp only
  rw [hm]
  rfl

/-- An instruction that may access memory runs its body. -/
theorem exec_access {i : Instr} {s : State} {body : State → State} (he : exec i s = .next (s.access i body)) (h : s.mayAccess i) :
    exec i s = .next (body s) := he.trans (congrArg _ (s.access_may i body h))

theorem bits_zero (n hi : Nat) : bits n hi 0 = n % 2 ^ (hi + 1) := by
  unfold bits
  rw [Nat.pow_zero, Nat.div_one, Nat.sub_zero]

/-- Uniform operands that are all clean are not poisoned. -/
theorem State.uniformClean.not_any {s : State} {us : List Use} (h : s.uniformClean us) :
    ((us.map fun u => s.fetchUse u 0).any (·.2)) = false := by
  rw [List.any_map, List.any_eq_false]
  intro u hu
  simp [h u hu]

end Sys2Proof.Machine
end

section
/-! PROOFS. Graphics units. -/

namespace Sys2Proof.Machine

/-- Settles O37: no lane traps, so that one operation issues for all of them, with the descriptor where it reads one. -/
theorem unitInstructions : Obligations.UnitInstructions := by
  unfold Obligations.UnitInstructions
  intro f s hactive r base pos op may reads
  have issues {i : Instr} {us : List Use} {kind : UnitKind} {area : Option Use} {at' : Nat}
      (he : exec i s = .next (s.unitLanes i f us area { id := 0, gid := s.gid, kind := kind, dst := f.dst.reg }))
      (hat : uval 32 ((area.map fun u => s.fetchUse u 0).getD (0, false)).1 = at')
      (harea : r.2 = false → descOk r.1 = true → s.unitBad f area = none) : reads i us kind at' := by
    intro hm bs x hgot
    obtain ⟨hclear, hclean, hrec, hdesc⟩ := hm
    refine he.trans (congrArg Host.Outcome.next ?_)
    rw [State.unitLanes_passing hclear hactive hclean (harea hrec hdesc), if_pos rfl, State.issueDesc_got hgot, hat]
  have hplain : r.2 = false → descOk r.1 = true → s.unitBad f none = none := fun hrec hdesc => State.unitBad_noArea hrec hdesc
  refine ⟨fun hclean halign hfits => ?_, issues rfl rfl hplain, issues rfl rfl hplain⟩
  have hbad : r.2 = false → descOk r.1 = true → s.unitBad f (some (uS f.b)) = none := fun hrec hdesc =>
    State.unitBad_area hrec hdesc hclean halign hfits
  refine ⟨issues rfl rfl hbad, fun hm => ?_⟩
  obtain ⟨hclear, hclean', hrec, hdesc⟩ := hm
  exact congrArg Host.Outcome.next
    (State.unitLanes_passing (op := { id := 0, gid := s.gid, kind := .travnext (f.sub == 0), dst := f.dst.reg }) (reads := false)
      hclear hactive hclean' (hbad hrec hdesc))

/-- Settles O38: once the descriptor and the map are read, each instruction acts in the state after the reads. -/
theorem passInstructions : Obligations.PassInstructions := by
  unfold Obligations.PassInstructions
  intro f s bs cs x y r p m hactive after u mapped hbytes hread hdesc
  have hdesc' : (s.passRead (.got bs x)).desc = some p := by rw [hread]; exact hdesc
  have hteam : u.team = s.team := s.afterRead_team _ _
  have hdies : u.dies = s.dies := s.afterRead_dies _ _
  have hmap (hmapped : mapped) (k : State → PassRead → Option (PassDesc × List Nat) → State) : s.withMap k = k u r (some (p, m)) := by
    rw [State.withMap_got hbytes hdesc' hmapped.1 hmapped.2, hread]
    rfl
  refine ⟨?_, ?_, ?_, ?_⟩
  · intro ws hclear hclean htoken
    have hws : (((rastUses f).map fun u => s.fetchUse u 0).map fun v => v.1.setWidth 32) = ws := by
      simp only [ws, State.uniformOperands, List.map_map, Function.comp_def]
    have hrast : exec (.rast f) s = .next _ := congrArg Host.Outcome.next (s.frame_clear (.rast f) _ hclear)
    rw [hrast, if_neg (by simpa using hactive)]
    dsimp only
    rw [hclean.not_any, if_neg Bool.false_ne_true, State.withPass_got hbytes, hread, hdesc]
    dsimp only
    rw [hws, htoken, if_neg Bool.false_ne_true]
    rfl
  · intro nv msgs hm hform hmapped hlanes
    refine (exec_access rfl hm).trans (congrArg Host.Outcome.next ?_)
    rw [hform, if_neg Bool.false_ne_true]
    unfold State.binput
    dsimp only
    rw [hmap hmapped]
    dsimp only
    have hjs : ((s.active.map fun l => (l, s.sources (binputUses f) l)).map fun x =>
        (x, u.binLane (f.flags.getLsbD 1) (some (p, m)) x.2)) =
        s.active.map fun l => ((l, s.sources (binputUses f) l), none, nv l, msgs l) := by
      rw [List.map_map]
      exact List.map_congr_left fun l hl => congrArg (Prod.mk _) (hlanes l hl)
    have hnone : (s.active.map fun l => ((l, s.sources (binputUses f) l), (none : Option Trap), nv l, msgs l)).filterMap
        (fun x => x.2.1.map fun t => (x.1.1, x.1.2, t)) = [] := by
      rw [List.filterMap_map]
      exact List.filterMap_eq_nil_iff.mpr fun l _ => rfl
    have hsome : ¬ ([] : List (Nat × List Src × Trap)).length =
        (s.active.map fun l => ((l, s.sources (binputUses f) l), (none : Option Trap), nv l, msgs l)).length := by
      rw [List.length_map]
      exact Nat.ne_of_lt (List.length_pos_iff.mpr hactive)
    rw [hjs, hnone, if_neg hsome, State.proceed_nil, List.map_map, List.any_map]
    rfl
  · intro draw dies hm hform hclean hmapped hlate hbusy
    refine (exec_access rfl hm).trans (congrArg Host.Outcome.next ?_)
    rw [if_pos hform]
    unfold State.binClose
    dsimp only
    rw [hclean, if_neg Bool.false_ne_true, hmap hmapped]
    dsimp only
    have hfree : (u.team.lrec.regionDies.filter fun d => !u.dieAbsent d).any (fun d => u.binnerBusy d u.team.id.grid) = false := by
      unfold State.dieAbsent
      rw [hteam, hdies]
      exact List.any_eq_false.mpr fun d hd => by simp [hbusy d hd]
    rw [bits_zero, hfree, show u.drawLate p ((s.fetchUse (uS f.b) 0).1.toNat % 2 ^ 16) true = false from hlate]
    rfl
  · intro d named hm hclean hmapped hnamed hbusy
    refine (exec_access rfl hm).trans (congrArg Host.Outcome.next ?_)
    dsimp only
    rw [hclean, if_neg Bool.false_ne_true, hmap hmapped]
    dsimp only
    rw [if_neg (by rintro ⟨h1, h2⟩; exact hnamed.elim h1 h2), hteam, hbusy]
    rfl

end Sys2Proof.Machine
end

section
/-! SUPPORT. Lanes that park with their sources, lanes that stand at a rendezvous, and the death of a grid in its handler. -/

namespace Sys2Proof.Machine

/-! ### Lanes that park with their operand log (R111) -/

/-- Lanes park for one reason, each with sources of its own. -/
theorem State.trapLanes_logged (ls : List Nat) (s : State) (t : Trap) (vals : Nat → List Src) (rows : List Nat) (hn : ls.Nodup)
    (hh : s.grp.inHandler = false) (hl : ∀ l ∈ ls, l < s.grp.lanes.length ∧ (s.lane l).st ≠ .exited) :
    ∃ g : Group, ls.foldl (fun s l => s.trapLane l t (vals l) rows) s = { s with grp := g } ∧ g.regs = s.grp.regs
      ∧ g.lanes.length = s.grp.lanes.length
      ∧ ∀ k < s.grp.lanes.length, g.lane k = if ls.contains k then (s.lane k).parkedFor t (vals k) rows else s.lane k := by
  induction ls generalizing s with
  | nil => exact ⟨s.grp, rfl, rfl, rfl, fun k _ => rfl⟩
  | cons l ls ih =>
    rw [List.nodup_cons] at hn
    obtain ⟨hlt, hlive⟩ := hl l (.head _)
    have hfirst : s.trapLane l t (vals l) rows = { s with grp := s.grp.park l t (vals l) rows } := by
      unfold State.trapLane
      rw [if_neg hlive, hh]
      rfl
    have hlen : (s.grp.park l t (vals l) rows).lanes.length = s.grp.lanes.length := Group.mapLanes_length _ _
    have hlane (k : Nat) (hk : k < s.grp.lanes.length) :
        (s.grp.park l t (vals l) rows).lane k = if k = l then (s.lane k).parkedFor t (vals l) rows else s.lane k :=
      Group.lane_mapLanes s.grp _ hk
    obtain ⟨g, hg, hregs, hglen, hglane⟩ := ih { s with grp := s.grp.park l t (vals l) rows } hn.2 hh fun k hk => by
      obtain ⟨hk', hklive⟩ := hl k (.tail _ hk)
      have hne : k ≠ l := fun e => hn.1 (e ▸ hk)
      refine ⟨hlen.symm ▸ hk', ?_⟩
      show ((s.grp.park l t (vals l) rows).lane k).st ≠ _
      rwa [hlane k hk', if_neg hne]
    refine ⟨g, ?_, hregs.trans rfl, hglen.trans hlen, fun k hk => ?_⟩
    · rw [List.foldl_cons, hfirst, hg]
    · rw [hglane k (hlen.symm ▸ hk)]
      show (if ls.contains k then ((s.grp.park l t (vals l) rows).lane k).parkedFor t (vals k) rows
        else (s.grp.park l t (vals l) rows).lane k) = _
      rw [hlane k hk]
      by_cases hkl : k = l
      · subst hkl
        have hout : ls.contains k = false := by
          rw [Bool.eq_false_iff, Ne, List.contains_iff_mem]
          exact hn.1
        rw [hout]
        simp
      · simp [hkl]

theorem flags_of_trapped (ls : List Nat) (t : Trap) (vals : Nat → List Src) (fl : FpFlags) :
    (ls.map fun l => (l, vals l, LaneOut.trap t)).foldl (fun f r => f ||| r.2.2.flags) fl = fl := by
  induction ls generalizing fl with
  | nil => rfl
  | cons l ls ih => exact (ih _).trans (BitVec.or_zero (x := fl))

/-- Where every active lane traps for one reason, they park with their sources and the rest of the issue set moves on (R111). -/
theorem State.commit_trapped {s : State} (hh : s.grp.inHandler = false) (t : Trap) (vals : Nat → List Src) (rows : List Nat) :
    ∃ g : Group, s.commit (s.active.map fun l => (l, vals l, .trap t)) rows = ({ s with grp := g } : State).retire s.pc false
      ∧ parksIn s g (fun k => if s.active.contains k then some t else none) vals rows := by
  have hnone : ((s.active.map fun l => (l, vals l, LaneOut.trap t)).map fun r => laneWrites r.1 r.2.2.writes).flatten = [] := by
    rw [List.map_map]
    exact List.flatten_eq_nil_iff.mpr fun x hx => by
      obtain ⟨l, -, rfl⟩ := List.mem_map.mp hx
      rfl
  have htrapped : ((s.active.map fun l => (l, vals l, LaneOut.trap t)).filterMap fun r => r.2.2.trapped.map fun x => (r.1, r.2.1, x))
      = s.active.map fun l => (l, vals l, t) := by
    rw [List.filterMap_map]
    exact List.filterMap_eq_map (f := fun l => (l, vals l, t)) ▸ rfl
  have hmoved : (s.issueSet.filter fun l => !((s.active.map fun l => (l, vals l, t)).any (·.1 == l)))
      = s.issueSet.filter fun l => !s.active.contains l := by
    refine List.filter_congr fun l _ => congrArg (!·) ?_
    rw [List.any_map, Bool.eq_iff_iff, List.any_eq_true, List.contains_iff_mem]
    simp
  obtain ⟨g, hg, hregs, hlen, hlane⟩ := State.trapLanes_logged s.active s t vals rows s.grp.active_nodup hh fun l hl =>
    ⟨s.grp.issueSet_lt (s.grp.active_issueSet hl), by
      have hrun := s.grp.runners_run hh (s.grp.issueSet_runners (s.grp.active_issueSet hl))
      show (s.grp.lane l).st ≠ _
      rw [hrun]
      decide⟩
  refine ⟨g.step (s.issueSet.filter fun l => !s.active.contains l), ?_, ?_, ?_, fun k hk => ?_⟩
  · unfold State.commit
    dsimp only
    rw [hnone, htrapped, hmoved, flags_of_trapped, List.foldl_map]
    have hquiet : (s.writeLanes []).raise 0 = s := (State.raise_zero _).trans rfl
    rw [hquiet, hg]
    rfl
  · rw [(g.keeps_step _).1, hregs]
  · rw [← hlen]
    exact Group.mapLanes_length _ _
  · unfold Group.step
    rw [Group.lane_mapLanes g _ (hlen.symm ▸ hk), hlane k hk]
    simp only [has_eq_contains]
    cases h : s.active.contains k with
    | true =>
      have hout : (s.issueSet.filter fun l => !s.active.contains l).contains k = false := by
        rw [Bool.eq_false_iff, Ne, List.contains_iff_mem, List.mem_filter]
        rintro ⟨-, hk'⟩
        rw [h] at hk'
        cases hk'
      rw [hout]
      rfl
    | false =>
      have hin : (s.issueSet.filter fun l => !s.active.contains l).contains k = s.issueSet.contains k := by
        rw [Bool.eq_iff_iff, List.contains_iff_mem, List.contains_iff_mem, List.mem_filter, h]
        simp
      rw [hin]
      rfl

/-! ### Lanes that stand at a rendezvous (R114) -/

/-- A lane that stands at REGROUP or REPACK with its target and key. -/
def Lane.stands (x : Lane) (m : Meet) : Lane := { x.completed with st := .rdv, meet := some m }

theorem State.fold_stands (ls : List Nat) (s : State) (m : Nat → Meet) (hn : ls.Nodup) :
    ls.foldl (fun s l => s.onLane l (·.stands (m l))) s =
      s.onGrp (·.mapLanes fun k x => if ls.contains k then x.stands (m k) else x) := by
  induction ls generalizing s with
  | nil =>
    have hid (g : Group) := g.mapLanes_id (f := fun k x => if ([] : List Nat).contains k then x.stands (m k) else x) fun _ _ => rfl
    simp only [hid]
    rfl
  | cons l ls ih =>
    obtain ⟨hl, hls⟩ := List.nodup_cons.mp hn
    rw [List.foldl_cons, ih _ hls]
    refine congrArg (fun g => { s with grp := g }) ((Group.mapLanes_mapLanes _ _ _).trans ?_)
    refine congrArg s.grp.mapLanes (funext fun k => funext fun x => ?_)
    by_cases hk : k = l
    · subst hk
      simp [hl]
    · simp [hk]

theorem Group.issueSet_nodup (g : Group) : g.issueSet.Nodup := by
  have hwhich (p : Lane → Bool) : (g.which p).Nodup := List.nodup_range.filter _
  have hrunners : g.runners.Nodup := by
    unfold Group.runners
    split
    · exact hwhich _
    · dsimp only
      split <;> exact hwhich _
  unfold Group.issueSet
  split
  · exact List.nodup_nil
  · exact hrunners.filter _

/-- Lanes that all arrive stand at the instruction (R114). -/
theorem State.arriveLanes_stand {s : State} {regroup : Bool} {f : GF} {m : Nat → Meet}
    (h : ∀ l ∈ s.issueSet, s.arrival regroup f l = .inr (m l)) : s.arriveLanes regroup f =
      (s.onGrp (·.mapLanes fun k x => if s.issueSet.contains k then x.stands (m k) else x)).retire s.pc true := by
  have houts : (s.issueSet.map fun l => (l, s.arrival regroup f l)) = s.issueSet.map fun l => (l, .inr (m l)) :=
    List.map_congr_left fun l hl => congrArg (Prod.mk l) (h l hl)
  unfold State.arriveLanes
  dsimp only
  rw [houts, List.foldl_map]
  exact congrArg (·.retire s.pc true) (State.fold_stands s.issueSet s m s.grp.issueSet_nodup)

/-! ### A trap in the handler (R432, R436) -/

theorem State.trapLanes_exited (ls : List Nat) {s : State} (t : Trap) (rows : List Nat) (h : ∀ l ∈ ls, (s.lane l).st = .exited) :
    s.trapLanes ls t rows = s := by
  induction ls with
  | nil => rfl
  | cons l ls ih =>
    refine (congrArg (fun s : State => s.trapLanes ls t rows) ?_).trans (ih fun k hk => h k (.tail _ hk))
    unfold State.trapLane
    exact if_pos (h l (.head _))

/-- A lane that has ended for good. -/
def Lane.dead (x : Lane) : Prop := x.st = .exited ∧ x.replay = false ∧ x.handler = false

/-- A group that has been killed. -/
def Group.dead (g : Group) : Prop := (∀ x ∈ g.lanes, x.dead) ∧ g.gst = .ended ∧ g.inHandler = false ∧ g.wait = none

theorem Lane.dead.after {x : Lane} (h : x.dead) : x.after.dead := by
  obtain ⟨hst, hreplay, hhandler⟩ := h
  have hafter : x.after = { x with replay := false, log := none, back := none, pc := nextPc x.pc } := by
    unfold Lane.after Lane.completed
    rw [hreplay, hhandler]
    rfl
  rw [hafter]
  exact ⟨hst, rfl, hhandler⟩

theorem mem_mapLanes {g : Group} {f : Nat → Lane → Lane} {y : Lane} (h : y ∈ (g.mapLanes f).lanes) : ∃ k, ∃ x ∈ g.lanes, f k x = y := by
  obtain ⟨k, hk, rfl⟩ := List.mem_mapIdx.mp h
  exact ⟨k, _, List.getElem_mem hk, rfl⟩

theorem Group.dead_killed (g : Group) : g.killed.dead := by
  refine ⟨fun y hy => ?_, rfl, rfl, rfl⟩
  obtain ⟨k, x, -, rfl⟩ := mem_mapLanes hy
  exact ⟨rfl, rfl, rfl⟩

theorem Group.dead.step {g : Group} (h : g.dead) (ls : List Nat) : (g.step ls).dead := by
  obtain ⟨hlanes, hgst, hhandler, hwait⟩ := h
  refine ⟨fun y hy => ?_, hgst, hhandler, hwait⟩
  obtain ⟨k, x, hx, rfl⟩ := mem_mapLanes hy
  split
  · exact (hlanes x hx).after
  · exact hlanes x hx

theorem Group.dead.lane {g : Group} (h : g.dead) (l : Nat) : (g.lane l).st = .exited := by
  unfold Group.lane
  rw [List.getD_eq_getElem?_getD]
  cases hl : g.lanes[l]? with
  | none => rfl
  | some x => exact (h.1 x (List.mem_of_getElem? hl)).1

theorem Group.dead.any {g : Group} (h : g.dead) {p : Lane → Bool} (hp : ∀ x, x.st = .exited → p x = false) : g.lanes.any p = false :=
  List.any_eq_false.mpr fun x hx => by simp [hp x (h.1 x hx).1]

theorem Group.dead.judgeReconv {g : Group} (h : g.dead) : g.judgeReconv = g := by
  have hwaiting : (g.lanes.filter fun x => g.judged x && x.st == .rcwait) = [] :=
    List.filter_eq_nil_iff.mpr fun x hx => by simp [(h.1 x hx).1]
  unfold Group.judgeReconv
  rw [hwaiting]
  split <;> rfl

theorem Group.dead.leaveHandler {g : Group} (h : g.dead) : g.leaveHandler = g := by
  unfold Group.leaveHandler
  rw [h.2.2.1]
  rfl

theorem Group.dead.meeting {g : Group} (h : g.dead) : g.meeting = none := by
  unfold Group.meeting
  rw [List.filter_eq_nil_iff.mpr fun x hx => by simp [(h.1 x hx).1]]

theorem State.settle_dead {s : State} (h : s.grp.dead) : s.settle = s := by
  have hmeet : s.meet = s := by
    unfold State.meet
    rw [h.meeting]
    split
    · contradiction
    · rfl
  have hall : s.grp.lanes.all (·.st == .exited) = true := List.all_eq_true.mpr fun x hx => by simp [(h.1 x hx).1]
  unfold State.settle
  dsimp only
  rw [h.judgeReconv, h.leaveHandler]
  show (if s.meet.grp.lanes.all (·.st == .exited) then _ else _) = s
  rw [hmeet, if_pos hall, if_pos h.2.1]

/-- The end of an instruction whose group was killed. -/
theorem State.retire_dead {s : State} (h : s.grp.dead) (pc : BitVec 56) : ∃ (c : Core) (t : Team) (n : Nat), s.retire pc false =
    { s with core := c, grp := { s.grp with runLen := n }, team := t } := by
  have hends : (s.fetched.runEnd || false || decide (23 ≤ s.grp.runLen) || s.grp.issuePc != some (nextPc pc) || s.grp.gst != .running) = true := by
    simp [h.2.1]
  unfold State.retire
  dsimp only
  rw [if_pos hends]
  unfold State.endRun
  rw [State.settle_dead (by exact h)]
  exact ⟨_, _, _, rfl⟩

end Sys2Proof.Machine
end

section
/-! PROOFS. The rendezvous, LAUNCH, poison and traps in the handler. -/

namespace Sys2Proof.Machine

/-- Settles O39: with sound targets every lane of the issue set stands; LAUNCH leaves its request behind a release. -/
theorem regroupAndLaunch : Obligations.RegroupAndLaunch := by
  unfold Obligations.RegroupAndLaunch
  refine ⟨fun f s m => ?_, fun f s hm => ?_⟩
  · intro stand
    refine ⟨fun hclear hmiss harr => ?_, fun hclear harr => ?_⟩
    · refine congrArg Host.Outcome.next ((s.frame_clear _ _ hclear).trans ?_)
      rw [if_pos rfl, s.translated_ok _ _ _ hmiss]
      exact State.arriveLanes_stand harr
    · exact congrArg Host.Outcome.next ((s.frame_clear _ _ hclear).trans (State.arriveLanes_stand harr))
  · exact exec_once rfl hm

/-- Settles O40: every result is a trap, so that nothing is written and the lanes park. -/
theorem poisonParksLanes : Obligations.PoisonParksLanes := by
  unfold Obligations.PoisonParksLanes
  intro f s hh hactive t go
  have parks {i : Instr} {us : List Use} {body : Nat → List (BitVec 64) → LaneOut} (he : exec i s = .next (s.perLane i us body)) : go i us := by
    intro hclear hpoison
    have hresults : s.laneResults us body = s.active.map fun l => (l, s.sources us l, .trap (poisonTrap 1)) := by
      unfold State.laneResults
      exact List.map_congr_left fun l hl => by simp only [hpoison l hl, if_true]
    obtain ⟨g, hg, hparks⟩ := State.commit_trapped hh (poisonTrap 1) (fun l => s.sources us l) (s.dstRows i)
    refine ⟨g, he.trans (congrArg Host.Outcome.next ?_), hparks⟩
    unfold State.perLane
    rw [s.frame_clear _ _ hclear, hresults, hg]
  exact ⟨parks rfl, parks rfl, parks rfl, parks rfl, parks rfl, parks rfl, parks rfl, parks rfl, parks rfl⟩

/-- Settles O41: the first active lane kills the grid, and what is left of the instruction finds only lanes that have exited. -/
theorem trapInHandlerKillsGrid : Obligations.TrapInHandlerKillsGrid := by
  unfold Obligations.TrapInHandlerKillsGrid
  intro i s d h henc hh hactive hill
  obtain ⟨l, ls, hls⟩ := List.exists_cons_of_ne_nil hactive
  have hlive : (s.lane l).st ≠ .exited := by
    have hrun : l ∈ s.grp.runners := s.grp.issueSet_runners (s.grp.active_issueSet (by rw [show s.grp.active = l :: ls from hls]; exact List.mem_cons_self))
    unfold Group.runners at hrun
    rw [if_pos hh] at hrun
    have hparked := (List.mem_filter.mp hrun).2
    simp only [Bool.and_eq_true, beq_iff_eq] at hparked
    show (s.grp.lane l).st ≠ _
    rw [hparked.2]
    decide
  have hdead : (s.killGrid 1 d).grp.dead := s.grp.dead_killed
  have hfirst : s.trapLane l { kind := 1, detail := d, half := h } [] [] = s.killGrid 1 d := by
    unfold State.trapLane
    rw [if_neg hlive, hh]
    rfl
  have hlanes : s.trapLanes s.active { kind := 1, detail := d, half := h } [] = s.killGrid 1 d := by
    rw [hls]
    show (s.trapLane l _ [] []).trapLanes ls _ [] = _
    rw [hfirst]
    exact State.trapLanes_exited ls _ _ fun k _ => hdead.lane k
  have hdead' := hdead.step (s.issueSet.filter fun k => !has s.active k)
  obtain ⟨c, t, n, hretire⟩ := State.retire_dead
    (s := (s.killGrid 1 d).onGrp (·.step (s.issueSet.filter fun k => !has s.active k))) hdead' s.pc
  have hend : s.trapActive { kind := 1, detail := d, half := h } [] =
      ((s.killGrid 1 d).onGrp (·.step (s.issueSet.filter fun k => !has s.active k))).retire s.pc false := by
    unfold State.trapActive
    dsimp only
    rw [hlanes]
  refine ⟨_, (exec_ill henc hill).trans (congrArg Host.Outcome.next (hend.trans hretire)), fun x hx => (hdead'.1 x hx).1, rfl, ?_, List.mem_cons_self⟩
  exact List.mem_append_right _ (List.mem_singleton_self _)

end Sys2Proof.Machine
end

section
/-! SUPPORT. Engine commands that need not wait (R110, R147, R152, R339, R617). -/

namespace Sys2Proof.Machine

/-- An operation that finds room, its tile, its translations and its ranges joins the engine (R617). -/
theorem State.issueEng_joins {s : State} {o : EngOp} {list : Option LocalRange} {locks hutch : List RangeLock} (go : State → Nat → State)
    (hwaits : s.commandWaits o = false) (hroom : s.core.engine.length < 256) (htile : s.tileWaits o = none) (hmiss : s.missing o.addresses = [])
    (hreg : registerAll s.core.hutch (o.ranges list) = some (locks, hutch)) {remote : Bool}
    (hremote : (o.writes || o.shape2.isSome || o.kind == .peer || o.kind == .send) = remote) : s.issueEng o list go =
      (go ((s.handOver o locks hutch remote).giveHeld o.addresses s.me (.engine (s.fresh + 1))) (s.fresh + 1)).next := by
  unfold State.issueEng
  rw [hwaits, if_neg Bool.false_ne_true, htile]
  dsimp only
  rw [hmiss, if_neg (by simp), if_neg (by omega), hreg, hremote]

/-- A command on a route whose checks pass issues its operation (R349). -/
theorem State.routeCommand_passing {s : State} {i : Instr} {f : XF} {nAt limit : Nat} {op : State → List (BitVec 64) → EngOp}
    {go : State → Nat → State} (hm : s.mayAccess i) (hclean : s.uniformClean (s.barUses i))
    (hplan : s.planRoute f (uval 32 (nth (s.uniformOperands (s.barUses i)) 0)) (uval 32 (nth (s.uniformOperands (s.barUses i)) nAt))
      (decide (4 ≤ uval 32 (nth (s.uniformOperands (s.barUses i)) nAt)) && decide (uval 32 (nth (s.uniformOperands (s.barUses i)) nAt) ≤ limit)
        && uval 32 (nth (s.uniformOperands (s.barUses i)) nAt) % 4 == 0) = .ok ()) :
    s.routeCommand i f nAt limit op go = s.issueEng { op s (s.uniformOperands (s.barUses i)) with
      gid := some s.gid, team := s.team.id, route := f.route.toNat, dst := s.routeDst f.route.toNat
      bar := some f.bar.toNat, now := s.core.now } none go := by
  unfold State.routeCommand
  rw [s.access_may i _ hm]
  dsimp only
  rw [hclean.not_any, if_neg Bool.false_ne_true, List.map_map]
  unfold State.uniformOperands at hplan ⊢
  simp only [Function.comp_def]
  rw [hplan]

end Sys2Proof.Machine
end

section
/-! PROOFS. Engine commands. -/

namespace Sys2Proof.Machine

/-- Settles O35: past its checks and its waits each command hands one operation to the engine. -/
theorem engineCommands : Obligations.EngineCommands := by
  unfold Obligations.EngineCommands
  intro f s v ready room joined join
  have copies {i : Instr} {k : EngKind} (he : exec i s = .next (s.copyCommand i f k)) (hm : ready i) :
      exec i s = .next (if s.kind = .dispatch then s.dispatchCopy f k (v i 0).toNat else
        match s.planCopy f k (uval 32 (v i 0)) (uval 32 (v i 1)) (uval 32 (v i 2)) with
        | .error t => s.trapActive t []
        | .ok o => s.issueEng o (if k == .gather || k == .scatter then some ⟨uval 32 (v i 2), 4 * o.shape.boxN 1⟩ else none) State.wakeEng) := by
    refine he.trans (congrArg Host.Outcome.next ?_)
    unfold State.copyCommand
    rw [s.access_may i _ hm.1]
    dsimp only
    rw [hm.2.not_any, if_neg Bool.false_ne_true, List.map_map]
    rfl
  refine ⟨fun x hx => ?_, ?_, ?_, ?_, ?_⟩
  · have command (i : Instr) (k : EngKind) (he : exec i s = .next (s.copyCommand i f k)) :
        ready i →
        (s.kind ≠ .dispatch → ∀ o, s.planCopy f k (uval 32 (v i 0)) (uval 32 (v i 1)) (uval 32 (v i 2)) = .ok o →
          join i o (if k == .gather || k == .scatter then some ⟨uval 32 (v i 2), 4 * o.shape.boxN 1⟩ else none)
            (o.writes || o.shape2.isSome || o.kind == .peer || o.kind == .send))
        ∧ (s.kind = .dispatch →
          let o : EngOp := { id := 0, gid := some s.gid, team := s.team.id, kind := k, fmt := (numTy f.ty.toNat).getD .b32
                             la := (v i 0).toNat, now := s.core.now }
          room o → exec i s = .next ((s.handOver o [] s.core.hutch true).wakeEng (s.fresh + 1)).next) := by
      intro hm
      refine ⟨fun hkind o hplan locks hutch hroom htile hmiss hreg => ?_, fun hkind => ?_⟩
      · rw [copies he hm, if_neg hkind, hplan]
        exact congrArg Host.Outcome.next (State.issueEng_joins _ hroom.1 hroom.2 htile hmiss hreg rfl)
      · intro o hroom
        rw [copies he hm, if_pos hkind]
        refine congrArg Host.Outcome.next ?_
        unfold State.dispatchCopy
        dsimp only
        rw [hroom.1, if_neg Bool.false_ne_true, if_neg (Nat.not_le.mpr hroom.2)]
    simp only [List.mem_cons, List.not_mem_nil, or_false] at hx
    rcases hx with rfl | rfl | rfl | rfl | rfl
    · exact command _ _ rfl
    · exact command _ _ rfl
    · exact command _ _ rfl
    · exact command _ _ rfl
    · exact command _ _ rfl
  · intro i a n hm hplan locks hutch hroom htile hmiss hreg
    refine congrArg Host.Outcome.next ((State.routeCommand_passing hm.1 hm.2 hplan).trans ?_)
    exact State.issueEng_joins _ hroom.1 hroom.2 htile hmiss hreg (by simp)
  · intro i a n o hm hplan hroom hmiss locks hutch hreg s1
    refine congrArg Host.Outcome.next ((State.routeCommand_passing hm.1 hm.2 hplan).trans ?_)
    rw [bits_zero]
    exact State.issueEng_joins (o := o) _ hroom.1 hroom.2 rfl hmiss hreg (by simp [o])
  · intro go hm
    have hexec : exec (.xcancel f) s = _ := exec_once rfl hm
    rw [hexec]
    dsimp only
    refine ⟨fun hkind => by rw [if_pos hkind], fun hkind hbinds hdef => ?_, fun hkind hbinds hobj => ?_⟩
    · obtain ⟨e, he⟩ := Option.isSome_iff_exists.mp hdef
      rw [if_neg hkind, if_pos hbinds, he]
    · rw [if_neg hkind, hbinds, if_neg Bool.false_ne_true, hobj]
      rfl
  · intro a hm hclean halign hprot
    have hexec : exec (.precv f) s = _ := exec_access rfl hm
    have haligned : ¬ uval 32 (s.fetchUse (uSN f.a) 0).1 % 4 ≠ 0 := not_not_intro halign
    rw [hexec]
    dsimp only
    rw [show (s.fetchUse (uSN f.a) 0).2 = false from hclean _ (List.mem_singleton_self _), if_neg Bool.false_ne_true, if_neg haligned,
      show s.rangeProt ⟨uval 32 (s.fetchUse (uSN f.a) 0).1, 256⟩ = .ok () from hprot]
    dsimp only
    refine ⟨fun hinbox hprecvs => ?_, fun h => ?_⟩
    · rw [if_neg (by simp [hinbox, hprecvs])]
      rfl
    · rw [if_pos (by simpa using h)]
      rfl

end Sys2Proof.Machine
end

section
/-! SUPPORT. Matrix instructions that nothing stops (R363 to R365), and the sums of an MMA (R234, R360). -/

namespace Sys2Proof.Machine

theorem State.matrixOp_served {s : State} {i : Instr} {f : MXF} (k : State → Nat → State) (hclear : s.clear i) (hactive : s.active ≠ [])
    (hserved : redirNone (s.redirect (CoreId.die s.core.id) (s.clusterQuad f.a.reg)) = false) :
    s.matrixOp i f k = k s (s.clusterQuad f.a.reg) := by
  unfold State.matrixOp
  rw [s.frame_clear i _ hclear, if_neg (by simpa using hactive)]
  dsimp only
  rw [hserved, if_neg Bool.false_ne_true]

/-- An operation whose queue has room is queued (R363). -/
theorem State.queueMacro_room {s : State} {m : MacroOp}
    (hroom : (if redirSet (s.redirect (CoreId.die s.core.id) m.quad) then (s.quad (CoreId.die s.core.id) (s.serving (CoreId.die s.core.id) m.quad)).redir
      else (s.quad (CoreId.die s.core.id) (s.serving (CoreId.die s.core.id) m.quad)).queue).length < 16) :
    s.queueMacro m =
      let q := s.quad (CoreId.die s.core.id) (s.serving (CoreId.die s.core.id) m.quad)
      ((s.putQuad (if redirSet (s.redirect (CoreId.die s.core.id) m.quad) then { q with redir := q.redir ++ [m] }
        else { q with queue := q.queue ++ [m] })).kick (CoreId.die s.core.id) (s.serving (CoreId.die s.core.id) m.quad)).next := by
  unfold State.queueMacro State.macroQueue
  exact if_neg (Nat.not_le.mpr hroom)

/-- An instruction on a tile that is READY and fits queues its operation. -/
theorem State.tileMacro_ready {s : State} {i : Instr} {f : MXF} {kind : MacroKind} {fits : DWord → Bool} {t : Team} {e : DWord}
    (hclear : s.clear i) (hactive : s.active ≠ [])
    (hserved : redirNone (s.redirect (CoreId.die s.core.id) (s.clusterQuad f.a.reg)) = false)
    (hteam : s.firstTeam s.team.id.grid (s.quadCore f.a.reg f.qcore.toNat) = some t) (htile : t.defTile f.tile.toNat = some e)
    (hfits : fits e = true) (hst : tileState e = 2) :
    s.tileMacro i f kind fits = s.queueMacro (s.macroOp f kind (s.clusterQuad f.a.reg) (s.quadCore f.a.reg f.qcore.toNat) t.id) := by
  unfold State.tileMacro
  rw [State.matrixOp_served _ hclear hactive hserved]
  dsimp only
  rw [hteam]
  dsimp only
  rw [htile]
  dsimp only
  rw [if_neg (by simp [hfits, hst]), if_neg (not_not_intro hst)]

/-- A drain that finds its translations, room and its ranges joins the engine (R152, R339). -/
theorem State.handDrain_joins {u : State} {o : EngOp} {ctl : CoreId} {who : WalkFor} {locks hutch : List RangeLock}
    (hmiss : u.missing o.addresses (who := who) = []) (hroom : u.core.engine.length < 256)
    (hreg : registerAll u.core.hutch (o.ranges none) = some (locks, hutch)) : u.handDrain o ctl who =
      (.inr (u.fresh + 1), ((({ u with fresh := u.fresh + 1 } : State).onCore fun k => { k with
        hutch := hutch, engine := k.engine ++ [{ o with id := u.fresh + 1, locks := locks, ctl := some ctl }] }).giveHeld o.addresses who
          (.engine (u.fresh + 1))).wakeEng (u.fresh + 1)) := by
  unfold State.handDrain
  dsimp only
  rw [hmiss, if_neg (by simp), if_neg (Nat.not_le.mpr hroom), hreg]
  rfl

/-! ### The arithmetic of an MMA -/

/-- The integer sum of products, as a sum (R360). -/
theorem intSum_eq (ta tb : Ty) (kn : Nat) (a : TileData) (qs : List Quarter) (i j : Nat) : intSum ta tb kn a qs i j =
    ((List.range kn).map fun k => ta.int (packedElem ta a.bytes (i * kn + k))
      * tb.int (packedElem tb (qs.getD (j / 16) ⟨tb, [], [], true, ⟨⟨⟨0, 0⟩, 0⟩, 0⟩⟩).bytes (k * 16 + j % 16))).sum := by
  unfold intSum
  rw [List.sum_eq_foldl, List.foldl_map]

theorem mmaTag_float {ta : Ty} (h : mmaTag ta ≠ .i32) : mmaTag ta = if ta = .f64 then .f64 else .f32 := by
  unfold mmaTag at h ⊢
  split
  · next hi => rw [if_pos hi] at h; exact absurd rfl h
  · rfl

theorem products_plain {ta tb : Ty} (ha : ta.mx = false) (hb : tb.mx = false) (kn : Nat) (a : TileData) (qs : List Quarter) (i j : Nat) :
    products ta tb kn a qs i j = (List.range kn).map fun k => (mulVal (ta.val (packedElem ta a.bytes (i * kn + k)))
      (tb.val (packedElem tb (qs.getD (j / 16) ⟨tb, [], [], true, ⟨⟨⟨0, 0⟩, 0⟩, 0⟩⟩).bytes (k * 16 + j % 16)))).1 := by
  unfold products operandVal
  simp only [ha, hb, Bool.false_eq_true, if_false]

end Sys2Proof.Machine
end

section
/-! PROOFS. Matrix engines. -/

namespace Sys2Proof.Machine

/-- Settles O36: each instruction queues, hands over or publishes as its rule says; an element of an MMA is its sum rounded once. -/
theorem matrixInstructions : Obligations.MatrixInstructions := by
  unfold Obligations.MatrixInstructions
  refine ⟨fun f s hactive => ?_, fun ta tb ovr kn a qs old i j => ?_⟩
  · intro d quad n q far served queues tiled
    have queued {i : Instr} {kind : MacroKind} {core : CoreId} {team : TeamId}
        (he : exec i s = .next (s.queueMacro (s.macroOp f kind quad core team))) : queues i kind core team :=
      fun hroom => he.trans (congrArg Host.Outcome.next (State.queueMacro_room hroom))
    have ready {i : Instr} {kind : MacroKind} {p : DWord → Bool} {fits : DWord → Prop} (hp : ∀ e, fits e → p e = true)
        (he : exec i s = .next (s.tileMacro i f kind p)) : tiled i kind fits := by
      intro t e c hs hteam htile hfits hst
      exact queued (he.trans (congrArg Host.Outcome.next (State.tileMacro_ready hs.1 hactive hs.2 hteam htile (hp e hfits) hst)))
    refine ⟨fun hs => ?_, fun ta tb k hta htb hk => ?_, ?_, ?_, ?_, ?_⟩
    · exact queued (congrArg Host.Outcome.next (State.matrixOp_served _ hs.1 hactive hs.2))
    · have hexec : exec (.mma f) s = .next (s.tileMacro (.mma f) f (.mma ta tb (f.sub == 1)) fun e =>
          tileFmt e == f.ta.toNat && tileErows e == 63 && tileEcols e + 1 == k) := by
        refine Eq.trans (b := execMma f s) rfl ?_
        unfold execMma
        rw [hta, htb]
        dsimp only [Option.getD_some]
        rw [hk]
        rfl
      exact ready (fun e ⟨h1, h2, h3⟩ => by simp [h1, h2, h3]) hexec
    · refine ready (fun e ⟨hrows, hcols, hty⟩ => ?_) rfl
      dsimp only
      rw [hrows, hcols]
      rcases hty with hty | hty | ⟨hty, hacc⟩
      · rw [hty]; rfl
      · rw [hty]; rfl
      · rw [hty, hacc]; rfl
    · intro names due hclear hserved
      let acc : Option (Nat × Nat) := if f.flags.getLsbD 0 then none else some (quad, f.acc.toNat)
      have hcovers (x a : Nat) : s.macroCovers acc x a = names x a := by
        dsimp only [acc, names]
        cases f.flags.getLsbD 0 <;> rfl
      have hexec : exec (.mmawait f) s = .next (s.mmawait acc) := by
        refine Eq.trans (b := execMmawait f s) rfl (congrArg Host.Outcome.next ?_)
        dsimp only [acc]
        cases hflag : f.flags.getLsbD 0 with
        | true =>
          simp only [if_true]
          refine (s.frame_clear _ _ hclear).trans ?_
          exact if_neg (by simpa using hactive)
        | false =>
          simp only [Bool.false_eq_true, if_false]
          exact State.matrixOp_served _ hclear hactive (hserved hflag)
      rw [hexec]
      unfold State.mmawait State.drainsDue State.failedDrain State.drainsSeen
      simp only [hcovers]
      refine ⟨fun hdue => ?_, fun hdue hok => ?_, fun hdue x hx => ?_⟩
      · rw [if_pos hdue]
      · have hnone : (s.core.drains.find? fun x => names x.quad x.acc && x.status != some .ok) = none :=
          List.find?_eq_none.mpr fun x hx h => by
            simp only [Bool.and_eq_true, bne_iff_ne] at h
            exact h.2 (hok x hx h.1)
        refine Eq.trans (congrArg Host.Outcome.next (if_neg (ne_true_of_eq_false hdue))) ?_
        rw [hnone]
      · refine Eq.trans (congrArg Host.Outcome.next (if_neg (ne_true_of_eq_false hdue))) ?_
        rw [hx]
        rfl
    · intro t o locks hutch c u cv hclear hpending hclean hteam hplan hmiss hroom hreg x back
      obtain ⟨team, hfirst, rfl⟩ := Option.map_eq_some_iff.mp hteam
      have hdirty : ((s.barUses (.accdrain f)).any fun u => (s.fetchUse u 0).2) = false :=
        List.any_eq_false.mpr fun v hv => by simp [hclean v hv]
      have hplan' : ((s.focusCore (s.quadCore f.a.reg f.qcore.toNat)).focusTeam team.id).planDrain f.sub.toNat f.acc.toNat
          (s.acc (CoreId.die s.core.id) (s.clusterQuad f.a.reg) f.acc.toNat) (uval 32 (s.fetchUse (uSN f.b) 0).1)
          (uval 32 (s.fetchUse (uSN f.c) 0).1) (bits (uval 32 (s.fetchUse (uSN f.c) 0).1) 7 0)
          (redirNone (s.redirect (CoreId.die s.core.id) (s.clusterQuad f.a.reg))) = .ok o := by
        rw [bits_zero]
        exact hplan
      have hhand : ((s.focusCore (s.quadCore f.a.reg f.qcore.toNat)).focusTeam team.id).handDrain o s.core.id s.me = (.inr (u.fresh + 1), x) := State.handDrain_joins hmiss hroom hreg
      refine congrArg Host.Outcome.next ((s.frame_clear _ _ hclear).trans ?_)
      rw [if_neg (by simpa using hactive)]
      dsimp only
      rw [hpending, if_neg Bool.false_ne_true, hdirty, if_neg Bool.false_ne_true, hfirst]
      unfold State.within
      dsimp only
      rw [hplan']
      dsimp only
      rw [hhand]
    · intro g hclear htiles hquarters p
      refine congrArg Host.Outcome.next ((s.frame_clear _ _ hclear).trans ?_)
      rw [if_neg (by simpa using hactive), if_neg (Nat.not_le.mpr htiles), if_neg (Nat.not_le.mpr hquarters)]
  · intro q x y
    refine ⟨fun htag => ?_, fun htag ha hb => ?_⟩
    · unfold mmaElem
      rw [htag]
      dsimp only
      rw [intSum_eq]
      rfl
    · intro t sum
      unfold mmaElem
      rw [mmaTag_float htag, products_plain ha hb, List.foldl_map]
      by_cases hwide : ta = .f64
      · subst hwide
        rfl
      · dsimp only [t]
        rw [if_neg hwide, if_neg hwide]
        rfl

end Sys2Proof.Machine
end

section
/-! SUPPORT. The forwarding tree (R52 to R54, R70 to R84): what leaves it as it is, and what each of its steps changes. -/

namespace Sys2Proof.Machine

/-! ### Records of dies -/

theorem State.die_onDie_eq (s : State) (d k : Nat) (f : Die → Die) (h : (f (s.die d)).num = d) :
    (s.onDie d f).die k = if k = d then f (s.die d) else s.die k := by
  split
  · next hk => rw [hk, s.die_onDie d f h]
  · next hk => exact s.die_onDie_other f h hk

theorem State.die_of_dies {s t : State} (h : t.dies = s.dies) (k : Nat) : t.die k = s.die k := by
  unfold State.die
  rw [h]

theorem State.die_onFwd (s : State) (d k : Nat) (f : Forwarder → Forwarder) :
    (s.onFwd d f).die k = if k = d then { s.die d with fwd := f (s.die d).fwd } else s.die k :=
  s.die_onDie_eq d k _ (s.die_num d)

theorem State.present_congr {s t : State} (h : ∀ k, (t.die k).absent = (s.die k).absent) : t.present = s.present :=
  List.filter_congr fun k _ => congrArg (!·) (congrArg (decide (40 ≤ k) || ·) (h k))

theorem State.dieAbsent_congr {s t : State} {k : Nat} (h : (t.die k).absent = (s.die k).absent) : t.dieAbsent k = s.dieAbsent k :=
  congrArg (decide (40 ≤ k) || ·) h

/-! ### What leaves the tree as it is -/

/-- What stands of the tree at one die: its forwarder, and whether it is held, stranded and absent. -/
def Die.place (x : Die) : Forwarder × Bool × Bool × Bool := (x.fwd, x.held, x.stranded, x.absent)

/-- The tree, `%clkgen`, and whether a map is published stay. -/
def State.sameTree (s t : State) : Prop := (∀ k, (t.die k).place = (s.die k).place) ∧ t.clkgen = s.clkgen ∧ t.pub.isNone = s.pub.isNone

namespace State.sameTree

theorem refl (s : State) : s.sameTree s := ⟨fun _ => rfl, rfl, rfl⟩

theorem trans {s t u : State} (h : s.sameTree t) (h' : t.sameTree u) : s.sameTree u :=
  ⟨fun k => (h'.1 k).trans (h.1 k), h'.2.1.trans h.2.1, h'.2.2.trans h.2.2⟩

theorem of_dies {s t : State} (h : t.dies = s.dies) (hgen : t.clkgen = s.clkgen) (hpub : t.pub.isNone = s.pub.isNone) : s.sameTree t :=
  ⟨fun k => congrArg Die.place (State.die_of_dies h k), hgen, hpub⟩

theorem onDie (s : State) (d : Nat) {f : Die → Die} (hnum : (f (s.die d)).num = d) (hplace : (f (s.die d)).place = (s.die d).place) :
    s.sameTree (s.onDie d f) :=
  ⟨fun k => by
    rw [s.die_onDie_eq d k f hnum]
    split
    · next hk => rw [hk, hplace]
    · rfl, rfl, rfl⟩

theorem foldl {α : Type} (l : List α) {g : State → α → State} (h : ∀ (t : State) (x : α), t.sameTree (g t x)) (s : State) : s.sameTree (l.foldl g s) :=
  List.foldlRecOn l g (refl s) fun t ht x _ => ht.trans (h t x)

theorem fwd {s t : State} (h : s.sameTree t) (k : Nat) : (t.die k).fwd = (s.die k).fwd := congrArg (·.1) (h.1 k)
theorem held {s t : State} (h : s.sameTree t) (k : Nat) : (t.die k).held = (s.die k).held := congrArg (·.2.1) (h.1 k)
theorem stranded {s t : State} (h : s.sameTree t) (k : Nat) : (t.die k).stranded = (s.die k).stranded := congrArg (·.2.2.1) (h.1 k)
theorem absent {s t : State} (h : s.sameTree t) (k : Nat) : (t.die k).absent = (s.die k).absent := congrArg (·.2.2.2) (h.1 k)

theorem present {s t : State} (h : s.sameTree t) : t.present = s.present := State.present_congr h.absent

end State.sameTree

/-! ### Publication of the map -/

theorem State.sameTree_noteTick (s : State) (d n : Nat) : s.sameTree (s.noteTick d n) := by
  unfold State.noteTick
  split
  · unfold State.requestRebase
    dsimp only
    have hreq : s.sameTree (s.onDie d fun x => { x with rebaseReq := true }) := .onDie s d (s.die_num d) rfl
    split
    · exact .refl s
    · split
      · exact hreq
      · exact hreq.trans (.of_dies rfl rfl rfl)
  · exact .refl s

theorem State.sameTree_notify (s : State) (line : Nat) (w : Stamp) : s.sameTree (s.notify line w) := by
  unfold State.notify
  refine .foldl _ (fun t x => ?_) s
  dsimp only
  split
  · exact .of_dies rfl rfl rfl
  · exact .refl t

theorem State.sameTree_stamp (s : State) (h : Home) (w : Nat) : s.sameTree (s.stamp h w) := by
  unfold State.stamp
  dsimp only
  refine State.sameTree.trans (State.sameTree.trans ?_ (State.sameTree_noteTick _ _ _)) (State.sameTree_notify _ _ _)
  split
  · exact .of_dies rfl rfl rfl
  · exact .of_dies rfl rfl rfl

theorem State.sameTree_firmwareStamp (s : State) (h : Home) : s.sameTree (s.firmwareStamp h) := by
  let w := s.writeStamp h (s.die (lineDie h.line)).fwNow
  let f (x : Die) : Die := { x with fwNow := ⟨x.epoch, w⟩ }
  have hplace (x : Die) : (f x).place = x.place := rfl
  exact (s.sameTree_stamp h w).trans (.onDie (s.stamp h w) (lineDie h.line) (f := f) (State.die_num (s.stamp h w) _) (hplace _))

theorem State.sameTree_homeFor (s : State) (line : Nat) : s.sameTree (s.homeFor line).2 := by
  obtain ⟨h, sl, ag, e⟩ := s.fillHome_eq line
  have hfill : s.sameTree (s.fillHome line).2 := by
    rw [e]
    exact .of_dies rfl rfl rfl
  unfold State.homeFor
  split
  · next heq => rw [heq] at hfill; exact hfill
  · next heq => rw [heq] at hfill; exact hfill

theorem State.sameTree_firmwareWrite (s : State) (pa n x : Nat) : s.sameTree (s.firmwareWrite pa n x) :=
  (s.sameTree_homeFor (pa / 128)).trans
    ((State.sameTree.of_dies (t := (s.homeFor (pa / 128)).2.writeNat pa n x) rfl rfl rfl).trans (State.sameTree_firmwareStamp _ _))

theorem State.sameTree_mapWrite (s : State) (off n x : Nat) : s.sameTree (s.mapWrite off n x) :=
  .foldl _ (fun t _ => t.sameTree_firmwareWrite _ _ _) s

theorem State.sameTree_mapStep (s : State) : s.sameTree s.mapStep := .foldl _ (fun t _ => t.sameTree_firmwareWrite _ _ _) s

theorem State.sameTree_mapUpdate (s : State) {f : State → State} (h : ∀ t : State, t.sameTree (f t)) : s.sameTree (s.mapUpdate f) :=
  (s.sameTree_mapStep.trans (h _)).trans (State.sameTree_mapStep _)

theorem State.sameTree_putRegionRecord (s : State) (d : Nat) : s.sameTree (s.putRegionRecord d) := by
  unfold State.putRegionRecord
  dsimp only
  split
  · exact (State.sameTree_mapWrite _ _ _ _).trans (State.sameTree_mapWrite _ _ _ _)
  · exact State.sameTree_mapWrite _ _ _ _

theorem State.sameTree_putDieRecord (s : State) (d : Nat) : s.sameTree (s.putDieRecord d) :=
  .foldl _ (fun t _ => t.sameTree_mapWrite _ _ _) s

theorem State.sameTree_putStitch (s : State) (d : Nat) : s.sameTree (s.putStitch d) :=
  .foldl _ (fun t _ => (State.sameTree.of_dies (t := (t.drawNat 4).2) rfl rfl rfl).trans (State.sameTree_mapWrite _ _ _ _)) s

theorem State.sameTree_publishTree (s : State) (relocked : List Nat) : s.sameTree (s.publishTree relocked) := by
  unfold State.publishTree
  split
  · exact .refl s
  · refine s.sameTree_mapUpdate fun t => ?_
    dsimp only
    exact ((State.sameTree.foldl _ (fun t _ => .foldl _ (fun t _ => t.sameTree_mapWrite _ _ _) t) t).trans
      (.foldl _ (fun t d => (t.sameTree_putRegionRecord d).trans (State.sameTree_putDieRecord _ d)) _)).trans
      (.foldl _ (fun t d => t.sameTree_putStitch d) _)

/-- The first publication of the map leaves the tree as it is. -/
theorem State.publishBoot_tree (s : State) : (∀ k, (s.publishBoot.die k).place = (s.die k).place) ∧ s.publishBoot.clkgen = s.clkgen := by
  have hgib : s.sameTree (s.present.foldl (fun s d => s.onDie d fun x => { x with rdcgib := Config.rdcGib d % 17 }) s) :=
    .foldl _ (fun t d => .onDie t d (t.die_num d) rfl) s
  have hstamps (q : Published) (p : Nat → Bool) (t : State) : (∀ k, ((t.republish q p).die k).place = (t.die k).place)
      ∧ (t.republish q p).clkgen = t.clkgen := by
    unfold State.republish
    have h := State.sameTree.foldl ((t.homes.filter fun h => (imageOffset (h.line * 128)).any p)) (g := State.firmwareStamp)
      (fun t h => t.sameTree_firmwareStamp h) { t with pub := some q, mem := t.mem.filter fun c => !(imageOffset c.1).any p }
    exact ⟨h.1, h.2.1⟩
  unfold State.publishBoot
  exact ⟨fun k => ((hstamps _ _ _).1 k).trans (hgib.1 k), (hstamps _ _ _).2.trans hgib.2.1⟩

/-! ### Panel time -/

theorem State.sameTree_drawErr (s : State) (d : Nat) : s.sameTree (s.drawErr d) := by
  unfold State.drawErr
  split
  · exact .onDie s d (s.die_num d) rfl
  · exact (State.sameTree.of_dies (t := (s.drawNat 23593).2) rfl rfl rfl).trans (.onDie _ d (State.die_num _ d) rfl)

theorem State.sameTree_alignDie (s : State) (d : Nat) : s.sameTree (s.alignDie d) := by
  unfold State.alignDie
  split
  · exact .refl s
  · exact .onDie s d (s.die_num d) rfl

theorem State.sameTree_redraw (s : State) (moved : List Nat) : s.sameTree (s.redraw moved).2 := by
  unfold State.redraw
  refine List.foldlRecOn (motive := fun a : List Nat × State => s.sameTree a.2) _ _ (.refl s) fun a ha d _ => ?_
  split
  · exact ha.trans (State.sameTree_drawErr _ d)
  · exact ha

theorem State.sameTree_realign (s : State) (moved others : List Nat) : s.sameTree (s.realign moved others) :=
  (s.sameTree_redraw moved).trans (.foldl _ (fun t d => t.sameTree_alignDie d) _)

theorem State.sameTree_judge (s : State) (ds : List Nat) : s.sameTree (s.judge ds) := by
  unfold State.judge
  dsimp only
  refine State.sameTree.trans (State.sameTree.trans (.foldl _ (fun t x => ?_) s) (.foldl _ (fun t g => ?_) _)) (.foldl _ (fun t i => ?_) _)
  · split
    · exact .refl t
    · split
      · exact .of_dies rfl rfl rfl
      · exact .of_dies rfl rfl rfl
      · exact .refl t
  · exact .of_dies rfl rfl rfl
  · exact .of_dies rfl rfl rfl

end Sys2Proof.Machine
end

section
/-! SUPPORT. The steps of the forwarding tree (R54, R71, R77, R80). -/

namespace Sys2Proof.Machine

/-! ### References -/

/-- What decides whether a die has a reference: the absences and edges, its own forwarder's parent and input, and which forwarders drive
which children. -/
def Die.wires (x : Die) : Bool × List Nat × BitVec 3 × BitVec 4 × Bool × Bool :=
  (x.absent, x.fwd.down, x.fwd.parent, x.fwd.child, x.fwd.refOk, x.fwd.drives)

theorem State.parentOf_congr {s t : State} {d : Nat} (h : (t.die d).fwd.parent = (s.die d).fwd.parent) : t.parentOf d = s.parentOf d :=
  congrArg (fun p : BitVec 3 => neighbour d p.toNat) h

theorem State.isRoot_congr {s t : State} {d : Nat} (h : (t.die d).fwd.parent = (s.die d).fwd.parent) : t.isRoot d = s.isRoot d :=
  congrArg (fun p : BitVec 3 => p == 4) h

theorem State.liveEdge_congr {s t : State} (habs : ∀ k, (t.die k).absent = (s.die k).absent)
    (hdown : ∀ k, (t.die k).fwd.down = (s.die k).fwd.down) (d e : Nat) : t.liveEdge d e = s.liveEdge d e := by
  unfold State.liveEdge
  cases neighbour d e with
  | none => rfl
  | some n => simp only [State.dieAbsent_congr (habs n), hdown]

theorem State.hasReference_congr {s t : State} (h : ∀ k, (t.die k).wires = (s.die k).wires) (d : Nat) :
    t.hasReference d = s.hasReference d := by
  have habs (k : Nat) : (t.die k).absent = (s.die k).absent := congrArg (·.1) (h k)
  have hdown (k : Nat) : (t.die k).fwd.down = (s.die k).fwd.down := congrArg (·.2.1) (h k)
  have hparent (k : Nat) : (t.die k).fwd.parent = (s.die k).fwd.parent := congrArg (·.2.2.1) (h k)
  have hchild (k : Nat) : (t.die k).fwd.child = (s.die k).fwd.child := congrArg (·.2.2.2.1) (h k)
  have href (k : Nat) : (t.die k).fwd.refOk = (s.die k).fwd.refOk := congrArg (·.2.2.2.2.1) (h k)
  have hdrives (k : Nat) : (t.die k).fwd.drives = (s.die k).fwd.drives := congrArg (·.2.2.2.2.2) (h k)
  unfold State.hasReference
  simp only [hparent, href, State.parentOf_congr (hparent d), State.liveEdge_congr habs hdown, hchild, hdrives]

/-! ### PLLs that begin to lock (R71) -/

/-- A forwarder whose PLLs begin to lock at a clk. -/
def Forwarder.locking (f : Forwarder) (st : FwdSt) (clk : Nat) : Forwarder :=
  { f with st := st, lockW := false, lockE := false, lockBy := clk + lockTime }

theorem State.die_lockFrom (s : State) (d k : Nat) (st : FwdSt) :
    (s.lockFrom d st).die k = if k = d then { s.die d with fwd := (s.die d).fwd.locking st s.clk } else s.die k :=
  s.die_onFwd d k fun f => f.locking st s.clk

/-- Everything but the records of dies and the timers. -/
def State.offTree (s : State) : State := { s with dies := [], timers := [] }

theorem State.offTree_lockFrom (s : State) (d : Nat) (st : FwdSt) : (s.lockFrom d st).offTree = s.offTree := rfl

/-! ### Orphans that enter ADOPT (R77, step 3) -/

/-- Whether an orphan can enter ADOPT. -/
def State.adopts (s : State) (d : Nat) : Bool := (s.die d).fwd.st == .orphan && (s.die d).fwd.assigned && s.hasReference d

/-- One die of the pass of `adoptReady`. -/
def State.adoptOne (s : State) (d : Nat) : State := if s.adopts d then s.lockFrom d .adopt else s

theorem State.adoptReady_eq (s : State) : s.adoptReady = s.present.foldl State.adoptOne s := rfl

theorem State.adoptOne_other (s : State) {d k : Nat} (hk : k ≠ d) : (s.adoptOne d).die k = s.die k := by
  unfold State.adoptOne
  split
  · rw [s.die_lockFrom, if_neg hk]
  · rfl

theorem State.adoptOne_same (s : State) (d : Nat) : (s.adoptOne d).die d =
    if s.adopts d then { s.die d with fwd := (s.die d).fwd.locking .adopt s.clk } else s.die d := by
  unfold State.adoptOne
  split
  · rw [s.die_lockFrom, if_pos rfl]
  · rfl

theorem State.adoptOne_wires (s : State) (d k : Nat) : ((s.adoptOne d).die k).wires = (s.die k).wires := by
  by_cases hk : k = d
  · subst hk
    rw [s.adoptOne_same]
    split
    · next h =>
      have horphan : (s.die k).fwd.st = .orphan := by
        unfold State.adopts at h
        simp only [Bool.and_eq_true, beq_iff_eq] at h
        exact h.1.1
      unfold Die.wires Forwarder.locking Forwarder.drives
      rw [horphan]
      rfl
    · rfl
  · rw [s.adoptOne_other hk]

theorem State.adoptOne_offTree (s : State) (d : Nat) : (s.adoptOne d).offTree = s.offTree := by
  unfold State.adoptOne
  split
  · exact s.offTree_lockFrom d .adopt
  · rfl

theorem State.adoptOne_adopts (s : State) {d k : Nat} (hk : k ≠ d) : (s.adoptOne d).adopts k = s.adopts k := by
  unfold State.adopts
  rw [s.adoptOne_other hk, State.hasReference_congr (s.adoptOne_wires d)]

theorem State.offTree_clk {s t : State} (h : t.offTree = s.offTree) : t.clk = s.clk := by
  show t.offTree.clk = s.offTree.clk
  rw [h]

theorem State.fold_adoptOne {ls : List Nat} (hn : ls.Nodup) (s : State) : (ls.foldl State.adoptOne s).offTree = s.offTree ∧
    ∀ k, (ls.foldl State.adoptOne s).die k =
      if k ∈ ls ∧ s.adopts k = true then { s.die k with fwd := (s.die k).fwd.locking .adopt s.clk } else s.die k := by
  induction ls generalizing s with
  | nil => exact ⟨rfl, fun k => rfl⟩
  | cons d ls ih =>
    obtain ⟨hd, hn⟩ := List.nodup_cons.mp hn
    obtain ⟨hoff, hdie⟩ := ih hn (s.adoptOne d)
    refine ⟨hoff.trans (s.adoptOne_offTree d), fun k => ?_⟩
    rw [List.foldl_cons, hdie k]
    by_cases hk : k = d
    · subst hk
      rw [if_neg fun h => hd h.1, s.adoptOne_same]
      simp
    · rw [s.adoptOne_adopts hk, s.adoptOne_other hk, State.offTree_clk (s.adoptOne_offTree d)]
      simp [hk]

theorem State.present_nodup (s : State) : s.present.Nodup := List.nodup_range.filter _

/-- What the pass over the orphans does: each that can enters ADOPT (R77, step 3). -/
theorem State.die_adoptReady (s : State) (k : Nat) : s.adoptReady.die k =
    if k ∈ s.present ∧ s.adopts k = true then { s.die k with fwd := (s.die k).fwd.locking .adopt s.clk } else s.die k :=
  (State.fold_adoptOne s.present_nodup s).2 k

theorem State.adoptReady_offTree (s : State) : s.adoptReady.offTree = s.offTree := (State.fold_adoptOne s.present_nodup s).1

/-- A die that is no orphan is not touched. -/
theorem State.die_adoptReady_other (s : State) {k : Nat} (h : (s.die k).fwd.st ≠ .orphan) : s.adoptReady.die k = s.die k := by
  rw [s.die_adoptReady, if_neg]
  rintro ⟨-, ha⟩
  unfold State.adopts at ha
  simp only [Bool.and_eq_true, beq_iff_eq] at ha
  exact h ha.1.1

theorem State.adoptReady_keeps {α : Type} (s : State) (k : Nat) (p : Die → α)
    (h : ∀ (x : Die) (n : Nat), p { x with fwd := x.fwd.locking .adopt n } = p x) : p (s.adoptReady.die k) = p (s.die k) := by
  rw [s.die_adoptReady]
  split
  · exact h _ _
  · rfl

/-! ### Boot configuration (R54) -/

/-- What boot configuration may change: the record of a die in OFF but for its input, and which dies are absent. -/
def State.boots (s t : State) : Prop :=
  (∀ k, (s.die k).fwd.st ≠ .off → (t.die k).fwd = (s.die k).fwd) ∧ (∀ k, (t.die k).held = (s.die k).held)
    ∧ (∀ k, (t.die k).fwd.refOk = (s.die k).fwd.refOk) ∧ t.offTree = s.offTree

theorem State.boots.refl (s : State) : s.boots s := ⟨fun _ _ => rfl, fun _ => rfl, fun _ => rfl, rfl⟩

theorem State.boots.trans {s t u : State} (h : s.boots t) (h' : t.boots u) : s.boots u := by
  obtain ⟨hfwd, hheld, href, hoff⟩ := h
  obtain ⟨hfwd', hheld', href', hoff'⟩ := h'
  exact ⟨fun k hk => (hfwd' k (by rw [hfwd k hk]; exact hk)).trans (hfwd k hk), fun k => (hheld' k).trans (hheld k),
    fun k => (href' k).trans (href k), hoff'.trans hoff⟩

theorem State.boots_foldl {α : Type} (l : List α) {g : State → α → State} (h : ∀ (t : State) (x : α), t.boots (g t x)) (s : State) :
    s.boots (l.foldl g s) := List.foldlRecOn l g (.refl s) fun t ht x _ => ht.trans (h t x)

theorem State.boots.of_fwd (s : State) (d : Nat) (f : Die → Die) (hnum : (f (s.die d)).num = d)
    (hfwd : (s.die d).fwd.st ≠ .off → (f (s.die d)).fwd = (s.die d).fwd) (hheld : (f (s.die d)).held = (s.die d).held)
    (href : (f (s.die d)).fwd.refOk = (s.die d).fwd.refOk) : s.boots (s.onDie d f) := by
  have hdie (k : Nat) := s.die_onDie_eq d k f hnum
  refine ⟨fun k hk => ?_, fun k => ?_, fun k => ?_, rfl⟩
  all_goals
    rw [hdie]
    split
  · next h => subst h; exact hfwd hk
  · rfl
  · next h => rw [h, hheld]
  · rfl
  · next h => rw [h, href]
  · rfl

/-- A die in OFF is configured and starts to lock. -/
theorem State.boots.lockFrom (s : State) (d : Nat) (f : Forwarder → Forwarder) (st : FwdSt) (h : (s.die d).fwd.st = .off)
    (hf : (f (s.die d).fwd).refOk = (s.die d).fwd.refOk) : s.boots ((s.onFwd d f).lockFrom d st) := by
  have hdie (k : Nat) : ((s.onFwd d f).lockFrom d st).die k =
      if k = d then { s.die d with fwd := (f (s.die d).fwd).locking st s.clk } else s.die k := by
    rw [State.die_lockFrom, State.die_onFwd, State.die_onFwd, if_pos rfl]
    split <;> rfl
  refine ⟨fun k hk => ?_, fun k => ?_, fun k => ?_, rfl⟩
  all_goals
    rw [hdie]
    split
  · next e => exact absurd (e ▸ h) hk
  · rfl
  · next e => rw [e]
  · rfl
  · next e => rw [e]; exact hf
  · rfl

theorem State.boots_bootTree (s : State) : s.boots s.bootTree := by
  unfold State.bootTree
  dsimp only
  split
  · exact .refl s
  · split
    · exact .refl s
    · refine State.boots.trans ?_ (State.boots_foldl _ (fun t x => ?_) _)
      · split
        · exact State.boots_foldl _ (fun t d => .of_fwd t d _ (t.die_num d) (fun _ => rfl) rfl rfl) s
        · exact .refl s
      · split
        · exact .refl t
        · split
          · exact .refl t
          · next hgo =>
            refine .lockFrom t x.1 _ _ ?_ rfl
            simp only [Bool.or_eq_true, bne_iff_ne, not_or, Decidable.not_not] at hgo
            exact hgo.1.1

end Sys2Proof.Machine
end

section
/-! SUPPORT. The parents that a re-rooting gives (R54, R77, R80). -/

namespace Sys2Proof.Machine

/-- What a re-rooting gives a die, and what decides which edges are live: its parent, whether it is stranded, whether it is absent, and
its edges that no longer forward. -/
def Die.role (x : Die) : (BitVec 3 × Bool) × Bool × List Nat := ((x.fwd.parent, x.stranded), x.absent, x.fwd.down)

/-- The roles of all dies stay. -/
def State.sameRoles (s t : State) : Prop := ∀ k, (t.die k).role = (s.die k).role

/-- The live edges stay. -/
def State.sameEdges (s t : State) : Prop := ∀ k, (t.die k).role.2 = (s.die k).role.2

theorem State.sameRoles.refl (s : State) : s.sameRoles s := fun _ => rfl

theorem State.sameRoles.trans {s t u : State} (h : s.sameRoles t) (h' : t.sameRoles u) : s.sameRoles u := fun k => (h' k).trans (h k)

theorem State.sameRoles.onDie (s : State) (d : Nat) (f : Die → Die) (hnum : (f (s.die d)).num = d)
    (hrole : (f (s.die d)).role = (s.die d).role) : s.sameRoles (s.onDie d f) := fun k => by
  rw [s.die_onDie_eq d k f hnum]
  split
  · next hk => rw [hk, hrole]
  · rfl

theorem State.sameRoles_setChild (s : State) (d e : Nat) (on : Bool) : s.sameRoles (s.setChild d e on) := .onDie s d _ (s.die_num d) rfl

theorem Die.enterHold_num (x : Die) : x.enterHold.num = x.num := by
  unfold Die.enterHold
  split <;> rfl

theorem Die.enterHold_fwd (x : Die) : x.enterHold.fwd = x.fwd := by
  unfold Die.enterHold
  split <;> rfl

theorem Die.enterHold_role (x : Die) : x.enterHold.role = x.role := by
  unfold Die.enterHold
  split <;> rfl

theorem Die.enterHold_held (x : Die) : x.enterHold.held = true := by
  unfold Die.enterHold
  split
  · next h => exact h
  · rfl

theorem State.sameRoles_holdLive (s : State) (d : Nat) : s.sameRoles (s.holdLive d) := by
  unfold State.holdLive
  split
  · exact .onDie s d _ ((Die.enterHold_num _).trans (s.die_num d)) (Die.enterHold_role _)
  · exact .refl s

theorem State.sameRoles_leaveParent (s : State) (d : Nat) : s.sameRoles (s.leaveParent d) := by
  unfold State.leaveParent
  dsimp only
  split
  · exact .refl s
  · split
    · exact (s.sameRoles_setChild _ _ _).trans (State.sameRoles_holdLive _ _)
    · exact s.sameRoles_setChild _ _ _

theorem State.role_takeParent (s : State) (d k : Nat) (e : BitVec 3) :
    ((s.takeParent d e).die k).role = if k = d then ((e, false), (s.die k).role.2) else (s.die k).role := by
  unfold State.takeParent
  rw [s.die_onDie_eq d k _ (s.die_num d)]
  split
  · next h => rw [h]; rfl
  · rfl

theorem State.role_strand (s : State) (d k : Nat) :
    ((s.strand d).die k).role = if k = d then ((7, true), (s.die k).role.2) else (s.die k).role := by
  unfold State.strand
  rw [State.die_onDie_eq _ d k _ (State.die_num _ d)]
  split
  · next h =>
    have hsame := congrArg Prod.snd (s.sameRoles_leaveParent d d)
    rw [h, ← hsame]
    rfl
  · exact s.sameRoles_leaveParent d k

/-- The parent edge that a re-rooting finds for a die: 4 for the root, 7 for none. -/
def State.upEdge (s : State) (ds : List (Nat × Nat)) (root d : Nat) : Nat :=
  if d = root then 4 else
    match (ds.find? (·.1 == d)).bind fun x => s.parentEdge ds d x.2 with
    | some y => y.1
    | none => 7

theorem State.parentEdge_congr {s t : State} (h : s.sameEdges t) (ds : List (Nat × Nat)) (d n : Nat) :
    t.parentEdge ds d n = s.parentEdge ds d n := by
  unfold State.parentEdge State.liveNeighbours
  simp only [State.liveEdge_congr (fun k => congrArg (·.1) (h k)) (fun k => congrArg (·.2) (h k))]

theorem State.upEdge_congr {s t : State} (h : s.sameEdges t) (ds : List (Nat × Nat)) (root d : Nat) :
    t.upEdge ds root d = s.upEdge ds root d := by
  unfold State.upEdge
  simp only [State.parentEdge_congr h]

theorem State.parentEdge_lt {s : State} {ds : List (Nat × Nat)} {d n : Nat} {y : Nat × Nat} (h : s.parentEdge ds d n = some y) : y.1 < 4 := by
  have hlive : ∀ y ∈ s.liveNeighbours d, y.1 < 4 := by
    intro y hy
    unfold State.liveNeighbours at hy
    obtain ⟨e, he, hey⟩ := List.mem_filterMap.mp hy
    split at hey
    · obtain ⟨m, -, rfl⟩ := Option.map_eq_some_iff.mp hey
      exact List.mem_range.mp he
    · cases hey
  unfold State.parentEdge at h
  dsimp only at h
  refine List.foldlRecOn (motive := fun b : Option (Nat × Nat) => ∀ y, b = some y → y.1 < 4) _ _ (fun y hy => by cases hy)
    (fun b hb n hn => ?_) y h
  have hn4 := hlive n ((List.mem_filter.mp hn).1)
  intro y hy
  split at hy
  · cases hy; exact hn4
  · next m =>
    split at hy
    · cases hy; exact hn4
    · cases hy; exact hb _ rfl

theorem State.role_adopt (s : State) (ds : List (Nat × Nat)) (root d k : Nat) : ((s.adopt ds root d).die k).role =
    if k = d then ((BitVec.ofNat 3 (s.upEdge ds root d), s.upEdge ds root d == 7), (s.die k).role.2) else (s.die k).role := by
  have taken {u : State} (hu : s.sameRoles u) (e : Nat) (he : e < 7) : ((u.takeParent d (BitVec.ofNat 3 e)).die k).role =
      if k = d then ((BitVec.ofNat 3 e, e == 7), (s.die k).role.2) else (s.die k).role := by
    rw [u.role_takeParent, hu k, beq_false_of_ne (by omega)]
  unfold State.adopt State.upEdge
  split
  · refine taken ?_ 4 (by decide)
    split
    · exact .refl s
    · exact s.sameRoles_leaveParent d
  · split
    · next hnone =>
      rw [hnone]
      exact s.role_strand d k
    · next e p hsome =>
      have he : e < 4 := by
        obtain ⟨x, -, hx⟩ := Option.bind_eq_some_iff.mp hsome
        exact State.parentEdge_lt hx
      rw [hsome]
      dsimp only
      split
      · exact taken (.refl s) e (by omega)
      · exact taken (((s.sameRoles_leaveParent d).trans (State.sameRoles_setChild _ _ _ _)).trans (State.sameRoles_holdLive _ _)) e (by omega)

/-- A pass that gives each die of a list a role of its own. -/
theorem fold_roles {ls : List Nat} (hn : ls.Nodup) {g : State → Nat → State} {r : Nat → BitVec 3 × Bool} (s : State)
    (h : ∀ t d k, s.sameEdges t → ((g t d).die k).role = if k = d then (r d, (t.die k).role.2) else (t.die k).role) (k : Nat) :
    ((ls.foldl g s).die k).role = if k ∈ ls then (r k, (s.die k).role.2) else (s.die k).role := by
  have step {t : State} (ht : s.sameEdges t) (d : Nat) : s.sameEdges (g t d) := fun j => by
    rw [h t d j ht]
    split
    · exact ht j
    · exact ht j
  have main : ∀ (ls : List Nat), ls.Nodup → ∀ t : State, s.sameEdges t →
      ((ls.foldl g t).die k).role = if k ∈ ls then (r k, (s.die k).role.2) else (t.die k).role := by
    intro ls
    induction ls with
    | nil => intro _ t _; rfl
    | cons d ls ih =>
      intro hn t ht
      obtain ⟨hd, hn⟩ := List.nodup_cons.mp hn
      rw [List.foldl_cons, ih hn _ (step ht d), h t d k ht]
      by_cases hk : k = d
      · subst hk
        rw [if_neg hd, if_pos rfl, if_pos List.mem_cons_self, ht k]
      · simp [hk]
  exact main ls hn s fun _ => rfl

end Sys2Proof.Machine
end

section
/-! SUPPORT. The events of the forwarding tree, one by one (R70 to R84). -/

namespace Sys2Proof.Machine

/-! ### Power-on (R54, R70) -/

theorem Die.physical_num (x : Die) : x.physical.num = x.num := rfl

/-- The record of a die right after power-on. -/
theorem State.die_physical {s u : State} (h : u.dies = s.dies.map Die.physical) (k : Nat) : u.die k = (s.die k).physical := by
  unfold State.die Panel.die
  rw [h, List.find?_map]
  cases hf : s.dies.find? ((fun x => x.num == k) ∘ Die.physical) with
  | none =>
    have hf' : s.dies.find? (fun x => x.num == k) = none := hf
    rw [hf']
    rfl
  | some x =>
    have hf' : s.dies.find? (fun x => x.num == k) = some x := hf
    rw [hf']
    rfl

/-- The shortest paths start at the root, at depth 0, and no other die has this depth. -/
theorem State.depthsOver_root (s : State) (ds : List Nat) (root : Nat) :
    ∃ rest, s.depthsOver ds root = (root, 0) :: rest ∧ ∀ x ∈ rest, x.2 ≠ 0 := by
  unfold State.depthsOver
  refine List.foldlRecOn (motive := fun seen : List (Nat × Nat) => ∃ rest, seen = (root, 0) :: rest ∧ ∀ x ∈ rest, x.2 ≠ 0) _ _
    ⟨[], rfl, fun x hx => by cases hx⟩ fun seen hseen k _ => ?_
  obtain ⟨rest, rfl, hrest⟩ := hseen
  unfold State.spread
  refine ⟨_, List.cons_append, fun x hx => ?_⟩
  rcases List.mem_append.mp hx with hx | hx
  · exact hrest x hx
  · obtain ⟨d, -, rfl⟩ := List.mem_map.mp hx
    exact Nat.succ_ne_zero k

/-- One die of the pass of boot configuration. -/
def State.bootOne (ds : List (Nat × Nat)) (s : State) (x : Nat × Nat) : State :=
  match (if x.2 = 0 then some (4, x.1) else s.parentEdge ds x.1 x.2) with
  | none => s
  | some (e, up) =>
    if (s.die x.1).fwd.st != .off || (s.die x.1).fwd.hostMode || !(x.2 == 0 || (s.die up).fwd.st == .run) then s
    else (s.onFwd x.1 fun f => { f with parent := BitVec.ofNat 3 e, child := s.childEdges ds x.1 x.2, asked := none }).lockFrom x.1 .acquire

/-- A die below the root waits until its parent runs. -/
theorem State.bootOne_waits {s : State} (h : ∀ k, (s.die k).fwd.st ≠ .run) (ds : List (Nat × Nat)) {x : Nat × Nat} (hx : x.2 ≠ 0) :
    s.bootOne ds x = s := by
  unfold State.bootOne
  rw [if_neg hx]
  split
  · rfl
  · next e up _ =>
    have hup : ((s.die up).fwd.st == .run) = false := beq_false_of_ne (h up)
    rw [hup, beq_false_of_ne hx]
    simp

/-- The dies that the tree of boot does not reach are mapped out. -/
def State.mapUnreached (s : State) (ds : List (Nat × Nat)) : State :=
  (s.present.filter fun d => !ds.any (·.1 == d)).foldl (fun s d => s.onDie d fun x => { x with absent := true }) s

/-- The root that boot chooses where nothing has started. -/
def State.freshRoot (s : State) : Option Nat := s.present.find? fun d => rootCapable d && (s.die d).fwd.refOk && !(s.die d).fwd.hostMode

theorem State.bootTree_fresh {s : State} (hoff : ∀ k, (s.die k).fwd.st = .off) (hpub : s.pub = none) (hfw : s.firmware.failed = false) :
    s.bootTree = match s.freshRoot with
      | none => s
      | some r => (s.depthsOver s.present r).foldl (State.bootOne (s.depthsOver s.present r)) (s.mapUnreached (s.depthsOver s.present r)) := by
  have hfresh : (s.present.all fun d => (s.die d).fwd.st == .off) = true := List.all_eq_true.mpr fun k _ => by simp [hoff k]
  cases hroot : s.freshRoot with
  | none =>
    unfold State.freshRoot at hroot
    unfold State.bootTree
    simp only [hfresh, hroot, if_true]
  | some r =>
    unfold State.freshRoot at hroot
    unfold State.bootTree
    simp only [hfresh, hpub, hfw, hroot, Option.isSome_none, Bool.false_or, Bool.false_eq_true, if_true, if_false]
    rfl

theorem State.mapUnreached_fwd (s : State) (ds : List (Nat × Nat)) (k : Nat) : ((s.mapUnreached ds).die k).fwd = (s.die k).fwd := by
  refine List.foldlRecOn (motive := fun t : State => (t.die k).fwd = (s.die k).fwd) _ _ rfl fun t ht d _ => ?_
  rw [t.die_onDie_eq d k _ (t.die_num d)]
  split
  · next h => rw [← ht, h]
  · exact ht

theorem State.mapUnreached_clk (s : State) (ds : List (Nat × Nat)) : (s.mapUnreached ds).clk = s.clk :=
  List.foldlRecOn (motive := fun t : State => t.clk = s.clk) _ _ rfl fun _ ht _ _ => ht

/-- Boot of a module where nothing has started: the root begins to lock. -/
theorem State.bootTree_root {s : State} {root : Nat} (hoff : ∀ k, (s.die k).fwd.st = .off) (hhost : (s.die root).fwd.hostMode = false)
    (hpub : s.pub = none) (hfw : s.firmware.failed = false) (hroot : s.freshRoot = some root) :
    (s.bootTree.die root).fwd.st = .acquire ∧ (s.bootTree.die root).fwd.parent = 4 ∧ (s.bootTree.die root).fwd.lockBy = s.clk + lockTime
      ∧ ∀ k, k ≠ root → (s.bootTree.die k).fwd.st = .off := by
  let ds := s.depthsOver s.present root
  let u := s.mapUnreached ds
  have hfwd (k : Nat) : (u.die k).fwd = (s.die k).fwd := s.mapUnreached_fwd ds k
  obtain ⟨rest, hds, hrest⟩ := s.depthsOver_root s.present root
  let t := (u.onFwd root fun f => { f with parent := 4, child := u.childEdges ds root 0, asked := none }).lockFrom root .acquire
  have hfirst : u.bootOne ds (root, 0) = t := by
    unfold State.bootOne
    simp only [if_true, hfwd, hoff root, hhost]
    rfl
  have hdie (k : Nat) : t.die k = if k = root then
      { u.die root with fwd := ({ (u.die root).fwd with parent := 4, child := u.childEdges ds root 0, asked := none } : Forwarder).locking .acquire u.clk }
      else u.die k := by
    dsimp only [t]
    rw [State.die_lockFrom, State.die_onFwd, State.die_onFwd]
    by_cases hk : k = root
    · rw [if_pos hk, if_pos hk, if_pos rfl]
      rfl
    · rw [if_neg hk, if_neg hk, if_neg hk]
  have hnorun (k : Nat) : (t.die k).fwd.st ≠ .run := by
    rw [hdie]
    split
    · exact FwdSt.noConfusion
    · rw [hfwd, hoff]
      exact FwdSt.noConfusion
  have hboot : s.bootTree = t := by
    rw [State.bootTree_fresh hoff hpub hfw, hroot]
    show ds.foldl (State.bootOne ds) u = t
    rw [show ds = (root, 0) :: rest from hds, List.foldl_cons, ← hds, hfirst]
    exact List.foldlRecOn (motive := fun v : State => v = t) _ _ rfl fun v hv x hx => by
      rw [hv]
      exact State.bootOne_waits hnorun ds (hrest x hx)
  rw [hboot]
  refine ⟨?_, ?_, ?_, fun k hk => ?_⟩
  · rw [hdie, if_pos rfl]; rfl
  · rw [hdie, if_pos rfl]; rfl
  · rw [hdie, if_pos rfl]
    show u.clk + lockTime = _
    rw [State.mapUnreached_clk]
  · rw [hdie, if_neg hk, hfwd, hoff]

end Sys2Proof.Machine
end

section
/-! SUPPORT. Configuration, locking and loss of a die's clock (R71 to R84). -/

namespace Sys2Proof.Machine

/-! ### FWDCFG (R71, R82, R83) -/

/-- Every other root gives up its reference, where the die of a configuration is to be the root (R52). -/
def State.unrooted (s : State) (d : Nat) (v : Word) : State :=
  if cfgParent v = 4 then (s.present.filter fun k => k != d && s.isRoot k).foldl (fun s k => s.onFwd k fun f => { f with parent := 7 }) s
  else s

/-- The forwarder of a die after its configuration. -/
def Forwarder.configure (x : Forwarder) (v : Word) : Forwarder :=
  { x with parent := cfgParent v, child := cfgChild v, asked := none, hostMode := v.getLsbD 0, badCfg := false }

/-- Configuration as far as the register goes. -/
def State.configuredFor (s : State) (d : Nat) (v : Word) : State :=
  ((s.unrooted d v).configured d v).onFwd d fun f => { f with hostMode := v.getLsbD 0, badCfg := false }

theorem fold_unroot (ls : List Nat) (s : State) (k : Nat) :
    (ls.foldl (fun s k => s.onFwd k fun f => { f with parent := 7 }) s).die k =
      if k ∈ ls then { s.die k with fwd := { (s.die k).fwd with parent := 7 } } else s.die k := by
  induction ls generalizing s with
  | nil => rfl
  | cons d ls ih =>
    rw [List.foldl_cons, ih, s.die_onFwd]
    by_cases hk : k = d
    · subst hk
      simp
    · simp [hk]

theorem State.die_unrooted (s : State) (d k : Nat) (v : Word) : (s.unrooted d v).die k =
    if cfgParent v = 4 ∧ k ∈ s.present ∧ k ≠ d ∧ s.isRoot k = true then { s.die k with fwd := { (s.die k).fwd with parent := 7 } }
    else s.die k := by
  unfold State.unrooted
  split
  · next h =>
    rw [fold_unroot]
    simp only [List.mem_filter, Bool.and_eq_true, bne_iff_ne, h, true_and]
  · next h => rw [if_neg fun h' => h h'.1]

theorem State.unrooted_offTree (s : State) (d : Nat) (v : Word) : (s.unrooted d v).offTree = s.offTree ∧ (s.unrooted d v).timers = s.timers := by
  unfold State.unrooted
  split
  · exact List.foldlRecOn (motive := fun t : State => t.offTree = s.offTree ∧ t.timers = s.timers) _ _ ⟨rfl, rfl⟩ fun t ht _ _ => ht
  · exact ⟨rfl, rfl⟩

theorem State.die_configuredFor (s : State) (d k : Nat) (v : Word) : (s.configuredFor d v).die k =
    if k = d then { s.die d with fwd := (s.die d).fwd.configure v } else (s.unrooted d v).die k := by
  have hd : (s.unrooted d v).die d = s.die d := by
    rw [s.die_unrooted, if_neg fun h => h.2.2.1 rfl]
  unfold State.configuredFor State.configured
  rw [State.die_onFwd, State.die_onFwd, State.die_onFwd, if_pos rfl, hd]
  by_cases hk : k = d
  · rw [if_pos hk, if_pos hk]; rfl
  · rw [if_neg hk, if_neg hk, if_neg hk]

/-- Configuration changes no die's state of locking, nor what else is neither tree nor timer. -/
theorem State.configuredFor_keeps (s : State) (d k : Nat) (v : Word) : ((s.configuredFor d v).die k).fwd.st = (s.die k).fwd.st
    ∧ ((s.configuredFor d v).die k).absent = (s.die k).absent := by
  rw [s.die_configuredFor, s.die_unrooted]
  split
  · next h => rw [h]; exact ⟨rfl, rfl⟩
  · split <;> exact ⟨rfl, rfl⟩

theorem State.configuredFor_offTree (s : State) (d : Nat) (v : Word) : (s.configuredFor d v).offTree = s.offTree ∧
    (s.configuredFor d v).timers = s.timers := s.unrooted_offTree d v

theorem State.configuredFor_root (s : State) {d k : Nat} {v : Word} (hv : cfgParent v = 4) (hk : k ∈ s.present) (hkd : k ≠ d) :
    (s.configuredFor d v).isRoot k = false := by
  have hparent : (s.configuredFor d v).isRoot k = (((s.configuredFor d v).die k).fwd.parent == 4) := rfl
  rw [hparent, s.die_configuredFor, if_neg hkd, s.die_unrooted]
  split
  · rfl
  · next h =>
    cases hr : s.isRoot k with
    | true => exact absurd ⟨hv, hk, hkd, hr⟩ h
    | false => exact hr

/-- A live die whose part in the tree changes during a re-rooting (R77). -/
def Die.heldFor (x : Die) (moved : Bool) : Die := { x.enterHold with fwd := { x.fwd with moved := x.fwd.moved || moved } }

theorem State.die_heldFor (s : State) (d k : Nat) (moved : Bool) :
    (s.onDie d fun x => x.heldFor moved).die k = if k = d then (s.die d).heldFor moved else s.die k :=
  s.die_onDie_eq d k _ ((Die.enterHold_num (s.die d)).trans (s.die_num d))

/-- What a configuration with GO does at a die (R71, R77). -/
theorem State.applyCfg_eq (s : State) (d : Nat) (v : Word) : s.applyCfg d v =
    if (s.die d).fwd.st = .off then (s.configuredFor d v).lockFrom d .acquire
    else if (s.die d).fwd.st != .run || ((s.die d).fwd.parent == cfgParent v && (s.die d).fwd.child == cfgChild v) then s.configuredFor d v
    else if (s.configuredFor d v).rerooting then
      (s.configuredFor d v).onDie d fun x => x.heldFor ((s.die d).fwd.parent != cfgParent v)
    else if (s.die d).fwd.parent != cfgParent v then
      (({ s.configuredFor d v with clkgen := (s.configuredFor d v).clkgen + 1 } : State).publishTree).realign [d]
    else ({ s.configuredFor d v with clkgen := (s.configuredFor d v).clkgen + 1 } : State).publishTree := rfl

theorem State.rerooting_congr {s t : State} (hst : ∀ k, (t.die k).fwd.st = (s.die k).fwd.st) (habs : ∀ k, (t.die k).absent = (s.die k).absent) :
    t.rerooting = s.rerooting := by
  unfold State.rerooting
  simp only [State.present_congr habs, hst]

/-- `%clkgen` and the map after a configuration that moves a die outside a re-rooting (R66, R77). -/
def State.newGeneration (s : State) : State := ({ s with clkgen := s.clkgen + 1 } : State).publishTree

theorem State.newGeneration_tree (s : State) : (∀ k, (s.newGeneration.die k).place = (s.die k).place) ∧ s.newGeneration.clkgen = s.clkgen + 1 :=
  have h := State.sameTree_publishTree ({ s with clkgen := s.clkgen + 1 } : State) []
  ⟨h.1, h.2.1⟩

/-- What a configuration leaves of absences and parents once the register is written. -/
theorem State.applyCfg_parent (s : State) (d k : Nat) (v : Word) : ((s.applyCfg d v).die k).absent = ((s.configuredFor d v).die k).absent
    ∧ ((s.applyCfg d v).die k).fwd.parent = ((s.configuredFor d v).die k).fwd.parent := by
  have place {t : State} (h : (t.die k).place = ((s.configuredFor d v).die k).place) :
      (t.die k).absent = ((s.configuredFor d v).die k).absent ∧ (t.die k).fwd.parent = ((s.configuredFor d v).die k).fwd.parent :=
    ⟨congrArg (·.2.2.2) h, congrArg (·.1.parent) h⟩
  have hnew := (s.configuredFor d v).newGeneration_tree
  rw [s.applyCfg_eq]
  split
  · rw [State.die_lockFrom]
    split
    · next h => rw [h]; exact ⟨rfl, rfl⟩
    · exact ⟨rfl, rfl⟩
  · split
    · exact ⟨rfl, rfl⟩
    · split
      · rw [State.die_heldFor]
        split
        · next h =>
          rw [h]
          exact ⟨congrArg (·.2.1) (Die.enterHold_role _), rfl⟩
        · exact ⟨rfl, rfl⟩
      · split
        · exact place (((State.sameTree_realign _ [d] []).1 k).trans (hnew.1 k))
        · exact place (hnew.1 k)

/-- The roots after a configuration: with PARENT 4 the die alone (R52). -/
theorem State.applyCfg_root (s : State) {d k : Nat} {v : Word} (hv : cfgParent v = 4) (hk : k ∈ (s.applyCfg d v).present)
    (hroot : (s.applyCfg d v).isRoot k = true) : k = d := by
  refine Decidable.byContradiction fun hkd => ?_
  rw [State.present_congr fun j => (s.applyCfg_parent d j v).1.trans (s.configuredFor_keeps d j v).2] at hk
  rw [State.isRoot_congr (s.applyCfg_parent d k v).2, s.configuredFor_root hv hk hkd] at hroot
  cases hroot

/-! ### Locking (R71) and loss (R72, R73) -/

theorem Die.orphaned_num (x : Die) : x.orphaned.num = x.num := Die.enterHold_num x

theorem foldl_send {α : Type} (l : List α) (f : α → Instr) (s : State) :
    l.foldl (fun s x => s.send (f x)) s = { s with agenda := s.agenda ++ l.map f } := by
  induction l generalizing s with
  | nil => exact congrArg (fun a => ({ s with agenda := a } : State)) (List.append_nil _).symm
  | cons x l ih =>
    rw [List.foldl_cons, ih]
    exact congrArg (fun a => ({ s with agenda := a } : State)) (List.append_assoc _ _ _)

theorem State.die_orphan (s : State) (d k : Nat) : (s.orphan d).die k = if k = d then (s.die d).orphaned else s.die k := by
  have hon := s.die_onDie_eq d k Die.orphaned ((Die.orphaned_num _).trans (s.die_num d))
  unfold State.orphan
  dsimp only
  rw [foldl_send]
  split
  · exact hon
  · exact hon

theorem State.orphan_agenda (s : State) (d : Nat) : (s.orphan d).agenda =
    s.agenda ++ ((s.childrenOf d).map fun k => .parentClockLoss ⟨k, .parent⟩)
      ++ (if (s.die d).fwd.hostMode then [] else [.rerootParentAssign []]) := by
  have hhost : ((s.onDie d Die.orphaned).die d).fwd.hostMode = (s.die d).fwd.hostMode := by
    rw [s.die_onDie d _ ((Die.orphaned_num _).trans (s.die_num d))]
    rfl
  unfold State.orphan
  dsimp only
  rw [foldl_send]
  have hhost' (a : List Instr) : (State.die { s.onDie d Die.orphaned with agenda := a } d).fwd.hostMode = (s.die d).fwd.hostMode := hhost
  rw [hhost']
  split
  · exact (List.append_nil _).symm
  · rfl

theorem Die.enterHold_acc (x : Die) (h : x.held = false) : x.enterHold.acc = false := by
  unfold Die.enterHold
  rw [h]
  rfl

theorem State.offTree_generation {s t : State} (h : t.offTree = s.offTree) : t.clkgen = s.clkgen ∧ t.pub = s.pub := by
  have hgen : t.offTree.clkgen = s.offTree.clkgen := by rw [h]
  have hpub : t.offTree.pub = s.offTree.pub := by rw [h]
  exact ⟨hgen, hpub⟩

/-- What the end of boot leaves of a die that has started. -/
theorem State.bootOn_started (s : State) {k : Nat} (h : (s.die k).fwd.st ≠ .off) :
    (s.bootOn.die k).fwd = (s.die k).fwd ∧ (s.bootOn.die k).held = (s.die k).held := by
  obtain ⟨hfwd, hheld, -, -⟩ := s.boots_bootTree
  unfold State.bootOn
  dsimp only
  split
  · have hpub := (State.publishBoot_tree { s.bootTree with clkgen := s.bootTree.clkgen + 1 }).1 k
    exact ⟨(congrArg (·.1) hpub).trans (hfwd k h), (congrArg (·.2.1) hpub).trans (hheld k)⟩
  · exact ⟨hfwd k h, hheld k⟩

theorem State.booted_congr {s t : State} (h : ∀ k, (t.die k).place = (s.die k).place) : t.booted = s.booted := by
  have hst (k : Nat) : (t.die k).fwd.st = (s.die k).fwd.st := congrArg (·.1.st) (h k)
  have habs (k : Nat) : (t.die k).absent = (s.die k).absent := congrArg (·.2.2.2) (h k)
  unfold State.booted
  simp only [State.present_congr habs, hst]

/-- `%clkgen` rises when boot completes (R66). -/
theorem State.bootOn_clkgen (s : State) : s.bootOn.clkgen = if s.pub = none ∧ s.bootOn.booted = true then s.clkgen + 1 else s.clkgen := by
  obtain ⟨-, -, -, hoff⟩ := s.boots_bootTree
  obtain ⟨hgen, hpub⟩ := State.offTree_generation hoff
  unfold State.bootOn
  dsimp only
  split
  · next h =>
    obtain ⟨hp, hk⟩ := State.publishBoot_tree { s.bootTree with clkgen := s.bootTree.clkgen + 1 }
    simp only [Bool.and_eq_true, Option.isNone_iff_eq_none] at h
    have hbooted : (State.publishBoot { s.bootTree with clkgen := s.bootTree.clkgen + 1 }).booted = true :=
      (State.booted_congr hp).trans h.2
    rw [hk, if_pos ⟨hpub ▸ h.1, hbooted⟩, ← hgen]
  · next h =>
    rw [if_neg, hgen]
    rintro ⟨hp, hb⟩
    exact h (by rw [hpub, hp, hb]; rfl)

end Sys2Proof.Machine
end


section
/-! PROOFS. The forwarding tree, the region counters and the servo. -/

namespace Sys2Proof.Machine

/-- Power-on (R54, R70). -/
theorem powerOn_boots (s : State) :
    let r : State := { State.reset with dies := s.dies.map Die.physical, ptp := { State.reset.ptp with domain := s.ptp.domain } }
    (∀ y ∈ s.dies, (Die.physical y).fwd = { refOk := y.fwd.refOk })
      ∧ ((∀ k ∈ s.present, rootCapable k = true → (s.die k).fwd.refOk = false) → exec .powerOn s = .next r)
      ∧ ∀ root, s.present.find? (fun k => rootCapable k && (s.die k).fwd.refOk) = some root → ∃ t, exec .powerOn s = .next t
        ∧ (t.die root).fwd.st = .acquire ∧ (t.die root).fwd.parent = 4 ∧ (t.die root).fwd.lockBy = 25000
        ∧ ∀ k ∈ s.present, k ≠ root → (t.die k).fwd.st = .off := by
  intro r
  have hdie (k : Nat) : r.die k = (s.die k).physical := State.die_physical rfl k
  have hoff (k : Nat) : (r.die k).fwd.st = .off := by rw [hdie]; rfl
  have hroot : r.freshRoot = s.present.find? fun k => rootCapable k && (s.die k).fwd.refOk := by
    unfold State.freshRoot
    rw [State.present_congr (s := s) (t := r) fun k => by rw [hdie]; rfl]
    refine congrArg (s.present.find? ·) (funext fun k => ?_)
    rw [hdie]
    exact Bool.and_true _
  refine ⟨fun y _ => rfl, fun hnone => ?_, fun root hsome => ?_⟩
  · have hfind : r.freshRoot = none := by
      rw [hroot]
      refine List.find?_eq_none.mpr fun k hk h => ?_
      simp only [Bool.and_eq_true] at h
      rw [hnone k hk h.1] at h
      exact Bool.false_ne_true h.2
    refine congrArg Host.Outcome.next (Eq.trans (State.bootTree_fresh hoff rfl rfl) ?_)
    rw [hfind]
  · have hclk : r.clk + lockTime = 25000 := Nat.zero_add lockTime
    obtain ⟨hst, hparent, hlock, hothers⟩ := State.bootTree_root hoff (by rw [hdie]; rfl) rfl rfl (hroot.trans hsome)
    exact ⟨_, rfl, hst, hparent, hlock.trans hclk, fun k _ hk => hothers k hk⟩

/-- Configuration with GO (R71, R77, R82, R83). -/
theorem fwdcfgGo_applies {s : State} {d : Nat} {v : Word} (habs : s.dieAbsent d = false)
    (hfw : s.firmware.failed = false ∨ (s.die d).fwd.st ≠ .off) (hok : s.cfgRefused d v = false) :
    exec (.fwdcfgGo d v) s = .next (s.applyCfg d v) := by
  have hgo : ¬ (s.dieAbsent d || (s.firmware.failed && (s.die d).fwd.st == .off)) = true := by
    rw [habs]
    rcases hfw with h | h
    · simp [h]
    · simp [h]
  refine congrArg Host.Outcome.next (Eq.trans (if_neg hgo) ?_)
  rw [hok]
  exact if_neg Bool.false_ne_true

theorem applyCfg_effect (s : State) (d : Nat) (v : Word) :
    let x := (s.die d).fwd
    let y := x.configure v
    (x.st = .off → ((s.applyCfg d v).die d).fwd = { y with st := .acquire, lockW := false, lockE := false, lockBy := s.clk + 25000 }
      ∧ (s.clk + 25001, Instr.pllLockTimeout d) ∈ (s.applyCfg d v).timers)
    ∧ (x.st ≠ .off → x.st ≠ .run → ((s.applyCfg d v).die d).fwd = y)
    ∧ (x.st = .run → (x.parent ≠ y.parent ∨ x.child ≠ y.child) →
      (s.rerooting = true → ((s.applyCfg d v).die d).held = true) ∧ (s.rerooting = false → (s.applyCfg d v).clkgen = s.clkgen + 1)) := by
  intro x y
  have hself : (s.configuredFor d v).die d = { s.die d with fwd := y } := by
    rw [s.die_configuredFor, if_pos rfl]
  obtain ⟨hofftree, htimers⟩ := s.configuredFor_offTree d v
  have hclk : (s.configuredFor d v).clk = s.clk := State.offTree_clk hofftree
  have hgen : (s.configuredFor d v).clkgen = s.clkgen := (State.offTree_generation hofftree).1
  have hreroot : (s.configuredFor d v).rerooting = s.rerooting :=
    State.rerooting_congr (fun k => (s.configuredFor_keeps d k v).1) fun k => (s.configuredFor_keeps d k v).2
  rw [s.applyCfg_eq]
  refine ⟨fun hst => ?_, fun hoff hrun => ?_, fun hrun hmoved => ⟨fun hre => ?_, fun hre => ?_⟩⟩
  · rw [if_pos hst]
    refine ⟨?_, ?_⟩
    · rw [State.die_lockFrom, if_pos rfl, hself, hclk]
      rfl
    · rw [← hclk]
      exact List.mem_append_right _ (List.mem_singleton_self _)
  · rw [if_neg hoff, if_pos (by simp [x] at hrun; simp [hrun]), hself]
  all_goals
    have hst : ¬ (s.die d).fwd.st = .off := fun h => by rw [show (s.die d).fwd.st = .run from hrun] at h; cases h
    have hpart : ¬ ((s.die d).fwd.st != .run || ((s.die d).fwd.parent == cfgParent v && (s.die d).fwd.child == cfgChild v)) = true := by
      rw [show (s.die d).fwd.st = .run from hrun]
      rcases hmoved with h | h
      · simp [beq_false_of_ne (show (s.die d).fwd.parent ≠ cfgParent v from h)]
      · simp [beq_false_of_ne (show (s.die d).fwd.child ≠ cfgChild v from h)]
    rw [if_neg hst, if_neg hpart, hreroot, hre]
  · rw [if_pos rfl, State.die_heldFor, if_pos rfl]
    exact Die.enterHold_held _
  · obtain ⟨-, hnew⟩ := (s.configuredFor d v).newGeneration_tree
    rw [if_neg Bool.false_ne_true]
    split
    · exact (State.sameTree_realign (s.configuredFor d v).newGeneration [d] []).2.1.trans (hnew.trans (by rw [hgen]))
    · exact hnew.trans (by rw [hgen])

/-- A die locks (R71). -/
theorem pllLock_locks {s : State} {d : Nat} (href : s.hasReference d = true) (hby : s.clk ≤ (s.die d).fwd.lockBy)
    (hst : (s.die d).fwd.st = .adopt ∨ (s.die d).fwd.st = .acquire) : ∃ t, exec (.pllLock d) s = .next t
      ∧ (t.die d).fwd = { (s.die d).fwd with st := if (s.die d).fwd.st = .adopt then .adopt else .run, lockW := true, lockE := true }
      ∧ t.clkgen = if (s.die d).fwd.st = .acquire ∧ s.pub = none ∧ t.booted = true then s.clkgen + 1 else s.clkgen := by
  have hgo : ¬ (!s.hasReference d || decide ((s.die d).fwd.lockBy < s.clk)) = true := by simp [href, hby]
  let lock (st : FwdSt) : State := s.onFwd d fun f => { f with st := st, lockW := true, lockE := true }
  have hlock (st : FwdSt) : ((lock st).die d).fwd = { (s.die d).fwd with st := st, lockW := true, lockE := true } := by
    dsimp only [lock]
    rw [State.die_onFwd, if_pos rfl]
  refine ⟨_, congrArg Host.Outcome.next (if_neg hgo), ?_⟩
  rcases hst with hst | hst
  · rw [hst]
    show ((lock .adopt).adoptReady.die d).fwd = _ ∧ (lock .adopt).adoptReady.clkgen = _
    refine ⟨?_, ?_⟩
    · rw [State.die_adoptReady_other _ (by rw [hlock]; exact FwdSt.noConfusion), hlock, if_pos rfl]
    · rw [if_neg fun h => by cases h.1]
      exact (State.offTree_generation (lock .adopt).adoptReady_offTree).1
  · rw [hst]
    let u := ((lock .run).realign [d]).adoptReady
    have hu : (u.die d).fwd = { (s.die d).fwd with st := .run, lockW := true, lockE := true } := by
      have hre : (((lock .run).realign [d]).die d).fwd = _ := ((lock .run).sameTree_realign [d] []).fwd d
      dsimp only [u]
      rw [State.die_adoptReady_other _ (by rw [hre, hlock]; exact FwdSt.noConfusion), hre, hlock]
    obtain ⟨hgen, hpub⟩ := State.offTree_generation ((lock .run).realign [d]).adoptReady_offTree
    obtain ⟨-, hgen', hpub'⟩ := (lock .run).sameTree_realign [d] []
    have hnone : u.pub = none ↔ s.pub = none := by
      rw [show u.pub = ((lock .run).realign [d]).pub from hpub, ← Option.isNone_iff_eq_none, hpub', Option.isNone_iff_eq_none]
      rfl
    show (u.bootOn.die d).fwd = _ ∧ u.bootOn.clkgen = _
    refine ⟨?_, ?_⟩
    · rw [(u.bootOn_started (by rw [hu]; exact FwdSt.noConfusion)).1, hu, if_neg FwdSt.noConfusion]
    · rw [u.bootOn_clkgen]
      simp only [hnone, true_and]
      rw [show u.clkgen = s.clkgen from hgen.trans hgen']

end Sys2Proof.Machine
end

section

namespace Sys2Proof.Machine

/-- PLLs that have not locked in time (R71). -/
theorem pllLockTimeout_orphans {s : State} {d : Nat} (hst : (s.die d).fwd.st = .acquire ∨ (s.die d).fwd.st = .adopt)
    (hlock : ((s.die d).fwd.lockW && (s.die d).fwd.lockE) = false) (hby : s.clk > (s.die d).fwd.lockBy) :
    ∃ t, exec (.pllLockTimeout d) s = .next t
      ∧ (t.die d).fwd = { (s.die d).fwd with st := .orphan, lockW := false, lockE := false, assigned := false } ∧ (t.die d).held = true := by
  have hgo : (((s.die d).fwd.st == .acquire || (s.die d).fwd.st == .adopt) && !((s.die d).fwd.lockW && (s.die d).fwd.lockE)
      && decide ((s.die d).fwd.lockBy < s.clk)) = true := by
    rw [hlock, decide_eq_true hby]
    rcases hst with h | h <;> rw [h] <;> rfl
  have horphan : (s.orphan d).die d = (s.die d).orphaned := by rw [s.die_orphan, if_pos rfl]
  have hrest := (s.orphan d).bootOn_started (k := d) (by rw [horphan]; exact FwdSt.noConfusion)
  refine ⟨_, congrArg Host.Outcome.next (if_pos hgo), ?_, ?_⟩
  · rw [hrest.1, horphan]
    rfl
  · rw [hrest.2, horphan]
    exact Die.enterHold_held _

/-- The loss of a parent's clock (R72, R73). -/
theorem parentClockLoss_orphans (s : State) (d : Nat) (cause : LossCause) :
    let x := (s.die d).fwd
    let lost : State := if cause = .edge ∧ x.parent.toNat < 4 then s.onFwd d fun y => { y with down := insertN y.down x.parent.toNat } else s
    ((x.st = .run ∨ x.st = .adopt ∧ cause = .parent) → exec (.parentClockLoss ⟨d, cause⟩) s = .next (lost.orphan d))
      ∧ (x.st = .adopt → cause ≠ .parent → ∃ t, exec (.parentClockLoss ⟨d, cause⟩) s = .next t
          ∧ (t.die d).fwd = { (lost.die d).fwd with lockW := false, lockE := false, lockBy := s.clk + 25000 })
      ∧ (x.st = .orphan → cause ≠ .pll → ∃ t, exec (.parentClockLoss ⟨d, cause⟩) s = .next t
          ∧ (t.die d).fwd = { (lost.die d).fwd with assigned := false }) := by
  intro x lost
  have hexec : exec (.parentClockLoss ⟨d, cause⟩) s = .next (match x.st with
      | .run => lost.orphan d
      | .adopt => if cause = .parent then lost.orphan d else lost.lockFrom d .adopt
      | .orphan => if cause = .pll then lost else lost.onFwd d fun f => { f with assigned := false }
      | _ => lost) := rfl
  have hst : (lost.die d).fwd.st = x.st ∧ lost.clk = s.clk := by
    dsimp only [lost]
    split
    · rw [State.die_onFwd, if_pos rfl]
      exact ⟨rfl, rfl⟩
    · exact ⟨rfl, rfl⟩
  refine ⟨?_, fun h hc => ?_, fun h hc => ?_⟩
  · rintro (h | ⟨h, hc⟩)
    · rw [hexec, h]
    · rw [hexec, h]
      exact congrArg Host.Outcome.next (if_pos hc)
  · refine ⟨lost.lockFrom d .adopt, ?_, ?_⟩
    · rw [hexec, h]
      exact congrArg Host.Outcome.next (if_neg hc)
    · rw [State.die_lockFrom, if_pos rfl]
      show Forwarder.locking _ _ _ = _
      unfold Forwarder.locking
      rw [hst.2, ← h, ← hst.1]
      rfl
  · refine ⟨lost.onFwd d fun f => { f with assigned := false }, ?_, ?_⟩
    · rw [hexec, h]
      exact congrArg Host.Outcome.next (if_neg hc)
    · rw [State.die_onFwd, if_pos rfl]

/-- An orphan (R70, R72, R73). -/
theorem orphan_loses (s : State) (d : Nat) :
    ((s.orphan d).die d).fwd = { (s.die d).fwd with st := .orphan, lockW := false, lockE := false, assigned := false }
      ∧ ((s.orphan d).die d).held = true ∧ ((s.die d).held = false → ((s.orphan d).die d).acc = false)
      ∧ (s.orphan d).agenda = s.agenda ++ ((s.childrenOf d).map fun k => .parentClockLoss ⟨k, .parent⟩)
          ++ (if (s.die d).fwd.hostMode then [] else [.rerootParentAssign []]) := by
  have horphan : (s.orphan d).die d = (s.die d).orphaned := by rw [s.die_orphan, if_pos rfl]
  rw [horphan]
  exact ⟨rfl, Die.enterHold_held _, fun h => Die.enterHold_acc _ h, s.orphan_agenda d⟩

/-- The external reference of a root-capable die changes (R54, R80, R84). -/
theorem externalReference_changes {s : State} {d : Nat} (hcap : rootCapable d = true) :
    exec (.externalReferenceChange d false) s = .next
        (let u := s.onDie d fun y => { y with fwd := { y.fwd with refOk := false } }
         if (s.die d).fwd.parent = 4 then u.send (.parentClockLoss ⟨d, .parent⟩) else u)
      ∧ ∃ t, exec (.externalReferenceChange d true) s = .next t ∧ (t.die d).fwd.refOk = true
        ∧ ∀ k ∈ s.present, (s.die k).stranded = true → (s.die k).fwd.hostMode = false → Instr.rerootParentAssign [] ∈ t.agenda := by
  let u (b : Bool) : State := s.onFwd d fun f => { f with refOk := b }
  have hu (b : Bool) (k : Nat) : (u b).die k = if k = d then { s.die d with fwd := { (s.die d).fwd with refOk := b } } else s.die k := by
    dsimp only [u]
    rw [State.die_onFwd]
  refine ⟨?_, ?_⟩
  · have hexec : exec (.externalReferenceChange d false) s = .next (if !rootCapable d then s
        else if (u false).isRoot d then (u false).send (.parentClockLoss ⟨d, .parent⟩) else u false) := rfl
    have hroot : (u false).isRoot d = s.isRoot d := State.isRoot_congr (by rw [hu, if_pos rfl])
    rw [hexec, hcap, hroot]
    show Host.Outcome.next (if (s.die d).fwd.parent == 4 then _ else _) = _
    simp only [beq_iff_eq]
    rfl
  · let w : State := if (u true).present.any fun k => ((u true).die k).stranded && !((u true).die k).fwd.hostMode
      then (u true).send (.rerootParentAssign []) else u true
    have hexec : exec (.externalReferenceChange d true) s = .next w.adoptReady.bootTree := by
      show Host.Outcome.next (if !rootCapable d then s else w.adoptReady.bootTree) = _
      rw [hcap]
      rfl
    have hw (k : Nat) : w.die k = (u true).die k := by
      dsimp only [w]
      split <;> rfl
    obtain ⟨-, -, href, hoff⟩ := w.adoptReady.boots_bootTree
    refine ⟨_, hexec, ?_, fun k hk hs hh => ?_⟩
    · rw [href d, w.adoptReady_keeps d (fun x => x.fwd.refOk) fun _ _ => rfl, hw, hu, if_pos rfl]
    · have hkept (p : Die → Bool) (h : p { s.die d with fwd := { (s.die d).fwd with refOk := true } } = p (s.die d)) (k : Nat) :
          p ((u true).die k) = p (s.die k) := by
        rw [hu]
        split
        · next e => rw [h, e]
        · rfl
      have hpresent : (u true).present = s.present := State.present_congr (hkept Die.absent rfl)
      have hany : ((u true).present.any fun k => ((u true).die k).stranded && !((u true).die k).fwd.hostMode) = true := by
        rw [List.any_eq_true, hpresent]
        refine ⟨k, hk, ?_⟩
        rw [hkept Die.stranded rfl, hkept (fun x => x.fwd.hostMode) rfl, hs, hh]
        rfl
      have hagenda : w.adoptReady.bootTree.offTree.agenda = w.offTree.agenda := by rw [hoff, w.adoptReady_offTree]
      have hagenda : w.adoptReady.bootTree.agenda = w.agenda := hagenda
      have hsent : w = (u true).send (.rerootParentAssign []) := if_pos hany
      rw [hagenda, hsent]
      exact List.mem_append_right _ (List.mem_singleton_self _)

end Sys2Proof.Machine
end

section

namespace Sys2Proof.Machine

/-- A configuration that is refused (R83). -/
theorem fwdcfgGo_refuses {s : State} {d : Nat} {v : Word} (habs : s.dieAbsent d = false)
    (hfw : s.firmware.failed = false ∨ (s.die d).fwd.st ≠ .off) (hbad : s.cfgRefused d v = true) :
    exec (.fwdcfgGo d v) s = .next (s.onDie d fun y => { y with fwd := { y.fwd with badCfg := true } }) := by
  have hgo : ¬ (s.dieAbsent d || (s.firmware.failed && (s.die d).fwd.st == .off)) = true := by
    rw [habs]
    rcases hfw with h | h
    · simp [h]
    · simp [h]
  exact congrArg Host.Outcome.next (Eq.trans (if_neg hgo) (if_pos hbad))

/-- What a re-rooting gives each orphan without a parent (R54, R77, R80). -/
theorem rerootParentAssign_roles {s : State} (hlosing : s.losing = false) : ∃ t, exec (.rerootParentAssign []) s = .next t
    ∧ ∀ k ∈ s.present, (s.die k).fwd.st = .orphan → (s.die k).fwd.assigned = false →
      let up : Nat := (s.newRoot.map fun root => s.upEdge (s.depths root) root k).getD 7
      (t.die k).fwd.parent = BitVec.ofNat 3 up ∧ (t.die k).stranded = (up == 7) := by
  let all := s.present.filter fun d => (s.die d).fwd.st == .orphan && !(s.die d).fwd.assigned && (([] : List Nat).isEmpty || has [] d)
  let stranded (s : State) : List Nat := s.present.filter fun d => (s.die d).stranded
  let t := match s.newRoot with
    | none => all.foldl State.strand s
    | some root => all.foldl (fun t d => t.adopt (s.depths root) root d) s
  have hall : all.Nodup := s.present_nodup.filter _
  refine ⟨(if stranded t = stranded s then t else t.publishTree).adoptReady, ?_, fun k hk hst has => ?_⟩
  · exact congrArg Host.Outcome.next (if_neg (by rw [hlosing]; exact Bool.false_ne_true))
  · intro up
    have hmem : k ∈ all := by
      refine List.mem_filter.mpr ⟨hk, ?_⟩
      rw [hst, has]
      rfl
    have hrole : (t.die k).role = ((BitVec.ofNat 3 up, up == 7), (s.die k).role.2) := by
      dsimp only [t, up]
      cases hnew : s.newRoot with
      | none => 
        rw [fold_roles (r := fun _ => (7, true)) hall s (fun t d j _ => t.role_strand d j) k, if_pos hmem]
        rfl
      | some root =>
        rw [fold_roles (r := fun d => (BitVec.ofNat 3 (s.upEdge (s.depths root) root d), s.upEdge (s.depths root) root d == 7)) hall s ?_ k,
          if_pos hmem]
        · rfl
        · intro t d j ht
          rw [t.role_adopt, State.upEdge_congr ht]
    have hpublished : ((if stranded t = stranded s then t else t.publishTree).die k).fwd.parent = (t.die k).fwd.parent
        ∧ ((if stranded t = stranded s then t else t.publishTree).die k).stranded = (t.die k).stranded := by
      split
      · exact ⟨rfl, rfl⟩
      · have h := t.sameTree_publishTree []
        exact ⟨congrArg Forwarder.parent (h.fwd k), h.stranded k⟩
    rw [State.adoptReady_keeps _ k (fun x => x.fwd.parent) fun _ _ => rfl, State.adoptReady_keeps _ k Die.stranded fun _ _ => rfl,
      hpublished.1, hpublished.2]
    exact ⟨congrArg (·.1.1) hrole, congrArg (·.1.2) hrole⟩

/-! ### Host-assisted re-rooting (R77, R81) -/

/-- An orphan whose parent edge works has the parent that the control node gave it. -/
def State.given (s : State) (d : Nat) : Bool :=
  (s.die d).fwd.st == .orphan && (s.die d).fwd.parent != 7 && ((s.die d).fwd.parent == 4 || s.liveEdge d (s.die d).fwd.parent.toNat)

def State.giveOne (s : State) (d : Nat) : State := if s.given d then s.takeParent d (s.die d).fwd.parent else s

/-- A die that has the parent it was given. -/
def Die.took (x : Die) : Die := { x with stranded := false, fwd := { x.fwd with assigned := true, asked := none } }

theorem State.die_giveOne (s : State) (d k : Nat) : (s.giveOne d).die k = if k = d ∧ s.given d = true then (s.die k).took else s.die k := by
  unfold State.giveOne
  by_cases h : s.given d = true
  · rw [if_pos h]
    unfold State.takeParent
    rw [s.die_onDie_eq d k _ (s.die_num d)]
    by_cases hk : k = d
    · rw [if_pos hk, if_pos ⟨hk, h⟩, hk]
      rfl
    · rw [if_neg hk, if_neg fun h => hk h.1]
  · rw [if_neg h, if_neg fun h' => h h'.2]

theorem State.giveOne_wires (s : State) (d k : Nat) : ((s.giveOne d).die k).wires = (s.die k).wires := by
  rw [s.die_giveOne]
  split <;> rfl

theorem State.giveOne_given (s : State) (d k : Nat) : (s.giveOne d).given k = s.given k := by
  have hw := s.giveOne_wires d
  have hst : ((s.giveOne d).die k).fwd.st = (s.die k).fwd.st ∧ ((s.giveOne d).die k).fwd.parent = (s.die k).fwd.parent := by
    rw [s.die_giveOne]
    split <;> exact ⟨rfl, rfl⟩
  unfold State.given
  rw [hst.1, hst.2, State.liveEdge_congr (fun j => congrArg (·.1) (hw j)) fun j => congrArg (·.2.1) (hw j)]

theorem Die.took_took (x : Die) : x.took.took = x.took := rfl

theorem State.die_giveAll (ls : List Nat) (s : State) (k : Nat) :
    (ls.foldl State.giveOne s).die k = if k ∈ ls ∧ s.given k = true then (s.die k).took else s.die k := by
  induction ls generalizing s with
  | nil => rfl
  | cons d ls ih =>
    rw [List.foldl_cons, ih, s.giveOne_given, s.die_giveOne]
    by_cases hk : k = d
    · subst hk
      by_cases hg : s.given k = true
      · simp [hg, Die.took_took]
      · simp [hg]
    · simp [hk]

/-- The orphans to which the control node gave a parent (R77, R81). -/
theorem fwdcmdDone_adopts {s : State} {d : Nat} {v : Word} (hgo : v.getLsbD 0 = true) (hhost : (s.die d).fwd.hostMode = true) :
    ∃ t, exec (.fwdcmdDone d v) s = .next t ∧ ∀ k ∈ s.present,
      let f := (s.die k).fwd
      f.st = .orphan → f.parent ≠ 7 → (f.parent = 4 ∨ s.liveEdge k f.parent.toNat = true) →
      (t.die k).stranded = false ∧ (t.die k).fwd.st = if s.hasReference k then .adopt else .orphan := by
  let u := s.present.foldl State.giveOne s
  have hu (k : Nat) : u.die k = if k ∈ s.present ∧ s.given k = true then (s.die k).took else s.die k := State.die_giveAll s.present s k
  have hwires (k : Nat) : (u.die k).wires = (s.die k).wires := by
    rw [hu]
    split <;> rfl
  refine ⟨u.adoptReady, ?_, fun k hk => ?_⟩
  · exact congrArg Host.Outcome.next (if_neg (by rw [hgo, hhost]; exact Bool.false_ne_true))
  · intro f hst hparent hedge
    have hgiven : s.given k = true := by
      unfold State.given
      simp only [Bool.and_eq_true, Bool.or_eq_true, beq_iff_eq, bne_iff_ne]
      exact ⟨⟨hst, hparent⟩, hedge⟩
    have hk' : k ∈ u.present := by
      rw [State.present_congr fun j => congrArg (·.1) (hwires j)]
      exact hk
    have hdie : u.die k = (s.die k).took := (hu k).trans (if_pos ⟨hk, hgiven⟩)
    have hadopts : u.adopts k = s.hasReference k := by
      unfold State.adopts
      rw [hdie, State.hasReference_congr hwires, show (s.die k).took.fwd.st = .orphan from hst]
      rfl
    rw [u.die_adoptReady, hadopts, hdie]
    cases s.hasReference k with
    | true =>
      rw [if_pos ⟨hk', rfl⟩]
      exact ⟨rfl, rfl⟩
    | false =>
      rw [if_neg fun h => Bool.false_ne_true h.2]
      exact ⟨rfl, hst⟩

/-! ### The resume (R77 to R79) -/

/-- A die that resumes. -/
def Die.resumed (x : Die) : Die := { x with held := false, fwd := { x.fwd with st := .run, assigned := false, moved := false } }

theorem fold_resume (ls : List Nat) (s : State) (k : Nat) :
    (ls.foldl (fun s d => s.onDie d Die.resumed) s).die k = if k ∈ ls then (s.die k).resumed else s.die k := by
  induction ls generalizing s with
  | nil => rfl
  | cons d ls ih =>
    rw [List.foldl_cons, ih, s.die_onDie_eq d k _ (s.die_num d)]
    by_cases hk : k = d
    · subst hk
      simp [Die.resumed]
    · simp [hk]

theorem State.sameTree_send_all {α : Type} (l : List α) (f : α → Instr) (s : State) : s.sameTree (l.foldl (fun s x => s.send (f x)) s) :=
  .foldl l (fun t x => .of_dies (t := t.send (f x)) rfl rfl rfl) s

theorem fold_resume_clkgen (ls : List Nat) (s : State) : (ls.foldl (fun s d => s.onDie d Die.resumed) s).clkgen = s.clkgen :=
  List.foldlRecOn (motive := fun t : State => t.clkgen = s.clkgen) ls _ rfl fun _ ht _ _ => ht

/-- The resume (R77, R78). -/
theorem rerootResume_resumes {s : State} (hcan : s.canResume = true) : ∃ t, exec .rerootResume s = .next t ∧ t.clkgen = s.clkgen + 1
    ∧ ∀ k ∈ s.resuming, (t.die k).held = false ∧ (t.die k).fwd.st = .run := by
  let ds := s.resuming
  let relocked := ds.filter fun d => (s.die d).fwd.st == .adopt
  let moved := ds.filter fun d => (s.die d).fwd.moved
  let u := ds.foldl (fun s d => s.onDie d Die.resumed) { s with clkgen := s.clkgen + 1 }
  let v := ((u.publishTree relocked).realign (relocked ++ moved) ds).judge ds
  let w := ((v.grids.map fun (g : Grid) => g.id.lead).eraseDups).foldl (fun s d => s.send (.queueDepart d)) v
  let x := ds.foldl (fun s d => s.send (.teamPlacement d)) w
  have htree : u.sameTree x :=
    ((((u.sameTree_publishTree relocked).trans (State.sameTree_realign _ (relocked ++ moved) ds)).trans (State.sameTree_judge _ ds)).trans
      (State.sameTree_send_all _ _ v)).trans (State.sameTree_send_all _ _ w)
  obtain ⟨hfwd, hheld, -, hoff⟩ := x.boots_bootTree
  refine ⟨x.bootTree, ?_, ?_, fun k hk => ?_⟩
  · exact congrArg Host.Outcome.next (if_neg (by rw [hcan]; exact Bool.false_ne_true))
  · rw [(State.offTree_generation hoff).1, htree.2.1]
    exact fold_resume_clkgen ds _
  · have hdie : u.die k = (s.die k).resumed := (fold_resume ds _ k).trans (if_pos hk)
    have hrun : (x.die k).fwd.st = .run := by rw [htree.fwd, hdie]; rfl
    rw [hheld, hfwd k (by rw [hrun]; exact FwdSt.noConfusion), hrun, htree.held, hdie]
    exact ⟨rfl, rfl⟩

end Sys2Proof.Machine
end

section

namespace Sys2Proof.Machine

/-! ### Rate, slew and step (R62, R81) -/

/-- Writes to the rate, slew and step at the root (R81). -/
theorem regionWrites_take {s : State} {d : Nat} (v : DWord) (hroot : s.isRoot d = true) (habs : s.dieAbsent d = false) :
    exec (.gtcrateWrite d v) s = .next ({ s with ptp := { s.ptp with rateWord := v } }.mapRegions fun r => { r with nextRate := some v })
      ∧ exec (.gtcslewWrite d v) s = .next ({ s with ptp := { s.ptp with slew := v.toInt * fracUnit } }.mapRegions fun r => { r with adj := 0 })
      ∧ exec (.gtcstepWrite d v) s = .next (s.mapRegions fun r => { r with step := v }) := by
  have hat : s.atRoot d = true := by
    unfold State.atRoot
    rw [hroot, habs]
    rfl
  exact ⟨congrArg Host.Outcome.next (if_pos hat), congrArg Host.Outcome.next (if_pos hat), congrArg Host.Outcome.next (if_pos hat)⟩

/-- At another die they do nothing. -/
theorem regionWrites_elsewhere {s : State} {d : Nat} (v : DWord) (hroot : s.isRoot d = false) :
    ∀ i ∈ [Instr.gtcrateWrite d v, .gtcslewWrite d v, .gtcstepWrite d v], exec i s = .next s := by
  have hat : ¬ s.atRoot d = true := by
    unfold State.atRoot
    rw [hroot]
    exact Bool.false_ne_true
  simp only [List.mem_cons, List.not_mem_nil, or_false, forall_eq_or_imp, forall_eq]
  exact ⟨congrArg Host.Outcome.next (if_neg hat), congrArg Host.Outcome.next (if_neg hat), congrArg Host.Outcome.next (if_neg hat)⟩

theorem Region.atPoint_of_acc {r : Region} (h : r.acc.toNat / 2 ^ 48 % 2 ^ 20 = 0) : r.atPoint = true := by
  have hgtc : r.gtc = r.acc.toNat / 2 ^ 32 := rfl
  unfold Region.atPoint
  rw [hgtc, Nat.div_div_eq_div_mul, ← Nat.pow_add]
  exact beq_iff_eq.mpr h

/-- A region at its point (R62, R81). -/
theorem pointEvents_act {s : State} {d : Nat} {e : Bool} (hpoint : (s.region d e).acc.toNat / 2 ^ 48 % 2 ^ 20 = 0) :
    (∀ w, (s.region d e).nextRate = some w →
        exec (.rateWordSwitch d e) s = .next (s.onRegion d e fun r => { r with rate := w, nextRate := none }))
      ∧ (let u := s.onRegion d e fun r => { r with acc := r.acc + BitVec.ofNat 96 (r.step.toNat * 2 ^ 32), step := 0 }
         exec (.gtcstepApply d e) s = .next (if u.stopped d then u
          else { u with agenda := u.agenda ++ u.dueAt fun c => CoreId.die c == d && CoreId.east c == e })) := by
  have hat := Region.atPoint_of_acc hpoint
  refine ⟨fun w hw => ?_, ?_⟩
  · have hexec : exec (.rateWordSwitch d e) s = .next (match (s.region d e).nextRate with
        | some w => if (s.region d e).atPoint then s.onRegion d e fun r => { r with rate := w, nextRate := none } else s
        | none => s) := rfl
    rw [hexec, hw]
    exact congrArg Host.Outcome.next (if_pos hat)
  · intro u
    have hsend (l : List Instr) : l.foldl State.send u = { u with agenda := u.agenda ++ l } :=
      (foldl_send l id u).trans (congrArg (fun a => ({ u with agenda := u.agenda ++ a } : State)) (List.map_id l))
    rw [← hsend]
    exact congrArg Host.Outcome.next (if_pos hat)

/-- The end of a slew (R81). -/
theorem slewComplete_rest {s : State} (hle : s.ptp.slew ≤ slewStep) (hge : -slewStep ≤ s.ptp.slew) :
    ∃ t, exec .slewComplete s = .next t ∧ t.ptp = { s.ptp with slew := 0 }
      ∧ t.dies = s.dies.map fun x => if x.stopped then x else
          { x with west := { x.west with adj := s.ptp.slew }, east := { x.east with adj := s.ptp.slew } } :=
  ⟨_, congrArg Host.Outcome.next (if_pos ⟨hle, hge⟩), rfl, rfl⟩

/-! ### The servo (R85 to R87) -/

/-- What `execPtpFrameReceive` does once the slave port is known. -/
def State.frameHeard (s : State) (f : PtpFrame) : State :=
  if s.ptp.slave != some f.port then s
  else match f.kind with
    | .announce => { s with ptp := { s.ptp with missed := 0, heardAt := s.clk } }
    | .sync =>
      let (t, s) := s.drawStamp f.port
      { s with ptp := { s.ptp with t1 := none, t2 := some (s.corrected f.port t) } }
    | .followUp => s.followUp f.time
    | .delayResp =>
      let p := { s.ptp with t4 := some f.time }
      { s with ptp := { p with delay := p.pathDelay.orElse fun _ => p.delay } }
    | _ => s

theorem exec_ptpFrameReceive (s : State) (f : PtpFrame) : exec (.ptpFrameReceive f) s = .next
    (if f.oneStep || f.domain != s.ptp.domain || f.kind == .other then s
      else State.frameHeard (if (f.kind == .announce || f.kind == .sync || f.kind == .followUp) && s.ptp.slave.isNone then
          { s with ptp := { s.ptp with slave := some f.port, st := .acquiring, missed := 0, good := 0, heardAt := s.clk } }
        else s) f) := rfl

/-- A frame of this module's domain at the slave port. -/
theorem exec_ptpFrame_slave {s : State} {f : PtpFrame} (hone : f.oneStep = false) (hdom : f.domain = s.ptp.domain) (hkind : f.kind ≠ .other)
    (hslave : s.ptp.slave = some f.port) : exec (.ptpFrameReceive f) s = .next (s.frameHeard f) := by
  have hgo : ¬ (f.oneStep || f.domain != s.ptp.domain || f.kind == .other) = true := by
    simp [hone, hdom, hkind]
  have hheard : ¬ ((f.kind == .announce || f.kind == .sync || f.kind == .followUp) && s.ptp.slave.isNone) = true := by
    rw [hslave]
    simp
  rw [exec_ptpFrameReceive, if_neg hgo, if_neg hheard]

theorem State.frameHeard_slave {s : State} {f : PtpFrame} (hslave : s.ptp.slave = some f.port) : s.frameHeard f = match f.kind with
    | .announce => { s with ptp := { s.ptp with missed := 0, heardAt := s.clk } }
    | .sync =>
      { (s.drawStamp f.port).2 with ptp := { s.ptp with t1 := none, t2 := some (s.corrected f.port (s.drawStamp f.port).1) } }
    | .followUp => s.followUp f.time
    | .delayResp =>
      { s with ptp := { s.ptp with t4 := some f.time, delay := ({ s.ptp with t4 := some f.time } : Ptp).pathDelay.orElse fun _ => s.ptp.delay } }
    | _ => s := by
  unfold State.frameHeard
  rw [if_neg (by rw [hslave]; simp)]
  rfl

/-- The first master heard (R85). -/
theorem ptpFrameReceive_first {s : State} {f : PtpFrame} (hone : f.oneStep = false) (hdom : f.domain = s.ptp.domain)
    (hkind : f.kind = .announce) (hslave : s.ptp.slave = none) : exec (.ptpFrameReceive f) s = .next
      { s with ptp := { s.ptp with slave := some f.port, st := .acquiring, missed := 0, good := 0, heardAt := s.clk } } := by
  have hgo : ¬ (f.oneStep || f.domain != s.ptp.domain || f.kind == .other) = true := by
    simp [hone, hdom, hkind]
  have hheard : ((f.kind == .announce || f.kind == .sync || f.kind == .followUp) && s.ptp.slave.isNone) = true := by
    rw [hslave, hkind]
    rfl
  rw [exec_ptpFrameReceive, if_neg hgo, if_pos hheard, State.frameHeard_slave rfl, hkind]

/-- What a stamp may be (R85). -/
theorem State.drawStamp_bounds (s : State) (port : Nat) :
    ∃ k : Int, -52428 ≤ k ∧ k ≤ 52428 ∧ (s.drawStamp port).1 = (s.portTime port : Int) + k := by
  refine ⟨((s.drawNat 104857).1 : Int) - 52428, by omega, ?_, rfl⟩
  have h : (s.drawNat 104857).1 < 104857 := Nat.mod_lt _ (by decide)
  omega

/-- What the servo judges its master by. -/
def Ptp.verdict (p : Ptp) : Int × Nat × PtpSt := (p.est, p.good, p.st)

theorem State.correct_verdict (s : State) (offset : Int) : (s.correct offset).ptp.verdict = s.ptp.verdict := by
  unfold State.correct
  split <;> rfl

theorem State.servoRate_verdict (s : State) : s.servoRate.ptp.verdict = s.ptp.verdict := by
  unfold State.servoRate
  dsimp only
  split <;> rfl

theorem State.setAcc_ptp (s : State) (on : Bool) : (s.setAcc on).ptp = s.ptp := rfl

/-- The run of good estimates after another one (R87). -/
def Ptp.goodAfter (p : Ptp) (offset : Int) : Nat := if offset.natAbs ≤ (nanos 50).natAbs then p.good + 1 else 0

/-- The servo's state after an estimate (R87). -/
def Ptp.stAfter (p : Ptp) (offset : Int) : PtpSt :=
  if 16 ≤ p.goodAfter offset then .locked
  else if decide ((nanos 200).natAbs < offset.natAbs) || p.st != .locked then .acquiring else .locked

theorem State.servo_verdict (s : State) (offset : Int) :
    (s.servo offset).ptp.verdict = (offset, s.ptp.goodAfter offset, s.ptp.stAfter offset) := by
  let u : State := { s with ptp := { s.ptp with est := offset, good := s.ptp.goodAfter offset, st := s.ptp.stAfter offset } }
  let v : State := if u.hostServo then u else (u.correct offset).servoRate
  have hservo : s.servo offset = if 16 ≤ s.ptp.goodAfter offset then v.setAcc true
      else if decide ((nanos 200).natAbs < offset.natAbs) then v.setAcc false else v := rfl
  have hv : v.ptp.verdict = u.ptp.verdict := by
    dsimp only [v]
    split
    · rfl
    · rw [State.servoRate_verdict, State.correct_verdict]
  rw [hservo]
  split
  · exact hv
  · split <;> exact hv

/-- What the servo makes of an estimate (R86, R87). -/
theorem State.servo_ptp (s : State) (offset : Int) : (s.servo offset).ptp.est = offset
    ∧ (s.servo offset).ptp.good = (if offset.natAbs ≤ 50 * 65536 then s.ptp.good + 1 else 0)
    ∧ (s.servo offset).ptp.st = (if 16 ≤ (s.servo offset).ptp.good then .locked
        else if 200 * 65536 < offset.natAbs ∨ s.ptp.st ≠ .locked then .acquiring else .locked) := by
  have h := s.servo_verdict offset
  have hgood : (s.servo offset).ptp.good = s.ptp.goodAfter offset := congrArg (·.2.1) h
  refine ⟨congrArg (·.1) h, hgood, (congrArg (·.2.2) h).trans ?_⟩
  rw [hgood]
  unfold Ptp.stAfter
  simp only [Bool.or_eq_true, decide_eq_true_eq, bne_iff_ne]
  rfl

/-- A follow-up at the slave port (R85, R86). -/
theorem followUp_estimates {s : State} (time : Int) {a delay : Int} (ht2 : s.ptp.t2 = some a) (hdelay : s.ptp.delay = some delay) :
    s.followUp time = ({ s with ptp := { s.ptp with t1 := some time } } : State).servo (a - time - delay) := by
  have h : s.followUp time = match s.ptp.t2, s.ptp.delay with
    | some t2, some delay => ({ s with ptp := { s.ptp with t1 := some time } } : State).servo (t2 - time - delay)
    | _, _ => { s with ptp := { s.ptp with t1 := some time } } := rfl
  rw [h, ht2, hdelay]

/-- The master is lost (R87). -/
theorem announceTimeout_loses {s : State} (hslave : s.ptp.slave ≠ none) (hlate : s.clk > s.ptp.heardAt + 3750000000) :
    exec .announceTimeout s = .next
        { s with ptp := { s.ptp with
                   st := .holdover, slave := none, good := 0, missed := 4, t1 := none, t2 := none, t3 := none, t4 := none, delay := none }
                 dies := s.dies.map fun x => if x.stopped then x else { x with acc := false } } := by
  have hgo : ¬ (s.ptp.slave.isNone || decide (s.clk ≤ s.ptp.heardAt + announceTime)) = true := by
    have hannounce : announceTime = 3750000000 := rfl
    rw [hannounce]
    simp [hslave, hlate]
  exact congrArg Host.Outcome.next (if_neg hgo)

/-- Whether a port sends a kind of frame, the slave port or another (R85). -/
def leavesPort (kind : PtpKind) (slave : Bool) : Bool := match kind with
  | .delayReq => slave
  | .sync | .followUp | .announce | .delayResp => !slave
  | .other => false

/-- What a port sends (R85). -/
theorem ptpMessageTransmit_sends {s : State} {port : Nat} {kind : PtpKind}
    (hkind : kind = .delayReq ∧ s.ptp.slave = some port ∨ kind ∈ [PtpKind.sync, .followUp, .announce, .delayResp] ∧ s.ptp.slave ≠ some port) :
    exec (.ptpMessageTransmit port kind) s = .next { (s.drawStamp port).2 with ptp := { s.ptp with
      t3 := if kind = .delayReq then some (s.corrected port (s.drawStamp port).1) else s.ptp.t3
      sent := s.ptp.sent ++ [(port, kind, (s.drawStamp port).1)] } } := by
  have hgo : leavesPort kind (s.ptp.slave == some port) = true := by
    rcases hkind with ⟨rfl, h⟩ | ⟨hk, h⟩
    · simp [leavesPort, h]
    · simp only [List.mem_cons, List.not_mem_nil, or_false] at hk
      rcases hk with rfl | rfl | rfl | rfl
      all_goals simp [leavesPort, h]
  exact congrArg Host.Outcome.next (if_pos hgo)

/-- Settles O42: each clause by what its step does to the forwarders, the regions or the servo; a re-rooting by the role that its pass over
the orphans gives each of them. -/
theorem clocksAndTime : Obligations.ClocksAndTime := by
  refine ⟨fun s d v => ?_, fun s d v e f port => ?_⟩
  · obtain ⟨hoff, hrun, hmoved⟩ := applyCfg_effect s d v
    refine ⟨powerOn_boots s, fun habs hfw => ⟨fwdcfgGo_refuses habs hfw, fun hok => ?_⟩, pllLock_locks, pllLockTimeout_orphans,
      parentClockLoss_orphans s d, orphan_loses s d, externalReference_changes, fun hlosing => ?_, fwdcmdDone_adopts, rerootResume_resumes⟩
    · exact ⟨_, fwdcfgGo_applies habs hfw hok, ⟨hoff, hrun, hmoved⟩, fun hv k => s.applyCfg_root hv⟩
    · obtain ⟨t, hexec, hrole⟩ := rerootParentAssign_roles hlosing
      refine ⟨t, hexec, fun k hk hst has => ?_⟩
      have h := hrole k hk hst has
      revert h
      cases s.newRoot with
      | none => exact id
      | some root => exact id
  · have hkinds {k : PtpKind} (hk : f.kind = k) (hne : k ≠ .other) : f.kind ≠ .other := hk ▸ hne
    refine ⟨regionWrites_take v, regionWrites_elsewhere v, pointEvents_act, slewComplete_rest, fun hone hdom => ⟨?_, fun hslave => ⟨?_, ?_, ?_, ?_⟩⟩,
      announceTimeout_loses, fun kind hkind => ?_⟩
    · exact fun hk hs => ptpFrameReceive_first hone hdom hk hs
    · intro hk
      rw [exec_ptpFrame_slave hone hdom (hkinds hk PtpKind.noConfusion) hslave, State.frameHeard_slave hslave, hk]
    · intro hk hport
      subst hport
      refine ⟨_, _, exec_ptpFrame_slave hone hdom (hkinds hk PtpKind.noConfusion) hslave, s.drawStamp_bounds f.port, ?_⟩
      rw [State.frameHeard_slave hslave, hk]
      rfl
    · intro hk a delay ht2 hdelay offset
      refine ⟨_, exec_ptpFrame_slave hone hdom (hkinds hk PtpKind.noConfusion) hslave, ?_⟩
      rw [State.frameHeard_slave hslave, hk]
      dsimp only
      rw [followUp_estimates f.time ht2 hdelay]
      exact State.servo_ptp _ offset
    · intro hk a b c ht1 ht2 ht3
      rw [exec_ptpFrame_slave hone hdom (hkinds hk PtpKind.noConfusion) hslave, State.frameHeard_slave hslave, hk]
      have hdelay : ({ s.ptp with t4 := some f.time } : Ptp).pathDelay = some (((b - a) + (f.time - c)) / 2) := by
        unfold Ptp.pathDelay
        dsimp only
        rw [ht1, ht2, ht3]
      rw [hdelay]
      rfl
    · exact ⟨_, _, ptpMessageTransmit_sends hkind, s.drawStamp_bounds port, rfl⟩

end Sys2Proof.Machine
end


section
/-! PROOFS. What ends a wait, and who issues next. -/

namespace Sys2Proof.Machine

/-- An event that looks for its group acts on it where it is. -/
theorem groupDoes.of_atGroup {s : State} {i : Instr} {c : CoreId} {g : GroupId} {f k : State → State} (hhere : s.groupHere c g)
    (hexec : exec i s = .next ((s.focusCore c).atGroup g k)) (hf : k (s.seen c g) = f (s.seen c g)) : groupDoes s i c g f := by
  unfold groupDoes
  rw [hexec, ← hf]
  exact congrArg Host.Outcome.next (if_pos hhere)

/-- What a message does at a die that has taken its epoch (R299). -/
theorem State.onTime_taken {s : State} {d : Nat} {t : Stamp} (h : s.early d t = false) (m : Instr) (k : State → State) :
    s.onTime d t m k = k s := if_neg (by rw [h]; exact Bool.false_ne_true)

/-- The value that reaches a group that waits for a semaphore (R596, R597). -/
theorem State.semCheck_waiting {s : State} {a : Nat} {target : BitVec 64} {limit : Option (BitVec 64)} {done : Bool} {ref : Nat} {late : Bool}
    (hw : s.grp.waiting?.map Wait.what = some (.sem a target limit done ref late)) (value : BitVec 64) (wts : Stamp) :
    s.semCheck ref value wts =
      if target ≤ value then
        ((((s.unregister ref).raiseNow (wts.read s.ep)).raiseHorizon (wts.read s.ep)).acquire .panel).wake
      else if limit.any (fun d => decide (d.toNat ≤ s.gtcOf s.core.id)) then (s.unregister ref).trapWaiters { kind := 0x0E }
      else s.onGrp fun g => { g with wait := g.wait.map Wait.replied, held := g.held.map Wait.replied } := by
  obtain ⟨⟨_, pc, lanes⟩, hwait, rfl⟩ := Option.map_eq_some_iff.mp hw
  have hsem : s.grp.semWait ref = some (target, limit) := by
    unfold Group.semWait
    rw [hwait]
    exact if_pos rfl
  unfold State.semCheck
  rw [hsem]

theorem past_iff (s : State) (limit : Option (BitVec 64)) :
    (limit.any fun d => decide (d.toNat ≤ s.gtcOf s.core.id)) = true ↔ ∃ d : BitVec 64, limit = some d ∧ d.toNat ≤ s.gtcOf s.core.id := by
  cases limit <;> simp

/-- SLEEP and WAITT (R88, R601). -/
theorem sleepDone_wakes {s : State} {c : CoreId} {g : GroupId} (hhere : s.groupHere c g)
    (hw : (s.seen c g).grp.waiting?.map Wait.what = some (.sleep 0)) : groupDoes s (.sleepDone c g) c g State.wake := by
  obtain ⟨⟨_, pc, lanes⟩, hwait, rfl⟩ := Option.map_eq_some_iff.mp hw
  refine .of_atGroup (k := fun s => match s.grp.waiting? with
    | some ⟨.sleep 0, _, _⟩ => s.wake
    | _ => s) hhere rfl ?_
  rw [hwait]
  rfl

theorem waittDeadline_wakes {s : State} {c : CoreId} {g : GroupId} {t : BitVec 64} (hhere : s.groupHere c g)
    (hw : (s.seen c g).grp.waiting?.map Wait.what = some (.deadline t)) (hdue : t.toNat ≤ (s.seen c g).gtcOf (s.seen c g).core.id) :
    groupDoes s (.waittDeadline g c) c g State.wake := by
  obtain ⟨⟨_, pc, lanes⟩, hwait, rfl⟩ := Option.map_eq_some_iff.mp hw
  refine .of_atGroup (k := fun s => match s.grp.waiting? with
    | some ⟨.deadline t, _, _⟩ => if t.toNat ≤ s.gtcOf s.core.id then s.wake else s
    | _ => s) hhere rfl ?_
  rw [hwait]
  exact if_pos hdue

/-- SEMWAIT_TIMEOUT (R75, R597). -/
theorem semwaitTimeout_expires {s : State} {c : CoreId} {g : GroupId} {a : Nat} {target : BitVec 64} {limit : Option (BitVec 64)} {done : Bool}
    {ref : Nat} {late : Bool} (hhere : s.groupHere c g)
    (hw : (s.seen c g).grp.waiting?.map Wait.what = some (.sem a target limit done ref late))
    (hpast : ∃ d : BitVec 64, limit = some d ∧ d.toNat ≤ (s.seen c g).gtcOf (s.seen c g).core.id) (hlate : late = false)
    (hhome : a = holeAddr ∨ ((s.seen c g).die (paDie a)).held = false) :
    groupDoes s (.semwaitTimeout c g) c g fun s => (s.unregister ref).trapWaiters { kind := 0x0E } := by
  obtain ⟨⟨_, pc, lanes⟩, hwait, rfl⟩ := Option.map_eq_some_iff.mp hw
  obtain ⟨d, rfl, hd⟩ := hpast
  subst hlate
  have hheld : ¬ (false || (a != holeAddr && ((s.seen c g).die (paDie a)).held)) = true := by
    rcases hhome with h | h <;> simp [h]
  refine .of_atGroup (k := fun s => match s.grp.waiting? with
    | some ⟨.sem pa _ (some d) _ ref late, _, _⟩ =>
      if late || (pa != holeAddr && (s.die (paDie pa)).held) then s
      else if d.toNat ≤ s.gtcOf s.core.id then (s.unregister ref).trapWaiters { kind := 0x0E } else s
    | _ => s) hhere rfl ?_
  rw [hwait]
  exact Eq.trans (if_neg hheld) (if_pos hd)

/-- SEMWAIT_READ_REPLY and SEMAPHORE_NOTICE at a group (R416, R596). -/
theorem semNotices_check {s : State} {m : SemNotice} (hlaunch : m.launch = none) (hon : s.early (CoreId.die m.core) m.wts = false) :
    ∀ i ∈ [Instr.semwaitReadReply, .semaphoreNotice], exec (i m) s = .next
      ((s.focusCore m.core).atGroup m.group fun s => s.semCheck m.ref m.value m.wts) := by
  simp only [List.mem_cons, List.not_mem_nil, or_false, forall_eq_or_imp, forall_eq]
  refine ⟨congrArg Host.Outcome.next (State.onTime_taken hon _ _), congrArg Host.Outcome.next ((State.onTime_taken hon _ _).trans ?_)⟩
  rw [hlaunch]

/-- A value that arrives at a group that waits for a semaphore (R596, R597). -/
theorem semValue_meets {s : State} {c : CoreId} {g : GroupId} {a : Nat} {target : BitVec 64} {limit : Option (BitVec 64)} {done : Bool}
    {ref : Nat} {late : Bool} (hhere : s.groupHere c g)
    (hw : (s.seen c g).grp.waiting?.map Wait.what = some (.sem a target limit done ref late)) {i : SemNotice → Instr}
    (hi : i ∈ [Instr.semwaitReadReply, .semaphoreNotice]) {m : SemNotice} (hcore : m.core = c) (hgroup : m.group = g) (href : m.ref = ref)
    (hlaunch : m.launch = none) (hon : s.early (CoreId.die c) m.wts = false) :
    let s1 := s.seen c g
    let t := m.wts.read s1.ep
    let past : Prop := ∃ d : BitVec 64, limit = some d ∧ d.toNat ≤ s1.gtcOf s1.core.id
    (target ≤ m.value → groupDoes s (i m) c g fun _ => ((((s1.unregister ref).raiseNow t).raiseHorizon t).acquire .panel).wake)
      ∧ (m.value < target → past → groupDoes s (i m) c g fun s => (s.unregister ref).trapWaiters { kind := 0x0E })
      ∧ (m.value < target → ¬ past → groupDoes s (i m) c g fun s => s.onGrp fun g =>
          { g with wait := g.wait.map Wait.replied, held := g.held.map Wait.replied }) := by
  subst hcore hgroup href
  have hexec := semNotices_check hlaunch hon i hi
  have hcheck := State.semCheck_waiting hw m.value m.wts
  refine ⟨fun h => .of_atGroup hhere hexec (hcheck.trans (if_pos h)), fun h hpast => .of_atGroup hhere hexec (hcheck.trans ?_),
    fun h hpast => .of_atGroup hhere hexec (hcheck.trans ?_)⟩
  · rw [if_neg (BitVec.not_le.mpr h), if_pos ((past_iff _ _).mpr hpast)]
  · rw [if_neg (BitVec.not_le.mpr h), if_neg (mt (past_iff _ _).mp hpast)]

/-- BARWAIT_REPLY (R497). -/
theorem barwaitReply_wakes {s : State} {c : CoreId} {g : GroupId} {m : ArriveAns} (hhere : s.groupHere c g) (hdst : m.dst = c)
    (hgroup : m.group = g) (hhome : s.followTeam g.team c (fun k => .barwaitReply { m with dst := k }) = none)
    (hwait : ∃ p r, (s.seen c g).grp.waiting?.map Wait.what = some (.barrier m.obj p (some r))) (hgood : m.detail = 0) :
    groupDoes s (.barwaitReply m) c g fun s => (s.acquire (if m.forward then .panel else .core)).wake := by
  subst hdst hgroup
  obtain ⟨p, r, hw⟩ := hwait
  obtain ⟨⟨_, pc, lanes⟩, hwait, rfl⟩ := Option.map_eq_some_iff.mp hw
  let act (s : State) : State :=
    if !(s.grp.waiting?.any fun w => match w.what with
        | .barrier a _ (some _) => a == m.obj
        | _ => false) then s
    else if m.detail = 0 then (s.acquire (if m.forward then .panel else .core)).wake
    else s.trapWaiters (arriveTrap m.detail m.obj)
  have hexec : exec (.barwaitReply m) s = .next (match s.followTeam m.group.team m.dst fun k => .barwaitReply { m with dst := k } with
      | some s => s
      | none => (s.focusCore m.dst).atGroup m.group act) := rfl
  refine .of_atGroup (k := act) hhere (by rw [hexec, hhome]) ?_
  dsimp only [act]
  rw [hwait]
  refine Eq.trans (if_neg ?_) (if_pos hgood)
  simp

/-- REGROUP_JOIN (R114). -/
theorem regroupJoin_joins {s : State} {c : CoreId} {g : GroupId} (hhere : s.groupHere c g) (hst : (s.seen c g).grp.gst = .waiting)
    (hw : (s.seen c g).grp.wait.map Wait.what = some .rendezvous) (hloads : (s.seen c g).grp.loads = 0)
    (hstores : (s.seen c g).grp.stores = 0) :
    groupDoes s (.regroupJoin c g) c g fun s => (s.onGrp fun g => { g with joined := true }).tryMeet s.grp.role := by
  obtain ⟨w, hwait, hwhat⟩ := Option.map_eq_some_iff.mp hw
  have hexec : exec (.regroupJoin c g) s = .next ((s.focusCore c).atGroup g fun s =>
    if s.grp.gst == .waiting && (s.grp.wait.any fun w => w.what == .rendezvous) && s.grp.loads == 0 && s.grp.stores == 0 then
      (s.onGrp fun g => { g with joined := true }).tryMeet s.grp.role
    else s) := rfl
  refine .of_atGroup hhere hexec ?_
  have hjoins : ((s.seen c g).grp.gst == .waiting && ((s.seen c g).grp.wait.any fun w => w.what == .rendezvous)
      && (s.seen c g).grp.loads == 0 && (s.seen c g).grp.stores == 0) = true := by
    rw [hst, hwait, hloads, hstores]
    simp [hwhat]
  exact if_pos hjoins

/-- ISSUE_GRANT (R74, R96, R426). -/
theorem issueGrant_grants {s : State} {c : CoreId} {r : Ready} (hrun : s.stopped (CoreId.die c) = false) (hslot : (s.focusCore c).core.slot = none)
    (hret : (s.focusCore c).core.retained = false) (hwin : (s.focusCore c).winner (s.focusCore c).readyGroups = some r) :
    let s2 := (s.focusCore c).focusGroup r.id
    exec (.issueGrant c) s = .next { s2 with
      core := { s2.core with slot := some s2.gid }
      grp := { s2.grp with gst := .running, runLen := 0, woke := false
                           wonOver := ((s.focusCore c).readyGroups.filter fun x => x.id != r.id).map fun x => (x.id, x.grp.readyNo) } } := by
  intro s2
  have hfree : ¬ ((s.focusCore c).core.slot.isSome || (s.focusCore c).core.retained) = true := by
    rw [hslot, hret]
    exact Bool.false_ne_true
  refine congrArg Host.Outcome.next (Eq.trans (if_neg (by rw [hrun]; exact Bool.false_ne_true)) (Eq.trans (if_neg hfree) ?_))
  dsimp only
  rw [hwin]

/-- SCREPLY_WRITE (R608). -/
theorem screplyWrite_replies {s : State} {d : Nat} {v : DWord} {x : CoreId × GroupId × Group}
    (hfind : (s.allGroups.find? fun x => CoreId.die x.1 == d && x.2.1.team.grid.lid == v.toNat / 2 ^ 32 % 2 ^ 16 && x.2.1.team.rank == v.toNat % 2 ^ 32
      && x.2.1.num == v.toNat / 2 ^ 48 % 8 && x.2.2.wait.any (fun w => match w.what with | .reply _ => true | _ => false)) = some x) :
    exec (.screplyWrite d v) s = .next ((s.focusCore x.1).atGroup x.2.1 (·.takeReply (s.die d).scval)) := by
  have hrank : bits v.toNat 31 0 = v.toNat % 2 ^ 32 := bits_zero _ _
  have hexec : exec (.screplyWrite d v) s = .next (match s.allGroups.find? fun x => CoreId.die x.1 == d
        && x.2.1.team.grid.lid == v.toNat / 2 ^ 32 % 2 ^ 16 && x.2.1.team.rank == bits v.toNat 31 0
        && x.2.1.num == v.toNat / 2 ^ 48 % 8 && x.2.2.wait.any (fun w => match w.what with | .reply _ => true | _ => false) with
    | none => s
    | some x => (s.focusCore x.1).atGroup x.2.1 (·.takeReply (s.die d).scval)) := rfl
  rw [hexec, hrank, hfind]

/-- A notice to a wait of a launch (R416). -/
theorem semaphoreNotice_launch {s : State} {c : CoreId} {m : SemNotice} {g : GridId} {k : Nat} (hcore : m.core = c)
    (hlaunch : m.launch = some (g, k)) (hon : s.early (CoreId.die c) m.wts = false) :
    let s1 := s.focusCore c
    exec (.semaphoreNotice m) s = .next
      ((({ s1.raiseNow (m.wts.read s1.ep) with semWaiters := s1.semWaiters.filter fun w => w.launch != some (g, k) } : State).onGrid g
        fun x => { x with met := insertN x.met k }).send (.queueDepart g.lead)) := by
  subst hcore
  intro s1
  refine congrArg Host.Outcome.next ((State.onTime_taken hon _ _).trans ?_)
  dsimp only
  rw [hlaunch]

/-- Settles O43: each event finds its group and does what its rule says there. -/
theorem waitsAndGrants : Obligations.WaitsAndGrants := by
  refine ⟨fun s c g hhere => ?_, fun s c => ?_⟩
  · refine ⟨sleepDone_wakes hhere, fun t => waittDeadline_wakes hhere, fun a target limit done ref late hw => ⟨?_, ?_, ?_⟩,
      fun m hdst hgroup hhome hwait hgood => barwaitReply_wakes hhere hdst hgroup hhome hwait hgood, ?_, fun hst => ?_,
      fun hst hw hloads hstores => regroupJoin_joins hhere hst hw hloads hstores⟩
    · exact fun m hcore hgroup href hlaunch hon => semValue_meets hhere hw List.mem_cons_self hcore hgroup href hlaunch hon
    · exact fun m hcore hgroup href hlaunch hon =>
        semValue_meets hhere hw (List.mem_cons_of_mem _ List.mem_cons_self) hcore hgroup href hlaunch hon
    · exact fun hpast hlate hhome => semwaitTimeout_expires hhere hw hpast hlate hhome
    · rintro m rfl rfl mine come
      exact congrArg (fun t : State => Host.Outcome.next t.pump) (if_pos hhere)
    · exact .of_atGroup (k := fun s => if s.grp.gst = .running then s else s.settle) hhere rfl (if_neg hst)
  · refine ⟨fun h => congrArg Host.Outcome.next (if_pos h), fun h => congrArg Host.Outcome.next (if_neg (Nat.not_lt.mpr h)), fun grid => rfl,
      fun hrun hslot hret r => issueGrant_grants hrun hslot hret, fun m g k => semaphoreNotice_launch, fun d v x => screplyWrite_replies⟩

end Sys2Proof.Machine
end

section
/-! SUPPORT. A request that finds its line resident at its home, and what writing there leaves as it is. -/

namespace Sys2Proof.Machine

/-! ### The home of a line -/

theorem State.homeOf_line {s : State} {line : Nat} {h : Home} (hh : s.homeOf line = some h) : h.line = line :=
  beq_iff_eq.mp (List.find?_some (p := fun x : Home => x.line == line) hh)

theorem State.fillHome_resident {s : State} {line : Nat} {h : Home} (hh : s.homeOf line = some h) : s.fillHome line = (some h, s.putHome h) := by
  unfold State.fillHome
  rw [hh]

theorem State.homeOf_putHome (s : State) (h : Home) : (s.putHome h).homeOf h.line = some h :=
  List.find?_cons_of_pos (p := fun x : Home => x.line == h.line) (beq_self_eq_true h.line)

/-- The later record of a line alone counts. -/
theorem State.putHome_putHome (s : State) {h k : Home} (hk : k.line = h.line) : (s.putHome h).putHome k = s.putHome k := by
  have hfilter : (h :: s.homes.filter (·.line != h.line)).filter (·.line != k.line) = s.homes.filter (·.line != k.line) := by
    rw [List.filter_cons_of_neg (by simp [hk]), hk, List.filter_filter]
    simp
  unfold State.putHome
  dsimp only
  rw [hfilter]

/-- A request that finds its line resident, and nothing before it. -/
theorem State.atHome_resident {s : State} {line : Nat} {now : Stamp} {h : Home} (hat : s.atHomeWith line now h) (m : Instr) (holds : Bool)
    (k : Home → State → State) (hfree : holds = true → h.free) : s.atHome line m now holds k = k h (s.putHome h) := by
  obtain ⟨hearly, hhome, hstalled, hwaiting⟩ := hat
  have hheld : ¬ (holds && (h.recalling || h.prep.isSome)) = true := by
    cases holds with
    | false => exact Bool.false_ne_true
    | true =>
      obtain ⟨hrec, hprep⟩ := hfree rfl
      rw [hrec, hprep]
      exact Bool.false_ne_true
  unfold State.atHome
  dsimp only
  rw [State.onTime_taken hearly, if_neg (by rw [hstalled]; exact Bool.false_ne_true), if_neg (by rw [hwaiting]; exact Bool.false_ne_true),
    State.fillHome_resident hhome]
  exact if_neg hheld

/-- A stamp that does not pass the largest is taken (R301). -/
theorem State.stallOr_within {s : State} {line n : Nat} (h : n ≤ 0xFFFFFF) (m : Instr) (k : State → State) : s.stallOr line n m k = k s :=
  if_neg (Nat.not_lt.mpr h)

/-- A write that a core sends drops at most its own die's cached copy of a line of another die (R284). -/
theorem State.atHomeWith.dropRdc {s : State} {line : Nat} {now : Stamp} {h : Home} (hat : s.atHomeWith line now h) (who : Who) :
    (s.dropRdc who line).atHomeWith line now h := by
  have hdie : (s.dropRdc who line).die (lineDie line) = s.die (lineDie line) := by
    unfold State.dropRdc
    split
    · split
      · rfl
      · next hne => exact s.die_onDie_other _ (s.die_num _) (Ne.symm hne)
    · rfl
  have hrest : (s.dropRdc who line).homes = s.homes ∧ (s.dropRdc who line).slices = s.slices := by
    unfold State.dropRdc
    split
    · split <;> exact ⟨rfl, rfl⟩
    · exact ⟨rfl, rfl⟩
  obtain ⟨hearly, hhome, hstalled, hwaiting⟩ := hat
  unfold State.atHomeWith State.early State.homeOf State.slice
  rw [hdie, hrest.1, hrest.2]
  exact ⟨hearly, hhome, hstalled, hwaiting⟩

theorem State.dropRdc_rest (s : State) (who : Who) (line : Nat) : (s.dropRdc who line).offTree = s.offTree := by
  unfold State.dropRdc
  split
  · split <;> rfl
  · rfl

theorem State.dropRdc_epoch (s : State) (who : Who) (line k : Nat) : ((s.dropRdc who line).die k).epoch = (s.die k).epoch := by
  unfold State.dropRdc
  split
  · split
    · rfl
    · rw [s.die_onDie_eq _ k _ (s.die_num _)]
      split
      · next h => rw [h]
      · rfl
  · rfl

/-! ### What a stamp leaves as it is -/

/-- The epochs of all dies, and memory with its published image, stay. -/
def State.sameMemory (s t : State) : Prop := (∀ k, (t.die k).epoch = (s.die k).epoch) ∧ t.mem = s.mem ∧ t.pub = s.pub

theorem State.sameMemory.refl (s : State) : s.sameMemory s := ⟨fun _ => rfl, rfl, rfl⟩

theorem State.sameMemory.trans {s t u : State} (h : s.sameMemory t) (h' : t.sameMemory u) : s.sameMemory u :=
  ⟨fun k => (h'.1 k).trans (h.1 k), h'.2.1.trans h.2.1, h'.2.2.trans h.2.2⟩

theorem State.sameMemory.onDie (s : State) (d : Nat) {f : Die → Die} (hnum : (f (s.die d)).num = d) (he : (f (s.die d)).epoch = (s.die d).epoch) :
    s.sameMemory (s.onDie d f) :=
  ⟨fun k => by
    rw [s.die_onDie_eq d k f hnum]
    split
    · next h => rw [h, he]
    · rfl, rfl, rfl⟩

theorem State.sameMemory_noteTick (s : State) (d n : Nat) : s.sameMemory (s.noteTick d n) := by
  unfold State.noteTick
  split
  · unfold State.requestRebase
    dsimp only
    have hreq : s.sameMemory (s.onDie d fun x => { x with rebaseReq := true }) := .onDie s d (s.die_num d) rfl
    split
    · exact .refl s
    · split
      · exact hreq
      · exact hreq.trans ⟨fun _ => rfl, rfl, rfl⟩
  · exact .refl s

theorem State.sameMemory_notify (s : State) (line : Nat) (w : Stamp) : s.sameMemory (s.notify line w) := by
  unfold State.notify
  refine List.foldlRecOn (motive := fun t : State => s.sameMemory t) _ _ (.refl s) fun t ht x _ => ht.trans ?_
  dsimp only
  split
  · exact ⟨fun _ => rfl, rfl, rfl⟩
  · exact .refl t

theorem State.sameMemory_stamp (s : State) (h : Home) (w : Nat) : s.sameMemory (s.stamp h w) := by
  unfold State.stamp
  dsimp only
  refine State.sameMemory.trans (State.sameMemory.trans ?_ (State.sameMemory_noteTick _ _ _)) (State.sameMemory_notify _ _ _)
  split
  · exact ⟨fun _ => rfl, rfl, rfl⟩
  · exact ⟨fun _ => rfl, rfl, rfl⟩

/-! ### Bytes under a mask (R285, R290) -/

theorem read_writeMasked {u : Nat → Byte} {m : List Host.Cell} (hwf : Memory.wf u m = true) (line : Nat) (mask : BitVec 128) (bytes : BitVec 1024)
    (a : Nat) : Memory.read u (writeMasked u m line mask bytes) a =
      if line * 128 ≤ a ∧ a < line * 128 + 128 ∧ mask.getLsbD (a - line * 128) = true then byteOf bytes.toNat (a - line * 128)
      else Memory.read u m a := by
  let put (m : List Host.Cell) (k : Nat) : List Host.Cell :=
    if mask.getLsbD k then Memory.write u m (line * 128 + k) (byteOf bytes.toNat k) else m
  have main : ∀ n, Memory.wf u ((List.range n).foldl put m) = true ∧ Memory.read u ((List.range n).foldl put m) a =
      if line * 128 ≤ a ∧ a < line * 128 + n ∧ mask.getLsbD (a - line * 128) = true then byteOf bytes.toNat (a - line * 128)
      else Memory.read u m a := by
    intro n
    induction n with
    | zero => exact ⟨hwf, (if_neg (by omega)).symm⟩
    | succ n ih =>
      obtain ⟨hw, hread⟩ := ih
      rw [List.range_succ, List.foldl_append]
      show Memory.wf u (put _ n) = true ∧ Memory.read u (put _ n) a = _
      dsimp only [put]
      split
      · next hm =>
        refine ⟨Memory.wf_write _ _ hw, ?_⟩
        rw [Memory.read_write _ _ hw, hread]
        by_cases ha : a = line * 128 + n
        · subst ha
          rw [if_pos rfl, if_pos ⟨by omega, by omega, by rw [Nat.add_sub_cancel_left]; exact hm⟩, Nat.add_sub_cancel_left]
        · rw [if_neg ha]
          exact ite_of_iff (and_congr_right fun _ => and_congr_left fun _ => by omega) _ _
      · next hm =>
        refine ⟨hw, hread.trans (ite_of_iff (and_congr_right fun hle => ⟨fun h => ⟨by omega, h.2⟩, fun h => ⟨?_, h.2⟩⟩) _ _)⟩
        refine Decidable.byContradiction fun hlt => ?_
        have ha : a - line * 128 = n := by omega
        rw [ha] at h
        exact hm h.2
  exact (main 128).2

theorem State.setSectors_mem (l : List Nat) (f : State → Nat → State) (h : ∀ (t : State) (k : Nat), t.sameMemory (f t k)) (s : State) : s.sameMemory (l.foldl f s) :=
  List.foldlRecOn (motive := fun t : State => s.sameMemory t) l f (.refl s) fun t ht k _ => ht.trans (h t k)

/-- A merge writes the marked bytes of its line and nothing else (R285). -/
theorem State.byte_mergeLine {s : State} (hok : s.ok) (line : Nat) (mask : BitVec 128) (bytes : BitVec 1024) (poison : BitVec 32) (a : Nat) :
    (s.mergeLine line mask bytes poison).byte a =
      if line * 128 ≤ a ∧ a < line * 128 + 128 ∧ mask.getLsbD (a - line * 128) = true then byteOf bytes.toNat (a - line * 128) else s.byte a := by
  obtain ⟨hmem, -⟩ := hok
  have hsame : ({ s with mem := writeMasked s.unlisted s.mem line mask bytes } : State).sameMemory (s.mergeLine line mask bytes poison) := by
    unfold State.mergeLine
    refine State.setSectors_mem _ _ (fun t k => ?_) _
    dsimp only
    split
    · exact ⟨fun _ => rfl, rfl, rfl⟩
    · split
      · exact ⟨fun _ => rfl, rfl, rfl⟩
      · exact .refl t
  obtain ⟨-, hm, hpub⟩ := hsame
  unfold State.byte State.unlisted
  rw [hm, hpub]
  exact read_writeMasked hmem line mask bytes a

end Sys2Proof.Machine
end

section
/-! PROOFS. What a home does with each message. -/

namespace Sys2Proof.Machine

/-! ### READ and RENEWQ (R280, R282, R284, R328) -/

/-- What a home answers to a request that it may serve, which no replica takes (R280, R282). -/
theorem State.serve_grants {s : State} {m : LineReq} {h : Home} (renew : Bool) (msg : Instr) (hyield : mustYield h m.src m.promote = false)
    (hpage : m.page = none) :
    let e := s.homeEp m.line
    let top := max (h.rts.read e) (m.now.read e + m.lease)
    let granted := (s.putHome { h with rts := ⟨e, top⟩, ynow := if m.promote.isSome then none else h.ynow }).noteTick (lineDie m.line) top
    let y := if m.promote.isSome then h.ynow else none
    let via := if m.fill.isSome then some m else none
    let own : Stamp := ⟨e, m.now.read e + m.lease⟩
    top ≤ 0xFFFFFF → s.serve m renew h msg = granted.send
      (if (renew && m.wts.read e != 0 && m.wts.read e == h.wts.read e) = true then .extend ⟨m.line, m.src, own, y, m.ref, via⟩
       else .dataMsg { line := m.line, dst := m.src, bytes := s.lineBytes m.line, poison := s.linePoison m.line, wts := ⟨e, h.wts.read e⟩
                       rts := own, ynow := y, repl := false, ref := m.ref, via := via }) := by
  intro e top granted y via own htop
  have hrepl (t : State) : t.replicaFill m = (false, t) := by
    unfold State.replicaFill
    rw [hpage]
  unfold State.serve
  rw [if_neg (by rw [hyield]; exact Bool.false_ne_true)]
  refine (State.stallOr_within htop _ _).trans ?_
  dsimp only
  rw [hrepl]
  dsimp only
  rw [Bool.not_false, Bool.and_true]
  split <;> rfl

theorem State.recall_held {s : State} {h : Home} {c : CoreId} (hc : h.holder = some c) (sc : Scope) :
    s.recall h sc = (s.putHome { h with recalling := true }).send (.recall ⟨h.line, c, sc⟩) := by
  unfold State.recall
  rw [hc]

/-- A request that a remote-data cache answers (R282, R284). -/
theorem State.rdcRequest_answers {s : State} {m : LineReq} {x : RdcLine}
    (hx : (s.die (CoreId.die m.src)).rdc.find? (·.line == m.line) = some x) (hrepl : x.repl = false)
    (hlost : x.rts.lost (s.die (CoreId.die m.src)).epoch = false)
    (hlease : m.now.read (s.die (CoreId.die m.src)).epoch ≤ x.rts.read (s.die (CoreId.die m.src)).epoch) :
    let d := (s.die (CoreId.die m.src)).epoch
    s.rdcRequest m false = s.requeue [.dataMsg { line := x.line, dst := m.src, bytes := x.bytes, poison := x.poison, wts := x.wts
                                                 rts := ⟨d, min (x.rts.read d) (m.now.read d + m.lease)⟩, ynow := none, repl := false
                                                 ref := m.ref, via := none }] := by
  intro d
  have hserves : (x.repl || (!x.rts.lost d && decide (m.now.read d ≤ x.rts.read d))) = true := by
    simp [hrepl, d, hlost, hlease]
  have hzero : Stamp.read ⟨d, 0⟩ d = 0 := by
    unfold Stamp.read
    rw [BitVec.sub_self]
    rfl
  unfold State.rdcRequest
  dsimp only
  rw [hx]
  refine (if_pos hserves).trans ?_
  unfold answerFrom
  rw [if_neg Bool.false_ne_true]
  rw [if_neg fun h => h.1 hzero, hrepl]
  rfl

/-! ### Writes (R285, R288, R290, R334) -/

theorem Home.putHome_homeEp (s : State) (h : Home) (line : Nat) : (s.putHome h).homeEp line = s.homeEp line := rfl

theorem State.dropRdc_homeEp (s : State) (who : Who) (line k : Nat) : (s.dropRdc who line).homeEp k = s.homeEp k := s.dropRdc_epoch who line _

/-- The epoch of a line's home after a write there. -/
theorem State.sameMemory.homeEp {s t : State} (h : s.sameMemory t) (line : Nat) : t.homeEp line = s.homeEp line := h.1 _

theorem State.dropRdc_memory (s : State) (who : Who) (line : Nat) : s.sameMemory (s.dropRdc who line) := by
  have h := s.dropRdc_rest who line
  have hmem : (s.dropRdc who line).offTree.mem = s.offTree.mem := by rw [h]
  have hpub : (s.dropRdc who line).offTree.pub = s.offTree.pub := by rw [h]
  exact ⟨s.dropRdc_epoch who line, hmem, hpub⟩

/-- CPBK (R285, R290). -/
theorem cpbk_merges {s : State} {h : Home} {m : CpbkMsg} (hat : s.atHomeWith m.line m.now h) :
    let e := s.homeEp m.line
    let w := max (h.rts.read e + 1) (m.now.read e)
    w ≤ 0xFFFFFF → exec (.cpbk m) s = .next
      ((((((s.dropRdc m.who m.line).putHome h).mergeLine m.line m.mask m.bytes m.poison).stamp h w)).send
        (.cpbkack ⟨m.line, m.who, ⟨e, w⟩, m.ref, m.mask⟩)) := by
  intro e w hw
  have hep : ((s.dropRdc m.who m.line).putHome h).homeEp m.line = e := s.dropRdc_homeEp m.who m.line m.line
  have hstamp : ((s.dropRdc m.who m.line).putHome h).writeStamp h m.now = w := by
    unfold State.writeStamp
    rw [State.homeOf_line hat.2.1, hep]
  refine congrArg Host.Outcome.next ((State.atHome_resident (hat.dropRdc m.who) _ _ _ fun h => absurd h Bool.false_ne_true).trans ?_)
  dsimp only
  rw [hstamp, State.stallOr_within hw, hep]

/-- The updated word of an atomic (R482, R483). -/
def updatedWord (m : AtomMsg) (s : State) : BitVec 64 :=
  (atomNew m.op m.cls m.wide (BitVec.ofNat 64 (s.readNat m.addr (if m.wide then 8 else 4))) m.a m.c).1

/-- One atomic update at a home whose stamp is within the largest (R288). -/
theorem State.atomAt_within {s : State} {m : AtomMsg} {h : Home} (hw : s.writeStamp h m.now ≤ 0xFFFFFF) : s.atomAt m h =
    ((s.writeNat m.addr (if m.wide then 8 else 4) (updatedWord m s).toNat).stamp
      { h with ynow := if m.promote.isSome then none else h.ynow } (s.writeStamp h m.now)).send
      (.atoma ⟨m.who, BitVec.ofNat 64 (s.readNat m.addr (if m.wide then 8 else 4)), has s.memPoison (m.addr / 32),
        ⟨s.homeEp m.line, s.writeStamp h m.now⟩, if m.promote.isSome then h.ynow else none, m.ref, m.lane⟩) := by
  unfold State.atomAt
  dsimp only
  rw [State.stallOr_within hw, (State.sameMemory_stamp _ _ _).homeEp]
  rfl

/-- ATOMQ (R288). -/
theorem atomq_updates {s : State} {h : Home} {m : AtomMsg} (hat : s.atHomeWith m.line m.now h) (hfree : h.free) (hholds : m.holds = false)
    (hyield : ∀ c, Who.core? m.who = some c → mustYield h c m.promote = false) :
    let e := s.homeEp m.line
    let w := max (h.rts.read e + 1) (m.now.read e)
    let n := if m.wide then 8 else 4
    let old := BitVec.ofNat 64 (s.readNat m.addr n)
    let new := (atomNew m.op m.cls m.wide old m.a m.c).1
    let s0 := (s.dropRdc m.who m.line).putHome h
    w ≤ 0xFFFFFF → exec (.atomq m) s = .next
      ((({ s0 with mem := Memory.writeNat s.unlisted s.mem m.addr n new.toNat } : State).stamp
        { h with ynow := if m.promote.isSome then none else h.ynow } w).send
        (.atoma ⟨m.who, old, has s.memPoison (m.addr / 32), ⟨e, w⟩, if m.promote.isSome then h.ynow else none, m.ref, m.lane⟩)) := by
  intro e w n old new s0 hw
  have hline := State.homeOf_line hat.2.1
  have hrest : s0.mem = s.mem ∧ s0.unlisted = s.unlisted ∧ s0.memPoison = s.memPoison := by
    have hoff := s.dropRdc_rest m.who m.line
    have hmem : (s.dropRdc m.who m.line).offTree.mem = s.offTree.mem := by rw [hoff]
    have hpub : (s.dropRdc m.who m.line).offTree.pub = s.offTree.pub := by rw [hoff]
    have hpoison : (s.dropRdc m.who m.line).offTree.memPoison = s.offTree.memPoison := by rw [hoff]
    exact ⟨hmem, congrArg unlistedByte hpub, hpoison⟩
  obtain ⟨hmem, hunl, hpoison⟩ := hrest
  have hep : s0.homeEp m.line = e := s.dropRdc_homeEp m.who m.line m.line
  have hstamp : s0.writeStamp h m.now = w := by
    unfold State.writeStamp
    rw [hline, hep]
  have hread : s0.readNat m.addr n = s.readNat m.addr n := by
    unfold State.readNat
    rw [hmem, hunl]
  have hupdated : updatedWord m s0 = new := by
    unfold updatedWord
    rw [hread]
  have hatom := State.atomAt_within (Nat.le_trans (Nat.le_of_eq hstamp) hw)
  have hat' := State.atHome_resident (hat.dropRdc m.who) (.atomq m) true (fun h s =>
    match Who.core? m.who with
    | some c =>
      if mustYield h c m.promote then s.recall { h with held := h.held ++ [.atomq m] } (m.promote.getD .panel)
      else if m.holds then s.registers h c (.atomq m) fun h s => s.atomAt m h
      else s.atomAt m h
    | none => s.atomAt m h) fun _ => hfree
  refine congrArg Host.Outcome.next (hat'.trans (Eq.trans ?_ (hatom.trans ?_)))
  · cases hcore : Who.core? m.who with
    | none => rfl
    | some c =>
      dsimp only
      rw [hyield c hcore, hholds]
      rfl
  · rw [hstamp, hep, hupdated, hread, congrArg (has · (m.addr / 32)) hpoison]
    unfold State.writeNat
    rw [hunl, hmem]

/-- COMMIT (R334). -/
theorem commit_merges {s : State} {h : Home} {m : CommitMsg} (hat : s.atHomeWith m.line m.stamp h) :
    let e := s.homeEp m.line
    let w := max (m.stamp.read e) (h.rts.read e + 1)
    w ≤ 0xFFFFFF → exec (.commit m) s = .next
      (((((s.putHome h).mergeLine m.line m.mask m.bytes m.poison).stamp { h with prep := none } w).send
        (.commitack ⟨m.line, m.core, m.op, ⟨e, w⟩⟩)).releaseHeld { h with prep := none, wts := ⟨e, w⟩, rts := ⟨e, w⟩ }) := by
  intro e w hw
  exact congrArg Host.Outcome.next ((State.atHome_resident hat _ _ _ fun h => absurd h Bool.false_ne_true).trans (State.stallOr_within hw _ _))

/-- YIELD (R328). -/
theorem yield_releases {s : State} {h : Home} {m : YieldMsg} (hat : s.atHomeWith m.line m.ynow h) :
    let e := s.homeEp m.line
    let w := max (h.rts.read e + 1) (m.ynow.read e)
    let h1 : Home := { h with holder := none, recalling := false, ynow := some m.ynow }
    (m.mask = 0 → exec (.yield m) s = .next ((s.putHome h).releaseHeld h1))
      ∧ (m.mask ≠ 0 → w ≤ 0xFFFFFF → exec (.yield m) s = .next
          ((((s.putHome h).mergeLine m.line m.mask m.bytes m.poison).stamp h1 w).releaseHeld { h1 with wts := ⟨e, w⟩, rts := ⟨e, w⟩ })) := by
  intro e w h1
  have hline : h.line = m.line := State.homeOf_line hat.2.1
  have hstamp : (s.putHome h).writeStamp h1 m.ynow = w := by
    unfold State.writeStamp
    rw [show h1.line = m.line from hline]
    rfl
  have hexec := State.atHome_resident hat (.yield m) false (fun h s =>
    if m.mask = 0 then s.releaseHeld { h with holder := none, recalling := false, ynow := some m.ynow }
    else s.stallOr m.line (s.writeStamp { h with holder := none, recalling := false, ynow := some m.ynow } m.ynow) (.yield m) fun t =>
        ((t.mergeLine m.line m.mask m.bytes m.poison).stamp { h with holder := none, recalling := false, ynow := some m.ynow }
          (s.writeStamp { h with holder := none, recalling := false, ynow := some m.ynow } m.ynow)).releaseHeld
          (Home.stamped { h with holder := none, recalling := false, ynow := some m.ynow } ⟨t.homeEp m.line,
            s.writeStamp { h with holder := none, recalling := false, ynow := some m.ynow } m.ynow⟩)) fun h => absurd h Bool.false_ne_true
  refine ⟨fun hmask => congrArg Host.Outcome.next (hexec.trans (if_pos hmask)), fun hmask hw =>
    congrArg Host.Outcome.next (hexec.trans ((if_neg hmask).trans ?_))⟩
  rw [show (s.putHome h).writeStamp _ m.ynow = w from hstamp, State.stallOr_within hw]
  rfl

/-! ### Holders and units (R325, R326, R334) -/

/-- A registration while another core holds the line (R326). -/
theorem State.registers_other {s : State} {h : Home} {c k : CoreId} (hc : h.holder = some c) (hne : c ≠ k) (msg : Instr) (f : Home → State → State) :
    s.registers h k msg f = s.recall { h with held := h.held ++ [msg] } (if CoreId.die c = CoreId.die k then .die else .panel) := by
  unfold State.registers
  split
  · next o ho =>
    obtain rfl : o = c := Option.some.inj (ho.symm.trans hc)
    exact if_neg hne
  · next hn => exact absurd (hn.symm.trans hc) (by simp)

/-- HOLD (R325, R326). -/
theorem hold_registers {s : State} {h : Home} {m : HoldMsg} (hat : s.atHomeWith m.line ⟨s.homeEp m.line, 0⟩ h) (hfree : h.free) :
    (h.holder = none ∨ h.holder = some m.core →
        exec (.hold m) s = .next (((s.putHome h).putHome { h with holder := some m.core }).send (.holdack m)))
      ∧ ∀ c, h.holder = some c → c ≠ m.core → exec (.hold m) s = .next
          (((s.putHome h).putHome { h with held := h.held ++ [.hold m], recalling := true }).send
            (.recall ⟨m.line, c, if CoreId.die c = CoreId.die m.core then .die else .panel⟩)) := by
  have hexec := State.atHome_resident hat (.hold m) true (fun h s =>
    s.registers h m.core (.hold m) fun h s => (s.putHome h).send (.holdack m)) fun _ => hfree
  refine ⟨fun hh => congrArg Host.Outcome.next (hexec.trans ?_), fun c hc hne => congrArg Host.Outcome.next (hexec.trans ?_)⟩
  · unfold State.registers
    rcases hh with hh | hh
    · rw [hh]
    · have hsame : ({ h with holder := some m.core } : Home) = h := by rw [← hh]
      rw [hh, hsame]
      exact if_pos rfl
  · rw [State.registers_other hc hne, State.recall_held (h := { h with held := h.held ++ [.hold m] }) hc, ← State.homeOf_line hat.2.1]

/-- UNHOLD (R326). -/
theorem unhold_clears {s : State} {h : Home} {m : HoldMsg} (hh : s.homeOf m.line = some h) (hc : h.holder = some m.core) :
    exec (.unhold m) s = .next ((s.putHome { h with holder := none }).wayFreed m.line) := by
  have hexec : exec (.unhold m) s = .next (match s.homeOf m.line with
      | some h => if h.holder = some m.core then (s.putHome { h with holder := none }).wayFreed m.line else s
      | none => s) := rfl
  rw [hexec, hh]
  exact congrArg Host.Outcome.next (if_pos hc)

/-! ### Replicas and errors (R305, R438) -/

/-- DROPACK (R305). -/
theorem dropack_clears (s : State) (m : DropMsg) : ∃ f, exec (.dropack m) s = .next (s.onDie m.home f) ∧ ∀ d : Die,
    (f d).replDir = (d.replDir.map fun p => if p.frame = m.frame then { p with dies := eraseN p.dies m.die } else p)
      ∧ (f d).rplBusy = if d.rplBusy = some m.frame ∧ (f d).replDir.all (fun p => p.frame != m.frame || p.dies.isEmpty) = true then none
          else d.rplBusy := by
  refine ⟨_, rfl, fun d => ⟨rfl, ?_⟩⟩
  have hleft (l : List ReplPage) : (!l.any fun p => p.frame == m.frame && !p.dies.isEmpty) = l.all fun p => p.frame != m.frame || p.dies.isEmpty := by
    rw [List.not_any_eq_all_not]
    exact congrArg l.all (funext fun p => by simp [bne])
  dsimp only
  rw [hleft]

/-- A scrub poisons the sectors that it cannot correct, and no other (R438). -/
theorem hbmScrub_poisons (bad : List Nat) (s : State) : ∃ t, exec (.hbmScrub (bad.map fun k => ⟨k, false, none⟩)) s = .next t ∧ t.mem = s.mem
    ∧ ∀ k, has t.memPoison k = (has bad k || has s.memPoison k) := by
  refine ⟨_, rfl, ?_⟩
  induction bad generalizing s with
  | nil => exact ⟨rfl, fun k => rfl⟩
  | cons b bad ih =>
    obtain ⟨hmem, hpoison⟩ := ih (s.setSector b true)
    refine ⟨hmem, fun k => (hpoison k).trans ?_⟩
    have hset : has (s.setSector b true).memPoison k = (k == b || has s.memPoison k) := has_insertN s.memPoison b k
    have hcons : has (b :: bad) k = (b == k || has bad k) := rfl
    rw [hset, hcons, Bool.beq_comm (a := k), Bool.or_left_comm, Bool.or_assoc]

/-! ### Ordered contributions (R236, R237, R335) -/

/-- The element of a contribution as its slice stands. -/
def State.benchElem (s : State) (m : Contribution) : BenchElem :=
  (s.bench.find? fun b => b.addr == m.addr && b.grid == m.grid).getD { addr := m.addr, wide := m.wide, grid := m.grid }

theorem State.benchElem_addr (s : State) (m : Contribution) : (s.benchElem m).addr = m.addr := by
  unfold State.benchElem
  cases hb : s.bench.find? fun b => b.addr == m.addr && b.grid == m.grid with
  | none => rfl
  | some b =>
    have h := List.find?_some hb
    simp only [Bool.and_eq_true, beq_iff_eq] at h
    exact h.1

/-- What a home does with a contribution that it takes (R236). -/
def State.benchTaken (s : State) (m : Contribution) (h : Home) (l ranks : Nat) : State :=
  let b := s.benchElem m
  let x := s.benchRun l ranks (b.buf.length + 1) { b with buf := b.buf ++ [m] }
  let rest := x.2.bench.filter fun y => !(y.addr == m.addr && y.grid == m.grid)
  let t := ({ x.2 with bench := if x.1.pos == 0 && x.1.buf.isEmpty then rest else x.1 :: rest } : State).send (.accept ⟨m.who, h.wts, m.ref⟩)
  match t.homeOf m.line with
  | some h => if t.bench.any fun y => y.addr / 128 == m.line then t.putHome { h with opn := true } else (t.putHome { h with opn := false }).wayFreed m.line
  | none => t

/-- The core that is to hold the line of a contribution (R325). -/
def joinsOf (m : Contribution) : Option CoreId := if m.holds then Who.core? m.who else none

/-- The line's record once that core holds it. -/
def Home.joined (h : Home) (m : Contribution) : Home := if joinsOf m = none then h else { h with holder := joinsOf m }

theorem Home.joined_line (h : Home) (m : Contribution) : (h.joined m).line = h.line := by
  unfold Home.joined
  split <;> rfl

theorem Home.joined_stamps (h : Home) (m : Contribution) : (h.joined m).wts = h.wts ∧ (h.joined m).rts = h.rts := by
  unfold Home.joined
  split <;> exact ⟨rfl, rfl⟩

/-- A registration that finds no other holder (R326). -/
theorem State.registers_joined {s : State} {h : Home} {m : Contribution} (hjoins : joinsOf m = none ∨ h.holder = none ∨ h.holder = joinsOf m)
    (msg : Instr) (k : Home → State → State) :
    (match m.holds, Who.core? m.who with
      | true, some c => s.registers h c msg k
      | _, _ => k h s) = k (h.joined m) s := by
  cases hholds : m.holds with
  | false =>
    have hnone : joinsOf m = none := by unfold joinsOf; rw [hholds]; rfl
    rw [show h.joined m = h from if_pos hnone]
  | true =>
    have hcore : joinsOf m = Who.core? m.who := by unfold joinsOf; rw [hholds]; rfl
    cases hwho : Who.core? m.who with
    | none => rw [show h.joined m = h from if_pos (hcore.trans hwho)]
    | some c =>
      have hsome : joinsOf m = some c := hcore.trans hwho
      have hjoined : h.joined m = { h with holder := some c } := by
        unfold Home.joined
        rw [hsome]
        exact if_neg (Option.some_ne_none c)
      rw [hjoined]
      unfold State.registers
      dsimp only
      rw [hsome] at hjoins
      rcases hjoins with hn | hn | hn
      · cases hn
      · rw [hn]
      · have hsame : ({ h with holder := some c } : Home) = h := by rw [← hn]
        rw [hn, hsame]
        exact if_pos rfl

theorem State.recordOf_offTree (s : State) (g : GridId) : s.recordOf g = s.offTree.recordOf g := rfl

theorem State.benchElem_offTree (s : State) (m : Contribution) : s.benchElem m = s.offTree.benchElem m := rfl

theorem State.benchLoad_offTree (s : State) (line : Nat) : s.benchLoad line = s.offTree.benchLoad line := rfl

/-- A contribution that its home takes at once. -/
theorem benchContribution_taken {s : State} {h : Home} {m : Contribution} {r : LaunchRecord} (hat : s.atHomeWith m.line m.now h) (hfree : h.free)
    (hjoins : joinsOf m = none ∨ h.holder = none ∨ h.holder = joinsOf m) (hrec : s.recordOf m.grid = some r)
    (hw : max (h.rts.read (s.homeEp m.line) + 1) (m.now.read (s.homeEp m.line)) + (s.benchElem m).buf.length ≤ 0xFFFFFF)
    (hroom : contribPos m r.benchl = (s.benchElem m).pos ∨ s.benchLoad m.line < 256) :
    exec (.benchContribution m) s = .next
      ((((s.dropRdc m.who m.line).putHome h).putHome (h.joined m)).benchTaken m (h.joined m) r.benchl (r.teams * r.benchl)) := by
  let take (h : Home) (s : State) : State := match s.recordOf m.grid with
    | none => (s.putHome h).send (.accept ⟨m.who, h.wts, m.ref⟩)
    | some r =>
      if contribPos m r.benchl ≠ ((s.putHome h).benchElem m).pos ∧ 256 ≤ (s.putHome h).benchLoad m.line then (s.putHome h).send (.retry (.bench m))
      else (s.putHome h).stallOr m.line ((s.putHome h).writeStamp h m.now + ((s.putHome h).benchElem m).buf.length) (.benchContribution m) fun s =>
        s.benchTaken m h r.benchl (r.teams * r.benchl)
  have hexec := State.atHome_resident (hat.dropRdc m.who) (.benchContribution m) true (fun h s =>
    match m.holds, Who.core? m.who with
    | true, some c => s.registers h c (.benchContribution m) take
    | _, _ => take h s) fun _ => hfree
  let s0 := (s.dropRdc m.who m.line).putHome h
  have hoff := s.dropRdc_rest m.who m.line
  have hrec0 : s0.recordOf m.grid = some r := by
    refine Eq.trans ?_ hrec
    rw [s.recordOf_offTree, ← hoff]
    rfl
  have helem : (s0.putHome (h.joined m)).benchElem m = s.benchElem m := by
    rw [s.benchElem_offTree, ← hoff]
    rfl
  have hload : (s0.putHome (h.joined m)).benchLoad m.line = s.benchLoad m.line := by
    rw [s.benchLoad_offTree, ← hoff]
    rfl
  have hstamp : (s0.putHome (h.joined m)).writeStamp (h.joined m) m.now = max (h.rts.read (s.homeEp m.line) + 1) (m.now.read (s.homeEp m.line)) := by
    unfold State.writeStamp
    rw [(h.joined_stamps m).2, h.joined_line m, State.homeOf_line hat.2.1,
      show (s0.putHome (h.joined m)).homeEp m.line = s.homeEp m.line from s.dropRdc_homeEp m.who m.line m.line]
  have htake : take (h.joined m) s0 = (s0.putHome (h.joined m)).benchTaken m (h.joined m) r.benchl (r.teams * r.benchl) := by
    dsimp only [take]
    rw [hrec0]
    dsimp only
    rw [helem, hload, hstamp, if_neg fun h => hroom.elim h.1 (Nat.not_lt.mpr h.2), State.stallOr_within hw]
  exact congrArg Host.Outcome.next (hexec.trans ((State.registers_joined hjoins _ take).trans htake))

/-- A contribution ahead of its turn is buffered (R236). -/
theorem State.benchTaken_ahead {t : State} {m : Contribution} {h : Home} {l ranks : Nat} (hhome : t.homeOf m.line = some h)
    (hahead : ∀ c ∈ (t.benchElem m).buf ++ [m], contribPos c l ≠ (t.benchElem m).pos) :
    t.benchTaken m h l ranks =
      (({ t with bench := { t.benchElem m with buf := (t.benchElem m).buf ++ [m] } :: t.bench.filter fun x => !(x.addr == m.addr && x.grid == m.grid) } : State).send
        (.accept ⟨m.who, h.wts, m.ref⟩)).putHome { h with opn := true } := by
  let b' : BenchElem := { t.benchElem m with buf := (t.benchElem m).buf ++ [m] }
  have hrun (n : Nat) : t.benchRun l ranks (n + 1) b' = (b', t) := by
    have hnone : b'.buf.find? (fun c => contribPos c l == b'.pos) = none :=
      List.find?_eq_none.mpr fun c hc hp => hahead c hc (beq_iff_eq.mp hp)
    unfold State.benchRun
    rw [hnone]
  have hopen : ¬ (b'.pos == 0 && b'.buf.isEmpty) = true := by
    simp [b']
  have hline : ((b' :: t.bench.filter fun x => !(x.addr == m.addr && x.grid == m.grid)).any fun y => y.addr / 128 == m.line) = true := by
    rw [List.any_cons, show b'.addr = m.addr from t.benchElem_addr m]
    simp [Contribution.line]
  have hhome' : (({ t with bench := b' :: t.bench.filter fun x => !(x.addr == m.addr && x.grid == m.grid) } : State).send
      (.accept ⟨m.who, h.wts, m.ref⟩)).homeOf m.line = some h := hhome
  unfold State.benchTaken
  dsimp only
  rw [show t.benchRun l ranks ((t.benchElem m).buf.length + 1) { t.benchElem m with buf := (t.benchElem m).buf ++ [m] } = (b', t) from hrun _]
  dsimp only
  rw [if_neg hopen, hhome']
  exact if_pos hline

/-- A contribution in its turn is applied, and the answers follow (R236, R335). -/
theorem State.benchTaken_next {t : State} {m : Contribution} {h : Home} {l ranks : Nat} (hhome : t.homeOf m.line = some h)
    (hempty : (t.benchElem m).buf = []) (hturn : contribPos m l = (t.benchElem m).pos) :
    let n := if m.wide then 8 else 4
    (t.benchTaken m h l ranks).mem = Memory.writeNat t.unlisted t.mem m.addr n
        (atomNew .faddo .floating m.wide (BitVec.ofNat 64 (t.readNat m.addr n)) m.value 0).1.toNat
      ∧ ∃ pre, (t.benchTaken m h l ranks).agenda = pre ++
        [.apply ⟨m.who, ⟨t.homeEp m.line, t.writeStamp h m.now⟩, m.ref⟩, .accept ⟨m.who, h.wts, m.ref⟩] := by
  intro n
  let written : State := (t.putHome h).writeNat m.addr n (atomNew .faddo .floating m.wide (BitVec.ofNat 64 (t.readNat m.addr n)) m.value 0).1.toNat
  let marked : State := if m.poison then written.setSector (m.addr / 32) true else written
  let stamped : State := marked.stamp { h with opn := true } (t.writeStamp h m.now)
  have hmarked : written.sameMemory marked := by
    dsimp only [marked]
    split
    · exact ⟨fun _ => rfl, rfl, rfl⟩
    · exact .refl _
  have hstamped : written.sameMemory stamped := hmarked.trans (State.sameMemory_stamp _ _ _)
  have hep : marked.homeEp m.line = t.homeEp m.line := hmarked.homeEp m.line
  have happly : t.benchApply m = stamped.send (.apply ⟨m.who, ⟨marked.homeEp m.line, t.writeStamp h m.now⟩, m.ref⟩) := by
    unfold State.benchApply
    rw [show t.fillHome (m.addr / 128) = (some h, t.putHome h) from State.fillHome_resident hhome]
    rfl
  let b' : BenchElem := { t.benchElem m with buf := (t.benchElem m).buf ++ [m] }
  let b1 : BenchElem := { b' with pos := (b'.pos + 1) % ranks, buf := b'.buf.erase m }
  have hrun : t.benchRun l ranks ((t.benchElem m).buf.length + 1) b' = (b1, t.benchApply m) := by
    have hfind : b'.buf.find? (fun c => contribPos c l == b'.pos) = some m := by
      dsimp only [b']
      rw [hempty]
      exact List.find?_cons_of_pos (beq_iff_eq.mpr hturn)
    rw [hempty]
    show t.benchRun l ranks (0 + 1) b' = _
    unfold State.benchRun
    rw [hfind]
    rfl
  let v : State := ({ t.benchApply m with
    bench := if b1.pos == 0 && b1.buf.isEmpty then (t.benchApply m).bench.filter fun y => !(y.addr == m.addr && y.grid == m.grid)
      else b1 :: (t.benchApply m).bench.filter fun y => !(y.addr == m.addr && y.grid == m.grid) } : State).send (.accept ⟨m.who, h.wts, m.ref⟩)
  have htaken : t.benchTaken m h l ranks = match v.homeOf m.line with
      | some h => if v.bench.any fun y => y.addr / 128 == m.line then v.putHome { h with opn := true } else (v.putHome { h with opn := false }).wayFreed m.line
      | none => v := by
    unfold State.benchTaken
    dsimp only
    rw [show t.benchRun l ranks ((t.benchElem m).buf.length + 1) { t.benchElem m with buf := (t.benchElem m).buf ++ [m] } = _ from hrun]
  have hv : (t.benchTaken m h l ranks).mem = v.mem ∧ (t.benchTaken m h l ranks).agenda = v.agenda := by
    rw [htaken]
    split
    · split <;> exact ⟨rfl, rfl⟩
    · exact ⟨rfl, rfl⟩
  have hmem : v.mem = written.mem := by
    show (t.benchApply m).mem = _
    rw [happly]
    exact hstamped.2.1
  refine ⟨hv.1.trans hmem, stamped.agenda, hv.2.trans ?_⟩
  show (t.benchApply m).agenda ++ [_] = _
  rw [happly, hep]
  exact List.append_assoc _ _ _

/-- Settles O44: a request that finds its line resident and free is served at once; what each kind then does is its own lemma. -/
theorem homeMessages : Obligations.HomeMessages := by
  refine ⟨fun m h s hregs => ?_, fun s h line => ?_, fun s h => ?_⟩
  · intro e top s0 h' granted y via own data
    have hexec : exec (.read m) s = .next (match regLine m.line with
        | some (d, off) => s.serveRegs m d off
        | none => if s.throughRdc m then s.rdcRequest m false
          else s.atHome m.line (.read m) m.now true fun h s => s.serve m false h (.read m)) := rfl
    have hread (hrdc : s.throughRdc m = false) (hat : s.atHomeWith m.line m.now h) (hfree : h.free) :
        exec (.read m) s = .next (s0.serve m false h (.read m)) := by
      rw [hexec, hregs, hrdc]
      exact congrArg Host.Outcome.next (State.atHome_resident hat _ _ _ fun _ => hfree)
    refine ⟨fun hrdc hat hfree hyield hpage htop => ?_, fun hrdc hat hfree c sc hc hsc hyield => ?_, fun hrdc x hx hrepl => ?_⟩
    · have hrenew : exec (.renewq m) s = .next (s0.serve m true h (.renewq m)) := by
        have hexec : exec (.renewq m) s = .next (if s.throughRdc m then s.rdcRequest m true
            else s.atHome m.line (.renewq m) m.now true fun h s => s.serve m true h (.renewq m)) := rfl
        rw [hexec, hrdc]
        exact congrArg Host.Outcome.next (State.atHome_resident hat _ _ _ fun _ => hfree)
      refine ⟨(hread hrdc hat hfree).trans (congrArg Host.Outcome.next (State.serve_grants (s := s0) false _ hyield hpage htop)), fun hne heq => ?_, fun hne => ?_⟩
      · refine hrenew.trans (congrArg Host.Outcome.next ((State.serve_grants (s := s0) true _ hyield hpage htop).trans (congrArg granted.send (if_pos ?_))))
        simp only [Bool.true_and, Bool.and_eq_true, bne_iff_ne, beq_iff_eq]
        exact ⟨hne, heq⟩
      · refine hrenew.trans (congrArg Host.Outcome.next ((State.serve_grants (s := s0) true _ hyield hpage htop).trans (congrArg granted.send (if_neg ?_))))
        simp only [Bool.true_and, Bool.and_eq_true, bne_iff_ne, beq_iff_eq]
        exact fun h => hne h.2
    · refine (hread hrdc hat hfree).trans (congrArg Host.Outcome.next ((if_pos hyield).trans ?_))
      rw [hsc, State.recall_held (h := { h with held := h.held ++ [.read m] }) hc, ← State.homeOf_line hat.2.1]
      rfl
    · intro d hlost hlease
      rw [hexec, hregs, hrdc]
      exact congrArg Host.Outcome.next (State.rdcRequest_answers hx hrepl hlost hlease)
  · refine ⟨?_, ?_, ?_, ?_, fun mask bytes poison hok => State.byte_mergeLine hok line mask bytes poison⟩
    · rintro m rfl hat hw
      exact cpbk_merges hat hw
    · rintro m rfl hat hfree hholds hyield hw
      exact atomq_updates hat hfree hholds hyield hw
    · rintro m rfl hat w hw
      exact commit_merges hat hw
    · rintro m rfl hat
      exact yield_releases hat
  · refine ⟨fun m => ⟨hold_registers, unhold_clears⟩, fun m hat hfree => ?_, fun m r => ?_, fun m => ⟨rfl, rfl⟩, fun m => ⟨rfl, dropack_clears s m⟩,
      fun bad => hbmScrub_poisons bad s, fun k => rfl⟩
    · exact congrArg Host.Outcome.next (State.atHome_resident hat _ _ _ fun _ => hfree)
    · intro line s0 b w joins h1 hat hfree hjoins hrec hw
      let t := s0.putHome h1
      have hline : h1.line = m.line := (h.joined_line m).trans (State.homeOf_line hat.2.1)
      have hhome : t.homeOf m.line = some h1 := by
        rw [← hline]
        exact s0.homeOf_putHome h1
      have hoff := s.dropRdc_rest m.who m.line
      have helem : t.benchElem m = b := by
        refine Eq.trans ?_ (s.benchElem_offTree m).symm
        rw [← hoff]
        rfl
      have htaken := benchContribution_taken hat hfree hjoins hrec hw
      refine ⟨fun hahead hload => ?_, fun hempty hturn => ?_⟩
      · have hbench : t.bench = s.bench := by
          have h : (s.dropRdc m.who m.line).offTree.bench = s.offTree.bench := by rw [hoff]
          exact h
        refine (htaken (.inr hload)).trans (congrArg Host.Outcome.next ((State.benchTaken_ahead hhome (by rw [helem]; exact hahead)).trans ?_))
        have haccept : Instr.accept ⟨m.who, h1.wts, m.ref⟩ = .accept ⟨m.who, h.wts, m.ref⟩ :=
          congrArg (fun w => Instr.accept ⟨m.who, w, m.ref⟩) (h.joined_stamps m).1
        rw [helem, hbench, haccept]
        have hput (x : State) (k : Home) (hk : k.line = h1.line) : (x.putHome h1).putHome k = x.putHome k := x.putHome_putHome hk
        exact hput (({ s0 with bench := { b with buf := b.buf ++ [m] } :: s.bench.filter fun x => !(x.addr == m.addr && x.grid == m.grid) } : State).send
          (.accept ⟨m.who, h.wts, m.ref⟩)) { h1 with opn := true } rfl
      · obtain ⟨hmem, pre, hagenda⟩ := State.benchTaken_next (ranks := r.teams * r.benchl) hhome (by rw [helem]; exact hempty)
          (by rw [helem]; exact hturn)
        have hpub : t.pub = s.pub ∧ t.mem = s.mem := by
          have h1 : (s.dropRdc m.who m.line).offTree.pub = s.offTree.pub := by rw [hoff]
          have h2 : (s.dropRdc m.who m.line).offTree.mem = s.offTree.mem := by rw [hoff]
          exact ⟨h1, h2⟩
        have hunl : t.unlisted = s.unlisted := congrArg unlistedByte hpub.1
        have hread (n : Nat) : t.readNat m.addr n = s.readNat m.addr n := by
          unfold State.readNat
          rw [hpub.2, hunl]
        have hstamp : t.writeStamp h1 m.now = w := by
          unfold State.writeStamp
          rw [hline, show h1.rts = h.rts from (h.joined_stamps m).2, show t.homeEp m.line = s.homeEp m.line from s.dropRdc_homeEp m.who m.line m.line]
          rfl
        refine ⟨_, pre, htaken (.inl hturn), ?_, ?_⟩
        · rw [hread, hunl, hpub.2] at hmem
          exact hmem
        · refine hagenda.trans ?_
          rw [hstamp, show h1.wts = h.wts from (h.joined_stamps m).1, show t.homeEp m.line = s.homeEp m.line from s.dropRdc_homeEp m.who m.line m.line]
          rfl

end Sys2Proof.Machine
end

section
/-! PROOFS. What a core does with each answer. -/

namespace Sys2Proof.Machine

/-! ### Bytes under a mask (R277) -/

/-- The bits of a byte mask spread over the bits of a line. -/
theorem testBit_spread_fold (m : BitVec 128) (n i : Nat) :
    ((List.range n).foldl (fun x k => if m.getLsbD k then x + 255 * 2 ^ (8 * k) else x) 0).testBit i
      = (decide (i < 8 * n) && m.getLsbD (i / 8)) ∧
    (List.range n).foldl (fun x k => if m.getLsbD k then x + 255 * 2 ^ (8 * k) else x) 0 < 2 ^ (8 * n) := by
  induction n generalizing i with
  | zero => exact ⟨by simp, by simp⟩
  | succ n ih =>
    have hlt := (ih 0).2
    have hbit := fun i => (ih i).1
    rw [List.range_succ, List.foldl_append, List.foldl_cons, List.foldl_nil]
    generalize (List.range n).foldl (fun x k => if m.getLsbD k then x + 255 * 2 ^ (8 * k) else x) 0 = x at hlt hbit
    have hpow : 2 ^ (8 * (n + 1)) = 256 * 2 ^ (8 * n) := by
      rw [show 8 * (n + 1) = 8 * n + 8 from by omega, Nat.pow_add]
      omega
    split
    · next hm =>
      refine ⟨?_, by rw [hpow]; omega⟩
      rw [Nat.add_comm, Nat.mul_comm, Nat.testBit_two_pow_mul_add 255 hlt]
      split
      · next hi =>
        rw [hbit, decide_eq_true hi, decide_eq_true (show i < 8 * (n + 1) by omega)]
      · next hi =>
        have h255 : Nat.testBit 255 (i - 8 * n) = decide (i - 8 * n < 8) := by
          rw [show (255 : Nat) = 2 ^ 8 - 1 from rfl, Nat.testBit_two_pow_sub_one]
        rw [h255]
        by_cases hi' : i < 8 * (n + 1)
        · rw [decide_eq_true (show i - 8 * n < 8 by omega), decide_eq_true hi', show i / 8 = n by omega, hm]
          rfl
        · rw [decide_eq_false (show ¬ i - 8 * n < 8 by omega), decide_eq_false hi', Bool.false_and]
    · next hm =>
      refine ⟨?_, by rw [hpow]; omega⟩
      rw [hbit]
      by_cases hi : i < 8 * n
      · rw [decide_eq_true hi, decide_eq_true (show i < 8 * (n + 1) by omega)]
      · rw [decide_eq_false hi, Bool.false_and]
        by_cases hi' : i < 8 * (n + 1)
        · rw [show i / 8 = n by omega, Bool.eq_false_iff.mpr hm, Bool.and_false]
        · rw [decide_eq_false hi', Bool.false_and]

theorem getLsbD_spread (m : BitVec 128) {i : Nat} (hi : i < 1024) : (spread m).getLsbD i = m.getLsbD (i / 8) := by
  unfold spread
  rw [BitVec.getLsbD_ofNat, (testBit_spread_fold m 128 i).1, decide_eq_true hi, Bool.true_and, Bool.true_and]

/-- Byte `k` of a line, bit by bit. -/
theorem testBit_lineNat (b : BitVec 1024) (k j : Nat) : (lineNat b k 1).testBit j = (decide (j < 8) && b.getLsbD (8 * k + j)) := by
  unfold lineNat
  rw [Nat.testBit_mod_two_pow, Nat.testBit_div_two_pow, Nat.add_comm]
  rfl

/-- A fill keeps the bytes that the core has written (R277). -/
theorem lineNat_fill (c : Copy) (bytes : BitVec 1024) (poison : BitVec 4) {k : Nat} (hk : k < 128) :
    lineNat (c.fill bytes poison).bytes k 1 = if c.mask.getLsbD k = true then lineNat c.bytes k 1 else lineNat bytes k 1 := by
  refine Nat.eq_of_testBit_eq fun j => ?_
  have hbytes : (c.fill bytes poison).bytes = (bytes &&& ~~~spread c.mask) ||| (c.bytes &&& spread c.mask) := rfl
  rw [testBit_lineNat, hbytes, BitVec.getLsbD_or, BitVec.getLsbD_and, BitVec.getLsbD_and, BitVec.getLsbD_not]
  by_cases hj : j < 8
  · rw [getLsbD_spread _ (by omega), show (8 * k + j) / 8 = k by omega, decide_eq_true (show 8 * k + j < 1024 by omega)]
    split
    · next hm => rw [testBit_lineNat, hm]; simp
    · next hm => rw [testBit_lineNat, Bool.eq_false_iff.mpr hm]; simp
  · rw [decide_eq_false hj, Bool.false_and]
    split <;> rw [testBit_lineNat, decide_eq_false hj, Bool.false_and]

/-! ### The answers -/

/-- A reply whose copy still waits in P (R277, R281). -/
theorem State.fillCopy_waiting {s : State} {line ref : Nat} {c : Copy} (hc : s.copyOf line = some c) (hp : c.st = .p) (href : c.ref = ref)
    (f : Copy → Copy) (y : Option Stamp) :
    s.fillCopy line ref f y = ((s.putCopy { f c with st := .v, ref := 0 }).bindAll line ref f y).pump := by
  have hwaits : (c.st == CopySt.p && c.ref == ref) = true := by rw [hp, href]; simp
  unfold State.fillCopy
  rw [hc]
  dsimp only
  rw [if_pos hwaits]

/-- APPLY at the core of a team (R335, R450). -/
theorem State.takeApply_core {s : State} {m : BenchAns} {k : CoreId} (hwho : m.who = .core k) :
    s.takeApply m = if (s.focusCore k).awaited m.ref then
        (((s.focusCore k).raiseNow (m.wts.read (s.focusCore k).ep)).clearAll m.ref).pump
      else if (s.focusCore k).contexts.any (fun x => x.team.groups.any fun g => g.ops.any fun o => has o.waits m.ref) then
        { s.focusCore k with keptApply := (s.focusCore k).keptApply ++ [m] }
      else (s.focusCore k).raiseNow (m.wts.read (s.focusCore k).ep) := by
  unfold State.takeApply
  rw [hwho]

/-- APPLY at an engine (R335). -/
theorem State.takeApply_engine {s : State} {m : BenchAns} {k : CoreId} {op : Nat} {o : EngOp} (hwho : m.who = .engine k op)
    (ho : (s.focusCore k).core.engine.find? (·.id == op) = some o) :
    s.takeApply m =
      let w := m.wts.read (s.focusCore k).ep
      let t := ((s.focusCore k).raiseNow w).onEng op fun _ => o.applied m.ref w
      if (o.applied m.ref w).waits.isEmpty then t.wakeEng op else t := by
  unfold State.takeApply
  rw [hwho]
  dsimp only
  rw [ho]

theorem exec_apply {s : State} {m : BenchAns} {k : CoreId} (hwho : Who.core? m.who = some k) (hon : s.early (CoreId.die k) m.wts = false) :
    exec (.apply m) s = .next (s.takeApply m) := by
  have hexec : exec (.apply m) s = .next (match Who.core? m.who with
      | none => s
      | some c => s.onTime (CoreId.die c) m.wts (.apply m) fun s => s.takeApply m) := rfl
  rw [hexec, hwho]
  exact congrArg Host.Outcome.next (State.onTime_taken hon _ _)

/-- Settles O45: each answer finds the core that it names, and does there what its rule says. -/
theorem answersAtCore : Obligations.AnswersAtCore := by
  intro s c onTime filled
  refine ⟨fun m hvia hon hc hp href => ?_, fun m hvia hon hc hp href => ?_, fun bytes poison k hk => lineNat_fill c bytes poison hk,
    fun m r own hvia hfill hon => ?_, fun m r own hvia hfill hon => ?_, fun m k hk hon => ?_, fun m k hk hon => ?_, fun m => rfl, fun m k hk => ?_,
    fun m k hk hon => ?_, fun m k op o hk hon => ?_, fun m => rfl⟩
  · have hexec : exec (.dataMsg m) s = execDataMsg m s := rfl
    rw [hexec]
    unfold execDataMsg
    rw [hvia]
    exact congrArg Host.Outcome.next ((State.onTime_taken hon _ _).trans (State.fillCopy_waiting hc hp href _ _))
  · have hexec : exec (.extend m) s = execExtend m s := rfl
    rw [hexec]
    unfold execExtend
    rw [hvia]
    exact congrArg Host.Outcome.next ((State.onTime_taken hon _ _).trans (State.fillCopy_waiting hc hp href _ _))
  · intro x
    have hexec : exec (.dataMsg m) s = execDataMsg m s := rfl
    rw [hexec]
    unfold execDataMsg
    rw [hvia]
    refine congrArg Host.Outcome.next ((State.onTime_taken hon _ _).trans ?_)
    rw [hfill]
    rfl
  · intro d same
    have hexec : exec (.extend m) s = execExtend m s := rfl
    rw [hexec]
    unfold execExtend
    rw [hvia]
    refine ⟨fun x hx => congrArg Host.Outcome.next ((State.onTime_taken hon _ _).trans ?_),
      fun hx => congrArg Host.Outcome.next ((State.onTime_taken hon _ _).trans ?_)⟩
    · dsimp only
      rw [hx, hfill]
      rfl
    · dsimp only
      rw [hx]
  · have hexec : exec (.cpbkack m) s = execCpbkack m s := rfl
    rw [hexec]
    unfold execCpbkack
    rw [hk]
    exact congrArg Host.Outcome.next (State.onTime_taken hon _ _)
  · have hexec : exec (.atoma m) s = execAtoma m s := rfl
    rw [hexec]
    unfold execAtoma
    rw [hk]
    exact congrArg Host.Outcome.next (State.onTime_taken hon _ _)
  · have hexec : exec (.accept m) s = execAccept m s := rfl
    rw [hexec]
    unfold execAccept
    rw [hk]
  · intro s1 w saved
    rw [exec_apply (by rw [hk]; rfl) hon, State.takeApply_core hk]
    refine ⟨fun h => congrArg Host.Outcome.next (if_pos h), fun h h' => congrArg Host.Outcome.next ((if_neg ?_).trans (if_pos h')),
      fun h h' => congrArg Host.Outcome.next ((if_neg ?_).trans (if_neg ?_))⟩
    · rw [h]; exact Bool.false_ne_true
    · rw [h]; exact Bool.false_ne_true
    · exact fun h'' => Bool.false_ne_true (h'.symm.trans h'')
  · intro s1 w ho o' s2
    rw [exec_apply (by rw [hk]; rfl) hon, State.takeApply_engine hk ho]
    rfl

end Sys2Proof.Machine
end

section
/-! PROOFS. Unit writes, engines, matrix engines and arrivals from other cores. -/

namespace Sys2Proof.Machine

/-! ### Unit writes (R334) -/

/-- PREPACK: the second line follows the first, and then both are committed with one stamp (R334). -/
theorem prepack_commits {s : State} {m : UnitMsg} {o : EngOp} {u : UnitWrite} {us : List UnitWrite}
    (hon : s.early (CoreId.die m.core) m.stamp = false) (ho : (s.focusCore m.core).core.engine.find? (·.id == m.op) = some o)
    (hunits : o.units = u :: us) :
    let s1 := s.focusCore m.core
    let u' := { u with acks := u.acks ++ [m.stamp] }
    let s2 := s1.onEng o.id fun o => { o with units := u' :: us }
    (u.acks = [] → exec (.prepack m) s = .next (s2.send (.prep ⟨u.hi.line, s1.core.id, o.id, o.now⟩)))
      ∧ (∀ t : Stamp, u.acks = [t] →
        let w : Stamp := ⟨s1.ep, max (t.read s1.ep) (m.stamp.read s1.ep) + 1⟩
        exec (.prepack m) s = .next
          ((s2.send (.commit ⟨u.lo.line, s1.core.id, o.id, w, u.lo.mask, u.lo.bytes, u.lo.poison⟩)).send
            (.commit ⟨u.hi.line, s1.core.id, o.id, w, u.hi.mask, u.hi.bytes, u.hi.poison⟩))) := by
  intro s1 u' s2
  have hexec : exec (.prepack m) s = .next (if u'.acks.length < 2 then s2.send (.prep ⟨u.hi.line, s1.core.id, o.id, o.now⟩)
      else
        let w : Stamp := ⟨s2.ep, u'.acks.foldl (fun a t => max a (t.read s2.ep)) 0 + 1⟩
        (s2.send (.commit ⟨u.lo.line, s1.core.id, o.id, w, u.lo.mask, u.lo.bytes, u.lo.poison⟩)).send
          (.commit ⟨u.hi.line, s1.core.id, o.id, w, u.hi.mask, u.hi.bytes, u.hi.poison⟩)) := by
    refine congrArg Host.Outcome.next ((State.onTime_taken hon _ _).trans ?_)
    dsimp only
    rw [ho]
    dsimp only
    rw [hunits]
    rfl
  have hep : s2.ep = s1.ep := rfl
  rw [hexec]
  refine ⟨fun hacks => congrArg Host.Outcome.next (if_pos ?_), fun t hacks => congrArg Host.Outcome.next ((if_neg ?_).trans ?_)⟩
  · simp [u', hacks]
  · simp [u', hacks]
  · have hmost : u'.acks.foldl (fun a t => max a (t.read s2.ep)) 0 = max (t.read s1.ep) (m.stamp.read s1.ep) := by
      simp [u', hacks, hep]
    dsimp only
    rw [hmost, hep]

/-- COMMITACK (R289, R334, R350). -/
theorem commitack_goesOn {s : State} {m : UnitMsg} {o : EngOp} {u : UnitWrite} {us : List UnitWrite}
    (hon : s.early (CoreId.die m.core) m.stamp = false) (ho : (s.focusCore m.core).core.engine.find? (·.id == m.op) = some o)
    (hunits : o.units = u :: us) :
    let s2 := (s.focusCore m.core).focusOp o
    let o' := { o with top := max o.top (m.stamp.read s2.ep) }
    (1 < u.due → exec (.commitack m) s = .next (s2.onEng o.id fun _ => { o' with units := { u with due := u.due - 1 } :: us }))
      ∧ (u.due ≤ 1 → (o.cancelled = false ∨ us = []) → exec (.commitack m) s = .next (s2.nextUnit { o' with units := us }))
      ∧ (u.due ≤ 1 → o.cancelled = true → us ≠ [] →
        exec (.commitack m) s = .next (s2.stepEng { o' with units := [], status := .cancel, left := some [] })) := by
  intro s2 o'
  have hexec : exec (.commitack m) s = .next (if 1 < u.due then s2.onEng o.id fun _ => { o' with units := { u with due := u.due - 1 } :: us }
      else if o.cancelled && !us.isEmpty then s2.stepEng { o' with units := [], status := .cancel, left := some [] }
      else s2.nextUnit { o' with units := us }) := by
    refine congrArg Host.Outcome.next ((State.onTime_taken hon _ _).trans ?_)
    dsimp only
    rw [ho]
    dsimp only
    rw [hunits]
  rw [hexec]
  refine ⟨fun h => congrArg Host.Outcome.next (if_pos h), fun h hc => congrArg Host.Outcome.next ((if_neg (Nat.not_lt.mpr h)).trans (if_neg ?_)),
    fun h hc hus => congrArg Host.Outcome.next ((if_neg (Nat.not_lt.mpr h)).trans (if_pos ?_))⟩
  · rcases hc with hc | hc <;> simp [hc]
  · simp [hc, hus]

/-! ### Engines (R289, R346 to R350, R447) -/

/-- COPY_COMPLETE (R346 to R350, R447). -/
theorem copyComplete_goesOn {s : State} {core : CoreId} {op : Nat} {o : EngOp} (ho : (s.focusCore core).core.engine.find? (·.id == op) = some o)
    (hkept : o.kept = false) :
    let s2 := (s.focusCore core).focusOp o
    let saves := o.cancels && s2.team.pre.any (·.quiesced)
    (o.phase = .performed → exec (.copyComplete core op) s = .next (s2.finishEng o))
      ∧ (o.phase ≠ .performed → o.cancelled = true → (o.kind = .send → o.started = false) →
          exec (.copyComplete core op) s = .next (s2.stepEng { o with status := .cancel, left := some [], units := o.units.take 1 }))
      ∧ (o.phase = .fresh → o.cancelled = false → o.kind ≠ .send →
          (saves = false → exec (.copyComplete core op) s = .next (s2.beginEng o))
          ∧ (saves = true → o.due = false → exec (.copyComplete core op) s = .next (s2.onEng op fun o => { o with kept := true }))) := by
  intro s2 saves
  have hexec : exec (.copyComplete core op) s = .next (if o.phase == .performed then s2.finishEng o
      else if o.cancelled && !(o.kind == .send && o.started) then s2.stopEng o
      else if o.phase == .waiting || o.kind == .send then s2
      else if saves then (if o.due then s2 else s2.onEng op fun o => { o with kept := true })
      else s2.beginEng o) := by
    refine Eq.trans (b := .next (match (s.focusCore core).core.engine.find? (·.id == op) with
      | none => s.focusCore core
      | some o =>
        let s := (s.focusCore core).focusOp o
        if o.kept then s
        else if o.phase == .performed then s.finishEng o
        else if o.cancelled && !(o.kind == .send && o.started) then s.stopEng o
        else if o.phase == .waiting || o.kind == .send then s
        else if o.cancels && s.team.pre.any (·.quiesced) then
          if o.due then s else s.onEng op fun o => { o with kept := true }
        else s.beginEng o)) rfl ?_
    rw [ho]
    dsimp only
    rw [hkept]
    rfl
  rw [hexec]
  refine ⟨fun h => ?_, fun h hc hsend => ?_, fun h hc hsend => ?_⟩
  · exact congrArg Host.Outcome.next (if_pos (beq_iff_eq.mpr h))
  · have hstop : (o.cancelled && !(o.kind == .send && o.started)) = true := by
      rw [hc]
      by_cases hk : o.kind = .send
      · simp [hk, hsend hk]
      · simp [hk]
    exact congrArg Host.Outcome.next ((if_neg fun h' => h (beq_iff_eq.mp h')).trans (if_pos hstop))
  · have hperformed : ¬ (o.phase == .performed) = true := by rw [h]; decide
    have hstop : ¬ (o.cancelled && !(o.kind == .send && o.started)) = true := by rw [hc]; exact Bool.false_ne_true
    have hwait : ¬ (o.phase == .waiting || o.kind == .send) = true := by
      rw [h, beq_false_of_ne hsend]
      decide
    rw [if_neg hperformed, if_neg hstop, if_neg hwait]
    refine ⟨fun hsaves => ?_, fun hsaves hdue => ?_⟩
    · rw [hsaves]
      rfl
    · rw [hsaves, hdue]
      rfl

/-! ### Accesses and packets from other cores (R247, R316, R357, R488, R619) -/

/-- PEER_ACCESS_ARRIVE (R316, R488). -/
theorem peerAccessArrive_performs {s : State} {m : PeerReq} {t : TeamId} (hend : (s.focusCore m.dst).peerEnd m.group.team.grid = .team t)
    (hon : ∀ c, m.carry = some c → s.early (CoreId.die m.dst) c = false) :
    let r := ((s.focusCore m.dst).focusTeam t).peerPerform m.addr m.kind
    let done : State := match m.carry with | some c => r.2.raiseNow (c.read r.2.ep) | none => r.2
    exec (.peerAccessArrive m) s = .next (done.send (.peerAccessReply ⟨m.src, m.group, m.op, m.lane, m.route, r.1, true⟩)) := by
  intro r done
  have harrive : s.peerArrive m = done.send (.peerAccessReply ⟨m.src, m.group, m.op, m.lane, m.route, r.1, true⟩) := by
    unfold State.peerArrive
    dsimp only
    rw [hend]
    rfl
  have hexec : exec (.peerAccessArrive m) s = execPeerAccessArrive m s := rfl
  rw [hexec, ← harrive]
  unfold execPeerAccessArrive
  cases hc : m.carry with
  | none => rfl
  | some c => exact congrArg Host.Outcome.next (State.onTime_taken (hon c hc) _ _)

/-- PEER_ACCESS_REPLY (R488). -/
theorem peerAccessReply_binds {s : State} {m : PeerAns} {o : MemOp} (hhere : s.groupHere m.src m.group)
    (ho : (s.seen m.src m.group).grp.ops.find? (·.id == m.op) = some o) (hdel : m.delivered = true) :
    exec (.peerAccessReply m) s = .next
      ((((s.seen m.src m.group).onOp m.op fun o => o.bindLane m.lane m.values).focusGroup (s.focusCore m.src).gid).pump) := by
  let act (s : State) : State := match s.grp.ops.find? (·.id == m.op) with
    | none => s
    | some o =>
      let x := s.lane m.lane
      let drop (o : MemOp) : MemOp := { o with due := eraseN o.due m.lane, elems := o.elems.filter (·.lane != m.lane) }
      if m.delivered then s.onOp m.op fun o => o.bindLane m.lane m.values
      else if x.st == .exited then s.onOp m.op drop
      else if x.st == .parked || x.replay then s.later 1 (.peerAccessReply m)
      else
        (s.onOp m.op drop).lateTrap o m.lane { kind := 0x0D, addr := BitVec.ofNat 64 m.route }
  have hact : act (s.seen m.src m.group) = (s.seen m.src m.group).onOp m.op fun o => o.bindLane m.lane m.values := by
    dsimp only [act]
    rw [ho]
    exact if_pos hdel
  have hexec : exec (.peerAccessReply m) s = .next ((s.focusCore m.src).atGroup m.group act).pump := rfl
  rw [hexec, ← hact]
  exact congrArg (fun t : State => Host.Outcome.next t.pump) (if_pos hhere)

/-- XPEER_WRITE_ARRIVE (R350, R619). -/
theorem xpeerWriteArrive_writes {s : State} {m : XpeerMsg} {t : TeamId} (hon : s.early (CoreId.die m.dst) m.now = false) :
    let s1 := s.focusCore m.dst
    let runs := (s1.coreOf m.src).engine.any fun o => o.id == m.op && !o.cancelled
    (s1.peerEnd m.grid = .team t → exec (.xpeerWriteArrive m) s = .next (if runs then
        (((s1.focusTeam t).localWrite m.addr 4 (m.value.setWidth 64) m.poison).raiseNow (m.now.read s1.ep)).farWord m.src m.op .ok
        else s1.farWord m.src m.op .cancel))
      ∧ (s1.peerEnd m.grid = .nobody → exec (.xpeerWriteArrive m) s = .next (s1.farWord m.src m.op .route)) := by
  intro s1 runs
  refine ⟨fun h => congrArg Host.Outcome.next ((State.onTime_taken hon _ _).trans ?_),
    fun h => congrArg Host.Outcome.next ((State.onTime_taken hon _ _).trans ?_)⟩
  · dsimp only
    rw [h]
    show (if (!runs) = true then _ else _) = _
    cases runs <;> rfl
  · dsimp only
    rw [h]

/-- PACKET_ARRIVE (R357). -/
theorem packetArrive_enters {s : State} {m : PacketMsg} {t : TeamId} (hend : (s.focusCore m.dst).peerEnd m.grid = .team t)
    (hon : s.early (CoreId.die m.dst) m.packet.now = false) :
    let s2 := (s.focusCore m.dst).focusTeam t
    s2.team.inbox.length < 8 → exec (.packetArrive m) s = .next
      ((({ s2 with team := { s2.team with inbox := s2.team.inbox ++ [m.packet] } } : State).serveInbox (s2.team.precvs.length + 1)).farDone
        m.src m.op .ok) := by
  intro s2 hroom
  refine congrArg Host.Outcome.next ((State.onTime_taken hon _ _).trans ?_)
  dsimp only
  rw [hend]
  exact if_neg (Nat.not_le.mpr hroom)

/-! ### Matrix engines and graphics units (R362, R363, R368) -/

/-- MMA_START (R362). -/
theorem mmaStart_starts {s : State} {die quad : Nat} {m : MacroOp} {ta tb : Ty} {v : Bool} (hidle : (s.quad die quad).running = none)
    (hhead : (s.quad die quad).head = some m) (hkind : m.kind = .mma ta tb v) (hready : s.quartersReady die m.quad = true) :
    let r := (s.quadCores die m.quad).foldl (fun (a : List Quarter × State) c => ((a.1 ++ (a.2.takeQuarter c).1, (a.2.takeQuarter c).2)))
      ([], s.putQuad { (s.quad die quad).pop with running := some m })
    exec (.mmaStart die quad) s = .next
      ((r.2.putQuad { r.2.quad die quad with running := some { m with quarters := r.1 } }).after (r.2.macroClk die m) (.macroOpComplete die quad)) := by
  intro r
  have hexec : exec (.mmaStart die quad) s = execMmaStart die quad s := rfl
  rw [hexec]
  unfold execMmaStart
  dsimp only
  rw [hidle, hhead]
  dsimp only
  rw [hkind]
  exact congrArg Host.Outcome.next (if_pos hready)

/-- MACRO_OP_COMPLETE (R363). -/
theorem macroOpComplete_ends {s : State} {die quad : Nat} {m : MacroOp} (hrun : (s.quad die quad).running = some m) :
    let s1 := s.macroEffect die m
    let s2 := (s1.putQuad { s1.quad die quad with running := none }).kick die quad
    exec (.macroOpComplete die quad) s = .next
      ((s2.atCore m.core fun t => t.eachGroup State.poll).atCore m.ctl fun t => t.eachGroup State.poll) := by
  intro s1 s2
  have hexec : exec (.macroOpComplete die quad) s = execMacroOpComplete die quad s := rfl
  rw [hexec]
  unfold execMacroOpComplete
  dsimp only
  rw [hrun]

/-- UNIT_RESULT_WRITE (R368). -/
theorem unitResultWrite_goesOn {s : State} {core : CoreId} {op : Nat} {o : UnitOp} (ho : (s.focusCore core).core.units.find? (·.id == op) = some o)
    (hhere : s.groupHere core o.gid) :
    exec (.unitResultWrite core op) s = .next
      (((s.seen core o.gid).unitRun 4096 { o with asleep := false }).focusGroup (s.focusCore core).gid) := by
  have hfound : ¬ ((s.focusCore core).findGroup o.gid).isNone = true := by
    rw [Option.isNone_iff_eq_none]
    intro h
    unfold State.groupHere at hhere
    rw [h] at hhere
    cases hhere
  have hexec : exec (.unitResultWrite core op) s = execUnitResultWrite core op s := rfl
  rw [hexec]
  unfold execUnitResultWrite
  dsimp only
  rw [ho]
  exact congrArg Host.Outcome.next ((if_neg hfound).trans (if_pos hhere))

/-- Settles O46: each arrival finds the operation, team, engine or pass that it names, and goes on there. -/
theorem farEffects : Obligations.FarEffects := by
  intro s
  refine ⟨fun m o u us => ?_, fun core op o => ?_, fun m t => peerAccessArrive_performs, fun m o => peerAccessReply_binds, fun m t => ?_,
    fun m t => packetArrive_enters, fun die quad m ta tb v => mmaStart_starts, fun die quad m => macroOpComplete_ends,
    fun m hon => congrArg Host.Outcome.next (State.onTime_taken hon _ _), fun m => rfl, fun core op o => unitResultWrite_goesOn⟩
  · intro s1 hon ho hunits
    obtain ⟨hfirst, hsecond⟩ := prepack_commits hon ho hunits
    exact ⟨hfirst, hsecond, commitack_goesOn hon ho hunits⟩
  · exact copyComplete_goesOn
  · intro s1 runs hon
    exact xpeerWriteArrive_writes hon

end Sys2Proof.Machine
end

section
/-! PROOFS. Messages between barrier objects. -/

namespace Sys2Proof.Machine

/-- ARRIVE where a team is resident that has the object (R356). -/
theorem exec_arrive {s : State} {m : ArriveMsg} {t : TeamId} (hend : (s.focusCore m.dst).peerEnd m.group.team.grid = .team t)
    (hobj : ((s.focusCore m.dst).focusTeam t).team.lrec.isObject m.addr = true) :
    let s1 := (s.focusCore m.dst).focusTeam t
    let back (n : Nat) : Instr := match m.kind with
      | .wait _ => .barwaitReply ⟨m.src, m.group, m.addr, true, n, m.lanes, none⟩
      | k => .arriveReply ⟨m.src, m.group, m.srcObj, m.kind == .forward, n, m.lanes, if k == .drop && n != 0 then some (ArriveMsg.kept m) else none⟩
    exec (.arrive m) s = .next (match m.kind with
      | .wait par =>
        let o := s1.bar m.addr
        if o.broken then s1.send (back 2)
        else if o.phase != par then s1.send (.barwaitReply ⟨m.src, m.group, m.addr, o.count, 0, m.lanes, none⟩)
        else { s1 with team := { s1.team with barWaiters := s1.team.barWaiters ++ [⟨m.src, m.group, m.addr, par⟩] } }
      | .forward =>
        match s1.arriveBar m.addr none false ⟨m.addr, m.group.team, some (m.src, m.srcObj)⟩ (some m) with
        | (0, s) => s
        | (n + 1, s) => s.send (back (n + 1))
      | k =>
        let r := s1.arriveBar m.addr none (k == .drop) ⟨m.addr, m.group.team, none⟩ none
        r.2.send (back r.1)) := by
  intro s1 back
  have hexec : exec (.arrive m) s = execArrive m s := rfl
  rw [hexec]
  unfold execArrive
  dsimp only
  rw [hend]
  dsimp only
  rw [hobj]
  rfl

/-- ARRIVE_REPLY where its team is (R356). -/
theorem exec_arriveReply {s : State} {m : ArriveAns}
    (hhome : (s.focusCore m.dst).followTeam m.group.team m.dst (fun c => .arriveReply { m with dst := c }) = none)
    (hgood : m.detail = 0) (hleave : m.leave = none) :
    let s1 := s.focusCore m.dst
    exec (.arriveReply m) s = .next (if m.forward then
        (if (s1.focusTeam m.group.team).team.id ≠ m.group.team then s1.focusTeam m.group.team
         else if ((s1.focusTeam m.group.team).bar m.obj).fwd then (s1.focusTeam m.group.team).completeBar m.obj else s1.focusTeam m.group.team)
      else s1.atGroup m.group fun s =>
        match s.grp.arrs.find? (·.1 == m.obj) with
        | none => s
        | some _ => s.onGrp fun g => { g with arrs := g.arrs.filter (·.1 != m.obj) }) := by
  intro s1
  have hexec : exec (.arriveReply m) s = execArriveReply m s := rfl
  have hdrop (s : State) : s.dropFailed m = s := by
    unfold State.dropFailed
    rw [hleave]
  rw [hexec]
  unfold execArriveReply
  dsimp only
  rw [hhome]
  dsimp only
  rw [hdrop, hgood]
  rfl

/-- A remote arrival or drop is judged by its object and answered (R356, R493). -/
theorem arrive_answered {s : State} {m : ArriveMsg} {t : TeamId} (hend : (s.focusCore m.dst).peerEnd m.group.team.grid = .team t)
    (hobj : ((s.focusCore m.dst).focusTeam t).team.lrec.isObject m.addr = true) (hkind : m.kind = .arrive ∨ m.kind = .drop) :
    let r := ((s.focusCore m.dst).focusTeam t).arriveBar m.addr none (m.kind == .drop) ⟨m.addr, m.group.team, none⟩ none
    exec (.arrive m) s = .next (r.2.send (.arriveReply ⟨m.src, m.group, m.srcObj, false, r.1, m.lanes,
      if m.kind == .drop && r.1 != 0 then some (ArriveMsg.kept m) else none⟩)) := by
  obtain ⟨src, group, srcObj, dst, addr, kind, lanes, route⟩ := m
  dsimp only at hkind
  rcases hkind with rfl | rfl
  · exact exec_arrive (m := ⟨src, group, srcObj, dst, addr, .arrive, lanes, route⟩) hend hobj
  · exact exec_arrive (m := ⟨src, group, srcObj, dst, addr, .drop, lanes, route⟩) hend hobj

/-- Settles O47: an arrival is judged by its object, and an answer reaches the object or the group that waits for it. -/
theorem barrierMessages : Obligations.BarrierMessages := by
  intro s
  refine ⟨fun m t => ?_, fun m => ?_, fun m t => ?_⟩
  · intro s1 hend hobj
    refine ⟨arrive_answered hend hobj, fun par hkind hwhole => ⟨fun hphase => ?_, fun hphase => ?_⟩⟩
    · rw [exec_arrive hend hobj, hkind]
      dsimp only
      rw [hwhole]
      exact congrArg Host.Outcome.next (if_pos (bne_iff_ne.mpr hphase))
    · rw [exec_arrive hend hobj, hkind]
      dsimp only
      rw [hwhole]
      exact congrArg Host.Outcome.next (if_neg fun h => bne_iff_ne.mp h hphase)
  · intro s1 hhome hgood hleave
    refine ⟨fun hfwd hid hbar => ?_, fun hfwd hhere hfound => ?_⟩
    · exact (exec_arriveReply hhome hgood hleave).trans
        (congrArg Host.Outcome.next ((if_pos hfwd).trans ((if_neg fun h => h hid).trans (if_pos hbar))))
    · obtain ⟨r, hr, hobj⟩ := hfound
      have hback : ¬ m.forward = true := by rw [hfwd]; exact Bool.false_ne_true
      have hexec := (exec_arriveReply hhome hgood hleave).trans (congrArg Host.Outcome.next (if_neg hback))
      refine .of_atGroup hhere hexec ?_
      have hsome : ((s.seen m.dst m.group).grp.arrs.find? (·.1 == m.obj)).isSome = true :=
        List.find?_isSome.mpr ⟨r, hr, beq_iff_eq.mpr hobj⟩
      obtain ⟨r', hr'⟩ := Option.isSome_iff_exists.mp hsome
      rw [hr']
  · intro s1 hend hobj hcount here
    have hexec : exec (.leave m) s = execLeave m s := rfl
    rw [hexec]
    unfold execLeave
    dsimp only
    rw [hend]
    refine congrArg Host.Outcome.next (if_neg ?_)
    rw [show ((s.focusCore m.dst).focusTeam t).team.lrec.isObject m.addr = true from hobj,
      show (((s.focusCore m.dst).focusTeam t).bar m.addr).count = true from hcount]
    exact Bool.false_ne_true

end Sys2Proof.Machine
end

section
/-! SUPPORT. Page walks and the page service (R260 to R265). -/

namespace Sys2Proof.Machine

/-! ### What the read of a table leaves as it is -/

/-- Making a line resident sends at most recalls. -/
theorem State.fillHome_agenda (s : State) (line : Nat) : ∀ i ∈ s.agenda, i ∈ (s.fillHome line).2.agenda := by
  intro i hi
  unfold State.fillHome
  split
  · exact hi
  · dsimp only
    split
    · exact hi
    · split
      · exact hi
      · split
        · next v _ =>
          unfold State.recall
          split
          · exact List.mem_append_left _ hi
          · exact hi
        · exact hi

theorem State.useLines_agenda (s : State) (lines : List Nat) : ∀ i ∈ s.agenda, i ∈ (s.useLines lines).agenda := by
  intro i hi
  unfold State.useLines
  exact List.foldlRecOn (motive := fun t : State => i ∈ t.agenda) lines _ hi fun t ht l _ => t.fillHome_agenda l i ht

/-- The table's line is in use (R274). -/
def State.tableUsed (s : State) (w : Walking) : State := if s.dieAbsent (paDie w.entry) then s else s.useLines [w.entry / 128]

/-- The state in which a walker reads its entry: the walkers that share the read go on next (R261). -/
def State.reading (s : State) (w : Walking) : State := (s.tableUsed w).shareRead w

theorem State.tableUsed_keeps (s : State) (w : Walking) : (s.tableUsed w).dies = s.dies ∧ ∀ i ∈ s.agenda, i ∈ (s.tableUsed w).agenda := by
  unfold State.tableUsed
  split
  · exact ⟨rfl, fun i h => h⟩
  · obtain ⟨h, sl, ag, e⟩ := s.useLines_eq [w.entry / 128]
    exact ⟨by rw [e], s.useLines_agenda _⟩

theorem State.reading_dies (s : State) (w : Walking) : (s.reading w).dies = s.dies := (s.tableUsed_keeps w).1

theorem State.reading_walker (s : State) (w : Walking) (m : WalkReq) : (s.reading w).walker m = s.walker m := by
  unfold State.walker
  rw [State.die_of_dies (s.reading_dies w)]

/-- The other walkers of the die that read the line go on next (R261). -/
theorem State.reading_shares {s : State} {w : Walking} {m : WalkReq} (hw : s.walker m = some w) :
    ∀ x ∈ (s.die (CoreId.die m.core)).walking, x.req ≠ m → x.entry / 128 = w.entry / 128 → .walkComplete x.req ∈ s.agenda →
      .walkComplete x.req ∈ (s.reading w).arrived := by
  have hreq : w.req = m := beq_iff_eq.mp (List.find?_some (p := fun x : Walking => x.req == m) hw)
  intro x hx hne hline hi
  obtain ⟨hdies, hagenda⟩ := s.tableUsed_keeps w
  refine List.mem_append_left _ (List.mem_filter.mpr ⟨?_, List.contains_iff_mem.mpr (hagenda _ hi)⟩)
  refine List.mem_map.mpr ⟨x, List.mem_filter.mpr ⟨?_, ?_⟩, rfl⟩
  · have hdie : (s.tableUsed w).die (CoreId.die w.req.core) = s.die (CoreId.die m.core) := by
      rw [State.die_of_dies hdies, hreq]
    rw [hdie]
    exact hx
  · rw [hreq]
    simp [hne, hline]

/-- A walk goes on where no home holds its read back. -/
theorem exec_walkComplete {s : State} {m : WalkReq} {w : Walking} (hw : s.walker m = some w) (hheld : s.tableHeld w = false) :
    exec (.walkComplete m) s = .next ((s.reading w).walkOn w) := by
  have hexec : exec (.walkComplete m) s = execWalkComplete m s := rfl
  rw [hexec]
  unfold execWalkComplete
  rw [hw]
  exact congrArg Host.Outcome.next (if_neg (by rw [hheld]; exact Bool.false_ne_true))

/-- A fault that the control node is to resolve is recorded (R263). -/
theorem State.askService_records {s : State} {w : Walking} (hhost : (s.die (CoreId.die w.req.core)).dutySel.getLsbD 2 = true) :
    ∃ q, ((s.askService w).die (CoreId.die w.req.core)).faultRecs = (s.die (CoreId.die w.req.core)).faultRecs ++ [(q, w.req)] := by
  unfold State.askService
  dsimp only
  rw [hhost]
  split
  · next h => exact absurd h (by decide)
  · split
    · next r _ =>
      refine ⟨r.1, ?_⟩
      rw [s.die_onDie _ _ (s.die_num _)]
    · refine ⟨(s.die (CoreId.die w.req.core)).faultSeq, ?_⟩
      have hdie (f : Die → Die) (u : List Byte) : ((s.onDie (CoreId.die w.req.core) f).sendUp u).die (CoreId.die w.req.core)
          = (s.onDie (CoreId.die w.req.core) f).die (CoreId.die w.req.core) := rfl
      rw [hdie, s.die_onDie _ _ (s.die_num _)]

/-- An entry that leads further down is cached, and its walker reads the next table (R260). -/
theorem State.walkOn_down {s : State} {w : Walking} {e : BitVec 64} (hw : s.walker w.req = some w) (he : s.readEntry w = .down e) :
    let m := w.req
    (s.walkOn w).agenda = s.agenda ++ [.walkComplete m] ∧ (s.walkOn w).walker m = some ⟨m, w.level - 1, pteAddr e⟩
      ∧ ⟨m.asid, w.level, m.va / 2 ^ levelBit w.level * 2 ^ levelBit w.level, e⟩ ∈ ((s.walkOn w).die (CoreId.die m.core)).walkCache := by
  intro m
  let d := CoreId.die m.core
  let x : WalkEntry := ⟨m.asid, w.level, m.va / 2 ^ levelBit w.level * 2 ^ levelBit w.level, e⟩
  let next (y : Walking) : Walking := if y.req = m then ⟨m, w.level - 1, pteAddr e⟩ else y
  have hon : s.walkOn w = ((s.cacheEntry d x).onDie d fun y => { y with walking := y.walking.map next }).send (.walkComplete m) := by
    unfold State.walkOn
    dsimp only
    rw [he]
  obtain ⟨cs, fr, hcache⟩ : ∃ cs fr, s.cacheEntry d x = ({ s with fresh := fr } : State).onDie d fun y => { y with walkCache := x :: cs } := by
    unfold State.cacheEntry State.dropOne
    dsimp only
    split
    · exact ⟨_, s.fresh, rfl⟩
    · exact ⟨_, _, rfl⟩
  have hd : (s.cacheEntry d x).die d = { s.die d with walkCache := x :: cs } := by
    rw [hcache]
    exact State.die_onDie ({ s with fresh := fr } : State) d _ (s.die_num d)
  have hdie : (s.walkOn w).die d = { s.die d with walkCache := x :: cs, walking := (s.die d).walking.map next } := by
    rw [hon]
    refine (State.die_onDie (s.cacheEntry d x) d (fun y => { y with walking := y.walking.map next }) (State.die_num _ d)).trans ?_
    rw [hd]
  refine ⟨?_, ?_, ?_⟩
  · rw [hon, hcache]
    rfl
  · unfold State.walker at hw ⊢
    rw [show ((s.walkOn w).die (CoreId.die m.core)).walking = (s.die d).walking.map next from congrArg Die.walking hdie, List.find?_map]
    have hsame : ((fun y : Walking => y.req == m) ∘ next) = fun y : Walking => y.req == m := by
      funext y
      dsimp only [Function.comp, next]
      split
      · next h => rw [h]
      · rfl
    rw [hsame, hw]
    exact congrArg some (if_pos rfl)
  · rw [show (s.walkOn w).die (CoreId.die m.core) = _ from hdie]
    exact List.mem_cons_self

/-- The page service where no home holds its read back (R263). -/
theorem exec_pageServiceResolve {s : State} {m : WalkReq} {w : Walking} (hw : s.walker m = some w) (hheld : s.tableHeld w = false) :
    exec (.pageServiceResolve m) s = .next (match s.readEntry w with
      | .absent level at' e =>
        if demandZero level e then
          match ((s.die (CoreId.die m.core)).takeFrame level).1 with
          | some frame =>
            (((s.onDie (CoreId.die m.core) fun _ => ((s.die (CoreId.die m.core)).takeFrame level).2).zeroFrame frame (levelBit level)).firmwareWrite
              at' 8 (resolvedPte e frame).toNat).send (.walkComplete m)
          | none => (s.onDie (CoreId.die m.core) fun _ => ((s.die (CoreId.die m.core)).takeFrame level).2).endWalk m .unresolved
        else s.endWalk m .unresolved
      | _ => s.send (.walkComplete m)) := by
  have hexec : exec (.pageServiceResolve m) s = execPageServiceResolve m s := rfl
  rw [hexec]
  unfold execPageServiceResolve
  dsimp only
  rw [hw]
  exact congrArg Host.Outcome.next (if_neg (by rw [hheld]; exact Bool.false_ne_true))

theorem demandZero_iff (level : Nat) (e : BitVec 64) :
    demandZero level e = true ↔ level ≤ 1 ∧ pteDz e = true ∧ pteAttr e = 0 ∧ pteLeaf e = true := by
  unfold demandZero
  simp only [Bool.and_eq_true, decide_eq_true_eq, beq_iff_eq, and_assoc]

end Sys2Proof.Machine
end
section
/-! SUPPORT. Zeroed frames, replies of the page service, and invalidation of translations (R263, R269, R270). -/

namespace Sys2Proof.Machine

/-! ### A zeroed frame (R263) -/

theorem read_unlisted {u : Nat → Byte} {l : List Host.Cell} {a : Nat} (h : ∀ c ∈ l, c.1 ≠ a) : Memory.read u l a = u a := by
  induction l with
  | nil => rfl
  | cons c l ih =>
    unfold Memory.read
    rw [if_neg (h c List.mem_cons_self)]
    split
    · rfl
    · exact ih fun x hx => h x (List.mem_cons_of_mem _ hx)

theorem State.sameMemory_firmwareStamp (s : State) (h : Home) : s.sameMemory (s.firmwareStamp h) := by
  let w := s.writeStamp h (s.die (lineDie h.line)).fwNow
  let f (x : Die) : Die := { x with fwNow := ⟨x.epoch, w⟩ }
  have hepoch (x : Die) : (f x).epoch = x.epoch := rfl
  exact (s.sameMemory_stamp h w).trans (.onDie (s.stamp h w) (lineDie h.line) (f := f) (State.die_num (s.stamp h w) _) (hepoch _))

theorem State.sameMemory.foldl {α : Type} (l : List α) {g : State → α → State} (h : ∀ (t : State) (x : α), t.sameMemory (g t x)) (s : State) :
    s.sameMemory (l.foldl g s) :=
  List.foldlRecOn (motive := fun t : State => s.sameMemory t) l g (.refl s) fun t ht x _ => ht.trans (h t x)

theorem State.sameMemory_onSlice (s : State) (line : Nat) (f : Slice → Slice) : s.sameMemory (s.onSlice line f) := ⟨fun _ => rfl, rfl, rfl⟩

/-- No listed byte stands in a zeroed frame. -/
theorem State.byte_zeroFrame (s : State) {frame size a : Nat} (hlo : frame ≤ a) (hhi : a < frame + 2 ^ size) :
    (s.zeroFrame frame size).byte a = s.unlisted a ∧ (s.zeroFrame frame size).unlisted = s.unlisted := by
  let inside (a w : Nat) : Bool := decide (frame ≤ a * w) && decide (a * w < frame + 2 ^ size)
  let u : State := { s with
    mem := s.mem.filter fun c => !inside c.1 1
    memPoison := s.memPoison.filter fun k => !inside k 32 }
  have hsame : u.sameMemory (s.zeroFrame frame size) := by
    unfold State.zeroFrame
    refine State.sameMemory.trans (.foldl _ (fun t k => t.sameMemory_onSlice _ _) u) (.foldl _ (fun t h => t.sameMemory_firmwareStamp h) _)
  obtain ⟨-, hmem, hpub⟩ := hsame
  have hunl : (s.zeroFrame frame size).unlisted = s.unlisted := congrArg unlistedByte hpub
  refine ⟨?_, hunl⟩
  unfold State.byte
  rw [hunl, hmem]
  refine read_unlisted fun c hc hca => ?_
  have hout := (List.mem_filter.mp hc).2
  have hin : inside c.1 1 = true := by
    dsimp only [inside]
    rw [hca, Nat.mul_one, decide_eq_true hlo, decide_eq_true hhi]
    rfl
  rw [hin] at hout
  cases hout

/-- An answer of the control node (R263, R465). -/
theorem pagereplyWrite_answers (s : State) (k : Nat) (v : DWord) :
    let mine := (s.die k).faultRecs.filter (·.1 == v.setWidth 32)
    let s2 := s.onDie k fun x => { x with faultRecs := x.faultRecs.filter (·.1 != v.setWidth 32) }
    exec (.pagereplyWrite k v) s = .next
      (if v.getLsbD 32 = true then { s2 with agenda := s2.agenda ++ mine.map fun r => .walkComplete r.2 }
      else mine.foldl (fun t r => t.endWalk r.2 .unresolved) s2) := by
  intro mine s2
  have hseq : BitVec.ofNat 32 v.toNat = v.setWidth 32 := BitVec.eq_of_toNat_eq (by simp)
  have hexec : exec (.pagereplyWrite k v) s = execPagereplyWrite k v s := rfl
  rw [hexec]
  unfold execPagereplyWrite
  dsimp only
  rw [hseq, foldl_send]

/-! ### Invalidation (R269, R270) -/

/-- TINV_GO (R269). -/
theorem tinvGo_begins {s : State} {k : Nat} {v : Word} (habs : s.dieAbsent k = false) (hbusy : (s.die k).tinv.busy = false)
    (hgo : v.getLsbD 31 = true) : exec (.tinvGo k v) s = .next
      ((s.onDie k fun x => { x with tinv := { x.tinv with cmd := v.extractLsb' 0 17, busy := true } }).send (.tinvDone k)) := by
  have h : ¬ (s.dieAbsent k || (s.die k).tinv.busy || !v.getLsbD 31) = true := by
    rw [habs, hbusy, hgo]
    exact Bool.false_ne_true
  exact congrArg Host.Outcome.next (if_neg h)

/-- What an invalidation drops at its die (R270). -/
theorem State.dropRange_covers (s : State) (k : Nat) : let t := s.dropRange k
    (t.die k).tinv = (s.die k).tinv
    ∧ (∀ c ∈ t.core :: t.cores, CoreId.die c.id = k → ∀ l ∈ c.ltc, (s.die k).tinv.covers l.asid l.va (2 ^ l.size) = false)
    ∧ (∀ c ∈ t.core :: t.cores, CoreId.die c.id = k → ∀ h ∈ c.walkOuts, (s.die k).tinv.covers h.asid (h.page * 2 ^ 16) (2 ^ 16) = false)
    ∧ (∀ c ∈ t.clusters, c.die = k → ∀ l ∈ c.tc, (s.die k).tinv.covers l.asid l.va (2 ^ l.size) = false)
    ∧ ((s.die k).tinv.cmd.getLsbD 16 = true → ∀ w ∈ (t.die k).walkCache, (s.die k).tinv.covers w.asid w.va (2 ^ levelBit w.level) = false) := by
  intro t
  let x := (s.die k).tinv
  let keep (l : Leaf) : Bool := !x.covers l.asid l.va (2 ^ l.size)
  let core (c : Core) : Core :=
    if CoreId.die c.id ≠ k then c
    else { c with ltc := c.ltc.filter keep, walkOuts := c.walkOuts.filter fun h => !x.covers h.asid (h.page * 2 ^ 16) (2 ^ 16) }
  have hcores : t.core :: t.cores = (s.core :: s.cores).map core := rfl
  have hclean (c : Core) (hc : c ∈ t.core :: t.cores) (hk : CoreId.die c.id = k) :
      (∀ l ∈ c.ltc, x.covers l.asid l.va (2 ^ l.size) = false) ∧ ∀ h ∈ c.walkOuts, x.covers h.asid (h.page * 2 ^ 16) (2 ^ 16) = false := by
    rw [hcores] at hc
    obtain ⟨c', -, rfl⟩ := List.mem_map.mp hc
    have hk' : CoreId.die c'.id = k := by
      dsimp only [core] at hk
      split at hk
      · exact hk
      · exact hk
    dsimp only [core]
    rw [if_neg fun h => h hk']
    exact ⟨fun l hl => by simpa [keep] using (List.mem_filter.mp hl).2, fun h hh => by simpa using (List.mem_filter.mp hh).2⟩
  let dropWalks (d : Die) : Die :=
    let d := if x.cmd.getLsbD 16 then { d with walkCache := d.walkCache.filter fun w => !x.covers w.asid w.va (2 ^ levelBit w.level) } else d
    let again (w : Walking) : Walking :=
      if x.covers w.req.asid (walkPage w.req.va * 2 ^ 16) (2 ^ 16) then
        let st := d.walkStart w.req.asid w.req.va w.req.troot
        ⟨w.req, st.1, st.2⟩
      else w
    { d with walking := d.walking.map again }
  have hnum : (dropWalks (s.die k)).num = k := by
    dsimp only [dropWalks]
    split <;> exact s.die_num k
  have hdie : t.die k = dropWalks (s.die k) := State.die_onDie ({ s with core := core s.core, cores := s.cores.map core, clusters := t.clusters } : State) k dropWalks hnum
  refine ⟨?_, fun c hc hk => (hclean c hc hk).1, fun c hc hk => (hclean c hc hk).2, fun c hc hk l hl => ?_, fun hcmd w hw => ?_⟩
  · rw [hdie]
    dsimp only [dropWalks]
    split <;> rfl
  · have hclusters : t.clusters = s.clusters.map fun (c : Cluster) => if c.die = k then { c with tc := c.tc.filter keep } else c := rfl
    rw [hclusters] at hc
    obtain ⟨c', -, rfl⟩ := List.mem_map.mp hc
    split at hl
    · simpa [keep] using (List.mem_filter.mp hl).2
    · next hne =>
      rw [if_neg hne] at hk
      exact absurd hk hne
  · rw [hdie] at hw
    dsimp only [dropWalks] at hw
    rw [if_pos hcmd] at hw
    simpa using (List.mem_filter.mp hw).2

/-- TINV_DONE as it comes the first time (R270). -/
theorem tinvDone_drops {s : State} {k : Nat} (hbusy : (s.die k).tinv.busy = true) (hsince : (s.die k).tinv.since = none) :
    let asid := (s.die k).tinv.cmd.toNat % 2 ^ 16
    ∃ t, exec (.tinvDone k) s = .next t
      ∧ (let waits := (s.dropRange k).unsentAt k asid s.fresh
         (t.die k).tinv = { (s.die k).tinv with busy := waits, since := if waits then some s.fresh else none })
      ∧ t.core = (s.dropRange k).core ∧ t.cores = (s.dropRange k).cores ∧ t.clusters = (s.dropRange k).clusters
      ∧ (t.die k).walkCache = ((s.dropRange k).die k).walkCache := by
  intro asid
  let u := s.dropRange k
  have hexec : exec (.tinvDone k) s = .next (if u.unsentAt k asid s.fresh then
        (u.onDie k fun d => { d with tinv := { d.tinv with since := some s.fresh } }).later 1 (.tinvDone k)
      else u.onDie k fun d => { d with tinv := { d.tinv with busy := false, since := none } }) := by
    have hexec : exec (.tinvDone k) s = execTinvDone k s := rfl
    rw [hexec]
    unfold execTinvDone
    dsimp only
    rw [hbusy, hsince]
    rfl
  obtain ⟨htinv, -⟩ := s.dropRange_covers k
  let wait (d : Die) : Die := { d with tinv := { d.tinv with since := some s.fresh } }
  let done (d : Die) : Die := { d with tinv := { d.tinv with busy := false, since := none } }
  cases hw : u.unsentAt k asid s.fresh with
  | true =>
    have hdie : (u.onDie k wait).die k = wait (u.die k) := u.die_onDie k wait (u.die_num k)
    have hcache : ((u.onDie k wait).die k).walkCache = (u.die k).walkCache := by rw [hdie]
    refine ⟨(u.onDie k wait).later 1 (.tinvDone k), hexec.trans (congrArg Host.Outcome.next (if_pos hw)), ?_, rfl, rfl, rfl, hcache⟩
    refine (congrArg Die.tinv hdie).trans ?_
    dsimp only [wait, u]
    rw [htinv, hbusy]
    rfl
  | false =>
    have hdie : (u.onDie k done).die k = done (u.die k) := u.die_onDie k done (u.die_num k)
    have hcache : ((u.onDie k done).die k).walkCache = (u.die k).walkCache := by rw [hdie]
    refine ⟨u.onDie k done, hexec.trans (congrArg Host.Outcome.next (if_neg (by rw [hw]; exact Bool.false_ne_true))), ?_, rfl, rfl, rfl, hcache⟩
    refine (congrArg Die.tinv hdie).trans ?_
    dsimp only [done, u]
    rw [htinv]
    rfl

/-- TINV_DONE once every access has been sent (R270). -/
theorem tinvDone_ends {s : State} {k n : Nat} (hbusy : (s.die k).tinv.busy = true) (hsince : (s.die k).tinv.since = some n)
    (hsent : s.unsentAt k ((s.die k).tinv.cmd.toNat % 2 ^ 16) n = false) :
    exec (.tinvDone k) s = .next (s.onDie k fun x => { x with tinv := { x.tinv with busy := false, since := none } }) := by
  have hexec : exec (.tinvDone k) s = execTinvDone k s := rfl
  rw [hexec]
  unfold execTinvDone
  dsimp only
  rw [hbusy, hsince]
  have hgo : ¬ s.unsentAt k ((s.die k).tinv.cmd.toNat % 2 ^ 16) n = true := by rw [hsent]; exact Bool.false_ne_true
  exact congrArg Host.Outcome.next (if_neg hgo)

end Sys2Proof.Machine
end
section
/-! SUPPORT. Rebase, replicated pages, retention, parity and scrubbing (R297 to R309, R438). -/

namespace Sys2Proof.Machine

/-! ### Rebase (R297 to R301) -/

/-- A start to the next epoch (R299). -/
theorem rebaseStart_steps {s : State} {d : Nat} {ep : BitVec 2} (habs : s.dieAbsent d = false) (hep : (s.die d).epoch + 1 = ep) :
    ∃ t : State, exec (.rebaseStart d ep) s = .next (t.wakeDie d)
      ∧ (t.die d).epoch = ep ∧ (t.die d).rebases = (s.die d).rebases + 1 ∧ (t.die d).sweeping = true ∧ (t.die d).rebaseReq = false
      ∧ t.agenda = s.agenda ++ [.sweepDone d] ∧ t.arrived = (s.die d).stalled ++ s.arrived
      ∧ t.cores.length = s.cores.length
      ∧ ∀ k, k ∈ (s.core, t.core) :: s.cores.zip t.cores → k.2.now = if CoreId.die k.1.id = d ∧ k.1.retained = false
          then ⟨ep, max k.1.now.tick 0x800001 - 0x800000⟩ else k.1.now := by
  let core (c : Core) : Core := if CoreId.die c.id = d ∧ !c.retained then c.stepEpoch ep else c
  let step (x : Die) : Die := { x with
    epoch := ep, rebases := x.rebases + 1, rebaseReq := false, rebaseGo := false, sweeping := true, stalled := []
    idleNow := stepNow ep x.idleNow }
  let port (t : Stamp) : Stamp := if t.ep + 1 = ep then stepNow ep t else t
  let u := (s.mapCores core).onDie d step
  let t : State := (({ u with portNow := port u.portNow, ports := u.ports.map fun (x : Port) => { x with now := port x.now } } : State).requeue
    (s.die d).stalled).send (.sweepDone d)
  have hgo : ¬ (s.dieAbsent d || (s.die d).epoch + 1 != ep) = true := by rw [habs, hep]; simp
  have hdie : t.die d = step (s.die d) := (s.mapCores core).die_onDie d step (s.die_num d)
  have hnow (c : Core) : (core c).now = if CoreId.die c.id = d ∧ c.retained = false then ⟨ep, max c.now.tick 0x800001 - 0x800000⟩ else c.now := by
    dsimp only [core]
    simp only [Bool.not_eq_true']
    split <;> rfl
  refine ⟨t, congrArg Host.Outcome.next (if_neg hgo), by rw [hdie], by rw [hdie], by rw [hdie], by rw [hdie], rfl, rfl, List.length_map _,
    fun k hk => ?_⟩
  rcases List.mem_cons.mp hk with rfl | hk
  · exact hnow s.core
  · have hcores : t.cores = s.cores.map core := rfl
    rw [hcores] at hk
    obtain ⟨i, hi, hget⟩ := List.mem_iff_getElem.mp hk
    rw [List.getElem_zip, List.getElem_map] at hget
    rw [← hget]
    exact hnow _

theorem Stamp.swept_ep (e : BitVec 2) (t : Stamp) : (Stamp.swept e t).ep = e := rfl

/-- Where a group of the module stands. -/
theorem State.mem_allGroups {s : State} {x : CoreId × GroupId × Group} (hx : x ∈ s.allGroups) :
    (x.1 = s.core.id ∧ (x.2.2 = s.grp ∨ x.2.2 ∈ s.team.groups ∨ ∃ t ∈ s.core.teams, x.2.2 ∈ t.groups))
      ∨ ∃ c ∈ s.cores, x.1 = c.id ∧ ∃ t ∈ c.teams, x.2.2 ∈ t.groups := by
  unfold State.allGroups at hx
  obtain ⟨gs, hgs, hx⟩ := List.mem_flatten.mp hx
  obtain ⟨y, hy, rfl⟩ := List.mem_map.mp hgs
  obtain ⟨g, hg, rfl⟩ := List.mem_map.mp hx
  unfold State.allTeams at hy
  obtain ⟨ts, hts, hy⟩ := List.mem_flatten.mp hy
  obtain ⟨c, hc, rfl⟩ := List.mem_map.mp hts
  obtain ⟨t, ht, rfl⟩ := List.mem_map.mp hy
  rcases List.mem_cons.mp hc with rfl | hc
  · refine .inl ⟨rfl, ?_⟩
    rcases List.mem_append.mp ht with ht | ht
    · split at ht
      · cases ht
      · obtain rfl := List.mem_singleton.mp ht
        rcases List.mem_append.mp hg with hg | hg
        · split at hg
          · cases hg
          · exact .inl (List.mem_singleton.mp hg)
        · exact .inr (.inl hg)
    · exact .inr (.inr ⟨t, ht, hg⟩)
  · exact .inr ⟨c, hc, rfl, t, ht, hg⟩

/-- A property that a change of the groups of some cores gives each of them. -/
theorem State.mapGroups_all {s : State} {p : CoreId → Bool} {f : TeamId → Group → Group} {q : Group → Prop} (hq : ∀ t g, q (f t g)) :
    ∀ x ∈ (s.mapGroups p f).allGroups, p x.1 = true → q x.2.2 := by
  intro x hx hp
  have hteams {ts : List Team} {g : Group} (h : ∃ t ∈ ts.map fun t => { t with groups := t.groups.map (f t.id) }, g ∈ t.groups) : q g := by
    obtain ⟨t, ht, hg⟩ := h
    obtain ⟨t, -, rfl⟩ := List.mem_map.mp ht
    obtain ⟨g, -, rfl⟩ := List.mem_map.mp hg
    exact hq _ _
  rcases State.mem_allGroups hx with ⟨hid, hx⟩ | ⟨c, hc, hid, hx⟩
  · have hhere : p s.core.id = true := by
      rw [← hp, hid]
      show p s.core.id = p (if p s.core.id then _ else s.core).id
      split <;> rfl
    have hgrp : (s.mapGroups p f).grp = f s.team.id s.grp := if_pos hhere
    have hteam : (s.mapGroups p f).team = { s.team with groups := s.team.groups.map (f s.team.id) } := if_pos hhere
    have hcore : (s.mapGroups p f).core = { s.core with teams := s.core.teams.map fun t => { t with groups := t.groups.map (f t.id) } } :=
      if_pos hhere
    rw [hgrp, hteam, hcore] at hx
    rcases hx with hx | hx | hx
    · rw [hx]
      exact hq _ _
    · obtain ⟨g, -, hg⟩ := List.mem_map.mp hx
      rw [← hg]
      exact hq _ _
    · exact hteams hx
  · obtain ⟨c, -, rfl⟩ := List.mem_map.mp hc
    have hpc : p c.id = true := by
      rw [← hp, hid]
      split <;> rfl
    rw [if_pos hpc] at hx
    exact hteams hx

/-- What a change of the groups leaves of a core. -/
theorem State.mapGroups_core {s : State} {p : CoreId → Bool} {f : TeamId → Group → Group} {c : Core}
    (hc : c ∈ (s.mapGroups p f).core :: (s.mapGroups p f).cores) :
    ∃ k ∈ s.core :: s.cores, c.id = k.id ∧ c.retained = k.retained ∧ c.copies = k.copies := by
  obtain ⟨k, hk, rfl⟩ := List.mem_map.mp (show c ∈ (s.core :: s.cores).map fun k =>
    if p k.id then { k with teams := k.teams.map fun t => { t with groups := t.groups.map (f t.id) } } else k from hc)
  refine ⟨k, hk, ?_⟩
  split <;> exact ⟨rfl, rfl, rfl⟩

theorem Core.sweep_ep {e : BitVec 2} {c : Core} (hret : (c.sweep e).retained = false) : ∀ x ∈ (c.sweep e).copies, x.wts.ep = e ∧ x.rts.ep = e := by
  unfold Core.sweep at hret ⊢
  split at hret
  · next h => rw [h] at hret; cases hret
  · next h =>
    rw [if_neg h]
    intro x hx
    obtain ⟨y, -, rfl⟩ := List.mem_map.mp hx
    exact ⟨rfl, rfl⟩

theorem Core.sweep_id (e : BitVec 2) (c : Core) : (c.sweep e).id = c.id := by
  unfold Core.sweep
  split <;> rfl

/-- After the sweep every stored timestamp of the die stands in its epoch (R300). -/
theorem sweepDone_sweeps (s : State) (d : Nat) : ∃ t, exec (.sweepDone d) s = .next t ∧ (t.die d).sweeping = false
    ∧ (∀ h ∈ t.homes, lineDie h.line = d → h.wts.ep = (s.die d).epoch ∧ h.rts.ep = (s.die d).epoch)
    ∧ (∀ x ∈ t.slices, x.die = d → x.mts.ep = (s.die d).epoch)
    ∧ (∀ c ∈ t.core :: t.cores, CoreId.die c.id = d → c.retained = false → ∀ x ∈ c.copies, x.wts.ep = (s.die d).epoch ∧ x.rts.ep = (s.die d).epoch)
    ∧ (∀ x ∈ t.allGroups, CoreId.die x.1 = d → x.2.2.horizon.ep = (s.die d).epoch)
    ∧ ∀ x ∈ (t.die d).rdc, x.wts.ep = (s.die d).epoch ∧ x.rts.ep = (s.die d).epoch := by
  let e := (s.die d).epoch
  let home (h : Home) : Home := if lineDie h.line = d then { h with wts := Stamp.swept e h.wts, rts := Stamp.swept e h.rts } else h
  let slice (x : Slice) : Slice := if x.die = d then { x with mts := Stamp.swept e x.mts } else x
  let core (c : Core) : Core := if CoreId.die c.id = d then c.sweep e else c
  let here (c : CoreId) : Bool := CoreId.die c == d
  let swept (_ : TeamId) (g : Group) : Group := { g with horizon := Stamp.swept e g.horizon }
  let die (x : Die) : Die := { x with
    sweeping := false, rdc := x.rdc.map fun x => { x with wts := Stamp.swept e x.wts, rts := Stamp.swept e x.rts } }
  let u := (({ s with homes := s.homes.map home, slices := s.slices.map slice } : State).mapCores core).mapGroups here swept
  let v := u.onDie d die
  have hdie : v.die d = die (s.die d) := u.die_onDie d die (s.die_num d)
  obtain ⟨a, hexec⟩ : ∃ a, exec (.sweepDone d) s = .next { v with agenda := a } := by
    have hexec : exec (.sweepDone d) s = .next (if v.rebasing then v
        else match v.present.find? fun d => (v.die d).rebaseReq && (!(v.die d).hostRb || (v.die d).rebaseGo) with
          | some d => v.startRebase ((v.die d).epoch + 1)
          | none => v) := rfl
    rw [hexec]
    split
    · exact ⟨v.agenda, rfl⟩
    · split
      · exact ⟨_, rfl⟩
      · exact ⟨v.agenda, rfl⟩
  refine ⟨_, hexec, (congrArg Die.sweeping hdie : _), fun h hh hline => ?_, fun x hx hxd => ?_, fun c hc hk hret => ?_, fun x hx hk => ?_,
    fun x hx => ?_⟩
  · obtain ⟨y, -, rfl⟩ := List.mem_map.mp (show h ∈ s.homes.map home from hh)
    have hy : lineDie y.line = d := by
      dsimp only [home] at hline
      split at hline <;> exact hline
    dsimp only [home]
    rw [if_pos hy]
    exact ⟨rfl, rfl⟩
  · obtain ⟨y, -, rfl⟩ := List.mem_map.mp (show x ∈ s.slices.map slice from hx)
    have hy : y.die = d := by
      dsimp only [slice] at hxd
      split at hxd <;> exact hxd
    dsimp only [slice]
    rw [if_pos hy]
    rfl
  · obtain ⟨k, hkm, hid, hkret, hcopies⟩ := State.mapGroups_core hc
    obtain ⟨c0, -, rfl⟩ : ∃ c0, c0 ∈ s.core :: s.cores ∧ core c0 = k := List.mem_map.mp hkm
    have hc0 : CoreId.die c0.id = d := by
      rw [hid] at hk
      dsimp only [core] at hk
      split at hk
      · next h => exact h
      · exact hk
    have hcore : core c0 = c0.sweep e := if_pos hc0
    rw [hcopies, hcore]
    rw [hkret, hcore] at hret
    exact Core.sweep_ep hret
  · have hp : here x.1 = true := beq_iff_eq.mpr hk
    exact State.mapGroups_all (q := fun g => g.horizon.ep = e) (fun _ _ => rfl) x hx hp
  · have hrdc : ({ v with agenda := a } : State).die d = die (s.die d) := hdie
    rw [hrdc] at hx
    obtain ⟨y, -, rfl⟩ := List.mem_map.mp hx
    exact ⟨rfl, rfl⟩

/-- BRBCMD_START (R298, R308). -/
theorem brbcmdStart_starts {s : State} {d : Nat} {v : Word} (habs : s.dieAbsent d = false) (hgo : v.getLsbD 0 = true)
    (hreq : (s.die d).rebaseReq = true) (hhost : (s.die d).hostRb = true) (hwait : (s.die d).rebaseGo = false) :
    exec (.brbcmdStart d v) s = .next (if s.rebasing = true then s.onDie d fun x => { x with rebaseGo := true }
      else { s with agenda := s.agenda ++ s.present.map fun k => .rebaseStart k ((s.die d).epoch + 1) }) := by
  have h : ¬ (s.dieAbsent d || !v.getLsbD 0 || !(s.die d).awaitsStart) = true := by
    unfold Die.awaitsStart
    rw [habs, hgo, hreq, hhost, hwait]
    exact Bool.false_ne_true
  exact congrArg Host.Outcome.next (if_neg h)

/-! ### Replicated pages (R305, R309) -/

/-- A command on a replicated page that has a directory entry (R305, R309). -/
theorem State.replCommand_found {s : State} {d : Nat} {v : Word} {p : ReplPage} (habs : s.dieAbsent d = false) (hbusy : (s.die d).rplBusy = none)
    (hgo : v.getLsbD 31 = true) (hsize : v.extractLsb' 0 2 ≠ 3) (hframe : (s.die d).rplAddr.toNat / 2 ^ 16 % 2 ^ 36 * 2 ^ 16 % 2 ^ rplSize v = 0)
    (hp : (s.die d).replDir.find? (·.frame == (s.die d).rplAddr.toNat / 2 ^ 16 % 2 ^ 36 * 2 ^ 16) = some p) (k : ReplPage → State → State) :
    s.replCommand d v k = k p (s.onDie d fun x => { x with rplCmd := v.extractLsb' 0 3, rplNoent := false }) := by
  let s1 := s.onDie d fun x => { x with rplCmd := v.extractLsb' 0 3, rplNoent := false }
  have hdir : (s1.die d).replDir = (s.die d).replDir := by
    dsimp only [s1]
    rw [s.die_onDie d _ (s.die_num d)]
  have h : ¬ (s.dieAbsent d || (s.die d).rplBusy.isSome || !v.getLsbD 31) = true := by
    rw [habs, hbusy, hgo]
    exact Bool.false_ne_true
  have hbad : ¬ (v.extractLsb' 0 2 = 3 ∨ bits (s.die d).rplAddr.toNat 51 16 * 2 ^ 16 % 2 ^ rplSize v ≠ 0) := by
    rintro (h | h)
    · exact hsize h
    · exact h hframe
  unfold State.replCommand
  rw [if_neg h]
  dsimp only
  rw [if_neg hbad]
  have hfind : (s1.die d).replDir.find? (·.frame == bits (s.die d).rplAddr.toNat 51 16 * 2 ^ 16) = some p := by
    rw [hdir]
    exact hp
  rw [hfind]

/-! ### Retention (R302) -/

theorem missedNow_eq (n t : Nat) : missedNow n t = if n = 0 then t else if n = 1 then max t 0x800001 - 0x800000 else 1 := by
  match n with
  | 0 => rfl
  | 1 => rfl
  | _ + 2 => rfl

/-- A core in retention wakes (R302). -/
theorem State.wakeCore_takes {s : State} (hret : s.core.retained = true) :
    let e := s.ep
    let missed := ((s.die (CoreId.die s.core.id)).rebases - s.core.retainedAt).toNat
    s.wakeCore.core.now = ⟨e, if missed = 0 then s.core.now.tick else if missed = 1 then max s.core.now.tick 0x800001 - 0x800000 else 1⟩
      ∧ (∀ x ∈ s.wakeCore.core.copies, x.wts.ep = e ∧ x.rts.ep = e)
      ∧ (2 ≤ missed → ∀ x ∈ s.wakeCore.core.copies, x.st = .p ∨ x.st = .w) := by
  intro e missed
  have hbehind : s.core.behind (s.die (CoreId.die s.core.id)).rebases = missed := if_pos hret
  let swept (x : Copy) : Copy := { x with wts := ⟨e, x.wts.read e⟩, rts := ⟨e, x.rts.read e⟩ }
  have hcore : s.wakeCore.core = { s.core with
      retained := false, retainedAt := (s.die (CoreId.die s.core.id)).rebases, missed := 0
      now := ⟨e, s.core.nowIn e (s.die (CoreId.die s.core.id)).rebases⟩
      copies := (if decide (2 ≤ s.core.missed + missed) then s.core.copies.filterMap Copy.lose else s.core.copies).map swept } := by
    unfold State.wakeCore
    dsimp only
    rw [hret, hbehind]
    rfl
  rw [hcore]
  refine ⟨?_, fun x hx => ?_, fun h2 x hx => ?_⟩
  · have hnow : s.core.nowIn e (s.die (CoreId.die s.core.id)).rebases = missedNow missed s.core.now.tick := by
      unfold Core.nowIn
      rw [if_pos hret, hbehind]
    exact congrArg (Stamp.mk e) (hnow.trans (missedNow_eq _ _))
  · obtain ⟨y, -, rfl⟩ := List.mem_map.mp hx
    exact ⟨rfl, rfl⟩
  · obtain ⟨y, hy, rfl⟩ := List.mem_map.mp hx
    rw [if_pos (decide_eq_true (by omega))] at hy
    obtain ⟨c, -, hc⟩ := List.mem_filterMap.mp hy
    show y.st = .p ∨ y.st = .w
    unfold Copy.lose at hc
    split at hc
    · next h =>
      obtain rfl := Option.some.inj hc
      exact .inl (beq_iff_eq.mp h)
    · split at hc
      · cases hc
      · obtain rfl := Option.some.inj hc
        exact .inr rfl

theorem State.focusCore_id (s : State) (c : CoreId) : (s.focusCore c).core.id = c := by
  unfold State.focusCore
  split
  · next h => exact h
  · dsimp only
    cases hf : (s.stowTeam.core :: s.stowTeam.cores).find? (·.id == c) with
    | none =>
      show (s.stowTeam.blankCore c).id = c
      unfold State.blankCore
      dsimp only
      split <;> rfl
    | some k => exact beq_iff_eq.mp (List.find?_some (p := fun k : Core => k.id == c) hf)

theorem State.stowTeam_dies (s : State) : s.stowTeam.dies = s.dies := by
  unfold State.stowTeam State.stowGroup
  dsimp only
  split <;> split <;> rfl

theorem State.focusCore_dies (s : State) (c : CoreId) : (s.focusCore c).dies = s.dies := by
  unfold State.focusCore
  split
  · rfl
  · exact s.stowTeam_dies

/-! ### Parity and scrubbing (R127, R438) -/

/-- A word of the segments that a scrub cannot correct (R127, R438). -/
theorem coreStoreScrub_poisons {s : State} {c : CoreId} {k : Nat} (hrow : k / 16 < 1024 - (s.focusCore c).core.partRows) (hk : k < 16384) :
    ∃ t, exec (.coreStoreScrub c [⟨k, false⟩]) s = .next t ∧ t.core.store = (s.focusCore c).core.store
      ∧ ∀ e, has t.core.storePoison e = (decide (e / 2 = k) || has (s.focusCore c).core.storePoison e) := by
  let core := (s.focusCore c).core
  have hbad : core.badWord k = { core with storePoison := insertN (insertN core.storePoison (2 * k)) (2 * k + 1) } := if_pos hrow
  refine ⟨(s.focusCore c).onCore (·.badWord k), congrArg Host.Outcome.next (if_neg (Nat.not_le.mpr hk)), ?_, fun e => ?_⟩
  · show (core.badWord k).store = core.store
    rw [hbad]
  · refine (congrArg (fun x : Core => has x.storePoison e) hbad).trans ?_
    dsimp only
    rw [has_insertN, has_insertN, ← Bool.or_assoc]
    congr 1
    rw [Bool.eq_iff_iff]
    simp only [Bool.or_eq_true, beq_iff_eq, decide_eq_true_eq]
    omega

end Sys2Proof.Machine
end
section
/-! PROOFS. Walks, page service, invalidation, rebase and scrubbing (R260 to R270, R297 to R309, R438). -/

namespace Sys2Proof.Machine

/-- A walker reads its entry and goes on (R260 to R265). -/
theorem walkComplete_reads {s : State} {m : WalkReq} {w : Walking} (hw : s.walker m = some w) (hheld : s.tableHeld w = false) :
    let d := CoreId.die m.core
    let s1 := s.reading w
    (∀ x ∈ (s.die d).walking, x.req ≠ m → x.entry / 128 = w.entry / 128 → .walkComplete x.req ∈ s.agenda → .walkComplete x.req ∈ s1.arrived)
    ∧ (∀ o, s1.readEntry w = .out o → exec (.walkComplete m) s = .next (s1.endWalk m o))
    ∧ (∀ l a e, s1.readEntry w = .absent l a e →
      (m.kind = 5 → exec (.walkComplete m) s = .next (s1.endWalk m .unresolved))
      ∧ (m.kind ≠ 5 → (s1.die d).dutySel.getLsbD 2 = false →
         exec (.walkComplete m) s = .next { s1 with agenda := s1.agenda ++ [.pageServiceResolve m] })
      ∧ (m.kind ≠ 5 → (s1.die d).dutySel.getLsbD 2 = true → ∃ t q, exec (.walkComplete m) s = .next t
         ∧ (t.die d).faultRecs = (s1.die d).faultRecs ++ [(q, m)]))
    ∧ (∀ e, s1.readEntry w = .down e → ∃ t, exec (.walkComplete m) s = .next t
      ∧ t.agenda = s1.agenda ++ [.walkComplete m] ∧ t.walker m = some ⟨m, w.level - 1, pteAddr e⟩
      ∧ ⟨m.asid, w.level, m.va / 2 ^ levelBit w.level * 2 ^ levelBit w.level, e⟩ ∈ (t.die d).walkCache) := by
  intro d s1
  have hexec := exec_walkComplete hw hheld
  obtain rfl : w.req = m := beq_iff_eq.mp (List.find?_some (p := fun x : Walking => x.req == m) hw)
  refine ⟨State.reading_shares hw, fun o ho => hexec.trans ?_, fun l a e ha => ?_, fun e he => ?_⟩
  · unfold State.walkOn
    dsimp only
    rw [ho]
  · have hon : s1.walkOn w = if w.req.kind = 5 then s1.endWalk w.req .unresolved else s1.askService w := by
      unfold State.walkOn
      dsimp only
      rw [ha]
    refine ⟨fun h5 => ?_, fun h5 hduty => ?_, fun h5 hduty => ?_⟩
    · exact hexec.trans (congrArg Host.Outcome.next (hon.trans (if_pos h5)))
    · refine hexec.trans (congrArg Host.Outcome.next ((hon.trans (if_neg h5)).trans ?_))
      exact if_pos (by rw [hduty]; rfl)
    · obtain ⟨q, hq⟩ := State.askService_records (s := s1) hduty
      exact ⟨s1.askService w, q, hexec.trans (congrArg Host.Outcome.next (hon.trans (if_neg h5))), hq⟩
  · exact ⟨s1.walkOn w, hexec, State.walkOn_down ((s.reading_walker w _).trans hw) he⟩

/-- The page service answers a walk that met a not-present entry (R263). -/
theorem pageServiceResolve_answers {s : State} {m : WalkReq} {w : Walking} (hw : s.walker m = some w) (hheld : s.tableHeld w = false) :
    let d := CoreId.die m.core
    (∀ level a e, s.readEntry w = .absent level a e →
      let lazy := level ≤ 1 ∧ pteDz e = true ∧ pteAttr e = 0 ∧ pteLeaf e = true
      let r := (s.die d).takeFrame level
      let s1 := s.onDie d fun _ => r.2
      (∀ frame, lazy → r.1 = some frame → exec (.pageServiceResolve m) s = .next
        (((s1.zeroFrame frame (levelBit level)).firmwareWrite a 8 (resolvedPte e frame).toNat).send (.walkComplete m)))
      ∧ (lazy → r.1 = none → exec (.pageServiceResolve m) s = .next (s1.endWalk m .unresolved))
      ∧ (¬ lazy → exec (.pageServiceResolve m) s = .next (s.endWalk m .unresolved)))
    ∧ ((∀ level a e, s.readEntry w ≠ .absent level a e) → exec (.pageServiceResolve m) s = .next (s.send (.walkComplete m))) := by
  intro d
  have hexec := exec_pageServiceResolve hw hheld
  refine ⟨fun level a e ha => ?_, fun hne => ?_⟩
  · intro lazy r s1
    rw [ha] at hexec
    dsimp only at hexec
    refine ⟨fun frame hl hr => ?_, fun hl hr => ?_, fun hl => ?_⟩
    · rw [if_pos ((demandZero_iff level e).mpr hl), show ((s.die (CoreId.die m.core)).takeFrame level).1 = some frame from hr] at hexec
      exact hexec
    · rw [if_pos ((demandZero_iff level e).mpr hl), show ((s.die (CoreId.die m.core)).takeFrame level).1 = none from hr] at hexec
      exact hexec
    · rw [if_neg fun h => hl ((demandZero_iff level e).mp h)] at hexec
      exact hexec
  · cases hr : s.readEntry w with
    | absent level a e => exact absurd hr (hne level a e)
    | down e => rw [hexec, hr]
    | out o => rw [hexec, hr]

/-- Commands on a replicated page that its die keeps (R305, R309). -/
theorem replCommands_act {s : State} {d : Nat} {v : Word} {p : ReplPage} (habs : s.dieAbsent d = false) (hbusy : (s.die d).rplBusy = none)
    (hgo : v.getLsbD 31 = true) (hsize : v.extractLsb' 0 2 ≠ 3) :
    let frame := (s.die d).rplAddr.toNat / 2 ^ 16 % 2 ^ 36 * 2 ^ 16
    frame % 2 ^ rplSize v = 0 → (s.die d).replDir.find? (·.frame == frame) = some p →
    let s1 := s.onDie d fun x => { x with rplCmd := v.extractLsb' 0 3, rplNoent := false }
    let down (b : Bool) : State := s1.onDie d fun x => { x with replDir := x.replDir.map fun q => if q.frame = p.frame then { q with down := b } else q }
    exec (.rplcmdClearDown d v) s = .next (down false)
    ∧ (p.dies = [] → exec (.rplcmdTeardown d v) s = .next (down true))
    ∧ (p.dies ≠ [] → exec (.rplcmdTeardown d v) s = .next
        (p.dies.foldl (fun t k => t.send (.drop ⟨d, k, p.frame, p.size⟩)) ((down true).onDie d fun x => { x with rplBusy := some p.frame }))) := by
  intro frame hframe hp s1 down
  have hfound := State.replCommand_found habs hbusy hgo hsize hframe hp
  refine ⟨congrArg Host.Outcome.next (hfound _), fun h => ?_, fun h => ?_⟩
  · exact congrArg Host.Outcome.next ((hfound _).trans (if_pos (List.isEmpty_iff.mpr h)))
  · exact congrArg Host.Outcome.next ((hfound _).trans (if_neg fun he => h (List.isEmpty_iff.mp he)))

/-- A core enters retention, and wakes from it (R302). -/
theorem coreRetention_acts (s : State) (c : CoreId) :
    let s1 := (s.focusCore c).stowTeam
    (s1.core.teams = [] → s1.core.retained = false → s1.dieAbsent (CoreId.die c) = false → exec (.coreRetentionEntry c) s = .next
      (s1.onCore fun k => { k with retained := true, retainedAt := (s1.die (CoreId.die c)).rebases }))
    ∧ ∃ t, exec (.coreRetentionWake c) s = .next t ∧ t.core.retained = false
      ∧ ((s.focusCore c).core.retained = true →
        let e := (s.focusCore c).ep
        let k := (s.focusCore c).core
        let missed := ((s.die (CoreId.die c)).rebases - k.retainedAt).toNat
        t.core.now = ⟨e, if missed = 0 then k.now.tick else if missed = 1 then max k.now.tick 0x800001 - 0x800000 else 1⟩
        ∧ (∀ x ∈ t.core.copies, x.wts.ep = e ∧ x.rts.ep = e)
        ∧ (2 ≤ missed → ∀ x ∈ t.core.copies, x.st = .p ∨ x.st = .w)) := by
  intro s1
  refine ⟨fun hteams hret habs => ?_, (s.focusCore c).wakeCore, rfl, ?_, fun hret => ?_⟩
  · have h : (s1.core.teams.isEmpty && !s1.core.retained && !s1.dieAbsent (CoreId.die c)) = true := by
      rw [hteams, hret, habs]
      rfl
    exact congrArg Host.Outcome.next (if_pos h)
  · unfold State.wakeCore
    dsimp only
    split
    · next h => exact (Bool.not_eq_true' _).mp h
    · rfl
  · have h := State.wakeCore_takes hret
    rw [s.focusCore_id c, State.die_of_dies (s.focusCore_dies c)] at h
    exact h

/-- A parity error kills the grid, or poisons a row of an accumulator (R438). -/
theorem parityError_acts (s : State) :
    (∀ (c : CoreId) (g : GridId) (x : Team), (s.focusCore c).coreTeams.find? (·.id.grid == g) = some x →
        exec (.parityError c (.grid g)) s = .next (((s.focusCore c).focusTeam x.id).killGrid 8 8))
    ∧ ∀ (c : CoreId) (quad n row : Nat), let s1 := s.focusCore c
       let a := s1.acc (CoreId.die c) quad n
       (s1.acc (CoreId.die c) quad (pairOf n)).tag ≠ .f64 → a.tag ≠ .z →
        exec (.parityError c (.row quad n row)) s = .next
          (s1.putAcc (CoreId.die c) quad n { a with bad := a.bad ||| BitVec.ofNat 64 (2 ^ row) }) := by
  refine ⟨fun c g x hx => ?_, fun c quad n row => ?_⟩
  · have hexec : exec (.parityError c (.grid g)) s = execParityError c (.grid g) s := rfl
    rw [hexec]
    unfold execParityError
    dsimp only
    rw [hx]
  · intro s1 a hpair ha
    have hexec : exec (.parityError c (.row quad n row)) s = execParityError c (.row quad n row) s := rfl
    rw [hexec]
    unfold execParityError
    dsimp only
    rw [if_neg hpair]
    exact congrArg (fun x : Acc => Host.Outcome.next (s1.putAcc (CoreId.die c) quad n x)) (if_neg ha)

/-- Settles O48: a walker goes on as its entry says, and the walkers that share the read go on with it (`walkComplete_reads`); an
invalidation filters every list it covers (`State.dropRange_covers`); a rebase steps the cores and the sweep rewrites every stored
timestamp (`rebaseStart_steps`, `sweepDone_sweeps`). -/
theorem translationAndUpkeep : Obligations.TranslationAndUpkeep := by
  unfold Obligations.TranslationAndUpkeep
  refine ⟨fun s => ⟨fun m w => ?_, fun frame size a => s.byte_zeroFrame, fun k v => pagereplyWrite_answers s k v,
    fun k v => tinvGo_begins, fun k hbusy => ?_⟩, fun s d => ⟨fun ep => rebaseStart_steps, sweepDone_sweeps s d, fun v => brbcmdStart_starts,
    fun v p => replCommands_act, coreRetention_acts s, (parityError_acts s).1, (parityError_acts s).2, fun c k hk => ?_, fun c k => coreStoreScrub_poisons⟩⟩
  · intro d hw hheld
    exact ⟨walkComplete_reads hw hheld, pageServiceResolve_answers hw hheld⟩
  · intro asid
    refine ⟨fun hsince => ?_, fun n hsince hsent => tinvDone_ends hbusy hsince hsent⟩
    obtain ⟨t, hexec, htinv, hcore, hcores, hclusters, hcache⟩ := tinvDone_drops hbusy hsince
    obtain ⟨-, hltc, hwalks, htc, hwalk⟩ := s.dropRange_covers k
    refine ⟨t, hexec, htinv, ?_, ?_, ?_, ?_⟩
    · rw [hcore, hcores]
      exact hltc
    · rw [hcore, hcores]
      exact hwalks
    · rw [hclusters]
      exact htc
    · rw [hcache]
      exact hwalk
  · exact congrArg Host.Outcome.next (if_neg (Nat.not_le.mpr hk))

end Sys2Proof.Machine
end

section
/-! PROOFS. The launch path (R406 to R424). -/

namespace Sys2Proof.Machine

/-- A request that would pass the largest `%now` waits for a rebase (R301). -/
theorem launch_stalls {s : State} {d : Nat} {m : LaunchReq} (hearly : s.early d m.now = false) (hstall : s.requestStalls d m = true) :
    exec (.launchRequest d m) s = .next (s.stall d (.launchRequest d m)) ∧ exec (.launchLeadRequest d m) s = .next (s.stall d (.launchLeadRequest d m)) :=
  ⟨congrArg Host.Outcome.next ((State.onTime_taken hearly _ _).trans (if_pos hstall)),
    congrArg Host.Outcome.next ((State.onTime_taken hearly _ _).trans (if_pos hstall))⟩

/-- A request at the die that it was sent to (R406). -/
theorem exec_launchRequest {s : State} {d : Nat} {m : LaunchReq} (hearly : s.early d m.now = false) (hstall : s.requestStalls d m = false) :
    let s1 := s.takeRequest d m
    let r := s1.readRecord m [(m.record + 0x22, 2)]
    exec (.launchRequest d m) s = .next (if m.record % 128 ≠ 0 then s1.answerLaunch m 5 d 0 else match r.1.1 with
      | .wait => r.2.later 1 (.launchRequest d r.1.2)
      | .bad => r.2.answerLaunch m 5 d 0
      | .data bs => if 7 < recField bs 0 1 ∨ 4 < recField bs 1 1 then r.2.answerLaunch m 1 d 0
        else r.2.send (.launchLeadRequest (recField bs 1 1 * 8 + recField bs 0 1) { m with begun := false, got := [] })) :=
  congrArg Host.Outcome.next ((State.onTime_taken hearly _ _).trans (if_neg (by rw [hstall]; exact Bool.false_ne_true)))

/-- A request at its lead die (R407). -/
theorem exec_launchLeadRequest {s : State} {d : Nat} {m : LaunchReq} (hearly : s.early d m.now = false) (hstall : s.requestStalls d m = false) :
    let r := (s.takeRequest d m).readRecord m ((List.range 8).map fun k => (m.record + 128 * k, 128))
    exec (.launchLeadRequest d m) s = .next (match r.1.1 with
      | .wait => r.2.later 1 (.launchLeadRequest d r.1.2)
      | .bad => r.2.answerLaunch m 5 d 0
      | .data bs => match r.2.launchStatus d bs with
        | 0 => (({ r.2.onDie d fun x => { x with nextLid := nextLaunch (r.2.die d).nextLid } with
            grids := r.2.grids ++ [{ id := ⟨d, (r.2.die d).nextLid⟩, lrec := LaunchRecord.parse bs }] } : State).answerLaunch m 0 d (r.2.die d).nextLid).send
              (.queueDepart d)
        | k => r.2.answerLaunch m k d 0) :=
  congrArg Host.Outcome.next ((State.onTime_taken hearly _ _).trans (if_neg (by rw [hstall]; exact Bool.false_ne_true)))

/-- What becomes of a request and of its record (R406 to R408). -/
theorem launch_judged {s : State} {d : Nat} {m : LaunchReq} (hearly : s.early d m.now = false) (hstall : s.requestStalls d m = false) :
    let s1 := s.takeRequest d m
    let r := s1.readRecord m [(m.record + 0x22, 2)]
    let rs := s1.readRecord m ((List.range 8).map fun k => (m.record + 128 * k, 128))
    (m.record % 128 ≠ 0 → exec (.launchRequest d m) s = .next (s1.answerLaunch m 5 d 0))
    ∧ (m.record % 128 = 0 → r.1.1 = .wait →
      exec (.launchRequest d m) s = .next (r.2.later 1 (.launchRequest d r.1.2)))
    ∧ (m.record % 128 = 0 → r.1.1 = .bad → exec (.launchRequest d m) s = .next (r.2.answerLaunch m 5 d 0))
    ∧ (∀ bs, m.record % 128 = 0 → r.1.1 = .data bs →
      let x := recField bs 0 1
      let y := recField bs 1 1
      exec (.launchRequest d m) s = .next (if 7 < x ∨ 4 < y then r.2.answerLaunch m 1 d 0
        else r.2.send (.launchLeadRequest (y * 8 + x) { m with begun := false, got := [] })))
    ∧ (rs.1.1 = .wait → exec (.launchLeadRequest d m) s = .next (rs.2.later 1 (.launchLeadRequest d rs.1.2)))
    ∧ (rs.1.1 = .bad → exec (.launchLeadRequest d m) s = .next (rs.2.answerLaunch m 5 d 0))
    ∧ (∀ bs, rs.1.1 = .data bs →
      let st := rs.2.launchStatus d bs
      let lid := (rs.2.die d).nextLid
      let s2 := rs.2.onDie d fun x => { x with nextLid := if lid = 65535 then 1 else lid + 1 }
      (st ≠ 0 → exec (.launchLeadRequest d m) s = .next (rs.2.answerLaunch m st d 0))
      ∧ (st = 0 → exec (.launchLeadRequest d m) s = .next
        ((({ s2 with grids := s2.grids ++ [{ id := ⟨d, lid⟩, lrec := LaunchRecord.parse bs }] } : State).answerLaunch m 0 d lid).send (.queueDepart d)))) := by
  intro s1 r rs
  have hreq := exec_launchRequest hearly hstall
  have hlead := exec_launchLeadRequest hearly hstall
  dsimp only at hreq hlead
  refine ⟨fun h => hreq.trans (congrArg Host.Outcome.next (if_pos h)), fun h hr => ?_, fun h hr => ?_, fun bs h hr => ?_, fun hr => ?_, fun hr => ?_,
    fun bs hr => ?_⟩
  · rw [if_neg (not_not_intro h), show (s1.readRecord m [(m.record + 0x22, 2)]).1.1 = _ from hr] at hreq
    exact hreq
  · rw [if_neg (not_not_intro h), show (s1.readRecord m [(m.record + 0x22, 2)]).1.1 = _ from hr] at hreq
    exact hreq
  · rw [if_neg (not_not_intro h), show (s1.readRecord m [(m.record + 0x22, 2)]).1.1 = _ from hr] at hreq
    exact hreq
  · rw [show (s1.readRecord m ((List.range 8).map fun k => (m.record + 128 * k, 128))).1.1 = _ from hr] at hlead
    exact hlead
  · rw [show (s1.readRecord m ((List.range 8).map fun k => (m.record + 128 * k, 128))).1.1 = _ from hr] at hlead
    exact hlead
  · rw [show (s1.readRecord m ((List.range 8).map fun k => (m.record + 128 * k, 128))).1.1 = _ from hr] at hlead
    dsimp only at hlead
    intro st lid s2
    refine ⟨fun hst => ?_, fun hst => ?_⟩
    · refine hlead.trans (congrArg Host.Outcome.next ?_)
      split
      · next h => exact absurd h hst
      · rfl
    · rw [show (s1.readRecord m ((List.range 8).map fun k => (m.record + 128 * k, 128))).2.launchStatus d bs = 0 from hst] at hlead
      exact hlead

/-- The head of a queue leaves, waits for a rebase, or is looked at again (R413, R414, R416). -/
theorem queueDepart_acts (s : State) (d : Nat) :
    let s1 := (s.focusCore (.disp d)).judgeWaits d
    (∀ g, s1.leaving d = some g → g.lrec.regionDies.filter s1.jumpPasses = [] →
        exec (.queueDepart d) s = .next ((s1.depart g).send (.queueDepart d)))
    ∧ (∀ g, s1.leaving d = some g → g.lrec.regionDies.filter s1.jumpPasses ≠ [] → exec (.queueDepart d) s = .next
        (((g.lrec.regionDies.filter s1.jumpPasses).foldl State.requestRebase s1).later 1 (.queueDepart d)))
    ∧ (s1.leaving d = none → s1.waitsOpen d = true → exec (.queueDepart d) s = .next (s1.later 1 (.queueDepart d)))
    ∧ (s1.leaving d = none → s1.waitsOpen d = false → exec (.queueDepart d) s = .next s1) := by
  intro s1
  have hexec : exec (.queueDepart d) s = execQueueDepart d s := rfl
  unfold execQueueDepart at hexec
  dsimp only at hexec
  refine ⟨fun g hg hnone => ?_, fun g hg hsome => ?_, fun hg hopen => ?_, fun hg hopen => ?_⟩
  · rw [show ((s.focusCore (.disp d)).judgeWaits d).leaving d = some g from hg] at hexec
    dsimp only at hexec
    rw [show g.lrec.regionDies.filter ((s.focusCore (.disp d)).judgeWaits d).jumpPasses = [] from hnone] at hexec
    exact hexec
  · rw [show ((s.focusCore (.disp d)).judgeWaits d).leaving d = some g from hg] at hexec
    refine hexec.trans (congrArg Host.Outcome.next ?_)
    dsimp only
    split
    · next h => exact absurd h hsome
    · rfl
  · rw [show ((s.focusCore (.disp d)).judgeWaits d).leaving d = none from hg] at hexec
    exact hexec.trans (congrArg Host.Outcome.next (if_pos hopen))
  · rw [show ((s.focusCore (.disp d)).judgeWaits d).leaving d = none from hg] at hexec
    exact hexec.trans (congrArg Host.Outcome.next (if_neg (by rw [hopen]; exact Bool.false_ne_true)))

/-- A start message starts the teams of its grid that stand unstarted on the core (R412, R423, R424). -/
theorem startMessage_starts {s : State} {c : CoreId} {grid : GridId} {t : Team} {ts : List Team} :
    let s1 := (s.focusCore c).stowTeam
    (s1.core.teams.filter fun t => t.id.grid == grid && t.unstarted) = t :: ts →
    let late := (s1.grids.find? fun (g : Grid) => g.id == grid).any (·.late)
    let s2 := (t :: ts).foldl (fun s t => s.startTeam t late) (s1.wakeCore.startRoutes t.lrec.roles)
    exec (.startMessage c grid) s = .next (if t.lrec.starten && !late then s2.send (.launchStartTime c grid) else s2) := by
  intro s1 hts late s2
  have hexec : exec (.startMessage c grid) s = execStartMessage c grid s := rfl
  unfold execStartMessage at hexec
  dsimp only at hexec
  rw [show (((s.focusCore c).stowTeam).core.teams.filter fun t => t.id.grid == grid && t.unstarted) = t :: ts from hts] at hexec
  exact hexec

/-- Settles O49: a request and its record are judged in the order of the rules (`launch_judged`), and a queue's head leaves once its waits
are met and no region would pass the largest `%now` (`queueDepart_acts`). -/
theorem launchPath : Obligations.LaunchPath := by
  unfold Obligations.LaunchPath
  refine fun s d => ⟨fun m => launch_stalls, fun m => launch_judged, queueDepart_acts s d, fun grid => rfl, fun hrun => ?_,
    fun c grid t ts => startMessage_starts⟩
  exact congrArg Host.Outcome.next (if_neg (by rw [hrun]; exact Bool.false_ne_true))

end Sys2Proof.Machine
end

section
/-! SUPPORT. What publishing the map and withdrawing routes leave of the launches and saved contexts. -/

namespace Sys2Proof.Machine

/-- The launches, the saved contexts and which dies are mapped out stay. -/
def State.sameGrids (s t : State) : Prop := t.grids = s.grids ∧ t.contexts = s.contexts ∧ ∀ k, (t.die k).absent = (s.die k).absent

namespace State.sameGrids

theorem refl (s : State) : s.sameGrids s := ⟨rfl, rfl, fun _ => rfl⟩

theorem trans {s t u : State} (h : s.sameGrids t) (h' : t.sameGrids u) : s.sameGrids u :=
  ⟨h'.1.trans h.1, h'.2.1.trans h.2.1, fun k => (h'.2.2 k).trans (h.2.2 k)⟩

theorem of_tree {s t : State} (hgrids : t.grids = s.grids) (hcontexts : t.contexts = s.contexts) (htree : s.sameTree t) : s.sameGrids t :=
  ⟨hgrids, hcontexts, htree.absent⟩

theorem of_dies {s t : State} (hgrids : t.grids = s.grids) (hcontexts : t.contexts = s.contexts) (hdies : t.dies = s.dies) : s.sameGrids t :=
  ⟨hgrids, hcontexts, fun k => congrArg Die.absent (State.die_of_dies hdies k)⟩

theorem foldl {α : Type} (l : List α) {g : State → α → State} (h : ∀ (t : State) (x : α), t.sameGrids (g t x)) (s : State) :
    s.sameGrids (l.foldl g s) :=
  List.foldlRecOn (motive := fun t : State => s.sameGrids t) l g (refl s) fun t ht x _ => ht.trans (h t x)

end State.sameGrids

theorem State.noteTick_grids (s : State) (d n : Nat) : (s.noteTick d n).grids = s.grids ∧ (s.noteTick d n).contexts = s.contexts := by
  unfold State.noteTick State.requestRebase
  dsimp only
  split
  · split
    · exact ⟨rfl, rfl⟩
    · split <;> exact ⟨rfl, rfl⟩
  · exact ⟨rfl, rfl⟩

theorem State.notify_grids (s : State) (line : Nat) (w : Stamp) : (s.notify line w).grids = s.grids ∧ (s.notify line w).contexts = s.contexts := by
  unfold State.notify
  refine List.foldlRecOn (motive := fun t : State => t.grids = s.grids ∧ t.contexts = s.contexts) _ _ ⟨rfl, rfl⟩ fun t ht x _ => ?_
  dsimp only
  split <;> exact ht

theorem State.firmwareStamp_grids (s : State) (h : Home) :
    (s.firmwareStamp h).grids = s.grids ∧ (s.firmwareStamp h).contexts = s.contexts := by
  unfold State.firmwareStamp State.stamp
  dsimp only
  split
  · exact ⟨((State.notify_grids _ _ _).1.trans (State.noteTick_grids _ _ _).1), ((State.notify_grids _ _ _).2.trans (State.noteTick_grids _ _ _).2)⟩
  · exact ⟨((State.notify_grids _ _ _).1.trans (State.noteTick_grids _ _ _).1), ((State.notify_grids _ _ _).2.trans (State.noteTick_grids _ _ _).2)⟩

theorem State.sameGrids_firmwareStamp (s : State) (h : Home) : s.sameGrids (s.firmwareStamp h) :=
  .of_tree (s.firmwareStamp_grids h).1 (s.firmwareStamp_grids h).2 (s.sameTree_firmwareStamp h)

theorem State.sameGrids_homeFor (s : State) (line : Nat) : s.sameGrids (s.homeFor line).2 := by
  obtain ⟨h, sl, ag, e⟩ := s.fillHome_eq line
  have hfill : s.sameGrids (s.fillHome line).2 := by
    rw [e]
    exact .of_dies rfl rfl rfl
  unfold State.homeFor
  split
  · next heq => rw [heq] at hfill; exact hfill
  · next heq => rw [heq] at hfill; exact hfill

theorem State.sameGrids_firmwareWrite (s : State) (pa n x : Nat) : s.sameGrids (s.firmwareWrite pa n x) :=
  (s.sameGrids_homeFor (pa / 128)).trans
    ((State.sameGrids.of_dies (t := (s.homeFor (pa / 128)).2.writeNat pa n x) rfl rfl rfl).trans (State.sameGrids_firmwareStamp _ _))

theorem State.sameGrids_mapWrite (s : State) (off n x : Nat) : s.sameGrids (s.mapWrite off n x) :=
  .foldl _ (fun t _ => t.sameGrids_firmwareWrite _ _ _) s

theorem State.sameGrids_mapUpdate (s : State) {f : State → State} (h : ∀ t : State, t.sameGrids (f t)) : s.sameGrids (s.mapUpdate f) :=
  ((State.sameGrids.foldl _ (fun t _ => t.sameGrids_firmwareWrite _ _ _) s).trans (h _)).trans
    (State.sameGrids.foldl _ (fun t _ => t.sameGrids_firmwareWrite _ _ _) _)

theorem State.sameGrids_publishTree (s : State) (relocked : List Nat) : s.sameGrids (s.publishTree relocked) := by
  have hregion (t : State) (d : Nat) : t.sameGrids (t.putRegionRecord d) := by
    unfold State.putRegionRecord
    dsimp only
    split
    · exact (State.sameGrids_mapWrite _ _ _ _).trans (State.sameGrids_mapWrite _ _ _ _)
    · exact State.sameGrids_mapWrite _ _ _ _
  have hdie (t : State) (d : Nat) : t.sameGrids (t.putDieRecord d) := .foldl _ (fun t _ => t.sameGrids_mapWrite _ _ _) t
  have hstitch (t : State) (d : Nat) : t.sameGrids (t.putStitch d) :=
    .foldl _ (fun t _ => (State.sameGrids.of_dies (t := (t.drawNat 4).2) rfl rfl rfl).trans (State.sameGrids_mapWrite _ _ _ _)) t
  unfold State.publishTree
  split
  · exact .refl s
  · refine s.sameGrids_mapUpdate fun t => ?_
    dsimp only
    exact ((State.sameGrids.foldl _ (fun t _ => .foldl _ (fun t _ => t.sameGrids_mapWrite _ _ _) t) t).trans
      (.foldl _ (fun t d => (hregion t d).trans (hdie _ d)) _)).trans (.foldl _ (fun t d => hstitch t d) _)

theorem State.sameGrids_republish (s : State) (q : Published) (p : Nat → Bool) : s.sameGrids (s.republish q p) := by
  unfold State.republish
  dsimp only
  exact (State.sameGrids.of_dies (t := { s with pub := some q, mem := s.mem.filter fun c => !(imageOffset c.1).any p }) rfl rfl rfl).trans
    (.foldl _ (fun t h => t.sameGrids_firmwareStamp h) _)

theorem State.sameGrids_blankBlock (s : State) (d : Nat) : s.sameGrids (s.blankBlock d) := by
  unfold State.blankBlock
  split
  · exact .refl s
  · exact State.sameGrids_republish _ _ _

theorem State.sameGrids_focusCore (s : State) (c : CoreId) : s.sameGrids (s.focusCore c) := by
  refine .of_dies ?_ ?_ (s.focusCore_dies c)
  · unfold State.focusCore State.stowTeam State.stowGroup
    dsimp only
    split
    · rfl
    · split <;> split <;> rfl
  · unfold State.focusCore State.stowTeam State.stowGroup
    dsimp only
    split
    · rfl
    · split <;> split <;> rfl

theorem State.sameGrids_withdrawAll (s : State) : s.sameGrids s.withdrawAll := by
  refine .foldl _ (fun t c => ?_) s
  unfold State.withdraw
  dsimp only
  refine (t.sameGrids_focusCore c).trans (.foldl _ (fun u r => ?_) _)
  split <;> exact .of_dies rfl rfl rfl

end Sys2Proof.Machine
end
section
/-! PROOFS. The end of teams and grids, dispatch code, and mapping out a die (R46, R80, R97, R238, R401 to R404, R417). -/

namespace Sys2Proof.Machine

/-- The end of a team that its core holds (R97). -/
theorem teamEnd_ends {s : State} {c : CoreId} {t : TeamId} (hhere : (s.focusCore c).coreTeams.any (·.id == t) = true) :
    let s1 := ((((s.focusCore c).focusTeam t).leaveObjects).eachGroup State.poll).wakeControl
    ∀ x, s1.coreTeams.find? (·.id == t) = some x →
      let s2 := (x.groups.filter fun g => g.wait.any fun w => w.what == .rendezvous).foldl (fun s g => s.send (.regroupJoin c ⟨t, g.num⟩)) s1
      exec (.teamEnd c t) s = .next (if x.over then s2.endTeam x else s2) := by
  intro s1 x hx s2
  have hexec : exec (.teamEnd c t) s = execTeamEnd c t s := rfl
  unfold execTeamEnd at hexec
  dsimp only at hexec
  rw [hhere] at hexec
  rw [show (((((s.focusCore c).focusTeam t).leaveObjects).eachGroup State.poll).wakeControl).coreTeams.find? (·.id == t) = some x from hx] at hexec
  exact hexec

/-- The end of a grid: its cores release first, and then it is finished once no region would pass the largest `%now` (R238, R294, R417, R436). -/
theorem gridEnd_ends {s : State} {x : Grid} (hx : (s.grids.find? fun (g : Grid) => g.id == x.id) = some x) :
    (x.closing = some [] →
      (x.lrec.regionDies.filter s.jumpPasses = [] → exec (.gridEnd x.id) s = .next (s.finishGrid x))
      ∧ (x.lrec.regionDies.filter s.jumpPasses ≠ [] → exec (.gridEnd x.id) s = .next
          (((x.lrec.regionDies.filter s.jumpPasses).foldl State.requestRebase s).later 1 (.gridEnd x.id))))
    ∧ (x.closing = none → s.killOf x.id = none → x.over = true →
      let cs := s.regionCores x.lrec
      let s1 := s.onGrid x.id fun y => { y with closing := some cs }
      exec (.gridEnd x.id) s = .next (if cs.isEmpty then s1.send (.gridEnd x.id) else cs.foldl (fun s c => s.endRelease x.id c) s1))
    ∧ (∀ k, x.closing = none → s.killOf x.id = some k →
      let s0 := s.clearKilled x.id
      let cs := s0.regionCores x.lrec
      let s1 := s0.onGrid x.id fun y => { y with closing := some cs }
      exec (.gridEnd x.id) s = .next (if cs.isEmpty then s1.send (.gridEnd x.id) else cs.foldl (fun s c => s.endRelease x.id c) s1)) := by
  have hexec : exec (.gridEnd x.id) s = execGridEnd x.id s := rfl
  unfold execGridEnd at hexec
  dsimp only at hexec
  rw [hx] at hexec
  dsimp only at hexec
  refine ⟨fun hclosing => ⟨fun hnone => ?_, fun hsome => ?_⟩, fun hclosing hkill hover => ?_, fun k hclosing hkill => ?_⟩
  · rw [hclosing] at hexec
    dsimp only at hexec
    rw [hnone] at hexec
    exact hexec
  · rw [hclosing] at hexec
    refine hexec.trans (congrArg Host.Outcome.next ?_)
    dsimp only
    split
    · next h => exact absurd h hsome
    · rfl
  · intro cs s1
    rw [hclosing, hkill, hover] at hexec
    exact hexec
  · intro s0 cs s1
    rw [hclosing, hkill] at hexec
    exact hexec

/-- A message of the control node is refused, or takes a place (R402, R403). -/
theorem controlMessage_arrives {s : State} {d : Nat} {m : ControlMsg} (habs : s.dieAbsent d = false) :
    let sound := 1 ≤ m.len ∧ m.len ≤ 1023 ∧ m.reservedSet = false
    (¬ sound → exec (.controlMessage d m) s = .next
      ((s.sendUp (upMessage 1 d [(8, 8, m.tag.toNat), (0x10, 4, m.seq.toNat), (0x14, 4, 2)])).send (.fragmentStart d)))
    ∧ (∀ p, sound → s.freePlace d = some p → exec (.controlMessage d m) s = .next ((s.placeMessage d p m s.portNow).send (.fragmentStart d))) := by
  intro sound
  have hsound : controlSound m = true ↔ sound := by
    unfold controlSound
    simp only [Bool.and_eq_true, decide_eq_true_eq, Bool.not_eq_true', and_assoc, sound]
  have hexec : exec (.controlMessage d m) s = .next ((s.arriveMessage d m s.portNow).send (.fragmentStart d)) :=
    congrArg Host.Outcome.next (if_neg (by rw [habs]; exact Bool.false_ne_true))
  refine ⟨fun h => ?_, fun p h hp => ?_⟩
  · have hbad : (!controlSound m) = true := by rw [Bool.not_eq_true', ← Bool.not_eq_true, hsound]; exact h
    exact hexec.trans (congrArg (fun t : State => Host.Outcome.next (t.send (.fragmentStart d))) (if_pos hbad))
  · have harrive : s.arriveMessage d m s.portNow = s.placeMessage d p m s.portNow := by
      unfold State.arriveMessage
      rw [hsound.mpr h, hp]
      rfl
    rw [hexec, harrive]

/-- The first message of a dispatch core's queue starts (R401, R403). -/
theorem fragmentStart_starts {s : State} {d : Nat} {m : PlacedMsg} {ms : List PlacedMsg} :
    let s1 := (s.focusCore (.disp d)).drainPort d
    s1.core.frag = none → (s1.die d).msgs = m :: ms →
    let s2 := (s1.onDie d fun x => { x with msgs := ms }).unseat (fragTeam d)
    let s3 := s2.onCore fun c => { c with
      frag := some ⟨m.msg.tag, m.msg.seq, m.place⟩, teams := fragmentTeam d m.place (s1.die d).dispCtx :: c.teams }
    exec (.fragmentStart d) s = .next (((s3.raiseNow (m.now.read s3.ep)).focusGroup ⟨fragTeam d, 0⟩).onGrp fun g => g.ready s3.clk) := by
  intro s1 hfrag hms s2 s3
  have hexec : exec (.fragmentStart d) s = execFragmentStart d s := rfl
  unfold execFragmentStart at hexec
  dsimp only at hexec
  rw [show ((s.focusCore (.disp d)).drainPort d).core.frag = none from hfrag,
    show (((s.focusCore (.disp d)).drainPort d).die d).msgs = m :: ms from hms] at hexec
  exact hexec

/-- What a launch becomes when a die is mapped out whose resident teams are `here`: its ranks on the die count as ended (R46). -/
def State.leave (s : State) (d : Nat) (here : List (CoreId × Team)) (g : Grid) : Grid :=
  let gone := (here.filter fun x => x.2.id.grid == g.id).length + (g.pending.filter fun r => g.lrec.dieOf r == d).length
    + (s.contexts.filter fun (x : Context) => x.team.id.grid == g.id && CoreId.die x.core == d).length
    + (g.kept.filter fun r => g.lrec.dieOf r == d).length
    + (if g.departed.isSome && has g.lrec.regionDies d && !has g.dies d then g.lrec.tpd else 0)
  { g with
    ended := g.ended + gone, dies := if has g.lrec.regionDies d then insertN g.dies d else g.dies
    pending := g.pending.filter fun r => g.lrec.dieOf r != d
    kept := g.kept.filter fun r => g.lrec.dieOf r != d }

/-- A die without its place. -/
def Die.out (x : Die) : Die := { x with absent := true, held := false, fwd := { x.fwd with st := .off } }

/-- Firmware maps a die out: its block of the map goes, the tree is published, and the grids that this ends end (R46, R80). -/
def State.mapOut (s : State) (d : Nat) : State :=
  let t := ((s.onDie d Die.out).mapUpdate (·.blankBlock d)).publishTree.withdrawAll
  (t.grids.filter fun (g : Grid) => g.over && g.closing.isNone).foldl (fun s g => s.send (.gridEnd g.id)) t

theorem State.sameGrids_mapOut (s : State) (d : Nat) : (s.onDie d Die.out).sameGrids (s.mapOut d) := by
  unfold State.mapOut
  dsimp only
  refine State.sameGrids.trans ?_ (State.sameGrids.foldl _ (fun t g => ?_) _)
  · exact (((s.onDie d Die.out).sameGrids_mapUpdate fun t => t.sameGrids_blankBlock d).trans (State.sameGrids_publishTree _ [])).trans
      (State.sameGrids_withdrawAll _)
  · exact .of_dies rfl rfl rfl

theorem State.mapOut_absent (s : State) (d : Nat) : (s.mapOut d).dieAbsent d = true := by
  have h : ((s.mapOut d).die d).absent = true := by
    rw [(s.sameGrids_mapOut d).2.2 d, s.die_onDie d Die.out (s.die_num d)]
    rfl
  show (decide (40 ≤ d) || ((s.mapOut d).die d).absent) = true
  rw [h, Bool.or_true]

theorem exec_dieMapOut {s : State} {d : Nat} (habs : s.dieAbsent d = false) (horphan : (s.die d).fwd.st = .orphan) (hheld : (s.die d).held = true) :
    let here := s.stowTeam.allTeams.filter fun x => CoreId.die x.1 == d && CoreId.kind x.1 == .vector
    let u := s.stowTeam.without here
    exec (.dieMapOut d) s = .next (State.mapOut { u with
      grids := u.grids.map (u.leave d here), contexts := u.contexts.filter fun (x : Context) => CoreId.die x.core != d } d) := by
  have h : ¬ (s.dieAbsent d || !((s.die d).fwd.st == .orphan && (s.die d).held)) = true := by
    rw [habs, horphan, hheld]
    exact Bool.false_ne_true
  exact congrArg Host.Outcome.next (if_neg h)

/-- A die whose forwarder has no parent and whose clock is held is mapped out (R46, R80). -/
theorem dieMapOut_maps {s : State} {d : Nat} (habs : s.dieAbsent d = false) (horphan : (s.die d).fwd.st = .orphan) (hheld : (s.die d).held = true) :
    ∃ t, exec (.dieMapOut d) s = .next t
      ∧ t.dieAbsent d = true ∧ (∀ x ∈ t.contexts, CoreId.die x.core ≠ d) ∧ ∀ g ∈ t.grids, ∀ r ∈ g.pending, g.lrec.dieOf r ≠ d := by
  refine ⟨_, exec_dieMapOut habs horphan hheld, State.mapOut_absent _ d, fun x hx => ?_, fun g hg r hr => ?_⟩
  · rw [(State.sameGrids_mapOut _ d).2.1] at hx
    simpa using (List.mem_filter.mp hx).2
  · rw [(State.sameGrids_mapOut _ d).1] at hg
    obtain ⟨g0, -, rfl⟩ := List.mem_map.mp hg
    have hr : r ∈ g0.pending.filter fun r => g0.lrec.dieOf r != d := hr
    have hne : g0.lrec.dieOf r ≠ d := by simpa using (List.mem_filter.mp hr).2
    exact hne

/-- Settles O50: teams and grids end in the order of the rules (`teamEnd_ends`, `gridEnd_ends`), control messages start their fragments
(`controlMessage_arrives`, `fragmentStart_starts`), and a die that is mapped out takes its contexts and ranks with it (`dieMapOut_maps`). -/
theorem teamsAndGrids : Obligations.TeamsAndGrids := by
  unfold Obligations.TeamsAndGrids
  refine fun s d => ⟨fun c t => teamEnd_ends, fun x => gridEnd_ends, fun m => controlMessage_arrives, fun m ms => fragmentStart_starts, fun hspare => ?_,
    dieMapOut_maps⟩
  exact congrArg Host.Outcome.next (if_neg (by rw [hspare]; exact Bool.false_ne_true))

end Sys2Proof.Machine
end

section
/-! PROOFS. Pre-emption, save and restore (R119, R441 to R452, R465, R466). -/

namespace Sys2Proof.Machine

/-- The decision about a team that no pre-emption holds starts the mode that is chosen for its gang (R441). -/
theorem preemptDecision_begins {s : State} {t : TeamId} {c : CoreId} {x : Team} (hfind : s.findTeam t = some (c, x)) (hheld : s.gangHeld t = false)
    (hpre : x.pre = none) (hduty : (s.die (CoreId.die c)).dutySel.getLsbD 3 = false) (mode : Nat) :
    exec (.preemptDecision t mode) s = .next (s.beginPre ((s.gangTeams t).map (·.2.id)) (s.preMode (s.gangTeams t) mode) false none) := by
  have hpreempt : s.preempt t mode = s.beginPre ((s.gangTeams t).map (·.2.id)) (s.preMode (s.gangTeams t) mode) false none := by
    have hask : ¬ (mode == 3 && (s.die (CoreId.die c)).hostPolicy) = true := by
      unfold Die.hostPolicy
      rw [hduty, Bool.and_false]
      exact Bool.false_ne_true
    unfold State.preempt
    rw [hfind]
    dsimp only
    rw [hpre, if_neg hask]
    rfl
  have hexec : exec (.preemptDecision t mode) s = execPreemptDecision t mode s := rfl
  rw [hexec]
  unfold execPreemptDecision
  rw [hfind]
  dsimp only
  rw [hpre, hheld]
  exact congrArg Host.Outcome.next hpreempt

/-- Flush-and-restart goes on (R445). -/
theorem preemptDecision_flushes {s : State} {t : TeamId} {c : CoreId} {x : Team} {p : Preempt} (hfind : s.findTeam t = some (c, x))
    (hheld : s.gangHeld t = false) (hpre : x.pre = some p) (hmode : p.mode = 1) : exec (.preemptDecision t 1) s = .next (s.flushStep t) := by
  have hflush : (some p).any (fun p => p.mode == 1) = true := by simp [hmode]
  have hexec : exec (.preemptDecision t 1) s = execPreemptDecision t 1 s := rfl
  rw [hexec]
  unfold execPreemptDecision
  rw [hfind]
  dsimp only
  rw [hpre, hflush, hheld]
  rfl

/-- A drain whose budget is spent becomes a save (R444). -/
theorem drainBudgetExpiry_saves {s : State} {t : TeamId} {c : CoreId} {x : Team} {p : Preempt} (hfind : s.findTeam t = some (c, x))
    (hheld : s.gangHeld t = false) (hpre : x.pre = some p) (hmode : p.mode = 0) (hclk : x.lrec.budget ≤ p.clk) :
    exec (.drainBudgetExpiry t) s = .next ((s.stowTeam).mapTeams (fun _ => true) (fun y => if ((s.gangTeams t).map (·.2.id)).contains y.id then
      { y with pre := y.pre.map fun q => if q.mode = 0 then { q with mode := 2, clk := 0 } else q } else y) fun _ g => g) := by
  have hspent : (some p).any (fun p => p.mode == 0 && decide (x.lrec.budget ≤ p.clk)) = true := by simp [hmode, hclk]
  have hexec : exec (.drainBudgetExpiry t) s = execDrainBudgetExpiry t s := rfl
  rw [hexec]
  unfold execDrainBudgetExpiry
  dsimp only
  rw [hheld, hfind]
  dsimp only
  rw [hpre, hspent]
  rfl

/-- The quiesce deadline keeps what is incomplete for reissue (R447). -/
theorem quiesceDeadline_keeps {s : State} {t : TeamId} {c : CoreId} {x : Team} {p : Preempt} (hfind : s.findTeam t = some (c, x))
    (hheld : s.gangHeld t = false) (hpre : x.pre = some p) (hmode : p.mode = 2) (hclk : x.lrec.budget / 2 ≤ p.clk) :
    let s1 := (s.focusCore c).focusTeam t
    exec (.quiesceDeadline t) s = .next
      (({ s1 with team := { s1.team with pre := s1.team.pre.map fun p => { p with quiesced := true } } } : State).onCore fun k =>
        { k with engine := k.engine.map fun (o : EngOp) => if o.team = t ∧ o.cancels = true ∧ o.due = false then { o with kept := true } else o }) := by
  intro s1
  have hspent : (some p).any (fun p => p.mode == 2 && decide (x.lrec.budget / 2 ≤ p.clk)) = true := by simp [hmode, hclk]
  have hexec : exec (.quiesceDeadline t) s = execQuiesceDeadline t s := rfl
  rw [hexec]
  unfold execQuiesceDeadline
  rw [hheld, hfind]
  dsimp only
  rw [hpre, hspent]
  simp only [Bool.not_eq_true']
  rfl

/-- A gang that is being saved releases once it is settled, and is captured once it has released (R446). -/
theorem saveCapture_goes {s : State} {t : TeamId} {c : CoreId} {x : Team} {p : Preempt} (hfind : s.findTeam t = some (c, x))
    (hheld : s.gangHeld t = false) (hpre : x.pre = some p) (hmode : p.mode = 2) :
    (p.releasing = false → (∀ y ∈ s.gangTeams t, y.2.pre.any (·.mode == 2) = true ∧ settled (s.coreOf y.1) y.2 = true ∧ s.packetsTaken y.2.id = true) →
      exec (.saveCapture t) s = .next ((s.gangTeams t).foldl (fun s y => s.releaseTeam y.1 y.2.id) s))
    ∧ (p.releasing = true → (∀ y ∈ s.gangTeams t, y.2.gone = true) →
      exec (.saveCapture t) s = .next ((s.gangTeams t).foldl (fun s y => s.capture y.1 y.2) s)) := by
  have hexec : exec (.saveCapture t) s = execSaveCapture t s := rfl
  unfold execSaveCapture at hexec
  dsimp only at hexec
  rw [hheld, hfind] at hexec
  dsimp only at hexec
  rw [hpre] at hexec
  dsimp only at hexec
  rw [if_neg (not_not_intro hmode)] at hexec
  refine ⟨fun hrel hquiet => ?_, fun hrel hgone => ?_⟩
  · rw [hrel] at hexec
    refine hexec.trans (congrArg Host.Outcome.next (if_pos (List.all_eq_true.mpr fun y hy => ?_)))
    obtain ⟨hsave, hsettled, htaken⟩ := hquiet y hy
    rw [hsave, hsettled, htaken]
    rfl
  · rw [hrel] at hexec
    exact hexec.trans (congrArg Host.Outcome.next (if_pos (List.all_eq_true.mpr hgone)))

/-- A request of the control node starts the pre-emption of a resident team (R466). -/
theorem pmreqGo_begins {s : State} {t : TeamId} {c : CoreId} {x : Team} (hfind : s.findTeam t = some (c, x)) {d : Nat} {v : DWord}
    (habs : s.dieAbsent d = false) (hbusy : (s.die d).pm.busy = false) (hteam : pmTeam v = t) :
    let s1 := s.onDie d fun x => { x with pm := { x.pm with req := v &&& 0x20FFFFFFFFFFFFFF, busy := true, notFound := false } }
    let ts := s1.gangTeams t
    let mode := s1.preMode ts (v.toNat / 2 ^ 48 % 4)
    let s2 := s1.beginPre ((ts.map (·.2.id)).filter (· != t)) mode (v.getLsbD 61) none
    exec (.pmreqGo d v) s = .next (s2.beginPre [t] (s2.preMode ts (v.toNat / 2 ^ 48 % 4)) (v.getLsbD 61) (some d)) := by
  intro s1 ts mode s2
  subst hteam
  have hfind1 : s1.findTeam (pmTeam v) = some (c, x) := hfind
  have hexec : exec (.pmreqGo d v) s = execPmreqGo d v s := rfl
  unfold execPmreqGo at hexec
  rw [habs, hbusy] at hexec
  dsimp only at hexec
  rw [show (s.onDie d fun x => { x with pm := { x.pm with req := v &&& 0x20FFFFFFFFFFFFFF, busy := true, notFound := false } }).findTeam (pmTeam v)
    = some (c, x) from hfind] at hexec
  exact hexec

/-- A context that has arrived is restored on a core that has room (R452). -/
theorem restore_places {s : State} {t : TeamId} {x : Context} {c : CoreId} {base : Nat}
    (hfind : s.contexts.find? (fun (y : Context) => y.team.id == t && (!y.moving && !y.keep)) = some x) (hfit : s.fitBase c x.team.lrec = some base) :
    exec (.restore t c) s = .next (s.restore x c base) := by
  have hpending : s.contexts.find? (fun (y : Context) => y.team.id == t && y.isPending) = some x := hfind
  have hexec : exec (.restore t c) s = execRestore t c s := rfl
  unfold execRestore at hexec
  rw [hpending] at hexec
  dsimp only at hexec
  rw [hfit] at hexec
  exact hexec

/-- The control node answers about a mode (R465). -/
theorem pmreplyWrite_answers {s : State} {d : Nat} {v : DWord} {a : BitVec 32 × TeamId} (habs : s.dieAbsent d = false)
    (hmode : v.toNat / 2 ^ 32 % 4 ≠ 3) (hasked : (s.die d).pm.asked.find? (·.1 == v.setWidth 32) = some a) :
    exec (.pmreplyWrite d v) s = .next
      ((s.onDie d fun x => { x with pm := { x.pm with asked := x.pm.asked.filter (·.1 != v.setWidth 32) } }).send
        (.preemptDecision a.2 (v.toNat / 2 ^ 32 % 4))) := by
  have hseq : BitVec.ofNat 32 v.toNat = v.setWidth 32 := BitVec.eq_of_toNat_eq (by simp)
  have hexec : exec (.pmreplyWrite d v) s = execPmreplyWrite d v s := rfl
  have hgo : ¬ (s.dieAbsent d || bits v.toNat 33 32 == 3) = true := by
    rw [habs, Bool.false_or, beq_iff_eq]
    exact hmode
  unfold execPmreplyWrite at hexec
  dsimp only at hexec
  rw [if_neg hgo, hseq, hasked] at hexec
  exact hexec

/-- A resume lets the kept teams of a gang join their grid again (R466). -/
theorem pmreqResume_rejoins {s : State} {t : TeamId} {d : Nat} {v : DWord} (habs : s.dieAbsent d = false) (hbusy : (s.die d).pm.busy = false)
    (hteam : pmTeam v = t) : ∃ u, exec (.pmreqResume d v) s = .next u
      ∧ (∀ x ∈ u.contexts, x.team.id.grid = t.grid → has (s.keptRanks t) x.team.id.rank = true → x.keep = false)
      ∧ (∀ g ∈ u.grids, g.id = t.grid → ∀ r ∈ g.kept, has (s.keptRanks t) r = false) := by
  subst hteam
  let t := pmTeam v
  let ranks := s.keptRanks t
  let back (g : Grid) : Grid :=
    { g with pending := addRanks g.pending (g.kept.filter (has ranks)), kept := g.kept.filter (!has ranks ·) }
  let join (x : Context) : Context := if x.team.id.grid = t.grid ∧ has ranks x.team.id.rank then { x with keep := false } else x
  let asked (x : Die) : Die := { x with pm := { x.pm with req := v &&& 0x20FFFFFFFFFFFFFF, notFound := ranks.isEmpty } }
  let w := ({ s.onDie d asked with contexts := s.contexts.map join } : State).onGrid t.grid back
  obtain ⟨a, hexec⟩ : ∃ a, exec (.pmreqResume d v) s = .next { w with agenda := a } := by
    have hgo : ¬ (s.dieAbsent d || (s.die d).pm.busy && v.getLsbD 63) = true := by
      rw [habs, hbusy]
      exact Bool.false_ne_true
    have hexec : exec (.pmreqResume d v) s = .next (match w.grids.find? fun (g : Grid) => g.id == t.grid with
        | some g => g.dies.foldl (fun s d => s.send (.teamPlacement d)) w
        | none => w) := congrArg Host.Outcome.next (if_neg hgo)
    rw [hexec]
    split
    · next g _ => exact ⟨_, congrArg Host.Outcome.next (foldl_send g.dies (fun d => .teamPlacement d) w)⟩
    · exact ⟨w.agenda, rfl⟩
  refine ⟨_, hexec, fun x hx hgrid hrank => ?_, fun g hg hid r hr => ?_⟩
  · obtain ⟨y, -, rfl⟩ := List.mem_map.mp (show x ∈ s.contexts.map join from hx)
    have hid : (join y).team.id = y.team.id := by
      dsimp only [join]
      split <;> rfl
    rw [hid] at hgrid hrank
    exact congrArg Context.keep (if_pos ⟨hgrid, hrank⟩ : join y = { y with keep := false })
  · obtain ⟨y, -, rfl⟩ := List.mem_map.mp (show g ∈ s.grids.map fun x => if x.id = t.grid then back x else x from hg)
    have hy : y.id = t.grid := by
      split at hid <;> exact hid
    rw [if_pos hy] at hr
    simpa using (List.mem_filter.mp hr).2

/-- Settles O51: each event of a pre-emption finds the gang in its mode and takes the step of that mode. -/
theorem preemptionAndRestore : Obligations.PreemptionAndRestore := by
  unfold Obligations.PreemptionAndRestore
  refine ⟨fun s t c x hfind => ?_, fun s t => ⟨fun x hx => ?_, fun x c base => restore_places, fun d v a => pmreplyWrite_answers,
    fun d v => pmreqResume_rejoins⟩⟩
  · intro gang all
    exact ⟨preemptDecision_begins hfind, fun p hheld hpre => ⟨preemptDecision_flushes hfind hheld hpre, drainBudgetExpiry_saves hfind hheld hpre,
      quiesceDeadline_keeps hfind hheld hpre, fun hmode => (saveCapture_goes hfind hheld hpre hmode).1,
      fun hmode => (saveCapture_goes hfind hheld hpre hmode).2⟩, fun d v => pmreqGo_begins hfind⟩
  · have hexec : exec (.contextTransferDone t) s = execContextTransferDone t s := rfl
    unfold execContextTransferDone at hexec
    rw [hx] at hexec
    exact hexec

end Sys2Proof.Machine
end

section
/-! PROOFS. Peer ports and their frames (R457 to R461, R464). -/

namespace Sys2Proof.Machine

theorem State.port_num (s : State) (p : Nat) : (s.port p).num = p := by
  unfold State.port
  cases h : s.ports.find? (·.num == p) with
  | none => rfl
  | some x => exact beq_iff_eq.mp (List.find?_some (p := fun x : Port => x.num == p) h)

theorem State.port_onPort {s : State} {p : Nat} {f : Port → Port} (h : (f (s.port p)).num = p) : (s.onPort p f).port p = f (s.port p) := by
  have hfind : (f (s.port p) :: s.ports.filter (·.num != p)).find? (·.num == p) = some (f (s.port p)) :=
    List.find?_cons_of_pos (beq_iff_eq.mpr h)
  exact congrArg (·.getD { num := p }) hfind

/-- A posting waits where the port holds 64, or others wait (R460). -/
theorem pqpostWrite_waits {s : State} {port a : Nat} (hport : port < 16) (h : 64 ≤ (s.port port).posts.length ∨ (s.port port).waiting ≠ []) :
    exec (.pqpostWrite port a) s = .next (s.onPort port fun p => { p with waiting := p.waiting ++ [a] }) := by
  have hnot : ¬ s.postReady port a = true := by
    unfold State.postReady State.mayPost
    rintro hready
    obtain ⟨hempty, hmay⟩ := (Bool.and_eq_true _ _).mp hready
    obtain ⟨hfree, -⟩ := (Bool.and_eq_true _ _).mp hmay
    rcases h with h | h
    · exact absurd (of_decide_eq_true hfree) (Nat.not_lt.mpr h)
    · exact h (List.isEmpty_iff.mp hempty)
  exact congrArg Host.Outcome.next ((if_neg (Nat.not_le.mpr hport)).trans (if_neg hnot))

/-- A posting that the port can perform is checked, and its frames leave (R458 to R461). -/
theorem pqpostWrite_posts {s : State} {port a : Nat} (hport : port < 16) (hfree : (s.port port).posts.length < 64)
    (hnone : (s.port port).waiting = []) : ∀ ls, s.postLines a = ls →
      (∀ l ∈ ls, s.lineHeld (s.port port).now.ep (s.port port).now l (ls.length + 1) = false) →
      let s1 := ls.foldl (fun s l => s.portSaw port l ((s.homeWts l).read (s.homeEp l))) (s.useLines ls)
      (s.descBad a = true → exec (.pqpostWrite port a) s = .next (s1.onPort port fun p => { p with err := p.err + 1, postNo := p.postNo + 1 }))
      ∧ (s.descBad a = false → exec (.pqpostWrite port a) s = .next (s1.onPort port fun x =>
          let r := s.copyFrames port (s.port port).postNo a
          { x with postNo := x.postNo + 1, posts := x.posts ++ [{ num := x.postNo, frames := r.1, poisoned := r.2 : Post }] }.leaveAll s1.clk)) := by
  intro ls hls hheld s1
  subst hls
  have hready : s.postReady port a = true := by
    unfold State.postReady State.mayPost
    have hany : ((s.postLines a).any fun l => s.lineHeld (s.port port).now.ep (s.port port).now l ((s.postLines a).length + 1)) = false :=
      List.any_eq_false.mpr fun l hl => by rw [hheld l hl]; exact Bool.false_ne_true
    dsimp only
    rw [hnone, decide_eq_true hfree, hany]
    rfl
  have hexec : exec (.pqpostWrite port a) s = .next (s.post port a) :=
    congrArg Host.Outcome.next ((if_neg (Nat.not_le.mpr hport)).trans (if_pos hready))
  refine ⟨fun hbad => hexec.trans (congrArg Host.Outcome.next (if_pos hbad)), fun hbad => ?_⟩
  exact hexec.trans (congrArg Host.Outcome.next (if_neg (by rw [hbad]; exact Bool.false_ne_true)))

/-- An acknowledgement (R458, R459). -/
theorem peerAcknowledgement_ends {s : State} {f : PeerFrame} {x : Post} (hgood : f.good = true)
    (hx : ((s.port f.port).posts.find? fun x => x.num == f.post && x.left) = some x) :
    let q : BitVec 32 := f.value.setWidth 32
    let y : Post := { x with acked := if x.frames.any (fun g => g.2.seq == q) then q :: x.acked else x.acked }
    let s1 := s.onPort f.port fun p => { p with posts := p.posts.map fun z => if z.num = x.num then y else z }
    exec (.peerAcknowledgement f) s = .next (if y.complete then s1.endPost f.port x.num true else s1) := by
  intro q y s1
  have hseq : BitVec.ofNat 32 f.value.toNat = q := BitVec.eq_of_toNat_eq (by simp [q])
  have hexec : exec (.peerAcknowledgement f) s = execPeerAcknowledgement f s := rfl
  unfold execPeerAcknowledgement at hexec
  rw [hgood, hx, hseq] at hexec
  exact hexec

/-- A refusal ends a post that the port holds (R458). -/
theorem peerRefusal_ends {s : State} {f : PeerFrame} (hgood : f.good = true) (hx : ((s.port f.port).posts.any fun x => x.num == f.post) = true) :
    exec (.peerRefusal f) s = .next (s.endPost f.port f.post false) := by
  have hexec : exec (.peerRefusal f) s = execPeerRefusal f s := rfl
  unfold execPeerRefusal at hexec
  rw [hgood, hx] at hexec
  exact hexec

/-- The frames of a post leave again, up to 8 times (R458). -/
theorem peerResendTimeout_resends {s : State} {port : Nat} {num : BitVec 32} {x : Post}
    (hx : ((s.port port).posts.find? fun x => x.num == num && x.left) = some x) :
    (8 ≤ x.tries → exec (.peerResendTimeout port num) s = .next (s.endPost port num false))
    ∧ (x.tries < 8 → exec (.peerResendTimeout port num) s = .next (s.onPort port fun p => { p with
        sent := p.sent ++ x.frames
        posts := p.posts.map fun y => if y.num = num then { y with tries := y.tries + 1, sentAt := s.clk } else y })) := by
  have hexec : exec (.peerResendTimeout port num) s = .next (s.resend port num) := rfl
  unfold State.resend at hexec
  rw [hx] at hexec
  exact ⟨fun h => hexec.trans (congrArg Host.Outcome.next (if_pos h)), fun h => hexec.trans (congrArg Host.Outcome.next (if_neg (Nat.not_le.mpr h)))⟩

/-- A frame that arrives is discarded, waits behind earlier ones, or is performed (R458). -/
theorem State.arriveFrame_goes {s : State} {type : Nat} {f : PeerFrame} (hport : f.port < 16) :
    (f.good = false → s.arriveFrame type f = s.onPort f.port fun p => { p with discarded := p.discarded + 1 })
    ∧ (f.good = true → (s.port f.port).inbox ≠ [] → s.arriveFrame type f = s.onPort f.port fun p => { p with inbox := p.inbox ++ [(type, f)] })
    ∧ (f.good = true → (s.port f.port).inbox = [] → s.frameReady type f = true → ∃ t : State, s.arriveFrame type f = t.performFrame type f
        ∧ t.mem = s.mem ∧ t.port f.port = s.port f.port) := by
  let come (p : Port) : Port := { p with inbox := p.inbox ++ [(type, f)] }
  let u := s.onPort f.port come
  have hu : u.port f.port = come (s.port f.port) := State.port_onPort (s.port_num f.port)
  have hgo : ¬ 16 ≤ f.port := Nat.not_le.mpr hport
  refine ⟨fun hgood => ?_, fun hgood hinbox => ?_, fun hgood hinbox hready => ?_⟩
  · exact (if_neg hgo).trans (if_pos (by rw [hgood]; rfl))
  · have hlen : ¬ (u.port f.port).inbox.length = 1 := by
      rw [hu]
      have := List.length_pos_iff.mpr hinbox
      simp only [come, List.length_append, List.length_singleton]
      omega
    exact ((if_neg hgo).trans (if_neg (by rw [hgood]; exact Bool.false_ne_true))).trans (if_neg hlen)
  · have hin : (u.port f.port).inbox = [(type, f)] := by
      rw [hu]
      exact congrArg (· ++ [(type, f)]) hinbox
    have harrive : s.arriveFrame type f = (u.pumpPort f.port).getD u :=
      ((if_neg hgo).trans (if_neg (by rw [hgood]; exact Bool.false_ne_true))).trans (if_pos (congrArg List.length hin))
    have hsame : u.frameReady type f = s.frameReady type f := by
      have hnow : (u.port f.port).now = (s.port f.port).now := by rw [hu]
      unfold State.frameReady
      dsimp only
      rw [hnow]
      rfl
    let v := u.onPort f.port fun p => { p with inbox := [] }
    have hpump : u.pumpPort f.port = some (v.performFrame type f) := by
      unfold State.pumpPort
      rw [hin]
      exact if_pos (hsame.trans hready)
    refine ⟨v, by rw [harrive, hpump]; rfl, rfl, ?_⟩
    have hv : v.port f.port = { u.port f.port with inbox := [] } := State.port_onPort (f := fun p => { p with inbox := [] }) (u.port_num f.port)
    rw [hv, hu]
    show ({ s.port f.port with inbox := [] } : Port) = s.port f.port
    rw [← hinbox]

/-- Settles O52: each port keeps its postings and its frames in order, and ends a post by its acknowledgements, its refusal or its resends. -/
theorem peerPorts : Obligations.PeerPorts := by
  unfold Obligations.PeerPorts
  intro s port hport p
  refine ⟨fun a => ⟨pqpostWrite_waits hport, pqpostWrite_posts hport⟩, ?_, ?_, fun num x => peerResendTimeout_resends, ?_, rfl, ?_⟩
  · rintro f x rfl
    exact peerAcknowledgement_ends
  · rintro f rfl
    exact peerRefusal_ends
  · exact congrArg Host.Outcome.next (if_neg (Nat.not_le.mpr hport))
  · rintro f rfl i hi
    have hgoes (type : Nat) := State.arriveFrame_goes (s := s) (type := type) hport
    have hexec : exec i.2 s = .next (s.arriveFrame i.1 f) := by
      simp only [List.mem_cons, List.not_mem_nil, or_false] at hi
      rcases hi with rfl | rfl | rfl <;> rfl
    obtain ⟨hbad, hwaits, hready⟩ := hgoes i.1
    refine ⟨fun h => hexec.trans (congrArg Host.Outcome.next (hbad h)), fun h hin => hexec.trans (congrArg Host.Outcome.next (hwaits h hin)),
      fun h hin hr => ?_⟩
    obtain ⟨t, ht, hmem, hp⟩ := hready h hin hr
    exact ⟨t, hexec.trans (congrArg Host.Outcome.next ht), hmem, hp⟩

end Sys2Proof.Machine
end

section
/-! PROOFS. The control port and the management controller (R454 to R456, R462 to R467). -/

namespace Sys2Proof.Machine

/-- A window request is performed when it can be, and waits otherwise (R455). -/
theorem window_goes (s : State) (m : WindowReq) : ∀ x ∈ [(WinKind.read, Instr.windowRead m), (.write, .windowWrite m), (.add, .windowAtomicAdd m)],
    exec x.2 s = .next (if s.windowReady s.windows (x.1, m) = true then s.performWindow x.1 m else { s with windows := s.windows ++ [(x.1, m)] }) := by
  intro x hx
  simp only [List.mem_cons, List.not_mem_nil, or_false] at hx
  rcases hx with rfl | rfl | rfl <;> rfl

/-! ### The management controller (R462, R463) -/

/-- A sensor that counts the corrected errors of a die. -/
theorem pldmSensorRead_corrected (s : State) {k : Nat} (hk : k < 40) :
    exec (.pldmSensorRead (81 + k)) s = .next { s with mgmt := s.mgmt ++ [.sensor (81 + k) (BitVec.ofNat 64 (s.die k).corrected)] } := by
  have hexec : exec (.pldmSensorRead (81 + k)) s = execPldmSensorRead (81 + k) s := rfl
  rw [hexec]
  unfold execPldmSensorRead
  rw [if_neg (show ¬ 81 + k < 81 by omega), if_pos (show 81 + k < 121 by omega), Nat.add_sub_cancel_left]
  rfl

/-- A sensor that tells the skew class of a die. -/
theorem pldmSensorRead_skew (s : State) {k : Nat} (hk : k < 40) :
    exec (.pldmSensorRead (121 + k)) s = .next { s with mgmt := s.mgmt ++
      [.sensor (121 + k) (if Panel.noPlace s.dies k = true then 0xFF else BitVec.ofNat 64 (skewClass (s.depthOf k)))] } := by
  have hexec : exec (.pldmSensorRead (121 + k)) s = execPldmSensorRead (121 + k) s := rfl
  rw [hexec]
  unfold execPldmSensorRead
  rw [if_neg (show ¬ 121 + k < 81 by omega), if_neg (show ¬ 121 + k < 121 by omega), if_pos (show 121 + k < 161 by omega), Nat.add_sub_cancel_left]
  rfl

theorem pldmSensorRead_none (s : State) {k : Nat} (hk : k ≥ 161) :
    exec (.pldmSensorRead k) s = .next { s with mgmt := s.mgmt ++ [.noSensor k] } := by
  have hexec : exec (.pldmSensorRead k) s = execPldmSensorRead k s := rfl
  rw [hexec]
  unfold execPldmSensorRead
  rw [if_neg (show ¬ k < 81 by omega), if_neg (show ¬ k < 121 by omega), if_neg (show ¬ k < 161 by omega)]
  rfl

/-- The measurement of a die is its attestation record. -/
theorem getMeasurements_die {s : State} {k : Nat} (hk : k < 40) (habs : s.dieAbsent k = false) :
    exec (.getMeasurements (2 + k)) s = .next { s with mgmt := s.mgmt ++ [.measurement (2 + k) (s.die k).att] } := by
  have hexec : exec (.getMeasurements (2 + k)) s = execGetMeasurements (2 + k) s := rfl
  rw [hexec]
  unfold execGetMeasurements
  rw [if_neg (show ¬ 2 + k = 1 by omega), if_pos (show 2 ≤ 2 + k ∧ 2 + k < 42 by omega), Nat.add_sub_cancel_left, habs]
  rfl

theorem getMeasurements_none (s : State) {k : Nat} (hk : k ≥ 42) :
    exec (.getMeasurements k) s = .next { s with mgmt := s.mgmt ++ [.noMeasurement k] } := by
  have hexec : exec (.getMeasurements k) s = execGetMeasurements k s := rfl
  rw [hexec]
  unfold execGetMeasurements
  rw [if_neg (show ¬ k = 1 by omega), if_neg (show ¬ (2 ≤ k ∧ k < 42) by omega)]
  rfl

/-! ### A firmware update (R467) -/

theorem State.mem_present {s : State} {d : Nat} : d ∈ s.present ↔ s.dieAbsent d = false := by
  show d ∈ (List.range 40).filter (fun k => !s.dieAbsent k) ↔ _
  rw [List.mem_filter, List.mem_range, Bool.not_eq_true']
  refine ⟨And.right, fun h => ⟨Nat.lt_of_not_le fun hd => ?_, h⟩⟩
  have habs : s.dieAbsent d = true := Bool.or_eq_true_iff.mpr (.inl (decide_eq_true hd))
  rw [habs] at h
  cases h

/-- Dies take a new attestation record. -/
def State.attest (s : State) (ds : List Nat) (r : BitVec 384) : State := ds.foldl (fun s d => s.onDie d fun x => { x with att := r }) s

theorem State.attest_att (s : State) (ds : List Nat) (r : BitVec 384) (k : Nat) :
    ((s.attest ds r).die k).att = if k ∈ ds then r else (s.die k).att := by
  induction ds generalizing s with
  | nil => rw [if_neg List.not_mem_nil]; rfl
  | cons d ds ih =>
    refine (ih _).trans ?_
    have hdie := s.die_onDie_eq d k (fun x => { x with att := r }) (s.die_num d)
    rw [hdie]
    by_cases hk : k ∈ ds
    · rw [if_pos hk, if_pos (List.mem_cons_of_mem _ hk)]
    · rw [if_neg hk]
      by_cases hd : k = d
      · rw [if_pos hd, if_pos (hd ▸ List.mem_cons_self)]
      · rw [if_neg hd, if_neg fun h => (List.mem_cons.mp h).elim hd hk]

theorem State.attest_rest (s : State) (ds : List Nat) (r : BitVec 384) : ({ s.attest ds r with dies := s.dies } : State) = s :=
  List.foldlRecOn (motive := fun t : State => ({ t with dies := s.dies } : State) = s) ds _ rfl fun _ ht _ _ => ht

/-- A firmware update that verifies extends every attestation record, or is discarded (R467). -/
theorem pldmFirmwareUpdate_verifies (s : State) (image : List Byte) :
    let dig := Config.sha384 (image.take (image.length - 96))
    let sound : Bool := decide (96 ≤ image.length) && Config.ecdsaVerify 0 dig (BitVec.ofNat 768 (leNat (image.drop (image.length - 96))))
    ∃ t, exec (.pldmFirmwareUpdate image) s = .next t ∧ t.mgmt = s.mgmt ++ [.firmware sound]
      ∧ t.firmware = (if sound then ⟨dig, false⟩ else { s.firmware with failed := true })
      ∧ { t with firmware := s.firmware, mgmt := s.mgmt, dies := s.dies } = s
      ∧ ∀ d, (t.die d).att = if sound = true ∧ s.dieAbsent d = false then Config.sha384 (leBytes 48 0 ++ leBytes 48 dig.toNat) else (s.die d).att := by
  intro dig sound
  have hsound : sound = true ↔ 96 ≤ image.length ∧ Config.ecdsaVerify 0 dig (BitVec.ofNat 768 (leNat (image.drop (image.length - 96)))) = true := by
    rw [Bool.and_eq_true, decide_eq_true_eq]
  let r := Config.sha384 (leBytes 48 0 ++ leBytes 48 dig.toNat)
  let u := s.attest s.present r
  have hrest : ({ u with dies := s.dies } : State) = s := s.attest_rest s.present r
  by_cases h : sound = true
  · refine ⟨({ u with firmware := ⟨dig, false⟩ } : State).answer (.firmware true), congrArg Host.Outcome.next (if_pos (hsound.mp h)), ?_, ?_, ?_, fun d => ?_⟩
    · rw [h]
      exact congrArg (fun t : State => t.mgmt ++ [.firmware true]) hrest
    · exact (if_pos h).symm
    · exact congrArg (fun t : State => ({ t with firmware := s.firmware, mgmt := s.mgmt } : State)) hrest
    · refine (s.attest_att s.present r d).trans ?_
      refine ite_of_iff ?_ _ _
      rw [State.mem_present]
      exact ⟨fun hd => ⟨h, hd⟩, And.right⟩
  · refine ⟨({ s with firmware := { s.firmware with failed := true } } : State).answer (.firmware false),
      congrArg Host.Outcome.next (if_neg fun hs => h (hsound.mpr hs)), ?_, (if_neg h).symm, rfl, fun d => (if_neg fun hd => h hd.1).symm⟩
    rw [Bool.eq_false_iff.mpr h]
    rfl

/-- Settles O53: window requests go by `State.windowReady`, the management controller answers by number, and an update that verifies
writes the attestation record of every present die (`State.attest_att`). -/
theorem controlAndManagement : Obligations.ControlAndManagement := by
  unfold Obligations.ControlAndManagement
  refine fun s => ⟨window_goes s, fun m => rfl, fun lane => rfl, ?_, pldmFirmwareUpdate_verifies s⟩
  intro tells
  exact ⟨rfl, fun k hk => pldmSensorRead_corrected s hk, fun k hk => pldmSensorRead_skew s hk, fun k hk => pldmSensorRead_none s hk, rfl, rfl,
    fun a b => rfl, rfl, rfl, fun n => rfl, rfl, fun k hk habs => getMeasurements_die hk habs, fun k hk => getMeasurements_none s hk⟩

end Sys2Proof.Machine
end

section
/-! PROOFS. Register blocks, the loader, routes and the panel map (R27, R36 to R49, R60, R438, R464 to R469). -/

namespace Sys2Proof.Machine

/-! ### Register writes (R464) -/

/-- The registers that the bytes of one register cover: that register alone. -/
theorem wholeRegs_single {off n : Nat} (hsize : regSize off = n) (hn : n ≠ 0) (honly : ∀ o, off < o → o < off + n → regSize o = 0) :
    ((List.range n).map (off + ·)).filter (fun o => regSize o != 0 && decide (o + regSize o ≤ off + n)) = [off] := by
  obtain ⟨k, rfl⟩ := Nat.exists_eq_succ_of_ne_zero hn
  have hrest : ((List.range k).map (fun i => off + (i + 1))).filter (fun o => regSize o != 0 && decide (o + regSize o ≤ off + (k + 1))) = [] := by
    refine List.filter_eq_nil_iff.mpr fun o ho => ?_
    obtain ⟨i, hi, rfl⟩ := List.mem_map.mp ho
    rw [honly _ (by omega) (by have := List.mem_range.mp hi; omega)]
    simp
  rw [List.range_succ_eq_map, List.map_cons, List.map_map, Nat.add_zero,
    List.filter_cons_of_pos (by rw [hsize]; simp), show ((off + ·) ∘ Nat.succ) = fun i => off + (i + 1) from rfl, hrest]

/-- A write of a whole register (R464). -/
theorem State.regWriteBytes_whole {s : State} {m d off n : Nat} {bs : List Byte} (habs : s.dieAbsent d = false) (hlen : bs.length = n)
    (hsize : regSize off = n) (hn : n ≠ 0) (honly : ∀ o, off < o → o < off + n → regSize o = 0) :
    (s.regWriteBytes m d off bs).2 = if s.mayWrite d off m then s.regStore m d off (BitVec.ofNat 64 (leNat bs)) else s.refuse d := by
  have hwhole := wholeRegs_single hsize hn honly
  have hslice : sliceOf bs (off - off) (regSize off) = bs := by
    unfold sliceOf
    rw [Nat.sub_self, List.drop_zero, hsize, ← hlen, List.take_length]
  unfold State.regWriteBytes
  rw [hlen, hwhole]
  show (s.regWrite m d off (BitVec.ofNat 64 (leNat (sliceOf bs (off - off) (regSize off))))).2 = _
  rw [hslice]
  unfold State.regWrite
  rw [habs]
  cases s.mayWrite d off m <;> rfl

/-- A register write is judged against the access tables of its die (R464). -/
theorem registerWrite_judged {s : State} {w : RegWrite} {d : Nat} (hdie : w.die = d) (habs : s.dieAbsent d = false)
    (hsize : regSize w.offset = w.size) (hne : w.size ≠ 0) (honly : ∀ o, w.offset < o → o < w.offset + w.size → regSize o = 0) :
    let v : DWord := BitVec.ofNat 64 (w.value.toNat % 256 ^ w.size)
    ∀ i ∈ [Instr.registerWrite w, .accessTableWrite w],
      (s.mayWrite d w.offset w.master = true → exec i s = .next (s.regStore w.master d w.offset v))
      ∧ (s.mayWrite d w.offset w.master = false → exec i s = .next (s.refuse d)) := by
  subst hdie
  intro v i hi
  have hexec : exec i s = .next (s.regWriteBytes w.master w.die w.offset (leBytes w.size w.value.toNat)).2 := by
    simp only [List.mem_cons, List.not_mem_nil, or_false] at hi
    rcases hi with rfl | rfl <;> rfl
  have hwhole := State.regWriteBytes_whole (s := s) (m := w.master) habs (Memory.leBytes_length w.size w.value.toNat) hsize hne honly
  rw [Memory.leNat_leBytes] at hwhole
  refine ⟨fun hmay => ?_, fun hmay => ?_⟩
  · exact hexec.trans (congrArg Host.Outcome.next (hwhole.trans (if_pos hmay)))
  · exact hexec.trans (congrArg Host.Outcome.next (hwhole.trans (if_neg (by rw [hmay]; exact Bool.false_ne_true))))

/-! ### The loader (R469) -/

/-- A command to the loader starts it, or is refused (R464, R469). -/
theorem loaderGo_judged {s : State} {d master : Nat} {v : Word} (habs : s.dieAbsent d = false) (hbusy : (s.die d).loader.busy = false)
    (hgo : v.getLsbD 31 = true) :
    let cmd (f : Loader → Loader) : State := s.onDie d fun x => { x with loader := f { x.loader with cmd := v &&& 0x7FFFFFFF } }
    (((s.die d).rights 0 master).getLsbD 2 = true →
      exec (.loaderGo master d v) s = .next
        ((cmd fun l => { l with busy := true, master := master, status := 0, failed := 0 }).send (.loaderDone d)))
    ∧ (((s.die d).rights 0 master).getLsbD 2 = false →
      exec (.loaderGo master d v) s = .next ((cmd fun l => { l with status := 6, failed := 0 }).refuse d)) := by
  intro cmd
  let set (x : Die) : Die := { x with loader := { x.loader with cmd := v &&& 0x7FFFFFFF } }
  have htwice (f : Loader → Loader) : (s.onDie d set).onDie d (fun x => { x with loader := f x.loader }) = cmd f :=
    s.onDie_onDie d set _ (s.die_num d)
  have hskip : ¬ (s.dieAbsent d || (s.die d).loader.busy || !v.getLsbD 31) = true := by
    rw [habs, hbusy, hgo]
    exact Bool.false_ne_true
  have hexec : exec (.loaderGo master d v) s = execLoaderGo master d v s := rfl
  unfold execLoaderGo at hexec
  dsimp only at hexec
  rw [if_neg hskip] at hexec
  refine ⟨fun hright => ?_, fun hright => ?_⟩
  · rw [hright] at hexec
    exact hexec.trans (congrArg (fun t : State => Host.Outcome.next (t.send (.loaderDone d)))
      (htwice fun l => { l with busy := true, master := master, status := 0, failed := 0 }))
  · rw [hright] at hexec
    exact hexec.trans (congrArg (fun t : State => Host.Outcome.next (t.refuse d)) (htwice fun l => { l with status := 6, failed := 0 }))

/-! ### Routes and failures (R27, R36 to R39, R438) -/

/-- A router takes an entry once no packet of the route is in flight (R37, R39). -/
theorem routeEntryTaken_takes {s : State} {c : CoreId} {n : Nat} {e : BitVec 256} :
    let s1 := s.focusCore c
    (s1.routeSlot n).bind (·.coming) = some e →
    exec (.routeEntryTaken c n) s = .next (if (s1.agenda ++ s1.timers.map (·.2)).any (onRoute c n) then s1.later 1 (.routeEntryTaken c n)
      else (s1.writeRoute n e).drainRoute n) := by
  intro s1 hcoming
  have hflight : s1.inFlight c n = (s1.agenda ++ s1.timers.map (·.2)).any (onRoute c n) := by
    unfold State.inFlight
    rw [List.any_append, List.any_map]
    rfl
  have hexec : exec (.routeEntryTaken c n) s = execRouteEntryTaken c n s := rfl
  unfold execRouteEntryTaken at hexec
  dsimp only at hexec
  rw [show ((s.focusCore c).routeSlot n).bind (·.coming) = some e from hcoming] at hexec
  dsimp only at hexec
  rw [show (s.focusCore c).inFlight c n = _ from hflight] at hexec
  exact hexec

/-- Flit errors of a link: the sixteenth fails it (R438). -/
theorem meshFlitCrcError_counts {s : State} {m : MeshFault} (habs : s.dieAbsent m.die = false) :
    ∀ n, n = ((s.die m.die).crc.find? (·.1 == m)).elim 1 (·.2 + 1) →
      (16 ≤ n → exec (.meshFlitCrcError m) s = .next ((s.onDie m.die fun x => { x with crc := x.crc.filter (·.1 != m) }).failLink m))
      ∧ (n < 16 → exec (.meshFlitCrcError m) s = .next
          (s.onDie m.die fun x => { x with crc := (m, n) :: x.crc.filter (·.1 != m), corrected := x.corrected + 1 })) := by
  rintro n rfl
  have hgo : ¬ s.dieAbsent m.die = true := by rw [habs]; exact Bool.false_ne_true
  exact ⟨fun h => congrArg Host.Outcome.next ((if_neg hgo).trans (if_pos h)),
    fun h => congrArg Host.Outcome.next ((if_neg hgo).trans (if_neg (Nat.not_le.mpr h)))⟩

/-- A message that cannot be delivered fails for its route, or for the request that awaits it (R36, R38). -/
theorem undeliverableResponse_fails {s : State} {m : Resend} (hbench : ∀ c, m ≠ .bench c) (hin : s.agenda.contains (Resend.msg m) = true) :
    let t : State := { s with agenda := s.agenda.erase (Resend.msg m) }
    (homeRequest m = none → exec (.undeliverableResponse m) s = .next (t.failRoute (Resend.msg m)))
    ∧ ∀ c ref, homeRequest m = some (c, ref) → s.lossWaits c ref = false → exec (.undeliverableResponse m) s = .next (t.failRequest c ref) := by
  intro t
  have hgo : ¬ (!s.agenda.contains (Resend.msg m)) = true := by rw [hin]; exact Bool.false_ne_true
  have hexec : exec (.undeliverableResponse m) s = execUndeliverableResponse m s := rfl
  unfold execUndeliverableResponse at hexec
  dsimp only at hexec
  rw [if_neg hgo] at hexec
  refine ⟨fun hnone => hexec.trans (congrArg Host.Outcome.next ?_), fun c ref hsome hloss => hexec.trans (congrArg Host.Outcome.next ?_)⟩
  · split
    · next x => exact absurd rfl (hbench x)
    · rfl
    · next h => rw [hnone] at h; cases h
  · split
    · next x => exact absurd rfl (hbench x)
    · next h => rw [hsome] at h; cases h
    · next h =>
      obtain ⟨rfl, rfl⟩ := Prod.mk.inj (Option.some.inj (hsome.symm.trans h))
      exact if_neg (by rw [hloss]; exact Bool.false_ne_true)

/-- Settles O54: a whole register is one register to `State.regWriteBytes`, and every other event here passes its guards to its own effect. -/
theorem blocksAndRoutes : Obligations.BlocksAndRoutes := by
  unfold Obligations.BlocksAndRoutes
  refine fun s d => ⟨fun w => registerWrite_judged, fun master v => loaderGo_judged, fun hbusy => ?_, fun c n e hn habs => ?_,
    fun c n e => routeEntryTaken_takes, fun c n e => ?_, ?_, fun m => undeliverableResponse_fails, fun cells => rfl⟩
  · exact congrArg Host.Outcome.next (if_neg (by rw [hbusy]; exact Bool.false_ne_true))
  · refine congrArg Host.Outcome.next (if_neg ?_)
    rintro (h | h)
    · exact absurd hn (Nat.not_lt.mpr h)
    · rw [habs] at h
      cases h
  · intro s1 hout hx hy
    exact congrArg Host.Outcome.next (if_pos ⟨hout, hx, hy⟩)
  · rintro m rfl habs
    exact ⟨congrArg Host.Outcome.next (if_neg (by rw [habs]; exact Bool.false_ne_true)), meshFlitCrcError_counts habs⟩

end Sys2Proof.Machine
end

section
/-! SUPPORT. Loads and stores that the core's copies serve (R277, R281, R283, R555). -/

namespace Sys2Proof.Machine

/-! ### The lookup of a line that hits -/

/-- A line whose copy serves a load: all its bytes are the core's own, or its lease covers `%now` (R277, R281). -/
def State.hits (s : State) (a : LineAcc) : Prop :=
  ∃ c, s.copyOf a.line = some c ∧ (c.mask = BitVec.allOnes 128 ∨ (a.noAlloc = false ∧ c.st ≠ .p ∧ s.leased c = true))

theorem State.lookLine_hit {s : State} {a : LineAcc} (h : s.hits a) : s.lookLine a none = (none, s) := by
  obtain ⟨c, hc, hserve⟩ := h
  unfold State.lookLine
  dsimp only
  rw [hc]
  simp only [Option.isSome_none, Bool.false_eq_true, if_false, Option.any_some]
  split
  · rfl
  · next hall =>
    rcases hserve with hmask | ⟨halloc, hst, hleased⟩
    · rw [hmask] at hall
      exact absurd (by simp) hall
    · rw [halloc, if_neg Bool.false_ne_true, if_neg hst, hleased]
      rfl

/-- An element takes its value from the copy of the line that it waits for. -/
def State.bindElem (s : State) (e : Elem) (a : LineAcc) : Elem :=
  if (e.line == a.line) && (e.wait == some 0) then ((s.copyOf a.line).map e.from).getD e else e

theorem State.bindElems_done (s : State) (accs : List LineAcc) {e : Elem} (h : e.wait = none) : accs.foldl s.bindElem e = e := by
  refine List.foldlRecOn (motive := fun x => x = e) accs s.bindElem rfl fun x hx a _ => ?_
  unfold State.bindElem
  rw [hx, h]
  simp

theorem State.bindElems_hit {s : State} {accs : List LineAcc} {e : Elem} {c : Copy} (hwait : e.wait = some 0) (hc : s.copyOf e.line = some c)
    (hin : ∃ a ∈ accs, a.line = e.line) : accs.foldl s.bindElem e = e.from c := by
  induction accs with
  | nil =>
    obtain ⟨a, ha, -⟩ := hin
    cases ha
  | cons a accs ih =>
    rw [List.foldl_cons]
    by_cases hline : e.line = a.line
    · have hbind : s.bindElem e a = e.from c := by
        unfold State.bindElem
        rw [hwait, hline]
        rw [hline] at hc
        rw [hc]
        simp
      rw [hbind]
      exact s.bindElems_done accs rfl
    · have hbind : s.bindElem e a = e := by
        unfold State.bindElem
        rw [if_neg (by simp [hline])]
      rw [hbind]
      refine ih ?_
      obtain ⟨b, hb, hbl⟩ := hin
      rcases List.mem_cons.mp hb with rfl | hb
      · exact absurd hbl.symm hline
      · exact ⟨b, hb, hbl⟩

/-! ### An operation that is performed as it issues -/

/-- The group in focus with one more operation. -/
def State.withOp (s : State) (h : Stamp) (o : MemOp) : State := s.onGrp fun g => { g with ops := g.ops ++ [o], horizon := h }

/-- No operation of the group goes by a number. -/
def State.freshOp (s : State) (id : Nat) : Prop := ∀ o ∈ s.grp.ops, o.id ≠ id

theorem State.onOp_withOp {s : State} {h : Stamp} {o : MemOp} (hfresh : s.freshOp o.id) (f : MemOp → MemOp) :
    (s.withOp h o).onOp o.id f = s.withOp h (f o) := by
  have hops : (s.grp.ops ++ [o]).map (fun x => if x.id = o.id then f x else x) = s.grp.ops ++ [f o] := by
    rw [List.map_append, List.map_singleton, if_pos rfl]
    congr 1
    refine (List.map_congr_left fun x hx => ?_).trans (List.map_id _)
    rw [if_neg (hfresh x hx)]
    rfl
  exact congrArg (fun ops => s.onGrp fun g => { g with ops := ops, horizon := h }) hops

theorem State.find_withOp {s : State} {h : Stamp} {o : MemOp} (hfresh : s.freshOp o.id) :
    (s.withOp h o).grp.ops.find? (·.id == o.id) = some o := by
  show (s.grp.ops ++ [o]).find? (·.id == o.id) = some o
  rw [List.find?_append, List.find?_eq_none.mpr fun x hx => by simpa using hfresh x hx, Option.none_or]
  exact List.find?_cons_of_pos (beq_self_eq_true o.id)

/-- One line of a relaxed load (R281). -/
def State.loadLine (op : Nat) (promote : Option Scope) (s : State) (a : LineAcc) : State :=
  let seen := (s.copyOf a.line).toList
  match s.lookLine a promote with
  | (some r, s) => s.onOp op fun o => { o with
      snaps := seen ++ o.snaps
      elems := o.elems.map fun e => if (e.line == a.line) && (e.wait == some 0) then { e with wait := some r } else e }
  | (none, s) =>
    match s.copyOf a.line with
    | some c => (s.onOp op fun o => { o with elems := o.elems.map fun e =>
        if (e.line == a.line) && (e.wait == some 0) then e.from c else e }).raiseHorizon (c.wts.read s.ep)
    | none => s

theorem State.startLoads_relaxed {s : State} {op : Nat} (accs : List LineAcc) (promote : Option Scope)
    (hacq : (s.grp.ops.find? (·.id == op)).any (·.acq.isSome) = false) :
    s.startLoads op accs promote = (accs.foldl (State.loadLine op promote) s).onOp op fun o => { o with started := true, lines := [] } := by
  unfold State.startLoads
  rw [hacq]
  rfl

theorem State.loadLine_hit {s : State} {h : Stamp} {o : MemOp} {a : LineAcc} (hfresh : s.freshOp o.id) (hhit : s.hits a) :
    ∃ h', State.loadLine o.id none (s.withOp h o) a = s.withOp h' { o with elems := o.elems.map fun e => s.bindElem e a } := by
  have hlook : (s.withOp h o).lookLine a none = (none, s.withOp h o) := State.lookLine_hit hhit
  obtain ⟨c, hc, -⟩ := hhit
  have hcopy : (s.withOp h o).copyOf a.line = some c := hc
  have hbind : (fun e : Elem => if (e.line == a.line) && (e.wait == some 0) then e.from c else e) = fun e => s.bindElem e a := by
    funext e
    unfold State.bindElem
    rw [hc]
    rfl
  unfold State.loadLine
  dsimp only
  rw [hlook]
  dsimp only
  rw [hcopy]
  dsimp only
  rw [State.onOp_withOp hfresh, hbind]
  unfold State.raiseHorizon
  split
  · exact ⟨_, rfl⟩
  · exact ⟨h, rfl⟩

theorem State.loadLines_hit {s : State} {accs : List LineAcc} (hhit : ∀ a ∈ accs, s.hits a) {h : Stamp} {o : MemOp} (hfresh : s.freshOp o.id) :
    ∃ h', accs.foldl (State.loadLine o.id none) (s.withOp h o) = s.withOp h' { o with elems := o.elems.map (accs.foldl s.bindElem) } := by
  induction accs generalizing h o with
  | nil => exact ⟨h, by rw [show (fun e : Elem => [].foldl s.bindElem e) = id from rfl, List.map_id]; rfl⟩
  | cons a accs ih =>
    obtain ⟨h1, hone⟩ := State.loadLine_hit (h := h) hfresh (hhit a List.mem_cons_self)
    obtain ⟨h2, hrest⟩ := ih (fun b hb => hhit b (List.mem_cons_of_mem _ hb)) (h := h1)
      (o := { o with elems := o.elems.map fun e => s.bindElem e a }) hfresh
    refine ⟨h2, ?_⟩
    rw [List.foldl_cons, hone]
    refine hrest.trans ?_
    rw [List.map_map]
    rfl

/-- The lookups of a load that hits bind its elements, and it has started. -/
theorem State.startLoads_hit {s : State} {accs : List LineAcc} (hhit : ∀ a ∈ accs, s.hits a) {h : Stamp} {o : MemOp} (hfresh : s.freshOp o.id)
    (hacq : o.acq = none) : ∃ h', (s.withOp h o).startLoads o.id accs none = s.withOp h'
      { o with elems := o.elems.map (accs.foldl s.bindElem), started := true, lines := [] } := by
  have hnone : ((s.withOp h o).grp.ops.find? (·.id == o.id)).any (·.acq.isSome) = false := by
    rw [State.find_withOp hfresh, Option.any_some, hacq]
    rfl
  obtain ⟨h', hlines⟩ := State.loadLines_hit hhit (h := h) hfresh
  refine ⟨h', ?_⟩
  rw [State.startLoads_relaxed _ _ hnone, hlines]
  exact State.onOp_withOp (o := { o with elems := o.elems.map (accs.foldl s.bindElem) }) hfresh _

/-- The only operation of a group that has nothing left to wait for is performed. -/
theorem State.finishOps_withOp {s : State} {h : Stamp} {o : MemOp} (hothers : ∀ x ∈ s.grp.ops, x.finished = false) (hdone : o.finished = true) :
    (s.withOp h o).finishOps = (s.withOp h o).finish o := by
  have hfilter : (s.grp.ops ++ [o]).filter MemOp.finished = [o] := by
    rw [List.filter_append, List.filter_eq_nil_iff.mpr fun x hx => by rw [hothers x hx]; exact Bool.false_ne_true, List.nil_append]
    exact List.filter_cons_of_pos hdone
  exact congrArg (·.foldl State.finish (s.withOp h o)) hfilter

/-- An operation that is performed leaves the group's list, rows and counters. -/
def Group.dropOp (g : Group) (o : MemOp) : Group :=
  { g with
    ops := g.ops.filter (·.id != o.id)
    pend := g.pend.filter (fun p => p.who != .op o.id)
    loads := if o.counted && o.load then g.loads - 1 else g.loads
    stores := if o.counted && !o.load then g.stores - 1 else g.stores }

theorem State.finish_lanes {s : State} {o : MemOp} (huni : o.uni = false) (hacq : o.acq = none) :
    s.finish o = (s.writeLanes (o.elems.map (Elem.writes o.ty)).flatten).onGrp (·.dropOp o) := by
  unfold State.finish
  rw [huni, hacq]
  rfl

end Sys2Proof.Machine
end
section
/-! SUPPORT. A load whose lines all hit is performed as it issues (R281, R555). -/

namespace Sys2Proof.Machine

/-- An element of a load, with the leaf through which it reads. -/
def State.loadElem (s : State) (f : MF) (l k : Nat) (p : Place) : Elem × Option Leaf :=
  let e : Elem := { lane := l, reg := s.elemReg f.data (MF.lty f) k, line := 0, off := 0, w := MF.w f }
  match p with
  | .at pa x => ({ e with line := pa / 128, off := pa % 128, por := x.por, wait := some 0 }, some x)
  | _ => (e, none)

/-- The elements of a load (R555). -/
def State.loadElems (s : State) (f : MF) (lanes : List (LaneAcc × List Place)) : List (Elem × Option Leaf) :=
  (lanes.map fun x => x.2.mapIdx fun k p => s.loadElem f x.1.lane k p).flatten

/-- The lines that a load looks up. -/
def State.loadLines (s : State) (f : MF) (g : GAcc) (lanes : List (LaneAcc × List Place)) : List LineAcc :=
  s.lineAccs g.brec ((s.loadElems f lanes).filterMap fun e => e.2.map fun l => (e.1, l))

/-- The operation of a relaxed load. -/
def State.loadOp (s : State) (f : MF) (uni : Bool) (lanes : List (LaneAcc × List Place)) (rows : List Nat) : MemOp :=
  { id := s.fresh + 1, load := true, counted := s.kind == .vector, started := false, elems := (s.loadElems f lanes).map (·.1), ty := MF.lty f
    uni := uni, acq := none, blocks := false, pc := s.pc, srcs := lanes.map fun x => (x.1.lane, x.1.srcs), rows := rows, lines := [] }

/-- The state in which an operation stands but for the operation itself: its counter has risen, and rows are pending. -/
def State.issued (s : State) (o : MemOp) (rows : List Pend) : State :=
  s.onGrp fun g => { g with
    loads := if o.counted && o.load then g.loads + 1 else g.loads
    stores := if o.counted && !o.load then g.stores + 1 else g.stores
    pend := rows }

/-- The state in which a relaxed load's operation stands but for the operation itself. -/
def State.loadIssued (s : State) (o : MemOp) (rows : List Nat) : State :=
  ({ s with fresh := s.fresh + 1 } : State).issued o (⟨.op (s.fresh + 1), rows⟩ :: s.grp.pend)

theorem State.issueLoad_relaxed {s : State} {f : MF} {g : GAcc} {uni : Bool} {lanes : List (LaneAcc × List Place)} {rows : List Nat}
    (horder : f.order = 0) (hpromoted : MF.promoted f = false) :
    s.issueLoad f g uni lanes rows = (((s.loadIssued (s.loadOp f uni lanes rows) rows).withOp s.grp.horizon (s.loadOp f uni lanes rows)).startLoads (s.fresh + 1)
      (s.loadLines f g lanes) none).finishOps := by
  unfold State.issueLoad
  rw [horder, hpromoted]
  rfl

/-! ### The lines of a load -/

theorem State.lineAccs_line {s : State} {r : BitVec 128} {es : List (Elem × Leaf)} {e : Elem × Leaf} (he : e ∈ es) :
    ∃ a ∈ s.lineAccs r es, a.line = e.1.line := by
  have hline : e.1.line ∈ ((es.map (·.1.line)).eraseDups).mergeSort (· ≤ ·) :=
    List.mem_mergeSort.mpr (List.mem_eraseDups.mpr (List.mem_map.mpr ⟨e, he, rfl⟩))
  unfold State.lineAccs
  exact ⟨_, List.mem_map.mpr ⟨e.1.line, hline, rfl⟩, rfl⟩

theorem State.of_mem_lineAccs {s : State} {r : BitVec 128} {es : List (Elem × Leaf)} {a : LineAcc} (ha : a ∈ s.lineAccs r es) :
    (∃ e ∈ es, e.1.line = a.line) ∧ a.noAlloc = s.noAlloc r := by
  unfold State.lineAccs at ha
  obtain ⟨line, hline, rfl⟩ := List.mem_map.mp ha
  obtain ⟨e, he, rfl⟩ := List.mem_map.mp (List.mem_eraseDups.mp (List.mem_mergeSort.mp hline))
  exact ⟨⟨e, he, rfl⟩, rfl⟩

theorem State.mem_loadElems {s : State} {f : MF} {us : List Use} {vas : Nat → List (Option Nat)} {ps : Nat → List Place}
    {x : Elem × Option Leaf} {t : State} :
    x ∈ t.loadElems f (passing s us vas ps) ↔ ∃ l ∈ s.active, ∃ k p, (ps l)[k]? = some p ∧ t.loadElem f l k p = x := by
  unfold State.loadElems passing
  rw [List.mem_flatten]
  constructor
  · rintro ⟨xs, hxs, hx⟩
    rw [List.map_map] at hxs
    obtain ⟨l, hl, rfl⟩ := List.mem_map.mp hxs
    obtain ⟨k, hk, rfl⟩ := List.mem_mapIdx.mp hx
    exact ⟨l, hl, k, (ps l)[k], List.getElem?_eq_getElem hk, rfl⟩
  · rintro ⟨l, hl, k, p, hp, rfl⟩
    obtain ⟨hk, rfl⟩ := List.getElem?_eq_some_iff.mp hp
    refine ⟨_, List.mem_map.mpr ⟨_, List.mem_map.mpr ⟨l, hl, rfl⟩, rfl⟩, List.mem_mapIdx.mpr ⟨k, hk, rfl⟩⟩

/-! ### The value of each element -/

/-- What a load that hits reads at a place (R258, R281). -/
def State.copyVal (s : State) (w : Nat) (p : Place) : BitVec 64 × Bool :=
  match p with
  | .at pa leaf =>
    match s.copyOf (pa / 128) with
    | some c => (BitVec.ofNat 64 (lineNat c.bytes (pa % 128) w), leaf.por || touchesWords c.poison (pa % 128) w)
    | none => (0, false)
  | _ => (0, false)

/-- A place of a load hits: a copy serves its line. -/
def State.placeHits (s : State) (r : BitVec 128) (p : Place) : Prop :=
  ∀ pa leaf, p = .at pa leaf → ∃ c, s.copyOf (pa / 128) = some c
    ∧ (c.mask = BitVec.allOnes 128 ∨ (s.noAlloc r = false ∧ c.st ≠ .p ∧ s.leased c = true))

theorem State.loadLines_hits {s t : State} {f : MF} {g : GAcc} {us : List Use} {vas : Nat → List (Option Nat)} {ps : Nat → List Place}
    (hhit : ∀ l ∈ s.active, ∀ p ∈ ps l, t.placeHits g.brec p) : ∀ a ∈ t.loadLines f g (passing s us vas ps), t.hits a := by
  intro a ha
  obtain ⟨⟨e, he, hline⟩, halloc⟩ := State.of_mem_lineAccs ha
  obtain ⟨x, hx, hxe⟩ := List.mem_filterMap.mp he
  obtain ⟨l, hl, k, p, hp, rfl⟩ := State.mem_loadElems.mp hx
  match p, hp, hxe with
  | .at pa leaf, hp, hxe =>
    obtain rfl := Option.some.inj hxe
    obtain ⟨c, hc, hserve⟩ := hhit l hl _ (List.mem_of_getElem? hp) pa leaf rfl
    refine ⟨c, ?_, ?_⟩
    · rw [← hline]
      exact hc
    · rw [halloc]
      exact hserve
  | .clamped, _, hxe | .hole, _, hxe => cases hxe

/-- An element whose place hits is bound to the value that it reads there. -/
theorem State.bindElems_place {s t : State} {f : MF} {g : GAcc} {us : List Use} {vas : Nat → List (Option Nat)} {ps : Nat → List Place}
    (hhit : ∀ l ∈ s.active, ∀ p ∈ ps l, t.placeHits g.brec p) {l k : Nat} {p : Place} (hl : l ∈ s.active) (hp : (ps l)[k]? = some p) :
    let e := (t.loadLines f g (passing s us vas ps)).foldl t.bindElem (t.loadElem f l k p).1
    e.wait = none ∧ e.lane = l ∧ e.reg = t.elemReg f.data (MF.lty f) k ∧ e.val = t.copyVal (MF.w f) p := by
  match p, hp with
  | .at pa leaf, hp =>
    intro e
    obtain ⟨c, hc, -⟩ := hhit l hl _ (List.mem_of_getElem? hp) pa leaf rfl
    have hin : ∃ a ∈ t.loadLines f g (passing s us vas ps), a.line = (t.loadElem f l k (.at pa leaf)).1.line := by
      refine State.lineAccs_line (e := ((t.loadElem f l k (.at pa leaf)).1, leaf)) (List.mem_filterMap.mpr ⟨_, State.mem_loadElems.mpr
        ⟨l, hl, k, _, hp, rfl⟩, rfl⟩)
    have he : e = (t.loadElem f l k (.at pa leaf)).1.from c := State.bindElems_hit rfl hc hin
    rw [he]
    refine ⟨rfl, rfl, rfl, ?_⟩
    unfold State.copyVal
    dsimp only
    rw [hc]
    rfl
  | .clamped, _ | .hole, _ =>
    intro e
    have he : e = _ := State.bindElems_done t _ rfl
    rw [he]
    exact ⟨rfl, rfl, rfl, rfl⟩

end Sys2Proof.Machine
end
section
/-! PROOFS. Loads and stores that hit complete at the core (R277, R281, R283, R285, R555, R605). -/

namespace Sys2Proof.Machine

/-- What an element of a load writes once its lines have been looked up. -/
def State.boundWrites (s : State) (f : MF) (accs : List LineAcc) (e : Elem × Option Leaf) : List LaneWrite :=
  Elem.writes (MF.lty f) (accs.foldl s.bindElem e.1)

theorem State.boundWrites_lane {s t : State} {f : MF} {g : GAcc} {us : List Use} {vas : Nat → List (Option Nat)} {ps : Nat → List Place}
    (hhit : ∀ l ∈ s.active, ∀ p ∈ ps l, t.placeHits g.brec p) {l : Nat} (hl : l ∈ s.active) :
    ((ps l).mapIdx fun k p => t.loadElem f l k p).map (t.boundWrites f (t.loadLines f g (passing s us vas ps)))
      = ((ps l).mapIdx fun k p => markedWords (t.elemReg f.data (MF.lty f) k) (MF.lty f) (t.copyVal (MF.w f) p)).map (laneWrites l) := by
  rw [map_mapIdx, map_mapIdx]
  refine List.ext_getElem (by rw [List.length_mapIdx, List.length_mapIdx]) fun k hk hk' => ?_
  rw [List.getElem_mapIdx, List.getElem_mapIdx, laneWrites_markedWords]
  rw [List.length_mapIdx] at hk
  obtain ⟨-, hlane, hreg, hval⟩ := State.bindElems_place hhit hl (List.getElem?_eq_getElem hk) (us := us) (vas := vas) (f := f)
  unfold State.boundWrites Elem.writes
  rw [hlane, hreg, hval]

theorem State.boundWrites_all {s t : State} {f : MF} {g : GAcc} {us : List Use} {vas : Nat → List (Option Nat)} {ps : Nat → List Place}
    (hhit : ∀ l ∈ s.active, ∀ p ∈ ps l, t.placeHits g.brec p) :
    ((t.loadElems f (passing s us vas ps)).map (t.boundWrites f (t.loadLines f g (passing s us vas ps)))).flatten
      = takeWrites s.active fun l =>
        ((ps l).mapIdx fun k p => markedWords (t.elemReg f.data (MF.lty f) k) (MF.lty f) (t.copyVal (MF.w f) p)).flatten := by
  let accs := t.loadLines f g (passing s us vas ps)
  have helems : t.loadElems f (passing s us vas ps) = (s.active.map fun l => (ps l).mapIdx fun k p => t.loadElem f l k p).flatten := by
    unfold State.loadElems passing
    rw [List.map_map]
    rfl
  rw [helems, List.map_flatten, List.map_map, List.flatten_flatten, List.map_map]
  refine congrArg List.flatten (List.map_congr_left fun l hl => ?_)
  rw [laneWrites_flatten]
  exact congrArg List.flatten (State.boundWrites_lane hhit hl)

theorem State.loadOp_done {s t : State} {f : MF} {g : GAcc} {us : List Use} {vas : Nat → List (Option Nat)} {ps : Nat → List Place}
    (hhit : ∀ l ∈ s.active, ∀ p ∈ ps l, t.placeHits g.brec p) :
    ∀ e ∈ (t.loadElems f (passing s us vas ps)).map fun e => (t.loadLines f g (passing s us vas ps)).foldl t.bindElem e.1, e.wait = none := by
  intro e he
  obtain ⟨x, hx, rfl⟩ := List.mem_map.mp he
  obtain ⟨l, hl, k, p, hp, rfl⟩ := State.mem_loadElems.mp hx
  exact (State.bindElems_place hhit hl hp).1

/-- A group whose operation was performed as it issued is as it was, but for `%horizon`. -/
theorem State.issued_dropOp {s : State} {o o' : MemOp} {rows : List Pend} {h : Stamp} (hid : o'.id = o.id) (hload : o'.load = o.load)
    (hcounted : o'.counted = o.counted) (hfresh : s.freshOp o.id) (hrows : rows.filter (fun p => p.who != .op o.id) = s.grp.pend) :
    ((s.issued o rows).withOp h o').onGrp (·.dropOp o') = s.onGrp fun g => { g with horizon := h } := by
  have hops : (s.grp.ops ++ [o']).filter (·.id != o'.id) = s.grp.ops := by
    rw [List.filter_append, List.filter_eq_self.mpr fun x hx => by rw [hid]; exact bne_iff_ne.mpr (hfresh x hx)]
    simp
  have hback (b : Bool) (n : Nat) : (if b then (if b then n + 1 else n) - 1 else if b then n + 1 else n) = n := by
    cases b <;> rfl
  have hissued : s.issued o rows = s.issued o' rows := by
    unfold State.issued
    rw [hload, hcounted]
  let put (ops : List MemOp) (pend : List Pend) (loads stores : Nat) : State := { s with
    grp := { s.grp with ops := ops, pend := pend, loads := loads, stores := stores, horizon := h } }
  rw [← hid] at hrows
  have hput : put _ _ _ _ = put _ _ _ _ :=
    congr (congr (congr (congrArg put hops) hrows) (hback (o'.counted && o'.load) s.grp.loads)) (hback (o'.counted && !o'.load) s.grp.stores)
  rw [hissued]
  exact hput

/-- A relaxed load all of whose places hit writes its lanes' registers as it issues. -/
theorem State.issueLoad_hit {s t : State} {f : MF} {g : GAcc} {us : List Use} {vas : Nat → List (Option Nat)} {ps : Nat → List Place} {rows : List Nat}
    (horder : f.order = 0) (hpromoted : MF.promoted f = false) (hhit : ∀ l ∈ s.active, ∀ p ∈ ps l, t.placeHits g.brec p)
    (hops : ∀ o ∈ t.grp.ops, o.finished = false ∧ o.id ≤ t.fresh) (hpend : ∀ p ∈ t.grp.pend, p.who ≠ .op (t.fresh + 1)) :
    ∃ (h : Stamp) (u : State) (a : List Host.Cell) (b m : List Nat),
      u.core = t.core ∧ u.team = t.team ∧ u.grp.base = t.grp.base
      ∧ u.writeLanes (takeWrites s.active fun l =>
          ((ps l).mapIdx fun k p => markedWords (t.elemReg f.data (MF.lty f) k) (MF.lty f) (t.copyVal (MF.w f) p)).flatten) = u.withStore a b m
      ∧ t.issueLoad f g false (passing s us vas ps) rows
        = (({ t with fresh := t.fresh + 1 } : State).onGrp fun g => { g with horizon := h }).withStore a b m := by
  let lanes := passing s us vas ps
  let accs := t.loadLines f g lanes
  let o := t.loadOp f false lanes rows
  let w := t.loadIssued o rows
  have hfresh : w.freshOp o.id := fun x hx => by
    have := (hops x hx).2
    show x.id ≠ t.fresh + 1
    omega
  obtain ⟨h, hstart⟩ := State.startLoads_hit (s := w) (accs := accs) (State.loadLines_hits (t := t) hhit) (h := t.grp.horizon) hfresh rfl
  let o' : MemOp := { o with elems := o.elems.map (accs.foldl t.bindElem), started := true, lines := [] }
  have helems : o'.elems = (t.loadElems f lanes).map fun e => accs.foldl t.bindElem e.1 := List.map_map
  have hdone : o'.finished = true := by
    have hall : o'.elems.all (·.wait.isNone) = true := by
      rw [helems]
      exact List.all_eq_true.mpr fun e he => Option.isNone_iff_eq_none.mpr (State.loadOp_done hhit e he)
    show (true && true && true && o'.elems.all (·.wait.isNone)) = true
    rw [hall]
    rfl
  let u := w.withOp h o'
  have hwrites : (o'.elems.map (Elem.writes o'.ty)).flatten = takeWrites s.active fun l =>
      ((ps l).mapIdx fun k p => markedWords (t.elemReg f.data (MF.lty f) k) (MF.lty f) (t.copyVal (MF.w f) p)).flatten := by
    rw [helems, List.map_map]
    exact State.boundWrites_all hhit
  have hissue : t.issueLoad f g false lanes rows = (u.writeLanes (o'.elems.map (Elem.writes o'.ty)).flatten).onGrp (·.dropOp o') := by
    rw [State.issueLoad_relaxed horder hpromoted]
    show (((w.withOp t.grp.horizon o).startLoads o.id accs none)).finishOps = _
    rw [hstart]
    exact (State.finishOps_withOp (s := w) (h := h) (o := o') (fun x hx => (hops x hx).1) hdone).trans (State.finish_lanes rfl rfl)
  obtain ⟨a, b, m, hw⟩ := u.writeLanes_store (o'.elems.map (Elem.writes o'.ty)).flatten
  have hrows : ((⟨.op (t.fresh + 1), rows⟩ : Pend) :: t.grp.pend).filter (fun p => p.who != .op (t.fresh + 1)) = t.grp.pend := by
    rw [List.filter_cons_of_neg (by simp)]
    exact List.filter_eq_self.mpr fun p hp => bne_iff_ne.mpr (hpend p hp)
  have hdrop := State.issued_dropOp (s := { t with fresh := t.fresh + 1 }) (o := o) (o' := o') (h := h) rfl rfl rfl hfresh hrows
  refine ⟨h, u, a, b, m, rfl, rfl, rfl, ?_, ?_⟩
  · rw [← hwrites]
    exact hw
  · rw [hissue, hw]
    exact congrArg (fun v : State => v.withStore a b m) hdrop

end Sys2Proof.Machine
end
section
/-! PROOFS. Stores into copies, and the statement about loads and stores that hit (R277, R283, R285, R605). -/

namespace Sys2Proof.Machine

/-! ### Stores into copies -/

theorem State.copyOf_line {s : State} {n : Nat} {c : Copy} (h : s.copyOf n = some c) : c.line = n :=
  beq_iff_eq.mp (List.find?_some (p := fun x : Copy => x.line == n) h)

theorem State.copyOf_putCopy (s : State) (c : Copy) (n : Nat) : (s.putCopy c).copyOf n = if n = c.line then some c else s.copyOf n := by
  have hcopies : (s.putCopy c).copyOf n = (c :: s.core.copies.filter (·.line != c.line)).find? (·.line == n) := rfl
  rw [hcopies]
  by_cases h : n = c.line
  · rw [if_pos h, List.find?_cons_of_pos (by rw [h]; exact beq_self_eq_true _)]
  · rw [if_neg h, List.find?_cons_of_neg (by simpa using fun e : c.line = n => h e.symm), List.find?_filter]
    refine congrArg (s.core.copies.find? ·) (funext fun x => ?_)
    by_cases hx : x.line = n
    · simp [hx, h]
    · simp [hx]

/-- The copies once the parts of a store have been written into them (R283). -/
theorem State.storeCopies {parts : List StorePart} {s : State} (hkept : ∀ p ∈ parts, p.noAlloc = false ∧ ∃ c, s.copyOf p.line = some c)
    (hlines : (parts.map (·.line)).Nodup) (op : Nat) :
    ∃ cs, parts.foldl (fun s p => s.storeLine op false p) s = s.onCore (fun c => { c with copies := cs })
      ∧ ∀ line, (s.onCore fun c => { c with copies := cs }).copyOf line =
        (parts.find? (·.line == line)).elim (s.copyOf line) fun p => (s.copyOf line).map (·.store p) := by
  induction parts generalizing s with
  | nil => exact ⟨s.core.copies, rfl, fun line => rfl⟩
  | cons p parts ih =>
    obtain ⟨halloc, c, hc⟩ := hkept p List.mem_cons_self
    obtain ⟨hp, hrest⟩ := List.nodup_cons.mp hlines
    have hline : (c.store p).line = p.line := (State.copyOf_line hc : c.line = p.line)
    have hstep : s.storeLine op false p = s.putCopy (c.store p) := by
      unfold State.storeLine
      rw [halloc, hc]
      rfl
    have hother (n : Nat) (h : n ≠ p.line) : (s.putCopy (c.store p)).copyOf n = s.copyOf n := by
      rw [State.copyOf_putCopy, hline, if_neg h]
    have hne {q : StorePart} (hq : q ∈ parts) : q.line ≠ p.line := fun h => hp (List.mem_map.mpr ⟨q, hq, h⟩)
    obtain ⟨cs, hfold, hcopies⟩ := ih (s := s.putCopy (c.store p)) (fun q hq => by
      obtain ⟨hqa, d, hd⟩ := hkept q (List.mem_cons_of_mem _ hq)
      exact ⟨hqa, d, (hother _ (hne hq)).trans hd⟩) hrest
    refine ⟨cs, ?_, fun line => ?_⟩
    · rw [List.foldl_cons, hstep, hfold]
      rfl
    · refine (hcopies line).trans ?_
      by_cases h : line = p.line
      · have hnone : parts.find? (·.line == line) = none :=
          List.find?_eq_none.mpr fun q hq => by simpa [h] using hne hq
        rw [hnone, List.find?_cons_of_pos (by rw [h]; exact beq_self_eq_true _)]
        show (s.putCopy (c.store p)).copyOf line = (s.copyOf line).map (·.store p)
        rw [State.copyOf_putCopy, hline, if_pos h, h, hc]
        rfl
      · rw [hother line h, List.find?_cons_of_neg (by simpa using fun e : p.line = line => h e.symm)]

/-- Nothing stands twice in a list without duplicates. -/
theorem nodup_eraseDups (l : List Nat) : l.eraseDups.Nodup := by
  induction hn : l.length using Nat.strongRecOn generalizing l with
  | _ n ih =>
    cases l with
    | nil => exact List.nodup_nil
    | cons a l =>
      rw [List.eraseDups_cons]
      have hlen : (l.filter fun b => !b == a).length < n := by
        rw [← hn]
        exact Nat.lt_succ_of_le (List.length_filter_le _ _)
      refine List.nodup_cons.mpr ⟨fun h => ?_, ih _ hlen _ rfl⟩
      simpa using (List.mem_filter.mp (List.mem_eraseDups.mp h)).2

/-- The parts of a store are one for each line (R245). -/
theorem storeParts_lines (ws : List (Nat × Nat × BitVec 64)) (noAlloc stream : Bool) :
    ((storeParts ws noAlloc stream).map (·.line)).Nodup ∧ ∀ p ∈ storeParts ws noAlloc stream, p.noAlloc = noAlloc := by
  let part (line : Nat) : StorePart := (ws.filter (fun x => x.1 / 128 == line)).foldl (fun p x =>
      let m := spanMask (x.1 % 128) x.2.1
      { p with mask := p.mask ||| m
               bytes := mergeBytes m p.bytes (BitVec.ofNat 1024 (x.2.2.toNat % 2 ^ (8 * x.2.1) * 2 ^ (8 * (x.1 % 128)))) })
      { line := line, mask := 0, bytes := 0, poison := 0, noAlloc := noAlloc, stream := stream }
  have hpart (line : Nat) : (part line).line = line ∧ (part line).noAlloc = noAlloc :=
    List.foldlRecOn (motive := fun p : StorePart => p.line = line ∧ p.noAlloc = noAlloc) _ _ ⟨rfl, rfl⟩ fun p hp x _ => hp
  have hparts : storeParts ws noAlloc stream = (((ws.map (·.1 / 128)).eraseDups).mergeSort (· ≤ ·)).map part := rfl
  rw [hparts]
  refine ⟨?_, fun p hp => ?_⟩
  · have hid : (fun x : StorePart => x.line) ∘ part = id := funext fun line => (hpart line).1
    rw [List.map_map, hid, List.map_id]
    exact (List.mergeSort_perm _ _).nodup_iff.mpr (nodup_eraseDups _)
  · obtain ⟨line, -, rfl⟩ := List.mem_map.mp hp
    exact (hpart line).2

/-- The operation of a relaxed store. -/
def State.storeOp (s : State) (lanes : List (LaneAcc × List Place)) : MemOp :=
  { id := s.fresh + 1, load := false, started := false, blocks := false, lines := [], pc := s.pc, srcs := lanes.map fun x => (x.1.lane, x.1.srcs) }

/-- What a relaxed store writes, line by line (R605). -/
def storeWrites (w : Nat) (lanes : List (LaneAcc × List Place)) : List (Nat × Nat × BitVec 64) :=
  (lanes.map fun x => (x.2.mapIdx fun k p => match p with
    | .at pa _ => some (pa, w, (x.1.srcs.getD (k + 1) (0, false)).1)
    | _ => none).filterMap id).flatten

theorem State.issueStore_relaxed {s : State} {f : MF} {g : GAcc} {lanes : List (LaneAcc × List Place)} (horder : f.order = 0) :
    s.issueStore f g lanes = (((((({ s with fresh := s.fresh + 1 } : State).onGrp Group.effect).issued (s.storeOp lanes) s.grp.pend).withOp
      s.grp.horizon (s.storeOp lanes)).startStores (s.fresh + 1) false
      (storeParts (storeWrites (MF.w f) lanes) (s.noAlloc g.brec) (recCpol g.brec == 1)) false).finishOps) := by
  unfold State.issueStore
  rw [horder]
  rfl

/-- A relaxed store to lines of which the core keeps copies writes them as it issues (R283). -/
theorem State.issueStore_hit {t : State} {f : MF} {g : GAcc} {lanes : List (LaneAcc × List Place)} (horder : f.order = 0)
    (halloc : t.noAlloc g.brec = false)
    (hkept : ∀ p ∈ storeParts (storeWrites (MF.w f) lanes) false (recCpol g.brec == 1), ∃ c, t.copyOf p.line = some c)
    (hops : ∀ o ∈ t.grp.ops, o.finished = false ∧ o.id ≤ t.fresh) (hpend : ∀ p ∈ t.grp.pend, p.who ≠ .op (t.fresh + 1)) :
    ∃ cs, t.issueStore f g lanes = (({ t with fresh := t.fresh + 1 } : State).onCore fun c => { c with copies := cs }).onGrp Group.effect
      ∧ ∀ line, (t.onCore fun c => { c with copies := cs }).copyOf line =
        ((storeParts (storeWrites (MF.w f) lanes) false (recCpol g.brec == 1)).find? (·.line == line)).elim (t.copyOf line)
          fun p => (t.copyOf line).map (·.store p) := by
  let parts := storeParts (storeWrites (MF.w f) lanes) false (recCpol g.brec == 1)
  let o := t.storeOp lanes
  let t1 : State := { t with fresh := t.fresh + 1 }
  let e := t1.onGrp Group.effect
  let w := e.issued o t.grp.pend
  obtain ⟨hlines, hnoAlloc⟩ := storeParts_lines (storeWrites (MF.w f) lanes) false (recCpol g.brec == 1)
  obtain ⟨cs, hfold, hcopies⟩ := State.storeCopies (s := w.withOp t.grp.horizon o) (parts := parts)
    (fun p hp => ⟨hnoAlloc p hp, hkept p hp⟩) hlines (t.fresh + 1)
  refine ⟨cs, ?_, hcopies⟩
  let w' := w.onCore fun c => { c with copies := cs }
  let o' : MemOp := { o with started := true, lines := [] }
  have hfresh : w'.freshOp o.id := fun x hx => by
    have := (hops x hx).2
    show x.id ≠ t.fresh + 1
    omega
  have hstart : (w.withOp t.grp.horizon o).startStores (t.fresh + 1) false parts false = w'.withOp t.grp.horizon o' := by
    unfold State.startStores
    dsimp only
    rw [hfold, if_neg Bool.false_ne_true]
    exact State.onOp_withOp (s := w') hfresh _
  rw [State.issueStore_relaxed horder, halloc, show ((((({ t with fresh := t.fresh + 1 } : State).onGrp Group.effect).issued (t.storeOp lanes)
    t.grp.pend).withOp t.grp.horizon (t.storeOp lanes)).startStores (t.fresh + 1) false _ false) = _ from hstart,
    State.finishOps_withOp (s := w') (o := o') (fun x hx => (hops x hx).1) rfl, State.finish_lanes rfl rfl]
  have hnothing : (w'.withOp t.grp.horizon o').writeLanes (o'.elems.map (Elem.writes o'.ty)).flatten = w'.withOp t.grp.horizon o' := rfl
  rw [hnothing]
  exact State.issued_dropOp (s := e.onCore fun c => { c with copies := cs }) (o := o) (o' := o') (h := t.grp.horizon) rfl rfl rfl hfresh
    (List.filter_eq_self.mpr fun p hp => bne_iff_ne.mpr (hpend p hp))

/-- Settles O25: every line of the load hits, so its operation binds all its elements and is performed as it issues
(`State.issueLoad_hit`); every part of the store has a copy, so nothing leaves the core (`State.issueStore_hit`). -/
theorem loadsAndStoresHit : Obligations.LoadsAndStoresHit := by
  unfold Obligations.LoadsAndStoresHit
  refine ⟨fun f s vas ps => ?load, fun f s vas ps => ?store⟩
  case load =>
    intro g got hok hm horder hpromoted hroom hreach hhit hops hpend
    let t := s.issuing vas
    obtain ⟨h, u, a, b, m, hcore, hteam, hbase, hw, hissue⟩ := State.issueLoad_hit (t := t) (us := [f.idx]) (vas := vas) (rows := s.dstRows (.ld f))
      horder hpromoted hhit hops hpend
    have hgot : got = s.copyVal (MF.w f) := by
      funext p
      cases p <;> rfl
    have hexec := (globalAccessesIssue f s vas ps).1 hm hroom hreach
    have haddr (n l : Nat) : u.local (u.vAddr n l) = s.local (s.vAddr n l) := by
      unfold State.local State.vAddr
      rw [hteam, hbase]
      rfl
    rw [hissue] at hexec
    rw [hgot]
    refine ⟨h, lanesTake.of_writeLanes (u := u) (fun l hl => s.active_lt hok hl) ?_ haddr (fun n l => rfl) (by rw [hcore]; rfl) hw hexec
      (State.keeps_next _ _)⟩
    rw [hcore]
    exact hok.2.1.1
  case store =>
    intro g us ws parts hok hm horder hroom halloc hreach hkept hops hpend
    have hlanes : ws = storeWrites (MF.w f) (passing s us vas ps) := by
      show _ = ((passing s us vas ps).map _).flatten
      unfold passing
      rw [List.map_map]
      rfl
    have hfits : s.storeRoom f (passing s us vas ps) = true := by
      unfold State.storeRoom State.storeHolds
      rw [horder]
      exact decide_eq_true (by show s.grp.stores ≤ 62 - 0; omega)
    have hparts : parts = storeParts (storeWrites (MF.w f) (passing s us vas ps)) false (recCpol g.brec == 1) := by rw [← hlanes]
    obtain ⟨cs, hissue, hcopies⟩ := State.issueStore_hit (t := s.issuing vas) (f := f) (g := g) (lanes := passing s us vas ps) horder halloc
      (by rw [← hparts]; exact hkept) hops hpend
    have hexec := (globalAccessesIssue f s vas ps).2.1 hm hroom hreach hfits
    rw [hissue] at hexec
    let v := (({ s.issuing vas with fresh := s.fresh + 1 } : State).onCore fun c => { c with copies := cs }).onGrp Group.effect
    have hkeeps : v.keeps v.next := v.keeps_next false
    have hcs : v.next.core.copies = cs := congrArg (fun x : State => x.core.copies) hkeeps.1
    refine ⟨v.next, hexec, fun line => ?_, ?_⟩
    · have hline : v.next.copyOf line = (s.onCore fun c => { c with copies := cs }).copyOf line :=
        congrArg (fun l : List Copy => l.find? fun x : Copy => x.line == line) hcs
      rw [hline, hparts]
      refine (hcopies line).trans ?_
      cases (storeParts (storeWrites (MF.w f) (passing s us vas ps)) false (recCpol g.brec == 1)).find? (·.line == line) <;> rfl
    · rw [hcs]
      exact ⟨hkeeps.1, hkeeps.2.2⟩

end Sys2Proof.Machine
end

section
/-! SUPPORT. The parts of the invariant of a state, what is asked of outcomes and optional states, and how the parts pass through branches, folds, lists and stores. -/

namespace Sys2Proof.Machine

/-! ### The parts of the invariant -/

/-- What is asked of an outcome: its next state, if it has one, keeps the invariant. -/
def Out.ok : Out → Prop
  | .next t => t.ok
  | _ => True

/-- What is asked of a part of a unit operation: the state that it leaves keeps the invariant. -/
def UnitGo.ok : UnitGo → Prop
  | .more _ t => t.ok
  | .done _ t => t.ok
  | _ => True

/-- What is asked of an optional value. -/
def OptOk {α : Type} (P : α → Prop) : Option α → Prop
  | some a => P a
  | none => True

section parts
variable {s : State} (h : s.ok)
include h
theorem State.ok.wf : Memory.wf (unlistedByte s.pub) s.mem = true := h.1
theorem State.ok.wf_writeNat {a n x : Nat} : Memory.wf (unlistedByte s.pub) (Memory.writeNat s.unlisted s.mem a n x) = true :=
  Memory.wf_writeNat a n x h.1
theorem State.ok.core : s.core.ok := h.2.1
theorem State.ok.team : s.team.ok := h.2.2.1
theorem State.ok.grp : s.grp.ok := h.2.2.2.1
theorem State.ok.cores : ∀ c ∈ s.cores, c.ok := h.2.2.2.2.1
theorem State.ok.contexts : ∀ x ∈ s.contexts, x.team.ok := h.2.2.2.2.2
end parts

section parts
variable {c : Core} (h : c.ok)
include h
theorem Core.ok.store : Memory.wf Memory.zeros c.store = true := h.1
theorem Core.ok.cRegs : c.c.length = 32 := h.2.1
theorem Core.ok.bRegs : c.b.length = 16 := h.2.2.1
theorem Core.ok.teams : ∀ t ∈ c.teams, t.ok := h.2.2.2
end parts

theorem Team.ok.groups {t : Team} (h : t.ok) : ∀ g ∈ t.groups, g.ok := h

/-! ### Branches, folds and optional values -/

section branches
variable {c : Prop} [Decidable c]
theorem State.ok.ite {a b : State} (ha : a.ok) (hb : b.ok) : (if c then a else b).ok := by split <;> assumption
theorem Core.ok.ite {a b : Core} (ha : a.ok) (hb : b.ok) : (if c then a else b).ok := by split <;> assumption
theorem Team.ok.ite {a b : Team} (ha : a.ok) (hb : b.ok) : (if c then a else b).ok := by split <;> assumption
theorem Group.ok.ite {a b : Group} (ha : a.ok) (hb : b.ok) : (if c then a else b).ok := by split <;> assumption
theorem UnitGo.ok.ite {a b : UnitGo} (ha : a.ok) (hb : b.ok) : (if c then a else b).ok := by split <;> assumption
theorem OptOk.ite {α : Type} {P : α → Prop} {a b : Option α} (ha : OptOk P a) (hb : OptOk P b) : OptOk P (if c then a else b) := by
  split <;> assumption
theorem State.ok.iteSnd {α : Type} {a b : α × State} (ha : a.2.ok) (hb : b.2.ok) : (if c then a else b).2.ok := by split <;> assumption
end branches

theorem State.ok.foldl {α : Type} {f : State → α → State} {xs : List α} {s : State} (h : s.ok) (hf : ∀ t x, t.ok → (f t x).ok) :
    (xs.foldl f s).ok := by
  induction xs generalizing s with
  | nil => exact h
  | cons x xs ih => exact ih (hf s x h)

theorem State.ok.foldlMem {α : Type} {Q : α → Prop} {f : State → α → State} {xs : List α} {s : State} (h : s.ok) (hx : ∀ x ∈ xs, Q x)
    (hf : ∀ t x, t.ok → Q x → (f t x).ok) : (xs.foldl f s).ok := by
  induction xs generalizing s with
  | nil => exact h
  | cons x xs ih => exact ih (hf s x h (hx x List.mem_cons_self)) fun y hy => hx y (List.mem_cons_of_mem x hy)

theorem State.ok.foldlSnd {α β : Type} {f : β × State → α → β × State} {xs : List α} {p : β × State} (h : p.2.ok)
    (hf : ∀ q x, q.2.ok → (f q x).2.ok) : (xs.foldl f p).2.ok := by
  induction xs generalizing p with
  | nil => exact h
  | cons x xs ih => exact ih (hf p x h)

theorem State.ok.foldlSndSnd {α β γ : Type} {f : β × γ × State → α → β × γ × State} {xs : List α} {p : β × γ × State} (h : p.2.2.ok)
    (hf : ∀ q x, q.2.2.ok → (f q x).2.2.ok) : (xs.foldl f p).2.2.ok := by
  induction xs generalizing p with
  | nil => exact h
  | cons x xs ih => exact ih (hf p x h)

theorem Group.ok.foldl {α : Type} {f : Group → α → Group} {xs : List α} {g : Group} (h : g.ok) (hf : ∀ t x, t.ok → (f t x).ok) :
    (xs.foldl f g).ok := by
  induction xs generalizing g with
  | nil => exact h
  | cons x xs ih => exact ih (hf g x h)

theorem Core.ok.foldl {α : Type} {f : Core → α → Core} {xs : List α} {g : Core} (h : g.ok) (hf : ∀ t x, t.ok → (f t x).ok) :
    (xs.foldl f g).ok := by
  induction xs generalizing g with
  | nil => exact h
  | cons x xs ih => exact ih (hf g x h)

theorem State.ok.getD {o : Option State} {s : State} (ho : OptOk State.ok o) (h : s.ok) : (o.getD s).ok := by
  cases o with
  | none => exact h
  | some t => exact ho

theorem OptOk.get {α : Type} {P : α → Prop} {o : Option α} {a : α} (ho : OptOk P o) (e : o = some a) : P a := by
  subst e; exact ho

theorem OptOk.map {α β : Type} {Q : α → Prop} {P : β → Prop} {f : α → β} {o : Option α} (ho : OptOk Q o) (hf : ∀ a, Q a → P (f a)) :
    OptOk P (o.map f) := by
  cases o with
  | none => trivial
  | some a => exact hf a ho

theorem OptOk.bind {α β : Type} {Q : α → Prop} {P : β → Prop} {f : α → Option β} {o : Option α} (ho : OptOk Q o)
    (hf : ∀ a, Q a → OptOk P (f a)) : OptOk P (o.bind f) := by
  cases o with
  | none => trivial
  | some a => exact hf a ho

theorem OptOk.any {α : Type} {o : Option α} : OptOk (fun _ => True) o := by
  cases o <;> trivial

theorem OptOk.find {α : Type} {P : α → Prop} {p : α → Bool} {l : List α} (h : ∀ x ∈ l, P x) : OptOk P (l.find? p) := by
  cases e : l.find? p with
  | none => trivial
  | some a => exact h a (List.mem_of_find?_eq_some e)

theorem OptOk.findSome {α β : Type} {P : β → Prop} {f : α → Option β} {l : List α} (h : ∀ x, OptOk P (f x)) : OptOk P (l.findSome? f) := by
  induction l with
  | nil => trivial
  | cons a l ih =>
    rw [List.findSome?_cons]
    cases e : f a with
    | none => exact ih
    | some b => exact (h a).get e

theorem Core.ok.getD {o : Option Core} {c : Core} (ho : OptOk Core.ok o) (h : c.ok) : (o.getD c).ok := by
  cases o with
  | none => exact h
  | some t => exact ho

theorem State.ok.snd {α : Type} {p : α × State} {x : α} {t : State} (h : p.2.ok) (e : p = (x, t)) : t.ok := by
  subst e; exact h

theorem State.ok.out {t : State} (h : t.ok) : Out.ok (.next t) := h

theorem Out.ok.state {o : Out} {t : State} (h : Out.ok o) (e : o = .next t) : t.ok := by
  subst e; exact h

theorem UnitGo.ok.more {g : UnitGo} {o : UnitOp} {t : State} (h : g.ok) (e : g = .more o t) : t.ok := by
  subst e; exact h

theorem UnitGo.ok.done {g : UnitGo} {o : UnitOp} {t : State} (h : g.ok) (e : g = .done o t) : t.ok := by
  subst e; exact h

/-! ### Lists whose members all keep their part -/

section lists
variable {α β : Type} {P : α → Prop}
theorem forall_mem_map_of {Q : β → Prop} {f : β → α} {l : List β} (h : ∀ x ∈ l, Q x) (hf : ∀ x, Q x → P (f x)) : ∀ y ∈ l.map f, P y := by
  intro y hy
  obtain ⟨x, hx, rfl⟩ := List.mem_map.mp hy
  exact hf x (h x hx)
theorem forall_mem_filter_of {p : α → Bool} {l : List α} (h : ∀ x ∈ l, P x) : ∀ y ∈ l.filter p, P y :=
  fun y hy => h y ((List.mem_filter.mp hy).1)
theorem forall_mem_append_of {l m : List α} (hl : ∀ x ∈ l, P x) (hm : ∀ x ∈ m, P x) : ∀ y ∈ l ++ m, P y :=
  fun y hy => (List.mem_append.mp hy).elim (hl y) (hm y)
theorem forall_mem_cons_of {a : α} {l : List α} (ha : P a) (hl : ∀ x ∈ l, P x) : ∀ y ∈ a :: l, P y :=
  List.forall_mem_cons.mpr ⟨ha, hl⟩
theorem forall_mem_nil_of : ∀ y ∈ ([] : List α), P y := fun _ hy => absurd hy List.not_mem_nil
theorem forall_mem_flatten_of {l : List (List α)} (h : ∀ m ∈ l, ∀ x ∈ m, P x) : ∀ y ∈ l.flatten, P y := fun y hy => by
  obtain ⟨m, hm, hy⟩ := List.mem_flatten.mp hy
  exact h m hm y hy
theorem forall_mem_ite_of {c : Prop} [Decidable c] {l m : List α} (hl : ∀ x ∈ l, P x) (hm : ∀ x ∈ m, P x) : ∀ y ∈ (if c then l else m), P y := by
  split <;> assumption
end lists

/-! ### Reset values -/

theorem State.ok.reset : State.reset.ok := resetInvariant

/-! ### Lanes -/

theorem Group.ok.mapLanes {g : Group} {f : Nat → Lane → Lane} (h : g.ok) : (g.mapLanes f).ok := by
  simpa [Group.ok, Group.mapLanes] using h

theorem length_set_of {α : Type} {l : List α} {n i : Nat} {a : α} (h : l.length = n) : (l.set i a).length = n := by
  rw [List.length_set]; exact h

/-! ### Canonical stores -/

theorem Memory.wfFrom_filter {u : Nat → Byte} {p : Host.Cell → Bool} {m : List Host.Cell} {n : Nat} (h : Memory.wfFrom u n m = true) :
    Memory.wfFrom u n (m.filter p) = true := by
  induction m generalizing n with
  | nil => rfl
  | cons c m ih =>
    simp only [Memory.wfFrom, Bool.and_eq_true, decide_eq_true_eq] at h
    obtain ⟨⟨hn, hc⟩, hm⟩ := h
    rw [List.filter_cons]
    split
    · simp only [Memory.wfFrom, Bool.and_eq_true, decide_eq_true_eq]
      exact ⟨⟨hn, hc⟩, ih hm⟩
    · exact Memory.wfFrom_mono (ih hm) (by omega)

theorem Memory.wf_filter {u : Nat → Byte} {p : Host.Cell → Bool} {m : List Host.Cell} (h : Memory.wf u m = true) :
    Memory.wf u (m.filter p) = true := Memory.wfFrom_filter h

theorem Memory.wf_foldl {α : Type} {u : Nat → Byte} {f : List Host.Cell → α → List Host.Cell} {xs : List α} {m : List Host.Cell}
    (h : Memory.wf u m = true) (hf : ∀ k x, Memory.wf u k = true → Memory.wf u (f k x) = true) : Memory.wf u (xs.foldl f m) = true := by
  induction xs generalizing m with
  | nil => exact h
  | cons x xs ih => exact ih (hf m x h)

theorem wf_writeMasked {u : Nat → Byte} {m : List Host.Cell} {line : Nat} {mask : BitVec 128} {bytes : BitVec 1024}
    (h : Memory.wf u m = true) : Memory.wf u (writeMasked u m line mask bytes) = true :=
  Memory.wf_foldl h fun _ _ hk => by
    split
    · exact Memory.wf_write _ _ hk
    · exact hk

theorem Memory.wf_writeNat' {u : Nat → Byte} {m : List Host.Cell} {a n x : Nat} (h : Memory.wf u m = true) :
    Memory.wf u (Memory.writeNat u m a n x) = true := Memory.wf_writeNat a n x h

end Sys2Proof.Machine

end

section
/-! SUPPORT. What every step keeps, for the operations on lanes and groups and the instructions that act on registers alone. -/

namespace Sys2Proof.Machine

/-! ### Panel: The geometry of the panel and its defects, route entries and the routes that firmware finds, the forwarding tree, and the panel map
as firmware publishes it at boot -/

theorem State.ok.writeNat {s : State} {a n x : Nat} (h : s.ok) : (s.writeNat a n x).ok :=
  ⟨h.wf_writeNat, h.core, h.team, h.grp, h.cores, h.contexts⟩

/-! ### Ops: The named operations over lanes, groups and the core store; taking a trap, entering the handler and returning from it -/

theorem State.ok.drawBits {s : State} (h : s.ok) : s.drawBits.2.ok := h

theorem State.ok.drawNat {s : State} {n : Nat} (h : s.ok) : (s.drawNat n).2.ok := h

theorem State.ok.newId {s : State} (h : s.ok) : s.newId.2.ok := h

theorem State.ok.send {s : State} {m : Instr} (h : s.ok) : (s.send m).ok := h

theorem State.ok.later {s : State} {n : Nat} {m : Instr} (h : s.ok) : (s.later n m).ok := h

theorem State.ok.sendRoute {s : State} {n : Nat} {m : Instr} (h : s.ok) : (s.sendRoute n m).ok :=
  State.ok.ite ⟨h.wf, h.core, h.team, h.grp, h.cores, h.contexts⟩ h.send

theorem State.ok.sendUp {s : State} {m : List Byte} (h : s.ok) : (s.sendUp m).ok := h

theorem Group.ok.setLane {g : Group} {l : Nat} {f : Lane → Lane} (hg : g.ok) : (g.setLane l f).ok := hg.mapLanes

theorem State.ok.onGrp {s : State} {f : Group → Group} (h : s.ok) (hf : ∀ a0, a0.ok → (f a0).ok) : (s.onGrp f).ok :=
  ⟨h.wf, h.core, h.team, hf _ h.grp, h.cores, h.contexts⟩

theorem State.ok.onLane {s : State} {l : Nat} {f : Lane → Lane} (h : s.ok) : (s.onLane l f).ok := h.onGrp (fun _ h1 => h1.setLane)

theorem Group.ok.step {g : Group} {ls : List Nat} (hg : g.ok) : (g.step ls).ok := hg.mapLanes

theorem Core.ok.setElem {c : Core} {a : Nat} {w : Word} {p : Bool} (hc : c.ok) : (c.setElem a w p).ok :=
  ⟨Memory.wf_writeNat' hc.store, hc.cRegs, hc.bRegs, hc.teams⟩

theorem Core.ok.setBytes {c : Core} {a n x : Nat} {p : Bool} (hc : c.ok) : (c.setBytes a n x p).ok :=
  ⟨Memory.wf_writeNat' hc.store, hc.cRegs, hc.bRegs, hc.teams⟩

theorem State.ok.onCore {s : State} {f : Core → Core} (h : s.ok) (hf : ∀ a0, a0.ok → (f a0).ok) : (s.onCore f).ok :=
  ⟨h.wf, hf _ h.core, h.team, h.grp, h.cores, h.contexts⟩

theorem State.ok.setElem {s : State} {a : Nat} {w : Word} {p : Bool} (h : s.ok) : (s.setElem a w p).ok := h.onCore (fun _ h1 => h1.setElem)

theorem State.ok.writeLanes {s : State} {ws : List LaneWrite} (h : s.ok) : (s.writeLanes ws).ok :=
  State.ok.onCore (h.foldl (fun _ _ h1 => h1.setElem)) (fun _ h2 => h2)

theorem Group.ok.judgeReconv {g : Group} (hg : g.ok) : g.judgeReconv.ok := by
  unfold Group.judgeReconv
  refine hg.ite ?_
  split
  · exact hg
  · exact hg.mapLanes

theorem Group.ok.killed {g : Group} (hg : g.ok) : g.killed.ok := hg.mapLanes

theorem State.ok.killTeams {gr : GridId} {ts : List Team} (hts : ∀ x ∈ ts, x.ok) : ∀ x ∈ killTeams gr ts, x.ok :=
  forall_mem_map_of hts (fun _ h => Team.ok.ite (forall_mem_map_of h.groups (fun _ h1 => h1.killed)) h)

theorem Core.ok.kill {gr : GridId} {c : Core} (hc : c.ok) : (Core.kill gr c).ok := ⟨hc.store, hc.cRegs, hc.bRegs, State.ok.killTeams hc.teams⟩

theorem State.ok.killGrid {s : State} {kind : BitVec 5} {detail : BitVec 8} (h : s.ok) : (s.killGrid kind detail).ok :=
  ⟨h.wf, h.core.kill, forall_mem_map_of h.team.groups (fun _ h1 => h1.killed), h.grp.killed, forall_mem_map_of h.cores (fun _ h2 => h2.kill),
      h.contexts⟩

theorem Group.ok.park {g : Group} {l : Nat} {t : Trap} {vals : List (BitVec 64 × Bool)} {rows : List Nat} (hg : g.ok) : (g.park l t vals rows).ok :=
  hg.setLane

theorem State.ok.trapLane {s : State} {l : Nat} {t : Trap} {vals : List (BitVec 64 × Bool)} {rows : List Nat} (h : s.ok) :
    (s.trapLane l t vals rows).ok :=
  h.ite (h.killGrid.ite (h.onGrp (fun _ h1 => h1.park)))

theorem State.ok.trapLanes {s : State} {ls : List Nat} {t : Trap} {rows : List Nat} (h : s.ok) : (s.trapLanes ls t rows).ok :=
  h.foldl (fun _ _ h1 => h1.trapLane)

theorem State.ok.endFragment {s : State} {status : Nat} {x : Lane} (h : s.ok) : (s.endFragment status x).ok :=
  State.ok.send (State.ok.sendUp ⟨h.wf, h.core, h.team, h.grp.killed, h.cores, h.contexts⟩)

theorem Group.ok.retry {g : Group} (hg : g.ok) : g.retry.ok := by
  unfold Group.retry
  split
  · exact Group.ok.ite hg hg
  · exact hg

theorem Group.ok.ready {g : Group} {clk : Nat} (hg : g.ok) : (g.ready clk).ok := hg.ite hg

theorem State.ok.enterHandler {s : State} (h : s.ok) : s.enterHandler.ok := by
  unfold State.enterHandler
  split
  · exact h
  · refine h.endFragment.ite ?_
    dsimp only
    split
    · exact h.killGrid
    · exact h.killGrid.ite (h.onGrp (fun _ h1 => Group.ok.ready h1.mapLanes))

theorem Group.ok.leaveHandler {g : Group} (hg : g.ok) : g.leaveHandler.ok := Group.ok.ite hg.mapLanes hg

theorem Group.ok.eret {g : Group} {ls : List Nat} (hg : g.ok) : (g.eret ls).ok := hg.mapLanes

theorem Group.ok.exit {g : Group} {ls : List Nat} (hg : g.ok) : (g.exit ls).ok := hg.mapLanes

theorem Group.ok.effect {g : Group} (hg : g.ok) : g.effect.ok := hg

theorem State.ok.meet {s : State} (h : s.ok) : s.meet.ok := by
  unfold State.meet
  split
  · exact State.ok.send (h.onGrp (fun _ h1 => h1))
  · exact h

theorem State.ok.settle {s : State} (h : s.ok) : s.settle.ok := by
  unfold State.settle
  extract_lets g s1
  have hg : g.ok := h.grp.judgeReconv.leaveHandler
  have hs1 : s1.ok := State.ok.meet ⟨h.wf, h.core, h.team, hg, h.cores, h.contexts⟩
  exact State.ok.ite (hs1.ite (hs1.endFragment.ite (State.ok.send (hs1.onGrp (fun _ h1 => h1))))) (hs1.enterHandler.ite (State.ok.ite (hs1.onGrp
      (fun _ h2 => h2)) (hs1.onGrp (fun _ h3 => h3.ready))))

theorem State.ok.endRun {s : State} (h : s.ok) : s.endRun.ok := State.ok.settle ⟨h.wf, h.core, h.team, h.grp, h.cores, h.contexts⟩

theorem State.ok.retire {s : State} {pc : BitVec 56} {canWait : Bool} (h : s.ok) : (s.retire pc canWait).ok :=
  State.ok.ite (State.ok.endRun ⟨h.wf, h.core, h.team, h.grp, h.cores, h.contexts⟩) ⟨h.wf, h.core, h.team, h.grp, h.cores, h.contexts⟩

theorem State.ok.waitBefore {s : State} {w : WaitFor} (h : s.ok) : (s.waitBefore w).ok :=
  State.ok.endRun ⟨h.wf, h.core, h.team, h.grp, h.cores, h.contexts⟩

theorem State.ok.waitFor {s : State} {w : WaitFor} (h : s.ok) : (s.waitFor w).ok :=
  State.ok.retire ⟨h.wf, h.core, h.team, h.grp, h.cores, h.contexts⟩

theorem Group.ok.pass {g : Group} {ls : List Nat} (hg : g.ok) : (g.pass ls).ok := hg.mapLanes

theorem State.ok.wake {s : State} (h : s.ok) : s.wake.ok := by
  unfold State.wake
  split
  · exact State.ok.settle ⟨h.wf, h.core, h.team, h.grp.pass, h.cores, h.contexts⟩
  · split
    · exact ⟨h.wf, h.core, h.team, h.grp.pass, h.cores, h.contexts⟩
    · exact h

theorem State.ok.touch {s : State} (h : s.ok) : s.touch.ok := h.ite h.settle

theorem State.ok.trapWaiters {s : State} {t : Trap} (h : s.ok) : (s.trapWaiters t).ok := by
  unfold State.trapWaiters
  split
  · exact h
  · exact State.ok.touch (h.onGrp (fun _ h1 => Group.ok.ite (h1.pass.foldl (fun _ _ h2 => h2.park)) (h1.pass.foldl (fun _ _ h3 => h3.park))))

theorem State.ok.next {s : State} {canWait : Bool} (h : s.ok) : (s.next canWait).ok := State.ok.retire (h.onGrp (fun _ h1 => h1.step))

theorem State.ok.stowGroup {s : State} (h : s.ok) : s.stowGroup.ok :=
  h.ite ⟨h.wf, h.core, forall_mem_cons_of h.grp h.team.groups, (Nat.zero_le 32), h.cores, h.contexts⟩

theorem State.ok.stowTeam {s : State} (h : s.ok) : s.stowTeam.ok := by
  unfold State.stowTeam
  extract_lets s1 old
  have hs1 : s1.ok := h.stowGroup
  have hold : old.ok := hs1.core
  exact State.ok.ite ⟨hs1.wf, hold, forall_mem_nil_of, hs1.grp, hs1.cores, hs1.contexts⟩ ⟨hs1.wf, ⟨hold.store, hold.cRegs, hold.bRegs,
      forall_mem_cons_of hs1.team hold.teams⟩, forall_mem_nil_of, hs1.grp, hs1.cores, hs1.contexts⟩

theorem State.ok.blankCore {s : State} {c : CoreId} : (s.blankCore c).ok := by
  unfold State.blankCore
  dsimp only
  split <;> exact ⟨rfl, rfl, rfl, forall_mem_nil_of⟩

theorem State.ok.focusCore {s : State} {c : CoreId} (h : s.ok) : (s.focusCore c).ok := by
  unfold State.focusCore
  refine h.ite ?_
  extract_lets s1 all
  have hs1 : s1.ok := h.stowTeam
  have hall : ∀ x ∈ all, x.ok := forall_mem_cons_of hs1.core hs1.cores
  exact ⟨hs1.wf, Core.ok.getD (OptOk.find hall) State.ok.blankCore, hs1.team, hs1.grp, forall_mem_filter_of hall, hs1.contexts⟩

theorem State.ok.focusTeam {s : State} {t : TeamId} (h : s.ok) : (s.focusTeam t).ok := by
  unfold State.focusTeam
  refine State.ok.ite ?_ h
  extract_lets s1 old
  have hs1 : s1.ok := h.stowTeam
  have hold : old.ok := hs1.core
  split
  next e =>
    exact ⟨hs1.wf, ⟨hold.store, hold.cRegs, hold.bRegs, forall_mem_filter_of hold.teams⟩, OptOk.get (OptOk.find hold.teams) e, hs1.grp, hs1.cores,
        hs1.contexts⟩
  · exact hs1

theorem State.ok.focusGroup {s : State} {g : GroupId} (h : s.ok) : (s.focusGroup g).ok := by
  unfold State.focusGroup
  extract_lets s1 s2 old
  have hs1 : s1.ok := h.focusTeam
  have hs2 : s2.ok := hs1.stowGroup
  have hold : old.ok := hs2.team
  refine State.ok.ite ?_ hs1
  split
  next e => exact ⟨hs2.wf, hs2.core, forall_mem_filter_of hold.groups, OptOk.get (OptOk.find hold.groups) e, hs2.cores, hs2.contexts⟩
  · exact hs2

theorem State.ok.coreTeams {s : State} (h : s.ok) : ∀ x ∈ s.coreTeams, x.ok :=
  forall_mem_append_of (forall_mem_ite_of forall_mem_nil_of (forall_mem_cons_of (forall_mem_append_of (forall_mem_ite_of forall_mem_nil_of
      (forall_mem_cons_of h.grp forall_mem_nil_of)) h.team.groups) forall_mem_nil_of)) h.core.teams

theorem State.ok.eachGroup {s : State} {f : State → State} (h : s.ok) (hf : ∀ a0, a0.ok → (f a0).ok) : (s.eachGroup f).ok :=
  State.ok.focusGroup (h.foldl (fun _ _ h1 => hf _ h1.focusGroup))

theorem State.ok.atGroup {s : State} {g : GroupId} {f : State → State} (h : s.ok) (hf : ∀ a0, a0.ok → (f a0).ok) : (s.atGroup g f).ok :=
  (hf _ h.focusGroup).focusGroup.ite h

theorem State.ok.allCores {s : State} (h : s.ok) : ∀ x ∈ s.allCores, x.ok :=
  forall_mem_cons_of ⟨h.core.store, h.core.cRegs, h.core.bRegs, h.coreTeams⟩ h.cores

theorem State.ok.allTeams {s : State} (h : s.ok) : ∀ x ∈ s.allTeams, x.2.ok :=
  forall_mem_flatten_of (forall_mem_map_of h.allCores fun _ hc => forall_mem_map_of hc.teams fun _ ht => ht)

theorem State.ok.allGroups {s : State} (h : s.ok) : ∀ x ∈ s.allGroups, x.2.2.ok :=
  forall_mem_flatten_of (forall_mem_map_of h.allTeams fun _ ht => forall_mem_map_of (Team.ok.groups ht) fun _ hg => hg)

theorem State.ok.mapTeams {s : State} {p : CoreId → Bool} {f : Team → Team} {g : TeamId → Group → Group} (h : s.ok) (hf : ∀ a0, a0.ok → (f a0).ok)
    (hg : ∀ a0, ∀ a1, a1.ok → (g a0 a1).ok) : (s.mapTeams p f g).ok :=
  ⟨h.wf, Core.ok.ite ⟨h.core.store, h.core.cRegs, h.core.bRegs, forall_mem_map_of h.core.teams (fun _ h1 => forall_mem_map_of (hf _ h1).groups (fun
      _ h2 => hg _ _ h2))⟩ h.core, Team.ok.ite (forall_mem_map_of (hf _ h.team).groups (fun _ h3 => hg _ _ h3)) h.team, (hg _ _ h.grp).ite h.grp,
      forall_mem_map_of h.cores (fun _ h4 => Core.ok.ite ⟨h4.store, h4.cRegs, h4.bRegs, forall_mem_map_of h4.teams (fun _ h5 => forall_mem_map_of
      (hf _ h5).groups (fun _ h6 => hg _ _ h6))⟩ h4), h.contexts⟩

theorem State.ok.mapGroups {s : State} {p : CoreId → Bool} {g : TeamId → Group → Group} (h : s.ok) (hg : ∀ a0, ∀ a1, a1.ok → (g a0 a1).ok) :
    (s.mapGroups p g).ok :=
  h.mapTeams (fun _ h1 => h1) hg

theorem State.ok.mapCores {s : State} {f : Core → Core} (h : s.ok) (hf : ∀ a0, a0.ok → (f a0).ok) : (s.mapCores f).ok :=
  ⟨h.wf, hf _ h.core, h.team, h.grp, forall_mem_map_of h.cores hf, h.contexts⟩

theorem State.ok.trapActive {s : State} {t : Trap} {rows : List Nat} (h : s.ok) : (s.trapActive t rows).ok :=
  State.ok.retire (h.trapLanes.onGrp (fun _ h1 => h1.step))

/-! ### Flags: The flags and small status registers of a group: `%fpstat`, `%fpctl`, `%ucond`, and logical clocks and their words -/

theorem State.ok.raise {s : State} {f : FpFlags} (h : s.ok) : (s.raise f).ok := h.onGrp (fun _ h1 => h1)

theorem Group.ok.setFpctl {g : Group} {v : Word} (hg : g.ok) : (g.setFpctl v).ok := hg

/-! ### Operands: Every operand form: reading a source through the crossbar, neg/abs, immediates, the operand log at a replay, writing results,
pending rows, and the frame in which an instruction acts per lane or once -/

theorem State.ok.holdBack {s : State} {i : Instr} {rows : List Nat} (h : s.ok) : (s.holdBack i rows).ok := h.waitBefore.ite h

theorem State.ok.frame {s : State} {i : Instr} {k : State → State} (h : s.ok) (hk : ∀ a0, a0.ok → (k a0).ok) : (s.frame i k).ok := by
  unfold State.frame
  split
  · exact h.trapActive
  · exact h.holdBack.ite (hk _ h)

theorem State.ok.writeVals {s : State} {n : Nat} {t : Ty} {xs : List (Nat × BitVec 64)} (h : s.ok) : (s.writeVals n t xs).ok := h.writeLanes

theorem State.ok.commit {s : State} {rs : List (Nat × List Src × LaneOut)} {rows : List Nat} (h : s.ok) : (s.commit rs rows).ok :=
  State.ok.retire (State.ok.onGrp (h.writeLanes.raise.foldl (fun _ _ h1 => h1.trapLane)) (fun _ h2 => h2.step))

theorem State.ok.perLane {s : State} {i : Instr} {us : List Use} {body : Nat → List (BitVec 64) → LaneOut} (h : s.ok) : (s.perLane i us body).ok :=
  h.frame (fun _ h1 => h1.commit)

theorem State.ok.perLaneRounded {s : State} {i : Instr} {rnd : BitVec 3} {us : List Use} {body : Rm → List (BitVec 64) → List (Nat × Word × Bool) ×
    FpFlags} (h : s.ok) : (s.perLaneRounded i rnd us body).ok :=
  h.perLane

theorem State.ok.writeS {s : State} {k : Nat} {wide : Bool} {x : BitVec 64} {poison : Bool} (h : s.ok) : (s.writeS k wide x poison).ok := by
  unfold State.writeS
  split
  · exact h.setElem.setElem.ite h.setElem
  · exact State.ok.ite (State.ok.onCore (h.onCore (fun _ h1 => h1)) (fun _ h2 => ⟨h2.store, length_set_of h2.cRegs, h2.bRegs, h2.teams⟩))
      (State.ok.onCore (h.onCore (fun _ h3 => h3)) (fun _ h4 => ⟨h4.store, h4.cRegs, length_set_of h4.bRegs, h4.teams⟩))

theorem State.ok.once {s : State} {i : Instr} {us : List Use} {body : State → List (BitVec 64) → State} (h : s.ok) (hbody : ∀ a0, a0.ok → ∀ a1,
    (body a0 a1).ok) : (s.once i us body).ok :=
  h.frame (fun _ h1 => h1.next.ite (h1.trapActive.ite (hbody _ h1 _)))

/-! ### IntArith: Integer arithmetic: IADD to LEA and their immediate twins -/

theorem State.ok.intUn {s : State} {i : Instr} {f : V3} {op : Ty → BitVec 64 → BitVec 64} (h : s.ok) : (s.intUn i f op).ok := h.perLane

theorem State.ok.intBin {s : State} {i : Instr} {f : V3} {op : Ty → BitVec 64 → BitVec 64 → BitVec 64} (h : s.ok) : (s.intBin i f op).ok :=
  h.perLane

theorem State.ok.intBinVi {s : State} {i : Instr} {f : VI} {op : Ty → BitVec 64 → BitVec 64 → BitVec 64} (h : s.ok) : (s.intBinVi i f op).ok :=
  h.perLane

theorem State.ok.execIadd {f : V3} {s : State} (h : s.ok) : Out.ok (execIadd f s) := h.intBin.out

theorem State.ok.execIsub {f : V3} {s : State} (h : s.ok) : Out.ok (execIsub f s) := h.intBin.out

theorem State.ok.execIneg {f : V3} {s : State} (h : s.ok) : Out.ok (execIneg f s) := h.intUn.out

theorem State.ok.execIabs {f : V3} {s : State} (h : s.ok) : Out.ok (execIabs f s) := h.intUn.out

theorem State.ok.execImul {f : V3} {s : State} (h : s.ok) : Out.ok (execImul f s) := h.intBin.out

theorem State.ok.execImulh {f : V3} {s : State} (h : s.ok) : Out.ok (execImulh f s) := h.intBin.out

theorem State.ok.execImin {f : V3} {s : State} (h : s.ok) : Out.ok (execImin f s) := h.intBin.out

theorem State.ok.execImax {f : V3} {s : State} (h : s.ok) : Out.ok (execImax f s) := h.intBin.out

theorem State.ok.execImad {f : V3} {s : State} (h : s.ok) : Out.ok (execImad f s) := h.perLane.out

theorem State.ok.execIaddc {f : V3} {s : State} (h : s.ok) : Out.ok (execIaddc f s) := h.perLane.out

theorem State.ok.execImadw {f : V3} {s : State} (h : s.ok) : Out.ok (execImadw f s) := h.perLane.out

theorem State.ok.execIcmp {f : V3} {s : State} (h : s.ok) : Out.ok (execIcmp f s) := h.perLane.out

theorem State.ok.execIdot4 {f : V3} {s : State} (h : s.ok) : Out.ok (execIdot4 f s) := h.perLane.out

theorem State.ok.execSel {f : V3} {s : State} (h : s.ok) : Out.ok (execSel f s) := h.perLane.out

theorem State.ok.execLea {f : V3} {s : State} (h : s.ok) : Out.ok (execLea f s) := h.perLane.out

theorem State.ok.execIaddVi {f : VI} {s : State} (h : s.ok) : Out.ok (execIaddVi f s) := h.intBinVi.out

theorem State.ok.execIsubVi {f : VI} {s : State} (h : s.ok) : Out.ok (execIsubVi f s) := h.intBinVi.out

theorem State.ok.execImulVi {f : VI} {s : State} (h : s.ok) : Out.ok (execImulVi f s) := h.intBinVi.out

theorem State.ok.execIminVi {f : VI} {s : State} (h : s.ok) : Out.ok (execIminVi f s) := h.intBinVi.out

theorem State.ok.execImaxVi {f : VI} {s : State} (h : s.ok) : Out.ok (execImaxVi f s) := h.intBinVi.out

theorem State.ok.execImadVi {f : VI} {s : State} (h : s.ok) : Out.ok (execImadVi f s) := h.perLane.out

theorem State.ok.execIcmpVi {f : VI} {s : State} (h : s.ok) : Out.ok (execIcmpVi f s) := h.perLane.out

/-! ### BitOps: Bit operations and moves: AND to POPC, MOV and MOVI -/

theorem State.ok.shiftOp {s : State} {i : Instr} {f : V3} {op : Ty → BitVec 64 → BitVec 64 → BitVec 64} (h : s.ok) : (s.shiftOp i f op).ok :=
  h.perLane

theorem State.ok.countOp {s : State} {i : Instr} {f : V3} {op : Nat → BitVec 64 → Nat} (h : s.ok) : (s.countOp i f op).ok := h.perLane

theorem State.ok.execAnd {f : V3} {s : State} (h : s.ok) : Out.ok (execAnd f s) := h.intBin.out

theorem State.ok.execAndn {f : V3} {s : State} (h : s.ok) : Out.ok (execAndn f s) := h.intBin.out

theorem State.ok.execOr {f : V3} {s : State} (h : s.ok) : Out.ok (execOr f s) := h.intBin.out

theorem State.ok.execOrn {f : V3} {s : State} (h : s.ok) : Out.ok (execOrn f s) := h.intBin.out

theorem State.ok.execXor {f : V3} {s : State} (h : s.ok) : Out.ok (execXor f s) := h.intBin.out

theorem State.ok.execNot {f : V3} {s : State} (h : s.ok) : Out.ok (execNot f s) := h.intUn.out

theorem State.ok.execShl {f : V3} {s : State} (h : s.ok) : Out.ok (execShl f s) := h.shiftOp.out

theorem State.ok.execShr {f : V3} {s : State} (h : s.ok) : Out.ok (execShr f s) := h.shiftOp.out

theorem State.ok.execShra {f : V3} {s : State} (h : s.ok) : Out.ok (execShra f s) := h.shiftOp.out

theorem State.ok.execRotl {f : V3} {s : State} (h : s.ok) : Out.ok (execRotl f s) := h.shiftOp.out

theorem State.ok.execBfe {f : V3} {s : State} (h : s.ok) : Out.ok (execBfe f s) := h.shiftOp.out

theorem State.ok.execBfi {f : V3} {s : State} (h : s.ok) : Out.ok (execBfi f s) := h.perLane.out

theorem State.ok.execBrev {f : V3} {s : State} (h : s.ok) : Out.ok (execBrev f s) := h.intUn.out

theorem State.ok.execClz {f : V3} {s : State} (h : s.ok) : Out.ok (execClz f s) := h.countOp.out

theorem State.ok.execFfs {f : V3} {s : State} (h : s.ok) : Out.ok (execFfs f s) := h.countOp.out

theorem State.ok.execPopc {f : V3} {s : State} (h : s.ok) : Out.ok (execPopc f s) := h.countOp.out

theorem State.ok.execAndVi {f : VI} {s : State} (h : s.ok) : Out.ok (execAndVi f s) := h.intBinVi.out

theorem State.ok.execOrVi {f : VI} {s : State} (h : s.ok) : Out.ok (execOrVi f s) := h.intBinVi.out

theorem State.ok.execXorVi {f : VI} {s : State} (h : s.ok) : Out.ok (execXorVi f s) := h.intBinVi.out

theorem State.ok.execMov {f : V3} {s : State} (h : s.ok) : Out.ok (execMov f s) := h.intUn.out

theorem State.ok.execMovi {f : VI} {s : State} (h : s.ok) : Out.ok (execMovi f s) := h.perLane.out

/-! ### Float: Floating-point arithmetic, comparison, conversion, MX packing and transcendentals -/

theorem State.ok.fpUn {s : State} {i : Instr} {f : V3} {op : Ty → Rm → BitVec 64 → BitVec 64 × FpFlags} (h : s.ok) : (s.fpUn i f op).ok := by
  unfold State.fpUn
  exact h.perLaneRounded

theorem State.ok.fpBin {s : State} {i : Instr} {f : V3} {op : Ty → Rm → BitVec 64 → BitVec 64 → BitVec 64 × FpFlags} (h : s.ok) :
    (s.fpBin i f op).ok := by
  unfold State.fpBin
  exact h.perLaneRounded

theorem State.ok.fpBinVi {s : State} {i : Instr} {f : VI} {op : Ty → Rm → BitVec 64 → BitVec 64 → BitVec 64 × FpFlags} (h : s.ok) :
    (s.fpBinVi i f op).ok := by
  unfold State.fpBinVi
  exact h.perLaneRounded

theorem State.ok.execFadd {f : V3} {s : State} (h : s.ok) : Out.ok (execFadd f s) := h.fpBin.out

theorem State.ok.execFmul {f : V3} {s : State} (h : s.ok) : Out.ok (execFmul f s) := h.fpBin.out

theorem State.ok.execFfma {f : V3} {s : State} (h : s.ok) : Out.ok (execFfma f s) := h.perLaneRounded.out

theorem State.ok.execFmin {f : V3} {s : State} (h : s.ok) : Out.ok (execFmin f s) := h.fpBin.out

theorem State.ok.execFmax {f : V3} {s : State} (h : s.ok) : Out.ok (execFmax f s) := h.fpBin.out

theorem State.ok.execFcmp {f : V3} {s : State} (h : s.ok) : Out.ok (execFcmp f s) := h.perLane.out

theorem State.ok.execFclass {f : V3} {s : State} (h : s.ok) : Out.ok (execFclass f s) := h.perLane.out

theorem State.ok.execFrint {f : V3} {s : State} (h : s.ok) : Out.ok (execFrint f s) := h.fpUn.out

theorem State.ok.execFldexp {f : V3} {s : State} (h : s.ok) : Out.ok (execFldexp f s) := h.perLaneRounded.out

theorem State.ok.execFdot2 {f : V3} {s : State} (h : s.ok) : Out.ok (execFdot2 f s) := h.perLaneRounded.out

theorem State.ok.execFdivfix {f : V3} {s : State} (h : s.ok) : Out.ok (execFdivfix f s) := h.perLaneRounded.out

theorem State.ok.execCvt {f : V3} {s : State} (h : s.ok) : Out.ok (execCvt f s) := h.perLaneRounded.out

theorem State.ok.execCvtef {f : V3} {s : State} (h : s.ok) : Out.ok (execCvtef f s) := h.perLaneRounded.out

theorem State.ok.execMxpack {f : V3} {s : State} (h : s.ok) : Out.ok (execMxpack f s) :=
  State.ok.out (h.frame (fun _ h1 => h1.commit.ite h1.commit))

theorem State.ok.execMxunpack {f : V3} {s : State} (h : s.ok) : Out.ok (execMxunpack f s) := h.perLaneRounded.out

theorem State.ok.execFrcp {f : V3} {s : State} (h : s.ok) : Out.ok (execFrcp f s) := h.fpUn.out

theorem State.ok.execFrsq {f : V3} {s : State} (h : s.ok) : Out.ok (execFrsq f s) := h.fpUn.out

theorem State.ok.execFsqrt {f : V3} {s : State} (h : s.ok) : Out.ok (execFsqrt f s) := h.fpUn.out

theorem State.ok.execFexp2 {f : V3} {s : State} (h : s.ok) : Out.ok (execFexp2 f s) := h.fpUn.out

theorem State.ok.execFlog2 {f : V3} {s : State} (h : s.ok) : Out.ok (execFlog2 f s) := h.fpUn.out

theorem State.ok.execFsin {f : V3} {s : State} (h : s.ok) : Out.ok (execFsin f s) := h.fpUn.out

theorem State.ok.execFcos {f : V3} {s : State} (h : s.ok) : Out.ok (execFcos f s) := h.fpUn.out

theorem State.ok.execFtanh {f : V3} {s : State} (h : s.ok) : Out.ok (execFtanh f s) := h.fpUn.out

theorem State.ok.execFaddVi {f : VI} {s : State} (h : s.ok) : Out.ok (execFaddVi f s) := h.fpBinVi.out

theorem State.ok.execFmulVi {f : VI} {s : State} (h : s.ok) : Out.ok (execFmulVi f s) := h.fpBinVi.out

theorem State.ok.execFfmaVi {f : VI} {s : State} (h : s.ok) : Out.ok (execFfmaVi f s) := h.perLaneRounded.out

theorem State.ok.execFcmpVi {f : VI} {s : State} (h : s.ok) : Out.ok (execFcmpVi f s) := h.perLane.out

/-! ### CrossLane: Cross-lane instructions: SHFL, VOTE, BALLOT, MATCH, REDUCE, SCAN, LANERD, LANEWR and RAND -/

theorem State.ok.execShfl {f : V3} {s : State} (h : s.ok) : Out.ok (execShfl f s) := State.ok.out (h.frame (fun _ h1 => h1.commit))

theorem State.ok.execVote {f : V3} {s : State} (h : s.ok) : Out.ok (execVote f s) :=
  State.ok.out (h.frame (fun _ h1 => h1.commit.ite (h1.ite h1.writeS).commit))

theorem State.ok.execBallot {f : V3} {s : State} (h : s.ok) : Out.ok (execBallot f s) :=
  State.ok.out (h.frame (fun _ h1 => (h1.ite h1.writeS).commit))

theorem State.ok.execMatchl {f : V3} {s : State} (h : s.ok) : Out.ok (execMatchl f s) := State.ok.out (h.frame (fun _ h1 => h1.commit))

theorem State.ok.gather {s : State} {i : Instr} {u : Use} {k : State → List (Nat × List Src) → State} (h : s.ok) (hk : ∀ a0, a0.ok → ∀ a1, (k a0
    a1).ok) : (s.gather i u k).ok :=
  h.frame (fun _ h1 => h1.commit.ite (hk _ h1 _))

theorem State.ok.execReduce {f : V3} {s : State} (h : s.ok) : Out.ok (execReduce f s) :=
  State.ok.out (h.gather (fun _ h1 _ => h1.next.ite h1.writeS.raise.next))

theorem State.ok.execScan {f : V3} {s : State} (h : s.ok) : Out.ok (execScan f s) := State.ok.out (h.gather (fun _ h1 _ => h1.commit))

theorem State.ok.execLanerd {f : V3} {s : State} (h : s.ok) : Out.ok (execLanerd f s) :=
  State.ok.out (h.once (fun _ h1 _ => h1.trapActive.ite h1.writeS.next))

theorem State.ok.execLanewr {f : V3} {s : State} (h : s.ok) : Out.ok (execLanewr f s) :=
  State.ok.out (h.once (fun _ h1 _ => h1.writeLanes.next))

theorem State.ok.execRand {f : V3} {s : State} (h : s.ok) : Out.ok (execRand f s) := h.perLane.out

/-! ### Uniform: The uniform instructions SALU, SCMP, SSEL and SMOV on uniform registers, or on the c registers and buffer-record halves of a
scalar core -/

theorem State.ok.writeU {s : State} {o : Opnd} {t : Ty} {x : BitVec 64} (h : s.ok) : (s.writeU o t x).ok := by
  unfold State.writeU
  split <;> exact h.writeS

theorem State.ok.execSalu {f : UF} {s : State} (h : s.ok) : Out.ok (execSalu f s) := State.ok.out (h.once (fun _ h1 _ => h1.writeU.next))

theorem State.ok.execScmp {f : UF} {s : State} (h : s.ok) : Out.ok (execScmp f s) :=
  State.ok.out (h.once (fun _ h1 _ => State.ok.next (h1.onGrp (fun _ h2 => h2))))

theorem State.ok.execSsel {f : UF} {s : State} (h : s.ok) : Out.ok (execSsel f s) := State.ok.out (h.once (fun _ h1 _ => h1.writeU.next))

theorem State.ok.execSmov {f : UF} {s : State} (h : s.ok) : Out.ok (execSmov f s) := State.ok.out (h.once (fun _ h1 _ => h1.writeU.next))

end Sys2Proof.Machine

end

section
/-! SUPPORT. What every step keeps, for translations, copies, the accesses of a core and the barrier objects. -/

namespace Sys2Proof.Machine

/-! ### Trans: Physical addresses, page tables, walks and translation caches -/

theorem State.ok.onDie {s : State} {d : Nat} {f : Die → Die} (h : s.ok) : (s.onDie d f).ok := h

theorem State.ok.onCluster {s : State} {d n : Nat} {f : Cluster → Cluster} (h : s.ok) : (s.onCluster d n f).ok := h

theorem State.ok.startWalk {s : State} {d : Nat} {r : WalkReq} (h : s.ok) : (s.startWalk d r).ok := h.onDie.send

theorem State.ok.queueWalk {s : State} {r : WalkReq} (h : s.ok) : (s.queueWalk r).ok := h.startWalk.ite (h.onDie.ite h.onCluster)

theorem State.ok.refillWalks {s : State} {d : Nat} (h : s.ok) : (s.refillWalks d).ok := by
  unfold State.refillWalks
  split
  · exact h
  · split
    next e1 =>
      dsimp only
      split
      · exact h.drawNat.snd e1
      · exact (h.drawNat.snd e1).onCluster.onDie

theorem State.ok.nextWalk {s : State} {d : Nat} (h : s.ok) : (s.nextWalk d).ok := by
  unfold State.nextWalk
  split
  · exact h
  · exact h.onDie.startWalk.refillWalks.ite h

theorem State.ok.askWalk {s : State} {r : WalkReq} (h : s.ok) : (s.askWalk r).ok := h.ite (State.ok.queueWalk (h.onCore (fun _ h1 => h1)))

theorem State.ok.askWalks {s : State} {lines : List Nat} {kind : Nat} {who : WalkFor} (h : s.ok) : (s.askWalks lines kind who).ok :=
  h.foldl (fun _ _ h1 => h1.askWalk)

theorem State.ok.dropHeld {s : State} {vas : List Nat} {who : WalkFor} (h : s.ok) : (s.dropHeld vas who).ok := h.onCore (fun _ h1 => h1)

theorem State.ok.dropOwned {s : State} {who : WalkFor} (h : s.ok) : (s.dropOwned who).ok := h.onCore (fun _ h1 => h1)

theorem State.ok.giveHeld {s : State} {vas : List Nat} {old new : WalkFor} (h : s.ok) : (s.giveHeld vas old new).ok := h.onCore (fun _ h1 => h1)

theorem State.ok.dropWalks {s : State} {p : WalkFor → Bool} (h : s.ok) : (s.dropWalks p).ok := by
  unfold State.dropWalks
  extract_lets _ s1 s2
  have hs1 : s1.ok := h.mapCores (fun _ h1 => h1)
  have hs2 : s2.ok := hs1
  exact hs2.foldl (fun _ _ h2 => (by
        extract_lets s4
        have hs4 : s4.ok := h2.onDie
        exact hs4.foldl (fun _ _ h3 => h3.nextWalk)))

theorem State.ok.translated {s : State} {vas : List Nat} {kind : Nat} {k : State → State} (h : s.ok) (hk : ∀ a0, a0.ok → (k a0).ok) :
    (s.translated vas kind k).ok :=
  (hk _ h).ite h.askWalks.waitBefore

/-! ### Wait: What a group's waits depend on, and when each is over: the segment that a core holds for a grid, tiles and their states, matrix
engines and their queues, the orders among accesses, the Hutch, and walks -/

theorem State.ok.atCore {s : State} {c : CoreId} {f : State → State} (h : s.ok) (hf : ∀ a0, a0.ok → (f a0).ok) : (s.atCore c f).ok :=
  (hf _ h).ite (hf _ h.focusCore).focusCore.focusGroup

theorem State.ok.putTile {s : State} {n : Nat} {e : DWord} (h : s.ok) : (s.putTile n e).ok := ⟨h.wf, h.core, h.team, h.grp, h.cores, h.contexts⟩

theorem State.ok.putQuad {s : State} {q : Quad} (h : s.ok) : (s.putQuad q).ok := h

theorem State.ok.putAcc {s : State} {d quad n : Nat} {a : Acc} (h : s.ok) : (s.putAcc d quad n a).ok := h.putQuad

theorem State.ok.reported {s : State} {d : Drain} (h : s.ok) : (s.reported d).ok := h.onCore (fun _ h1 => h1)

theorem State.ok.drainsSeen {s : State} {acc : Option (Nat × Nat)} (h : s.ok) : (s.drainsSeen acc).ok := h.onCore (fun _ h1 => h1)

theorem State.ok.endDrained {s : State} {acc : Option (Nat × Nat)} (h : s.ok) : (s.endDrained acc).ok := by
  unfold State.endDrained
  split
  · exact h.reported.trapWaiters
  · exact h.drainsSeen.wake

theorem State.ok.poll {s : State} (h : s.ok) : s.poll.ok := by
  unfold State.poll
  split
  · refine h.ite ?_
    refine State.ok.ite (State.ok.settle (h.onGrp (fun _ h1 => h1.retry))) ?_
    split
    · exact h.send
    · exact h.endDrained
    · exact h.wake
  · exact h

/-! ### Cache: A core's side of timestamp coherence: logical clocks, copies, copy-back, requests, outstanding operations, and the shared functions
Release and Acquire -/

theorem State.ok.startRebase {s : State} {e : BitVec 2} (h : s.ok) : (s.startRebase e).ok := h

theorem State.ok.requestRebase {s : State} {d : Nat} (h : s.ok) : (s.requestRebase d).ok := h.ite (h.onDie.ite h.onDie.startRebase)

theorem State.ok.noteTick {s : State} {d n : Nat} (h : s.ok) : (s.noteTick d n).ok := h.requestRebase.ite h

theorem State.ok.waitRebase {s : State} (h : s.ok) : s.waitRebase.ok := h.requestRebase.waitBefore

theorem State.ok.setNow {s : State} {n : Nat} (h : s.ok) : (s.setNow n).ok := State.ok.noteTick (h.onCore (fun _ h1 => h1))

theorem State.ok.raiseNow {s : State} {t : Nat} (h : s.ok) : (s.raiseNow t).ok := h.setNow.ite h

theorem State.ok.raiseHorizon {s : State} {t : Nat} (h : s.ok) : (s.raiseHorizon t).ok := State.ok.ite (h.onGrp (fun _ h1 => h1)) h

theorem State.ok.acquire {s : State} {sc : Scope} (h : s.ok) : (s.acquire sc).ok := h.raiseNow.ite h

theorem State.ok.requeue {s : State} {ms : List Instr} (h : s.ok) : (s.requeue ms).ok := h

theorem State.ok.onTime {s : State} {d : Nat} {t : Stamp} {m : Instr} {k : State → State} (h : s.ok) (hk : ∀ a0, a0.ok → (k a0).ok) :
    (s.onTime d t m k).ok :=
  h.requeue.ite (hk _ h)

theorem State.ok.putCopy {s : State} {c : Copy} (h : s.ok) : (s.putCopy c).ok := h.onCore (fun _ h1 => h1)

theorem State.ok.dropCopy {s : State} {line : Nat} (h : s.ok) : (s.dropCopy line).ok := h.onCore (fun _ h1 => h1)

theorem State.ok.settleCopy {s : State} {line : Nat} (h : s.ok) : (s.settleCopy line).ok := h.onCore (fun _ h1 => h1)

theorem State.ok.copyBack {s : State} {line : Nat} (h : s.ok) : (s.copyBack line).2.ok := by
  unfold State.copyBack
  split
  · exact h
  · exact State.ok.iteSnd h (State.ok.send (h.newId.putCopy.onCore (fun _ h1 => h1)))

theorem State.ok.copyBackAll {s : State} (h : s.ok) : s.copyBackAll.ok := h.foldl (fun _ _ h1 => h1.copyBack)

theorem State.ok.sendStore {s : State} {p : StorePart} (h : s.ok) : (s.sendStore p).2.ok := State.ok.send (h.newId.onCore (fun _ h1 => h1))

theorem State.ok.evict {s : State} {line : Nat} (h : s.ok) : (s.evict line).ok := h.copyBack.dropCopy

theorem State.ok.makeRoom {s : State} (h : s.ok) : s.makeRoom.2.ok := by
  unfold State.makeRoom
  refine State.ok.iteSnd h ?_
  dsimp only
  split
  · exact h
  · exact h.drawNat.evict

theorem State.ok.askLine {s : State} {a : LineAcc} {c : Option Copy} {promote : Option Scope} (h : s.ok) : (s.askLine a c promote).2.ok :=
  h.newId.send

theorem State.ok.enterP {s : State} {a : LineAcc} {r : Nat} (h : s.ok) : (s.enterP a r).ok := by
  unfold State.enterP
  split
  · exact h.putCopy
  · refine h.ite ?_
    split
    next e1 => exact (h.makeRoom.snd e1).putCopy
    next e1 => exact h.makeRoom.snd e1

theorem State.ok.lookLine {s : State} {a : LineAcc} {promote : Option Scope} (h : s.ok) : (s.lookLine a promote).2.ok := by
  unfold State.lookLine
  refine State.ok.iteSnd (h.askLine.ite h.askLine.enterP) ?_
  refine State.ok.iteSnd h ?_
  refine State.ok.iteSnd h.askLine ?_
  split
  · exact State.ok.iteSnd h (State.ok.iteSnd h h.askLine.enterP)
  · exact h.askLine.enterP

theorem State.ok.onOp {s : State} {id : Nat} {f : MemOp → MemOp} (h : s.ok) : (s.onOp id f).ok := h.onGrp (fun _ h1 => h1)

theorem State.ok.addOp {s : State} {o : MemOp} (h : s.ok) : (s.addOp o).ok := h.onGrp (fun _ h1 => h1)

theorem State.ok.writeUniElem {s : State} {t : Ty} {e : Elem} (h : s.ok) : (s.writeUniElem t e).ok := by
  unfold State.writeUniElem
  split <;> exact h.writeS

theorem State.ok.finish {s : State} {o : MemOp} (h : s.ok) : (s.finish o).ok := by
  unfold State.finish
  dsimp only
  split
  · exact State.ok.acquire (State.ok.onGrp (State.ok.ite (h.foldl (fun _ _ h1 => h1.writeUniElem)) h.writeLanes) (fun _ h2 => h2))
  · exact State.ok.onGrp (State.ok.ite (h.foldl (fun _ _ h1 => h1.writeUniElem)) h.writeLanes) (fun _ h2 => h2)

theorem State.ok.finishOps {s : State} (h : s.ok) : s.finishOps.ok := h.foldl (fun _ _ h1 => h1.finish)

theorem State.ok.bindOps {s : State} {line ref : Nat} {f : Copy → Copy} (h : s.ok) : (s.bindOps line ref f).ok :=
  State.ok.foldl (h.onGrp (fun _ h1 => h1)) (fun _ _ h2 => h2.raiseHorizon.raiseNow.ite h2.raiseHorizon)

theorem State.ok.clearWait {s : State} {ref : Nat} (h : s.ok) : (s.clearWait ref).ok := h.onGrp (fun _ h1 => h1)

theorem State.ok.startLoads {s : State} {op : Nat} {accs : List LineAcc} {promote : Option Scope} (h : s.ok) : (s.startLoads op accs promote).ok :=
  State.ok.onOp ((h.setNow.ite h).foldl (fun _ _ h1 => (by
          dsimp only
          split
          next e => exact (h1.lookLine.snd e).onOp
          next e =>
            split
            · exact (h1.lookLine.snd e).onOp.raiseHorizon.raiseNow.ite (h1.lookLine.snd e).onOp.raiseHorizon
            · exact h1.lookLine.snd e)))

theorem State.ok.storeLine {s : State} {op : Nat} {wide : Bool} {p : StorePart} (h : s.ok) : (s.storeLine op wide p).ok :=
  State.ok.ite (by
      split
      · exact h.sendStore.onOp.putCopy
      · exact h.sendStore.onOp) (by
      dsimp only
      split
      · exact h.sendStore.onOp
      next e => exact State.ok.ite (State.ok.onOp (State.ok.copyBack (OptOk.get (by
                split
                · exact h.putCopy
                · split
                  next e2 => exact (h.makeRoom.snd e2).putCopy
                  · exact trivial) e))) (OptOk.get (by
            split
            · exact h.putCopy
            · split
              next e2 => exact (h.makeRoom.snd e2).putCopy
              · exact trivial) e))

theorem State.ok.contribute {s : State} {m : Contribution} (h : s.ok) : (s.contribute m).ok := State.ok.send (h.onCore (fun _ h1 => h1))

theorem State.ok.sendAtoms {s : State} {line : Nat} {msgs : List AtomMsg} {bench : List Contribution} (h : s.ok) : (s.sendAtoms line msgs bench).ok :=
  State.ok.foldl (h.evict.foldl (fun _ _ h1 => h1.send)) (fun _ _ h2 => h2.contribute)

theorem State.ok.register {s : State} {line ref : Nat} {msgs : List AtomMsg} {bench : List Contribution} (h : s.ok) :
    (s.register line ref msgs bench).ok :=
  h.send.ite h.sendAtoms

theorem State.ok.retireHeld {s : State} {old new ref : Nat} {msgs : List AtomMsg} {bench : List Contribution} (h : s.ok) :
    (s.retireHeld old new ref msgs bench).ok :=
  h.send.register

theorem State.ok.hold {s : State} {op line ref : Nat} {msgs : List AtomMsg} {bench : List Contribution} (h : s.ok) :
    (s.hold op line ref msgs bench).ok := by
  unfold State.hold
  extract_lets
  refine h.register.ite ?_
  split
  · refine State.ok.ite (State.ok.register (h.onCore (fun _ h1 => h1))) ?_
    extract_lets s2
    have hs2 : s2.ok := State.ok.copyBackAll (h.onCore (fun _ h2 => h2))
    exact hs2.setNow.retireHeld.ite (hs2.onCore (fun _ h3 => h3))
  · exact State.ok.register (h.onCore (fun _ h1 => h1))

theorem State.ok.holdLine {s : State} {op line : Nat} (h : s.ok) : (s.holdLine op line).ok := h.ite h.newId.newId.addOp.hold

theorem State.ok.startStores {s : State} {op : Nat} {wide : Bool} {parts : List StorePart} {hold : Bool} (h : s.ok) :
    (s.startStores op wide parts hold).ok :=
  State.ok.ite (State.ok.foldl (State.ok.onOp (h.foldl (fun _ _ h1 => h1.storeLine))) (fun _ _ h2 => h2.holdLine)) (State.ok.onOp (h.foldl (fun _ _
      h3 => h3.storeLine)))

theorem State.ok.startAtoms {s : State} {op : Nat} {msgs : List AtomMsg} {bench : List Contribution} (h : s.ok) : (s.startAtoms op msgs bench).ok :=
  State.ok.onOp (h.foldl (fun _ _ h1 => h1.hold.ite h1.sendAtoms))

theorem State.ok.forgetBytes {s : State} {line : Nat} {mask : BitVec 128} (h : s.ok) : (s.forgetBytes line mask).ok :=
  h.eachGroup (fun _ h1 => h1.onGrp (fun _ h2 => h2))

theorem State.ok.yield {s : State} {line : Nat} (h : s.ok) : (s.yield line).ok :=
  State.ok.send (State.ok.forgetBytes (State.ok.settleCopy (h.onCore (fun _ h1 => h1))))

theorem State.ok.follow {s : State} {r : Rel} (h : s.ok) : (s.follow r).ok := by
  unfold State.follow
  extract_lets inGroup _ s1
  have hin : ∀ f : State → State, (∀ t, t.ok → (f t).ok) → (inGroup f).ok := fun f hf => by
    dsimp only [inGroup]
    split
    · exact h.atGroup hf
    · exact h
  have hs1 : s1.ok := h.foldl (fun _ _ h1 => h1.send)
  split
  · exact hin _ (fun _ h1 => h1.startLoads)
  · exact hin _ (fun _ h1 => h1.startStores)
  · exact hin _ (fun _ h1 => h1.startAtoms)
  · exact hin _ (fun _ h1 => State.ok.onOp (h1.foldl (fun _ _ h2 => h2.sendRoute)))
  · exact State.ok.ite (hin _ (fun _ h1 => h1.acquire)) h
  · exact hin _ (fun _ h1 => h1.onGrp (fun _ hg => hg))
  · exact h.retireHeld
  · exact h.yield
  · exact h.send
  · exact h.foldl (fun _ _ h1 => h1.send)
  · extract_lets s2
    have hs2 : s2.ok := hs1.onCore (fun _ hc => hc)
    exact State.ok.ite (State.ok.send hs2) hs2
  · extract_lets s2
    have hs2 : s2.ok := h.focusTeam
    exact ⟨hs2.wf, hs2.core, hs2.team, hs2.grp, hs2.cores, hs2.contexts⟩
  · exact h

theorem State.ok.relAgain {s : State} {r : Rel} (h : s.ok) : (s.relAgain r).1.ok := h.foldl (fun _ _ h1 => h1.copyBack)

theorem State.ok.fire {s : State} {r : Rel} (h : s.ok) : (s.fire r).ok := (h.setNow.ite h).follow

theorem State.ok.release {s : State} {sc : Scope} {release : Bool} {ops : List Nat} {cont : Cont} (h : s.ok) : (s.release sc release ops cont).ok :=
  (h.copyBackAll.ite h).fire.ite ((h.copyBackAll.ite h).onCore (fun _ h1 => h1))

theorem State.ok.pumpN {n : Nat} {s : State} (h : s.ok) : (s.pumpN n).ok := by
  induction n generalizing s with
  | zero => exact h.eachGroup (fun _ h1 => h1.poll)
  | succ n ih =>
    unfold State.pumpN
    extract_lets s1
    have hs1 : s1.ok := h.eachGroup (fun _ h1 => h1.finishOps)
    split
    · exact hs1.eachGroup (fun _ h1 => h1.poll)
    · split
      · exact hs1
      · exact State.ok.ite (ih (State.ok.fire (hs1.onCore (fun _ h1 => h1)))) (ih (State.ok.onCore hs1.relAgain (fun _ h1 => h1)))

theorem State.ok.pump {s : State} (h : s.ok) : s.pump.ok := h.pumpN

/-! ### Memory: Global memory instructions: LD, LDU, ST, ATOM, PREF, RENEW, EXPIRE and FLUSH -/

theorem State.ok.access {s : State} {i : Instr} {k : State → State} (h : s.ok) (hk : ∀ a0, a0.ok → (k a0).ok) : (s.access i k).ok :=
  h.frame (fun _ h1 => h1.next.ite (h1.waitBefore.ite (hk _ h1)))

theorem State.ok.proceed {s : State} {trapped : List (Nat × List Src × Trap)} {rows : List Nat} {canWait : Bool} (h : s.ok) :
    (s.proceed trapped rows canWait).ok :=
  State.ok.retire (State.ok.onGrp (h.foldl (fun _ _ h1 => h1.trapLane)) (fun _ h2 => h2.step))

theorem State.ok.issueLoad {s : State} {f : MF} {g : GAcc} {uni : Bool} {lanes : List (LaneAcc × List Place)} {rows : List Nat} (h : s.ok) :
    (s.issueLoad f g uni lanes rows).ok :=
  State.ok.finishOps (State.ok.ite (State.ok.release (h.newId.addOp.onGrp (fun _ h1 => h1))) (State.ok.startLoads (h.newId.addOp.onGrp (fun _ h2 =>
      h2))))

theorem State.ok.globalLoad {s : State} {i : Instr} {f : MF} {uni : Bool} (h : s.ok) : (s.globalLoad i f uni).ok :=
  h.access (fun _ h1 => h1.waitBefore.ite (h1.translated (fun _ h2 => h2.waitBefore.ite h2.dropHeld.issueLoad.proceed)))

theorem State.ok.execLd {f : MF} {s : State} (h : s.ok) : Out.ok (execLd f s) := h.globalLoad.out

theorem State.ok.execLdu {f : MF} {s : State} (h : s.ok) : Out.ok (execLdu f s) := h.globalLoad.out

theorem State.ok.issueStore {s : State} {f : MF} {g : GAcc} {lanes : List (LaneAcc × List Place)} (h : s.ok) : (s.issueStore f g lanes).ok :=
  State.ok.finishOps (State.ok.ite (State.ok.release (State.ok.addOp (h.newId.onGrp (fun _ h1 => h1.effect)))) (State.ok.startStores
      (State.ok.addOp (h.newId.onGrp (fun _ h2 => h2.effect)))))

theorem State.ok.execSt {f : MF} {s : State} (h : s.ok) : Out.ok (execSt f s) :=
  State.ok.out (h.access (fun _ h1 => h1.waitBefore.ite (h1.translated (fun _ h2 => h2.waitBefore.ite (h2.waitBefore.ite
      h2.dropHeld.issueStore.proceed)))))

theorem State.ok.issueAtom {s : State} {f : MF} {lanes : List (LaneAcc × List Place)} {rows : List Nat} (h : s.ok) : (s.issueAtom f lanes rows).ok :=
  State.ok.finishOps (State.ok.ite (State.ok.release (State.ok.onGrp (State.ok.addOp (State.ok.onGrp h.newId (fun _ h1 => h1.effect))) (fun _ h2 =>
      h2))) (State.ok.startAtoms (State.ok.onGrp (State.ok.addOp (State.ok.onGrp h.newId (fun _ h3 => h3.effect))) (fun _ h4 => h4))))

theorem State.ok.execAtom {f : MF} {s : State} (h : s.ok) : Out.ok (execAtom f s) :=
  State.ok.out (h.access (fun _ h1 => h1.waitBefore.ite (h1.translated (fun _ h2 => h2.waitBefore.ite h2.dropHeld.issueAtom.proceed))))

theorem State.ok.lineOp {s : State} {i : Instr} {f : MF} {k : State → List LineAcc → State} (h : s.ok) (hk : ∀ a0, a0.ok → ∀ a1, (k a0 a1).ok) :
    (s.lineOp i f k).ok :=
  h.access (fun _ h1 => h1.translated (fun _ h2 => (hk _ h2.dropHeld _).proceed))

theorem State.ok.prefLine {s : State} {a : LineAcc} (h : s.ok) : (s.prefLine a).ok := by
  unfold State.prefLine
  split
  · exact h.ite h.askLine.enterP
  · refine h.ite ?_
    split
    next e1 => exact h.makeRoom.snd e1
    next e1 => exact (h.makeRoom.snd e1).askLine.enterP

theorem State.ok.expireLine {s : State} {line : Nat} (h : s.ok) : (s.expireLine line).ok := by
  unfold State.expireLine
  split
  · exact h
  · exact (h.dropCopy.ite h.putCopy).ite (h.putCopy.ite h)

theorem State.ok.execPref {f : MF} {s : State} (h : s.ok) : Out.ok (execPref f s) :=
  State.ok.out (h.lineOp (fun _ h1 _ => h1.foldl (fun _ _ h2 => h2.prefLine)))

theorem State.ok.execRenew {f : MF} {s : State} (h : s.ok) : Out.ok (execRenew f s) :=
  State.ok.out (h.lineOp (fun _ h1 _ => h1.foldl (fun _ _ h2 => h2.expireLine.prefLine)))

theorem State.ok.execExpire {f : MF} {s : State} (h : s.ok) : Out.ok (execExpire f s) :=
  State.ok.out (h.lineOp (fun _ h1 _ => h1.foldl (fun _ _ h2 => h2.expireLine)))

theorem State.ok.execFlush {f : MF} {s : State} (h : s.ok) : Out.ok (execFlush f s) :=
  State.ok.out (h.waitBefore.ite (h.lineOp (fun _ h1 _ => State.ok.finishOps (State.ok.addOp (State.ok.foldlSnd h1.newId (fun _ _ h2 =>
      h2.copyBack))))))

/-! ### Local: Local addresses and the layout of a team's segment; LDL, STL, ATOML, SPILL and FILL -/

theorem State.ok.ownReady {s : State} {i : Instr} {as : List Nat} {w : Nat} {k : State → State} (h : s.ok) (hk : ∀ a0, a0.ok → (k a0).ok) :
    (s.ownReady i as w k).ok := by
  unfold State.ownReady
  split
  · exact hk _ h
  · exact h.holdBack

theorem State.ok.released {s : State} {rel : Bool} {sc : Scope} {k : State → State} (h : s.ok) (hk : ∀ a0, a0.ok → (k a0).ok) :
    (s.released rel sc k).ok :=
  (hk _ h).ite (State.ok.ite (hk _ (h.onGrp (fun _ h1 => h1))) (h.waitBefore.ite (State.ok.ite (hk _ (h.release.onGrp (fun _ h2 => h2)))
      h.release.waitBefore)))

theorem State.ok.localEnd {s : State} {f : MF} {bad : List (Nat × List Src × Trap)} {rows : List Nat} (h : s.ok) : (s.localEnd f bad rows).ok :=
  (h.acquire.ite h).proceed

theorem State.ok.localWrite {s : State} {a w : Nat} {x : BitVec 64} {p : Bool} (h : s.ok) : (s.localWrite a w x p).ok :=
  h.onCore (fun _ h1 => h1.setBytes)

theorem State.ok.execLdl {f : MF} {s : State} (h : s.ok) : Out.ok (execLdl f s) :=
  State.ok.out (h.access (fun _ h1 => h1.ownReady (fun _ h2 => h2.released (fun _ h3 => h3.writeLanes.localEnd))))

theorem State.ok.execStl {f : MF} {s : State} (h : s.ok) : Out.ok (execStl f s) :=
  State.ok.out (h.access (fun _ h1 => h1.ownReady (fun _ h2 => h2.released (fun _ h3 => State.ok.localEnd (h3.foldl (fun _ _ h4 =>
      h4.localWrite))))))

theorem State.ok.atomStep {s : State} {f : MF} {t : Ty} {a : Nat} {x c : BitVec 64} (h : s.ok) : (s.atomStep f t a x c).2.2.ok := h.localWrite

theorem State.ok.execAtoml {f : MF} {s : State} (h : s.ok) : Out.ok (execAtoml f s) :=
  State.ok.out (h.access (fun _ h1 => h1.ownReady (fun _ h2 => h2.released (fun _ h3 => State.ok.localEnd (State.ok.ite (State.ok.writeLanes
      (State.ok.raise (State.ok.foldlSndSnd h3 (fun _ _ h4 => h4.atomStep)))) (State.ok.raise (State.ok.foldlSndSnd h3 (fun _ _ h5 =>
      h5.atomStep))))))))

theorem State.ok.execSpill {f : MF} {s : State} (h : s.ok) : Out.ok (execSpill f s) :=
  State.ok.out (h.access (fun _ h1 => h1.trapActive.ite (State.ok.next (State.ok.onGrp (h1.foldl (fun _ _ h2 => h2.foldl (fun _ _ h3 => h3.onCore
      (fun _ h4 => h4.setBytes)))) (fun _ h5 => h5)))))

theorem State.ok.execFill {f : MF} {s : State} (h : s.ok) : Out.ok (execFill f s) :=
  State.ok.out (h.access (fun _ h1 => h1.trapActive.ite (State.ok.next (h1.writeLanes.onGrp (fun _ h2 => h2)))))

/-! ### Routes: Route entries, the cores they lead to, the checks of an entry, and sending on a route -/

theorem Core.ok.putRoute {c : Core} {r : RouteSlot} (hc : c.ok) : (c.putRoute r).ok := hc

/-! ### Peer: Peer accesses: LDP, STP and ATOMP, their arrival at the target store and their reply -/

theorem State.ok.issuePeer {s : State} {f : MF} {load : Bool} {good : List (LanePeer × Nat)} {rows : List Nat} {elems : Nat → List Elem} {ty : Ty}
    {kind : LanePeer → PeerKind} (h : s.ok) : (s.issuePeer f load good rows elems ty kind).ok := by
  unfold State.issuePeer
  split
  next id s1 e =>
    have hs1 : s1.ok := h.newId.snd e
    extract_lets _ reqs before s2 s3
    have hs2 : s2.ok := State.ok.addOp (State.ok.ite hs1 (hs1.onGrp (fun _ hg => hg.effect)))
    have hs3 : s3.ok := hs2.onGrp (fun _ hg => hg)
    exact State.ok.finishOps (State.ok.ite hs3.release hs3.follow)

theorem State.ok.peerAccess {s : State} {i : Instr} {f : MF} {load : Bool} {n w : Nat} {us : List Use} {rows : List Nat} {elems : Nat → List Elem} {ty :
    Ty} {kind : LanePeer → PeerKind} (h : s.ok) : (s.peerAccess i f load n w us rows elems ty kind).ok :=
  h.access (fun _ h1 => (by
        refine h1.waitBefore.ite ?_
        split
        · exact h1.waitBefore
        · exact h1.issuePeer.proceed))

theorem State.ok.execLdp {f : MF} {s : State} (h : s.ok) : Out.ok (execLdp f s) := h.peerAccess.out

theorem State.ok.execStp {f : MF} {s : State} (h : s.ok) : Out.ok (execStp f s) := h.peerAccess.out

theorem State.ok.execAtomp {f : MF} {s : State} (h : s.ok) : Out.ok (execAtomp f s) := h.peerAccess.out

theorem State.ok.peerPerform {s : State} {a : Nat} {k : PeerKind} (h : s.ok) : (s.peerPerform a k).2.ok := by
  unfold State.peerPerform
  split
  · exact h
  · exact h.foldl (fun _ _ h1 => h1.localWrite)
  · exact h.localWrite

theorem State.ok.peerArrive {s : State} {m : PeerReq} (h : s.ok) : (s.peerArrive m).ok := by
  unfold State.peerArrive
  dsimp only
  split
  · refine State.ok.send ?_
    split
    · exact h.focusCore.focusTeam.peerPerform.raiseNow
    · exact h.focusCore.focusTeam.peerPerform
  · exact h.focusCore.send
  · exact h.focusCore.send

theorem State.ok.execPeerAccessArrive {m : PeerReq} {s : State} (h : s.ok) : Out.ok (execPeerAccessArrive m s) := by
  unfold Machine.execPeerAccessArrive
  refine State.ok.out ?_
  split
  · exact h.onTime (fun _ h1 => h1.peerArrive)
  · exact h.peerArrive

theorem State.ok.lateTrap {s : State} {o : MemOp} {l : Nat} {t : Trap} (h : s.ok) : (s.lateTrap o l t).ok :=
  State.ok.touch (h.onGrp (fun _ h1 => h1.setLane))

theorem State.ok.execPeerAccessReply {m : PeerAns} {s : State} (h : s.ok) : Out.ok (execPeerAccessReply m s) :=
  State.ok.out (State.ok.pump (h.focusCore.atGroup (fun _ h1 => (by
          split
          · exact h1
          · exact h1.onOp.ite (h1.onOp.ite (h1.later.ite h1.onOp.lateTrap))))))

/-! ### Barrier: Barrier objects: their layout, the shared steps on them, BARINIT to BARTX, and the messages between objects -/

theorem State.ok.putBar {s : State} {a : Nat} {o : BarObj} (h : s.ok) : (s.putBar a o).ok := h.onCore (fun _ h1 => h1.setBytes)

theorem State.ok.eachOf {s : State} {p : Group → Bool} {f : State → State} (h : s.ok) (hf : ∀ a0, a0.ok → (f a0).ok) : (s.eachOf p f).ok :=
  h.foldl (fun _ _ h1 => h1.atGroup hf)

theorem State.ok.breakBar {s : State} {a : Nat} (h : s.ok) : (s.breakBar a).ok :=
  State.ok.eachOf (State.ok.foldl ⟨h.wf, h.core, h.team, h.grp, h.cores, h.contexts⟩ (fun _ _ h1 => h1.send)) (fun _ h2 => h2.trapWaiters)

theorem State.ok.wakeBar {s : State} {a : Nat} (h : s.ok) : (s.wakeBar a).ok :=
  State.ok.eachOf (State.ok.foldl ⟨h.wf, h.core, h.team, h.grp, h.cores, h.contexts⟩ (fun _ _ h1 => h1.send)) (fun _ h2 => h2.acquire.wake)

theorem State.ok.leaveUp {s : State} {a : Nat} {was now : BarObj} (h : s.ok) : (s.leaveUp a was now).ok := h.sendRoute.ite h

theorem State.ok.withTeam {s : State} {t : Team} (h : s.ok) (ht : t.ok) : ({ s with team := t } : State).ok :=
  ⟨h.wf, h.core, ht, h.grp, h.cores, h.contexts⟩

theorem State.ok.completeBar {s : State} {a : Nat} (h : s.ok) : (s.completeBar a).ok := by
  unfold State.completeBar
  extract_lets was live o replies s1 t s2 s3
  have hs1 : s1.ok := h.putBar
  have ht : Team.ok { s1.team with pendingUp := s1.team.pendingUp.filter (·.addr != a), arrivals := s1.team.arrivals.filter (·.addr != a) } :=
    hs1.team
  have hs2 : s2.ok := hs1.withTeam ht
  have hs3 : s3.ok := hs2.foldl (fun _ _ h1 => h1.send)
  exact State.ok.leaveUp (State.ok.ite hs3.breakBar hs3.wakeBar)

theorem State.ok.checkBar {s : State} {a : Nat} (h : s.ok) : (s.checkBar a).ok :=
  h.ite (((h.ite (h.putBar.ite h.putBar.sendRoute)).ite h.completeBar).ite (h.putBar.breakBar.ite h))

theorem State.ok.stepBar {s : State} {a : Nat} {f : BarObj → BarObj} (h : s.ok) : (s.stepBar a f).ok := h.putBar.checkBar.leaveUp

theorem State.ok.arriveBar {s : State} {a : Nat} {g : Option Nat} {drop : Bool} {who : Arrival} {up : Option ArriveMsg} (h : s.ok) :
    (s.arriveBar a g drop who up).2.ok := by
  unfold State.arriveBar
  dsimp only
  split
  · exact State.ok.stepBar ⟨h.wf, h.core, h.team, h.grp, h.cores, h.contexts⟩
  · exact h

theorem State.ok.groupLeaves {s : State} {g : Nat} (h : s.ok) : (s.groupLeaves g).ok := h.foldl (fun _ _ h1 => h1.stepBar.ite h1)

theorem State.ok.countOff {s : State} {a n status : Nat} (h : s.ok) : (s.countOff a n status).ok := h.stepBar

theorem State.ok.atObject {α : Type} {s : State} {f : XF} {k : State → α × State} (h : s.ok) (hk : ∀ a0, a0.ok → (k a0).2.ok) :
    OptOk (fun p => p.2.ok) (s.atObject f k) := by
  unfold State.atObject
  refine OptOk.ite (hk _ h) ?_
  dsimp only
  split
  · exact trivial
  · exact (hk _ h.focusCore.focusTeam).focusCore.focusGroup

theorem State.ok.barOp {s : State} {i : Instr} {f : XF} {body : State → List (BitVec 64) → State} (h : s.ok) (hbody : ∀ a0, a0.ok → ∀ a1, (body a0
    a1).ok) : (s.barOp i f body).ok :=
  h.access (fun _ h1 => h1.trapActive.ite (h1.trapActive.ite (hbody _ h1 _)))

theorem State.ok.execBarinit {f : XF} {s : State} (h : s.ok) : Out.ok (execBarinit f s) :=
  State.ok.out (h.barOp (fun _ h1 _ => h1.trapActive.ite (State.ok.next (State.ok.stepBar ⟨h1.wf, h1.core, h1.team, h1.grp, h1.cores,
      h1.contexts⟩))))

theorem Team.ok.noteObject {t : Team} {c : CoreId} {route a : Nat} {drops : Nat → Nat} (ht : t.ok) : (t.noteObject c route a drops).ok := ht

theorem State.ok.noteObject {s : State} {c : CoreId} {route a : Nat} {drop : Bool} (h : s.ok) : (s.noteObject c route a drop).ok :=
  ⟨h.wf, h.core, h.team.noteObject, h.grp, h.cores, h.contexts⟩

theorem State.ok.bararvHere {s : State} {f : XF} (h : s.ok) : (s.bararvHere f).ok := by
  unfold State.bararvHere
  extract_lets a drop g tid
  split
  · exact h.trapActive
  next o _ =>
    split
    · exact h.trapActive
    · refine h.released (fun t ht => ?_)
      have hat : OptOk (fun p => p.2.ok) (t.atObject f fun s => s.arriveBar a g drop ⟨a, tid, none⟩ none) :=
        ht.atObject (fun _ h1 => h1.arriveBar)
      split
      · exact ht.trapActive
      next e => exact State.ok.next (State.ok.ite (State.ok.noteObject (hat.get e)) (hat.get e))
      next e => exact State.ok.trapActive (hat.get e)

theorem State.ok.bararvRemote {s : State} {f : XF} (h : s.ok) : (s.bararvRemote f).ok := by
  unfold State.bararvRemote
  dsimp only
  split
  · exact h.trapActive
  · exact h.released (fun _ h1 => State.ok.next (State.ok.sendRoute (State.ok.noteObject (h1.newId.onGrp (fun _ h2 => h2.effect)))))

theorem State.ok.execBararv {f : XF} {s : State} (h : s.ok) : Out.ok (execBararv f s) :=
  State.ok.out (h.barOp (fun _ h1 _ => h1.bararvRemote.ite h1.bararvHere))

theorem State.ok.execBartx {f : XF} {s : State} (h : s.ok) : Out.ok (execBartx f s) := State.ok.out (h.barOp (fun _ h1 _ => h1.stepBar.next))

theorem State.ok.execBartest {f : XF} {s : State} (h : s.ok) : Out.ok (execBartest f s) :=
  State.ok.out (h.barOp (fun _ h1 _ => (by
        split
        · exact h1.trapActive
        · exact h1.trapActive.ite (State.ok.next ((h1.acquire.ite h1).onGrp (fun _ h2 => h2))))))

theorem State.ok.execBarwait {f : XF} {s : State} (h : s.ok) : Out.ok (execBarwait f s) := by
  unfold Machine.execBarwait
  refine State.ok.out (h.barOp (fun t h1 _ => ?_))
  extract_lets a par n w
  refine State.ok.ite ?_ ?_
  · split
    · exact h1.trapActive
    · exact h1.sendRoute.waitFor
  · split
    · exact h1.trapActive
    · refine State.ok.ite h1.trapActive (State.ok.ite h1.acquire.next (State.ok.ite ?_ h1.waitFor))
      have hat : OptOk (fun p => p.2.ok)
          (t.atObject f fun s => ((), { s with team := { s.team with barWaiters := s.team.barWaiters ++ [w] } })) :=
        h1.atObject (fun _ h2 => ⟨h2.wf, h2.core, h2.team, h2.grp, h2.cores, h2.contexts⟩)
      split
      next e => exact State.ok.waitFor (hat.get e)
      · exact h1.trapActive

theorem State.ok.execArrive {m : ArriveMsg} {s : State} (h : s.ok) : Out.ok (execArrive m s) := by
  unfold Machine.execArrive
  extract_lets s1
  have hs1 : s1.ok := h.focusCore
  refine State.ok.out ?_
  split
  · exact hs1.later
  · exact hs1.send
  · extract_lets s3 _ old1
    have hs3 : s3.ok := hs1.focusTeam
    have hold1 : old1.ok := hs3.team
    refine hs3.send.ite ?_
    split
    · exact hs3.send.ite (hs3.send.ite ⟨hs3.wf, hs3.core, hold1, hs3.grp, hs3.cores, hs3.contexts⟩)
    · split
      next e2 => exact hs3.arriveBar.snd e2
      next e2 => exact (hs3.arriveBar.snd e2).send
    · extract_lets r2
      have hr2 : r2.2.ok := hs3.arriveBar
      exact hr2.send

theorem State.ok.followTeam {s : State} {t : TeamId} {dst : CoreId} {again : CoreId → Instr} (h : s.ok) :
    OptOk State.ok (s.followTeam t dst again) :=
  OptOk.ite trivial (OptOk.ite h.later (OptOk.map (OptOk.find h.allTeams) (fun _ _ => h.send)))

theorem State.ok.dropFailed {s : State} {m : ArriveAns} (h : s.ok) : (s.dropFailed m).ok := by
  unfold State.dropFailed
  split
  · exact h
  · refine State.ok.ite ?_ h.sendRoute
    extract_lets _ s1
    have hs1 : s1.ok := h.focusTeam
    exact State.ok.focusTeam ⟨hs1.wf, hs1.core, hs1.team.noteObject, hs1.grp, hs1.cores, hs1.contexts⟩

theorem State.ok.execArriveReply {m : ArriveAns} {s : State} (h : s.ok) : Out.ok (execArriveReply m s) := by
  unfold Machine.execArriveReply
  refine State.ok.out ?_
  split
  next e => exact h.focusCore.followTeam.get e
  · exact (h.focusCore.focusTeam.ite ((h.focusCore.focusTeam.completeBar.ite h.focusCore.focusTeam).ite h.focusCore.focusTeam.putBar.breakBar)).ite
      (h.focusCore.dropFailed.atGroup (fun _ h1 => (by
            split
            · exact h1
            · exact h1.later.ite (State.ok.ite (h1.onGrp (fun _ h2 => h2)) (State.ok.foldl (h1.onGrp (fun _ h3 => h3)) (fun _ _ h4 =>
                h4.lateTrap))))))

theorem State.ok.execBarwaitReply {m : ArriveAns} {s : State} (h : s.ok) : Out.ok (execBarwaitReply m s) := by
  unfold Machine.execBarwaitReply
  refine State.ok.out ?_
  split
  next e => exact h.followTeam.get e
  · exact h.focusCore.atGroup (fun _ h1 => h1.ite (h1.acquire.wake.ite h1.trapWaiters))

theorem State.ok.execLeave {m : LeaveMsg} {s : State} (h : s.ok) : Out.ok (execLeave m s) := by
  unfold Machine.execLeave
  refine State.ok.out ?_
  split
  · exact h.focusCore.later
  · exact h.focusCore
  · exact h.focusCore.focusTeam.ite h.focusCore.focusTeam.stepBar

/-! ### Regs: The register blocks of a die as they read, and the rights of the access tables -/

theorem State.ok.refuse {s : State} {d : Nat} (h : s.ok) : (s.refuse d).ok := h.onDie

theorem State.ok.onPort {s : State} {p : Nat} {f : Port → Port} (h : s.ok) : (s.onPort p f).ok := h

/-! ### Home: Homes: the Bureau's side of timestamp coherence, holders and recalls, unit commits, remote-data caches and replicas, Bench, and the
events of messages that reach a home -/

theorem State.ok.onSlice {s : State} {line : Nat} {f : Slice → Slice} (h : s.ok) : (s.onSlice line f).ok := h

theorem State.ok.putHome {s : State} {h : Home} (hs : s.ok) : (s.putHome h).ok := hs

theorem State.ok.wayFreed {s : State} {line : Nat} (h : s.ok) : (s.wayFreed line).ok := h.onSlice.requeue

theorem State.ok.evictHome {s : State} {h : Home} (hs : s.ok) : (s.evictHome h).ok := State.ok.onSlice hs

theorem State.ok.recall {s : State} {h : Home} {sc : Scope} (hs : s.ok) : (s.recall h sc).ok := by
  unfold State.recall
  split
  · exact hs.putHome.send
  · exact hs

theorem State.ok.fillHome {s : State} {line : Nat} (h : s.ok) : (s.fillHome line).2.ok := by
  unfold State.fillHome
  split
  · exact h.putHome
  · refine State.ok.iteSnd h.putHome ?_
    split
    · exact h.evictHome.putHome
    · split
      · exact h.recall
      · exact h

theorem State.ok.askWay {s : State} {line : Nat} (h : s.ok) : (s.askWay line).ok := h.fillHome.ite h

theorem State.ok.useLines {s : State} {lines : List Nat} (h : s.ok) : (s.useLines lines).ok := h.foldl (fun _ _ h1 => h1.fillHome)

theorem State.ok.atHome {s : State} {line : Nat} {m : Instr} {now : Stamp} {holds : Bool} {k : Home → State → State} (h : s.ok) (hk : ∀ a0, ∀ a1,
    a1.ok → (k a0 a1).ok) : (s.atHome line m now holds k).ok :=
  h.onTime (fun _ h1 => (by
        refine h1.onDie.ite ?_
        refine h1.onSlice.ite ?_
        split
        next e => exact (h1.fillHome.snd e).onSlice
        next e => exact (h1.fillHome.snd e).putHome.ite (hk _ _ (h1.fillHome.snd e))))

theorem State.ok.releaseHeld {s : State} {h : Home} (hs : s.ok) : (s.releaseHeld h).ok := hs.putHome.requeue.wayFreed

theorem State.ok.setSector {s : State} {sector : Nat} {p : Bool} (h : s.ok) : (s.setSector sector p).ok := h

theorem State.ok.mergeLine {s : State} {line : Nat} {mask : BitVec 128} {bytes : BitVec 1024} {poison : BitVec 32} (h : s.ok) :
    (s.mergeLine line mask bytes poison).ok := by
  have hw : Memory.wf s.unlisted (writeMasked s.unlisted s.mem line mask bytes) = true := wf_writeMasked h.1
  have hm : ({ s with mem := writeMasked s.unlisted s.mem line mask bytes } : State).ok :=
    ⟨hw, h.core, h.team, h.grp, h.cores, h.contexts⟩
  unfold State.mergeLine
  refine hm.foldl (fun _ _ h1 => ?_)
  extract_lets
  exact State.ok.ite h1.setSector (State.ok.ite h1.setSector h1)

theorem State.ok.notify {s : State} {line : Nat} {wts : Stamp} (h : s.ok) : (s.notify line wts).ok := h.foldl (fun _ _ h1 => h1.send.ite h1)

theorem State.ok.stamp {s : State} {h : Home} {w : Nat} (hs : s.ok) : (s.stamp h w).ok := (hs.putHome.ite hs.onSlice).noteTick.notify

theorem State.ok.stallOr {s : State} {line n : Nat} {m : Instr} {k : State → State} (h : s.ok) (hk : ∀ a0, a0.ok → (k a0).ok) :
    (s.stallOr line n m k).ok :=
  h.onDie.requestRebase.ite (hk _ h)

theorem State.ok.dropRdc {s : State} {who : Who} {line : Nat} (h : s.ok) : (s.dropRdc who line).ok := by
  unfold State.dropRdc
  split
  · exact h.ite h.onDie
  · exact h

theorem State.ok.putRdc {s : State} {d : Nat} {x : RdcLine} (h : s.ok) : (s.putRdc d x).ok := by
  unfold State.putRdc
  dsimp only
  exact h.onDie.ite h.drawNat.onDie

theorem State.ok.rdcRequest {s : State} {m : LineReq} {renew : Bool} (h : s.ok) : (s.rdcRequest m renew).ok := by
  unfold State.rdcRequest
  dsimp only
  split
  · exact h.requeue.ite h.send
  · exact h.send

theorem State.ok.replicaFill {s : State} {m : LineReq} (h : s.ok) : (s.replicaFill m).2.ok := by
  unfold State.replicaFill
  split
  · exact h
  · dsimp only
    split <;> exact State.ok.iteSnd h h.onDie

theorem State.ok.serve {s : State} {m : LineReq} {renew : Bool} {h : Home} {msg : Instr} (hs : s.ok) : (s.serve m renew h msg).ok :=
  hs.recall.ite (hs.stallOr (fun _ h1 => h1.putHome.noteTick.replicaFill.send.ite h1.putHome.noteTick.replicaFill.send))

theorem State.ok.serveRegs {s : State} {m : LineReq} {d off : Nat} (h : s.ok) : (s.serveRegs m d off).ok := (h.ite h.refuse).send

theorem State.ok.execRead {m : LineReq} {s : State} (h : s.ok) : Out.ok (execRead m s) := by
  unfold Machine.execRead
  refine State.ok.out ?_
  split
  · exact h.serveRegs
  · exact h.rdcRequest.ite (h.atHome (fun _ _ h1 => h1.serve))

theorem State.ok.execRenewq {m : LineReq} {s : State} (h : s.ok) : Out.ok (execRenewq m s) :=
  State.ok.out (h.rdcRequest.ite (h.atHome (fun _ _ h1 => h1.serve)))

theorem State.ok.execCpbk {m : CpbkMsg} {s : State} (h : s.ok) : Out.ok (execCpbk m s) :=
  State.ok.out (h.dropRdc.atHome (fun _ _ h1 => h1.stallOr (fun _ h2 => h2.mergeLine.stamp.send)))

theorem State.ok.registers {s : State} {h : Home} {c : CoreId} {msg : Instr} {k : Home → State → State} (hs : s.ok) (hk : ∀ a0, ∀ a1, a1.ok → (k a0
    a1).ok) : (s.registers h c msg k).ok := by
  unfold State.registers
  split
  · exact (hk _ _ hs).ite hs.recall
  · exact hk _ _ hs

theorem State.ok.atomAt {s : State} {m : AtomMsg} {h : Home} (hs : s.ok) : (s.atomAt m h).ok := hs.stallOr (fun _ h1 => h1.writeNat.stamp.send)

theorem State.ok.execAtomq {m : AtomMsg} {s : State} (h : s.ok) : Out.ok (execAtomq m s) :=
  State.ok.out (h.dropRdc.atHome (fun _ _ h1 => (by
        split
        · exact h1.recall.ite (State.ok.ite (h1.registers (fun _ _ h2 => h2.atomAt)) h1.atomAt)
        · exact h1.atomAt)))

theorem State.ok.execHold {m : HoldMsg} {s : State} (h : s.ok) : Out.ok (execHold m s) :=
  State.ok.out (h.atHome (fun _ _ h1 => h1.registers (fun _ _ h2 => h2.putHome.send)))

theorem State.ok.execUnhold {m : HoldMsg} {s : State} (h : s.ok) : Out.ok (execUnhold m s) := by
  unfold Machine.execUnhold
  refine State.ok.out ?_
  split
  · exact h.putHome.wayFreed.ite h
  · exact h

theorem State.ok.execYield {m : YieldMsg} {s : State} (h : s.ok) : Out.ok (execYield m s) :=
  State.ok.out (h.atHome (fun _ _ h1 => h1.releaseHeld.ite (h1.stallOr (fun _ h2 => h2.mergeLine.stamp.releaseHeld))))

theorem State.ok.execPrep {m : UnitMsg} {s : State} (h : s.ok) : Out.ok (execPrep m s) :=
  State.ok.out (h.atHome (fun _ _ h1 => h1.putHome.send))

theorem State.ok.execCommit {m : CommitMsg} {s : State} (h : s.ok) : Out.ok (execCommit m s) :=
  State.ok.out (h.atHome (fun _ _ h1 => h1.stallOr (fun _ h2 => h2.mergeLine.stamp.send.releaseHeld)))

theorem State.ok.benchApply {s : State} {m : Contribution} (h : s.ok) : (s.benchApply m).ok := by
  unfold State.benchApply
  split
  next e => exact h.fillHome.snd e
  next e => exact ((h.fillHome.snd e).writeNat.setSector.ite (h.fillHome.snd e).writeNat).stamp.send

theorem State.ok.benchRun {s : State} {l ranks n : Nat} {b : BenchElem} (h : s.ok) : (s.benchRun l ranks n b).2.ok := by
  induction n generalizing s b with
  | zero => exact h
  | succ n ih =>
    unfold State.benchRun
    split
    · exact h
    · exact ih h.benchApply

theorem State.ok.execBenchContribution {m : Contribution} {s : State} (h : s.ok) : Out.ok (execBenchContribution m s) :=
  State.ok.out (h.dropRdc.atHome (fun _ _ h1 => (by
        dsimp only
        split
        · exact h1.registers (fun _ _ h2 => (by
                split
                · exact h2.putHome.send
                · exact h2.putHome.send.ite (h2.putHome.stallOr (fun _ h3 => (by
                          split
                          · exact State.ok.ite (State.ok.putHome (State.ok.send h3.benchRun)) (State.ok.wayFreed (State.ok.putHome (State.ok.send
                              h3.benchRun)))
                          · exact State.ok.send h3.benchRun)))))
        · split
          · exact h1.putHome.send
          · exact h1.putHome.send.ite (h1.putHome.stallOr (fun _ h2 => (by
                    split
                    · exact State.ok.ite (State.ok.putHome (State.ok.send h2.benchRun)) (State.ok.wayFreed (State.ok.putHome (State.ok.send
                        h2.benchRun)))
                    · exact State.ok.send h2.benchRun))))))

theorem State.ok.execRetryResend {m : Resend} {s : State} (h : s.ok) : Out.ok (execRetryResend m s) := h.send.out

theorem State.ok.execRetry {m : Resend} {s : State} (h : s.ok) : Out.ok (execRetry m s) := State.ok.out h

/-! ### Time: Clock regions and the forwarding tree as instructions read them: `%gtc`, `%clk`, `%clkstat`, `%skewcls` -/

theorem State.ok.onRegion {s : State} {d : Nat} {east : Bool} {f : Region → Region} (h : s.ok) : (s.onRegion d east f).ok := h.onDie

end Sys2Proof.Machine

end

section
/-! SUPPORT. What every step keeps, for special registers, tiles, engines, matrix engines, semaphores and replies. -/

namespace Sys2Proof.Machine

/-! ### Special: The special registers: MOVSP and SETSP -/

theorem State.ok.mapgenOrder {s : State} (h : s.ok) : s.mapgenOrder.ok := h.useLines.setNow.raiseHorizon.raiseNow.acquire

theorem State.ok.execMovsp {f : SF} {s : State} (h : s.ok) : Out.ok (execMovsp f s) :=
  State.ok.out (h.frame (fun _ h1 => h1.next.ite (h1.waitBefore.ite (h1.askWay.waitBefore.ite (h1.waitRebase.ite (State.ok.next (State.ok.ite (by
                    refine State.ok.mapgenOrder ?_
                    split
                    · exact h1.writeVals
                    · exact h1.writeS) (by
                    split
                    · exact h1.writeVals
                    · exact h1.writeS))))))))

theorem Group.ok.setSpecial {g : Group} {n : Nat} {v : Word} (hg : g.ok) : (g.setSpecial n v).ok := by
  unfold Group.setSpecial
  split
  · exact hg
  · exact hg.setFpctl
  · exact hg
  · exact hg
  · exact hg

theorem State.ok.execSetsp {f : SF} {s : State} (h : s.ok) : Out.ok (execSetsp f s) :=
  State.ok.out (h.frame (fun _ h1 => h1.next.ite (State.ok.ite (State.ok.retire (State.ok.foldl (h1.onGrp (fun _ h2 => h2.step.mapLanes)) (fun _ _
      h3 => h3.trapLane))) (h1.trapActive.ite (State.ok.next (h1.onGrp (fun _ h4 => h4.setSpecial)))))))

/-! ### Tile: The Shelf: tile entries and their states, TILEDEF, TILEQ and TILEREL -/

theorem State.ok.wakeControl {s : State} (h : s.ok) : s.wakeControl.ok := by
  unfold State.wakeControl
  split
  · exact h.atCore (fun _ h1 => h1.eachGroup (fun _ h2 => h2.poll))
  · exact h

theorem State.ok.moveTile {s : State} {n st : Nat} (h : s.ok) : (s.moveTile n st).ok := by
  unfold State.moveTile
  split
  · exact State.ok.wakeControl (h.putTile.eachGroup (fun _ h1 => h1.poll))
  · exact h

theorem State.ok.execTiledef {f : XF} {s : State} (h : s.ok) : Out.ok (execTiledef f s) :=
  State.ok.out (h.once (fun _ h1 _ => (by
        dsimp only
        split
        · exact h1.trapActive
        · exact h1.putTile.next)))

theorem State.ok.execTileq {f : XF} {s : State} (h : s.ok) : Out.ok (execTileq f s) := State.ok.out (h.once (fun _ h1 _ => h1.writeS.next))

theorem State.ok.execTilerel {f : XF} {s : State} (h : s.ok) : Out.ok (execTilerel f s) :=
  State.ok.out (h.once (fun _ h1 _ => (by
        dsimp only
        split
        · exact h1.trapActive
        · split
          · exact h1.next
          · exact h1.waitBefore.ite h1.moveTile.next
          · exact h1.waitBefore)))

/-! ### Engine: The bulk copy engine: shape records, boxes, the transfer and the completion of an engine operation -/

theorem State.ok.setLocalBits {s : State} {l w : Nat} {x : BitVec 64} {p : Bool} (h : s.ok) : (s.setLocalBits l w x p).ok :=
  h.onCore (fun _ h1 => h1.setBytes)

theorem State.ok.homeFor {s : State} {line : Nat} (h : s.ok) : (s.homeFor line).2.ok := by
  unfold State.homeFor
  split
  next e => exact h.fillHome.snd e
  next e => exact h.fillHome.snd e

theorem State.ok.engWrite {s : State} {who : Who} {now : Stamp} {p : StorePart} (h : s.ok) : (s.engWrite who now p).2.ok :=
  h.dropRdc.homeFor.mergeLine.stamp

theorem State.ok.engAtomic {s : State} {who : Who} {now : Stamp} {wide : Bool} {pa : Nat} {new : BitVec 64 → BitVec 64} {bad : Bool} (h : s.ok) :
    (s.engAtomic who now wide pa new bad).2.ok :=
  (h.dropRdc.homeFor.writeNat.setSector.ite h.dropRdc.homeFor.writeNat).stamp

theorem State.ok.onEng {s : State} {id : Nat} {f : EngOp → EngOp} (h : s.ok) : (s.onEng id f).ok := h.onCore (fun _ h1 => h1)

theorem State.ok.retryEng {s : State} {id : Nat} (h : s.ok) : (s.retryEng id).ok := h.later

theorem State.ok.wakeEng {s : State} {id : Nat} (h : s.ok) : (s.wakeEng id).ok := h.send

theorem State.ok.focusOp {s : State} {o : EngOp} (h : s.ok) : (s.focusOp o).ok := by
  unfold State.focusOp
  split
  · exact h.focusGroup
  · exact h.focusTeam

theorem State.ok.askSys {s : State} {o : EngOp} {lines : List Nat} (h : s.ok) : (s.askSys o lines).ok :=
  h.foldl (fun _ _ h1 => h1.newId.onEng.sendUp)

theorem State.ok.toBlock {s : State} {w : RegStore} (h : s.ok) : (s.toBlock w).ok := h

theorem State.ok.regWriteAll {s : State} {o : EngOp} {ws : List EngWrite} (h : s.ok) : (s.regWriteAll o ws).2.ok :=
  State.ok.foldlSnd h (fun _ _ h1 => (by
        dsimp only
        split
        · exact h1
        · exact h1.newId.toBlock))

theorem State.ok.engWriteAll {s : State} {o : EngOp} {ws : List EngWrite} (h : s.ok) : (s.engWriteAll o ws).2.ok := by
  unfold State.engWriteAll
  extract_lets
  exact State.ok.foldlSnd h.regWriteAll (fun _ _ h1 => (by
        extract_lets r1
        have hr1 : r1.2.ok := h1.engWrite
        exact hr1))

theorem State.ok.sysWriteAll {s : State} {o : EngOp} {ws : List EngWrite} (h : s.ok) : (s.sysWriteAll o ws).2.ok :=
  State.ok.foldlSnd h (fun _ _ h1 => h1.newId.sendUp)

theorem State.ok.drawPart {s : State} {left : List Nat} (h : s.ok) : (s.drawPart left).2.ok := by
  unfold State.drawPart
  split
  · exact h
  · exact State.ok.drawNat (n := left.length) (State.ok.drawNat (n := left.length) h)

theorem State.ok.renewUnit {s : State} {x y : Nat} (h : s.ok) : (s.renewUnit x y).ok := by
  unfold State.renewUnit
  split
  · exact (h.putHome.ite h).putHome.ite (h.putHome.ite h)
  · exact h

theorem State.ok.renewUnits {s : State} {o : EngOp} {ps : List Piece} (h : s.ok) : (s.renewUnits o ps).ok :=
  h.foldl (fun _ _ h1 => (by
        split
        · exact h1.renewUnit
        · exact h1))

theorem State.ok.prepUnit {s : State} {o : EngOp} {u : UnitWrite} (h : s.ok) : (s.prepUnit o u).ok := h.send

theorem State.ok.combineAll {s : State} {o : EngOp} {sub : Nat} {ws : List EngWrite} (h : s.ok) : (s.combineAll o sub ws).2.ok :=
  State.ok.foldlSnd h (fun _ _ h1 => h1.engAtomic)

theorem State.ok.contributeAll {s : State} {o : EngOp} {ws : List EngWrite} (h : s.ok) : (s.contributeAll o ws).2.ok :=
  State.ok.foldlSnd h (fun _ _ h1 => h1.newId.contribute)

theorem State.ok.peerWords {s : State} {o : EngOp} {part : List Nat} (h : s.ok) : (s.peerWords o part).2.ok :=
  h.foldl (fun _ _ h1 => h1.sendRoute)

theorem State.ok.landWord {s : State} {vs : List (Piece × BitVec 64 × Bool)} (h : s.ok) : (s.landWord vs).ok :=
  h.setLocalBits.ite (h.foldl (fun _ _ h1 => h1.setLocalBits))

theorem State.ok.landAll {s : State} {o : EngOp} {vs : List Moved} (h : s.ok) : (s.landAll o vs).ok := h.foldl (fun _ _ h1 => h1.landWord)

theorem State.ok.moveItems {s : State} {o : EngOp} {ps : List Piece} (h : s.ok) : (s.moveItems o ps).2.ok := by
  unfold State.moveItems
  extract_lets _ s1 _ s2 s3 _ _ _ _ _ _ _ old1 x
  have hs1 : s1.ok := h.renewUnits.ite h
  have hs2 : s2.ok := hs1.foldl (fun _ _ h1 => h1.refuse)
  have hs3 : s3.ok := State.ok.ite hs2 hs2
  have hold1 : old1.2.ok := hs3.engWriteAll
  have hx : x.2.ok := hold1.sysWriteAll
  refine State.ok.iteSnd hs3.landAll ?_
  split
  · exact State.ok.iteSnd hs3.contributeAll hs3.combineAll
  · split
    · exact hx.prepUnit
    · exact hx

theorem State.ok.moveBound {s : State} {o : EngOp} (h : s.ok) : (s.moveBound o).ok := by
  unfold State.moveBound
  split
  · exact h
  · split
    · exact h
    · exact h.putTile

theorem State.ok.nextPacket {s : State} {route : Nat} (h : s.ok) : (s.nextPacket route).ok := by
  unfold State.nextPacket
  split
  · exact h
  · exact h.onEng.sendRoute

theorem State.ok.reportDrain {s : State} {o : EngOp} (h : s.ok) : (s.reportDrain o).ok := by
  unfold State.reportDrain
  split
  · exact h
  · exact h.atCore (fun _ h1 => State.ok.eachGroup (h1.onCore (fun _ h2 => h2)) (fun _ h3 => h3.poll))

theorem State.ok.closeEng {s : State} {o : EngOp} (h : s.ok) : (s.closeEng o).ok :=
  State.ok.wakeControl (State.ok.pump (State.ok.reportDrain (State.ok.ite (State.ok.nextPacket (State.ok.ite (State.ok.send (State.ok.ite (by
                    split
                    · refine State.ok.countOff ?_
                      refine State.ok.moveBound ?_
                      split
                      · exact State.ok.atGroup (State.ok.dropWalks (h.onCore (fun _ h1 => h1))) (fun _ h2 => h2.onGrp (fun _ h3 => h3))
                      · exact State.ok.dropWalks (h.onCore (fun _ h1 => h1))
                    · refine State.ok.moveBound ?_
                      split
                      · exact State.ok.atGroup (State.ok.dropWalks (h.onCore (fun _ h1 => h1))) (fun _ h2 => h2.onGrp (fun _ h3 => h3))
                      · exact State.ok.dropWalks (h.onCore (fun _ h1 => h1))) (by
                    split
                    · exact State.ok.atGroup (State.ok.dropWalks (h.onCore (fun _ h1 => h1))) (fun _ h2 => h2.onGrp (fun _ h3 => h3))
                    · exact State.ok.dropWalks (h.onCore (fun _ h1 => h1))))) (State.ok.ite (by
                  split
                  · refine State.ok.countOff ?_
                    refine State.ok.moveBound ?_
                    split
                    · exact State.ok.atGroup (State.ok.dropWalks (h.onCore (fun _ h1 => h1))) (fun _ h2 => h2.onGrp (fun _ h3 => h3))
                    · exact State.ok.dropWalks (h.onCore (fun _ h1 => h1))
                  · refine State.ok.moveBound ?_
                    split
                    · exact State.ok.atGroup (State.ok.dropWalks (h.onCore (fun _ h1 => h1))) (fun _ h2 => h2.onGrp (fun _ h3 => h3))
                    · exact State.ok.dropWalks (h.onCore (fun _ h1 => h1))) (by
                  split
                  · exact State.ok.atGroup (State.ok.dropWalks (h.onCore (fun _ h1 => h1))) (fun _ h2 => h2.onGrp (fun _ h3 => h3))
                  · exact State.ok.dropWalks (h.onCore (fun _ h1 => h1)))))) (State.ok.ite (State.ok.send (State.ok.ite (by
                  split
                  · refine State.ok.countOff ?_
                    refine State.ok.moveBound ?_
                    split
                    · exact State.ok.atGroup (State.ok.dropWalks (h.onCore (fun _ h1 => h1))) (fun _ h2 => h2.onGrp (fun _ h3 => h3))
                    · exact State.ok.dropWalks (h.onCore (fun _ h1 => h1))
                  · refine State.ok.moveBound ?_
                    split
                    · exact State.ok.atGroup (State.ok.dropWalks (h.onCore (fun _ h1 => h1))) (fun _ h2 => h2.onGrp (fun _ h3 => h3))
                    · exact State.ok.dropWalks (h.onCore (fun _ h1 => h1))) (by
                  split
                  · exact State.ok.atGroup (State.ok.dropWalks (h.onCore (fun _ h1 => h1))) (fun _ h2 => h2.onGrp (fun _ h3 => h3))
                  · exact State.ok.dropWalks (h.onCore (fun _ h1 => h1))))) (State.ok.ite (by
                split
                · refine State.ok.countOff ?_
                  refine State.ok.moveBound ?_
                  split
                  · exact State.ok.atGroup (State.ok.dropWalks (h.onCore (fun _ h1 => h1))) (fun _ h2 => h2.onGrp (fun _ h3 => h3))
                  · exact State.ok.dropWalks (h.onCore (fun _ h1 => h1))
                · refine State.ok.moveBound ?_
                  split
                  · exact State.ok.atGroup (State.ok.dropWalks (h.onCore (fun _ h1 => h1))) (fun _ h2 => h2.onGrp (fun _ h3 => h3))
                  · exact State.ok.dropWalks (h.onCore (fun _ h1 => h1))) (by
                split
                · exact State.ok.atGroup (State.ok.dropWalks (h.onCore (fun _ h1 => h1))) (fun _ h2 => h2.onGrp (fun _ h3 => h3))
                · exact State.ok.dropWalks (h.onCore (fun _ h1 => h1))))))))

theorem State.ok.finishEng {s : State} {o : EngOp} (h : s.ok) : (s.finishEng o).ok := h.requestRebase.retryEng.ite h.setNow.closeEng

theorem State.ok.stepEng {s : State} {o : EngOp} (h : s.ok) : (s.stepEng o).ok := by
  unfold State.stepEng
  dsimp only
  split
  · exact h.onEng.finishEng
  · exact h.onEng
  · exact h.onEng.wakeEng

theorem State.ok.nextUnit {s : State} {o : EngOp} (h : s.ok) : (s.nextUnit o).ok := by
  unfold State.nextUnit
  split
  · exact h.onEng.prepUnit
  · exact h.stepEng

theorem State.ok.stopEng {s : State} {o : EngOp} (h : s.ok) : (s.stopEng o).ok := h.stepEng

theorem State.ok.peerPart {s : State} {o : EngOp} (h : s.ok) : (s.peerPart o).ok := by
  unfold State.peerPart
  split
  · exact h.drawPart.peerWords.stepEng
  · exact h.stepEng

theorem State.ok.boxPart {s : State} {o : EngOp} (h : s.ok) : (s.boxPart o).ok := by
  unfold State.boxPart
  dsimp only
  split
  · exact h.drawPart.askWay.retryEng
  · exact h.drawPart.useLines.moveItems.stepEng

theorem State.ok.takeRecord {s : State} {o : EngOp} (h : s.ok) : (s.takeRecord o).ok := by
  unfold State.takeRecord
  dsimp only
  split
  · exact h.askWay.retryEng
  · exact h.useLines.stepEng

theorem State.ok.beginEng {s : State} {o : EngOp} (h : s.ok) : (s.beginEng o).ok :=
  h.askWalks.ite (h.takeRecord.ite (h.peerPart.ite (h.askSys.ite (h.ite h.boxPart))))

theorem State.ok.execCopyComplete {core : CoreId} {op : Nat} {s : State} (h : s.ok) : Out.ok (execCopyComplete core op s) := by
  unfold Machine.execCopyComplete
  refine State.ok.out ?_
  split
  · exact h.focusCore
  · exact h.focusCore.focusOp.ite (h.focusCore.focusOp.finishEng.ite (h.focusCore.focusOp.stopEng.ite (h.focusCore.focusOp.ite
      ((h.focusCore.focusOp.ite h.focusCore.focusOp.onEng).ite h.focusCore.focusOp.beginEng))))

theorem State.ok.sysAnswer {s : State} {m : UpAns} (h : s.ok) : (s.sysAnswer m).ok := by
  unfold State.sysAnswer
  dsimp only
  split
  · exact h
  · split
    · exact h.focusCore
    · exact h.focusCore.onEng.wakeEng

theorem State.ok.execPrepack {m : UnitMsg} {s : State} (h : s.ok) : Out.ok (execPrepack m s) :=
  State.ok.out (h.onTime (fun _ h1 => (by
        dsimp only
        split
        · exact h1.focusCore
        · split
          · exact h1.focusCore
          · exact h1.focusCore.onEng.send.ite h1.focusCore.onEng.send.send)))

theorem State.ok.execCommitack {m : UnitMsg} {s : State} (h : s.ok) : Out.ok (execCommitack m s) :=
  State.ok.out (h.onTime (fun _ h1 => (by
        dsimp only
        split
        · exact h1.focusCore
        · split
          · exact h1.focusCore
          · exact h1.focusCore.focusOp.onEng.ite (h1.focusCore.focusOp.stepEng.ite h1.focusCore.focusOp.nextUnit))))

theorem State.ok.farDone {s : State} {core : CoreId} {op : Nat} {st : Status} (h : s.ok) : (s.farDone core op st).ok :=
  h.atCore (fun _ h1 => h1.onEng.wakeEng)

theorem State.ok.farWord {s : State} {core : CoreId} {op : Nat} {st : Status} (h : s.ok) : (s.farWord core op st).ok :=
  h.atCore (fun _ h1 => h1.onEng.wakeEng.ite h1.onEng)

theorem State.ok.execXpeerWriteArrive {m : XpeerMsg} {s : State} (h : s.ok) : Out.ok (execXpeerWriteArrive m s) :=
  State.ok.out (h.onTime (fun _ h1 => (by
        dsimp only
        split
        · exact h1.focusCore.farWord.ite h1.focusCore.send
        · exact h1.focusCore.farWord
        · exact h1.focusCore.farWord.ite h1.focusCore.focusTeam.localWrite.raiseNow.farWord)))

theorem State.ok.takePacket {s : State} {area : Nat} (h : s.ok) : (s.takePacket area).ok := by
  unfold State.takePacket
  split
  · exact h
  · exact State.ok.raiseNow (State.ok.foldl ⟨h.wf, h.core, h.team, h.grp, h.cores, h.contexts⟩ (fun _ _ h1 => h1.localWrite))

theorem State.ok.serveInbox {n : Nat} {s : State} (h : s.ok) : (s.serveInbox n).ok := by
  induction n generalizing s with
  | zero => exact h
  | succ n ih =>
    unfold State.serveInbox
    split
    · refine ih (State.ok.atGroup ⟨h.wf, h.core, h.team, h.grp, h.cores, h.contexts⟩ (fun _ h1 => ?_))
      split
      · exact h1.takePacket.wake
      · exact h1
    · exact h

theorem State.ok.execPacketArrive {m : PacketMsg} {s : State} (h : s.ok) : Out.ok (execPacketArrive m s) :=
  State.ok.out (h.onTime (fun _ h1 => (by
        extract_lets s1
        have hs1 : s1.ok := h1.focusCore
        split
        · exact hs1.farDone.ite hs1.send
        · exact hs1.farDone
        · extract_lets s4 old1 s5
          have hs4 : s4.ok := hs1.focusTeam
          have hold1 : old1.ok := hs4.team
          have hs5 : s5.ok := ⟨hs4.wf, hs4.core, hold1, hs4.grp, hs4.cores, hs4.contexts⟩
          exact (hs4.farDone.ite hs4.send).ite hs5.serveInbox.farDone)))

/-! ### Copy: The engine commands: XCPY, XGATHER, XSCATTER, XREDUCE, XFILL, XPEER, XCANCEL, PSEND and PRECV -/

theorem State.ok.handOver {s : State} {o : EngOp} {locks hutch : List RangeLock} {remote : Bool} (h : s.ok) :
    (s.handOver o locks hutch remote).ok := by
  unfold State.handOver
  dsimp only
  split
  · split
    · exact State.ok.putTile (State.ok.onGrp (h.newId.onCore (fun _ h1 => h1)) (fun _ h2 => h2.effect.ite h2))
    · exact State.ok.onGrp (h.newId.onCore (fun _ h1 => h1)) (fun _ h2 => h2.effect.ite h2)
  · exact State.ok.onGrp (h.newId.onCore (fun _ h1 => h1)) (fun _ h2 => h2.effect.ite h2)

theorem State.ok.issueEng {s : State} {o : EngOp} {list : Option LocalRange} {go : State → Nat → State} (h : s.ok) (hgo : ∀ a0, a0.ok → ∀ a1, (go a0
    a1).ok) : (s.issueEng o list go).ok := by
  unfold State.issueEng
  refine h.waitBefore.ite ?_
  split
  · exact h.waitBefore
  · refine h.askWalks.waitBefore.ite ?_
    refine h.waitBefore.ite ?_
    split
    · exact h.waitBefore
    · exact (hgo _ h.handOver.giveHeld _).next

theorem State.ok.dispatchCopy {s : State} {f : XF} {k : EngKind} {va : Nat} (h : s.ok) : (s.dispatchCopy f k va).ok :=
  h.waitBefore.ite (h.waitBefore.ite h.handOver.wakeEng.next)

theorem State.ok.copyCommand {s : State} {i : Instr} {f : XF} {k : EngKind} (h : s.ok) : (s.copyCommand i f k).ok :=
  h.access (fun _ h1 => (by
        refine h1.trapActive.ite ?_
        refine h1.dispatchCopy.ite ?_
        dsimp only
        split
        · exact h1.trapActive
        · exact h1.issueEng (fun _ h2 _ => h2.wakeEng)))

theorem State.ok.execXcpy {f : XF} {s : State} (h : s.ok) : Out.ok (execXcpy f s) := h.copyCommand.out

theorem State.ok.execXgather {f : XF} {s : State} (h : s.ok) : Out.ok (execXgather f s) := h.copyCommand.out

theorem State.ok.execXscatter {f : XF} {s : State} (h : s.ok) : Out.ok (execXscatter f s) := h.copyCommand.out

theorem State.ok.execXreduce {f : XF} {s : State} (h : s.ok) : Out.ok (execXreduce f s) := h.copyCommand.out

theorem State.ok.execXfill {f : XF} {s : State} (h : s.ok) : Out.ok (execXfill f s) := h.copyCommand.out

theorem State.ok.routeCommand {s : State} {i : Instr} {f : XF} {nAt limit : Nat} {op : State → List (BitVec 64) → EngOp} {go : State → Nat → State} (h
    : s.ok) (hgo : ∀ a0, a0.ok → ∀ a1, (go a0 a1).ok) : (s.routeCommand i f nAt limit op go).ok :=
  h.access (fun _ h1 => (by
        refine h1.trapActive.ite ?_
        dsimp only
        split
        · exact h1.trapActive
        · exact h1.issueEng hgo))

theorem State.ok.execXpeer {f : XF} {s : State} (h : s.ok) : Out.ok (execXpeer f s) := State.ok.out (h.routeCommand (fun _ h1 _ => h1.wakeEng))

theorem State.ok.execPsend {f : XF} {s : State} (h : s.ok) : Out.ok (execPsend f s) :=
  State.ok.out (h.routeCommand (fun _ h1 _ => h1.ite h1.nextPacket))

theorem State.ok.execXcancel {f : XF} {s : State} (h : s.ok) : Out.ok (execXcancel f s) :=
  State.ok.out (h.once (fun _ h1 _ => (by
        refine State.ok.ite (State.ok.next (h1.foldl (fun _ _ h2 => h2.onEng.wakeEng))) ?_
        refine State.ok.ite ?_ (h1.trapActive.ite (State.ok.next (h1.foldl (fun _ _ h3 => h3.onEng.wakeEng))))
        split
        · exact h1.trapActive
        · exact State.ok.next (h1.foldl (fun _ _ h3 => h3.onEng.wakeEng)))))

theorem State.ok.execPrecv {f : XF} {s : State} (h : s.ok) : Out.ok (execPrecv f s) :=
  State.ok.out (h.access (fun _ h1 => (by
        refine h1.trapActive.ite ?_
        refine h1.trapActive.ite ?_
        split
        · exact h1.trapActive
        · exact State.ok.ite (State.ok.waitFor ⟨h1.wf, h1.core, h1.team, h1.grp, h1.cores, h1.contexts⟩) h1.takePacket.next)))

/-! ### Matrix: The matrix engines: MMA, ACCZERO, ACCLOAD, ACCDRAIN, MMAWAIT and MMAB -/

theorem State.ok.after {s : State} {n : Nat} {i : Instr} (h : s.ok) : (s.after n i).ok := h

theorem State.ok.kick {s : State} {d n : Nat} (h : s.ok) : (s.kick d n).ok := by
  unfold State.kick
  refine h.ite ?_
  split
  · exact h
  · split
    · exact h.send.ite h
    · exact h.putQuad.after

theorem State.ok.within {α : Type} {s : State} {c : CoreId} {t : TeamId} {k : State → α × State} (h : s.ok) (hk : ∀ a0, a0.ok → (k a0).2.ok) :
    (s.within c t k).2.ok :=
  (hk _ h.focusCore.focusTeam).focusCore.focusGroup

theorem State.ok.takeQuarter {s : State} {c : CoreId} (h : s.ok) : (s.takeQuarter c).2.ok := by
  unfold State.takeQuarter
  split
  · exact h
  · dsimp only
    refine h.atCore (fun _ h1 => State.ok.pump (State.ok.atGroup ?_ (fun _ h2 => h2.onGrp (fun _ hg => ?_))))
    · exact h1.onCore (fun _ hc => hc)
    · exact hg

theorem State.ok.execMmaStart {die quad : Nat} {s : State} (h : s.ok) : Out.ok (execMmaStart die quad s) := by
  unfold Machine.execMmaStart
  refine State.ok.out ?_
  split
  · split
    · exact State.ok.ite (State.ok.after (State.ok.putQuad (State.ok.foldlSnd h.putQuad (fun _ _ h1 => h1.takeQuarter)))) h
    · exact h
  · exact h

theorem State.ok.macroEffect {s : State} {d : Nat} {m : MacroOp} (h : s.ok) : (s.macroEffect d m).ok := by
  unfold State.macroEffect
  dsimp only
  split
  · exact h.putAcc.putAcc.ite h.putAcc
  · split
    · exact State.ok.ite (State.ok.putAcc (State.ok.putAcc (h.within (fun _ h1 => h1)))) (State.ok.putAcc (h.within (fun _ h2 => h2)))
    · exact h
  · split
    · exact State.ok.ite (State.ok.putAcc (State.ok.putAcc (h.within (fun _ h1 => h1)))) (State.ok.putAcc (h.within (fun _ h2 => h2)))
    · exact h

theorem State.ok.execMacroOpComplete {die quad : Nat} {s : State} (h : s.ok) : Out.ok (execMacroOpComplete die quad s) := by
  unfold Machine.execMacroOpComplete
  refine State.ok.out ?_
  split
  · exact h
  · exact State.ok.atCore (h.macroEffect.putQuad.kick.atCore (fun _ h1 => h1.eachGroup (fun _ h2 => h2.poll))) (fun _ h3 => h3.eachGroup (fun _ h4
      => h4.poll))

theorem State.ok.queueMacro {s : State} {m : MacroOp} (h : s.ok) : (s.queueMacro m).ok := h.waitBefore.ite h.putQuad.kick.next

theorem State.ok.matrixOp {s : State} {i : Instr} {f : MXF} {k : State → Nat → State} (h : s.ok) (hk : ∀ a0, a0.ok → ∀ a1, (k a0 a1).ok) :
    (s.matrixOp i f k).ok :=
  h.frame (fun _ h1 => h1.next.ite (h1.trapActive.ite (hk _ h1 _)))

theorem State.ok.tileMacro {s : State} {i : Instr} {f : MXF} {kind : MacroKind} {fits : DWord → Bool} (h : s.ok) : (s.tileMacro i f kind fits).ok :=
  h.matrixOp (fun _ h1 _ => (by
        dsimp only
        split
        · exact h1.trapActive
        · split
          · exact h1.trapActive
          · exact h1.trapActive.ite (h1.waitBefore.ite h1.queueMacro)))

theorem State.ok.execMma {f : MXF} {s : State} (h : s.ok) : Out.ok (execMma f s) := h.tileMacro.out

theorem State.ok.execAccload {f : MXF} {s : State} (h : s.ok) : Out.ok (execAccload f s) := h.tileMacro.out

theorem State.ok.execAcczero {f : MXF} {s : State} (h : s.ok) : Out.ok (execAcczero f s) :=
  State.ok.out (h.matrixOp (fun _ h1 _ => h1.queueMacro))

theorem State.ok.mmawait {s : State} {acc : Option (Nat × Nat)} (h : s.ok) : (s.mmawait acc).ok := by
  unfold State.mmawait
  refine h.waitFor.ite ?_
  split
  · exact h.reported.trapActive
  · exact h.drainsSeen.next

theorem State.ok.execMmawait {f : MXF} {s : State} (h : s.ok) : Out.ok (execMmawait f s) :=
  State.ok.out (State.ok.ite (h.frame (fun _ h1 => h1.next.ite h1.mmawait)) (h.matrixOp (fun _ h2 _ => h2.mmawait)))

theorem State.ok.handDrain {s : State} {o : EngOp} {ctl : CoreId} {who : WalkFor} (h : s.ok) : (s.handDrain o ctl who).2.ok := by
  unfold State.handDrain
  refine State.ok.iteSnd h.askWalks ?_
  refine State.ok.iteSnd h ?_
  split
  · exact h
  · exact State.ok.wakeEng (State.ok.giveHeld (h.newId.onCore (fun _ h1 => h1)))

theorem State.ok.execAccdrain {f : MXF} {s : State} (h : s.ok) : Out.ok (execAccdrain f s) :=
  State.ok.out (h.frame (fun _ h1 => (by
        refine h1.next.ite ?_
        refine h1.waitBefore.ite ?_
        refine h1.trapActive.ite ?_
        dsimp only
        split
        · exact h1.trapActive
        · split
          next e1 => exact State.ok.trapActive (State.ok.snd (h1.within (fun _ h2 => (by
                    split
                    · exact h2
                    · exact h2.handDrain))) e1)
          next e1 => exact State.ok.waitBefore (State.ok.snd (h1.within (fun _ h2 => (by
                    split
                    · exact h2
                    · exact h2.handDrain))) e1)
          next e1 => exact State.ok.next (State.ok.onGrp (State.ok.onCore (State.ok.snd (h1.within (fun _ h2 => (by
                        split
                        · exact h2
                        · exact h2.handDrain))) e1) (fun _ h3 => h3)) (fun _ h4 => h4.effect)))))

theorem State.ok.execMmab {f : V3} {s : State} (h : s.ok) : Out.ok (execMmab f s) :=
  State.ok.out (h.frame (fun _ h1 => h1.next.ite (h1.waitBefore.ite (h1.waitBefore.ite (State.ok.next (State.ok.kick (State.ok.onGrp (h1.onCore
      (fun _ h2 => h2)) (fun _ h3 => h3))))))))

/-! ### Sync: WAITCNT, FENCE, CLKADV, SPINHINT, SLEEP and WAITT -/

theorem State.ok.execWaitcnt {f : SF} {s : State} (h : s.ok) : Out.ok (execWaitcnt f s) :=
  State.ok.out (h.frame (fun _ h1 => h1.next.ite (h1.next.ite h1.waitFor)))

theorem State.ok.execFence {f : SF} {s : State} (h : s.ok) : Out.ok (execFence f s) :=
  State.ok.out (h.access (fun _ h1 => (by
        refine State.ok.next ?_
        split <;> exact h1.release)))

theorem State.ok.advanceTo {s : State} {n : Nat} (h : s.ok) : (s.advanceTo n).ok := h.waitRebase.ite h.setNow.next

theorem State.ok.execClkadv {f : SF} {s : State} (h : s.ok) : Out.ok (execClkadv f s) := State.ok.out (h.once (fun _ h1 _ => h1.advanceTo))

theorem State.ok.execSpinhint {f : SF} {s : State} (h : s.ok) : Out.ok (execSpinhint f s) := State.ok.out (h.once (fun _ h1 _ => h1.advanceTo))

theorem State.ok.execSleep {f : SF} {s : State} (h : s.ok) : Out.ok (execSleep f s) :=
  State.ok.out (h.once (fun _ h1 _ => h1.next.ite h1.waitFor))

theorem State.ok.execWaitt {f : SF} {s : State} (h : s.ok) : Out.ok (execWaitt f s) :=
  State.ok.out (h.once (fun _ h1 _ => h1.next.ite h1.waitFor))

/-! ### Sem: SEMSIG and SEMWAIT, their replies, notices and timeouts, and the events that end SLEEP, WAITT and idle spans -/

theorem State.ok.semaphore {s : State} {i : Instr} {us : List Use} {writes : Bool} {kind : Nat} {k : State → Nat → List (BitVec 64) → State} (h : s.ok)
    (hk : ∀ a0, a0.ok → ∀ a1, ∀ a2, (k a0 a1 a2).ok) : (s.semaphore i us writes kind k).ok :=
  h.once (fun _ h1 _ => (by
        split
        · exact h1.trapActive
        · exact h1.waitBefore.ite (h1.translated (fun _ h2 => (by
                  dsimp only
                  split
                  · exact h2.dropHeld.trapActive
                  · exact hk _ h2.dropHeld _ _
                  · exact hk _ h2.dropHeld _ _)))))

theorem State.ok.execSemsig {f : SF} {s : State} (h : s.ok) : Out.ok (execSemsig f s) :=
  State.ok.out (h.waitBefore.ite (h.semaphore (fun _ h1 _ _ => State.ok.next (State.ok.finishOps (State.ok.release (State.ok.addOp
      (h1.newId.newId.onGrp (fun _ h2 => h2.effect))))))))

theorem State.ok.semRead {s : State} {w : Wait} (h : s.ok) : (s.semRead w).ok := by
  unfold State.semRead
  split
  · exact State.ok.ite (State.ok.send (State.ok.onGrp (State.ok.ite h.newId (State.ok.useLines h.newId)) (fun _ h1 => Group.ok.ite h1 h1))) ((h.ite
      h.askWay).onGrp (fun _ h2 => Group.ok.ite h2 h2))
  · exact h

theorem State.ok.pumpSem {s : State} (h : s.ok) : OptOk State.ok s.pumpSem :=
  OptOk.map OptOk.any (fun _ _ => h.focusCore.atGroup (fun _ h2 => h2.semRead))

theorem State.ok.execSemwait {f : SF} {s : State} (h : s.ok) : Out.ok (execSemwait f s) :=
  State.ok.out (h.semaphore (fun _ h1 _ _ => State.ok.retire (State.ok.semRead (h1.onGrp (fun _ h2 => h2)))))

theorem State.ok.unregister {s : State} {ref : Nat} (h : s.ok) : (s.unregister ref).ok := h

theorem State.ok.semCheck {s : State} {ref : Nat} {value : BitVec 64} {wts : Stamp} (h : s.ok) : (s.semCheck ref value wts).ok := by
  unfold State.semCheck
  split
  · exact h
  · exact h.unregister.raiseNow.raiseHorizon.acquire.wake.ite (h.unregister.trapWaiters.ite (h.onGrp (fun _ h1 => h1)))

theorem State.ok.execSemwaitReadReply {m : SemNotice} {s : State} (h : s.ok) : Out.ok (execSemwaitReadReply m s) :=
  State.ok.out (h.onTime (fun _ h1 => h1.focusCore.atGroup (fun _ h2 => h2.semCheck)))

theorem State.ok.execSemwaitTimeout {core : CoreId} {g : GroupId} {s : State} (h : s.ok) : Out.ok (execSemwaitTimeout core g s) :=
  State.ok.out (h.focusCore.atGroup (fun _ h1 => (by
        split
        · exact h1.ite (h1.unregister.trapWaiters.ite h1)
        · exact h1)))

theorem State.ok.execSleepDone {core : CoreId} {g : GroupId} {s : State} (h : s.ok) : Out.ok (execSleepDone core g s) :=
  State.ok.out (h.focusCore.atGroup (fun _ h1 => (by
        split
        · exact h1.wake
        · exact h1)))

theorem State.ok.execWaittDeadline {g : GroupId} {core : CoreId} {s : State} (h : s.ok) : Out.ok (execWaittDeadline g core s) :=
  State.ok.out (h.focusCore.atGroup (fun _ h1 => (by
        split
        · exact h1.wake.ite h1
        · exact h1)))

theorem State.ok.execIdleTick {core : CoreId} {s : State} (h : s.ok) : Out.ok (execIdleTick core s) :=
  (h.focusCore.setNow.ite h.focusCore.requestRebase).out

/-! ### Reply: The coherence messages that reach a core: DATA, EXTEND, CPBKACK, ATOMA, HOLDACK, RECALL, ACCEPT and APPLY, and those of replicated
pages: DROP and DROPACK -/

theorem State.ok.takeYnow {s : State} {ref : Nat} {y : Option Stamp} (h : s.ok) : (s.takeYnow ref y).ok := by
  unfold State.takeYnow
  split
  · exact h
  · exact h.raiseNow.raiseHorizon.ite h

theorem State.ok.bindAll {s : State} {line ref : Nat} {f : Copy → Copy} {y : Option Stamp} (h : s.ok) : (s.bindAll line ref f y).ok :=
  h.eachGroup (fun _ h1 => h1.takeYnow.bindOps)

theorem State.ok.fillCopy {s : State} {line ref : Nat} {f : Copy → Copy} {y : Option Stamp} (h : s.ok) : (s.fillCopy line ref f y).ok := by
  unfold State.fillCopy
  refine State.ok.pump ?_
  refine State.ok.bindAll ?_
  split
  · exact h.putCopy.ite h
  · exact h

theorem State.ok.execDataMsg {m : DataMsg} {s : State} (h : s.ok) : Out.ok (execDataMsg m s) := by
  unfold Machine.execDataMsg
  refine State.ok.out ?_
  split
  · exact h.onTime (fun _ h1 => h1.putRdc.requeue)
  · exact h.onTime (fun _ h1 => h1.focusCore.fillCopy)

theorem State.ok.execExtend {m : ExtendMsg} {s : State} (h : s.ok) : Out.ok (execExtend m s) := by
  unfold Machine.execExtend
  refine State.ok.out ?_
  split
  · exact h.onTime (fun _ h1 => (by
          split
          · exact h1.putRdc.requeue
          · exact h1.send))
  · exact h.onTime (fun _ h1 => h1.focusCore.fillCopy)

theorem Core.ok.acked {c : Core} {ref w : Nat} (hc : c.ok) : (c.acked ref w).ok := hc

theorem State.ok.clearAll {s : State} {ref : Nat} (h : s.ok) : (s.clearAll ref).ok := h.eachGroup (fun _ h1 => h1.clearWait)

theorem State.ok.execCpbkack {m : AckMsg} {s : State} (h : s.ok) : Out.ok (execCpbkack m s) := by
  unfold Machine.execCpbkack
  refine State.ok.out ?_
  split
  · exact h
  · exact h.onTime (fun _ h1 => State.ok.pump (State.ok.clearAll (State.ok.forgetBytes (State.ok.settleCopy (h1.focusCore.raiseNow.onCore (fun _ h2
      => h2.acked))))))

theorem State.ok.bindAtom {s : State} {ref : Nat} {v : BitVec 64 × Bool} (h : s.ok) : (s.bindAtom ref v).ok := h.onGrp (fun _ h1 => h1)

theorem State.ok.atomClocks {s : State} {ref w : Nat} {y : Option Stamp} (h : s.ok) : (s.atomClocks ref w y).ok :=
  (h.raiseNow.raiseHorizon.ite h.raiseNow).raiseHorizon.takeYnow.ite (h.raiseNow.raiseHorizon.ite h.raiseNow)

theorem State.ok.execAtoma {m : AtomAns} {s : State} (h : s.ok) : Out.ok (execAtoma m s) := by
  unfold Machine.execAtoma
  refine State.ok.out ?_
  split
  · exact h
  · exact h
  · exact h.onTime (fun _ h1 => State.ok.pump (h1.focusCore.raiseNow.eachGroup (fun _ h2 => h2.atomClocks.bindAtom.clearWait)))

theorem State.ok.execHoldack {m : HoldMsg} {s : State} (h : s.ok) : Out.ok (execHoldack m s) := h.focusCore.clearAll.pump.out

theorem State.ok.execAccept {m : BenchAns} {s : State} (h : s.ok) : Out.ok (execAccept m s) := by
  unfold Machine.execAccept
  refine State.ok.out ?_
  split
  · exact h
  · exact h.focusCore.onCore (fun _ h1 => h1)

theorem State.ok.takeApply {s : State} {m : BenchAns} (h : s.ok) : (s.takeApply m).ok := by
  unfold State.takeApply
  split
  · exact h
  · exact h.focusCore.raiseNow.clearAll.pump.ite (State.ok.ite h.focusCore h.focusCore.raiseNow)
  · dsimp only
    split
    · exact h.focusCore
    · exact h.focusCore.raiseNow.onEng.wakeEng.ite h.focusCore.raiseNow.onEng

theorem State.ok.execApply {m : BenchAns} {s : State} (h : s.ok) : Out.ok (execApply m s) := by
  unfold Machine.execApply
  refine State.ok.out ?_
  split
  · exact h
  · exact h.onTime (fun _ h1 => h1.takeApply)

theorem State.ok.execRecall {m : RecallMsg} {s : State} (h : s.ok) : Out.ok (execRecall m s) :=
  State.ok.out (State.ok.pump (h.focusCore.relAgain.onCore (fun _ h1 => h1)))

theorem State.ok.dropReplicas {s : State} {die frame size : Nat} (h : s.ok) : (s.dropReplicas die frame size).ok := by
  unfold State.dropReplicas
  extract_lets s1
  have hs1 : s1.ok := h.onDie
  exact ⟨hs1.wf, Core.ok.ite hs1.core hs1.core, hs1.team, hs1.grp, forall_mem_map_of hs1.cores (fun _ h1 => Core.ok.ite h1 h1), hs1.contexts⟩

theorem State.ok.execDrop {m : DropMsg} {s : State} (h : s.ok) : Out.ok (execDrop m s) := h.dropReplicas.send.out

theorem State.ok.execDropack {m : DropMsg} {s : State} (h : s.ok) : Out.ok (execDropack m s) := h.onDie.out

end Sys2Proof.Machine

end

section
/-! SUPPORT. What every step keeps, for the panel map, the peer ports, the clock and launches. -/

namespace Sys2Proof.Machine

/-! ### Map: The panel map as firmware writes it, and the groups of the module taken together -/

theorem State.ok.firmwareStamp {s : State} {h : Home} (hs : s.ok) : (s.firmwareStamp h).ok := hs.stamp.onDie

theorem State.ok.firmwareWrite {s : State} {pa n x : Nat} (h : s.ok) : (s.firmwareWrite pa n x).ok := h.homeFor.writeNat.firmwareStamp

theorem State.ok.mapWrite {s : State} {off n x : Nat} (h : s.ok) : (s.mapWrite off n x).ok := h.foldl (fun _ _ h1 => h1.firmwareWrite)

theorem State.ok.mapStep {s : State} (h : s.ok) : s.mapStep.ok := h.foldl (fun _ _ h1 => h1.firmwareWrite)

theorem State.ok.mapUpdate {s : State} {f : State → State} (h : s.ok) (hf : ∀ a0, a0.ok → (f a0).ok) : (s.mapUpdate f).ok :=
  (hf _ h.mapStep).mapStep

/-! ### The panel map published anew -/

theorem Memory.wfFrom_filter_of {u v : Nat → Byte} {p : Host.Cell → Bool} {m : List Host.Cell} {n : Nat} (h : Memory.wfFrom u n m = true)
    (huv : ∀ c, p c = true → u c.1 = v c.1) : Memory.wfFrom v n (m.filter p) = true := by
  induction m generalizing n with
  | nil => rfl
  | cons c m ih =>
    simp only [Memory.wfFrom, Bool.and_eq_true, decide_eq_true_eq] at h
    obtain ⟨⟨hn, hc⟩, hm⟩ := h
    rw [List.filter_cons]
    split
    next hp =>
      simp only [Memory.wfFrom, Bool.and_eq_true, decide_eq_true_eq]
      exact ⟨⟨hn, huv c hp ▸ hc⟩, ih hm⟩
    · exact Memory.wfFrom_mono (ih hm) (by omega)

theorem unlistedByte_of_imageOffset_none {q : Option Published} {a : Nat} (h : imageOffset a = none) : unlistedByte q a = 0 := by
  unfold imageOffset at h
  split at h
  · exact absurd h (by simp)
  next ha =>
    unfold unlistedByte
    split
    · rfl
    · rw [if_pos (by omega)]

theorem unlistedByte_none_of_imageOffset {a off : Nat} (h : imageOffset a = some off) : unlistedByte none a = blankMapByte off := by
  unfold imageOffset at h
  split at h
  · obtain rfl := Option.some.inj h
    unfold unlistedByte
    rw [if_neg (by omega), if_neg (by omega)]
  · exact absurd h (by simp)

theorem unlistedByte_some_of_imageOffset {q : Published} {a off : Nat} (h : imageOffset a = some off) :
    unlistedByte (some q) a = q.byte off := by
  unfold imageOffset at h
  split at h
  · obtain rfl := Option.some.inj h
    unfold unlistedByte
    rw [if_neg (by omega), if_neg (by omega)]
  · exact absurd h (by simp)

theorem State.ok.republish {s : State} {q : Published} {p : Nat → Bool} (h : s.ok)
    (hq : ∀ a off, imageOffset a = some off → p off = false → unlistedByte s.pub a = q.byte off) : (s.republish q p).ok := by
  unfold State.republish
  extract_lets hit s1
  have hmem : Memory.wf (unlistedByte (some q)) (s.mem.filter fun c => !hit c.1) = true := by
    refine Memory.wfFrom_filter_of h.wf (fun c hc => ?_)
    cases e : imageOffset c.1 with
    | none => rw [unlistedByte_of_imageOffset_none e, unlistedByte_of_imageOffset_none e]
    | some off =>
      rw [hq c.1 off e (by simpa [hit, e] using hc), unlistedByte_some_of_imageOffset e]
  have hs1 : s1.ok := ⟨hmem, h.core, h.team, h.grp, h.cores, h.contexts⟩
  exact hs1.foldl (fun _ _ h1 => h1.firmwareStamp)

theorem tableByte_zero {base size off : Nat} {f : Nat → Nat} (h : f ((off - base) / size) = 0) : tableByte base size off f = 0 := by
  unfold tableByte
  rw [h]
  simp [byteOf]

theorem State.ok.putRegionRecord {s : State} {d : Nat} (h : s.ok) : (s.putRegionRecord d).ok := h.mapWrite.mapWrite.ite h.mapWrite

theorem State.ok.putDieRecord {s : State} {d : Nat} (h : s.ok) : (s.putDieRecord d).ok := h.foldl (fun _ _ h1 => h1.mapWrite)

theorem State.ok.putStitch {s : State} {d : Nat} (h : s.ok) : (s.putStitch d).ok := by
  unfold State.putStitch
  dsimp only
  exact h.foldl (fun _ _ h1 => h1.drawNat.mapWrite)

theorem State.ok.publishTree {s : State} {relocked : List Nat} (h : s.ok) : (s.publishTree relocked).ok :=
  h.ite (h.mapUpdate (fun _ h1 => State.ok.foldl (State.ok.foldl (h1.foldl (fun _ _ h2 => h2.foldl (fun _ _ h3 => h3.mapWrite))) (fun _ _ h4 =>
      h4.putRegionRecord.putDieRecord)) (fun _ _ h5 => h5.putStitch)))

/-- The offsets whose bytes boot leaves as they are: the generation word, and what follows the four routes of a core (R45, R635). -/
def bootKeeps (off : Nat) : Bool :=
  decide (off < 8) || (decide (0x1800000 ≤ off) && decide (0x800000 ≤ off % 0x1000000) && decide (128 ≤ off % 0x800))

theorem blankMapByte_of_bootKeeps {off : Nat} (h : bootKeeps off = true) : blankMapByte off = 0 := by
  simp only [bootKeeps, Bool.or_eq_true, Bool.and_eq_true, decide_eq_true_eq] at h
  unfold blankMapByte
  split
  · rfl
  · rw [if_neg (by omega), if_neg (by omega), if_neg (by omega)]

theorem Published.blockByte_routes {q : Published} {d off : Nat} (h : 0x800000 ≤ off) (hr : 128 ≤ off % 0x800) : q.blockByte d off = 0 := by
  unfold Published.blockByte
  dsimp only
  iterate 14 rw [if_neg (by omega)]
  have hk : 4 ≤ (off - 0x800000) / 32 % 64 := by omega
  refine tableByte_zero (if_pos ?_)
  rw [decide_eq_true hk, Bool.or_true]

theorem Published.byte_of_bootKeeps {q : Published} {off : Nat} (h : bootKeeps off = true) : q.byte off = 0 := by
  simp only [bootKeeps, Bool.or_eq_true, Bool.and_eq_true, decide_eq_true_eq] at h
  unfold Published.byte
  dsimp only
  split
  · rfl
  · iterate 6 rw [if_neg (by omega)]
    split
    · exact Published.blockByte_routes (by omega) (by omega)
    · rfl

theorem State.ok.publishBoot {s : State} (h : s.ok) : s.publishBoot.ok := by
  unfold State.publishBoot
  extract_lets s1 q kept
  have hs1 : s1.ok := h.foldl (fun _ _ h1 => h1.onDie)
  refine State.ok.mapCores (hs1.republish (fun a off ha hp => ?_)) (fun _ hc => hc.foldl (fun _ _ h1 => h1.putRoute))
  have hk : bootKeeps off = true := by
    have hn : (!bootKeeps off) = false := hp
    simpa using hn
  rw [Published.byte_of_bootKeeps hk]
  cases e : s1.pub with
  | none => rw [unlistedByte_none_of_imageOffset ha, blankMapByte_of_bootKeeps hk]
  | some q0 => rw [unlistedByte_some_of_imageOffset ha, Published.byte_of_bootKeeps hk]

theorem Published.blockByte_out {q : Published} {d k off : Nat} (h : k ≠ d) :
    ({ q with out := insertN q.out d } : Published).blockByte k off = q.blockByte k off := by
  have hk : has (insertN q.out d) k = has q.out k := by simp [has_insertN, h]
  unfold Published.blockByte
  simp only [hk]

theorem Published.byte_out {q : Published} {d off : Nat} (h : ¬ (dieBlock d ≤ off ∧ off < dieBlock d + 0x1000000)) :
    ({ q with out := insertN q.out d } : Published).byte off = q.byte off := by
  unfold dieBlock at h
  unfold Published.byte
  dsimp only
  iterate 7
    split
    · rfl
  split
  · exact Published.blockByte_out (by omega)
  · rfl

theorem State.ok.blankBlock {s : State} {d : Nat} (h : s.ok) : (s.blankBlock d).ok := by
  unfold State.blankBlock
  split
  · exact h
  next q e =>
    refine h.republish (fun a off ha hp => ?_)
    rw [e, unlistedByte_some_of_imageOffset ha]
    exact (Published.byte_out (by simpa using hp)).symm

theorem State.ok.putMapCell {s : State} {c : Nat × Byte} (h : s.ok) : (s.putMapCell c).ok := h.ite h.mapWrite

theorem State.ok.putMapCells {s : State} {cells : List (Nat × Byte)} (h : s.ok) : (s.putMapCells cells).ok :=
  State.ok.ite (h.foldl (fun _ _ h1 => h1.putMapCell)) (h.ite (State.ok.foldl (h.foldl (fun _ _ h2 => h2.putMapCell)) (fun _ _ h3 => h3.ite
      h3.onDie)))

theorem State.ok.execPanelMapUpdate {cells : List (Nat × Byte)} {s : State} (h : s.ok) : Out.ok (execPanelMapUpdate cells s) :=
  State.ok.out (h.mapUpdate (fun _ h1 => h1.putMapCells))

/-! ### Ports: Peer ports: posted copies and their frames, frames that arrive, acknowledgements and refusals -/

theorem State.ok.portSaw {s : State} {port line wts : Nat} (h : s.ok) : (s.portSaw port line wts).ok := h.onPort.noteTick

theorem State.ok.post {s : State} {port a : Nat} (h : s.ok) : (s.post port a).ok :=
  State.ok.ite (State.ok.onPort (h.useLines.foldl (fun _ _ h1 => h1.portSaw))) (State.ok.onPort (h.useLines.foldl (fun _ _ h2 => h2.portSaw)))

theorem State.ok.postOrWait {s : State} {port a : Nat} (h : s.ok) : (s.postOrWait port a).ok := h.ite (h.post.ite h.onPort)

theorem State.ok.pumpPost {s : State} {port : Nat} (h : s.ok) : OptOk State.ok (s.pumpPost port) := by
  unfold State.pumpPost
  split
  · exact trivial
  · exact OptOk.ite h.onPort.post trivial

theorem State.ok.execPqpostWrite {port addr : Nat} {s : State} (h : s.ok) : Out.ok (execPqpostWrite port addr s) := h.postOrWait.out

theorem State.ok.endPost {s : State} {port : Nat} {num : BitVec 32} {ok : Bool} (h : s.ok) : (s.endPost port num ok).ok := h.onPort

theorem State.ok.execPeerAcknowledgement {f : PeerFrame} {s : State} (h : s.ok) : Out.ok (execPeerAcknowledgement f s) := by
  unfold Machine.execPeerAcknowledgement
  refine State.ok.out ?_
  refine h.onPort.ite ?_
  split
  · exact h
  · exact h.onPort.endPost.ite h.onPort

theorem State.ok.execPeerRefusal {f : PeerFrame} {s : State} (h : s.ok) : Out.ok (execPeerRefusal f s) := (h.onPort.ite (h.endPost.ite h)).out

theorem State.ok.resend {s : State} {port : Nat} {num : BitVec 32} (h : s.ok) : (s.resend port num).ok := by
  unfold State.resend
  split
  · exact h
  · exact h.endPost.ite h.onPort

theorem State.ok.execPeerResendTimeout {port : Nat} {post : BitVec 32} {s : State} (h : s.ok) : Out.ok (execPeerResendTimeout port post s) :=
  h.resend.out

theorem State.ok.resendDue {s : State} (h : s.ok) : s.resendDue.ok := h.foldl (fun _ _ h1 => h1.foldl (fun _ _ h2 => h2.resend))

theorem State.ok.execPeerPortLinkUp {port : Nat} {s : State} (h : s.ok) : Out.ok (execPeerPortLinkUp port s) := (h.ite h.onPort).out

theorem State.ok.execPeerFrameDiscard {port : Nat} {s : State} (h : s.ok) : Out.ok (execPeerFrameDiscard port s) := h.onPort.out

theorem State.ok.frameWrite {s : State} {f : PeerFrame} (h : s.ok) : (s.frameWrite f).ok := h.foldl (fun _ _ h1 => h1.engWrite.portSaw)

theorem State.ok.refuseFrame {s : State} {f : PeerFrame} {status : Nat} (h : s.ok) : (s.refuseFrame f status).ok := h.onPort

theorem State.ok.ackFrame {s : State} {f : PeerFrame} (h : s.ok) : (s.ackFrame f).ok := h.onPort

theorem State.ok.performFrame {s : State} {type : Nat} {f : PeerFrame} (h : s.ok) : (s.performFrame type f).ok := by
  unfold State.performFrame
  refine h.refuseFrame.ite ?_
  refine h.onPort.ite ?_
  split
  · exact h.refuse.refuseFrame.ite (h.frameWrite.ite h.frameWrite.onPort)
  · exact h.refuseFrame.ite (h.ite h.ackFrame.onPort)
  · exact h.refuse.refuseFrame.ite (h.refuseFrame.ite (h.ite h.engAtomic.portSaw.ackFrame))

theorem State.ok.pumpPort {s : State} {port : Nat} (h : s.ok) : OptOk State.ok (s.pumpPort port) := by
  unfold State.pumpPort
  split
  · exact h.pumpPost
  · exact OptOk.ite h.onPort.performFrame h.pumpPost

theorem State.ok.arriveFrame {s : State} {type : Nat} {f : PeerFrame} (h : s.ok) : (s.arriveFrame type f).ok :=
  h.ite (h.onPort.ite (State.ok.ite (State.ok.getD h.onPort.pumpPort h.onPort) h.onPort))

theorem State.ok.execPeerCopyData {f : PeerFrame} {s : State} (h : s.ok) : Out.ok (execPeerCopyData f s) := h.arriveFrame.out

theorem State.ok.execPeerCopyEnd {f : PeerFrame} {s : State} (h : s.ok) : Out.ok (execPeerCopyEnd f s) := h.arriveFrame.out

theorem State.ok.execPeerSemaphoreAdd {f : PeerFrame} {s : State} (h : s.ok) : Out.ok (execPeerSemaphoreAdd f s) := h.arriveFrame.out

/-! ### Clock: The forwarding tree, hold and re-rooting, the region counters clk by clk, and the discipline of `%gtc` -/

theorem State.ok.onFwd {s : State} {d : Nat} {f : Forwarder → Forwarder} (h : s.ok) : (s.onFwd d f).ok := h.onDie

theorem State.ok.configured {s : State} {d : Nat} {v : Word} (h : s.ok) : (s.configured d v).ok := h.onFwd

theorem State.ok.lockFrom {s : State} {d : Nat} {st : FwdSt} (h : s.ok) : (s.lockFrom d st).ok := h.onFwd.later

theorem State.ok.drawErr {s : State} {d : Nat} (h : s.ok) : (s.drawErr d).ok := by
  unfold State.drawErr
  dsimp only
  exact h.onDie.ite h.drawNat.onDie

theorem State.ok.alignDie {s : State} {d : Nat} (h : s.ok) : (s.alignDie d).ok := by
  unfold State.alignDie
  split
  · exact h
  · exact h.onDie

theorem State.ok.redraw {s : State} {moved : List Nat} (h : s.ok) : (s.redraw moved).2.ok :=
  State.ok.foldlSnd h (fun _ _ h1 => State.ok.iteSnd h1.drawErr h1)

theorem State.ok.realign {s : State} {moved others : List Nat} (h : s.ok) : (s.realign moved others).ok :=
  h.redraw.foldl (fun _ _ h1 => h1.alignDie)

theorem State.ok.bootTree {s : State} (h : s.ok) : s.bootTree.ok := by
  unfold State.bootTree
  dsimp only
  split
  · exact h
  · exact h.ite (State.ok.foldl (State.ok.ite (h.foldl (fun _ _ h1 => h1.onDie)) h) (fun _ _ h2 => (by
            split
            · exact h2
            · exact h2.ite h2.onFwd.lockFrom)))

theorem State.ok.bootOn {s : State} (h : s.ok) : s.bootOn.ok := State.ok.ite (State.ok.publishBoot h.bootTree) h.bootTree

theorem State.ok.applyCfg {s : State} {die : Nat} {v : Word} (h : s.ok) : (s.applyCfg die v).ok := by
  unfold State.applyCfg
  extract_lets _ _ _ s1 s2 old1
  have hs1 : s1.ok := State.ok.ite (h.foldl (fun _ _ h1 => h1.onFwd)) h
  have hs2 : s2.ok := hs1.configured.onFwd
  have hold1 : old1.ok := State.ok.publishTree hs2
  exact hs2.lockFrom.ite (hs2.ite (hs2.onDie.ite (hold1.realign.ite hold1)))

theorem State.ok.execFwdcfgGo {die : Nat} {value : Word} {s : State} (h : s.ok) : Out.ok (execFwdcfgGo die value s) :=
  (h.ite (h.onFwd.ite h.applyCfg)).out

theorem State.ok.execPowerOn {s : State} : Out.ok (execPowerOn s) := State.ok.out (State.ok.bootTree State.ok.reset)

theorem State.ok.adoptReady {s : State} (h : s.ok) : s.adoptReady.ok := h.foldl (fun _ _ h1 => h1.lockFrom.ite h1)

theorem State.ok.execPllLock {die : Nat} {s : State} (h : s.ok) : Out.ok (execPllLock die s) := by
  unfold Machine.execPllLock
  refine State.ok.out ?_
  refine h.ite ?_
  split
  · exact h.onFwd.realign.adoptReady.bootOn
  · exact h.onFwd.adoptReady
  · exact h

theorem State.ok.orphan {s : State} {d : Nat} (h : s.ok) : (s.orphan d).ok :=
  State.ok.ite (h.onDie.foldl (fun _ _ h1 => h1.send)) (State.ok.send (h.onDie.foldl (fun _ _ h2 => h2.send)))

theorem State.ok.execPllLockTimeout {die : Nat} {s : State} (h : s.ok) : Out.ok (execPllLockTimeout die s) := (h.orphan.bootOn.ite h).out

theorem State.ok.execParentClockLoss {m : ClockLoss} {s : State} (h : s.ok) : Out.ok (execParentClockLoss m s) := by
  unfold Machine.execParentClockLoss
  refine State.ok.out ?_
  split
  · exact (h.onFwd.ite h).orphan
  · exact (h.onFwd.ite h).orphan.ite (h.onFwd.ite h).lockFrom
  · exact (h.onFwd.ite h).ite (h.onFwd.ite h).onFwd
  · exact h.onFwd.ite h

theorem State.ok.execExternalReferenceChange {die : Nat} {valid : Bool} {s : State} (h : s.ok) : Out.ok (execExternalReferenceChange die valid s) :=
  (h.ite ((h.onFwd.send.ite h.onFwd).ite (h.onFwd.send.ite h.onFwd).adoptReady.bootTree)).out

theorem State.ok.holdLive {s : State} {d : Nat} (h : s.ok) : (s.holdLive d).ok := h.onDie.ite h

theorem State.ok.setChild {s : State} {d e : Nat} {on : Bool} (h : s.ok) : (s.setChild d e on).ok := h.onFwd

theorem State.ok.leaveParent {s : State} {d : Nat} (h : s.ok) : (s.leaveParent d).ok := by
  unfold State.leaveParent
  dsimp only
  split
  · exact h
  · exact h.setChild.holdLive.ite h.setChild

theorem State.ok.strand {s : State} {d : Nat} (h : s.ok) : (s.strand d).ok := h.leaveParent.onDie

theorem State.ok.takeParent {s : State} {d : Nat} {e : BitVec 3} (h : s.ok) : (s.takeParent d e).ok := h.onDie

theorem State.ok.adopt {s : State} {ds : List (Nat × Nat)} {root d : Nat} (h : s.ok) : (s.adopt ds root d).ok := by
  unfold State.adopt
  refine (h.ite h.leaveParent).takeParent.ite ?_
  split
  · exact h.strand
  · exact h.takeParent.ite h.leaveParent.setChild.holdLive.takeParent

theorem State.ok.execRerootParentAssign {orphans : List Nat} {s : State} (h : s.ok) : Out.ok (execRerootParentAssign orphans s) :=
  State.ok.out (h.later.ite (State.ok.adoptReady (State.ok.ite (by
          split
          · exact h.foldl (fun _ _ h1 => h1.strand)
          · exact h.foldl (fun _ _ h1 => h1.adopt)) (by
          refine State.ok.publishTree ?_
          split
          · exact h.foldl (fun _ _ h1 => h1.strand)
          · exact h.foldl (fun _ _ h1 => h1.adopt)))))

theorem State.ok.execFwdcmdDone {die : Nat} {value : Word} {s : State} (h : s.ok) : Out.ok (execFwdcmdDone die value s) :=
  State.ok.out (h.ite (State.ok.adoptReady (h.foldl (fun _ _ h1 => h1.takeParent.ite h1))))

theorem State.ok.lateGroup {s : State} {core : CoreId} {gid : GroupId} (h : s.ok) : (s.lateGroup core gid).ok :=
  h.mapGroups (fun _ _ h1 => Group.ok.ite h1 h1)

theorem State.ok.lateGrid {s : State} {grid : GridId} (h : s.ok) : (s.lateGrid grid).ok := by
  unfold State.lateGrid
  extract_lets s1
  have hs1 : s1.ok := h.mapGroups (fun _ _ h1 => Group.ok.ite h1 h1)
  exact hs1

theorem State.ok.judge {s : State} {ds : List Nat} (h : s.ok) : (s.judge ds).ok :=
  State.ok.foldl (State.ok.foldl (h.foldl (fun _ _ h1 => (by
            refine h1.ite ?_
            split
            · exact h1.lateGroup
            · exact h1.lateGrid
            · exact h1))) (fun _ _ h2 => h2.lateGrid)) (fun _ _ h3 => h3.send)

theorem State.ok.execRerootResume {s : State} (h : s.ok) : Out.ok (execRerootResume s) :=
  State.ok.out (h.ite (State.ok.bootTree (State.ok.foldl (State.ok.foldl (State.ok.judge (State.ok.realign (State.ok.publishTree (State.ok.foldl h
      (fun _ _ h1 => h1.onDie))))) (fun _ _ h2 => h2.send)) (fun _ _ h3 => h3.send))))

theorem State.ok.drawDrift {s : State} (h : s.ok) : s.drawDrift.2.ok := by
  unfold State.drawDrift
  dsimp only
  exact h.drawNat

theorem State.ok.countDie {s : State} {d : Nat} (h : s.ok) : (s.countDie d).ok :=
  h.ite (State.ok.ite (State.ok.onDie (State.ok.iteSnd h.drawDrift h)) h.onDie)

theorem Core.ok.idleStep {c : Core} (hc : c.ok) : c.idleStep.ok := Core.ok.ite hc hc

theorem Group.ok.clkStep {g : Group} (hg : g.ok) : g.clkStep.ok := hg

theorem Team.ok.clkStep {t : Team} (ht : t.ok) : t.clkStep.ok := ht

theorem State.ok.noteIdle {s : State} {d : Nat} (h : s.ok) : (s.noteIdle d).ok := h.noteTick.ite h

theorem State.ok.tick {s : State} (h : s.ok) : s.tick.ok := by
  unfold State.tick
  extract_lets s1 s2 _ s3 s4 _ s5 s6 _ s7 _ s8 _ _ _ old1
  have hs1 : s1.ok := h
  have hs2 : s2.ok := hs1.foldl (fun _ _ h1 => h1.countDie)
  have hs3 : s3.ok := hs2
  have hs4 : s4.ok := hs3.foldl (fun _ _ h2 => h2.noteIdle)
  have hs5 : s5.ok := hs4.mapTeams (fun _ h3 => h3.clkStep) (fun _ _ h4 => h4.clkStep)
  have hs6 : s6.ok := hs5.mapCores (fun _ h5 => h5.idleStep.ite h5)
  have hs7 : s7.ok := hs6
  have hs8 : s8.ok := hs7
  have hold1 : old1.ok := hs8.resendDue
  exact hold1

theorem State.ok.mapRegions {s : State} {f : Region → Region} (h : s.ok) : (s.mapRegions f).ok := h

theorem State.ok.execGtcrateWrite {die : Nat} {value : DWord} {s : State} (h : s.ok) : Out.ok (execGtcrateWrite die value s) :=
  State.ok.out (State.ok.ite (State.ok.mapRegions h) h)

theorem State.ok.execGtcslewWrite {die : Nat} {value : DWord} {s : State} (h : s.ok) : Out.ok (execGtcslewWrite die value s) :=
  State.ok.out (State.ok.ite (State.ok.mapRegions h) h)

theorem State.ok.execGtcstepWrite {die : Nat} {value : DWord} {s : State} (h : s.ok) : Out.ok (execGtcstepWrite die value s) :=
  (h.mapRegions.ite h).out

theorem State.ok.execRateWordSwitch {die : Nat} {east : Bool} {s : State} (h : s.ok) : Out.ok (execRateWordSwitch die east s) := by
  unfold Machine.execRateWordSwitch
  refine State.ok.out ?_
  split
  · exact h.onRegion.ite h
  · exact h

theorem State.ok.execGtcstepApply {die : Nat} {east : Bool} {s : State} (h : s.ok) : Out.ok (execGtcstepApply die east s) :=
  State.ok.out (State.ok.ite (h.onRegion.ite (h.onRegion.foldl (fun _ _ h1 => h1.send))) h)

theorem State.ok.execSlewComplete {s : State} (h : s.ok) : Out.ok (execSlewComplete s) := State.ok.out (State.ok.ite h h)

theorem State.ok.drawStamp {s : State} {port : Nat} (h : s.ok) : (s.drawStamp port).2.ok := by
  unfold State.drawStamp
  dsimp only
  exact h.drawNat

theorem State.ok.correct {s : State} {offset : Int} (h : s.ok) : (s.correct offset).ok := h.mapRegions.ite (State.ok.mapRegions h)

theorem State.ok.servoRate {s : State} (h : s.ok) : s.servoRate.ok := by
  unfold State.servoRate
  split
  next e =>
    have hs := h.drawNat.snd e
    refine State.ok.ite hs ?_
    split
    next w t e2 =>
      have ht : t.ok := hs.drawBits.snd e2
      have hp : ({ t with ptp := { t.ptp with rateWord := w } } : State).ok := ht
      exact hp.mapRegions

theorem State.ok.setAcc {s : State} {on : Bool} (h : s.ok) : (s.setAcc on).ok := h

theorem State.ok.servo {s : State} {offset : Int} (h : s.ok) : (s.servo offset).ok :=
  State.ok.ite (State.ok.setAcc (State.ok.ite h (State.ok.servoRate (State.ok.correct h)))) (State.ok.ite (State.ok.setAcc (State.ok.ite h
      (State.ok.servoRate (State.ok.correct h)))) (State.ok.ite h (State.ok.servoRate (State.ok.correct h))))

theorem State.ok.followUp {s : State} {t : Int} (h : s.ok) : (s.followUp t).ok := by
  unfold State.followUp
  dsimp only
  split
  · exact State.ok.servo h
  · exact h

theorem State.ok.execPtpFrameReceive {f : PtpFrame} {s : State} (h : s.ok) : Out.ok (execPtpFrameReceive f s) := by
  unfold Machine.execPtpFrameReceive
  refine State.ok.out (State.ok.ite h ?_)
  extract_lets _ _ s1
  have hs1 : s1.ok := State.ok.ite h h
  refine State.ok.ite hs1 ?_
  split
  · exact hs1
  · split
    next t e =>
      have ht : t.ok := hs1.drawStamp.snd e
      exact ht
  · exact hs1.followUp
  · exact hs1
  · exact hs1

theorem State.ok.execAnnounceTimeout {s : State} (h : s.ok) : Out.ok (execAnnounceTimeout s) := State.ok.out (h.ite (State.ok.setAcc h))

theorem State.ok.execPtpMessageTransmit {port : Nat} {kind : PtpKind} {s : State} (h : s.ok) : Out.ok (execPtpMessageTransmit port kind s) := by
  unfold Machine.execPtpMessageTransmit
  extract_lets
  refine State.ok.out (State.ok.ite ?_ h)
  split
  next t e =>
    have ht : t.ok := h.drawStamp.snd e
    exact ht

/-! ### Roles: How firmware finds routes: logical coordinates, neighbours, direct and relayed routes, and writing a core's route table and its
image -/

theorem State.ok.writeRoute {s : State} {n : Nat} {e : BitVec 256} (h : s.ok) : (s.writeRoute n e).ok := by
  unfold State.writeRoute
  refine State.ok.ite ((h.onDie.ite h).onCore (fun _ h1 => h1.putRoute)) ?_
  split
  · exact State.ok.mapUpdate ((h.onDie.ite h).onCore (fun _ h2 => h2.putRoute)) (fun _ h3 => h3.mapWrite)
  · exact (h.onDie.ite h).onCore (fun _ h2 => h2.putRoute)

theorem State.ok.writeNeighbours {s : State} (h : s.ok) : s.writeNeighbours.ok := State.ok.ite (h.foldl (fun _ _ h1 => h1.writeRoute)) h

theorem State.ok.writeRoles {s : State} {roles : List (Nat × Int × Int)} (h : s.ok) : (s.writeRoles roles).ok := h.foldl (fun _ _ h1 => h1.writeRoute)

theorem State.ok.startRoutes {s : State} {roles : List (Nat × Int × Int)} (h : s.ok) : (s.startRoutes roles).ok :=
  State.ok.writeRoles (h.writeNeighbours.foldl (fun _ _ h1 => h1.writeRoute.ite h1))

/-! ### Launch: LAUNCH, its request and reply, the launch record and its checks, the queues of a lead dispatch core with their waits, and the
grid-boundary jump -/

theorem State.ok.execLaunch {f : SF} {s : State} (h : s.ok) : Out.ok (execLaunch f s) :=
  State.ok.out (h.once (fun _ h1 _ => State.ok.next (State.ok.release (State.ok.addOp (h1.newId.newId.onGrp (fun _ h2 => h2.effect))))))

theorem State.ok.execLaunchReply {m : LaunchAns} {s : State} (h : s.ok) : Out.ok (execLaunchReply m s) :=
  State.ok.out (State.ok.pump (h.focusCore.atGroup (fun _ h1 => h1.onGrp (fun _ h2 => h2))))

theorem State.ok.askCtx {s : State} {x : TransCtx} {who : WalkFor} {va : Nat} (h : s.ok) : (s.askCtx x who va).ok := h.askWalk

theorem State.ok.copyRead {s : State} {a : LineAcc} {off n : Nat} (h : s.ok) : (s.copyRead a off n).2.ok := by
  unfold State.copyRead
  refine State.ok.iteSnd h ?_
  split
  next e => exact h.lookLine.snd e
  next e =>
    split <;> exact h.lookLine.snd e

theorem State.ok.recordPart {s : State} {x : TransCtx} {who : WalkFor} {va n : Nat} (h : s.ok) : (s.recordPart x who va n).2.ok := by
  unfold State.recordPart
  split
  · exact h
  · exact h
  · refine State.ok.iteSnd h ?_
    refine State.ok.iteSnd h ?_
    split
    · exact h
    · exact h.copyRead
  · exact h

theorem State.ok.recordKnown {s : State} {m : LaunchReq} {parts : List (Nat × Nat)} (h : s.ok) : (s.recordKnown m parts).2.ok := by
  unfold State.recordKnown
  dsimp only
  split
  · exact h
  · exact h.foldl (fun _ _ h1 => h1.askCtx)

theorem State.ok.readRecord {s : State} {m : LaunchReq} {parts : List (Nat × Nat)} (h : s.ok) : (s.readRecord m parts).2.ok := by
  unfold State.readRecord
  split
  next e => exact h.recordKnown.snd e
  next e =>
    dsimp only
    split
    · exact State.ok.raiseNow (State.ok.foldlSnd ((h.recordKnown.snd e).ite (h.recordKnown.snd e).setNow) (fun _ _ h1 => h1.recordPart))
    · exact State.ok.dropOwned (State.ok.raiseNow (State.ok.foldlSnd ((h.recordKnown.snd e).ite (h.recordKnown.snd e).setNow) (fun _ _ h1 =>
        h1.recordPart)))

theorem State.ok.answerLaunch {s : State} {m : LaunchReq} {status lead lid : Nat} (h : s.ok) : (s.answerLaunch m status lead lid).ok := h.send

theorem State.ok.takeRequest {s : State} {die : Nat} {m : LaunchReq} (h : s.ok) : (s.takeRequest die m).ok := h.focusCore.raiseNow

theorem State.ok.stall {s : State} {die : Nat} {i : Instr} (h : s.ok) : (s.stall die i).ok := h.onDie.requestRebase

theorem State.ok.execLaunchRequest {die : Nat} {m : LaunchReq} {s : State} (h : s.ok) : Out.ok (execLaunchRequest die m s) :=
  State.ok.out (h.onTime (fun _ h1 => (by
        refine h1.stall.ite ?_
        refine h1.takeRequest.answerLaunch.ite ?_
        dsimp only
        split
        · exact h1.takeRequest.readRecord.later
        · exact h1.takeRequest.readRecord.answerLaunch
        · exact h1.takeRequest.readRecord.answerLaunch.ite h1.takeRequest.readRecord.send)))

theorem State.ok.execLaunchLeadRequest {die : Nat} {m : LaunchReq} {s : State} (h : s.ok) : Out.ok (execLaunchLeadRequest die m s) :=
  State.ok.out (h.onTime (fun _ h1 => (by
        extract_lets _ s1 r _ _ s3
        have hs1 : s1.ok := h1.takeRequest
        have hr : r.2.ok := hs1.readRecord
        have hs3 : s3.ok := hr.onDie
        refine h1.stall.ite ?_
        split
        · exact hr.later
        · exact hr.answerLaunch
        · split
          · extract_lets
            exact State.ok.send (State.ok.answerLaunch hs3)
          · exact hr.answerLaunch)))

theorem State.ok.onGrid {s : State} {g : GridId} {f : Grid → Grid} (h : s.ok) : (s.onGrid g f).ok := h

theorem State.ok.judgeWait {s : State} {g : Grid} {k : Nat} {w : Nat × DWord} (h : s.ok) : (s.judgeWait g k w).ok := by
  unfold State.judgeWait
  refine h.ite ?_
  split
  · exact h.askCtx
  · exact h
  · exact h.ite (h.raiseNow.onGrid.ite h)

theorem State.ok.judgeWaits {s : State} {lead : Nat} (h : s.ok) : (s.judgeWaits lead).ok :=
  h.foldl (fun _ _ h1 => h1.foldl (fun _ _ h2 => h2.judgeWait))

theorem State.ok.wakeCore {s : State} (h : s.ok) : s.wakeCore.ok := h.ite ⟨h.wf, h.core, h.team, h.grp, h.cores, h.contexts⟩

theorem Core.ok.jump {e : BitVec 2} {rebases : BitVec 32} {j : Nat} {c : Core} (hc : c.ok) : (Core.jump e rebases j c).ok := hc

theorem State.ok.jumpDie {s : State} {d : Nat} (h : s.ok) : (s.jumpDie d).ok :=
  State.ok.noteTick (State.ok.onDie (h.mapCores (fun _ h1 => h1.jump.ite h1)))

theorem State.ok.depart {s : State} {g : Grid} (h : s.ok) : (s.depart g).ok := by
  unfold State.depart
  extract_lets _ s1 _ s2 s3
  have hs1 : s1.ok := h.foldl (fun _ _ h1 => h1.jumpDie)
  have hs2 : s2.ok := hs1.onGrid
  have hs3 : s3.ok := hs2
  exact hs3.dropWalks.foldl (fun _ _ h2 => h2.send)

theorem State.ok.execQueueDepart {die : Nat} {s : State} (h : s.ok) : Out.ok (execQueueDepart die s) := by
  unfold Machine.execQueueDepart
  refine State.ok.out ?_
  split
  · split
    · exact h.focusCore.judgeWaits.depart.send
    · exact State.ok.later (h.focusCore.judgeWaits.foldl (fun _ _ h1 => h1.requestRebase))
  · exact h.focusCore.judgeWaits.later.ite h.focusCore.judgeWaits

theorem State.ok.execLaunchDistribute {die : Nat} {grid : GridId} {s : State} (h : s.ok) : Out.ok (execLaunchDistribute die grid s) :=
  h.onGrid.send.out

theorem State.ok.execSemaphoreNotice {m : SemNotice} {s : State} (h : s.ok) : Out.ok (execSemaphoreNotice m s) :=
  State.ok.out (h.onTime (fun _ h1 => (by
        dsimp only
        split
        · exact h1.focusCore.atGroup (fun _ h2 => h2.semCheck)
        · exact State.ok.send (State.ok.onGrid h1.focusCore.raiseNow))))

/-! ### Resident: Where teams fit: the placement order of cores, free rows, Shelf entries and groups, the cache partition, and the removal of a
team -/

theorem State.ok.setPartition {s : State} {r : LaunchRecord} (h : s.ok) : (s.setPartition r).ok :=
  h.ite (State.ok.foldl (h.onCore (fun _ h1 => h1)) (fun _ _ h2 => h2.evict))

theorem State.ok.seat {s : State} {t : Team} (h : s.ok) (ht : t.ok) : (s.seat t).ok := by
  unfold State.seat
  extract_lets s1 _ clear s2
  have hs1 : s1.ok := h.stowTeam.setPartition
  have hs2 : s2.ok := hs1.onCore (fun _ hc => ⟨hc.store, hc.cRegs, hc.bRegs, forall_mem_cons_of ht hc.teams⟩)
  have hclear : ∀ x : Context, x.team.ok → (clear x).team.ok := fun x hx => by
    dsimp only [clear]
    split <;> exact hx
  exact ⟨hs2.wf, hs2.core, hs2.team, hs2.grp, hs2.cores, forall_mem_map_of hs1.contexts hclear⟩

theorem State.ok.unseat {s : State} {t : TeamId} (h : s.ok) : (s.unseat t).ok :=
  h.stowTeam.dropWalks.onCore (fun _ h1 => ⟨h1.store, h1.cRegs, h1.bRegs, forall_mem_filter_of h1.teams⟩)

theorem State.ok.findTeam {s : State} {t : TeamId} (h : s.ok) : OptOk (fun p => p.2.ok) (s.findTeam t) := OptOk.find h.allTeams

end Sys2Proof.Machine

end

section
/-! SUPPORT. What every step keeps, for pre-emption, the graphics units, routes, the start of teams and walks. -/

namespace Sys2Proof.Machine

/-! ### Preempt: Pre-emption: the decision, drain, flush-and-restart, save and restore, and the control node's requests and answers about them -/

theorem State.ok.gangTeams {s : State} {t : TeamId} (h : s.ok) : ∀ x ∈ s.gangTeams t, x.2.ok := by
  unfold State.gangTeams
  split
  · exact forall_mem_nil_of
  next e => exact forall_mem_ite_of (forall_mem_cons_of (h.findTeam.get e) forall_mem_nil_of) (forall_mem_filter_of h.allTeams)

theorem State.ok.beginPre {s : State} {ts : List TeamId} {mode : Nat} {keep : Bool} {asked : Option Nat} (h : s.ok) :
    (s.beginPre ts mode keep asked).ok :=
  h.stowTeam.mapTeams (fun _ h1 => Team.ok.ite h1 h1) (fun _ _ h2 => h2)

theorem State.ok.askPolicy {s : State} {d : Nat} {t : TeamId} (h : s.ok) : (s.askPolicy d t).ok := h.ite h.onDie.sendUp

theorem State.ok.preempt {s : State} {t : TeamId} {mode : Nat} (h : s.ok) : (s.preempt t mode).ok := by
  unfold State.preempt
  split
  · exact h
  · exact h.ite (h.askPolicy.ite h.beginPre)

theorem State.ok.pmDone {s : State} {asked : Option Nat} (h : s.ok) : (s.pmDone asked).ok := by
  unfold State.pmDone
  split
  · exact h.onDie
  · exact h

theorem State.ok.dropOps {s : State} {p : EngOp → Bool} (h : s.ok) : (s.dropOps p).ok := h.dropWalks.onCore (fun _ h1 => h1)

theorem State.ok.releaseTeam {s : State} {c : CoreId} {t : TeamId} (h : s.ok) : (s.releaseTeam c t).ok := by
  unfold State.releaseTeam
  extract_lets s1 old s2 s3
  have hs1 : s1.ok := h.focusCore.focusTeam
  have hold : old.ok := hs1.team
  have hs2 : s2.ok := ⟨hs1.wf, hs1.core, hold, hs1.grp, hs1.cores, hs1.contexts⟩
  have hs3 : s3.ok := hs2.copyBackAll
  exact State.ok.pump (hs3.onCore (fun _ h1 => h1))

theorem State.ok.flushOut {s : State} {c : CoreId} {x : Team} (h : s.ok) : (s.flushOut c x).ok := State.ok.send h.focusCore.unseat.pmDone

theorem State.ok.flushStep {s : State} {t : TeamId} (h : s.ok) : (s.flushStep t).ok := by
  unfold State.flushStep
  extract_lets ts
  split
  · exact h
  · extract_lets _ s2
    have hs2 : s2.ok := h.focusCore
    exact State.ok.ite (State.ok.releaseTeam (hs2.dropWalks.dropOps.onCore (fun _ h1 => h1)))
      (State.ok.ite (h.foldl (fun _ _ h1 => h1.flushOut)) h)

theorem State.ok.execPreemptDecision {t : TeamId} {mode : Nat} {s : State} (h : s.ok) : Out.ok (execPreemptDecision t mode s) := by
  unfold Machine.execPreemptDecision
  refine State.ok.out ?_
  split
  · exact (h.ite h.flushStep).ite (h.later.ite h.preempt)
  · exact h

theorem State.ok.execDrainBudgetExpiry {t : TeamId} {s : State} (h : s.ok) : Out.ok (execDrainBudgetExpiry t s) := by
  unfold Machine.execDrainBudgetExpiry
  refine State.ok.out ?_
  refine h.ite ?_
  split
  · exact State.ok.ite (h.stowTeam.mapTeams (fun _ h1 => Team.ok.ite h1 h1) (fun _ _ h2 => h2)) h
  · exact h

theorem State.ok.execQuiesceDeadline {t : TeamId} {s : State} (h : s.ok) : Out.ok (execQuiesceDeadline t s) := by
  unfold Machine.execQuiesceDeadline
  refine State.ok.out ?_
  refine h.ite ?_
  split
  · refine State.ok.ite ?_ h
    extract_lets s1 old s2
    have hs1 : s1.ok := h.focusCore.focusTeam
    have hold : old.ok := hs1.team
    have hs2 : s2.ok := ⟨hs1.wf, hs1.core, hold, hs1.grp, hs1.cores, hs1.contexts⟩
    exact hs2.onCore (fun _ h1 => h1)
  · exact h

theorem State.ok.capture {s : State} {c : CoreId} {x : Team} (h : s.ok) (hx : x.ok) : (s.capture c x).ok := by
  unfold State.capture
  extract_lets s1 p k lo ctx s2 s3 s4 s5
  have hs1 : s1.ok := h.focusCore.stowTeam
  have hs2 : s2.ok := hs1.dropOps.unseat
  have hs3 : s3.ok := hs2.onCore (fun _ hc => hc)
  have hs4 : s4.ok := hs3.pmDone
  refine State.ok.send ⟨hs4.wf, hs4.core, hs4.team, hs4.grp, hs4.cores, forall_mem_append_of hs4.contexts ?_⟩
  exact List.forall_mem_singleton.mpr hx

theorem State.ok.execSaveCapture {t : TeamId} {s : State} (h : s.ok) : Out.ok (execSaveCapture t s) := by
  unfold Machine.execSaveCapture
  extract_lets ts _
  refine State.ok.out (State.ok.ite h ?_)
  split
  · split
    · exact h
    · exact State.ok.ite h (State.ok.ite (State.ok.ite (h.foldl (fun _ _ h1 => h1.releaseTeam)) h)
        (State.ok.ite (h.foldlMem h.gangTeams (fun _ _ h1 hx => h1.capture hx)) h))
  · exact h

theorem State.ok.execContextTransferDone {t : TeamId} {s : State} (h : s.ok) : Out.ok (execContextTransferDone t s) := by
  unfold Machine.execContextTransferDone
  refine State.ok.out ?_
  split
  · exact h
  · refine State.ok.send ⟨h.wf, h.core, h.team, h.grp, h.cores, forall_mem_map_of h.contexts (fun _ hy => ?_)⟩
    split <;> exact hy

theorem Team.ok.moved {x : Team} {t : TeamId} {old new : CoreId} {first : Bool} (hx : x.ok) : (x.moved t old new first).ok := hx

theorem State.ok.tellMoved {s : State} {t : TeamId} {old new : CoreId} {first : Bool} (h : s.ok) : (s.tellMoved t old new first).ok := by
  unfold State.tellMoved
  extract_lets _ s1
  have hs1 : s1.ok := h.stowTeam.mapTeams (fun _ h1 => h1.moved.ite h1) (fun _ _ h2 => h2)
  exact ⟨hs1.wf, hs1.core, hs1.team, hs1.grp, hs1.cores, forall_mem_map_of hs1.contexts (fun _ h3 => h3.moved.ite h3)⟩

theorem State.ok.copyImage {s : State} {x : Context} {base : Nat} (h : s.ok) : (s.copyImage x base).ok :=
  h.onCore (fun _ hc => ⟨Memory.wf_foldl (Memory.wf_filter hc.store) (fun _ _ hk => Memory.wf_write _ _ hk), hc.cRegs, hc.bRegs, hc.teams⟩)

theorem State.ok.rewait {s : State} (h : s.ok) : s.rewait.ok := by
  unfold State.rewait
  split
  · exact h.semRead
  · exact h

theorem State.ok.resumeGroup {s : State} (h : s.ok) : s.resumeGroup.ok := by
  unfold State.resumeGroup
  dsimp only
  split
  · exact State.ok.ite (h.rewait.onGrp (fun _ h1 => Group.ok.ready h1)) h.rewait.poll
  · exact State.ok.send (State.ok.ite (State.ok.onGrp (State.ok.ite (h.rewait.onGrp (fun _ h1 => Group.ok.ready h1)) h.rewait.poll) (fun _ h2 =>
      h2)) (State.ok.ite (h.rewait.onGrp (fun _ h3 => Group.ok.ready h3)) h.rewait.poll))

theorem State.ok.applyKept {s : State} {x : Context} (h : s.ok) : (s.applyKept x).ok :=
  State.ok.foldl h (fun _ _ h1 => h1.raiseNow.eachGroup (fun _ h2 => h2.clearWait))

theorem State.ok.reissue {s : State} {ep : BitVec 2} {missed : Nat} {o : EngOp} (h : s.ok) : (s.reissue ep missed o).ok :=
  State.ok.ite (State.ok.nextPacket (h.onCore (fun _ h1 => h1))) (State.ok.wakeEng (h.onCore (fun _ h2 => h2)))

theorem State.ok.restore {s : State} {x : Context} {core : CoreId} {base : Nat} (h : s.ok) (hx : x.team.ok) : (s.restore x core base).ok := by
  unfold State.restore
  extract_lets _ _ old s1
  have hold : old.ok := h.focusCore
  have hs1 : s1.ok := ⟨hold.wf, hold.core, hold.team, hold.grp, hold.cores, forall_mem_filter_of h.contexts⟩
  split
  next e =>
    extract_lets _ _ team1 s9 s10 s11 s12 s13 s14
    have hteam1 : team1.ok := forall_mem_map_of hx.groups (fun _ h1 => h1)
    have hs9 : s9.ok := ((hs1.newId.snd e).writeRoles.seat hteam1).copyImage
    have hs10 : s10.ok := hs9.onCore (fun _ h2 => h2)
    have hs11 : s11.ok := hs10.raiseNow
    have hs12 : s12.ok := State.ok.tellMoved (hs11.mapCores (fun _ h3 => h3))
    have hs13 : s13.ok := hs12.foldl (fun _ _ h4 => h4.focusTeam.reissue)
    have hs14 : s14.ok := hs13.applyKept.pump
    exact hs14.foldl (fun _ _ h5 => h5.atGroup (fun _ h6 => h6.resumeGroup))

theorem State.ok.execRestore {t : TeamId} {core : CoreId} {s : State} (h : s.ok) : Out.ok (execRestore t core s) := by
  unfold Machine.execRestore
  refine State.ok.out ?_
  split
  · exact h
  next x e =>
    have hx : x.team.ok := h.contexts _ (List.mem_of_find?_eq_some e)
    split
    · exact h
    · exact h.restore hx

theorem State.ok.execPmreqGo {die : Nat} {value : DWord} {s : State} (h : s.ok) : Out.ok (execPmreqGo die value s) := by
  unfold Machine.execPmreqGo
  refine State.ok.out ?_
  refine h.ite ?_
  dsimp only
  split
  · exact h.onDie.onDie
  · exact h.onDie.beginPre.beginPre

theorem State.ok.execPmreqResume {die : Nat} {value : DWord} {s : State} (h : s.ok) : Out.ok (execPmreqResume die value s) := by
  unfold Machine.execPmreqResume
  refine State.ok.out (State.ok.ite h ?_)
  extract_lets t ranks s1 s2 back s3
  have hs1 : s1.ok := h.onDie
  have hs2 : s2.ok := by
    refine ⟨hs1.wf, hs1.core, hs1.team, hs1.grp, hs1.cores, forall_mem_map_of hs1.contexts (fun _ hx => ?_)⟩
    split <;> exact hx
  have hs3 : s3.ok := hs2.onGrid
  split
  · exact hs3.foldl (fun _ _ h1 => h1.send)
  · exact hs3

theorem State.ok.execPmreplyWrite {die : Nat} {value : DWord} {s : State} (h : s.ok) : Out.ok (execPmreplyWrite die value s) := by
  unfold Machine.execPmreplyWrite
  refine State.ok.out ?_
  refine h.ite ?_
  split
  · exact h
  · exact h.onDie.send

theorem State.ok.takeReply {s : State} {v : Word} (h : s.ok) : (s.takeReply v).ok := by
  unfold State.takeReply
  split
  · exact h.writeS.wake
  · exact h

theorem State.ok.execScreplyWrite {die : Nat} {value : DWord} {s : State} (h : s.ok) : Out.ok (execScreplyWrite die value s) := by
  unfold Machine.execScreplyWrite
  refine State.ok.out ?_
  split
  · exact h
  · exact h.focusCore.atGroup (fun _ h1 => h1.takeReply)

/-! ### Unit: Graphics units: what a unit reads at the homes, feedback, and how an operation issues and ends -/

theorem State.ok.onUnit {s : State} {id : Nat} {f : UnitOp → UnitOp} (h : s.ok) : (s.onUnit id f).ok := h.onCore (fun _ h1 => h1)

theorem State.ok.issueUnit {s : State} {o : UnitOp} {rows : List Nat} {after : Nat} (h : s.ok) : (s.issueUnit o rows after).ok :=
  State.ok.ite (State.ok.send (State.ok.onGrp (h.newId.onCore (fun _ h1 => h1)) (fun _ h2 => h2))) (State.ok.later (State.ok.onGrp (h.newId.onCore
      (fun _ h3 => h3)) (fun _ h4 => h4)))

theorem State.ok.landUnit {s : State} {o : UnitOp} (h : s.ok) : (s.landUnit o).ok :=
  State.ok.pump (State.ok.onGrp (State.ok.raise (State.ok.foldl (State.ok.writeLanes (State.ok.foldl (State.ok.dropOwned (State.ok.raiseNow
      (h.onCore (fun _ h1 => h1)))) (fun _ _ h2 => h2.onCore (fun _ h3 => h3.setBytes)))) (fun _ _ h4 => h4.setElem))) (fun _ h5 => h5))

theorem State.ok.unitWrite {s : State} {o : UnitOp} {ws : List EngWrite} (h : s.ok) : (s.unitWrite o ws).2.ok :=
  State.ok.foldlSnd h (fun _ _ h1 => h1.engWrite)

theorem State.ok.appendStep {s : State} {o : UnitOp} {base size count : Nat} {f : Feedback} {rest : List Feedback} (h : s.ok) :
    (s.appendStep o base size count f rest).ok := by
  unfold State.appendStep
  split
  · refine UnitGo.ok.ite h ?_
    split
    · trivial
    · trivial
    · exact h
    · exact UnitGo.ok.ite trivial h.engAtomic
  · refine UnitGo.ok.ite h ?_
    dsimp only
    split
    · trivial
    · refine UnitGo.ok.ite h ?_
      split
      · trivial
      · exact h.unitWrite

theorem State.ok.onceRead {s : State} {g : UnitGot} {vas : List Nat} {k : State → State} (h : s.ok) (hk : ∀ a0, a0.ok → (k a0).ok) :
    (s.onceRead g vas k).ok := by
  unfold State.onceRead
  split
  · exact h.askWalks.waitBefore
  · exact h.askWay.waitBefore
  · exact hk _ h.dropHeld.useLines
  · exact hk _ h.dropHeld

theorem State.ok.issueDesc {s : State} {desc : Nat} {o : UnitOp} {rows : List Nat} {k : State → State} (h : s.ok) (hk : ∀ a0, a0.ok → (k a0).ok) :
    (s.issueDesc desc o rows k).ok :=
  h.onceRead (fun _ h1 => hk _ h1.issueUnit)

theorem State.ok.unitLanes {s : State} {i : Instr} {f : GF} {us : List Use} {area : Option Use} {op : UnitOp} {reads : Bool} (h : s.ok) :
    (s.unitLanes i f us area op reads).ok :=
  h.frame (fun _ h1 => h1.next.ite (h1.proceed.ite (State.ok.ite (h1.issueDesc (fun _ h2 => h2.proceed)) h1.issueUnit.proceed)))

/-! ### Raster: The pass descriptor, sample positions, and RAST on a quad's edge walker -/

theorem State.ok.withPass {s : State} {k : State → PassRead → State} (h : s.ok) (hk : ∀ a0, a0.ok → ∀ a1, (k a0 a1).ok) : (s.withPass k).ok :=
  h.onceRead (fun _ h1 => hk _ h1 _)

theorem State.ok.rastIssue {s : State} {f : GF} {p : PassDesc} {top : Nat} {ws : List Word} (h : s.ok) : (s.rastIssue f p top ws).ok :=
  h.issueUnit

theorem State.ok.execRast {f : GF} {s : State} (h : s.ok) : Out.ok (execRast f s) :=
  State.ok.out (h.frame (fun _ h1 => h1.next.ite (h1.trapActive.ite (h1.withPass (fun _ h2 _ => (by
                dsimp only
                split
                · exact h2.trapActive
                · exact h2.trapActive.ite h2.rastIssue.next))))))

/-! ### Binner: Render passes: primitive packets, draw closes, the binner of a die and BINGET -/

theorem State.ok.withMap {s : State} {k : State → PassRead → Option (PassDesc × List Nat) → State} (h : s.ok) (hk : ∀ a0, a0.ok → ∀ a1, ∀ a2, (k a0
    a1 a2).ok) : (s.withMap k).ok := by
  unfold State.withMap
  dsimp only
  split
  · exact h.onceRead (fun _ h1 => hk _ h1 _ _)
  · split <;> exact h.onceRead (fun _ h1 => hk _ h1 _ _)

theorem State.ok.onPass {s : State} {d : Nat} {g : GridId} {f : Pass → Pass} (h : s.ok) : (s.onPass d g f).ok := h.onDie

theorem State.ok.evictFor {s : State} {d ways : Nat} (h : s.ok) : (s.evictFor d ways).ok := h.foldl (fun _ _ h1 => h1.evictHome.ite h1)

theorem State.ok.waysBack {s : State} {d : Nat} (h : s.ok) : (s.waysBack d).ok := State.ok.requeue h

theorem State.ok.openPass {s : State} {p : PassDesc} {map : List Nat} {g : GridId} {d : Nat} (h : s.ok) : (s.openPass p map g d).ok :=
  h.ite (h.onDie.ite h.onDie.evictFor)

theorem State.ok.endServing {s : State} {d : Nat} (h : s.ok) : (s.endServing d).ok := h.onDie.waysBack

theorem State.ok.closeIfDone {s : State} {d : Nat} {g : GridId} (h : s.ok) : (s.closeIfDone d g).ok := h.onPass.endServing.ite h

theorem State.ok.closePass {s : State} {g : GridId} (h : s.ok) : (s.closePass g).ok :=
  h.foldl (fun _ _ h1 => (h1.onDie.endServing.ite h1.onDie).ite h1)

theorem State.ok.abandon {s : State} {t : TeamId} (h : s.ok) : (s.abandon t).ok := h

theorem State.ok.binArrive {s : State} {d : Nat} {g : GridId} {m : Instr} (h : s.ok) : (s.binArrive d g m).ok := h.onPass

theorem State.ok.execBinnerPacketArrive {m : BinMsg} {s : State} (h : s.ok) : Out.ok (execBinnerPacketArrive m s) :=
  State.ok.out (h.onTime (fun _ h1 => h1.binArrive))

theorem State.ok.execBinnerCloseArrive {m : CloseMsg} {s : State} (h : s.ok) : Out.ok (execBinnerCloseArrive m s) := h.binArrive.out

theorem State.ok.sendPackets {s : State} {p : PassDesc} {m : List Nat} {msgs : List (Nat × PrimPacket)} {nv : Bool} (h : s.ok) :
    (s.sendPackets p m msgs nv).ok :=
  State.ok.release (State.ok.onGrp (State.ok.raise (h.foldl (fun _ _ h1 => h1.openPass))) (fun _ h2 => h2.effect))

theorem State.ok.binput {s : State} {f : GF} (h : s.ok) : (s.binput f).ok :=
  h.withMap (fun _ h1 _ _ => (by
        refine State.ok.proceed ?_
        split
        · exact h1.ite h1.sendPackets
        · exact h1))

theorem State.ok.sendClose {s : State} {p : PassDesc} {m : List Nat} {draw : Nat} (h : s.ok) : (s.sendClose p m draw).ok := by
  unfold State.sendClose
  extract_lets _ _ s1 old s2
  have hs1 : s1.ok := h.foldl (fun _ _ h1 => h1.openPass)
  have hold : old.ok := hs1.team
  have hs2 : s2.ok := ⟨hs1.wf, hs1.core, hold, hs1.grp, hs1.cores, hs1.contexts⟩
  exact State.ok.release (hs2.onGrp (fun _ h2 => h2.effect))

theorem State.ok.binClose {s : State} {f : GF} (h : s.ok) : (s.binClose f).ok :=
  h.trapActive.ite (h.withMap (fun _ h1 _ _ => (by
          split
          · exact h1.trapActive
          · exact h1.trapActive.ite h1.sendClose.next)))

theorem State.ok.execBinput {f : GF} {s : State} (h : s.ok) : Out.ok (execBinput f s) :=
  State.ok.out (h.access (fun _ h1 => h1.binClose.ite h1.binput))

theorem State.ok.bingetIssue {s : State} {f : GF} {r : PassRead} {p : PassDesc} {m : List Nat} {named : Nat} (h : s.ok) :
    (s.bingetIssue f r p m named).ok :=
  h.openPass.issueUnit

theorem State.ok.execBinget {f : GF} {s : State} (h : s.ok) : Out.ok (execBinget f s) :=
  State.ok.out (h.access (fun _ h1 => h1.trapActive.ite (h1.withMap (fun _ h2 _ _ => (by
              split
              · exact h2.trapActive
              · exact h2.trapActive.ite (h2.trapActive.ite h2.bingetIssue.next))))))

theorem State.ok.slotIn {s : State} {o : UnitOp} {p : PassDesc} {ls : List (Except Status (Option (Nat × Bool)))} (h : s.ok) :
    (s.slotIn o p ls).2.ok :=
  State.ok.foldlSnd h (fun _ _ h1 => (by
        split
        · exact h1.foldl (fun _ _ h2 => h2.onCore (fun _ h3 => h3.setBytes))
        · exact h1.onCore (fun _ h2 => h2.setBytes)
        · exact h1))

theorem State.ok.slotOut {s : State} {o : UnitOp} {p : PassDesc} {t : BinTile} {ls : List (Except Status (Option (Nat × Bool)))} (h : s.ok) :
    (s.slotOut o p t ls).2.ok :=
  State.ok.foldlSnd h (fun _ _ h1 => (by
        split
        · exact h1.engWrite
        · exact h1))

theorem State.ok.onTile {s : State} {d : Nat} {g : GridId} {t : Nat} {f : BinTile → BinTile} (h : s.ok) : (s.onTile d g t f).ok := h.onPass

theorem State.ok.bingetStatus {s : State} {o : UnitOp} {status : Nat} {fresh resumed : Bool} {tile : Nat} (h : s.ok) :
    (s.bingetStatus o status fresh resumed tile).ok :=
  h

theorem State.ok.bingetHeld {s : State} {o : UnitOp} {p : PassDesc} {x : Pass} {t : BinTile} {fresh resumed : Bool} (h : s.ok) :
    (s.bingetHeld o p x t fresh resumed).ok := by
  unfold State.bingetHeld
  dsimp only
  split
  · exact h.onPass.onTile.raiseHorizon.acquire
  · refine h.onTile.closeIfDone.bingetStatus.ite ?_
    split
    · exact trivial
    · exact trivial
    · exact trivial
    · exact h.slotOut.onTile.onPass.bingetStatus

theorem State.ok.bingetGo {s : State} {o : UnitOp} {named : Nat} (h : s.ok) : (s.bingetGo o named).ok := by
  unfold State.bingetGo
  dsimp only
  split
  · exact h.bingetStatus
  · split
    · exact h.bingetHeld.ite h.bingetStatus
    · split
      · exact h.drawBits.bingetStatus
      · split
        · exact h.bingetStatus
        · exact h.bingetStatus
        · exact h.bingetStatus
        · exact h.bingetStatus
        · exact h.bingetStatus
        · refine h.onTile.bingetHeld.ite ?_
          split
          · exact trivial
          · exact trivial
          · exact trivial
          · exact h.slotIn.onTile.bingetHeld

/-! ### Mesh: Writes of route entries, failures of routers and links, rebuilt routes, and packets that a failure stops -/

theorem State.ok.failRoute {s : State} {m : Instr} (h : s.ok) : (s.failRoute m).ok := by
  unfold State.failRoute
  split
  · exact h.send
  · exact h.farDone
  · exact h.farWord
  · exact h.send
  · exact h

theorem State.ok.loseRequest {s : State} {ref : Nat} (h : s.ok) : (s.loseRequest ref).ok :=
  h.foldl (fun _ _ h1 => h1.onOp.foldl (fun _ _ h2 => h2.drawBits.lateTrap))

theorem State.ok.failRequest {s : State} {c : CoreId} {ref : Nat} (h : s.ok) : (s.failRequest c ref).ok :=
  h.atCore (fun _ h1 => State.ok.pump (State.ok.eachGroup (h1.onCore (fun _ h2 => h2)) (fun _ h3 => h3.loseRequest)))

theorem State.ok.onSlot {s : State} {n : Nat} {f : RouteSlot → RouteSlot} (h : s.ok) : (s.onSlot n f).ok := h.onCore (fun _ h1 => h1)

theorem State.ok.drainRoute {s : State} {n : Nat} (h : s.ok) : (s.drainRoute n).ok :=
  State.ok.foldl (h.onCore (fun _ h1 => h1)) (fun _ _ h2 => h2.failRoute.ite h2.send)

theorem State.ok.comeRoute {s : State} {n : Nat} {e : BitVec 256} (h : s.ok) : (s.comeRoute n e).ok :=
  State.ok.send (h.onCore (fun _ h1 => h1.putRoute))

theorem State.ok.execRouteEntryTaken {core : CoreId} {n : Nat} {s : State} (h : s.ok) : Out.ok (execRouteEntryTaken core n s) := by
  unfold Machine.execRouteEntryTaken
  refine State.ok.out ?_
  split
  · exact h.focusCore
  · exact h.focusCore.later.ite h.focusCore.writeRoute.drainRoute

theorem State.ok.execRouteEntryWrite {core : CoreId} {n : Nat} {entry : BitVec 256} {s : State} (h : s.ok) :
    Out.ok (execRouteEntryWrite core n entry s) :=
  (h.ite h.focusCore.comeRoute).out

theorem State.ok.withdraw {s : State} {c : CoreId} (h : s.ok) : (s.withdraw c).ok :=
  h.focusCore.foldl (fun _ _ h1 => h1.onSlot.ite h1.onSlot.comeRoute)

theorem State.ok.withdrawAll {s : State} (h : s.ok) : s.withdrawAll.ok := h.foldl (fun _ _ h1 => h1.withdraw)

theorem State.ok.failLink {s : State} {m : MeshFault} (h : s.ok) : (s.failLink m).ok := h.onDie.withdrawAll

theorem State.ok.execRouterLinkFailure {m : MeshFault} {s : State} (h : s.ok) : Out.ok (execRouterLinkFailure m s) := (h.ite h.failLink).out

theorem State.ok.execRouteRebuildDone {core : CoreId} {entries : List (Nat × BitVec 256)} {s : State} (h : s.ok) :
    Out.ok (execRouteRebuildDone core entries s) :=
  State.ok.out (h.focusCore.foldl (fun _ _ h1 => h1.comeRoute.ite h1))

theorem State.ok.execUndeliverableResponse {m : Resend} {s : State} (h : s.ok) : Out.ok (execUndeliverableResponse m s) := by
  unfold Machine.execUndeliverableResponse
  refine State.ok.out ?_
  refine h.ite ?_
  dsimp only
  split
  · exact h
  · exact State.ok.failRoute h
  · exact h.ite (State.ok.failRequest h)

theorem State.ok.execMeshFlitCrcError {m : MeshFault} {s : State} (h : s.ok) : Out.ok (execMeshFlitCrcError m s) :=
  (h.ite (h.onDie.failLink.ite h.onDie)).out

/-! ### Start: Control messages and fragments, placement of teams and gangs, start waves, the end of teams and grids, and mapping out a die -/

theorem State.ok.placeMessage {s : State} {d p : Nat} {m : ControlMsg} {now : Stamp} (h : s.ok) : (s.placeMessage d p m now).ok := by
  unfold State.placeMessage
  extract_lets base clear n mem s1
  have hs1 : s1.ok := h.onDie
  have hmem : Memory.wf s.unlisted mem = true := Memory.wf_foldl (Memory.wf_filter h.1) (fun _ _ hk => Memory.wf_writeNat _ _ _ hk)
  exact ⟨hmem, hs1.core, hs1.team, hs1.grp, hs1.cores, hs1.contexts⟩

theorem State.ok.arriveMessage {s : State} {d : Nat} {m : ControlMsg} {now : Stamp} (h : s.ok) : (s.arriveMessage d m now).ok := by
  unfold State.arriveMessage
  refine h.sendUp.ite ?_
  split
  · exact h.placeMessage
  · exact h.onDie

theorem State.ok.execControlMessage {die : Nat} {m : ControlMsg} {s : State} (h : s.ok) : Out.ok (execControlMessage die m s) :=
  (h.ite h.arriveMessage.send).out

theorem State.ok.drainPort {s : State} {d : Nat} (h : s.ok) : (s.drainPort d).ok := by
  unfold State.drainPort
  split
  · exact h
  · exact h.ite h.onDie.arriveMessage

theorem Team.ok.fragmentTeam {d p : Nat} {x : TransCtx} : (fragmentTeam d p x).ok := forall_mem_cons_of (show 1 ≤ 32 by decide) forall_mem_nil_of

theorem State.ok.execFragmentStart {die : Nat} {s : State} (h : s.ok) : Out.ok (execFragmentStart die s) := by
  unfold Machine.execFragmentStart
  refine State.ok.out ?_
  refine h.focusCore.drainPort.ite ?_
  split
  · exact h.focusCore.drainPort
  · exact State.ok.onGrp (State.ok.focusGroup (State.ok.raiseNow (h.focusCore.drainPort.onDie.unseat.onCore (fun _ h1 => ⟨h1.store, h1.cRegs,
      h1.bRegs, forall_mem_cons_of Team.ok.fragmentTeam h1.teams⟩)))) (fun _ h2 => h2.ready)

theorem State.ok.execDispatchFailover {die : Nat} {s : State} (h : s.ok) : Out.ok (execDispatchFailover die s) :=
  (h.ite (h.onDie.focusCore.focusGroup.endFragment.ite h.onDie.focusCore)).out

theorem Group.ok.freshGroup {r : LaunchRecord} {g : Nat} : (freshGroup r g).ok := Nat.le_of_eq (List.length_replicate (n := 32))

theorem Team.ok.freshTeam {g : Grid} {rank base placed : Nat} : (freshTeam g rank base placed).ok :=
  forall_mem_map_of (fun _ _ => trivial) (fun _ _ => Group.ok.freshGroup)

theorem State.ok.placeFresh {s : State} {g : Grid} {rank : Nat} (h : s.ok) : OptOk (fun p => p.2.ok) (s.placeFresh g rank) := by
  unfold State.placeFresh
  split
  · exact trivial
  · split
    · exact trivial
    · exact (h.newId.focusCore.seat Team.ok.freshTeam).onGrid

theorem State.ok.placeAllFresh {s : State} {g : Grid} {rs : List Nat} (h : s.ok) : OptOk (fun p => p.2.ok) (s.placeAllFresh g rs) := by
  induction rs generalizing s with
  | nil => exact h
  | cons r rs ih =>
    unfold State.placeAllFresh
    exact OptOk.bind h.placeFresh (fun x hx => OptOk.bind (ih hx) (fun y hy => hy))

theorem State.ok.placeCand {s : State} {c : Cand} (h : s.ok) : OptOk (fun p => p.2.ok) (s.placeCand c) := by
  unfold State.placeCand
  exact OptOk.bind h.placeAllFresh (fun x hx => OptOk.bind OptOk.any (fun r _ => State.ok.foldl hx (fun _ _ h1 => h1.send)))

theorem State.ok.without {s : State} {ts : List (CoreId × Team)} (h : s.ok) : (s.without ts).ok := h.foldl (fun _ _ h1 => h1.focusCore.unseat)

theorem State.ok.makeRoom422 {s : State} {c : Cand} {vs : List (CoreId × Team)} {t : State} (h : s.ok) :
    OptOk State.ok (s.makeRoom422 c vs t) := by
  induction vs generalizing s t with
  | nil => trivial
  | cons v vs ih =>
    unfold State.makeRoom422
    exact OptOk.ite (State.ok.preempt h) (ih h.preempt)

theorem State.ok.giveWay {s : State} {d : Nat} {c : Cand} (h : s.ok) : (s.giveWay d c).ok := State.ok.ite h (State.ok.getD h.makeRoom422 h)

theorem State.ok.placeRound {s : State} {d n : Nat} {acc : List (CoreId × GridId)} (h : s.ok) : (s.placeRound d n acc).2.ok := by
  induction n generalizing s acc with
  | zero => exact h
  | succ n ih =>
    unfold State.placeRound
    split
    · exact h
    · split
      · exact h.giveWay
      next e =>
        have ht := h.placeCand.get e
        exact State.ok.iteSnd (ih ht) (State.ok.send ht)

theorem State.ok.sendStarts {s : State} {placed : List (CoreId × GridId)} (h : s.ok) : (s.sendStarts placed).ok :=
  h.foldl (fun _ _ h1 => State.ok.ite (State.ok.send (h1.mapTeams (fun _ h2 => Team.ok.ite h2 h2) (fun _ _ h3 => h3))) (State.ok.later (h1.mapTeams
      (fun _ h4 => Team.ok.ite h4 h4) (fun _ _ h5 => h5))))

theorem State.ok.execTeamPlacement {die : Nat} {s : State} (h : s.ok) : Out.ok (execTeamPlacement die s) :=
  (h.ite h.stowTeam.placeRound.stowTeam.sendStarts).out

theorem Core.ok.clearRows {c : Core} {base rows : Nat} (hc : c.ok) : (c.clearRows base rows).ok :=
  ⟨Memory.wf_filter hc.store, hc.cRegs, hc.bRegs, hc.teams⟩

theorem State.ok.startGroup {s : State} {late : Bool} (h : s.ok) : (s.startGroup late).ok :=
  State.ok.ite (State.ok.onGrp (h.setElem.setElem.onGrp (fun _ h1 => h1)) (fun _ h2 => h2)) (State.ok.settle (State.ok.onGrp
      (h.setElem.setElem.onGrp (fun _ h3 => h3)) (fun _ h4 => h4)))

theorem Core.ok.clearRecords {c : Core} (hc : c.ok) : c.clearRecords.ok := Core.ok.ite ⟨hc.store, hc.cRegs, rfl, hc.teams⟩ hc

theorem State.ok.startTeam {s : State} {t : Team} {late : Bool} (h : s.ok) : (s.startTeam t late).ok :=
  State.ok.foldl (State.ok.focusTeam (h.onCore (fun _ h1 => h1.clearRows.clearRecords))) (fun _ _ h2 => h2.focusGroup.startGroup)

theorem State.ok.execStartMessage {core : CoreId} {grid : GridId} {s : State} (h : s.ok) : Out.ok (execStartMessage core grid s) := by
  unfold Machine.execStartMessage
  extract_lets s1 _ s2
  have hs1 : s1.ok := h.focusCore.stowTeam
  refine State.ok.out ?_
  split
  · exact hs1
  next t ts _ =>
    extract_lets s3 s4
    have hs3 : s3.ok := hs1.wakeCore.startRoutes
    have hs4 : s4.ok := hs3.foldl (fun _ _ h1 => h1.startTeam)
    exact State.ok.ite hs4.send hs4

theorem State.ok.execLaunchStartTime {core : CoreId} {grid : GridId} {s : State} (h : s.ok) : Out.ok (execLaunchStartTime core grid s) :=
  State.ok.out (h.focusCore.eachGroup (fun _ h1 => (by
        split
        · exact State.ok.ite (State.ok.settle (h1.onGrp (fun _ h2 => h2))) h1
        · exact h1)))

theorem State.ok.leaveObjects {s : State} (h : s.ok) : s.leaveObjects.ok :=
  h.eachOf (fun _ h1 => State.ok.groupLeaves (h1.onGrp (fun _ h2 => h2)))

theorem State.ok.sendLeaves {s : State} {t : Team} (h : s.ok) : (s.sendLeaves t).ok := h.foldl (fun _ _ h1 => h1.sendRoute)

theorem State.ok.endTeam {s : State} {t : Team} (h : s.ok) : (s.endTeam t).ok :=
  (h.unseat.abandon.pmDone.sendLeaves.onGrid.send.ite h.unseat.abandon.pmDone.sendLeaves.onGrid).send

theorem State.ok.execTeamEnd {core : CoreId} {t : TeamId} {s : State} (h : s.ok) : Out.ok (execTeamEnd core t s) := by
  unfold Machine.execTeamEnd
  extract_lets s1 s2
  have hs1 : s1.ok := h.focusCore
  have hs2 : s2.ok := State.ok.wakeControl (hs1.focusTeam.leaveObjects.eachGroup (fun _ h1 => h1.poll))
  refine State.ok.out (State.ok.ite hs1 ?_)
  split
  · exact hs2
  · extract_lets s3
    have hs3 : s3.ok := hs2.foldl (fun _ _ h1 => h1.send)
    exact State.ok.ite hs3.endTeam hs3

theorem Core.ok.drop {g : GridId} {c : Core} (hc : c.ok) : (Core.drop g c).ok := ⟨hc.store, hc.cRegs, hc.bRegs, forall_mem_filter_of hc.teams⟩

theorem State.ok.clearKilled {s : State} {g : GridId} (h : s.ok) : (s.clearKilled g).ok := by
  unfold State.clearKilled
  extract_lets s1 _ s2
  have hs1 : s1.ok := h.stowTeam
  have hs2 : s2.ok := hs1.dropWalks
  exact ⟨hs2.wf, hs2.core.drop, hs2.team, hs2.grp, forall_mem_map_of hs2.cores (fun _ h1 => h1.drop), forall_mem_filter_of hs2.contexts⟩

theorem State.ok.endRelease {s : State} {g : GridId} {c : CoreId} (h : s.ok) : (s.endRelease g c).ok :=
  State.ok.pump (h.focusCore.copyBackAll.onCore (fun _ h1 => h1))

theorem State.ok.closeEpochs {s : State} {g : GridId} (h : s.ok) : (s.closeEpochs g).ok :=
  State.ok.foldl h (fun _ _ h1 => (by
        dsimp only
        split
        · exact h1.setSector.ite h1.setSector.putHome.wayFreed
        · exact h1.setSector))

theorem State.ok.signal {s : State} {g : Grid} {x : Nat × DWord} (h : s.ok) : (s.signal g x).ok := by
  unfold State.signal
  split
  · exact h.ite h.engAtomic.raiseNow
  · exact h

theorem State.ok.endMessage {s : State} {g : GridId} {kind : BitVec 5} {detail : BitVec 8} (h : s.ok) : (s.endMessage g kind detail).ok :=
  h.sendUp

theorem State.ok.forget {s : State} {g : GridId} (h : s.ok) : (s.forget g).ok := h

theorem State.ok.withKills {s : State} {ks : List (GridId × BitVec 5 × BitVec 8)} (h : s.ok) : ({ s with kills := ks } : State).ok := h

theorem State.ok.finishGrid {s : State} {x : Grid} (h : s.ok) : (s.finishGrid x).ok := by
  unfold State.finishGrid
  extract_lets _ _ s1 s2 s3 s4 s5
  have hs1 : s1.ok := h.closeEpochs.closePass
  have hs2 : s2.ok := State.ok.ite hs1.withKills hs1
  have hs3 : s3.ok := hs2.focusCore
  have hs4 : s4.ok := hs3.raiseNow
  have hs5 : s5.ok := hs4.foldl (fun _ _ h1 => h1.jumpDie)
  split
  · exact State.ok.forget (State.ok.endMessage (hs3.foldl (fun _ _ h1 => h1.jumpDie)))
  · refine State.ok.ite (State.ok.later (hs4.foldl (fun _ _ h1 => State.ok.ite h1.askCtx h1))) ?_
    exact State.ok.forget (State.ok.dropWalks (hs5.foldl (fun _ _ h1 => h1.signal)))

theorem State.ok.execGridEnd {grid : GridId} {s : State} (h : s.ok) : Out.ok (execGridEnd grid s) := by
  unfold Machine.execGridEnd
  refine State.ok.out ?_
  split
  · split
    · exact h.clearKilled.endMessage.forget
    · exact h
  · split
    · exact h.ite ((h.clearKilled.ite h).onGrid.send.ite ((h.clearKilled.ite h).onGrid.foldl (fun _ _ h1 => h1.endRelease)))
    · split
      · exact h.finishGrid
      · exact State.ok.later (h.foldl (fun _ _ h1 => h1.requestRebase))
    · exact h

theorem State.ok.execDieMapOut {die : Nat} {s : State} (h : s.ok) : Out.ok (execDieMapOut die s) := by
  unfold Machine.execDieMapOut
  refine State.ok.out ?_
  refine h.ite ?_
  extract_lets s1 _ s2 _ _ s3 old s4
  have hs1 : s1.ok := h.stowTeam
  have hs2 : s2.ok := hs1.without
  have hs3 : s3.ok := ⟨hs2.wf, hs2.core, hs2.team, hs2.grp, hs2.cores, forall_mem_filter_of hs2.contexts⟩
  have hold : old.ok := hs3.onDie
  have hs4 : s4.ok := State.ok.withdrawAll (State.ok.publishTree (hold.mapUpdate (fun _ h1 => h1.blankBlock)))
  exact hs4.foldl (fun _ _ h2 => h2.send)

/-! ### Walk: Page walks and the page service, invalidation of translations, rebase and sweep, replicated pages, retention, handler entry, parity
and scrubbing -/

theorem State.ok.dropOne {α : Type} {s : State} {l : List α} {n : Nat} (h : s.ok) : (s.dropOne l n).2.ok := by
  unfold State.dropOne
  split
  · exact h
  · exact State.ok.drawNat (n := l.length) h

theorem State.ok.cacheEntry {s : State} {d : Nat} {w : WalkEntry} (h : s.ok) : (s.cacheEntry d w).ok := h.dropOne.onDie

theorem State.ok.cacheLeaf {s : State} {l : Leaf} (h : s.ok) : (s.cacheLeaf l).ok :=
  State.ok.ite (h.dropOne.onCore (fun _ h1 => h1)) (State.ok.onCluster (State.ok.dropOne (h.dropOne.onCore (fun _ h2 => h2))))

theorem State.ok.walksDone {s : State} {who : WalkFor} (h : s.ok) : (s.walksDone who).ok := by
  unfold State.walksDone
  refine h.ite ?_
  split
  · exact h.atCore (fun _ h1 => h1.atGroup (fun _ h2 => h2.poll))
  · exact h.wakeEng
  · exact h.send
  · exact h
  · exact h

theorem State.ok.endWalk {s : State} {m : WalkReq} {o : WalkOut} (h : s.ok) : (s.endWalk m o).ok := by
  unfold State.endWalk
  refine State.ok.walksDone ?_
  split
  · exact State.ok.cacheLeaf (h.onDie.nextWalk.focusCore.onCore (fun _ h1 => h1))
  · exact h.onDie.nextWalk.focusCore.onCore (fun _ h1 => h1)

theorem State.ok.askService {s : State} {w : Walking} (h : s.ok) : (s.askService w).ok := by
  unfold State.askService
  refine h.send.ite ?_
  split
  · exact h.onDie
  · exact h.onDie.sendUp

theorem State.ok.walkOn {s : State} {w : Walking} (h : s.ok) : (s.walkOn w).ok := by
  unfold State.walkOn
  dsimp only
  split
  · exact h.endWalk
  · exact h.endWalk.ite h.askService
  · exact h.cacheEntry.onDie.send

theorem State.ok.shareRead {s : State} {w : Walking} (h : s.ok) : (s.shareRead w).ok := State.ok.requeue h

theorem State.ok.execWalkComplete {m : WalkReq} {s : State} (h : s.ok) : Out.ok (execWalkComplete m s) := by
  unfold Machine.execWalkComplete
  refine State.ok.out ?_
  split
  · exact h
  · exact h.askWay.later.ite (h.ite h.useLines).shareRead.walkOn

theorem State.ok.zeroFrame {s : State} {frame size : Nat} (h : s.ok) : (s.zeroFrame frame size).ok := by
  unfold State.zeroFrame
  extract_lets _ s1 s2
  have hs1 : s1.ok := ⟨Memory.wf_filter h.wf, h.core, h.team, h.grp, h.cores, h.contexts⟩
  have hs2 : s2.ok := hs1.foldl (fun _ _ h1 => h1.onSlice)
  exact hs2.foldl (fun _ _ h1 => h1.firmwareStamp)

theorem State.ok.execPageServiceResolve {m : WalkReq} {s : State} (h : s.ok) : Out.ok (execPageServiceResolve m s) := by
  unfold Machine.execPageServiceResolve
  refine State.ok.out ?_
  split
  · exact h
  · refine h.askWay.later.ite ?_
    split
    · refine State.ok.ite ?_ h.endWalk
      dsimp only
      split
      · exact h.onDie.zeroFrame.firmwareWrite.send
      · exact h.onDie.endWalk
    · exact h.send

theorem State.ok.execPagereplyWrite {die : Nat} {value : DWord} {s : State} (h : s.ok) : Out.ok (execPagereplyWrite die value s) :=
  State.ok.out (State.ok.ite (h.onDie.foldl (fun _ _ h1 => h1.send)) (h.onDie.foldl (fun _ _ h2 => h2.endWalk)))

theorem State.ok.execTinvGo {die : Nat} {value : Word} {s : State} (h : s.ok) : Out.ok (execTinvGo die value s) := (h.ite h.onDie.send).out

theorem State.ok.dropRange {s : State} {die : Nat} (h : s.ok) : (s.dropRange die).ok := by
  unfold State.dropRange
  extract_lets _ _ _ s1 s2
  have hs1 : s1.ok := h.mapCores (fun _ h1 => h1.ite h1)
  have hs2 : s2.ok := hs1
  exact hs2.onDie

theorem State.ok.execTinvDone {die : Nat} {s : State} (h : s.ok) : Out.ok (execTinvDone die s) :=
  State.ok.out (h.ite (State.ok.ite (by
        refine State.ok.later ?_
        refine State.ok.onDie ?_
        split
        · exact h
        · exact h.dropRange) (by
        refine State.ok.onDie ?_
        split
        · exact h
        · exact h.dropRange)))

theorem Core.ok.stepEpoch {e : BitVec 2} {c : Core} (hc : c.ok) : (Core.stepEpoch e c).ok := hc

theorem State.ok.wakeDie {s : State} {d : Nat} (h : s.ok) : (s.wakeDie d).ok := h.foldl (fun _ _ h1 => h1.atCore (fun _ h2 => h2.pump))

theorem State.ok.execRebaseStart {die : Nat} {ep : BitVec 2} {s : State} (h : s.ok) : Out.ok (execRebaseStart die ep s) := by
  unfold Machine.execRebaseStart
  refine State.ok.out ?_
  refine h.ite ?_
  extract_lets _ s1 s2 _ s3
  have hs1 : s1.ok := h.mapCores (fun _ h1 => h1.stepEpoch.ite h1)
  have hs2 : s2.ok := hs1.onDie
  have hs3 : s3.ok := hs2
  exact hs3.requeue.send.wakeDie

theorem Core.ok.sweep {e : BitVec 2} {c : Core} (hc : c.ok) : (Core.sweep e c).ok := hc.ite hc

theorem State.ok.execSweepDone {die : Nat} {s : State} (h : s.ok) : Out.ok (execSweepDone die s) := by
  unfold Machine.execSweepDone
  extract_lets _ _ s1 s2 s3 s4
  have hs1 : s1.ok := h
  have hs2 : s2.ok := hs1.mapCores (fun _ h1 => h1.sweep.ite h1)
  have hs3 : s3.ok := hs2.mapGroups (fun _ _ h2 => h2)
  have hs4 : s4.ok := hs3.onDie
  refine State.ok.out ?_
  refine hs4.ite ?_
  split
  · exact hs4.startRebase
  · exact hs4

theorem State.ok.execBrbcmdStart {die : Nat} {value : Word} {s : State} (h : s.ok) : Out.ok (execBrbcmdStart die value s) :=
  (h.ite (h.onDie.ite h.startRebase)).out

theorem State.ok.replCommand {s : State} {die : Nat} {value : Word} {k : ReplPage → State → State} (h : s.ok) (hk : ∀ a0, ∀ a1, a1.ok → (k a0 a1).ok)
    : (s.replCommand die value k).ok := by
  unfold State.replCommand
  refine h.ite ?_
  refine h.onDie.onDie.ite ?_
  split
  · exact h.onDie.onDie
  · exact hk _ _ h.onDie

theorem State.ok.onRepl {s : State} {die frame : Nat} {f : ReplPage → ReplPage} (h : s.ok) : (s.onRepl die frame f).ok := h.onDie

theorem State.ok.execRplcmdTeardown {die : Nat} {value : Word} {s : State} (h : s.ok) : Out.ok (execRplcmdTeardown die value s) :=
  State.ok.out (h.replCommand (fun _ _ h1 => h1.onRepl.ite (h1.onRepl.onDie.foldl (fun _ _ h2 => h2.send))))

theorem State.ok.execRplcmdClearDown {die : Nat} {value : Word} {s : State} (h : s.ok) : Out.ok (execRplcmdClearDown die value s) :=
  State.ok.out (h.replCommand (fun _ _ h1 => h1.onRepl))

theorem State.ok.execCoreRetentionEntry {core : CoreId} {s : State} (h : s.ok) : Out.ok (execCoreRetentionEntry core s) :=
  State.ok.out (State.ok.ite (h.focusCore.stowTeam.onCore (fun _ h1 => h1)) h.focusCore.stowTeam)

theorem State.ok.execCoreRetentionWake {core : CoreId} {s : State} (h : s.ok) : Out.ok (execCoreRetentionWake core s) :=
  h.focusCore.wakeCore.out

theorem State.ok.execHandlerEntry {core : CoreId} {g : GroupId} {s : State} (h : s.ok) : Out.ok (execHandlerEntry core g s) :=
  State.ok.out (h.focusCore.atGroup (fun _ h1 => h1.ite h1.settle))

theorem State.ok.execParityError {core : CoreId} {hit : ParityHit} {s : State} (h : s.ok) : Out.ok (execParityError core hit s) := by
  unfold Machine.execParityError
  refine State.ok.out ?_
  split
  · split
    · exact h.focusCore.focusTeam.killGrid
    · exact h.focusCore
  · exact h.focusCore.putAcc

theorem State.ok.countFixed {s : State} {d : Nat} (h : s.ok) : (s.countFixed d).ok := h.onDie

theorem Core.ok.badWord {c : Core} {k : Nat} (hc : c.ok) : (c.badWord k).ok := Core.ok.ite hc hc

theorem State.ok.execCoreStoreScrub {core : CoreId} {found : List WordError} {s : State} (h : s.ok) : Out.ok (execCoreStoreScrub core found s) :=
  State.ok.out (h.focusCore.foldl (fun _ _ h1 => h1.ite (h1.countFixed.ite (h1.onCore (fun _ h2 => h2.badWord)))))

theorem State.ok.sectorError {s : State} {e : SectorError} (h : s.ok) : (s.sectorError e).ok := by
  unfold State.sectorError
  refine h.countFixed.ite ?_
  split
  · exact h.setSector
  · exact h.onDie

theorem State.ok.execHbmScrub {found : List SectorError} {s : State} (h : s.ok) : Out.ok (execHbmScrub found s) :=
  State.ok.out (h.foldl (fun _ _ h1 => h1.sectorError))

end Sys2Proof.Machine

end

section
/-! SUPPORT. What every step keeps, for register blocks, the control port, management, fetch, regrouping and the units in progress. -/

namespace Sys2Proof.Machine

/-! ### Blocks: Writes to the register blocks of a die, judged against the access tables, and the loader -/

theorem Out.ok.stateOr {o : Out} {s : State} (ho : Out.ok o) (h : s.ok) : (o.stateOr s).ok := by
  unfold Out.stateOr
  split
  · exact ho
  · exact h

theorem State.ok.placeBytes {s : State} {ps : List LoadPage} {va : Nat} {bs : List Byte} (h : s.ok) : (s.placeBytes ps va bs).ok :=
  h.foldl (fun _ _ h1 => h1.foldl (fun _ _ h2 => h2.firmwareWrite))

theorem State.ok.loadSegs {s : State} {d a : Nat} {c : TransCtx} {n k : Nat} (h : s.ok) : (s.loadSegs d a c n k).2.ok := by
  induction n generalizing s k with
  | zero => exact h
  | succ n ih =>
    unfold State.loadSegs
    extract_lets _ _ _ bs dig _ _ _
    refine State.ok.iteSnd h ?_
    split
    · exact h
    · extract_lets s1 s2 s3
      have hs1 : s1.ok := h.placeBytes
      have hs2 : s2.ok := hs1.onDie
      have hs3 : s3.ok := hs2.foldl (fun _ _ h1 => h1.firmwareWrite)
      exact State.ok.iteSnd hs1 (State.ok.iteSnd hs1 (State.ok.iteSnd hs1 (ih hs3)))

theorem State.ok.loadImage {s : State} {d : Nat} (h : s.ok) : (s.loadImage d).2.ok := by
  unfold State.loadImage
  refine State.ok.iteSnd h ?_
  split
  · exact h
  · exact h.loadSegs

theorem State.ok.execLoaderGo {master die : Nat} {value : Word} {s : State} (h : s.ok) : Out.ok (execLoaderGo master die value s) :=
  (h.ite (h.onDie.onDie.refuse.ite h.onDie.onDie.send)).out

theorem State.ok.execLoaderDone {die : Nat} {s : State} (h : s.ok) : Out.ok (execLoaderDone die s) := (h.ite h.loadImage.onDie).out

theorem State.ok.clockWrite {s : State} {d off : Nat} {v : DWord} (h : s.ok) : (s.clockWrite d off v).ok := by
  unfold State.clockWrite
  dsimp only
  split
  · exact (h.execFwdcfgGo.stateOr h).ite h.onDie
  · exact h.onDie
  · exact h.execFwdcmdDone.stateOr h
  · exact h.execGtcrateWrite.stateOr h
  · exact h.execGtcslewWrite.stateOr h
  · exact h.execGtcstepWrite.stateOr h
  · exact h

theorem State.ok.tinvWrite {s : State} {d off : Nat} {v : DWord} (h : s.ok) : (s.tinvWrite d off v).ok := by
  unfold State.tinvWrite
  split
  · exact h.onDie
  · exact h.onDie
  · exact (h.execTinvGo.stateOr h).ite h.onDie
  · exact h

theorem State.ok.setHostRb {s : State} {d : Nat} {on : Bool} (h : s.ok) : (s.setHostRb d on).ok := h.onDie.startRebase.ite h.onDie

theorem State.ok.bureauWrite {s : State} {d off : Nat} {v : DWord} (h : s.ok) : (s.bureauWrite d off v).ok := by
  unfold State.bureauWrite
  split
  · exact h.setHostRb
  · exact h.execBrbcmdStart.stateOr h
  · exact h.onDie
  · exact h.onDie.ite ((h.execRplcmdClearDown.stateOr h).ite (h.execRplcmdTeardown.stateOr h))
  · exact h.onDie
  · exact h

theorem State.ok.dutyWrite {s : State} {d off : Nat} {v : DWord} (h : s.ok) : (s.dutyWrite d off v).ok := by
  unfold State.dutyWrite
  split
  · exact h.onDie
  · exact h.execPagereplyWrite.stateOr h
  · exact h.execPmreplyWrite.stateOr h
  · exact h.execScreplyWrite.stateOr h
  · exact h.onDie
  · exact (h.execPmreqResume.stateOr h).ite ((h.execPmreqGo.stateOr h).ite h.onDie)
  · exact h

theorem State.ok.loaderWrite {s : State} {m d off : Nat} {v : DWord} (h : s.ok) : (s.loaderWrite m d off v).ok := by
  unfold State.loaderWrite
  split
  · exact h.onDie
  · exact h.onDie
  · exact (h.execLoaderGo.stateOr h).ite h.onDie
  · exact h

theorem State.ok.watchWrite {s : State} {d off : Nat} {v : DWord} (h : s.ok) : (s.watchWrite d off v).ok :=
  h.ite (State.ok.focusGroup (State.ok.focusCore (h.focusCore.onCore (fun _ h1 => h1))))

theorem State.ok.regStore {s : State} {m d off : Nat} {v : DWord} (h : s.ok) : (s.regStore m d off v).ok := by
  unfold State.regStore
  split
  · exact h.clockWrite
  · exact h.tinvWrite
  · exact h.bureauWrite
  · exact h.dutyWrite
  · exact h.loaderWrite
  · exact h.onDie
  · exact h.watchWrite.ite (h.postOrWait.ite h)

theorem State.ok.regWrite {s : State} {m d off : Nat} {v : DWord} (h : s.ok) : (s.regWrite m d off v).2.ok :=
  State.ok.iteSnd h (State.ok.iteSnd h.regStore h.refuse)

theorem State.ok.regWriteBytes {s : State} {m d off : Nat} {bs : List Byte} (h : s.ok) : (s.regWriteBytes m d off bs).2.ok :=
  State.ok.iteSnd h.refuse (State.ok.foldlSnd h (fun _ _ h1 => h1.regWrite))

theorem State.ok.execAccessTableWrite {w : RegWrite} {s : State} (h : s.ok) : Out.ok (execAccessTableWrite w s) := h.regWriteBytes.out

theorem State.ok.execRegisterWrite {w : RegWrite} {s : State} (h : s.ok) : Out.ok (execRegisterWrite w s) := h.regWriteBytes.out

theorem State.ok.takeRegStores {s : State} (h : s.ok) : OptOk State.ok s.takeRegStores := by
  unfold State.takeRegStores
  dsimp only
  split
  · exact trivial
  · exact OptOk.map OptOk.any (fun _ _ => State.ok.sysAnswer (State.ok.regWriteBytes h))

/-! ### Control: Control transfers and structured control: BRA to EXIT, NOP and the ILL row -/

theorem State.ok.scatter {s : State} {gs : List (Nat × List Src × LaneGo)} (h : s.ok) : (s.scatter gs).ok :=
  State.ok.retire (State.ok.foldl (h.onGrp (fun _ h1 => h1.step.exit)) (fun _ _ h2 => (by
          split
          · exact h2.onGrp (fun _ h3 => h3.mapLanes)
          · exact h2.trapLane
          · exact h2)))

theorem State.ok.jump {s : State} {target : Nat} {rows : List Nat} {before : State → State} (h : s.ok) (hbefore : ∀ a0, a0.ok → (before a0).ok) :
    (s.jump target rows before).ok :=
  h.translated (fun _ h1 => (by
        dsimp only
        split
        · exact h1.trapLanes.retire
        · exact State.ok.retire ((hbefore _ h1).onGrp (fun _ h2 => h2.mapLanes))))

theorem State.ok.uniformTransfer {s : State} {f : BF} {rows : List Nat} {before : State → State} (h : s.ok) (hbefore : ∀ a0, a0.ok → (before a0).ok) :
    (s.uniformTransfer f rows before).ok :=
  h.next.ite (h.trapActive.ite ((h.jump hbefore).ite h.next))

theorem State.ok.execIll {detail : BitVec 8} {half : Bool} {s : State} (h : s.ok) : Out.ok (execIll detail half s) := h.trapActive.out

theorem State.ok.execNop {f : V3} {s : State} (h : s.ok) : Out.ok (execNop f s) := State.ok.out (h.frame (fun _ h1 => h1.next))

theorem State.ok.execBra {f : BF} {s : State} (h : s.ok) : Out.ok (execBra f s) :=
  State.ok.out (h.frame (fun _ h1 => State.ok.ite (h1.scatter.ite (h1.translated (fun _ h2 => h2.scatter))) (h1.uniformTransfer (fun _ h3 => h3))))

theorem State.ok.execCall {f : BF} {s : State} (h : s.ok) : Out.ok (execCall f s) :=
  State.ok.out (h.frame (fun _ h1 => h1.uniformTransfer (fun _ h2 => (by
            split
            · exact h2.writeVals
            · exact h2.writeS))))

theorem State.ok.goLink {s : State} {i : Instr} {f : BF} (h : s.ok) : (s.goLink i f).ok :=
  h.frame (fun _ h1 => h1.translated (fun _ h2 => h2.scatter))

theorem State.ok.execBrx {f : BF} {s : State} (h : s.ok) : Out.ok (execBrx f s) := h.goLink.out

theorem State.ok.execRet {f : BF} {s : State} (h : s.ok) : Out.ok (execRet f s) := h.goLink.out

theorem State.ok.nesting {s : State} {vals : Nat → List Src} {f : Nat → Nat → NestOut} (h : s.ok) : (s.nesting vals f).ok :=
  State.ok.retire (State.ok.onGrp (State.ok.foldl (h.onGrp (fun _ h1 => h1.mapLanes)) (fun _ _ h2 => (by
            split
            · exact h2.trapLane
            · exact h2))) (fun _ h3 => h3.step))

theorem State.ok.execIfc {f : BF} {s : State} (h : s.ok) : Out.ok (execIfc f s) := State.ok.out (h.frame (fun _ h1 => h1.nesting))

theorem State.ok.execElsec {f : BF} {s : State} (h : s.ok) : Out.ok (execElsec f s) := State.ok.out (h.frame (fun _ h1 => h1.nesting))

theorem State.ok.execEndif {f : BF} {s : State} (h : s.ok) : Out.ok (execEndif f s) := State.ok.out (h.frame (fun _ h1 => h1.nesting))

theorem State.ok.execLoop {f : BF} {s : State} (h : s.ok) : Out.ok (execLoop f s) := State.ok.out (h.frame (fun _ h1 => h1.nesting))

theorem State.ok.loopLeave {s : State} {f : BF} {n : Nat} (h : s.ok) : (s.loopLeave f n).ok := h.nesting

theorem State.ok.execBreakif {f : BF} {s : State} (h : s.ok) : Out.ok (execBreakif f s) := State.ok.out (h.frame (fun _ h1 => h1.loopLeave))

theorem State.ok.execContif {f : BF} {s : State} (h : s.ok) : Out.ok (execContif f s) := State.ok.out (h.frame (fun _ h1 => h1.loopLeave))

theorem State.ok.execEndloop {f : BF} {s : State} (h : s.ok) : Out.ok (execEndloop f s) :=
  State.ok.out (h.frame (fun _ h1 => State.ok.ite (h1.jump (fun _ h2 => h2.onGrp (fun _ h3 => h3.mapLanes))) h1.nesting))

theorem State.ok.execReconv {f : BF} {s : State} (h : s.ok) : Out.ok (execReconv f s) :=
  State.ok.out (h.frame (fun _ h1 => State.ok.retire (h1.onGrp (fun _ h2 => h2.mapLanes))))

theorem State.ok.execExit {f : BF} {s : State} (h : s.ok) : Out.ok (execExit f s) := State.ok.out (h.frame (fun _ h1 => h1.scatter))

/-! ### Mgmt: Window requests of the control port and the management controller -/

theorem State.ok.winReply {s : State} {m : WindowReq} {status old : Nat} {data : List Byte} (h : s.ok) : (s.winReply m status old data).ok :=
  h.sendUp

theorem State.ok.portSees {s : State} {line wts : Nat} (h : s.ok) : (s.portSees line wts).ok := State.ok.noteTick h

theorem State.ok.winReg {s : State} {k : WinKind} {m : WindowReq} {d off : Nat} (h : s.ok) : (s.winReg k m d off).ok := by
  unfold State.winReg
  split
  · exact (h.ite h.refuse).winReply
  · exact State.ok.winReply (State.ok.foldlSnd h (fun _ _ h1 => State.ok.iteSnd h1 h1.regWrite))
  · exact h.refuse.winReply

theorem State.ok.performWindow {s : State} {k : WinKind} {m : WindowReq} (h : s.ok) : (s.performWindow k m).ok := by
  unfold State.performWindow
  refine h.winReply.ite ?_
  split
  · exact h.winReg
  · refine h.refuse.winReply.ite ?_
    split
    · exact h.homeFor.portSees.winReply
    · exact h.winReply.ite h.engWrite.portSees.winReply
    · exact h.winReply.ite (h.portSees.winReply.ite h.engAtomic.portSees.winReply)

theorem State.ok.pumpWindow {s : State} (h : s.ok) : OptOk State.ok s.pumpWindow :=
  OptOk.bind OptOk.any (fun _ _ => OptOk.map OptOk.any (fun _ _ => State.ok.performWindow h))

theorem State.ok.arriveWindow {s : State} {k : WinKind} {m : WindowReq} (h : s.ok) : (s.arriveWindow k m).ok := h.performWindow.ite h

theorem State.ok.execWindowRead {m : WindowReq} {s : State} (h : s.ok) : Out.ok (execWindowRead m s) := h.arriveWindow.out

theorem State.ok.execWindowWrite {m : WindowReq} {s : State} (h : s.ok) : Out.ok (execWindowWrite m s) := h.arriveWindow.out

theorem State.ok.execWindowAtomicAdd {m : WindowReq} {s : State} (h : s.ok) : Out.ok (execWindowAtomicAdd m s) := h.arriveWindow.out

theorem State.ok.execWindowUpstreamReply {m : UpAns} {s : State} (h : s.ok) : Out.ok (execWindowUpstreamReply m s) := h.sysAnswer.out

theorem State.ok.execControlLaneLoss {lane : Nat} {s : State} (h : s.ok) : Out.ok (execControlLaneLoss lane s) := State.ok.out h

theorem State.ok.answer {s : State} {m : MgmtMsg} (h : s.ok) : (s.answer m).ok := h

theorem State.ok.execPldmBaseDiscovery {s : State} (h : s.ok) : Out.ok (execPldmBaseDiscovery s) := h.answer.out

theorem State.ok.execPldmSensorRead {sensor : Nat} {s : State} (h : s.ok) : Out.ok (execPldmSensorRead sensor s) :=
  (h.drawBits.answer.ite (h.answer.ite (h.answer.ite h.answer))).out

theorem State.ok.execPldmFirmwareUpdate {image : List Byte} {s : State} (h : s.ok) : Out.ok (execPldmFirmwareUpdate image s) :=
  State.ok.out (State.ok.ite (State.ok.answer (h.foldl (fun _ _ h1 => h1.onDie))) (State.ok.answer h))

theorem State.ok.execGetVersion {s : State} (h : s.ok) : Out.ok (execGetVersion s) := h.answer.out

theorem State.ok.execGetCapabilities {s : State} (h : s.ok) : Out.ok (execGetCapabilities s) := h.answer.out

theorem State.ok.execNegotiateAlgorithms {ecdsa sha : Nat} {s : State} (h : s.ok) : Out.ok (execNegotiateAlgorithms ecdsa sha s) := h.answer.out

theorem State.ok.execGetDigests {s : State} (h : s.ok) : Out.ok (execGetDigests s) := h.answer.out

theorem State.ok.execGetCertificate {s : State} (h : s.ok) : Out.ok (execGetCertificate s) := h.answer.out

theorem State.ok.execChallenge {nonce : List Byte} {s : State} (h : s.ok) : Out.ok (execChallenge nonce s) := h.answer.out

theorem State.ok.execGetMeasurements {index : Nat} {s : State} (h : s.ok) : Out.ok (execGetMeasurements index s) := h.answer.out

theorem State.ok.pumpPorts {s : State} (h : s.ok) : OptOk State.ok s.pumpPorts := OptOk.findSome (fun _ => h.pumpPort)

theorem State.ok.pumpWays {s : State} (h : s.ok) : OptOk State.ok s.pumpWays := OptOk.map OptOk.any (fun _ _ => h.askWay)

theorem State.ok.pumpWaits {s : State} (h : s.ok) : OptOk State.ok s.pumpWaits :=
  OptOk.map (OptOk.find h.allGroups) (fun _ _ => h.focusCore.atGroup (fun _ h2 => (by
            split
            · exact State.ok.settle (h2.onGrp (fun _ h3 => h3.retry))
            · exact h2.poll)))

theorem State.ok.waitingInput {s : State} (h : s.ok) : OptOk State.ok s.waitingInput := by
  unfold State.waitingInput
  split
  next e => exact h.takeRegStores.get e
  · split
    next e1 => exact h.pumpWindow.get e1
    · split
      next e2 => exact h.pumpPorts.get e2
      · split
        next e3 => exact h.pumpSem.get e3
        · split
          next e4 => exact h.pumpWaits.get e4
          · exact h.pumpWays

/-! ### Fetch: Issue arbitration, fetching a slot, which messages can be delivered, and what moves next -/

theorem State.ok.execIssueGrant {core : CoreId} {s : State} (h : s.ok) : Out.ok (execIssueGrant core s) := by
  unfold Machine.execIssueGrant
  refine State.ok.out ?_
  refine h.ite ?_
  extract_lets s1
  have hs1 : s1.ok := h.focusCore
  refine hs1.ite ?_
  split
  · exact hs1
  · extract_lets _ s3 old2 old3
    have hs3 : s3.ok := hs1.focusGroup
    have hold2 : old2.ok := hs3.core
    have hold3 : old3.ok := hs3.grp
    exact ⟨hs3.wf, hold2, hs3.team, hold3, hs3.cores, hs3.contexts⟩

theorem State.ok.fetch {s : State} (h : s.ok) : s.fetch.2.ok := by
  unfold State.fetch
  extract_lets _ _ _ s1
  have hs1 : s1.ok := State.ok.dropHeld (h.onGrp (fun _ h1 => h1))
  refine State.ok.iteSnd (h.translated (fun _ h3 => h3)) ?_
  split
  · exact hs1.trapLanes.retire
  · split
    · exact hs1.trapActive
    · exact hs1

theorem State.ok.issue {s : State} {c : CoreId} (h : s.ok) : (s.issue c).2.ok := by
  unfold State.issue
  dsimp only
  split
  · exact h.focusCore
  · exact h.focusCore.focusGroup.fetch

theorem State.ok.take {s : State} {k : Nat} (h : s.ok) : (s.take k).2.ok := h

theorem State.ok.default {s : State} (h : s.ok) : s.default.2.ok := by
  unfold State.default
  split
  · exact h.take
  · split
    · exact State.ok.iteSnd (State.ok.issue h) h
    · exact State.ok.tick h

theorem State.ok.scheduled {s : State} (h : s.ok) : s.scheduled.2.ok := by
  unfold State.scheduled
  split
  · exact State.ok.iteSnd (State.ok.take h) h
  · exact State.ok.iteSnd (State.ok.issue h) h
  · exact State.ok.tick h
  · exact h.default

theorem State.ok.pick {s : State} (h : s.ok) : s.pick.2.ok := by
  unfold State.pick
  split
  · exact h.take
  · split
    · exact h
    · split
      next e2 => exact h.waitingInput.get e2
      · exact h.scheduled

/-! ### Pair: Paired slots: the 44 half-ops and the instruction that issues two of them as one -/

theorem State.ok.execPairedSlot {x y : Half} {s : State} (h : s.ok) : Out.ok (execPairedSlot x y s) :=
  State.ok.out (h.frame (fun _ h1 => h1.commit))

/-! ### Regroup: REGROUP and REPACK: the arrival of lanes, joining, and the move of lanes among the groups of a role -/

theorem State.ok.arriveLanes {s : State} {regroup : Bool} {f : GF} (h : s.ok) : (s.arriveLanes regroup f).ok :=
  State.ok.retire (h.foldl (fun _ _ h1 => (by
          split
          · exact h1.trapLane
          · exact h1.onLane)))

theorem State.ok.rendezvous {s : State} {i : Instr} {regroup : Bool} {f : GF} (h : s.ok) : (s.rendezvous i regroup f).ok :=
  h.frame (fun _ h1 => State.ok.ite (h1.translated (fun _ h2 => h2.arriveLanes)) h1.arriveLanes)

theorem State.ok.execRegroup {f : GF} {s : State} (h : s.ok) : Out.ok (execRegroup f s) := h.rendezvous.out

theorem State.ok.execRepack {f : GF} {s : State} (h : s.ok) : Out.ok (execRepack f s) := h.rendezvous.out

theorem State.ok.copyUniform {s : State} {g : Group} (h : s.ok) : (s.copyUniform g).ok :=
  h.ite (State.ok.onCore (h.foldl (fun _ _ h1 => h1.setElem)) (fun _ h2 => h2))

theorem State.ok.receive {s : State} {first : Group} {v : Merged} {part : List Mover} (h : s.ok) : (s.receive first v part).ok :=
  State.ok.settle (h.writeLanes.copyUniform.onGrp (fun _ h1 => h1.mapLanes))

theorem State.ok.tryMeet {s : State} {role : Nat} (h : s.ok) : (s.tryMeet role).ok := by
  unfold State.tryMeet
  split
  · exact h
  · exact h.foldl (fun _ _ h1 => h1.atGroup (fun _ h2 => h2.receive))

theorem State.ok.execRegroupJoin {core : CoreId} {g : GroupId} {s : State} (h : s.ok) : Out.ok (execRegroupJoin core g s) :=
  State.ok.out (h.focusCore.atGroup (fun _ h1 => State.ok.ite (State.ok.tryMeet (h1.onGrp (fun _ h2 => h2))) h1))

/-! ### System: TRAP, BKPT, SYSCALL, ERET, IDEM and PROGRESS -/

theorem State.ok.trapUnlessReplay {s : State} {t : Trap} (h : s.ok) : (s.trapUnlessReplay t).ok :=
  State.ok.retire (h.trapLanes.onGrp (fun _ h1 => h1.step))

theorem State.ok.execTrap {f : SF} {s : State} (h : s.ok) : Out.ok (execTrap f s) := State.ok.out (h.frame (fun _ h1 => h1.trapUnlessReplay))

theorem State.ok.execBkpt {f : SF} {s : State} (h : s.ok) : Out.ok (execBkpt f s) := State.ok.out (h.frame (fun _ h1 => h1.trapUnlessReplay))

theorem State.ok.execSyscall {f : SF} {s : State} (h : s.ok) : Out.ok (execSyscall f s) :=
  State.ok.out (h.frame (fun _ h1 => State.ok.ite (h1.next.ite (State.ok.waitFor (State.ok.sendUp (h1.onGrp (fun _ h2 => h2.effect)))))
      (State.ok.trapUnlessReplay (h1.ite (h1.onGrp (fun _ h3 => h3.effect))))))

theorem State.ok.execEret {f : SF} {s : State} (h : s.ok) : Out.ok (execEret f s) :=
  State.ok.out (h.frame (fun _ h1 => State.ok.retire (h1.onGrp (fun _ h2 => h2.step.eret))))

theorem State.ok.execIdem {f : SF} {s : State} (h : s.ok) : Out.ok (execIdem f s) :=
  State.ok.out (h.frame (fun _ h1 => State.ok.next (h1.ite (h1.onGrp (fun _ h2 => Group.ok.ite (h2.ite h2) h2)))))

theorem State.ok.execProgress {f : SF} {s : State} (h : s.ok) : Out.ok (execProgress f s) :=
  State.ok.out (h.once (fun _ h1 _ => State.ok.next ⟨h1.wf, h1.core, h1.team, h1.grp, h1.cores, h1.contexts⟩))

/-! ### Texture: TEX and TEXQ on a cluster's texture unit -/

theorem State.ok.sample {s : State} {o : UnitOp} {d : TexDesc} {ts : List Tap} {code level : Nat} (h : s.ok) : (s.sample o d ts code level).ok := by
  unfold State.sample
  refine UnitGo.ok.ite h ?_
  split
  · exact trivial
  · exact trivial
  · exact h
  · exact h

theorem State.ok.fallBack {s : State} {o : UnitOp} {d : TexDesc} {u v : Frac} {n k : Nat} (h : s.ok) : (s.fallBack o d u v n k).ok := by
  induction n generalizing k with
  | zero => exact h
  | succ n ih =>
    unfold State.fallBack
    extract_lets ts
    split
    · trivial
    · exact h
    · exact h.sample
    · exact ih

theorem State.ok.texLane {s : State} {o : UnitOp} {bs : List Byte} {filter : Nat} {r : List (BitVec 64)} (h : s.ok) :
    (s.texLane o bs filter r).ok := by
  unfold State.texLane
  refine UnitGo.ok.ite h ?_
  split
  · exact trivial
  · exact h
  · exact h.sample
  · exact UnitGo.ok.ite h h.fallBack

theorem State.ok.texGo {s : State} {o : UnitOp} {filter : Nat} (h : s.ok) : (s.texGo o filter).ok := by
  unfold State.texGo
  dsimp only
  split
  · exact h.appendStep
  · exact h
  · exact h.texLane

theorem State.ok.execTex {f : GF} {s : State} (h : s.ok) : Out.ok (execTex f s) := h.unitLanes.out

theorem State.ok.execTexq {f : GF} {s : State} (h : s.ok) : Out.ok (execTexq f s) := h.unitLanes.out

/-! ### Traverse: The cluster BVH and its traversal: TRAV and TRAVNEXT -/

theorem State.ok.putQuery {s : State} {q : Query} (h : s.ok) : (s.putQuery q).ok := ⟨h.wf, h.core, h.team, h.grp, h.cores, h.contexts⟩

theorem State.ok.endQuery {s : State} {o : UnitOp} {q : Query} {bad : Bool} (h : s.ok) : (s.endQuery o q bad).ok := by
  unfold State.endQuery
  refine UnitGo.ok.ite ⟨h.wf, h.core, h.team, h.grp, h.cores, h.contexts⟩ ?_
  split <;> exact ⟨h.wf, h.core, h.team, h.grp, h.cores, h.contexts⟩

theorem State.ok.startQuery {s : State} {o : UnitOp} {any term : Bool} {r : List (BitVec 64)} (h : s.ok) : (s.startQuery o any term r).ok := by
  unfold State.startQuery
  split
  · exact h
  · exact UnitGo.ok.ite h (UnitGo.ok.ite h (h.endQuery.ite h.putQuery))

theorem State.ok.nextQuery {s : State} {o : UnitOp} {accept : Bool} {w : Nat} (h : s.ok) : (s.nextQuery o accept w).ok := by
  unfold State.nextQuery
  split
  · exact h
  · exact UnitGo.ok.ite h (UnitGo.ok.ite (h.endQuery.ite h.putQuery) h.putQuery)

theorem State.ok.goQuery {s : State} {o : UnitOp} {q : Query} (h : s.ok) : (s.goQuery o q).ok := by
  unfold State.goQuery
  split
  · exact h.endQuery
  · dsimp only
    split
    · exact trivial
    · exact trivial
    · exact h.endQuery
    · exact h.putQuery
    · exact h.putQuery

theorem State.ok.travGo {s : State} {o : UnitOp} (h : s.ok) : (s.travGo o).ok := by
  unfold State.travGo
  dsimp only
  split
  · exact h.appendStep
  · exact h.goQuery
  · exact h
  · split
    · exact h.startQuery
    · exact h.nextQuery
    · exact h

theorem State.ok.execTrav {f : GF} {s : State} (h : s.ok) : Out.ok (execTrav f s) := h.unitLanes.out

theorem State.ok.execTravnext {f : GF} {s : State} (h : s.ok) : Out.ok (execTravnext f s) := h.unitLanes.out

/-! ### Units: The event in which a graphics unit goes on and writes its pending rows -/

theorem State.ok.unitGo {s : State} {o : UnitOp} (h : s.ok) : (s.unitGo o).ok := by
  unfold State.unitGo
  split
  · exact h.travGo
  · exact h.travGo
  · exact h.texGo
  · exact h.texGo
  · exact h
  · exact h.bingetGo

theorem State.ok.unitRun {n : Nat} {s : State} {o : UnitOp} (h : s.ok) : (s.unitRun n o).ok := by
  induction n generalizing s o with
  | zero => exact State.ok.later h.onUnit
  | succ n ih =>
    unfold State.unitRun
    split
    next e => exact ih (State.ok.useLines (h.unitGo.more e))
    next e =>
      extract_lets s1
      have hs1 : s1.ok := State.ok.useLines (h.unitGo.done e)
      exact State.ok.ite (State.ok.later hs1.onUnit.requestRebase) hs1.landUnit
    · exact h.onUnit.askWalks
    · exact State.ok.later h.onUnit.askWay

theorem State.ok.execUnitResultWrite {core : CoreId} {op : Nat} {s : State} (h : s.ok) : Out.ok (execUnitResultWrite core op s) := by
  unfold Machine.execUnitResultWrite
  refine State.ok.out ?_
  split
  · exact h.focusCore
  · exact State.ok.ite (h.focusCore.onCore (fun _ h1 => h1)) (h.focusCore.atGroup (fun _ h2 => h2.unitRun))

end Sys2Proof.Machine

end

section
/-! PROOFS. Every step keeps the invariant: the instruction that the step runs, case by case. -/

namespace Sys2Proof.Machine

/-! ### Dispatch: The dispatch: one arm for each constructor of Instr -/

theorem State.ok.exec {i : Instr} {s : State} (h : s.ok) : Out.ok (exec i s) := by
  unfold Machine.exec
  split
  · exact h.execIll
  · exact h.execNop
  · exact h.execBra
  · exact h.execBrx
  · exact h.execCall
  · exact h.execRet
  · exact h.execIfc
  · exact h.execElsec
  · exact h.execEndif
  · exact h.execLoop
  · exact h.execBreakif
  · exact h.execContif
  · exact h.execEndloop
  · exact h.execReconv
  · exact h.execExit
  · exact h.execIadd
  · exact h.execIaddc
  · exact h.execIsub
  · exact h.execIneg
  · exact h.execIabs
  · exact h.execImul
  · exact h.execImulh
  · exact h.execImad
  · exact h.execImadw
  · exact h.execImin
  · exact h.execImax
  · exact h.execIcmp
  · exact h.execIdot4
  · exact h.execSel
  · exact h.execLea
  · exact h.execFadd
  · exact h.execFmul
  · exact h.execFfma
  · exact h.execFmin
  · exact h.execFmax
  · exact h.execFcmp
  · exact h.execFclass
  · exact h.execFrint
  · exact h.execFldexp
  · exact h.execFdot2
  · exact h.execFdivfix
  · exact h.execCvt
  · exact h.execCvtef
  · exact h.execMxpack
  · exact h.execMxunpack
  · exact h.execFrcp
  · exact h.execFrsq
  · exact h.execFsqrt
  · exact h.execFexp2
  · exact h.execFlog2
  · exact h.execFsin
  · exact h.execFcos
  · exact h.execFtanh
  · exact h.execAnd
  · exact h.execAndn
  · exact h.execOr
  · exact h.execOrn
  · exact h.execXor
  · exact h.execNot
  · exact h.execShl
  · exact h.execShr
  · exact h.execShra
  · exact h.execRotl
  · exact h.execBfe
  · exact h.execBfi
  · exact h.execBrev
  · exact h.execClz
  · exact h.execFfs
  · exact h.execPopc
  · exact h.execMovi
  · exact h.execIaddVi
  · exact h.execIsubVi
  · exact h.execImulVi
  · exact h.execImadVi
  · exact h.execIminVi
  · exact h.execImaxVi
  · exact h.execIcmpVi
  · exact h.execAndVi
  · exact h.execOrVi
  · exact h.execXorVi
  · exact h.execFaddVi
  · exact h.execFmulVi
  · exact h.execFfmaVi
  · exact h.execFcmpVi
  · exact h.execMov
  · exact h.execShfl
  · exact h.execVote
  · exact h.execBallot
  · exact h.execMatchl
  · exact h.execReduce
  · exact h.execScan
  · exact h.execLanerd
  · exact h.execLanewr
  · exact h.execRand
  · exact h.execSalu
  · exact h.execScmp
  · exact h.execSsel
  · exact h.execSmov
  · exact h.execLd
  · exact h.execSt
  · exact h.execLdu
  · exact h.execLdl
  · exact h.execStl
  · exact h.execLdp
  · exact h.execStp
  · exact h.execAtom
  · exact h.execAtoml
  · exact h.execAtomp
  · exact h.execPref
  · exact h.execRenew
  · exact h.execExpire
  · exact h.execFlush
  · exact h.execSpill
  · exact h.execFill
  · exact h.execXcpy
  · exact h.execXgather
  · exact h.execXscatter
  · exact h.execXreduce
  · exact h.execXfill
  · exact h.execXpeer
  · exact h.execXcancel
  · exact h.execTiledef
  · exact h.execTilerel
  · exact h.execTileq
  · exact h.execPsend
  · exact h.execPrecv
  · exact h.execBarinit
  · exact h.execBararv
  · exact h.execBarwait
  · exact h.execBartest
  · exact h.execBartx
  · exact h.execWaitcnt
  · exact h.execFence
  · exact h.execClkadv
  · exact h.execSpinhint
  · exact h.execSleep
  · exact h.execWaitt
  · exact h.execSemsig
  · exact h.execSemwait
  · exact h.execMovsp
  · exact h.execSetsp
  · exact h.execMma
  · exact h.execAcczero
  · exact h.execAccload
  · exact h.execAccdrain
  · exact h.execMmawait
  · exact h.execMmab
  · exact h.execRast
  · exact h.execBinput
  · exact h.execBinget
  · exact h.execTrav
  · exact h.execTravnext
  · exact h.execRegroup
  · exact h.execRepack
  · exact h.execTex
  · exact h.execTexq
  · exact h.execLaunch
  · exact h.execTrap
  · exact h.execSyscall
  · exact h.execBkpt
  · exact h.execEret
  · exact h.execIdem
  · exact h.execProgress
  · exact h.execPairedSlot
  · exact h.execRouteEntryTaken
  · exact h.execParentClockLoss
  · exact h.execRerootParentAssign
  · exact h.execRateWordSwitch
  · exact h.execGtcstepApply
  · exact h.execWaittDeadline
  · exact h.execLaunchStartTime
  · exact h.execIdleTick
  · exact h.execIssueGrant
  · exact h.execTeamEnd
  · exact h.execGridEnd
  · exact h.execRegroupJoin
  · exact h.execBenchContribution
  · exact h.execRetryResend
  · exact h.execWalkComplete
  · exact h.execPageServiceResolve
  · exact h.execTinvDone
  · exact h.execRead
  · exact h.execRenewq
  · exact h.execDataMsg
  · exact h.execExtend
  · exact h.execCpbk
  · exact h.execCpbkack
  · exact h.execAtomq
  · exact h.execAtoma
  · exact h.execDrop
  · exact h.execDropack
  · exact h.execHold
  · exact h.execHoldack
  · exact h.execRecall
  · exact h.execYield
  · exact h.execUnhold
  · exact h.execPrep
  · exact h.execPrepack
  · exact h.execCommit
  · exact h.execCommitack
  · exact h.execAccept
  · exact h.execApply
  · exact h.execRetry
  · exact h.execRebaseStart
  · exact h.execSweepDone
  · exact h.execArrive
  · exact h.execArriveReply
  · exact h.execBarwaitReply
  · exact h.execLeave
  · exact h.execCopyComplete
  · exact h.execPacketArrive
  · exact h.execMmaStart
  · exact h.execMacroOpComplete
  · exact h.execBinnerPacketArrive
  · exact h.execBinnerCloseArrive
  · exact h.execUnitResultWrite
  · exact h.execFragmentStart
  · exact h.execLaunchRequest
  · exact h.execLaunchLeadRequest
  · exact h.execLaunchReply
  · exact h.execQueueDepart
  · exact h.execLaunchDistribute
  · exact h.execSemaphoreNotice
  · exact h.execTeamPlacement
  · exact h.execStartMessage
  · exact h.execPreemptDecision
  · exact h.execDrainBudgetExpiry
  · exact h.execQuiesceDeadline
  · exact h.execSaveCapture
  · exact h.execContextTransferDone
  · exact h.execRestore
  · exact h.execPeerAccessArrive
  · exact h.execPeerAccessReply
  · exact h.execXpeerWriteArrive
  · exact h.execSemwaitReadReply
  · exact h.execSemwaitTimeout
  · exact h.execSleepDone
  · exact h.execLoaderDone
  · exact h.execRouteEntryWrite
  · exact h.execRouterLinkFailure
  · exact h.execRouteRebuildDone
  · exact h.execUndeliverableResponse
  · exact h.execMeshFlitCrcError
  · exact h.execPanelMapUpdate
  · exact State.ok.execPowerOn
  · exact h.execFwdcfgGo
  · exact h.execPllLock
  · exact h.execPllLockTimeout
  · exact h.execRerootResume
  · exact h.execFwdcmdDone
  · exact h.execGtcrateWrite
  · exact h.execGtcslewWrite
  · exact h.execSlewComplete
  · exact h.execGtcstepWrite
  · exact h.execPtpFrameReceive
  · exact h.execAnnounceTimeout
  · exact h.execHandlerEntry
  · exact h.execParityError
  · exact h.execCoreStoreScrub
  · exact h.execHbmScrub
  · exact h.execPagereplyWrite
  · exact h.execTinvGo
  · exact h.execBrbcmdStart
  · exact h.execCoreRetentionWake
  · exact h.execRplcmdTeardown
  · exact h.execRplcmdClearDown
  · exact h.execControlMessage
  · exact h.execDispatchFailover
  · exact h.execPmreqGo
  · exact h.execPmreqResume
  · exact h.execPmreplyWrite
  · exact h.execScreplyWrite
  · exact h.execWindowRead
  · exact h.execWindowWrite
  · exact h.execWindowAtomicAdd
  · exact h.execWindowUpstreamReply
  · exact h.execControlLaneLoss
  · exact h.execPqpostWrite
  · exact h.execPeerCopyData
  · exact h.execPeerCopyEnd
  · exact h.execPeerSemaphoreAdd
  · exact h.execPeerAcknowledgement
  · exact h.execPeerRefusal
  · exact h.execPeerResendTimeout
  · exact h.execPldmBaseDiscovery
  · exact h.execPldmSensorRead
  · exact h.execPldmFirmwareUpdate
  · exact h.execGetVersion
  · exact h.execGetCapabilities
  · exact h.execNegotiateAlgorithms
  · exact h.execGetDigests
  · exact h.execGetCertificate
  · exact h.execChallenge
  · exact h.execGetMeasurements
  · exact h.execLoaderGo
  · exact h.execAccessTableWrite
  · exact h.execRegisterWrite
  · exact h.execExternalReferenceChange
  · exact h.execPtpMessageTransmit
  · exact h.execPeerPortLinkUp
  · exact h.execPeerFrameDiscard
  · exact h.execDieMapOut
  · exact h.execCoreRetentionEntry

/-! ### Step: One step of the machine, and the state whose next step runs a given instruction -/

theorem State.ok.step {s : State} (h : s.ok) : Out.ok (step s) := by
  unfold Machine.step
  split
  next e => exact (h.pick.snd e).exec
  next e => exact (h.pick.snd e).out

/-- Settles O57: each function of the model that makes a state keeps the invariant, so the instruction that a step picks does. -/
theorem stepKeepsInvariant : Obligations.StepKeepsInvariant :=
  fun _ _ h e => Out.ok.state h.step e

end Sys2Proof.Machine

end
